-- ==== Sys2Proof/Word.lean ====
section
/-! DEFINITION. The word types of the Imram Brosta engine module and the type of a sparse map. -/

namespace Sys2Proof

/-- A byte of engine memory or of a frame. -/
abbrev Byte := BitVec 8

/-- A register of a page: 32 bits (R6). -/
abbrev Word := BitVec 32

/-- The value of a 64-bit register pair, of a counter or of a memory word (R6, R132). -/
abbrev DWord := BitVec 64

/-- The internal accumulator format A40 (R35): sign [39], exponent [38:31], fraction [30:0]. -/
abbrev A40 := BitVec 40

/-- A sparse map from keys to values: strictly rising keys, no entry equal to the default that an
unlisted key reads as (the operations are in Machine/SMap.lean). -/
abbrev SMap (α : Type) := List (Nat × α)

/-- A compute die by its logical index `8y + x` (R15). -/
abbrev Die := Fin 64

/-- A quarter of a die (R17), and an arcade of a quarter. -/
abbrev Qtr := Fin 4

/-- A logical stall of a die, `16q + 4a + s` (R17). -/
abbrev Stl := Fin 64

/-- A physical stall slot of a die (Table 1.3). -/
abbrev Slot := Fin 72

end Sys2Proof
end

