-- ==== Sys2Proof/Syntax.lean ====
section
/-! DEFINITION. The commands of the engine module: one constructor of `Instr` per row of the
operation table, with the operands a step needs to be a whole one. Operands that report what the
environment does (a measured value, an error on a lane, a received frame) are named so in the
constructor's comment. -/

namespace Sys2Proof

/-- The PASS command word, field by field (Table 3.1); `res` holds the reserved bits
[127:112], [95], [79], [63], [47:44] and [31] in that order. -/
structure PassWord where
  tag      : BitVec 16
  wbAddr   : BitVec 15
  preAddr  : BitVec 15
  aAddr    : BitVec 15
  kpM1     : BitVec 10
  sumId    : BitVec 2
  sumStart : Bool
  psum     : Bool        -- END: false HOLD, true PSUM
  preload  : BitVec 2
  acc      : Fin 2
  aAxis    : Bool
  wAxis    : Bool
  wKind    : Byte
  aKind    : Byte
  res      : BitVec 24
  deriving DecidableEq, Repr

/-- DRAIN (Table 8.5). -/
structure DrainWord where
  tile : Fin 2
  slot : Fin 64
  deriving DecidableEq, Repr

/-- LOADW (Table 8.5). -/
structure LoadwWord where
  tiles : BitVec 11
  kind  : Byte
  addr  : BitVec 15
  deriving DecidableEq, Repr

/-- MARK_POST and MARK_WAIT (Table 8.5). -/
structure MarkWord where
  countM1 : Byte
  mark    : BitVec 12
  deriving DecidableEq, Repr

/-- REARM (Table 8.5). -/
structure RearmWord where
  countM1 : BitVec 10
  first   : BitVec 10
  deriving DecidableEq, Repr

/-- BELL_WAIT (Table 8.5). -/
structure BellWord where
  dstAddr : BitVec 15
  srcAddr : BitVec 15
  point   : Byte
  op      : BitVec 2     -- 0 BARRIER, 1 SUM
  group   : BitVec 2     -- 0 engine, 1 die, 2 quarter, 3 arcade
  deriving DecidableEq, Repr

/-- BASKET_PUT (Table 8.5). -/
structure PutWord where
  kind   : Byte
  addr   : BitVec 48
  tiles  : BitVec 16
  last   : Bool
  basket : BitVec 16
  deriving DecidableEq, Repr

/-- What a physical fault leaves in one array cell before a check (environment): row and column
0 to 64, and the value the cell then shows. -/
structure CellErr where
  row : Fin 65
  col : Fin 65
  val : A40
  deriving DecidableEq, Repr

/-- The headers around a UDP datagram in an arriving IPv6 packet (R282): the addresses and ports, whether an
extension header stands before UDP, and the UDP checksum as sent. -/
structure PacketHdr where
  srcIp  : BitVec 128
  dstIp  : BitVec 128
  extHdr : Bool
  udpSrc : BitVec 16
  udpDst : BitVec 16
  csum   : BitVec 16
  deriving DecidableEq, Repr

/-- An arriving IPv6 packet: its headers and the bytes of the datagram's payload. -/
structure Packet extends PacketHdr where
  udp : List Byte
  deriving DecidableEq, Repr

/-- OPEN body (Table 12.3). -/
structure OpenBody where
  senderFlow : BitVec 16
  senderGen  : Byte
  initSeq    : Word
  limit      : DWord
  deriving DecidableEq, Repr

/-- CLOSE body (Table 12.3). -/
structure CloseBody where
  reason   : Byte
  finalSeq : Word
  sent     : DWord
  limit    : DWord
  deriving DecidableEq, Repr

/-- REFUSE body (Table 12.3). -/
structure RefuseBody where
  reason  : Byte
  retryUs : Word
  deriving DecidableEq, Repr

/-- NACK body (Table 12.3). -/
structure NackBody where
  reason   : Byte
  fetchTag : BitVec 16
  ranges   : List (Word × Word)
  deriving DecidableEq, Repr

/-- WEIGHT body (Table 10.2). -/
structure WeightBody where
  version   : Word
  fetchTag  : BitVec 16
  keyId     : BitVec 16
  encLength : Word
  data      : List Byte
  tag       : List Byte
  deriving DecidableEq, Repr

/-- Which bundle a commit event belongs to: a context of R313 or a program bundle of R322. -/
inductive BndRef where
  | ctx (c : Fin 6)
  | prog (n : Fin 4096)
  deriving DecidableEq, Repr

/-- A ledger (Table 13.5): class and index within the class. -/
structure LedgerRef where
  cls : Fin 8
  idx : Fin 1024
  deriving DecidableEq, Repr

/-- The scrubber's walks (R142, R144). -/
inductive Walk where
  | dram | sram | burst
  deriving DecidableEq, Repr

/-- A wale: orthogonal edge 0-111, or cross edge 0-97 as 112 + edge (Table 1.4). -/
abbrev WaleIx := Fin 210

/-- A direction of a wale: `false` A to B, `true` B to A (R348). -/
abbrev Dir := Bool

/-- A firmware or microcode image offered to the keeper (R421, R446): what the verification of its
signature and its header give (environment: `sigOk`). -/
structure FwImage where
  version : Word
  svn     : Byte
  raise   : Bool
  sigOk   : Bool
  deriving DecidableEq, Repr

/-- A signed engine work report as it reaches the meter (Table 18.2); `sigOk` is the result of
verifying its signature (environment), `sig` the signature's bytes. -/
structure WorkReport where
  snapSeq      : Word
  leid         : BitVec 20
  workTotal    : DWord
  ballastTotal : DWord
  workRem      : Word
  ballastRem   : Word
  imageId      : DWord
  serial       : DWord
  uptimeMs     : DWord
  phase        : Byte
  pstate       : Byte
  sigOk        : Bool
  sig          : List Byte
  deriving DecidableEq, Repr

/-- The meter's status message (R442). -/
structure MeterStatus where
  selfTestOk : Bool
  noFault    : Bool
  holdupOk   : Bool
  certOk     : Bool      -- the keeper's verification of the record-key chain
  sealed     : Bool
  fw         : Word
  interval   : BitVec 16
  deriving DecidableEq, Repr

/-- The commands: one constructor per row of the operation table, in the table's order. -/
inductive Instr where
  -- host register accesses (BAR0 byte offset, length, data)
  | loRead (addr : BitVec 26) (len : Fin 9)
  | hiWrite (addr : BitVec 26) (len : Fin 9) (data : Word)
  | loWrite (addr : BitVec 26) (len : Fin 9) (data : Word)
  | w1cWrite (addr : BitVec 26) (len : Fin 9) (data : Word) (engineSets : Word)
  | rcRead (addr : BitVec 26) (len : Fin 9)
  | rsWrite (addr : BitVec 26) (len : Fin 9) (data : Word)
  | registerWrite (addr : BitVec 26) (len : Fin 9) (data : Word)
  | ledgerSampleRead (addr : BitVec 26) (len : Fin 9)
  -- the stall and its arcade
  | pass (d : Die) (l : Stl) (w : PassWord)
  | preloadDone (d : Die) (l : Stl) (t : Fin 2)
  | passRunEnd (d : Die) (l : Stl) (t : Fin 2)
  | steelyardCheck (d : Die) (l : Stl) (t : Fin 2) (err : List CellErr)
  | styWindowExpiry (d : Die) (l : Stl)
  | replayedPassCheck (d : Die) (l : Stl) (t : Fin 2) (err : List CellErr)
  | broadcastStart (d : Die) (q a : Qtr) (b : Fin 2)
  | bankFull (d : Die) (q a : Qtr) (b : Fin 2)
  | tileWindowOpen (d : Die) (q a : Qtr) (b : Fin 2) (priv : Option (Fin 4))
  | tileWindowClose (d : Die) (q a : Qtr) (b : Fin 2) (priv : Option (Fin 4))
  | bcastSlotRelease (d : Die) (q a : Qtr) (n : Nat)
  | writebackStart (d : Die) (l : Stl) (t : Fin 2)
  | writebackDone (d : Die) (l : Stl) (t : Fin 2)
  | drain (d : Die) (l : Stl) (w : DrainWord)
  | drainStart (d : Die) (l : Stl)
  | drainDone (d : Die) (l : Stl)
  | loadw (d : Die) (l : Stl) (w : LoadwWord)
  | privateRecordLoaded (d : Die) (l : Stl) (b : Fin 2)
  | markPost (d : Die) (l : Stl) (w : MarkWord)
  | markWait (d : Die) (l : Stl) (w : MarkWord)
  | rearm (d : Die) (l : Stl) (w : RearmWord)
  | bundleOpen (d : Die) (l : Stl) (n : Fin 4096)
  | bundleClose (d : Die) (l : Stl) (n : Fin 4096)
  | bellWait (d : Die) (l : Stl) (w : BellWord)
  | basketPut (d : Die) (l : Stl) (w : PutWord)
  | ballast (d : Die) (l : Stl) (cycles : Word)
  | halt (d : Die) (l : Stl) (restart : Bool)
  | dutyHoldExpiry (d : Die) (l : Stl)
  | dutyStepDown (d : Die) (l : Stl)
  | dutyStepUp (d : Die) (l : Stl)
  -- streams and rounds
  | transferIssue (d : Die) (u : Fin 73) (st : Fin 256)
  | transferComplete (d : Die) (u : Fin 73) (st : Fin 256) (t : Nat)
  | roundItemTake (d : Die) (c : Qtr)
  | roundItemArrival (d : Die) (c : Qtr)
  | roundItemForward (d : Die) (c : Qtr)
  | roundRelease (d : Die) (c : Qtr)
  | roundCredit (d : Die) (c : Qtr)
  -- programs
  | checkGo
  | imageCheckDone (found : Die)
  | abort
  | load
  | run
  | budgetExpiry (d : Die) (l : Stl)
  | breachStamp
  | replayResume
  | stepBarrier
  | programHalted
  -- weight streaming
  | fetchSend (d : Die) (e : Fin 32)
  | weightFrame (p : Die) (h : PacketHdr) (udp : List Byte)
  | arriveUsExpiry (d : Die) (e : Fin 32)
  | keyErase (d : Die) (mask : BitVec 16)
  | keyEraseApply (d : Die)
  -- reduction
  | dieReady (d : Die) (b : Fin 128)
  | readyStamp (d : Die) (b : Fin 128) (lateness : Nat)
  | deadlineExpiry (b : Fin 128)
  | includedReceive (d : Die) (b : Fin 128)
  | chunkLevelStart (d : Die) (k : Fin 6) (b : Fin 128)
  | chunkLevelDone (d : Die) (k : Fin 6) (b : Fin 128)
  | engineStageDone (b : Fin 128)
  | levelSatWindow (d : Die)
  -- Sloub
  | nonSloubPacket (p : Die)
  | neighborSolicitation (p : Die) (target : BitVec 128)
  | pauseFrame (p : Die)
  | openRequestFrame (p : Die) (h : PacketHdr) (udp : List Byte)
  | openAcceptFrame (p : Die) (h : PacketHdr) (udp : List Byte)
  | closeFrame (p : Die) (h : PacketHdr) (udp : List Byte)
  | refuseFrame (p : Die) (h : PacketHdr) (udp : List Byte)
  | nackFrame (p : Die) (h : PacketHdr) (udp : List Byte)
  | creditFrame (p : Die) (h : PacketHdr) (udp : List Byte)
  | frameEgress (p : Die) (f : Fin 1024)
  | openReq (p : Die) (f : Fin 1024)
  | slotEligible (p : Die) (f : Fin 1024)
  | closeReq (p : Die) (f : Fin 1024)
  | purge
  | rtoExpiry (p : Die) (f : Fin 1024)
  | ackDelayExpiry (p : Die) (f : Fin 1024)
  | writeOffExpiry (p : Die) (f : Fin 1024)
  | shutterCreditTick (p : Die)
  | linkDown (p : Die)
  | linkUp (p : Die)
  | portHoldExpiry (p : Die)
  -- bundles and ledgers (participant 64 is the slath, for engine-level pages)
  | bndOpen (engine : Bool)
  | bndCommit (engine : Bool)
  | bndAbort (engine : Bool)
  | bundlePrepare (r : BndRef) (p : Fin 65)
  | blockHoldReady (r : BndRef) (p : Fin 65) (page : Fin 16384)
  | bundleReady (r : BndRef) (p : Fin 65)
  | bundleNak (r : BndRef) (p : Fin 65)
  | bundleApply (r : BndRef) (p : Fin 65)
  | bundleAbortReceive (r : BndRef) (p : Fin 65)
  | commitWindowExpiry (r : BndRef)
  | ledgerCheck (d : Die) (l : LedgerRef)
  -- faults and recovery
  | heartbeat (answers : DWord)
  | selfTestDone (d : Die) (slot : Slot) (ok : Bool)
  | remapReq
  | dieOutSet (d : Die)
  | dieReadmit (d : Die)
  | portMoveClear (p : Die)
  | flitResendFail (w : WaleIx) (dir : Dir) (g : Fin 32)
  | retrainDone (w : WaleIx) (dir : Dir) (g : Fin 32)
  | laneError (w : WaleIx) (dir : Dir) (g : Fin 32) (lane : Fin 33)
  | laneWindowExpiry (w : WaleIx) (dir : Dir) (g : Fin 32) (lane : Fin 33)
  | laneSwapDone (w : WaleIx) (dir : Dir) (g : Fin 32)
  | waleRelayDone
  | quarterRailShort (d : Die) (q : Qtr)
  | spineRailShort (d : Die)
  | prsntNRelease
  | prsntNAssert
  -- power, clocks, temperature (measured values are operands)
  | vinOutOfRange (mv : BitVec 16)
  | vinRecover (mv : BitVec 16)
  | vinLoss
  | capWindowEnd (avgW : BitVec 16) (mv da : BitVec 16)
  | stepLower
  | capdownAssert
  | capdownRelease
  | capdownGroupStep
  | slewInterval (avgDa : BitVec 16)
  | shutterReqNChange (asserted : Bool)
  | shutter
  | wake
  | shutterEntry
  | shutterWaitExpiry
  | shutterWake
  | wakeComplete (late : DWord)
  | tempSample (d : Die) (q : Qtr) (qc : BitVec 10)
  | thermalTrip (d : Die) (q : Qtr)
  | ceilingStep
  | dramTempThreshold (d : Die) (c : Byte)
  | tripRearm (d : Die) (q : Qtr)
  | quarterStartDone (d : Die) (q : Qtr)
  -- memory
  | scrubWalkStep (d : Die) (w : Walk)
  | scrubRewrite (d : Die)
  | scrubNow (d : Die)
  | ceWindowExpiry (page : Fin 16384)
  | apertureRead (off : BitVec 36) (len : Nat)
  | apertureWrite (off : BitVec 36) (data : List Byte)
  -- switching blocks, endpoint
  | ctlWrite (page : Fin 16384) (data : Word)
  | blockDrainDone (page : Fin 16384)
  | blockStartDone (page : Fin 16384)
  | endpointReset (linkLost : Bool)
  -- bring-up and management
  | powerApplied (ga : BitVec 6) (prsnt : Bool) (bankA bankB : Bool)
  | dieBootDone (d : Die) (ucodeOk : Bool) (layersOk : BitVec 4)
  | bootTimeout (d : Die)
  | gaSample (ga : BitVec 6)
  | leidCommit
  | keeperShutter
  | keeperWake
  | cap (w : BitVec 16)
  | keeperDrain
  | identify (secs : Byte)
  | adoptLeid (leid : BitVec 20) (hall : BitVec 2) (row rack : BitVec 6)
  | adoptTimeExpiry
  | healthRecordRefresh
  | healthRecordRequest
  | readHealth
  | mailboxIdentify
  | readLog (index : BitVec 16)
  | readRepair (index : BitVec 16)
  | mailboxDone
  | pldmFwUpdate (ucode : Bool) (img : FwImage)
  | activateFirmware
  | getSensorReading (sensor : Fin 7)
  | getVersion
  | getCapabilities
  | negotiateAlgorithms
  | getDigests
  | getCertificate (slot : Byte)
  | challenge (nonce : List Byte)
  | getMeasurements (index : Byte) (nonce : List Byte)
  | keyRequest (nonce : List Byte) (keyId : BitVec 16) (slot : Fin 16) (mask : DWord)
  | keyDeliver (offer : Word) (ct wrapped : List Byte)
  | offerLapse (offer : Word)
  -- the Akell meter
  | meterSample (mv da : BitVec 16) (mj : Nat)
  | meterWindowEnd
  | snap
  | workReport (r : WorkReport)
  | reportTimeout
  | earlyClose
  | final
  | finalTimeout
  | recordStored
  | meterStatus (m : MeterStatus)
  | meterStatusTimeout
  | meterPrsntChange (present : Bool)
  | sealOpened
  | readStatus
  | readRecord (seq : DWord)
  | readCert (index : Byte)
  | setInterval (secs : BitVec 16)
  | updateFw (img : FwImage)
  | identifyIndicatorExpiry
  | pcieLinkUp
  | powerStateChange (d3hot : Bool)
  deriving DecidableEq, Repr

end Sys2Proof
end

