-- ==== Sys2Proof/Config.lean ====
section
/-! DEFINITION. What the specification leaves open or fixes at manufacture, as constants without a
body: nothing can be proved about their values, so a claim holds whatever they are. Each names the
assumption-log entry that explains it. -/

namespace Sys2Proof.Config

/-! ### Free values (assumption 24) -/

/-- A value the specification does not fix, one for each use: `State.free` numbers the uses. -/
opaque freeValue : Nat → DWord

/-- Which of two codes a log-domain rounding takes within 2^-16 of a midpoint (R45): from the
magnitude, the number of codes per octave, and the draw (assumption 11). -/
opaque logRoundUp : Nat → Int → Nat → Nat → Bool

/-- The BCH syndrome of a read (LAST_SYNDROME): from the word's number and its bits in error
(assumption 10). -/
opaque syndrome : Nat → Nat → BitVec 16

/-- What a read of a word with four or more bits in error gives (R134 makes no promise): the number
of bits the decoder believes wrong (0, 1, 2, or more for a detected error) (assumption 10). -/
opaque decodeWild : Nat → Nat → Nat

/-- The data a miscorrected word then shows (assumption 10). -/
opaque wildData : Nat → Nat → DWord → DWord

/-- SHAPE functions that the specification gives to within an error bound only, by function code of
Table 5.5: an A40 code to an A40 code (assumption 12). -/
opaque shapeFn : BitVec 8 → A40 → A40

/-- The derivative that DERIVE forms where Table 5.5 gives only a bound: function code, whether the
operand is the saved input, and the operand (assumption 12). -/
opaque deriveFn : BitVec 8 → Bool → A40 → A40

/-- How far a feeder's linear A40 sum lies from the exact sum, in units of the lowest bit among its
terms: the order of its additions is not stated (R59, R64) (assumption 13). It acts within what
rounding can do (`feederSum`). -/
opaque feederError : List A40 → Int

/-- A feeder's sum of terms of both signs where a partial sum may leave the range of A40 on the way, and
whether one saturated (assumption 13). -/
opaque feederWild : List A40 → A40 × Bool

/-- The COUNT that a statistics slot takes from a merged record whose word of COUNT and kind is poisoned
(assumption 26). -/
opaque poisonCount : DWord → Word

/-! ### Cryptography, as uninterpreted functions (assumption 14) -/

/-- AES-256-GCM (R231): whether a tag authenticates a ciphertext under a key, an initialisation vector and
the additional data, all as bytes. -/
opaque gcmOk : BitVec 256 → List Byte → List Byte → List Byte → List Byte → Bool

/-- Byte `i` of the plaintext that AES-256-GCM gives for a key, an initialisation vector and a ciphertext. -/
opaque gcmPlain : BitVec 256 → List Byte → List Byte → Nat → Byte

/-- The 64-byte SHAKE256 output of a byte string (R446, R447). -/
opaque shake256 : List Byte → List Byte

/-- The signature of the module's attestation key, of the meter's record key or of the keeper's
report key, by a number for the key. -/
opaque sign : Nat → List Byte → List Byte

/-- The shared secret of a key offer and a server's answer, opened to a key (R449): offer number,
ciphertext and wrapped key; none where it does not open. -/
opaque unwrapKey : Word → List Byte → List Byte → Option (BitVec 256)

/-- The encapsulation key of an offer. -/
opaque offerKey : Word → List Byte

/-! ### Fixed at manufacture (assumption 7) -/

/-- VARIANT: whether the module is an IB-6442-WS. -/
opaque variantWS : Bool
/-- The module's serial number (SERIAL). -/
opaque serial : DWord
/-- HW_REV: slath and die revisions. -/
opaque slathRev : Byte
opaque dieRev : Byte
/-- The meter cassette's serial number. -/
opaque meterSerial : DWord
/-- Public keys shown in the SECURITY page, by register. -/
opaque identPub : Nat → Word
opaque attPub : Nat → Word
/-- The certificate chains, by slot or index. -/
opaque certificate : Nat → List Byte
/-- Firmware present at manufacture: version and SVN of a bank (0, 1 keeper; 2, 3 microcode). -/
opaque fwVersion : Nat → Word
opaque fwSvn : Nat → Byte
/-- The SVN fuses at manufacture. -/
opaque svnFuse : Byte
/-- The 64-byte SHAKE256 output over the keeper ROM (measurement 1). -/
opaque romDigest : List Byte
/-- The 64-byte SHAKE256 output over a firmware image, by component (false keeper firmware, true
microcode), version and SVN (measurements 2 and 3). -/
opaque fwDigest : Bool → Word → Byte → List Byte
/-- The meter's record public key (measurement 4), and the calibration record identifier. -/
opaque meterPub : List Byte
opaque calId : Word
/-- Records closed and energy counted by the meter since its manufacture, before the model starts. -/
opaque meterSeq0 : DWord
opaque meterEnergy0 : Nat

end Sys2Proof.Config
end

