-- ==== Sys2Proof/Machine/Operands.lean ====
section
/-! DEFINITION. Number formats, products and roundings (R25-R53): the exact value of a code, the
A40 format, the array's products, conversion to stored formats, and the stall's random draws. -/

namespace Sys2Proof.Machine

/-- What a code stands for: INVALID, zero, or `(-1)^neg * m * 2^e` with `m > 0`. -/
inductive Val where
  | invalid
  | zero
  | num (neg : Bool) (m : Nat) (e : Int)
  deriving DecidableEq, Repr

/-! ### Exact arithmetic -/

/-- The signed integer of a value at exponent `e` (a lower bound of its exponent). -/
def Val.scaled (v : Val) (e : Int) : Int :=
  match v with
  | .num s m x => if s then -(m * 2 ^ (x - e).toNat : Nat) else (m * 2 ^ (x - e).toNat : Nat)
  | _ => 0

/-- The exponent of a value (a large one for zero, so that a minimum ignores it). -/
def Val.expo (v : Val) : Int := match v with | .num _ _ e => e | _ => 1000000

/-- The value of a signed integer at exponent `e`. -/
def Val.ofInt (i : Int) (e : Int) : Val :=
  if i = 0 then .zero else .num (decide (i < 0)) i.natAbs e

/-- The exact sum; INVALID if either is (R42, R84). -/
def Val.add (a b : Val) : Val :=
  match a, b with
  | .invalid, _ => .invalid
  | _, .invalid => .invalid
  | .zero, _ => b
  | _, .zero => a
  | _, _ =>
    let e := min a.expo b.expo
    Val.ofInt (a.scaled e + b.scaled e) e

/-- The value with its sign changed. -/
def Val.neg (a : Val) : Val :=
  match a with | .num s m e => .num (!s) m e | v => v

/-- The magnitude. -/
def Val.abs (a : Val) : Val :=
  match a with | .num _ m e => .num false m e | v => v

/-- The exact product: INVALID first, then zero (R42). -/
def Val.mul (a b : Val) : Val :=
  match a, b with
  | .invalid, _ => .invalid
  | _, .invalid => .invalid
  | .zero, _ => .zero
  | _, .zero => .zero
  | .num s m e, .num t n f => .num (s ^^ t) (m * n) (e + f)

/-- The value times 2^k. -/
def Val.shift (a : Val) (k : Int) : Val :=
  match a with | .num s m e => .num s m (e + k) | v => v

/-- Whether `a < b` for finite values (false where either is INVALID). -/
def Val.lt (a b : Val) : Bool :=
  match a, b with
  | .invalid, _ => false
  | _, .invalid => false
  | _, _ =>
    let e := min a.expo b.expo
    decide (a.scaled e < b.scaled e)

/-- The exact sum of a list. -/
def Val.sum (l : List Val) : Val := l.foldl Val.add .zero

/-- Position of the leading bit of a magnitude: floor of log2 of the value. -/
def Val.lead (a : Val) : Int :=
  match a with | .num _ m e => e + (Nat.log2 m : Nat) | _ => 0

/-! ### Rounding of a significand -/

/-- `m * 2^e` rounded to `p` bits of significand, unbounded exponent, ties to even (R47). -/
def rne (p : Nat) (m : Nat) (e : Int) : Nat × Int :=
  let len := Nat.log2 m + 1
  if len ≤ p then (m * 2 ^ (p - len), e - (p - len : Nat))
  else
    let sh := len - p
    let q := m / 2 ^ sh
    let r := m % 2 ^ sh
    let half := 2 ^ (sh - 1)
    let q' := if r > half || (r == half && q % 2 == 1) then q + 1 else q
    if q' = 2 ^ p then (2 ^ (p - 1), e + sh + 1) else (q', e + sh)

/-- The same with a stochastic draw: up where the fraction plus `(2 rnd + 1)/512` reaches 1 (R48). -/
def stochastic (p rnd : Nat) (m : Nat) (e : Int) : Nat × Int :=
  let len := Nat.log2 m + 1
  if len ≤ p then (m * 2 ^ (p - len), e - (p - len : Nat))
  else
    let sh := len - p
    let q := m / 2 ^ sh
    let r := m % 2 ^ sh
    let q' := if r * 512 + (2 * rnd + 1) * 2 ^ sh ≥ 512 * 2 ^ sh then q + 1 else q
    if q' = 2 ^ p then (2 ^ (p - 1), e + sh + 1) else (q', e + sh)

/-- The rounding of a site: to nearest even, or stochastic with a draw (R43). -/
def roundSig (rnd : Option Nat) (p : Nat) (m : Nat) (e : Int) : Nat × Int :=
  match rnd with | none => rne p m e | some r => stochastic p r m e

/-- Rounding to a whole multiple of 2^x, for subnormals and fixed places. -/
def roundPlace (rnd : Option Nat) (x : Int) (m : Nat) (e : Int) : Nat :=
  if x ≤ e then m * 2 ^ (e - x).toNat
  else
    let sh := (x - e).toNat
    let q := m / 2 ^ sh
    let r := m % 2 ^ sh
    match rnd with
    | none =>
      let half := 2 ^ (sh - 1)
      if r > half || (r == half && q % 2 == 1) then q + 1 else q
    | some d => if r * 512 + (2 * d + 1) * 2 ^ sh ≥ 512 * 2 ^ sh then q + 1 else q

/-! ### A40 (R35-R37) -/

/-- The A40 code of zero. -/
def a40Zero : A40 := 0
/-- An A40 code that is INVALID. -/
def a40Invalid : A40 := 0x7F80000000

/-- What an A40 code stands for (R35). -/
def a40Val (c : A40) : Val :=
  let ex := (c.extractLsb' 31 8).toNat
  if ex = 0 then .zero
  else if ex = 255 then .invalid
  else .num c.msb (2 ^ 31 + (c.extractLsb' 0 31).toNat) ((ex : Int) - 158)

/-- Build an A40 code from sign, exponent and fraction. -/
def a40Code (s : Bool) (ex f : Nat) : A40 :=
  BitVec.ofNat 40 ((if s then 2 ^ 39 else 0) + ex * 2 ^ 31 + f)

/-- Round to A40 (R37): the code, and whether it saturated. -/
def a40Of (v : Val) : A40 × Bool :=
  match v with
  | .invalid => (a40Invalid, false)
  | .zero => (a40Zero, false)
  | .num s m e =>
    let (q, x) := rne 32 m e
    let ex := x + 158
    if ex > 254 then (a40Code s 254 (2 ^ 31 - 1), true)
    else if ex < 1 then (a40Zero, false)
    else (a40Code s ex.toNat (q - 2 ^ 31), false)

/-- A40 sum, rounded once (R85). -/
def a40Add (a b : A40) : A40 × Bool := a40Of ((a40Val a).add (a40Val b))
/-- A40 product, rounded once. -/
def a40Mul (a b : A40) : A40 × Bool := a40Of ((a40Val a).mul (a40Val b))
/-- The magnitude of an A40 code. -/
def a40Abs (a : A40) : A40 := (a40Of (a40Val a).abs).1

/-- A linear A40 sum whose order of additions is not stated (R59, R64, R72), and whether it saturated:
INVALID with an INVALID term; exact where no partial sum can round or flush to zero; else the exact sum and
an error that the roundings and flushes of the partial sums bound, at the largest magnitude with SAT above
it (R37); free only where terms of both signs are so large that a partial sum may leave the range of A40
and come back (assumption 13). -/
def feederSum (l : List A40) : A40 × Bool :=
  let vs := l.map a40Val
  if vs.any (· == .invalid) then (a40Invalid, false)
  else
    let e := (vs.filter (· != .zero)).foldl (fun x v => min x v.expo) 200
    let ns := vs.map (·.scaled e)
    let abs := ns.foldl (fun n i => n + i.natAbs) 0
    let all := ns.foldl (fun n i => n ||| i.natAbs) 0
    let low := all - (all &&& (all - 1))
    let round := if abs / low < 2 ^ 32 then 0 else l.length * 2 ^ (Nat.log2 abs - 31) / low
    let flush := if e < -126 then l.length * 2 ^ (-126 - e).toNat / low else 0
    let bound := round + flush
    let up := ns.foldl (fun n i => n + i.toNat) 0
    let side := max up (abs - up)
    if abs = 0 then (a40Zero, false)
    else if decide (0 < up ∧ up < abs) && decide ((128 : Int) ≤ e + Nat.log2 (side + bound * low)) then
      Config.feederWild l
    else
      let sum := ns.foldl (· + ·) 0
      let err := max (-(bound : Int)) (min bound (Config.feederError l))
      a40Of (Val.ofInt (sum + err * low) e)

/-! ### Element kinds (R26, R27) -/

/-- The formats of Table 2.2 that are stored. -/
inductive Fmt where
  | l8 | l16 | e4m3 | e5m2 | bf16 | s32
  deriving DecidableEq, Repr

/-- FMT of an element kind byte; none for a reserved code. -/
def kindFmt (k : Byte) : Option Fmt :=
  match (k.extractLsb' 0 4).toNat with
  | 0 => some .l8 | 1 => some .l16 | 2 => some .e4m3 | 3 => some .e5m2 | 4 => some .bf16
  | 5 => some .s32 | _ => none

/-- SCALED of a kind byte. -/
def kindScaled (k : Byte) : Bool := k.getLsbD 4
/-- SCALE_AXIS of a kind byte: false rows, true columns. -/
def kindAxis (k : Byte) : Bool := k.getLsbD 5

/-- Element size in bytes (R128). -/
def fmtBytes (f : Fmt) : Nat :=
  match f with | .l8 | .e4m3 | .e5m2 => 1 | .l16 | .bf16 => 2 | .s32 => 4

/-- A kind byte that R27 and Table 2.2 allow. -/
def kindOk (k : Byte) : Bool :=
  (k.extractLsb' 6 2 == 0) &&
  match kindFmt k with
  | none => false
  | some .bf16 | some .s32 => !kindScaled k
  | some _ => true

/-- Bytes of an element of a kind; 1 where the format is reserved. -/
def kindBytes (k : Byte) : Nat := match kindFmt k with | some f => fmtBytes f | none => 1

/-- Bytes of a tile of a kind, with its scale tile (R128, R129). -/
def recordBytes (k : Byte) : Nat := 4096 * kindBytes k + (if kindScaled k then 64 else 0)

/-! ### Reading codes (R29-R34) -/

/-- Table 2.6 with 24 fraction bits (R39). -/
def t8 : List Nat :=
  [16777216, 18295684, 19951585, 21757357, 23726566, 25874004, 28215802, 30769550]
/-- C[j] = 2^(j/16) with 24 fraction bits (R40). -/
def tabC : List Nat :=
  [16777216, 17520007, 18295684, 19105703, 19951585, 20834917, 21757357, 22720638, 23726566,
   24777031, 25874004, 27019544, 28215802, 29465022, 30769550, 32131834]
/-- D[k] = 2^(k/256) with 24 fraction bits (R40). -/
def tabD : List Nat :=
  [16777216, 16822704, 16868315, 16914049, 16959908, 17005891, 17051999, 17098231, 17144589,
   17191073, 17237683, 17284419, 17331282, 17378271, 17425389, 17472634]

/-- 2^(t/8) by the table of R39. -/
def pow8 (s : Bool) (t : Int) : Val := .num s (t8.getD (t % 8).toNat 0) (t / 8 - 24)

/-- 2^(t/256) by the tables of R40: the product of two entries rounded to 22 fraction bits. -/
def pow256 (s : Bool) (t : Int) : Val :=
  let g := (t % 256).toNat
  let p := tabC.getD (g / 16) 0 * tabD.getD (g % 16) 0
  .num s (roundPlace none 26 p 0) (t / 256 - 22)

/-- A log element: sign and its code on the L16 scale or the L8 scale. -/
inductive LogEl where
  | invalid | zero
  | code (neg : Bool) (e : Int)
  deriving DecidableEq, Repr

/-- An L8 code (R29). -/
def l8El (c : Byte) : LogEl :=
  let e := (c.extractLsb' 0 7).toNat
  if e = 0 then (if c.msb then .invalid else .zero) else .code c.msb e

/-- An L16 code (R30). -/
def l16El (c : BitVec 16) : LogEl :=
  let e := (c.extractLsb' 0 15).toNat
  if e = 0 then (if c.msb then .invalid else .zero) else .code c.msb e

/-- A floating-point code with `eb` exponent bits, `fb` fraction bits and its bias; `sub` says that
subnormals are read at their value (FP8), otherwise as zero; `inf` that the top exponent is
reserved whole, otherwise only with an all-ones fraction (R33, R34, Table 2.4). -/
def fpVal (eb fb bias : Nat) (sub inf : Bool) (c : Nat) : Val :=
  let f := c % 2 ^ fb
  let e := c / 2 ^ fb % 2 ^ eb
  let s := c / 2 ^ (fb + eb) % 2 == 1
  if e = 2 ^ eb - 1 && (inf || f == 2 ^ fb - 1) then .invalid
  else if e = 0 then
    if f = 0 || !sub then .zero else .num s f (1 - (bias : Int) - fb)
  else .num s (2 ^ fb + f) ((e : Int) - bias - fb)

/-! 2^(g/256) with 31 fraction bits, to nearest (R105): the A40 significand of a log code. -/

def exp2Part0 : List Nat :=
  [2147483648, 2153306067, 2159144272, 2164998306, 2170868212, 2176754033, 2182655811, 2188573592,
   2194507417, 2200457330, 2206423375, 2212405596, 2218404036, 2224418739, 2230449750, 2236497113,
   2242560872, 2248641071, 2254737756, 2260850970, 2266980759, 2273127167, 2279290240, 2285470023,
   2291666561, 2297879899, 2304110083, 2310357160, 2316621173, 2322902170, 2329200197, 2335515300,
   2341847524, 2348196917, 2354563524, 2360947394, 2367348571, 2373767105, 2380203040, 2386656425,
   2393127307, 2399615734, 2406121752, 2412645410, 2419186755, 2425745836, 2432322700, 2438917396,
   2445529972, 2452160476, 2458808958, 2465475465, 2472160047, 2478862753, 2485583632, 2492322733,
   2499080105, 2505855799, 2512649863, 2519462348, 2526293303, 2533142779, 2540010826, 2546897494]
def exp2Part1 : List Nat :=
  [2553802834, 2560726895, 2567669730, 2574631389, 2581611923, 2588611383, 2595629821, 2602667287,
   2609723834, 2616799513, 2623894376, 2631008476, 2638141863, 2645294591, 2652466713, 2659658279,
   2666869345, 2674099961, 2681350181, 2688620059, 2695909648, 2703219000, 2710548171, 2717897212,
   2725266179, 2732655125, 2740064105, 2747493172, 2754942382, 2762411789, 2769901447, 2777411411,
   2784941738, 2792492481, 2800063696, 2807655439, 2815267765, 2822900730, 2830554390, 2838228802,
   2845924021, 2853640104, 2861377107, 2869135087, 2876914102, 2884714207, 2892535461, 2900377920,
   2908241642, 2916126685, 2924033107, 2931960965, 2939910317, 2947881223, 2955873740, 2963887926,
   2971923842, 2979981545, 2988061094, 2996162550, 3004285971, 3012431416, 3020598946, 3028788621]
def exp2Part2 : List Nat :=
  [3037000500, 3045234644, 3053491112, 3061769967, 3070071267, 3078395075, 3086741451, 3095110456,
   3103502151, 3111916599, 3120353861, 3128813999, 3137297074, 3145803149, 3154332287, 3162884549,
   3171459999, 3180058700, 3188680714, 3197326104, 3205994934, 3214687269, 3223403170, 3232142703,
   3240905930, 3249692918, 3258503729, 3267338429, 3276197082, 3285079754, 3293986508, 3302917412,
   3311872529, 3320851927, 3329855670, 3338883824, 3347936457, 3357013633, 3366115421, 3375241885,
   3384393094, 3393569115, 3402770014, 3411995860, 3421246719, 3430522660, 3439823750, 3449150059,
   3458501653, 3467878602, 3477280975, 3486708840, 3496162267, 3505641324, 3515146082, 3524676610,
   3534232978, 3543815256, 3553423514, 3563057822, 3572718252, 3582404874, 3592117759, 3601856978]
def exp2Part3 : List Nat :=
  [3611622603, 3621414705, 3631233356, 3641078629, 3650950594, 3660849326, 3670774895, 3680727376,
   3690706840, 3700713361, 3710747013, 3720807869, 3730896002, 3741011488, 3751154399, 3761324810,
   3771522796, 3781748432, 3792001792, 3802282952, 3812591987, 3822928972, 3833293984, 3843687099,
   3854108391, 3864557939, 3875035819, 3885542107, 3896076880, 3906640216, 3917232192, 3927852886,
   3938502376, 3949180739, 3959888054, 3970624400, 3981389855, 3992184498, 4003008408, 4013861665,
   4024744348, 4035656537, 4046598312, 4057569753, 4068570940, 4079601955, 4090662878, 4101753790,
   4112874773, 4124025908, 4135207276, 4146418961, 4157661043, 4168933606, 4180236731, 4191570503,
   4202935003, 4214330316, 4225756525, 4237213713, 4248701965, 4260221365, 4271771996, 4283353945]

/-- The 256 significands. -/
def exp2Tab : List Nat := exp2Part0 ++ exp2Part1 ++ exp2Part2 ++ exp2Part3

/-- 2^(t/256) rounded to A40's significand. -/
def exp2A40 (s : Bool) (t : Int) : Val :=
  .num s (exp2Tab.getD (t % 256).toNat 0) (t / 256 - 31)

/-- The value of a stored element and its scale as it enters A40: exact for FP8, BF16 and S32, to
nearest for the log formats (R105; an L8 code is the L16 code of R30). -/
def elemVal (f : Fmt) (c : Nat) (b : Int) : Val :=
  match f with
  | .l8 => match l8El (BitVec.ofNat 8 c) with
    | .invalid => .invalid | .zero => .zero | .code s e => exp2A40 s (32 * (e - 64) + 256 * b)
  | .l16 => match l16El (BitVec.ofNat 16 c) with
    | .invalid => .invalid | .zero => .zero | .code s e => exp2A40 s (e - 16384 + 256 * b)
  | .e4m3 => (fpVal 4 3 7 true false c).shift b
  | .e5m2 => (fpVal 5 2 15 true true c).shift b
  | .bf16 => fpVal 8 7 127 false true c
  | .s32 => fpVal 8 23 127 false true c

/-- The value of an S32 code (R34). -/
def s32Val (w : Word) : Val := elemVal .s32 w.toNat 0

/-! ### Products (R38-R42) -/

/-- The row groups d of a pairing (R57) and its L8-equivalents per MAC (Table 2.5); none for a pair
that Table 2.5 does not list. -/
def pairing (a w : Fmt) : Option (Nat × Nat) :=
  match a, w with
  | .l8, .l8 => some (1, 1)
  | .l8, .l16 | .l16, .l8 | .l16, .l16 => some (2, 2)
  | .e4m3, .e4m3 | .e4m3, .e5m2 | .e5m2, .e4m3 | .e5m2, .e5m2 => some (2, 2)
  | .bf16, .bf16 => some (4, 4)
  | _, _ => none

/-- An L8 element as the L16 element of equal value (R30). -/
def l8To16 (x : LogEl) : LogEl :=
  match x with | .code s e => .code s (32 * (e - 64) + 16384) | y => y

/-- A log product: INVALID, then zero, then the table method (R39, R40, R42). -/
def logProd (wide : Bool) (x y : LogEl) (b : Int) : Val :=
  match x, y with
  | .invalid, _ => .invalid
  | _, .invalid => .invalid
  | .zero, _ => .zero
  | _, .zero => .zero
  | .code s e, .code t f =>
    if wide then pow256 (s ^^ t) (e + f - 32768 + 256 * b) else pow8 (s ^^ t) (e + f - 128 + 8 * b)

/-- An array operand: format, code, scale; `none` for an INVALID element (a poisoned word, R135). -/
abbrev Elem := Option (Nat × Int)

/-- The product of an activation and a weight (R39-R42), not yet rounded to A40. -/
def product (fa fw : Fmt) (a w : Elem) : Val :=
  match a, w with
  | none, _ => .invalid
  | _, none => .invalid
  | some (ca, ba), some (cw, bw) =>
    match fa, fw with
    | .l8, .l8 => logProd false (l8El (BitVec.ofNat 8 ca)) (l8El (BitVec.ofNat 8 cw)) (ba + bw)
    | .l8, .l16 =>
      logProd true (l8To16 (l8El (BitVec.ofNat 8 ca))) (l16El (BitVec.ofNat 16 cw)) (ba + bw)
    | .l16, .l8 =>
      logProd true (l16El (BitVec.ofNat 16 ca)) (l8To16 (l8El (BitVec.ofNat 8 cw))) (ba + bw)
    | .l16, .l16 =>
      logProd true (l16El (BitVec.ofNat 16 ca)) (l16El (BitVec.ofNat 16 cw)) (ba + bw)
    | _, _ => (elemVal fa ca ba).mul (elemVal fw cw bw)

/-- The value of an operand by itself as it enters A40, for the feeders' linear sums and the chain
(R59, R64, R105), and whether it saturated there (R37). -/
def elemA40 (f : Fmt) (x : Elem) : A40 × Bool :=
  match x with | none => (a40Invalid, false) | some (c, b) => a40Of (elemVal f c b)

/-! ### Writing codes (R44-R48) -/

/-- The code INVALID is written as (R44). -/
def invalidCode (f : Fmt) : Nat :=
  match f with
  | .l8 => 0x80 | .l16 => 0x8000 | .e4m3 => 0x7F | .e5m2 => 0x7E | .bf16 => 0x7FC0
  | .s32 => 0x7FC00000

/-- A floating-point encoding with `eb`, `fb`, bias, greatest finite code and subnormals (R44): the
code without sign, and whether it saturated. -/
def fpEncode (rnd : Option Nat) (eb fb bias top : Nat) (sub : Bool) (m : Nat) (e : Int) :
    Nat × Bool :=
  let (q, x) := roundSig rnd (fb + 1) m e
  let ex := x + fb + bias
  if ex ≥ 1 then
    let c := ex.toNat * 2 ^ fb + (q - 2 ^ fb)
    if ex ≥ (2 ^ eb : Nat) || c > top then (top, true) else (c, false)
  else if sub then (roundPlace rnd (1 - (bias : Int) - fb) m e, false)
  else (0, false)

/-- Fraction bits that log2 is formed to here, to place `v` against the band of R45. -/
def logBits : Nat := 96

/-- `floor(2^n * log2 y)` of a mantissa `y = m / 2^192` in [1, 2), bit by bit by repeated squaring; the
squarings' errors stay below its last bit but for the carry of that bit. -/
def logFrac (n m : Nat) : Nat :=
  match n with
  | 0 => 0
  | k + 1 =>
    let s := m * m / 2 ^ 192
    if s ≥ 2 ^ 193 then 2 ^ k + logFrac k (s / 2) else logFrac k s

/-- `log2 |x|` in units of 2^-96. -/
def log2Fix (m : Nat) (e : Int) : Int :=
  let l := Nat.log2 m
  let y := if l ≤ 192 then m * 2 ^ (192 - l) else m / 2 ^ (l - 192)
  (e + l) * (2 ^ logBits : Nat) + logFrac logBits y

/-- A log-domain encoding (R45, R48): codes per octave N, code of 1.0, top code. Closer than 2^-16 of a
code step to a midpoint (to the point where `v + u` reaches a whole number, for a stochastic draw) the
neighbour is a free choice; elsewhere the rule fixes the code (assumption 11). -/
def logEncode (rnd : Option Nat) (n z top : Nat) (b : Int) (m : Nat) (e : Int) : Nat × Bool :=
  let one : Int := (2 ^ logBits : Nat)
  let v := n * (log2Fix m e - b * one) + z * one
  let off := match rnd with | none => one / 2 | some r => (2 * r + 1) * (one / 512)
  let band : Int := one / 65536 - 1
  let lo := (v + off - band) / one
  let hi := (v + off + band) / one
  let c := if lo = hi then lo
    else if Config.logRoundUp m (e - b) n (match rnd with | none => 0 | some r => r + 1) then hi
    else lo
  if c < 1 then (0, false) else if c > top then (top, true) else (c.toNat, false)

/-- The code of a value in a stored format with block scale `b`, and whether SAT is set (R44, R45). -/
def encode (f : Fmt) (b : Int) (rnd : Option Nat) (v : Val) : Nat × Bool :=
  match v with
  | .invalid => (invalidCode f, false)
  | .zero => (0, false)
  | .num s m e =>
    let (c, sat) := match f with
      | .l8 => logEncode rnd 8 64 127 b m e
      | .l16 => logEncode rnd 256 16384 32767 b m e
      | .e4m3 => fpEncode rnd 4 3 7 0x7E true m (e - b)
      | .e5m2 => fpEncode rnd 5 2 15 0x7B true m (e - b)
      | .bf16 => fpEncode rnd 8 7 127 0x7F7F false m e
      | .s32 => fpEncode rnd 8 23 127 0x7F7FFFFF false m e
    (if c = 0 then 0 else if s then c + 2 ^ (8 * fmtBytes f - 1) else c, sat)

/-- The S32 code of a value, rounded to nearest even (R37's S32 counterpart for the reductions) or
stochastically, and SAT. -/
def s32Of (rnd : Option Nat) (v : Val) : Word × Bool :=
  let (c, sat) := encode .s32 0 rnd v
  (BitVec.ofNat 32 c, sat)

/-- S32 sum, rounded to nearest even. -/
def s32Add (a b : Word) : Word × Bool := s32Of none ((s32Val a).add (s32Val b))

/-- Ceiling of log2 of a positive natural number. -/
def ceilLog2 (n : Nat) : Nat := if 2 ^ Nat.log2 n = n then Nat.log2 n else Nat.log2 n + 1

/-- The scale R46 computes for a vector of A40 values: the least B with `m <= 2^B * M`, clamped. -/
def blockScale (f : Fmt) (l : List Val) : Int :=
  let mx := l.foldl (fun a v => match v with | .num _ _ _ => if a.lt v.abs then v.abs else a | _ => a)
    Val.zero
  match mx with
  | .num _ m e =>
    let raw : Int := match f with
      | .l8 => -(((63 : Int) - 8 * e - (ceilLog2 (m ^ 8) : Nat)) / 8)
      | .l16 => -(((16383 : Int) - 256 * e - (ceilLog2 (m ^ 256) : Nat)) / 256)
      | .e4m3 => (e - 38) + (ceilLog2 ((m * 2 ^ 32 + 6) / 7) : Nat)
      | .e5m2 => (e - 45) + (ceilLog2 ((m * 2 ^ 32 + 6) / 7) : Nat)
      | _ => 0
    max (-128) (min 127 raw)
  | _ => 0

/-! ### Draws (R48-R50) -/

/-- The draw of a stall's generator for a site and a lane (R49). -/
def draw (seed n : DWord) (site lane : Nat) : Nat :=
  let x := seed + ((n * 2 + BitVec.ofNat 64 site) * 8 + BitVec.ofNat 64 (lane / 8)) *
    0x9E3779B97F4A7C15
  let z := (x ^^^ (x >>> 30)) * 0xBF58476D1CE4E5B9
  let z := (z ^^^ (z >>> 27)) * 0x94D049BB133111EB
  let z := z ^^^ (z >>> 31)
  ((z >>> (8 * (lane % 8))) &&& 0xFF).toNat

end Sys2Proof.Machine
end

