-- ==== Sys2Proof/Machine/RegTable.lean ====
section
/-! DEFINITION. The register tables of the pages: for each block type, the registers above the
common header with their access masks (Table 0.5) and reset values, as the tables of the chapters
give them. A row stands for `count` registers at `off`, `off + stride`, ... -/

namespace Sys2Proof.Machine

/-- Block types (Tables 16.2 and 16.3). -/
inductive PageKind where
  | engineId | summary | bundle | ledger | power | clocks | thermal | shutter
  | bell | address | program | security | meterMirror | mailbox | spareMap | aperture
  | reduce | sloubPort | flows | wale | xwale | dieCtl | dieHealth | dieBundle
  | dieLedger | mesh | streams | round | collect | dram | scrub | portLink
  | decrypt | ingest | quarter | qbuf | stall
  deriving DecidableEq, Repr

/-- A register row. `ro`, `rw`, `rs`, `w1c`, `wo` and `rc` are the bits of each access code; bits in
none are reserved. `pair`: the register is the LO of a 64-bit pair with its HI at the next offset
(R6). -/
structure RegRow where
  off    : Nat
  stride : Nat
  count  : Nat
  ro     : Word
  rw     : Word
  rs     : Word
  w1c    : Word
  wo     : Word
  rc     : Word
  reset  : Word
  pair   : Bool
  deriving DecidableEq, Repr

/-- The common header (Table 16.4). -/
def rowsHeader : List RegRow :=
  [⟨0, 0, 1, 0xFFFFFFFF, 0, 0, 0, 0, 0, 0, false⟩,
   ⟨0x4, 0, 1, 0xFFFF, 0, 0, 0, 0, 0, 0x100, false⟩,
   ⟨0x8, 0, 1, 0, 0x7, 0, 0, 0, 0, 0x1, false⟩,
   ⟨0xC, 0, 1, 0x10F, 0, 0, 0, 0, 0, 0, false⟩,
   ⟨0x10, 0, 1, 0xFFFF0000, 0, 0, 0x7FE, 0, 0, 0, false⟩,
   ⟨0x14, 0, 1, 0xFFFF, 0, 0, 0, 0, 0, 0, false⟩,
   ⟨0x18, 0, 1, 0xFFFFFFFF, 0, 0, 0, 0, 0, 0, false⟩,
   ⟨0x1C, 0, 1, 0x1FFF, 0, 0, 0, 0, 0, 0, false⟩,
   ⟨0x20, 0, 1, 0x707, 0, 0, 0, 0, 0, 0, false⟩,
   ⟨0x24, 0, 1, 0x8000FFFF, 0, 0, 0, 0, 0, 0, false⟩,
   ⟨0x28, 0, 1, 0xFFFFFFFF, 0, 0, 0, 0, 0, 0, true⟩,
   ⟨0x2C, 0, 1, 0xFFFFFFFF, 0, 0, 0, 0, 0, 0, false⟩,
   ⟨0x30, 0, 1, 0xFFFFFFFF, 0, 0, 0, 0, 0, 0, true⟩,
   ⟨0x34, 0, 1, 0xFFFFFFFF, 0, 0, 0, 0, 0, 0, false⟩,
   ⟨0x38, 0, 1, 0xFFFFFFFF, 0, 0, 0, 0, 0, 0, true⟩,
   ⟨0x3C, 0, 1, 0xFFFFFFFF, 0, 0, 0, 0, 0, 0, false⟩]

/-- Registers of the ENGINE ID page. -/
def rowsEngineId : List RegRow :=
  [⟨0x40, 0, 1, 0xFFFFFF, 0, 0, 0, 0, 0, 0x6442, false⟩,
   ⟨0x44, 0, 1, 0xFFFFFFFF, 0, 0, 0, 0, 0, 0, true⟩,
   ⟨0x48, 0, 1, 0xFFFFFFFF, 0, 0, 0, 0, 0, 0, false⟩,
   ⟨0x4C, 0, 1, 0xFFFF, 0, 0, 0, 0, 0, 0, false⟩,
   ⟨0x50, 0, 1, 0xFFFFFFFF, 0, 0, 0, 0, 0, 0, false⟩,
   ⟨0x54, 0, 1, 0xFFFFFFFF, 0, 0, 0, 0, 0, 0, false⟩]

/-- Registers of the SUMMARY page. -/
def rowsSummary : List RegRow :=
  [⟨0x40, 0, 1, 0xFFFF0F7F, 0, 0, 0, 0, 0, 0, false⟩,
   ⟨0x44, 0, 1, 0x3FFFF, 0, 0, 0, 0, 0, 0, false⟩,
   ⟨0x48, 0, 1, 0xFFFFFFFF, 0, 0, 0, 0, 0, 0, true⟩,
   ⟨0x4C, 0, 1, 0xFFFFFFFF, 0, 0, 0, 0, 0, 0, false⟩,
   ⟨0x50, 4, 4, 0xFFFFFFFF, 0, 0, 0, 0, 0, 0, false⟩,
   ⟨0x60, 4, 4, 0xFFFFFFFF, 0, 0, 0, 0, 0, 0, false⟩,
   ⟨0x70, 0, 1, 0xFFFFFFFF, 0, 0, 0, 0, 0, 0, true⟩,
   ⟨0x74, 0, 1, 0xFFFFFFFF, 0, 0, 0, 0, 0, 0, false⟩,
   ⟨0x78, 0, 1, 0, 0x3F, 0, 0, 0, 0, 0, false⟩,
   ⟨0x7C, 4, 4, 0xFFFFFFFF, 0, 0, 0, 0, 0, 0, false⟩]

/-- Registers of the BUNDLE page. -/
def rowsBundle : List RegRow :=
  [⟨0x40, 0, 1, 0, 0x7, 0, 0, 0, 0, 0, false⟩,
   ⟨0x44, 0, 1, 0, 0xFFFFFFFF, 0, 0, 0, 0, 0, true⟩,
   ⟨0x48, 0, 1, 0, 0xFFFFFFFF, 0, 0, 0, 0, 0, false⟩,
   ⟨0x4C, 0, 1, 0, 0x100, 0, 0, 0x7, 0, 0, false⟩,
   ⟨0x50, 0, 1, 0xFFFFFFFF, 0, 0, 0, 0, 0, 0, false⟩,
   ⟨0x54, 0, 1, 0xFF0F1FFF, 0, 0, 0, 0, 0, 0, false⟩,
   ⟨0x58, 0, 1, 0x3FFF0FFF, 0, 0, 0, 0, 0, 0, false⟩,
   ⟨0x5C, 0, 1, 0xFFFFFFFF, 0, 0, 0, 0, 0, 0, false⟩,
   ⟨0x60, 0, 1, 0xFFFFFFFF, 0, 0, 0, 0, 0, 0, false⟩,
   ⟨0x64, 0, 1, 0, 0, 0, 0, 0, 0xFFFFFFFF, 0, false⟩]

/-- Registers of the LEDGER and DIE LEDGER page. -/
def rowsLedger : List RegRow :=
  [⟨0x40, 0, 1, 0, 0x70003FF, 0, 0, 0, 0, 0, false⟩,
   ⟨0x44, 0, 1, 0xFFFFFFFF, 0, 0, 0, 0, 0, 0, true⟩,
   ⟨0x48, 0, 1, 0xFFFFFFFF, 0, 0, 0, 0, 0, 0, false⟩,
   ⟨0x4C, 0, 1, 0xFFFFFFFF, 0, 0, 0, 0, 0, 0, true⟩,
   ⟨0x50, 0, 1, 0xFFFFFFFF, 0, 0, 0, 0, 0, 0, false⟩,
   ⟨0x54, 0, 1, 0xFFFFFFFF, 0, 0, 0, 0, 0, 0, true⟩,
   ⟨0x58, 0, 1, 0xFFFFFFFF, 0, 0, 0, 0, 0, 0, false⟩,
   ⟨0x5C, 0, 1, 0xFFFFFFFF, 0, 0, 0, 0, 0, 0, true⟩,
   ⟨0x60, 0, 1, 0xFFFFFFFF, 0, 0, 0, 0, 0, 0, false⟩,
   ⟨0x64, 0, 1, 0x70003FF, 0, 0, 0x80000000, 0, 0, 0, false⟩,
   ⟨0x68, 0, 1, 0xFFFFFFFF, 0, 0, 0, 0, 0, 0, true⟩,
   ⟨0x6C, 0, 1, 0xFFFFFFFF, 0, 0, 0, 0, 0, 0, false⟩]

/-- Registers of the POWER page. -/
def rowsPower : List RegRow :=
  [⟨0x40, 0, 1, 0, 0, 0xFFFF, 0, 0, 0, 0x5208, false⟩,
   ⟨0x44, 0, 1, 0xFFFFFFFF, 0, 0, 0, 0, 0, 0x52085208, false⟩,
   ⟨0x48, 0, 1, 0xFFFF, 0, 0, 0, 0, 0, 0, false⟩,
   ⟨0x4C, 0, 1, 0xFFFFFFFF, 0, 0, 0, 0, 0, 0, false⟩,
   ⟨0x50, 0, 1, 0xF, 0, 0, 0, 0, 0, 0, false⟩,
   ⟨0x54, 0, 1, 0xFFFFFFFF, 0, 0, 0, 0, 0, 0, false⟩,
   ⟨0x58, 0, 1, 0xFFFFFFFF, 0, 0, 0, 0, 0, 0, false⟩,
   ⟨0x5C, 0, 1, 0, 0, 0, 0, 0, 0xFFFF, 0, false⟩]

/-- Registers of the CLOCKS page. -/
def rowsClocks : List RegRow :=
  [⟨0x40, 0, 1, 0, 0, 0x7F, 0, 0, 0, 0x48, false⟩,
   ⟨0x44, 0, 1, 0x7F807F, 0, 0, 0, 0, 0, 0x480000, false⟩,
   ⟨0x400, 4, 256, 0xC0000FFF, 0, 0, 0, 0, 0, 0, false⟩]

/-- Registers of the THERMAL page. -/
def rowsThermal : List RegRow :=
  [⟨0x40, 0, 1, 0, 0, 0x1, 0, 0, 0, 0x1, false⟩,
   ⟨0x44, 0, 1, 0x3FF00FF, 0, 0, 0, 0, 0, 0, false⟩,
   ⟨0x80, 4, 8, 0, 0, 0xFFFFFFFF, 0, 0, 0, 0, false⟩,
   ⟨0x400, 4, 256, 0xC00003FF, 0, 0, 0, 0, 0, 0, false⟩]

/-- Registers of the SHUTTER page. -/
def rowsShutter : List RegRow :=
  [⟨0x40, 0, 1, 0, 0, 0, 0, 0x3, 0, 0, false⟩,
   ⟨0x44, 0, 1, 0, 0xFFFF, 0, 0, 0, 0, 0x3E8, false⟩,
   ⟨0x48, 0, 1, 0x707, 0, 0, 0, 0, 0, 0, false⟩]

/-- Registers of the BELL page. -/
def rowsBell : List RegRow :=
  [⟨0x40, 0, 1, 0xFFFFFFFF, 0, 0, 0, 0, 0, 0, true⟩,
   ⟨0x44, 0, 1, 0xFFFFFFFF, 0, 0, 0, 0, 0, 0, false⟩,
   ⟨0x48, 0, 1, 0, 0, 0, 0, 0, 0xFFFFFFFF, 0, false⟩]

/-- Registers of the ADDRESS page. -/
def rowsAddress : List RegRow :=
  [⟨0x40, 0, 1, 0xFE07FFFF, 0, 0, 0, 0, 0, 0, false⟩,
   ⟨0x44, 0, 1, 0, 0, 0xFFFFF, 0, 0, 0, 0, false⟩,
   ⟨0x48, 0, 1, 0xFFFF, 0, 0, 0, 0, 0, 0, false⟩,
   ⟨0x4C, 0, 1, 0, 0x1, 0, 0, 0, 0, 0, false⟩,
   ⟨0x50, 0, 1, 0, 0xFFFFFFC0, 0, 0, 0, 0, 0, true⟩,
   ⟨0x54, 0, 1, 0, 0xFFFF, 0, 0, 0, 0, 0, false⟩,
   ⟨0x58, 0, 1, 0xFF000007, 0, 0, 0, 0, 0, 0, false⟩]

/-- Registers of the PROGRAM page. -/
def rowsProgram : List RegRow :=
  [⟨0x40, 0, 1, 0, 0, 0x3, 0, 0, 0, 0, false⟩,
   ⟨0x44, 0, 1, 0, 0, 0, 0, 0x3, 0, 0, false⟩,
   ⟨0x48, 0, 1, 0, 0xFFFFFFC0, 0, 0, 0, 0, 0, true⟩,
   ⟨0x4C, 0, 1, 0, 0xFFFF, 0, 0, 0, 0, 0, false⟩,
   ⟨0x50, 0, 1, 0xFF00FC03, 0, 0, 0, 0, 0, 0, false⟩,
   ⟨0x54, 0, 1, 0xFFFFFFFF, 0, 0, 0, 0, 0, 0, false⟩,
   ⟨0x58, 0, 1, 0xFFFF000F, 0, 0, 0, 0, 0, 0, false⟩,
   ⟨0x5C, 0, 1, 0, 0xFF, 0, 0, 0, 0, 0x2, false⟩,
   ⟨0x60, 0, 1, 0xFFFFFFFF, 0, 0, 0, 0, 0, 0, false⟩,
   ⟨0x64, 0, 1, 0xFFFFF, 0, 0, 0, 0, 0, 0, false⟩,
   ⟨0x68, 0, 1, 0xFFFFFFFF, 0, 0, 0, 0, 0, 0, true⟩,
   ⟨0x6C, 0, 1, 0xFFFFFFFF, 0, 0, 0, 0, 0, 0, false⟩,
   ⟨0x70, 0, 1, 0x3, 0, 0, 0, 0, 0, 0, false⟩]

/-- Registers of the SECURITY page. -/
def rowsSecurity : List RegRow :=
  [⟨0x40, 0, 1, 0xFFFF0003, 0, 0, 0, 0, 0, 0, false⟩,
   ⟨0x44, 0, 1, 0, 0x7, 0, 0, 0, 0, 0x1, false⟩,
   ⟨0x48, 0, 1, 0x7, 0, 0, 0, 0, 0, 0, false⟩,
   ⟨0x4C, 0, 1, 0xF00FFFFF, 0, 0, 0, 0, 0, 0, false⟩,
   ⟨0x80, 4, 16, 0xFFFFFFFF, 0, 0, 0, 0, 0, 0, false⟩,
   ⟨0xC0, 4, 16, 0xFFFFFFFF, 0, 0, 0, 0, 0, 0, false⟩,
   ⟨0x100, 4, 8, 0xFFFFFFFF, 0, 0, 0, 0, 0, 0, false⟩]

/-- Registers of the METER MIRROR page. -/
def rowsMeterMirror : List RegRow :=
  [⟨0x40, 0, 1, 0xFC00FFFF, 0, 0, 0, 0, 0, 0, false⟩,
   ⟨0x44, 0, 1, 0xFFFFFFFF, 0, 0, 0, 0, 0, 0, false⟩,
   ⟨0x48, 0, 1, 0xFFFFFFFF, 0, 0, 0, 0, 0, 0, true⟩,
   ⟨0x4C, 0, 1, 0xFFFFFFFF, 0, 0, 0, 0, 0, 0, false⟩,
   ⟨0x50, 0, 1, 0xFFFFFFFF, 0, 0, 0, 0, 0, 0, true⟩,
   ⟨0x54, 0, 1, 0xFFFFFFFF, 0, 0, 0, 0, 0, 0, false⟩,
   ⟨0x58, 0, 1, 0xFFFFFFFF, 0, 0, 0, 0, 0, 0, true⟩,
   ⟨0x5C, 0, 1, 0xFFFFFFFF, 0, 0, 0, 0, 0, 0, false⟩,
   ⟨0x60, 0, 1, 0xFFFFFFFF, 0, 0, 0, 0, 0, 0, true⟩,
   ⟨0x64, 0, 1, 0xFFFFFFFF, 0, 0, 0, 0, 0, 0, false⟩,
   ⟨0x68, 0, 1, 0xFFFFFFFF, 0, 0, 0, 0, 0, 0, true⟩,
   ⟨0x6C, 0, 1, 0xFFFFFFFF, 0, 0, 0, 0, 0, 0, false⟩,
   ⟨0x70, 0, 1, 0xFFFF, 0, 0, 0, 0, 0, 0, false⟩,
   ⟨0x74, 0, 1, 0xFFFFFFFF, 0, 0, 0, 0, 0, 0, false⟩,
   ⟨0x78, 0, 1, 0xFFFFFFFF, 0, 0, 0, 0, 0, 0, true⟩,
   ⟨0x7C, 0, 1, 0xFFFFFFFF, 0, 0, 0, 0, 0, 0, false⟩,
   ⟨0x80, 0, 1, 0xFFFFFFFF, 0, 0, 0, 0, 0, 0, true⟩,
   ⟨0x84, 0, 1, 0xFFFFFFFF, 0, 0, 0, 0, 0, 0, false⟩,
   ⟨0x88, 0, 1, 0xFFFFFFFF, 0, 0, 0, 0, 0, 0, false⟩]

/-- Registers of the KEEPER MAILBOX page. -/
def rowsMailbox : List RegRow :=
  [⟨0x40, 0, 1, 0, 0xFFFF00FF, 0, 0, 0, 0, 0, false⟩,
   ⟨0x44, 0, 1, 0xFFFF0003, 0, 0, 0, 0, 0, 0, false⟩,
   ⟨0x100, 4, 16, 0xFFFFFFFF, 0, 0, 0, 0, 0, 0, false⟩]

/-- Registers of the SPARE MAP page. -/
def rowsSpareMap : List RegRow :=
  [⟨0x40, 0, 1, 0, 0x3F, 0, 0, 0, 0, 0, false⟩,
   ⟨0x44, 0, 1, 0, 0, 0xFFFFFFFF, 0, 0, 0, 0, true⟩,
   ⟨0x48, 0, 1, 0, 0, 0xFFFFFFFF, 0, 0, 0, 0, false⟩,
   ⟨0x4C, 0, 1, 0, 0, 0xFFFFFFFF, 0, 0, 0, 0, true⟩,
   ⟨0x50, 0, 1, 0, 0, 0xFFFFFFFF, 0, 0, 0, 0, false⟩,
   ⟨0x54, 0, 1, 0, 0, 0x803F3F7F, 0, 0, 0, 0, false⟩,
   ⟨0x58, 0, 1, 0, 0, 0xFFFF, 0, 0, 0, 0xC8, false⟩,
   ⟨0x5C, 0, 1, 0xFFFFFFFF, 0, 0, 0, 0, 0, 0, true⟩,
   ⟨0x60, 0, 1, 0xFFFFFFFF, 0, 0, 0, 0, 0, 0, false⟩,
   ⟨0x100, 4, 16, 0xFFFFFFFF, 0, 0, 0, 0, 0, 0, false⟩]

/-- Registers of the APERTURE page. -/
def rowsAperture : List RegRow :=
  [⟨0x40, 0, 1, 0, 0xFF0, 0, 0, 0, 0, 0, false⟩,
   ⟨0x44, 0, 1, 0xFFFFFFFF, 0, 0, 0, 0, 0, 0, false⟩,
   ⟨0x48, 0, 1, 0xFFFFFFFF, 0, 0, 0, 0, 0, 0, false⟩]

/-- Registers of the REDUCE page. -/
def rowsReduce : List RegRow :=
  [⟨0x40, 0, 1, 0, 0, 0x3, 0, 0, 0, 0, false⟩,
   ⟨0x44, 0, 1, 0, 0, 0xF, 0, 0, 0, 0x8, false⟩,
   ⟨0x48, 0, 1, 0, 0, 0xFFFFFFFF, 0, 0, 0, 0x10000, false⟩,
   ⟨0x4C, 0, 1, 0, 0, 0xFFFFFFFF, 0, 0, 0, 0x2BF20, false⟩,
   ⟨0x50, 0, 1, 0x3F, 0, 0, 0, 0, 0, 0, false⟩,
   ⟨0x400, 16, 128, 0, 0, 0xFCFF03FF, 0, 0, 0, 0, false⟩,
   ⟨0x404, 16, 128, 0, 0, 0x3FFF1FFF, 0, 0, 0, 0x4000000, false⟩,
   ⟨0x408, 16, 128, 0, 0, 0xFFFFFFFF, 0, 0, 0, 0, true⟩,
   ⟨0x40C, 16, 128, 0, 0, 0xFFF3F00F, 0, 0, 0, 0, false⟩]

/-- Registers of the SLOUB PORT page. -/
def rowsSloubPort : List RegRow :=
  [⟨0x40, 0, 1, 0, 0, 0xFFFF, 0, 0, 0, 0xC5B0, false⟩,
   ⟨0x44, 4, 4, 0, 0, 0xFFFFFFFF, 0, 0, 0, 0, false⟩,
   ⟨0x54, 0, 1, 0, 0, 0xFFFFFFFF, 0, 0, 0, 0, true⟩,
   ⟨0x58, 0, 1, 0, 0, 0xFFFF, 0, 0, 0, 0, false⟩,
   ⟨0x5C, 0, 1, 0, 0, 0xFFFFFFFF, 0, 0, 0, 0, true⟩,
   ⟨0x60, 0, 1, 0, 0, 0xFFFF, 0, 0, 0, 0, false⟩,
   ⟨0x64, 0, 1, 0, 0, 0x3F3F3F3F, 0, 0, 0, 0xA121A2E, false⟩,
   ⟨0x68, 0, 1, 0, 0, 0xFFFF, 0, 0, 0, 0x408, false⟩,
   ⟨0x6C, 0, 1, 0, 0, 0xFFFFFFFF, 0, 0, 0, 0x8040032, false⟩,
   ⟨0x70, 0, 1, 0x8000003F, 0, 0, 0, 0, 0, 0, false⟩,
   ⟨0x74, 0, 1, 0xFFFFFFFF, 0, 0, 0, 0, 0, 0, false⟩,
   ⟨0x78, 0, 1, 0, 0, 0, 0, 0, 0xFFFFFFFF, 0, false⟩,
   ⟨0x7C, 0, 1, 0xFFFFFFFF, 0, 0, 0, 0, 0, 0, false⟩,
   ⟨0x80, 0, 1, 0xFFFFFFFF, 0, 0, 0, 0, 0, 0, false⟩,
   ⟨0x84, 0, 1, 0xFFFFFFFF, 0, 0, 0, 0, 0, 0, false⟩,
   ⟨0x88, 0, 1, 0xFFFFFFFF, 0, 0, 0, 0, 0, 0, false⟩,
   ⟨0x8C, 0, 1, 0xFFFFFFFF, 0, 0, 0, 0, 0, 0, false⟩,
   ⟨0x90, 0, 1, 0xFFFFFFFF, 0, 0, 0, 0, 0, 0, false⟩,
   ⟨0x94, 0, 1, 0xFFFFFFFF, 0, 0, 0, 0, 0, 0, false⟩,
   ⟨0x98, 0, 1, 0xFFFFFFFF, 0, 0, 0, 0, 0, 0, false⟩,
   ⟨0x9C, 0, 1, 0xFFFFFFFF, 0, 0, 0, 0, 0, 0, false⟩,
   ⟨0xA0, 0, 1, 0xFFFFFFFF, 0, 0, 0, 0, 0, 0, false⟩,
   ⟨0xC0, 4, 16, 0, 0, 0x80FF03FF, 0, 0, 0, 0, false⟩]

/-- Registers of the FLOWS page. -/
def rowsFlows : List RegRow :=
  [⟨0x40, 0, 1, 0, 0xFFFF, 0, 0, 0, 0, 0, false⟩,
   ⟨0x44, 0, 1, 0, 0, 0xC00FFFFF, 0, 0x20000000, 0, 0, false⟩,
   ⟨0x48, 0, 1, 0, 0, 0xFFFFFFFF, 0, 0, 0, 0xFFFF0000, false⟩,
   ⟨0x4C, 4, 4, 0, 0, 0xFFFFFFFF, 0, 0, 0, 0, false⟩,
   ⟨0x5C, 0, 1, 0xFFFFFFF7, 0, 0, 0, 0, 0, 0, false⟩,
   ⟨0x60, 0, 1, 0xFFFFFFFF, 0, 0, 0, 0, 0, 0, false⟩,
   ⟨0x64, 0, 1, 0xFFFFFFFF, 0, 0, 0, 0, 0, 0, false⟩,
   ⟨0x68, 0, 1, 0xFFFFFFFF, 0, 0, 0, 0, 0, 0, false⟩,
   ⟨0x6C, 0, 1, 0x7FF0000, 0, 0, 0, 0, 0, 0, false⟩,
   ⟨0x70, 0, 1, 0x1FFFF, 0, 0, 0, 0, 0, 0, false⟩,
   ⟨0x74, 0, 1, 0xFFFFFFFF, 0, 0, 0, 0, 0, 0, false⟩,
   ⟨0x78, 0, 1, 0xFFFFFFFF, 0, 0, 0, 0, 0, 0, false⟩,
   ⟨0x7C, 0, 1, 0xFFFFFF00, 0, 0, 0, 0, 0, 0, false⟩,
   ⟨0x80, 0, 1, 0xFFFFF, 0, 0, 0, 0, 0, 0, false⟩]

/-- Registers of the WALE and XWALE page. -/
def rowsWale : List RegRow :=
  [⟨0x40, 0, 1, 0x3F3F00FF, 0, 0, 0, 0, 0, 0, false⟩,
   ⟨0x44, 0, 1, 0xFFFFFFFF, 0, 0, 0, 0, 0, 0, false⟩,
   ⟨0x48, 0, 1, 0xFFFFFFFF, 0, 0, 0, 0, 0, 0, false⟩,
   ⟨0x4C, 0, 1, 0xFFFFFFFF, 0, 0, 0, 0, 0, 0, false⟩,
   ⟨0x50, 0, 1, 0xFFFFFFFF, 0, 0, 0, 0, 0, 0, false⟩,
   ⟨0x54, 0, 1, 0xFFFFFFFF, 0, 0, 0, 0, 0, 0, false⟩,
   ⟨0x58, 0, 1, 0, 0, 0xFFFFFFFF, 0, 0, 0, 0x640040, false⟩,
   ⟨0x5C, 0, 1, 0xF0011F3F, 0, 0, 0, 0, 0, 0, false⟩,
   ⟨0x60, 0, 1, 0xFFFFFFFF, 0, 0, 0, 0, 0, 0, false⟩]

/-- Registers of the DIE CTL page. -/
def rowsDieCtl : List RegRow :=
  [⟨0x40, 0, 1, 0xFF000F07, 0, 0, 0, 0, 0, 0, false⟩,
   ⟨0x44, 0, 1, 0xFFFFFFFF, 0, 0, 0, 0, 0, 0, true⟩,
   ⟨0x48, 0, 1, 0xFFFFFFFF, 0, 0, 0, 0, 0, 0, false⟩]

/-- Registers of the DIE HEALTH page. -/
def rowsDieHealth : List RegRow :=
  [⟨0x40, 0, 1, 0xCF0F0F01, 0, 0, 0, 0, 0, 0, false⟩,
   ⟨0x44, 0, 1, 0xFFFF007F, 0, 0, 0, 0, 0, 0, false⟩,
   ⟨0x48, 0, 1, 0x1F, 0, 0, 0, 0, 0, 0, false⟩]

/-- Registers of the DIE BUNDLE page. -/
def rowsDieBundle : List RegRow :=
  [⟨0x40, 0, 1, 0x7F0FFF, 0, 0, 0, 0, 0, 0, false⟩,
   ⟨0x44, 0, 1, 0xFF000FFF, 0, 0, 0, 0, 0, 0, false⟩,
   ⟨0x48, 0, 1, 0, 0, 0, 0, 0, 0xFFFFFFFF, 0, false⟩]

/-- Registers of the MESH page. -/
def rowsMesh : List RegRow :=
  [⟨0x40, 0, 1, 0, 0, 0xFFFFFF, 0, 0, 0, 0x102020, false⟩]

/-- Registers of the STREAMS page. -/
def rowsStreams : List RegRow :=
  [⟨0x40, 0, 1, 0x1FF01FF, 0, 0, 0, 0, 0, 0, false⟩,
   ⟨0x44, 0, 1, 0x3FF0FFF, 0, 0, 0, 0, 0, 0, false⟩,
   ⟨0x48, 0, 1, 0, 0, 0, 0, 0, 0x3FF0FFF, 0, false⟩,
   ⟨0x4C, 0, 1, 0, 0xFFFF, 0, 0, 0, 0, 0, false⟩,
   ⟨0x50, 0, 1, 0xFFFFFFFF, 0, 0, 0, 0, 0, 0, false⟩,
   ⟨0x54, 0, 1, 0xFFFFFF, 0, 0, 0, 0, 0, 0, false⟩,
   ⟨0x58, 0, 1, 0x7FF, 0, 0, 0, 0, 0, 0, false⟩]

/-- Registers of the ROUND page. -/
def rowsRound : List RegRow :=
  [⟨0x40, 0, 1, 0, 0, 0x1, 0, 0, 0, 0, false⟩,
   ⟨0x44, 0, 1, 0, 0, 0x7F, 0, 0, 0, 0, false⟩,
   ⟨0x48, 0, 1, 0xFFFF007F, 0, 0, 0, 0, 0, 0, false⟩,
   ⟨0x4C, 0, 1, 0x803F3F3F, 0, 0, 0, 0, 0, 0, false⟩,
   ⟨0x50, 0, 1, 0xBF0000FF, 0, 0, 0, 0, 0, 0, false⟩,
   ⟨0x60, 16, 4, 0, 0, 0xFF80FFFF, 0, 0, 0, 0, false⟩,
   ⟨0x64, 16, 4, 0, 0, 0xFFF0FFF, 0, 0, 0, 0, false⟩,
   ⟨0x68, 16, 4, 0, 0, 0xFFF, 0, 0, 0, 0, false⟩,
   ⟨0x6C, 16, 4, 0xFFFFFF07, 0, 0, 0, 0, 0, 0, false⟩]

/-- Registers of the COLLECT page. -/
def rowsCollect : List RegRow :=
  [⟨0x40, 0, 1, 0, 0, 0xFFFFFFFF, 0, 0, 0, 0, false⟩,
   ⟨0x44, 0, 1, 0, 0, 0x3F, 0, 0, 0, 0, false⟩,
   ⟨0x48, 0, 1, 0, 0x7F, 0, 0, 0, 0, 0, false⟩,
   ⟨0x4C, 0, 1, 0xFFFFFF07, 0, 0, 0, 0, 0, 0, false⟩,
   ⟨0x50, 0, 1, 0x807F7F3F, 0, 0, 0, 0, 0, 0, false⟩,
   ⟨0x54, 0, 1, 0xFFFFFFFF, 0, 0, 0, 0, 0, 0, false⟩,
   ⟨0x58, 0, 1, 0xFFFFFFFF, 0, 0, 0, 0, 0, 0, false⟩,
   ⟨0x5C, 0, 1, 0xFFFFFFFF, 0, 0, 0, 0, 0, 0, false⟩,
   ⟨0x60, 0, 1, 0xFFFFFFFF, 0, 0, 0, 0, 0, 0, false⟩,
   ⟨0x64, 0, 1, 0xFFFFFFFF, 0, 0, 0, 0, 0, 0, false⟩,
   ⟨0x68, 0, 1, 0xFFFFFFFF, 0, 0, 0, 0, 0, 0, false⟩,
   ⟨0x6C, 0, 1, 0xFFFFFFFF, 0, 0, 0, 0, 0, 0, false⟩,
   ⟨0x70, 4, 8, 0xFFFFFFFF, 0, 0, 0, 0, 0, 0, false⟩,
   ⟨0x90, 4, 6, 0xFFFFFFFF, 0, 0, 0, 0, 0, 0, false⟩,
   ⟨0xA8, 0, 1, 0x7, 0, 0, 0, 0, 0, 0x7, false⟩]

/-- Registers of the DRAM page. -/
def rowsDram : List RegRow :=
  [⟨0x40, 0, 1, 0xF0F03, 0, 0, 0, 0, 0, 0, false⟩,
   ⟨0x44, 0, 1, 0xFF, 0, 0, 0, 0, 0, 0, false⟩,
   ⟨0x48, 0, 1, 0, 0xFFFFFFFF, 0, 0, 0, 0, 0x3C0100, false⟩,
   ⟨0x4C, 0, 1, 0xFFFFFFFF, 0, 0, 0, 0, 0, 0, false⟩,
   ⟨0x50, 0, 1, 0xFFFFFFFF, 0, 0, 0, 0, 0, 0, false⟩,
   ⟨0x54, 0, 1, 0xFFFFFFFF, 0, 0, 0, 0, 0, 0, false⟩,
   ⟨0x58, 0, 1, 0xFFFFFFFF, 0, 0, 0, 0, 0, 0, false⟩,
   ⟨0x5C, 0, 1, 0xFFFFFFFF, 0, 0, 0, 0, 0, 0, true⟩,
   ⟨0x60, 0, 1, 0xF03FFFF, 0, 0, 0, 0, 0, 0, false⟩,
   ⟨0x64, 0, 1, 0xFFFF, 0, 0, 0, 0, 0, 0, false⟩,
   ⟨0x68, 0, 1, 0xFFFFFFFF, 0, 0, 0, 0, 0, 0, false⟩]

/-- Registers of the SCRUB page. -/
def rowsScrub : List RegRow :=
  [⟨0x40, 0, 1, 0, 0xFFFFFFFF, 0, 0, 0, 0, 0x400010, false⟩,
   ⟨0x44, 0, 1, 0, 0xFFFF, 0, 0, 0, 0, 0x400, false⟩,
   ⟨0x48, 0, 1, 0, 0xFFFFFFFF, 0, 0, 0, 0, 0x3C0100, false⟩,
   ⟨0x4C, 0, 1, 0xFFFFFFFF, 0, 0, 0, 0, 0, 0, false⟩,
   ⟨0x50, 0, 1, 0xFFFFFFFF, 0, 0, 0, 0, 0, 0, false⟩,
   ⟨0x54, 0, 1, 0xFFFFFFFF, 0, 0, 0, 0, 0, 0, false⟩,
   ⟨0x58, 0, 1, 0xFFFFFFFF, 0, 0, 0, 0, 0, 0, false⟩,
   ⟨0x5C, 0, 1, 0xFFFFFFFF, 0, 0, 0, 0, 0, 0, true⟩,
   ⟨0x60, 0, 1, 0xF03FFFF, 0, 0, 0, 0, 0, 0, false⟩,
   ⟨0x64, 0, 1, 0xFFFF, 0, 0, 0, 0, 0, 0, false⟩,
   ⟨0x68, 0, 1, 0x3FFFFFFF, 0, 0, 0, 0, 0, 0, false⟩,
   ⟨0x6C, 0, 1, 0xFF03FFFF, 0, 0, 0, 0, 0, 0, false⟩,
   ⟨0x70, 0, 1, 0x3, 0, 0, 0, 0, 0, 0, false⟩]

/-- Registers of the PORT LINK page. -/
def rowsPortLink : List RegRow :=
  [⟨0x40, 0, 1, 0xFF03, 0, 0, 0, 0, 0, 0, false⟩,
   ⟨0x44, 0, 1, 0, 0, 0x3, 0, 0, 0, 0, false⟩]

/-- Registers of the DECRYPT page. -/
def rowsDecrypt : List RegRow :=
  [⟨0x40, 0, 1, 0, 0, 0x1, 0, 0, 0, 0, false⟩,
   ⟨0x44, 0, 1, 0xFFFFFFFF, 0, 0, 0, 0, 0, 0, false⟩,
   ⟨0x48, 0, 1, 0, 0, 0, 0, 0xFFFF, 0, 0, false⟩,
   ⟨0x4C, 0, 1, 0xFFFFFFFF, 0, 0, 0, 0, 0, 0, false⟩,
   ⟨0x50, 0, 1, 0xFFFFFFFF, 0, 0, 0, 0, 0, 0, false⟩,
   ⟨0x54, 0, 1, 0xFFFFFFFF, 0, 0, 0, 0, 0, 0, false⟩,
   ⟨0x58, 0, 1, 0xFFFFFFFF, 0, 0, 0, 0, 0, 0, false⟩,
   ⟨0x5C, 0, 1, 0xFFFFFFFF, 0, 0, 0, 0, 0, 0, false⟩,
   ⟨0x60, 0, 1, 0xF1FFFFFF, 0, 0, 0, 0, 0, 0, false⟩,
   ⟨0x80, 4, 16, 0xFFFF, 0, 0, 0, 0, 0, 0, false⟩,
   ⟨0x100, 16, 32, 0, 0, 0xEFFFF3FF, 0, 0, 0, 0, false⟩,
   ⟨0x104, 16, 32, 0, 0, 0xFFFFFFFF, 0, 0, 0, 0, false⟩,
   ⟨0x108, 16, 32, 0, 0, 0xFFFF001F, 0, 0, 0, 0, false⟩,
   ⟨0x10C, 16, 32, 0, 0, 0xFFFF0000, 0, 0, 0, 0, false⟩,
   ⟨0x300, 8, 32, 0xFFFFFFFF, 0, 0, 0, 0, 0, 0, false⟩,
   ⟨0x304, 8, 32, 0xFFFF00C7, 0, 0, 0, 0, 0, 0, false⟩]

/-- Registers of the INGEST page. -/
def rowsIngest : List RegRow :=
  [⟨0x40, 0, 1, 0x8000007F, 0, 0, 0, 0, 0, 0, false⟩,
   ⟨0x44, 0, 1, 0xFFFFFFFF, 0, 0, 0, 0, 0, 0, false⟩,
   ⟨0x48, 0, 1, 0xFFFFFFFF, 0, 0, 0, 0, 0, 0, false⟩,
   ⟨0x4C, 0, 1, 0xFFFFFFFF, 0, 0, 0, 0, 0, 0, false⟩]

/-- Registers of the QUARTER page. -/
def rowsQuarter : List RegRow :=
  [⟨0x40, 0, 1, 0xF303, 0, 0, 0, 0, 0, 0, false⟩,
   ⟨0x44, 4, 4, 0xFFFFFFFF, 0, 0, 0, 0, 0, 0, false⟩,
   ⟨0x54, 0, 1, 0xFFFFFFFF, 0, 0, 0, 0, 0, 0, true⟩,
   ⟨0x58, 0, 1, 0xFFFFFFFF, 0, 0, 0, 0, 0, 0, false⟩]

/-- Registers of the QBUF page. -/
def rowsQbuf : List RegRow :=
  [⟨0x40, 0, 1, 0x1FFF, 0, 0, 0, 0, 0, 0, false⟩,
   ⟨0x44, 0, 1, 0, 0, 0, 0, 0, 0x1FFF, 0, false⟩,
   ⟨0x48, 0, 1, 0, 0xFFFFFFFF, 0, 0, 0, 0, 0x3C0100, false⟩,
   ⟨0x4C, 0, 1, 0xFFFFFFFF, 0, 0, 0, 0, 0, 0, false⟩,
   ⟨0x50, 0, 1, 0xFFFFFFFF, 0, 0, 0, 0, 0, 0, false⟩,
   ⟨0x54, 0, 1, 0xFFFFFFFF, 0, 0, 0, 0, 0, 0, false⟩,
   ⟨0x58, 0, 1, 0xFFFFFFFF, 0, 0, 0, 0, 0, 0, false⟩,
   ⟨0x5C, 0, 1, 0xFFFFFFFF, 0, 0, 0, 0, 0, 0, true⟩,
   ⟨0x60, 0, 1, 0xF03FFFF, 0, 0, 0, 0, 0, 0, false⟩,
   ⟨0x64, 0, 1, 0xFFFF, 0, 0, 0, 0, 0, 0, false⟩]

/-- Registers of the STALL page. -/
def rowsStall : List RegRow :=
  [⟨0x40, 0, 1, 0xFE3F7F, 0, 0, 0, 0, 0, 0, false⟩,
   ⟨0x44, 0, 1, 0, 0, 0, 0x1F, 0, 0, 0, false⟩,
   ⟨0x48, 0, 1, 0, 0, 0x803F3F3F, 0, 0, 0, 0x141214, false⟩,
   ⟨0x4C, 0, 1, 0, 0, 0xFFFF00FF, 0, 0, 0, 0x3E80004, false⟩,
   ⟨0x50, 0, 1, 0, 0, 0xFFFF, 0, 0, 0, 0x7D0, false⟩,
   ⟨0x54, 0, 1, 0, 0, 0xFFFFFFFF, 0, 0, 0, 0, true⟩,
   ⟨0x58, 0, 1, 0, 0, 0xFFFFFFFF, 0, 0, 0, 0, false⟩,
   ⟨0x5C, 0, 1, 0xFFFFFFFF, 0, 0, 0, 0, 0, 0, true⟩,
   ⟨0x60, 0, 1, 0xFFFFFFFF, 0, 0, 0, 0, 0, 0, false⟩,
   ⟨0x64, 0, 1, 0x1FFF1FFF, 0, 0, 0, 0, 0, 0, false⟩,
   ⟨0x68, 0, 1, 0x1FFF1FFF, 0, 0, 0, 0, 0, 0, false⟩,
   ⟨0x6C, 0, 1, 0xFFFFFF8F, 0, 0, 0, 0, 0, 0, false⟩,
   ⟨0x70, 0, 1, 0xF77, 0, 0, 0, 0, 0, 0, false⟩,
   ⟨0x74, 0, 1, 0xFFFFFFFF, 0, 0, 0, 0, 0, 0, false⟩,
   ⟨0x78, 0, 1, 0xFFFFFFFF, 0, 0, 0, 0, 0, 0, false⟩,
   ⟨0x7C, 0, 1, 0xFFFF037F, 0, 0, 0, 0, 0, 0, false⟩,
   ⟨0x80, 0, 1, 0xFFFFFFFF, 0, 0, 0, 0, 0, 0, true⟩,
   ⟨0x84, 0, 1, 0xFFFFFFFF, 0, 0, 0, 0, 0, 0, false⟩]

/-- The registers of a page of a block type, without the header. -/
def regRows (k : PageKind) : List RegRow :=
  match k with
  | .engineId => rowsEngineId
  | .summary => rowsSummary
  | .bundle => rowsBundle
  | .ledger => rowsLedger
  | .power => rowsPower
  | .clocks => rowsClocks
  | .thermal => rowsThermal
  | .shutter => rowsShutter
  | .bell => rowsBell
  | .address => rowsAddress
  | .program => rowsProgram
  | .security => rowsSecurity
  | .meterMirror => rowsMeterMirror
  | .mailbox => rowsMailbox
  | .spareMap => rowsSpareMap
  | .aperture => rowsAperture
  | .reduce => rowsReduce
  | .sloubPort => rowsSloubPort
  | .flows => rowsFlows
  | .wale => rowsWale
  | .xwale => rowsWale
  | .dieCtl => rowsDieCtl
  | .dieHealth => rowsDieHealth
  | .dieBundle => rowsDieBundle
  | .dieLedger => rowsLedger
  | .mesh => rowsMesh
  | .streams => rowsStreams
  | .round => rowsRound
  | .collect => rowsCollect
  | .dram => rowsDram
  | .scrub => rowsScrub
  | .portLink => rowsPortLink
  | .decrypt => rowsDecrypt
  | .ingest => rowsIngest
  | .quarter => rowsQuarter
  | .qbuf => rowsQbuf
  | .stall => rowsStall

/-- Whether a row holds an offset. -/
def RegRow.has (r : RegRow) (off : Nat) : Bool :=
  if r.count = 1 then off == r.off
  else decide (r.off ≤ off) && (off - r.off) % r.stride == 0 && decide ((off - r.off) / r.stride < r.count)

/-- The row of an offset of a page; none where the table lists no register. -/
def regRow (k : PageKind) (off : Nat) : Option RegRow :=
  if off < 0x40 then rowsHeader.find? (·.has off) else (regRows k).find? (·.has off)

/-- Whether an offset is the HI of a pair whose LO is at the offset before it (R6). -/
def regIsHi (k : PageKind) (off : Nat) : Bool :=
  match regRow k (off - 4) with | some r => decide (4 ≤ off) && r.pair | none => false

end Sys2Proof.Machine
end

