-- ==== Sys2Proof/Machine/SMap.lean ====
section
/-! DEFINITION. Sparse maps: lookup, update and the canonical form (strictly rising keys, no entry
equal to the default an unlisted key reads as). Every sparse part of the state is read and written
through these operations alone. -/

namespace Sys2Proof.Machine

/-- The value listed at a key. -/
def SMap.find {α : Type} (m : SMap α) (k : Nat) : Option α :=
  match m with
  | [] => none
  | (j, v) :: r => if j = k then some v else SMap.find r k

/-- The value read at a key: `d` where the map lists none. -/
def SMap.get {α : Type} (d : α) (m : SMap α) (k : Nat) : α := (SMap.find m k).getD d

/-- The map without a key. -/
def SMap.erase {α : Type} (m : SMap α) (k : Nat) : SMap α := m.filter fun e => e.1 != k

/-- The map with an entry put before the first greater key. -/
def SMap.insert {α : Type} (m : SMap α) (k : Nat) (v : α) : SMap α :=
  match m with
  | [] => [(k, v)]
  | (j, w) :: r => if k < j then (k, v) :: (j, w) :: r else (j, w) :: SMap.insert r k v

/-- Write a value; writing the default removes the entry. -/
def SMap.set {α : Type} [DecidableEq α] (d : α) (m : SMap α) (k : Nat) (v : α) : SMap α :=
  if v = d then SMap.erase m k else SMap.insert (SMap.erase m k) k v

/-- Change the value at a key. -/
def SMap.upd {α : Type} [DecidableEq α] (d : α) (m : SMap α) (k : Nat) (f : α → α) : SMap α :=
  SMap.set d m k (f (SMap.get d m k))

/-- Every entry's key lies above a bound, keys rise strictly, and no entry is the default. -/
def SMap.wfFrom {α : Type} [DecidableEq α] (d : α) (lo : Nat) (m : SMap α) : Bool :=
  match m with
  | [] => true
  | (j, v) :: r => decide (lo ≤ j) && decide (v ≠ d) && SMap.wfFrom d (j + 1) r

/-- The canonical form. -/
def SMap.wf {α : Type} [DecidableEq α] (d : α) (m : SMap α) : Bool := SMap.wfFrom d 0 m

end Sys2Proof.Machine
end

