-- ==== Sys2Proof/Machine/State.lean ====
section
/-! DEFINITION. The state of the engine module as plain data, the reasons a step may stop, and the
state after reset. Sparse parts are `SMap`s keyed by numbers (a die's unit u is keyed
`die * count + u`); what an unlisted key reads as is the `reset` value of the part. -/

namespace Sys2Proof.Machine

/-- Why the machine could stop. Safe: no command raises it; the engine's own faults are codes that
it records in its pages and works on (R333), so they are effects on `State`, not stops. -/
inductive Fault where
  /-- Raised by nobody: kept so that the reasons are a closed, inhabited list. Safe. -/
  | none
  deriving DecidableEq, Repr

/-- Why a command could have no meaning. -/
inductive Refusal where
  /-- Raised by the dispatch table for a command without a meaning yet (none is left). Safe. -/
  | notModelled (mnemonic : String)
  deriving DecidableEq, Repr

/-- A 64-bit memory word as an agent reads it: data and poison marker (R134). -/
structure MWord where
  val    : DWord
  poison : Bool
  deriving DecidableEq, Repr

/-! ### What leaves the module -/

/-- Bodies of the frames the engine sends (Tables 10.1, 11.3, 12.3). -/
inductive TxBody where
  | openB (b : OpenBody) (mode : Byte)
  | closeB (b : CloseBody)
  | refuseB (b : RefuseBody)
  | nackB (b : NackBody)
  | creditB (limit : DWord)
  | fetchB (shard version offset length : Word) (tag keyId : BitVec 16) (form kind cols reason : Byte)
  | basketB (basket : BitVec 16) (shard flags : Byte) (step : Word) (included : DWord)
      (weightSum : Word) (contrib order decision localN : Byte) (shardTiles : BitVec 16)
      (data : List (BitVec 16))
  | streamB (data : List DWord) (poisonMap : BitVec 1024)
  deriving DecidableEq, Repr

/-- A frame the engine sends: the port whose flow table it belongs to, the port that carries it, its
source UDP port, destination, DSCP and Sloub header (Table 12.1). -/
structure TxFrame where
  port    : Nat
  carrier : Nat
  sport   : BitVec 16
  dstIp   : BitVec 128
  dport   : BitVec 16
  dscp    : BitVec 6
  type    : BitVec 4
  flags   : Byte
  flow    : BitVec 16
  gen     : Byte
  src     : BitVec 20
  dst     : BitVec 20
  vc      : BitVec 2
  seq     : Word
  ack     : Word
  id      : Word
  offset  : Word
  length  : BitVec 16
  body    : TxBody
  deriving DecidableEq, Repr

/-- An IPv6 packet that a port sends (R282): link addresses, DSCP, flow label, hop limit, addresses, UDP
ports and checksum, and the datagram's payload. No extension header. -/
structure OutPacket where
  dstMac  : BitVec 48
  srcMac  : BitVec 48
  dscp    : BitVec 6
  label   : BitVec 20
  hops    : Byte
  srcIp   : BitVec 128
  dstIp   : BitVec 128
  sport   : BitVec 16
  dport   : BitVec 16
  csum    : BitVec 16
  payload : List Byte
  deriving DecidableEq, Repr

/-- Everything the module sends to the outside, or the units of the module to one another over the
paths the rules name (bell, METER_LINK). -/
inductive OutMsg where
  | readData (addr : Nat) (len : Nat) (val : DWord)          -- BAR0 completion
  | aperData (off : Nat) (data : List Byte) (ep : Bool)       -- BAR2 completion (R147)
  | unsupported (addr : Nat)                                  -- UR in D3hot (R395)
  | frame (f : TxFrame) (k : OutPacket)                       -- a Sloub frame and the packet it leaves in
  | neighborAdv (port carrier : Nat) (ip : BitVec 128) (mac : BitVec 48) (override : Bool)
  | keeperAnswer (accepted : Bool) (code : Nat)               -- R426
  | identity (data : List Byte)                               -- IDENTIFY
  | health (data : List Byte)                                 -- health record
  | pldm (data : List Byte)
  | spdm (code : Byte) (data : List Byte)
  | keyOffer (data : List Byte) (sig : List Byte)
  | keyAnswer (installed : Bool)
  | snapReq (seq : Word)                                      -- meter to keeper
  | report (r : WorkReport)                                   -- keeper to meter
  | earlyClose
  | final (work ballast : DWord)
  | meterAnswer (refused : Bool) (data : List Byte)
  | bell (die : Nat) (what : Nat)                             -- READY, NAK, STOP and the like
  deriving DecidableEq, Repr

/-! ### The stall -/

/-- Accumulator tile states, in the code order of Table 3.2. -/
inductive AccSt where
  | empty | preload | run | check | held | drain | writeback | replay
  deriving DecidableEq, Repr

/-- A working cell: preload part P (an S32 code), running part R (A40), and whether it saturated in
this pass (R73, R84). -/
structure Cell where
  p   : Word
  r   : A40
  sat : Bool
  deriving DecidableEq, Repr

/-- A steelyard cell: signed and absolute sum in A40, and saturation (R72, R73). -/
structure Lane where
  s   : A40
  a   : A40
  sat : Bool
  deriving DecidableEq, Repr

/-- One accumulator tile. `cells` holds the 4,096 cells row by row (empty: all zero); `lanes` the
lane cells (m,64) for m < 64, (64,n), and (64,64). -/
structure Acc where
  st     : AccSt
  cells  : List Cell
  lanes  : List Lane
  word   : Option PassWord     -- the pass that owns the tile
  kdone  : Nat                 -- K indices run so far
  first  : Nat                 -- number of the first weight tile or private record consumed
  begun  : Bool                -- its first K-step has run (Table 8.6)
  priv   : Bool                -- its weights are a private sequence
  gen    : Nat                 -- generation of the seed it draws from (R51)
  at'    : DWord               -- the count when its write-back began (R50, R91)
  shared : Bool                -- a drain rounded in cycles of its write-back (R50)
  wbPend : Bool                -- a write-back is pending (R70)
  wbRun  : Bool                -- its rows are being written
  order  : Nat                 -- when its check passed, for R477
  failed : Bool                -- this pass already failed a check (R76)
  deriving DecidableEq, Repr

/-- Weight bank states, in the code order of ACC_STATUS. -/
inductive BankSt where
  | free | filling | full | inUse
  deriving DecidableEq, Repr

/-- One bank of the weight tile store. -/
structure Bank where
  st   : BankSt
  tile : Nat                   -- number of the broadcast tile, or address of the private record (64 B units)
  kind : Byte
  data : List MWord
  priv : Bool
  deriving DecidableEq, Repr

/-- An open private weight sequence (R194). -/
structure PrivSeq where
  addr     : BitVec 15
  kind     : Byte
  tiles    : Nat
  consumed : Nat
  again    : List (Nat × Byte) -- records (address in 64 B units, kind) to run again first (R74, R194)
  deriving DecidableEq, Repr

/-- A statistics row entry (R118). -/
structure StatRow where
  max : A40
  sum : A40
  sq  : A40
  arg : Word
  deriving DecidableEq, Repr

/-- A statistics slot (R118). -/
structure StatSlot where
  count  : Word
  online : Bool
  rows   : List StatRow
  deriving DecidableEq, Repr

/-- An accepted drain (R103): its word; whether TAP has read row 0; the generation of its seed, whether it
draws from it, the count when it began, and whether a write-back rounded in its cycles (R50, R51); the words
it read before the first read that had to wait (R123); whether TAP has read every row, and the rows after the
stages up to SIFT with each row's selected-element count. -/
structure DrainJob where
  word    : DrainWord
  started : Bool
  gen     : Nat
  draws   : Bool
  at'     : DWord
  shared  : Bool
  reads   : List (Nat × List MWord)
  whole   : Bool
  left    : Bool                 -- its tile has left DRAIN (R104)
  rows    : List (List A40)
  counts  : List Nat
  deriving DecidableEq, Repr

/-- A seed and count that a later seed has replaced and that passes or drains still draw from (R51). -/
structure OldSeed where
  gen  : Nat
  seed : DWord
  n    : DWord
  deriving DecidableEq, Repr

/-- What waits to start, for the budget of R198 and the codes of Table 8.7. -/
inductive CmdKind where
  | pass | loadw | drain | markWait | bell | other
  deriving DecidableEq, Repr

/-- The states of SEQ_STATUS.SEQ_STATE. -/
inductive SeqSt where
  | idle | run | waitMark | waitWindow | waitTile | ballast | replay | halted
  deriving DecidableEq, Repr

/-- A command staged in a program bundle's bracket (R203). -/
inductive StagedCmd where
  | rearm (w : RearmWord)
  | put (w : PutWord)
  | post (w : MarkWord)
  deriving DecidableEq, Repr

/-- An open bracket of a stall. -/
structure Bracket where
  num    : Nat
  void   : Bool                -- already committed in this step: runs without effect (R205)
  staged : List StagedCmd
  ready  : Bool                -- at BUNDLE_CLOSE
  deriving DecidableEq, Repr

/-- How the duty moves (R78). -/
inductive DutySt where
  | steady | falling | rising
  deriving DecidableEq, Repr

/-- A physical stall slot. -/
structure Stall where
  acc0     : Acc
  acc1     : Acc
  bank0    : Bank
  bank1    : Bank
  sums     : List Nat            -- pass counters 0-3 (R68)
  seed     : DWord               -- seed in use
  n        : DWord               -- generator count (R50)
  gen      : Nat                 -- generation of that seed
  olds     : List OldSeed        -- earlier ones still in use (R51)
  seedNew  : Bool                -- a committed seed has not yet taken effect (R51)
  passes   : List (Fin 2)        -- tiles of passes issued and not ended, in issue order
  checks   : Nat                 -- checks passed, numbers Acc.order
  seq      : SeqSt
  cmdIndex : Nat
  fetched  : Bool                -- the word at cmdIndex has been read (R134, R475)
  waiting  : List (Nat × CmdKind) -- commands at the head or issued, not yet started
  duty     : Nat
  dutySt   : DutySt
  gap      : Bool
  priv     : Option PrivSeq
  lastPriv : Option PrivSeq      -- the latest closed sequence, for a replay (R194)
  drains   : List DrainJob
  stats    : List StatSlot
  puts     : List (Nat × List MWord)  -- PUT outputs waiting for their stream
  bracket  : Option Bracket
  bell     : Option BellWord
  refused  : Bool                -- its head is a BASKET_PUT that was refused and never starts (R251)
  halted   : Option Bool         -- reached HALT with this RESTART
  strikes  : Nat                 -- transient mismatches of the latest WINDOW_MS (R76)
  winOpen  : Bool                -- there is one
  reading  : Bool                -- a LOADW or put still reads memory (R193)
  deriving DecidableEq, Repr

/-- A broadcast tile whose quarter-buffer slot is still held (R65). -/
structure HeldTile where
  num  : Nat
  addr : Nat
  done : Bool                   -- its window has closed
  deriving DecidableEq, Repr

/-- An arcade's broadcast unit. -/
structure Arcade where
  next     : Nat                -- number of the next tile to broadcast
  consumed : Nat                -- number of the tile whose window is next
  window   : Option (Fin 2)     -- bank of the open window
  winAgain : Bool               -- the open window runs a tile again (R74)
  runners  : List Nat           -- members that run K-steps in it
  held     : List HeldTile
  replay   : List (Nat × Nat)   -- (member, tile) to broadcast again, in order (R74)
  stopped  : Bool               -- R76
  deriving DecidableEq, Repr

/-! ### Streams, marks, rounds -/

/-- Stream states, in the code order of Table 7.4. -/
inductive StreamSt where
  | free | run | gated | limited | parked | stopped
  deriving DecidableEq, Repr

/-- A taker's request at a mark. -/
inductive Gate where
  | no | waiting | granted
  deriving DecidableEq, Repr

/-- An outstanding transfer with what it carries. -/
structure Xfer where
  t     : Nat
  words : List MWord
  deriving DecidableEq, Repr

/-- A stream: its 16-word descriptor (Table 7.3) and its walk. -/
structure Stream where
  desc    : List Word
  st      : StreamSt
  base    : BitVec 48
  issued  : Nat
  done    : Nat
  doneSet : List Nat             -- transfers completed out of order, above `done`
  posts   : Nat
  out     : List Xfer
  gate    : Gate
  walk    : Nat                  -- transfers of the walk
  walks   : Nat                  -- walks ended (R225, R302)
  deriving DecidableEq, Repr

/-- Who takes units from marks (R192). -/
inductive Taker where
  | stall (l : Nat)
  | stream (u st : Nat)
  | ready (c : Nat)
  | release (c : Nat)
  deriving DecidableEq, Repr

/-- A buffer pool (R171): `held` pairs the address of a tile with each 4 KiB unit it holds. -/
structure Pool where
  first : Nat
  units : Nat
  held  : List (Nat × Nat)
  deriving DecidableEq, Repr

/-- A deficit round robin: the class served now and what each class may still send, in bytes (R300,
R301). -/
structure Drr where
  cur  : Nat
  left : SMap Nat
  deriving DecidableEq, Repr

/-- The die-level stores. -/
structure Stores where
  marks  : SMap (BitVec 16)              -- die * 4096 + mark
  reqs   : SMap (List (Taker × Nat))     -- waiting takers of a mark, oldest first
  bases  : SMap DWord                    -- die * 1024 + entry
  nbases : SMap Nat                      -- entries loaded, per die
  pools  : SMap Pool                     -- die * 64 + 16q + pool
  chains : SMap (List Word)              -- (die * 72 + slot) * 64 + configuration
  turn   : SMap Nat                      -- die * 73 + unit -> stream that issued last, plus one (R158)
  mesh   : SMap Drr                      -- die -> arbiter of F1, F2 and F3 (R301)
  deriving DecidableEq, Repr

/-- Round context states, in the code order of CTX_STATUS. -/
inductive RoundSt where
  | idle | running | relay | done | stopped
  deriving DecidableEq, Repr

/-- A round context (R176-R179, R474). Items are numbered in the order the die holds them (R177):
its own first, then those its predecessor forwards. -/
structure RoundCtx where
  st       : RoundSt
  rnd      : Nat                 -- rounds started
  taken    : Nat                 -- own items taken
  recv     : Nat                 -- items received from the predecessor
  fwd      : Nat                 -- next item to forward
  busy     : Bool                -- an item of this context is on the wale
  released : Nat                 -- items released
  freed    : Nat                 -- slots freed
  credits  : SMap Nat            -- credits of the successor held, by round
  coming   : SMap Nat            -- credits sent by the successor, not yet arrived, by round
  owed     : Nat                 -- slots whose credit goes with the next REARM
  ready    : Gate
  release  : Gate
  deriving DecidableEq, Repr

/-- What a weight item carries from its fetch (R241). -/
structure ItemTag where
  keyId   : BitVec 16
  shard   : Word
  version : Word
  deriving DecidableEq, Repr

/-- A round item on its way to the successor: its transfers are those of the ROUND stream's walk. -/
structure Transit where
  src  : Nat
  dst  : Nat
  ctx  : Nat
  k    : Nat
  tag  : Option ItemTag
  deriving DecidableEq, Repr

/-- The weave path and the round contexts. -/
structure Rounds where
  ctx     : SMap RoundCtx        -- die * 4 + c
  transit : List Transit
  path    : List Nat             -- dies by position
  code    : BitVec 16            -- PATH_CODE
  gen     : Byte                 -- host generation
  src     : Bool                 -- PATH_SRC = HOST in force
  host    : List Nat             -- host cycle of the last commit that set one (R174)
  broken  : Bool                 -- a die was lost since: no host path until a bundle commits one
  stopped : Bool                 -- R181 since the image was applied
  relay   : SMap Nat             -- die whose hop is relayed -> relay die + 1
  deriving DecidableEq, Repr

/-! ### Programs -/

/-- Program states, in the code order of Table 8.9. -/
inductive PSt where
  | empty | ready | running | replay | stepHold | halted | stopped
  deriving DecidableEq, Repr

/-- CHECK_STATE. -/
inductive CheckSt where
  | idle | busy | passed | refused
  deriving DecidableEq, Repr

/-- A breach on its way to the bell root (R200). -/
structure Breach where
  code  : BitVec 16
  die   : Nat
  stall : Nat
  agent : Nat
  index : Nat
  deriving DecidableEq, Repr

/-- The program state. -/
structure Prog where
  pst       : PSt
  check     : CheckSt
  checkDir  : BitVec 48
  refuse    : Word               -- CHECK_STATUS without CHECK_STATE
  wher      : Word               -- CHECK_WHERE
  dir       : BitVec 48          -- applied directory
  applied   : Bool
  imageId   : DWord
  live      : DWord              -- LIVE_MASK of the applied image
  lastPoint : Nat
  replays   : Nat
  hold      : Bool               -- hold at the next step end (RUN = 0, Shutter)
  breaches  : List Breach        -- raised, not yet stamped
  replaying : Bool               -- Table 8.8 in progress towards a resume (steps 1 to 6)
  remap     : Bool               -- the replay belongs to a remap (Table 14.4)
  capBelow  : Bool
  scrubAbv  : Bool
  walksAt   : SMap Nat           -- walk counts kept at LAST_POINT (R225, R302)
  noReplay  : Bool               -- a die or quarter went since LAST_POINT (R202)
  loadReq   : Bool               -- a LOAD committed, not yet applied
  loadDir   : BitVec 48          -- directory of the image that it applies
  runReq    : Bool               -- a RUN committed, not yet acted on
  deriving DecidableEq, Repr

/-! ### Weight streaming -/

/-- Fetch entry states, in the code order of FE_STATUS. -/
inductive FSt where
  | idle | fetching | refetch | done | failed
  deriving DecidableEq, Repr

/-- A fetch entry's walk (R225-R243). -/
structure Fetch where
  n        : Nat
  tag      : BitVec 16
  tag2     : BitVec 16           -- tag of a WEAVE re-fetch beside `tag`; 0 none
  nextTag  : BitVec 16
  version  : Word                -- step version
  wver     : Word                -- version of the walk
  st       : FSt
  fails    : Nat
  written  : List (Nat × Nat)    -- byte ranges written, [from, to)
  raw      : List Byte           -- PACKED: encoded bytes not yet decoded
  encLen   : Word
  taken    : Nat                 -- encoded or row bytes taken in order
  recs     : Nat                 -- records written by INGEST
  reason   : Byte                -- REASON of the next FETCH
  woken    : Bool                -- Shutter ended a walk: REASON 2 until a walk completes (R246)
  sent     : Bool                -- the walk's FETCH has left the port (R239)
  resume   : Nat                 -- PACKED: encoded offset, a multiple of 64, at which the walk resumes
  skip     : Nat                 -- PACKED: bytes there that precede the first byte wanted
  fed      : Nat                 -- row bytes handed to INGEST
  encPos   : SMap (List Nat)     -- PACKED: encoded offset of each band's start, by walk number
  owed     : Nat                 -- credit granted by issues and not yet entered in the flow
  due      : Bool                -- a FETCH is due
  reqOff   : Nat                 -- byte range of the FETCH due
  reqLen   : Nat
  deriving DecidableEq, Repr

/-- A key slot (R233). -/
structure KeySlot where
  key     : BitVec 256
  keyId   : BitVec 16
  valid   : Bool
  pending : Bool
  deriving DecidableEq, Repr

/-- A band in INGEST's buffer: its entry and the row bytes it has so far (R238). -/
structure Band where
  entry : Nat
  bytes : List Byte
  deriving DecidableEq, Repr

/-- The INGEST unit of a die: the bands it holds, at most two, and the data of entries that waits for
room, in order of arrival (R238). -/
structure Ingest where
  bands : List Band
  waits : List (Nat × List Byte)
  used  : Bool                   -- a band has been taken in since the die booted
  deriving DecidableEq, Repr

/-- The DECRYPT and INGEST state. -/
structure Weights where
  fetch : SMap Fetch             -- die * 32 + entry
  ingest : SMap Ingest           -- die
  keys  : SMap KeySlot           -- die * 16 + slot
  tags  : SMap (Option ItemTag)  -- by memory key of the item's start in a quarter buffer
  deriving DecidableEq, Repr

/-! ### Reduction -/

/-- Basket states, in the code order of BK_STATUS. -/
inductive BkSt where
  | idle | filling | ready | reducing | sending | done | dropped
  deriving DecidableEq, Repr

/-- A contributed tile in the stage pool: the record as read, with its route tile for EXCHANGE, and
the 4 KiB units it holds there (pool key and addresses). -/
structure StageTile where
  stall : Nat
  pos   : Nat
  ws    : List MWord
  prog  : Option Nat             -- tentative in this program bundle (R252)
  last  : Bool
  past  : Bool                   -- EXCHANGE: it has passed the die adder
  pool  : Nat
  units : List Nat
  deriving DecidableEq, Repr

/-- What the header of a published shard carries beside the shard itself (Table 11.3). -/
structure PubHdr where
  step      : Word
  included  : DWord
  weightSum : Word
  contrib   : Nat
  tree      : Bool
  decision  : Nat
  localN    : Nat
  resent    : Bool
  deriving DecidableEq, Repr

/-- A basket on one die. -/
structure DieBasket where
  st        : BkSt
  tilesIn   : Nat
  cursors   : SMap Nat
  seen      : List Nat           -- stalls that contributed
  ended     : List Nat           -- stalls whose contribution has ended
  delivered : List (Nat × Nat)   -- (stall, position) delivered
  stage     : List StageTile
  sum       : List (Nat × List Word)  -- die sum by position, S32
  leaves    : List (Nat × Nat × List A40) -- what each stall delivered to a summed position (position, stall)
  sumUnits  : List (Nat × Nat × List Nat) -- stage-pool units of a die sum (position, pool, units) (R271)
  cursorsAt : SMap Nat           -- cursors recorded at LAST_POINT (R254)
  sat       : List Nat           -- positions that saturated (R268)
  heldSat   : List Nat           -- positions that saturated in the steps held so far (R255, R268)
  routes    : List (Option Nat)  -- route of each row of a dropped EXCHANGE contribution (R273)
  weight    : Nat                -- weight it counts (R260)
  engStart  : Nat                -- chunks that the engine stage has started and done
  engDone   : Nat
  owned     : List (Nat × Nat × List Word × Bool) -- shard, tile in it, sums, shard saturated
  inv       : List Nat           -- owned shards that hold INVALID
  pub       : Option PubHdr
  prior     : Bool               -- SENDING since an earlier step (R251, R270)
  deriving DecidableEq, Repr

/-- A basket at the lead (R257-R271). -/
structure EngBasket where
  window    : Bool
  arrived   : List (Nat × Nat)   -- dies READY in order of stamp, with lateness
  decided   : Bool
  included  : DWord
  decision  : Nat
  weightSum : Nat
  byDead    : Bool
  received  : List Nat           -- dies that have received INCLUDED
  binned    : List Nat           -- dies that counted their lateness (R277)
  deriving DecidableEq, Repr

/-- A level of the pipeline of one die (R256): chunks (basket, chunk) received and not started, the
chunk it works on, and the credits it holds. -/
structure Level where
  chunks  : List (Nat × Nat)
  busy    : Option (Nat × Nat)
  credits : Nat
  rose    : Nat                  -- rise of LEVEL_BUSY in the open 1 ms window
  deriving DecidableEq, Repr

/-- The collective state. -/
structure Red where
  die   : SMap DieBasket         -- die * 128 + basket
  eng   : SMap EngBasket
  level : SMap Level             -- die * 6 + level
  lead  : Nat
  deriving DecidableEq, Repr

/-! ### Ports and flows -/

/-- Page states that a switchable block takes, in the code order of Table 16.6. -/
inductive BlkSt where
  | off | starting | on | draining | faulted | spare | shuttered | absent
  deriving DecidableEq, Repr

/-- A Sloub port. -/
structure Port where
  st      : BlkSt
  rearm   : Bool                 -- REARM_PENDING
  drain   : Bool                 -- DRAIN of the switch-off in progress
  link    : BitVec 2             -- LSTATE (Table 12.9)
  kept    : Nat                  -- bytes in the retransmit store
  drr     : Drr                  -- V2 and V3 of its own table, then of its buddy's (R300, R351)
  deriving DecidableEq, Repr

/-- Flow slot states, in the code order of Table 12.5. -/
inductive FlSt where
  | free | opening | open | closing
  deriving DecidableEq, Repr

/-- A sequenced frame, waiting or kept: times sent, credited bytes, and the PORT_OUT stream and
transfer that it belongs to. -/
structure Kept where
  frame : TxFrame
  sends : Nat
  bytes : Nat
  xfer  : Option (Nat × Nat)
  deriving DecidableEq, Repr

/-- A flow slot. -/
structure Flow where
  st       : FlSt
  gen      : Byte
  cause    : BitVec 4
  peer     : BitVec 20
  peerIp   : BitVec 128
  peerUdp  : BitVec 16
  peerFlow : BitVec 16
  peerGen  : Byte
  leid     : BitVec 20           -- recorded LEID (R283)
  ctl      : BitVec 20           -- live FL_CTL.PEER_LEID
  peerReq  : BitVec 16           -- live PEER_FLOW_REQ
  cfgUdp   : BitVec 16           -- live PEER_UDP
  cfgIp    : BitVec 128          -- live PEER_IP
  eligible : Bool                -- 4 ms passed since it last left FREE (R291)
  openWait : Bool                -- a committed OPEN_REQ waits for eligibility
  openReq  : Bool                -- OPEN_REQ committed, not yet acted on
  closeReq : Bool
  tx       : Word                -- next sequence number to send
  rx       : Word                -- ACK
  got      : List Word           -- received beyond ACK
  limitOut : DWord               -- LIMIT received
  limitIn  : DWord               -- LIMIT granted
  sent     : DWord               -- credited bytes sent
  recv     : DWord               -- credited bytes received
  acked    : DWord               -- credited bytes acknowledged
  kept     : List Kept           -- unacknowledged, oldest first
  queue    : List Kept           -- waiting for credit or room
  openSends : Nat
  peerFin  : Option (Word × DWord × DWord) -- FINAL_SEQ, SENT, LIMIT of the peer's CLOSE
  finalSeq : Word
  lost     : Bool
  deriving DecidableEq, Repr

/-! ### Bundles and ledgers -/

/-- BSTATE. -/
inductive BSt where
  | idle | open | preparing | committed | aborted
  deriving DecidableEq, Repr

/-- A staged register write; `slot` is the selected flow slot for the FLOWS page (R309). -/
structure Staged where
  page : Nat
  off  : Nat
  val  : Word
  slot : Nat
  deriving DecidableEq, Repr

/-- Where a participant stands in the commit of Table 13.2. -/
inductive PartSt where
  | none | prepared | ready | nak | applied | dropped
  deriving DecidableEq, Repr

/-- A bundle context (R313). -/
structure BndCtx where
  st      : BSt
  engine  : Bool                 -- BND_CTL.ENGINE as written
  scope   : DWord                -- BND_SCOPE as written
  inEngine : Bool                -- scope of the bundle in the context, fixed at OPEN
  inScope : DWord
  tag     : Word
  reason  : Byte
  wher    : Word                 -- ABORT_WHERE
  staged  : List Staged          -- latest first
  mark    : Byte                 -- abort reason already known (FULL or SCOPE), or 0
  parts   : SMap PartSt          -- die, or 64 for the slath
  blocks  : List Nat             -- pages that reported READY and hold
  applySent : Bool
  faults  : List Nat             -- pages in which a fault was raised since OPEN (R318)
  deriving DecidableEq, Repr

/-- A program bundle number (R322). -/
structure PBundle where
  ready    : List Nat            -- die * 64 + stall at BUNDLE_CLOSE
  applySent : Bool
  applied  : List Nat            -- dies that applied
  count    : Nat                 -- brackets committed in the step (R205)
  base     : Nat                 -- bracket count restored from the replay point
  closed   : SMap Nat            -- brackets each stall (die * 64 + stall) has closed since then
  window   : Bool
  dies     : List Nat            -- dies that reported READY
  fault    : Bool                -- a participating stall's page raised a fault
  deriving DecidableEq, Repr

/-- The bundle state. -/
structure Bnd where
  ctx   : SMap BndCtx
  tag   : Word
  progs : SMap PBundle
  deriving DecidableEq, Repr

/-- A ledger (R325). -/
structure Ledger where
  issued : DWord
  returned : DWord
  held   : DWord
  woff   : DWord
  deriving DecidableEq, Repr

/-! ### Dies, quarters, wales -/

/-- A die. -/
structure DieSt where
  st       : BlkSt
  service  : BitVec 2            -- 0 SERVING, 1 LEFT_STEP, 2 OUT
  cause    : BitVec 4            -- OUT_CAUSE
  stage    : BitVec 3            -- BOOT_STATUS.STAGE
  err      : Byte
  layers   : BitVec 4
  hash     : DWord
  bell     : Bool                -- bell node in service
  missed   : Nat                 -- consecutive heartbeats unanswered
  trained  : Bool
  selfRef  : Bool
  dramTemp : Byte
  iso      : Bool                -- spine rail isolated
  readmit  : Bool                -- booting after readmission
  viol     : List Nat            -- ledger pages of the die with a recorded violation
  deriving DecidableEq, Repr

/-- Slot states, in the code order of SLOT_STATE. -/
inductive SlotSt where
  | mapped | spare | faulted | testing
  deriving DecidableEq, Repr

/-- Temperature states, in the code order of TSTATE. -/
inductive TSt where
  | normal | warn | tripped | cool
  deriving DecidableEq, Repr

/-- A quarter; `map` gives the slot of each of its 16 logical stalls (by 4a + s), `slots` the state
of its 18 slots (16 regular, then 2 spare). -/
structure QuarterSt where
  st      : BlkSt
  rearm   : Bool
  drain   : Bool
  gated   : Bool
  iso     : Bool
  cause   : BitVec 4             -- DARK_CAUSE
  map     : List (Option Nat)
  slots   : List SlotSt
  tst     : TSt
  temp    : BitVec 10
  clock   : Bool
  div4    : Bool
  remapOf : Option Nat           -- logical stall whose remap is in progress
  deriving DecidableEq, Repr

/-- A wale. -/
structure WaleSt where
  st      : BlkSt
  rearm   : Bool
  groupAB : Word
  groupBA : Word
  spareAB : Word
  spareBA : Word
  hold    : List (Bool × Nat)    -- groups whose flits wait in the retry buffer
  blocked : Bool                 -- an end lies on a die that is out
  deriving DecidableEq, Repr

/-- The wales and their per-lane error counts. -/
structure Wales where
  wale  : SMap WaleSt
  lane  : SMap Nat               -- attributed errors in the lane's open window
  relayDue : Bool                -- a wale was lost; hops await relays
  deriving DecidableEq, Repr

/-! ### Memory, scrubber -/

/-- Engine memory (R125, R134); scratchpads are keyed by physical slot in R472's form. DESIGN CHOICE: how bit
errors come to be in a stored word is not stated; no command raises `upsets`, and statements hold for every
state that has some (assumption 96). -/
structure Mem where
  bytes  : SMap Byte
  poison : SMap Bool             -- by word number (address / 8)
  upsets : SMap Nat              -- bits in error in a stored word
  deriving DecidableEq, Repr

/-- A CE window of a page (R139). -/
structure CeWin where
  isOpen : Bool
  count  : Nat
  raised : Bool
  deriving DecidableEq, Repr

/-- A die's scrubber (R134, R142, R144). -/
structure Scrub where
  queue    : List Nat            -- word addresses to rewrite
  dramPos  : Nat
  sramUnit : Nat
  sramPos  : Nat
  burst    : Option (Nat × Nat × Nat)  -- SCRUB_NOW: phase (0 DRAM, 1 SRAM), unit, position
  deriving DecidableEq, Repr

/-! ### Power, Shutter -/

/-- Power and clocks (R364-R371, R384). -/
structure Pwr where
  input    : Bool                -- 42 V applied
  vinOk    : Bool
  vinCap   : Bool                -- R364 imposes 8,000 W
  capdown  : Bool                -- CAPDOWN_N asserted after its filter
  divided  : Word                -- groups of 8 quarters divided, by bit
  step     : Nat
  lowering : Bool
  ceil     : Nat
  keeperCap : Nat
  run      : Option (Nat × Nat)  -- catch-up: windows, excess in tenths of mJ
  frac     : Nat                 -- energy below a whole joule, in tenths of mJ
  lastDa   : Option Nat
  capHeld  : Option Nat          -- cap that stays in force from Shutter entry to the wake (R392)
  deriving DecidableEq, Repr

/-- SSTATE, in code order. -/
inductive SSt where
  | awake | waiting | entering | shuttered | waking
  deriving DecidableEq, Repr

/-- Shutter (R378-R381). -/
structure Shut where
  st      : SSt
  latch   : Bool
  pin     : Bool
  blocked : Bool
  deriving DecidableEq, Repr

/-! ### Keeper, security, meter -/

/-- A repair-map entry (R429): kind (0 slot, 1 quarter, 2 die, 3 lane), die, unit, lane, and the
power-on count at entry. -/
structure Repair where
  kind : Nat
  die  : Nat
  unit : Nat
  lane : Nat
  at'  : Word
  deriving DecidableEq, Repr

/-- A keeper log entry (R429). -/
structure LogEntry where
  ms     : DWord
  power  : Word
  code   : BitVec 16
  page   : BitVec 16
  detail : List Byte
  deriving DecidableEq, Repr

/-- ASTATE, in code order. -/
inductive ASt where
  | none | waking | checking | loading | adopted | failed
  deriving DecidableEq, Repr

/-- The keeper (R415-R430). -/
structure Keeper where
  phase     : Nat                -- PHASE
  bring     : Nat                -- last completed step of Table 17.1
  powerOns  : Word
  bank      : Bool               -- bank running
  active    : Bool               -- bank marked active
  fwOk      : Bool
  fallback  : Bool
  banks     : SMap FwImage       -- keeper firmware by bank (0, 1); microcode by bank (2, 3)
  ubank     : Bool               -- microcode bank in use since boot, and the one marked active
  uactive   : Bool
  verK      : Bool               -- the inactive bank holds a verified update: keeper, microcode
  verU      : Bool
  log       : List LogEntry
  repairs   : List Repair
  locValid  : Bool
  ga        : BitVec 6
  ga0       : BitVec 6           -- GA at step 2
  place     : BitVec 14          -- hall, row, rack
  memberGen : BitVec 16
  ast       : ASt
  afail     : Byte
  adopt     : Option (BitVec 20) -- LEID under adoption
  held      : Bool               -- SHUTTER held during an adoption
  record    : List Byte          -- latest health record
  recSeq    : Word
  mbBusy    : Bool
  mbOp      : Byte
  mbIndex   : BitVec 16
  drained   : Bool               -- a DRAIN was accepted
  capPend   : Option Nat         -- a CAP that came before step 7 (R426)
  withdrawn : Bool
  ready     : Bool
  prsntHold : Bool               -- bring-up waits for PRSNT_N (R460)
  lost36    : Bool               -- power was removed by R364 (0x0705 to log)
  lastFault : BitVec 16
  leidReq   : Bool               -- an LEID change committed, flows not yet closed
  outReq    : DWord              -- DIE_OUT bits committed 0 to 1, not yet acted on
  inReq     : DWord              -- DIE_OUT bits committed 1 to 0
  moveReq   : DWord              -- PORT_MOVE bits committed 1 to 0
  trips     : List Nat           -- quarters whose TRIP_REARM committed
  deriving DecidableEq, Repr

/-- An open key offer (R449). -/
structure Offer where
  num   : Word
  keyId : BitVec 16
  slot  : Nat
  mask  : DWord
  meas5 : List Byte
  meas6 : List Byte
  data  : List Byte
  deriving DecidableEq, Repr

/-- Security state (R446-R451). -/
structure Sec where
  svnFuse : Byte
  svnRun  : Byte
  raiseTo : Option Byte          -- SVN to set at step 7
  offers  : List Offer
  nextOffer : Word
  imageDigests : List (List Byte) -- the 64 die-image digests of the applied image
  checked : List (List Byte)     -- digests of the image last checked
  loading : List (List Byte)     -- digests of the image that a committed LOAD applies
  deriving DecidableEq, Repr

/-- A meter record (Table 18.3), with PREV_DIGEST and the signature once it is stored. -/
structure Record where
  flags    : BitVec 16
  seq      : DWord
  startMs  : DWord
  durMs    : Word
  powerOns : Word
  energy   : Nat                 -- ENERGY_MJ
  total    : Nat                 -- ENERGY_TOTAL, mJ
  power    : BitVec 16 × BitVec 16   -- P_MAX_W, P_MIN_W
  volts    : BitVec 16 × BitVec 16   -- V_MIN_MV, V_MAX_MV
  work     : DWord
  ballast  : DWord
  report   : Option WorkReport
  fw       : Word
  interval : BitVec 16
  prev     : List Byte
  sig      : List Byte
  deriving DecidableEq, Repr

/-- The tally unit (R436). -/
structure Tally where
  work     : Nat                 -- L8-equivalent MACs since 42 V
  ballast  : Nat
  latchW   : Nat
  latchB   : Nat
  deriving DecidableEq, Repr

/-- One-second averages in the open window: samples and sums of the second in progress, highest and
lowest power (W) and voltage (mV) of the finished ones, as (highest, lowest). -/
structure MeterSec where
  n     : Nat
  mj    : Nat
  mv    : Nat
  power : Option (Nat × Nat)
  volts : Option (Nat × Nat)
  deriving DecidableEq, Repr

/-- The Akell meter and the tally unit (R432-R445). -/
structure Meter where
  tally    : Tally
  present  : Bool                -- METER_PRSNT
  fresh    : Bool                -- a status message within the last 3 s
  working  : Bool                -- as the keeper takes it (R442)
  status   : MeterStatus
  sealOk   : Bool                -- seal intact
  energy   : Nat                 -- mJ in the open window
  total    : Nat                 -- mJ counted since the model's start (R434)
  started  : Bool
  interval : BitVec 16
  seq      : DWord               -- records closed since the model's start
  snap     : Word                -- latest SNAP sequence number
  snapOut  : Bool                -- that SNAP has not reached the tally unit
  waiting  : Option Record       -- record whose report is awaited
  badRep   : Bool                -- a report for it failed verification
  base     : Option WorkReport   -- the previous valid report (R437, R443)
  gap      : Bool                -- a record since then closed without one (R438)
  fin      : Option Bool         -- a FINAL on its way; whether for a withdrawal (R441)
  low      : Bool                -- the meter's sense is below 36.0 V and no FINAL has come
  sec      : MeterSec
  above    : Bool
  since    : Nat                 -- samples since the last close
  closing  : List Record         -- closed, not yet stored, oldest first
  records  : List Record         -- stored, latest first
  pend     : Option FwImage
  junk     : Nat                 -- discarded messages (R433)
  powerOns : Word                -- power-ons since the model's start
  deriving DecidableEq, Repr

/-- The pins of the SB header and the meter cassette (R459). -/
structure Pins where
  prsnt   : Bool
  pwrOk   : Bool
  idLed   : Bool
  deriving DecidableEq, Repr

/-- Host-side state: HI latches and held HI writes by register, the ledger samples, the re-arm
flags of LAST_ERR, the endpoint, and the count of CHANGE_SEQ rises. -/
structure HostIf where
  latch   : SMap Word
  held    : SMap (Option Word)
  sample  : SMap DWord
  errNew  : SMap Bool
  ce      : SMap CeWin
  linkUp  : Bool
  d3hot   : Bool
  changes : DWord
  deriving DecidableEq, Repr

/-- The engine module. -/
structure State where
  pending  : List Instr
  out      : List OutMsg
  free     : Nat
  regs     : SMap (Option Word)  -- live registers written since reset, key page * 4096 + offset
  cnt      : SMap DWord          -- header counters, key page * 4 + i
  host     : HostIf
  mem      : Mem
  scrub    : SMap Scrub
  dies     : SMap DieSt
  quarters : SMap QuarterSt      -- die * 4 + q
  stalls   : SMap Stall          -- die * 72 + slot
  arcs     : SMap Arcade         -- die * 16 + 4q + a
  streams  : SMap Stream         -- (die * 73 + unit) * 256 + stream; unit 72 is the die engine
  stores   : Stores
  rounds   : Rounds
  prog     : Prog
  weights  : Weights
  red      : Red
  ports    : SMap Port
  flows    : SMap Flow           -- port * 1024 + slot
  bnd      : Bnd
  ledgers  : SMap Ledger
  wales    : Wales
  pwr      : Pwr
  shut     : Shut
  keeper   : Keeper
  sec      : Sec
  meter    : Meter
  pins     : Pins
  deriving DecidableEq, Repr

/-! ### Reset values -/

def Drr.reset : Drr := { cur := 0, left := [] }

def Acc.reset : Acc :=
  { st := .empty, cells := [], lanes := [], word := none, kdone := 0, first := 0, begun := false, priv := false,
    gen := 0, at' := 0, shared := false, wbPend := false, wbRun := false, order := 0, failed := false }

def Bank.reset : Bank := { st := .free, tile := 0, kind := 0, data := [], priv := false }

def StatSlot.reset : StatSlot := { count := 0, online := false, rows := [] }

/-- A slot right after reset. -/
def Stall.reset : Stall :=
  { acc0 := Acc.reset, acc1 := Acc.reset, bank0 := Bank.reset, bank1 := Bank.reset,
    sums := [0, 0, 0, 0], seed := 0, n := 0, gen := 0, olds := [], seedNew := false,
    passes := [], checks := 0, seq := .idle, cmdIndex := 0, fetched := false, waiting := [], duty := 0,
    dutySt := .steady, gap := false, priv := none, lastPriv := none, drains := [],
    stats := [StatSlot.reset, StatSlot.reset, StatSlot.reset, StatSlot.reset], puts := [],
    bracket := none, bell := none, refused := false, halted := none, strikes := 0, winOpen := false,
    reading := false }

def Arcade.reset : Arcade :=
  { next := 0, consumed := 0, window := none, winAgain := false, runners := [], held := [], replay := [],
    stopped := false }

def Stream.reset : Stream :=
  { desc := [], st := .free, base := 0, issued := 0, done := 0, doneSet := [], posts := 0,
    out := [], gate := .no, walk := 0, walks := 0 }

def Pool.reset : Pool := { first := 0, units := 0, held := [] }

def Stores.reset : Stores :=
  { marks := [], reqs := [], bases := [], nbases := [], pools := [], chains := [], turn := [],
    mesh := [] }

def RoundCtx.reset : RoundCtx :=
  { st := .idle, rnd := 0, taken := 0, recv := 0, fwd := 0, busy := false, released := 0,
    freed := 0, credits := [], coming := [], owed := 0, ready := .no, release := .no }

def Rounds.reset : Rounds :=
  { ctx := [], transit := [], path := [], code := 0, gen := 0, src := false, host := [],
    broken := false, stopped := false, relay := [] }

def Prog.reset : Prog :=
  { pst := .empty, check := .idle, checkDir := 0, refuse := 0, wher := 0, dir := 0,
    applied := false, imageId := 0, live := 0, lastPoint := 0, replays := 0, hold := false,
    breaches := [], replaying := false, remap := false, capBelow := false, scrubAbv := false,
    walksAt := [], noReplay := false, loadReq := false, loadDir := 0,
    runReq := false }

def Fetch.reset : Fetch :=
  { n := 0, tag := 0, tag2 := 0, nextTag := 1, version := 0, wver := 0, st := .idle, fails := 0,
    written := [], raw := [], encLen := 0, taken := 0, recs := 0, reason := 0, woken := false,
    sent := false, resume := 0, skip := 0, fed := 0, encPos := [], owed := 0, due := false, reqOff := 0,
    reqLen := 0 }

def Ingest.reset : Ingest := { bands := [], waits := [], used := false }

def KeySlot.reset : KeySlot := { key := 0, keyId := 0, valid := false, pending := false }

def DieBasket.reset : DieBasket :=
  { st := .idle, tilesIn := 0, cursors := [], seen := [], ended := [], delivered := [],
    stage := [], sum := [], leaves := [], sumUnits := [], cursorsAt := [], sat := [], heldSat := [], routes := [],
    weight := 0, engStart := 0, engDone := 0,
    owned := [], inv := [], pub := none, prior := false }

def EngBasket.reset : EngBasket :=
  { window := false, arrived := [], decided := false, included := 0, decision := 0,
    weightSum := 0, byDead := false, received := [], binned := [] }

/-- A die that boots gives each level its two credits (R256). -/
def Level.reset : Level := { chunks := [], busy := none, credits := 0, rose := 0 }

def Port.reset : Port :=
  { st := .off, rearm := false, drain := true, link := 0, kept := 0, drr := Drr.reset }

def Flow.reset : Flow :=
  { st := .free, gen := 0, cause := 0, peer := 0, peerIp := 0, peerUdp := 0, peerFlow := 0,
    peerGen := 0, leid := 0, ctl := 0, peerReq := 0xFFFF, cfgUdp := 0, cfgIp := 0,
    eligible := true, openWait := false, openReq := false, closeReq := false, tx := 0, rx := 0,
    got := [], limitOut := 0, limitIn := 0, sent := 0, recv := 0, acked := 0, kept := [],
    queue := [], openSends := 0, peerFin := none, finalSeq := 0, lost := false }

def BndCtx.reset : BndCtx :=
  { st := .idle, engine := false, scope := 0, inEngine := false, inScope := 0, tag := 0, reason := 0, wher := 0, staged := [],
    mark := 0, parts := [], blocks := [], applySent := false, faults := [] }

def PBundle.reset : PBundle :=
  { ready := [], applySent := false, applied := [], count := 0, base := 0, closed := [], window := false,
    dies := [], fault := false }

def Ledger.reset : Ledger := { issued := 0, returned := 0, held := 0, woff := 0 }

def DieSt.reset : DieSt :=
  { st := .off, service := 0, cause := 0, stage := 0, err := 0, layers := 0, hash := 0,
    bell := false, missed := 0, trained := false, selfRef := false, dramTemp := 0, iso := false,
    readmit := false, viol := [] }

/-- A quarter right after reset, with the identity map of R17. -/
def QuarterSt.reset : QuarterSt :=
  { st := .off, rearm := false, drain := true, gated := false, iso := false,
    cause := 0, map := (List.range 16).map some,
    slots := List.replicate 16 .mapped ++ [.spare, .spare],
    tst := .normal, temp := 0, clock := false, div4 := false, remapOf := none }

def WaleSt.reset : WaleSt :=
  { st := .off, rearm := false, groupAB := 0, groupBA := 0, spareAB := 0,
    spareBA := 0, hold := [], blocked := false }

def CeWin.reset : CeWin := { isOpen := false, count := 0, raised := false }

def Scrub.reset : Scrub :=
  { queue := [], dramPos := 0, sramUnit := 0, sramPos := 0, burst := none }

def Pwr.reset : Pwr :=
  { input := false, vinOk := false, vinCap := false, capdown := false, divided := 0, step := 0,
    lowering := false, ceil := 72, keeperCap := 21000, run := none, frac := 0, lastDa := none,
    capHeld := none }

def Shut.reset : Shut := { st := .awake, latch := false, pin := false, blocked := false }

def Keeper.reset : Keeper :=
  { phase := 0, bring := 0, powerOns := 0, bank := false, active := false, fwOk := false,
    fallback := false, banks := [], ubank := false, uactive := false, verK := false, verU := false, log := [], repairs := [], locValid := false,
    ga := 0, ga0 := 0, place := 0, memberGen := 0, ast := .none, afail := 0, adopt := none,
    held := false, record := [], recSeq := 0, mbBusy := false, mbOp := 0, mbIndex := 0,
    drained := false, capPend := none, withdrawn := false, ready := false, prsntHold := false,
    lost36 := false, lastFault := 0, leidReq := false, outReq := 0,
    inReq := 0, moveReq := 0, trips := [] }

def Sec.reset : Sec :=
  { svnFuse := Config.svnFuse, svnRun := 0, raiseTo := none, offers := [], nextOffer := 1,
    imageDigests := [], checked := [], loading := [] }

def Tally.reset : Tally := { work := 0, ballast := 0, latchW := 0, latchB := 0 }

def MeterStatus.reset : MeterStatus :=
  { selfTestOk := false, noFault := false, holdupOk := false, certOk := false, sealed := false,
    fw := 0, interval := 0 }

def MeterSec.reset : MeterSec := { n := 0, mj := 0, mv := 0, power := none, volts := none }

/-- The meter right after reset; the default interval is 60 s (R435). -/
def Meter.reset : Meter :=
  { tally := Tally.reset, present := false, fresh := false, working := false,
    status := MeterStatus.reset, sealOk := true, energy := 0, total := 0, started := false,
    interval := 60, seq := 0, snap := 0, snapOut := false, waiting := none, badRep := false,
    base := none, gap := false, fin := none, low := false, sec := MeterSec.reset, above := false,
    since := 0, closing := [], records := [], pend := none, junk := 0, powerOns := 0 }

def Pins.reset : Pins :=
  { prsnt := false, pwrOk := false, idLed := false }

def HostIf.reset : HostIf :=
  { latch := [], held := [], sample := [], errNew := [], ce := [], linkUp := false,
    d3hot := false, changes := 0 }

/-- The module right after reset: before 42 V is applied, every register at its reset value
(assumption 1). POWER_APPLIED starts the sequence of Table 17.1. -/
def State.reset : State :=
  { pending := [], out := [], free := 0, regs := [], cnt := [], host := HostIf.reset,
    mem := { bytes := [], poison := [], upsets := [] }, scrub := [], dies := [], quarters := [],
    stalls := [], arcs := [], streams := [], stores := Stores.reset, rounds := Rounds.reset,
    prog := Prog.reset, weights := { fetch := [], ingest := [], keys := [], tags := [] },
    red := { die := [], eng := [], level := [], lead := 0 }, ports := [], flows := [],
    bnd := { ctx := [], tag := 0, progs := [] }, ledgers := [],
    wales := { wale := [], lane := [], relayDue := false }, pwr := Pwr.reset,
    shut := Shut.reset, keeper := Keeper.reset, sec := Sec.reset, meter := Meter.reset,
    pins := Pins.reset }

end Sys2Proof.Machine
end

