-- ==== Sys2Proof/Machine/Ops.lean ====
section
/-! DEFINITION. The operations every family shares: the parts of the state by key, page numbers,
registers, counters, faults (R333, R402), free values, the identity of stalls (R17, R18) and engine
memory with its protection (R124-R140). -/

namespace Sys2Proof.Machine

/-! ### Deficit round robin (R300, R301) -/

/-- The round robin goes on to the next of `n` classes, which is given its quantum. -/
def Drr.next (x : Drr) (n : Nat) (quantum : Nat → Nat) : Drr :=
  let c := (x.cur + 1) % n
  { cur := c, left := SMap.upd 0 x.left c (· + quantum c) }

/-- The class that sends next and the round robin after it; `need` gives the bytes that wait first in a
class. A class in which nothing waits keeps no deficit. -/
def Drr.pick (n : Nat) (quantum : Nat → Nat) (need : Nat → Option Nat) (fuel : Nat) (x : Drr) :
    Option (Nat × Drr) :=
  match fuel with
  | 0 => none
  | k + 1 =>
    match need x.cur with
    | none => Drr.pick n quantum need k (Drr.next { x with left := SMap.set 0 x.left x.cur 0 } n quantum)
    | some b =>
      if b ≤ SMap.get 0 x.left x.cur then
        some (x.cur, { x with left := SMap.upd 0 x.left x.cur (· - b) })
      else Drr.pick n quantum need k (Drr.next x n quantum)

/-! ### Parts of the state -/

def State.die (s : State) (d : Nat) : DieSt := SMap.get DieSt.reset s.dies d
def State.setDie (s : State) (d : Nat) (x : DieSt) : State :=
  { s with dies := SMap.set DieSt.reset s.dies d x }
def State.quarter (s : State) (d q : Nat) : QuarterSt := SMap.get QuarterSt.reset s.quarters (4 * d + q)
def State.setQuarter (s : State) (d q : Nat) (x : QuarterSt) : State :=
  { s with quarters := SMap.set QuarterSt.reset s.quarters (4 * d + q) x }
/-- The stall in a physical slot. -/
def State.slot (s : State) (d p : Nat) : Stall := SMap.get Stall.reset s.stalls (72 * d + p)
def State.setSlot (s : State) (d p : Nat) (x : Stall) : State :=
  { s with stalls := SMap.set Stall.reset s.stalls (72 * d + p) x }
def State.arc (s : State) (d q a : Nat) : Arcade := SMap.get Arcade.reset s.arcs (16 * d + 4 * q + a)
def State.setArc (s : State) (d q a : Nat) (x : Arcade) : State :=
  { s with arcs := SMap.set Arcade.reset s.arcs (16 * d + 4 * q + a) x }
/-- Key of a stream: the unit is a physical slot, or 72 for the die engine. -/
def streamKey (d u st : Nat) : Nat := (d * 73 + u) * 256 + st
def State.stream (s : State) (d u st : Nat) : Stream := SMap.get Stream.reset s.streams (streamKey d u st)
def State.setStream (s : State) (d u st : Nat) (x : Stream) : State :=
  { s with streams := SMap.set Stream.reset s.streams (streamKey d u st) x }
def State.roundCtx (s : State) (d c : Nat) : RoundCtx := SMap.get RoundCtx.reset s.rounds.ctx (4 * d + c)
def State.setRoundCtx (s : State) (d c : Nat) (x : RoundCtx) : State :=
  { s with rounds := { s.rounds with ctx := SMap.set RoundCtx.reset s.rounds.ctx (4 * d + c) x } }
def State.fetch (s : State) (d e : Nat) : Fetch := SMap.get Fetch.reset s.weights.fetch (32 * d + e)
def State.setFetch (s : State) (d e : Nat) (x : Fetch) : State :=
  { s with weights := { s.weights with fetch := SMap.set Fetch.reset s.weights.fetch (32 * d + e) x } }
def State.ingest (s : State) (d : Nat) : Ingest := SMap.get Ingest.reset s.weights.ingest d
def State.setIngest (s : State) (d : Nat) (x : Ingest) : State :=
  { s with weights := { s.weights with ingest := SMap.set Ingest.reset s.weights.ingest d x } }
def State.keySlot (s : State) (d k : Nat) : KeySlot := SMap.get KeySlot.reset s.weights.keys (16 * d + k)
def State.setKeySlot (s : State) (d k : Nat) (x : KeySlot) : State :=
  { s with weights := { s.weights with keys := SMap.set KeySlot.reset s.weights.keys (16 * d + k) x } }
def State.dieBasket (s : State) (d b : Nat) : DieBasket := SMap.get DieBasket.reset s.red.die (128 * d + b)
def State.setDieBasket (s : State) (d b : Nat) (x : DieBasket) : State :=
  { s with red := { s.red with die := SMap.set DieBasket.reset s.red.die (128 * d + b) x } }
def State.basket (s : State) (b : Nat) : EngBasket := SMap.get EngBasket.reset s.red.eng b
def State.setBasket (s : State) (b : Nat) (x : EngBasket) : State :=
  { s with red := { s.red with eng := SMap.set EngBasket.reset s.red.eng b x } }
def State.level (s : State) (d k : Nat) : Level := SMap.get Level.reset s.red.level (6 * d + k)
def State.setLevel (s : State) (d k : Nat) (x : Level) : State :=
  { s with red := { s.red with level := SMap.set Level.reset s.red.level (6 * d + k) x } }
def State.port (s : State) (p : Nat) : Port := SMap.get Port.reset s.ports p
def State.setPort (s : State) (p : Nat) (x : Port) : State :=
  { s with ports := SMap.set Port.reset s.ports p x }
def State.flow (s : State) (p f : Nat) : Flow := SMap.get Flow.reset s.flows (1024 * p + f)
def State.setFlow (s : State) (p f : Nat) (x : Flow) : State :=
  { s with flows := SMap.set Flow.reset s.flows (1024 * p + f) x }
def State.bctx (s : State) (c : Nat) : BndCtx := SMap.get BndCtx.reset s.bnd.ctx c
def State.setBctx (s : State) (c : Nat) (x : BndCtx) : State :=
  { s with bnd := { s.bnd with ctx := SMap.set BndCtx.reset s.bnd.ctx c x } }
def State.pbundle (s : State) (n : Nat) : PBundle := SMap.get PBundle.reset s.bnd.progs n
def State.setPbundle (s : State) (n : Nat) (x : PBundle) : State :=
  { s with bnd := { s.bnd with progs := SMap.set PBundle.reset s.bnd.progs n x } }
/-- Key of a ledger: die, class, index. -/
def ledgerKey (d cls i : Nat) : Nat := (d * 8 + cls) * 1024 + i
def State.ledger (s : State) (d cls i : Nat) : Ledger :=
  SMap.get Ledger.reset s.ledgers (ledgerKey d cls i)
def State.setLedger (s : State) (d cls i : Nat) (x : Ledger) : State :=
  { s with ledgers := SMap.set Ledger.reset s.ledgers (ledgerKey d cls i) x }
def State.wale (s : State) (w : Nat) : WaleSt := SMap.get WaleSt.reset s.wales.wale w
def State.setWale (s : State) (w : Nat) (x : WaleSt) : State :=
  { s with wales := { s.wales with wale := SMap.set WaleSt.reset s.wales.wale w x } }
def State.scrubber (s : State) (d : Nat) : Scrub := SMap.get Scrub.reset s.scrub d
def State.setScrubber (s : State) (d : Nat) (x : Scrub) : State :=
  { s with scrub := SMap.set Scrub.reset s.scrub d x }

/-- Do the same to each of a list of units. -/
def State.forEach {α : Type} (s : State) (l : List α) (f : State → α → State) : State := l.foldl f s

/-- The 64 die indices. -/
def allDies : List Nat := List.range 64

/-! ### Messages and free values -/

/-- Append a message to what leaves the module. -/
def State.emit (s : State) (m : OutMsg) : State := { s with out := s.out ++ [m] }

/-- The next free value (assumption 24). -/
def State.freeNow (s : State) : DWord := Config.freeValue s.free
/-- The state after a free value is taken. -/
def State.freeNext (s : State) : State := { s with free := s.free + 1 }

/-! ### Pages (Tables 16.2, 16.3) -/

def pgEngineId : Nat := 0x0000
def pgSummary : Nat := 0x0001
def pgBundle : Nat := 0x0002
def pgLedger : Nat := 0x0003
def pgPower : Nat := 0x0004
def pgClocks : Nat := 0x0005
def pgThermal : Nat := 0x0006
def pgShutter : Nat := 0x0007
def pgBell : Nat := 0x0008
def pgAddress : Nat := 0x0009
def pgProgram : Nat := 0x000A
def pgSecurity : Nat := 0x000B
def pgMeter : Nat := 0x000C
def pgMailbox : Nat := 0x000D
def pgSpareMap : Nat := 0x000E
def pgAperture : Nat := 0x000F
def pgReduce : Nat := 0x0010
def pgPort (p : Nat) : Nat := 0x0040 + p
def pgFlows : Nat := 0x0080
/-- WALE page e, or XWALE page e as 112 + e: their indices are consecutive. -/
def pgWale (w : Nat) : Nat := 0x0100 + w
/-- Page at an offset of a die's range. -/
def pgDie (d off : Nat) : Nat := 0x1000 + 0x80 * d + off
def pgDieCtl (d : Nat) : Nat := pgDie d 0x00
def pgDieHealth (d : Nat) : Nat := pgDie d 0x01
def pgDieBundle (d : Nat) : Nat := pgDie d 0x02
def pgDieLedger (d : Nat) : Nat := pgDie d 0x03
def pgMesh (d : Nat) : Nat := pgDie d 0x04
def pgStreams (d : Nat) : Nat := pgDie d 0x05
def pgRound (d : Nat) : Nat := pgDie d 0x06
def pgCollect (d : Nat) : Nat := pgDie d 0x07
def pgDram (d : Nat) : Nat := pgDie d 0x08
def pgScrub (d : Nat) : Nat := pgDie d 0x09
def pgPortLink (d : Nat) : Nat := pgDie d 0x0A
def pgDecrypt (d : Nat) : Nat := pgDie d 0x0B
def pgIngest (d : Nat) : Nat := pgDie d 0x0C
def pgQuarter (d q : Nat) : Nat := pgDie d (0x10 + q)
def pgQbuf (d q : Nat) : Nat := pgDie d (0x14 + q)
def pgStall (d p : Nat) : Nat := pgDie d (0x20 + p)

/-- Whether a page index lies in the dies' range. -/
def isDiePage (page : Nat) : Bool := decide (0x1000 ≤ page ∧ page < 0x3000)
/-- The die of a die page. -/
def pageDie (page : Nat) : Nat := (page - 0x1000) / 0x80
/-- The offset of a die page in its die's range. -/
def pageOff (page : Nat) : Nat := (page - 0x1000) % 0x80

/-- Block type of a die page offset (Table 16.3). -/
def diePageKind (off : Nat) : Option PageKind :=
  if 0x20 ≤ off && off < 0x68 then some .stall
  else if 0x14 ≤ off && off < 0x18 then some .qbuf
  else if 0x10 ≤ off && off < 0x14 then some .quarter
  else
    match off with
    | 0 => some .dieCtl | 1 => some .dieHealth | 2 => some .dieBundle | 3 => some .dieLedger
    | 4 => some .mesh | 5 => some .streams | 6 => some .round | 7 => some .collect
    | 8 => some .dram | 9 => some .scrub | 10 => some .portLink | 11 => some .decrypt
    | 12 => some .ingest | _ => none

/-- Block type of a page index; none where the index is unassigned (R396, R400). -/
def pageKind (page : Nat) : Option PageKind :=
  if isDiePage page then diePageKind (pageOff page)
  else if 0x0040 ≤ page && page < 0x0080 then some .sloubPort
  else if page = 0x0080 then some .flows
  else if 0x0100 ≤ page && page < 0x0170 then some .wale
  else if 0x0170 ≤ page && page < 0x01D2 then some .xwale
  else
    match page with
    | 0 => some .engineId | 1 => some .summary | 2 => some .bundle | 3 => some .ledger
    | 4 => some .power | 5 => some .clocks | 6 => some .thermal | 7 => some .shutter
    | 8 => some .bell | 9 => some .address | 10 => some .program | 11 => some .security
    | 12 => some .meterMirror | 13 => some .mailbox | 14 => some .spareMap | 15 => some .aperture
    | 16 => some .reduce | _ => none

/-! ### Registers -/

/-- Pages whose block CTL.ENABLE switches (Tables 16.2, 16.3). -/
def ctlPage (page : Nat) : Bool :=
  match pageKind page with
  | some .quarter | some .sloubPort | some .wale | some .xwale => true
  | _ => false

/-- Reset value of a register (the tables; DRAIN of a switchable page resets to 1); 0 where a page
lists none. -/
def regReset (page off : Nat) : Word :=
  match pageKind page with
  | none => 0
  | some k =>
    if off = 8 && ctlPage page then 3 else match regRow k off with | some r => r.reset | none => 0

/-- Key of a register. -/
def regKey (page off : Nat) : Nat := page * 4096 + off

/-- The live value of a register. -/
def State.reg (s : State) (page off : Nat) : Word :=
  match SMap.get none s.regs (regKey page off) with
  | some v => v
  | none => regReset page off

/-- Set the live value of a register. -/
def State.poke (s : State) (page off : Nat) (v : Word) : State :=
  let x := if v = regReset page off then none else some v
  { s with regs := SMap.set none s.regs (regKey page off) x }

/-- A quotient rounded to nearest even (R47). -/
def divRne (m k : Nat) : Nat :=
  if 2 * (m % k) < k ∨ (2 * (m % k) = k ∧ m / k % 2 = 0) then m / k else m / k + 1

/-- A field `[hi:lo]` of a word, as a number. -/
def fieldOf (w : Word) (hi lo : Nat) : Nat := (w.toNat / 2 ^ lo) % 2 ^ (hi - lo + 1)
/-- A field of a register. -/
def State.regField (s : State) (page off hi lo : Nat) : Nat := fieldOf (s.reg page off) hi lo
/-- A word with a field `[hi:lo]` replaced. -/
def withField (w : Word) (hi lo v : Nat) : Word :=
  let m := 2 ^ (hi - lo + 1)
  BitVec.ofNat 32 (w.toNat - fieldOf w hi lo * 2 ^ lo + v % m * 2 ^ lo)
/-- Set a field of a register. -/
def State.pokeField (s : State) (page off hi lo v : Nat) : State :=
  s.poke page off (withField (s.reg page off) hi lo v)
/-- Set bits of a register. -/
def State.setBits (s : State) (page off : Nat) (m : Word) : State :=
  s.poke page off (s.reg page off ||| m)
/-- A 64-bit pair LO at `off`, HI at `off + 4`. -/
def State.regPair (s : State) (page off : Nat) : DWord := (s.reg page (off + 4)) ++ (s.reg page off)
/-- Set a 64-bit pair. -/
def State.pokePair (s : State) (page off : Nat) (v : DWord) : State :=
  (s.poke page off (v.extractLsb' 0 32)).poke page (off + 4) (v.extractLsb' 32 32)
/-- Add to a count register that saturates at all ones. -/
def State.incSat (s : State) (page off : Nat) (n : Nat := 1) : State :=
  s.poke page off (BitVec.ofNat 32 (min 0xFFFFFFFF ((s.reg page off).toNat + n)))
/-- Raise a peak register to a value. -/
def State.peak (s : State) (page off v : Nat) : State :=
  if (s.reg page off).toNat < v then s.poke page off (BitVec.ofNat 32 v) else s

/-- Counter `i` of a page's header (R405). -/
def State.counter (s : State) (page i : Nat) : DWord := SMap.get 0 s.cnt (4 * page + i)
/-- Count events in a header counter, modulo 2^64 (R405). -/
def State.count (s : State) (page i : Nat) (n : Nat := 1) : State :=
  { s with cnt := SMap.set 0 s.cnt (4 * page + i) (s.counter page i + BitVec.ofNat 64 n) }

/-! ### Dies, quarters and stalls -/

/-- A die is out of the grid (R343). -/
def State.dieOut (s : State) (d : Nat) : Bool := (s.die d).service == 2
/-- A die that is booted and in the grid. -/
def State.dieLive (s : State) (d : Nat) : Bool := (s.die d).st == .on && !s.dieOut d
/-- The live dies, lowest first. -/
def State.liveDies (s : State) : List Nat := allDies.filter s.dieLive
/-- A set of dies as a mask. -/
def maskOf (l : List Nat) : DWord := l.foldl (fun m d => m ||| BitVec.ofNat 64 (2 ^ d)) 0
/-- A mask as the list of its bits, lowest first. -/
def bitsOf (m : DWord) : List Nat := allDies.filter fun d => m.getLsbD d

/-- The global number of local slot i of quarter q (Table 1.3). -/
def slotNum (q i : Nat) : Nat := if i < 16 then 16 * q + i else 64 + 2 * q + (i - 16)
/-- The quarter of a slot. -/
def slotQuarter (p : Nat) : Nat := if p < 64 then p / 16 else (p - 64) / 2
/-- The local number of a slot in its quarter. -/
def slotLocal (p : Nat) : Nat := if p < 64 then p % 16 else 16 + (p - 64) % 2

/-- The slot of a logical stall (R18). -/
def State.slotOf (s : State) (d l : Nat) : Option Nat :=
  match (s.quarter d (l / 16)).map[l % 16]? with
  | some (some i) => some (slotNum (l / 16) i)
  | _ => none

/-- The logical stall a slot holds. -/
def State.logicalOf (s : State) (d p : Nat) : Option Nat :=
  let q := slotQuarter p
  match (s.quarter d q).map.findIdx? (· == some (slotLocal p)) with
  | some i => some (16 * q + i)
  | none => none

/-- State of a slot. -/
def State.slotState (s : State) (d p : Nat) : SlotSt :=
  (s.quarter d (slotQuarter p)).slots.getD (slotLocal p) .faulted

/-- The quarter is in service. -/
def State.quarterOn (s : State) (d q : Nat) : Bool := (s.quarter d q).st == .on
/-- The quarter's stalls run: it is in service, or leaves it gracefully (R407). -/
def State.quarterRuns (s : State) (d q : Nat) : Bool :=
  s.quarterOn d q || ((s.quarter d q).st == .draining && (s.quarter d q).drain && (s.quarter d q).clock)

/-- Change the stall that a logical number names; nothing where it is unmapped. -/
def State.modStall (s : State) (d l : Nat) (f : Stall → Stall) : State :=
  match s.slotOf d l with
  | some p => s.setSlot d p (f (s.slot d p))
  | none => s
/-- The stall that a logical number names. -/
def State.stallOf (s : State) (d l : Nat) : Stall :=
  match s.slotOf d l with
  | some p => s.slot d p
  | none => Stall.reset

/-- An accumulator tile. -/
def Stall.acc (x : Stall) (t : Fin 2) : Acc := if t = 0 then x.acc0 else x.acc1
def Stall.setAcc (x : Stall) (t : Fin 2) (a : Acc) : Stall :=
  if t = 0 then { x with acc0 := a } else { x with acc1 := a }
/-- A weight bank. -/
def Stall.bank (x : Stall) (b : Fin 2) : Bank := if b = 0 then x.bank0 else x.bank1
def Stall.setBank (x : Stall) (b : Fin 2) (k : Bank) : Stall :=
  if b = 0 then { x with bank0 := k } else { x with bank1 := k }

/-! ### Ledgers (R325, R326)

Every ledger changes through these three operations alone, so that issued less returned, held and
written off stays what it was (R328). -/

/-- Units come into being: issued and held. -/
def State.ledIssue (s : State) (d cls i : Nat) (n : Nat := 1) : State :=
  let l := s.ledger d cls i
  s.setLedger d cls i { l with issued := l.issued + BitVec.ofNat 64 n,
                               held := l.held + BitVec.ofNat 64 n }
/-- Held units are returned. -/
def State.ledReturn (s : State) (d cls i : Nat) (n : Nat := 1) : State :=
  let l := s.ledger d cls i
  s.setLedger d cls i { l with returned := l.returned + BitVec.ofNat 64 n,
                               held := l.held - BitVec.ofNat 64 n }
/-- Held units are written off: the agent that held them is gone; a write-off event is counted in
the ledger page (R326, R331). -/
def State.ledWoff (s : State) (d cls i : Nat) (n : Nat := 1) : State :=
  if n = 0 then s
  else
    let l := s.ledger d cls i
    (s.setLedger d cls i { l with woff := l.woff + BitVec.ofNat 64 n,
                                  held := l.held - BitVec.ofNat 64 n }).count
      (if cls = 7 then pgLedger else pgDieLedger d) 1

/-- The sum that R327 checks. -/
def Ledger.sum (l : Ledger) : DWord := l.issued - l.returned - l.held - l.woff

/-- Ledger classes (Table 13.5). -/
def lgRound : Nat := 0
def lgPool : Nat := 1
def lgPipe : Nat := 2
def lgContrib : Nat := 3
def lgFlowIn : Nat := 4
def lgFlowOut : Nat := 5
def lgXfer : Nat := 6
def lgBell : Nat := 7

/-! ### Engine memory (R125-R140) -/

/-- The fields of an engine memory address (Tables 6.2, 6.3). -/
def addrDie (a : Nat) : Nat := a / 2 ^ 42 % 64
def addrKind (a : Nat) : Nat := a / 2 ^ 40 % 4
def addrOff (a : Nat) : Nat := a % 2 ^ 36

/-- Whether the layout of an address is one that Tables 6.2 and 6.3 allow. -/
def addrOk (a : Nat) : Bool :=
  decide (a < 2 ^ 48) && decide (a / 2 ^ 36 % 16 = 0) &&
  match addrKind a with
  | 0 => true
  | 1 => decide (addrOff a < 2 ^ 26)
  | 2 => decide (addrOff a < 2 ^ 27)
  | _ => false

/-- An address is backed (R126). -/
def State.backed (s : State) (a : Nat) : Bool :=
  addrOk a && (s.die (addrDie a)).st != .absent && (s.die (addrDie a)).st != .faulted

/-- The key of a physical scratchpad byte (R472's form). -/
def slotAddr (d p off : Nat) : Nat := d * 2 ^ 42 + 3 * 2 ^ 40 + p * 2 ^ 21 + off

/-- The memory key of an address: itself, or the slot's key for a scratchpad (R127); none where the
address is unbacked or its stall unmapped. -/
def State.resolve (s : State) (a : Nat) : Option Nat :=
  if !s.backed a then none
  else if addrKind a = 2 then
    (s.slotOf (addrDie a) (addrOff a / 2 ^ 21)).map fun p =>
      slotAddr (addrDie a) p (addrOff a % 2 ^ 21)
  else some a

/-- The page whose registers count a key's memory: DRAM, QBUF or SCRUB (R151). -/
def keyPage (k : Nat) : Nat :=
  match addrKind k with
  | 0 => pgDram (addrDie k)
  | 1 => pgQbuf (addrDie k) (addrOff k / 2 ^ 24)
  | _ => pgScrub (addrDie k)

/-- The page and code of an uncorrectable word (Table 6.4). -/
def ueFault (k : Nat) : Nat × Nat :=
  match addrKind k with
  | 0 => (pgDram (addrDie k), 0x0201)
  | 1 => (pgQbuf (addrDie k) (addrOff k / 2 ^ 24), 0x0202)
  | _ => (pgStall (addrDie k) (addrOff k / 2 ^ 21), 0x0203)

/-- The address that LAST_ERR records for a key (R472). -/
def State.errAddr (s : State) (k : Nat) : Nat :=
  if addrKind k = 3 then
    let d := addrDie k
    let p := addrOff k / 2 ^ 21
    match s.slotState d p, s.logicalOf d p with
    | .mapped, some l => d * 2 ^ 42 + 2 * 2 ^ 40 + l * 2 ^ 21 + addrOff k % 2 ^ 21
    | _, _ => k
  else k

/-- The stored data of word `w` (its key divided by 8). -/
def State.wordData (s : State) (w : Nat) : DWord :=
  BitVec.ofNat 64 ((List.range 8).foldr
    (fun i n => (SMap.get 0 s.mem.bytes (8 * w + i)).toNat + 256 * n) 0)
def State.wordPoison (s : State) (w : Nat) : Bool := SMap.get false s.mem.poison w
def State.wordUpsets (s : State) (w : Nat) : Nat := SMap.get 0 s.mem.upsets w

/-- How the decoder sees a word that is not poisoned: 0 no error, 1 or 2 bits corrected, 3
uncorrectable (R134). -/
def State.eccClass (s : State) (w : Nat) : Nat :=
  let n := s.wordUpsets w
  if n ≤ 3 then n else min 3 (Config.decodeWild w n)

/-- What a read of word `w` returns (R134). -/
def State.peek (s : State) (w : Nat) : MWord :=
  if s.wordPoison w then { val := s.wordData w, poison := true }
  else
    let n := s.wordUpsets w
    { val := if n ≤ 3 then s.wordData w else Config.wildData w n (s.wordData w),
      poison := s.eccClass w == 3 }

/-- Put a word's eight bytes, its marker and valid check bits. -/
def Mem.putWord (m : Mem) (w : Nat) (v : MWord) : Mem :=
  { bytes := (List.range 8).foldl
      (fun b i => SMap.set 0 b (8 * w + i) (v.val.extractLsb' (8 * i) 8)) m.bytes
    poison := SMap.set false m.poison w v.poison
    upsets := SMap.set 0 m.upsets w 0 }

/-- A write that covers all of a word (R132, R137). -/
def State.putWord (s : State) (w : Nat) (v : MWord) : State := { s with mem := s.mem.putWord w v }

/-- Zero with valid check bits over the keys `[lo, hi)` (R141), both multiples of 8. -/
def State.zeroRange (s : State) (lo hi : Nat) : State :=
  { s with mem :=
      { bytes := s.mem.bytes.filter fun e => !(decide (lo ≤ e.1) && decide (e.1 < hi))
        poison := s.mem.poison.filter fun e => !(decide (lo ≤ 8 * e.1) && decide (8 * e.1 < hi))
        upsets := s.mem.upsets.filter fun e => !(decide (lo ≤ 8 * e.1) && decide (8 * e.1 < hi)) } }

/-- The DRAM of a die reads zero. -/
def State.zeroDram (s : State) (d : Nat) : State := s.zeroRange (d * 2 ^ 42) (d * 2 ^ 42 + 2 ^ 36)
/-- A quarter buffer reads zero. -/
def State.zeroQbuf (s : State) (d q : Nat) : State :=
  s.zeroRange (d * 2 ^ 42 + 2 ^ 40 + q * 2 ^ 24) (d * 2 ^ 42 + 2 ^ 40 + (q + 1) * 2 ^ 24)
/-- A slot's scratchpad reads zero. -/
def State.zeroSlot (s : State) (d p : Nat) : State := s.zeroRange (slotAddr d p 0) (slotAddr d (p + 1) 0)
/-- The 18 scratchpads of a quarter read zero. -/
def State.zeroScratch (s : State) (d q : Nat) : State :=
  s.forEach (List.range 18) fun t i => t.zeroSlot d (slotNum q i)

end Sys2Proof.Machine
end

