-- ==== Sys2Proof/Machine/Flags.lean ====
section
/-! DEFINITION. Recording of faults (R333, R402) and the reads and writes of engine memory with what
they count (R132-R140): CE and UE counts, LAST_ERR, CE windows, the rewrite queue. -/

namespace Sys2Proof.Machine

/-! ### Faults -/

/-- Header registers of Table 16.4. -/
def rFault : Nat := 0x010
def rFaultFirst : Nat := 0x014
def rBundleTag : Nat := 0x018

/-- A context notes the pages in which a fault is raised after its OPEN (R318). -/
def BndCtx.noteFault (c : BndCtx) (page : Nat) : BndCtx :=
  if (c.st == .open || c.st == .preparing) && !c.faults.contains page
  then { c with faults := page :: c.faults } else c

/-- The program bundle whose bracket is open in the stall of a STALL page (R324). -/
def State.openBracket (s : State) (page : Nat) : Option Nat :=
  if isDiePage page && decide (0x20 ≤ pageOff page) then
    ((s.slot (pageDie page) (pageOff page - 0x20)).bracket).map (·.num)
  else none

/-- Record a fault code in a page: class bit, LAST_CODE, FAULT_FIRST (R402), and for a die page
LAST_FAULT and the count of DIE_HEALTH (R333, R361). The keeper carries the code in its health
record. The pages of a die that is out keep the values they held (R344). -/
def State.raise (s : State) (page code : Nat) : State :=
  let d := pageDie page
  if isDiePage page && s.dieOut d && page != pgDieHealth d then s
  else
    let old := s.reg page rFault
    let s1 := s.poke page rFault (withField (old ||| BitVec.ofNat 32 (2 ^ (code / 256))) 31 16 code)
    let s2 := if fieldOf old 10 1 = 0 then s1.poke page rFaultFirst (BitVec.ofNat 32 code) else s1
    let s3 := if isDiePage page then
        (s2.poke (pgDieHealth d) 0x044 (BitVec.ofNat 32 (code * 65536 + pageOff page))).count
          (pgDieHealth d) 0
      else s2
    let ctx := s3.bnd.ctx.map fun e => (e.1, e.2.noteFault page)
    let s4 := { s3 with
      keeper := { s3.keeper with lastFault := BitVec.ofNat 16 code }
      bnd := { s3.bnd with ctx := ctx } }
    match s4.openBracket page with
    | some n => s4.setPbundle n { s4.pbundle n with fault := true }
    | none => s4

/-! ### Error registers of DRAM, QBUF and SCRUB (Table 6.5) -/

def rErrCtl : Nat := 0x048
def rCe1 : Nat := 0x04C
def rCe2 : Nat := 0x050
def rUe : Nat := 0x054
def rPoisonRead : Nat := 0x058
def rLastErrLo : Nat := 0x05C
def rLastErrHi : Nat := 0x060
def rLastSyndrome : Nat := 0x064

/-- The units that read memory, in the code order of LAST_ERR_HI.SOURCE. -/
def srcStall : Nat := 0
def srcStream : Nat := 1
def srcScrub : Nat := 2
def srcAperture : Nat := 3
def srcPort : Nat := 4
def srcRemap : Nat := 5
def srcImage : Nat := 6
def srcSelfTest : Nat := 7

/-- LAST_ERR takes the latest uncorrectable error since LAST_ERR_LO was read, otherwise the latest
corrected one (R140). -/
def State.noteErr (s : State) (page src cls w : Nat) : State :=
  if cls < 3 && SMap.get false s.host.errNew page then s
  else
    let a := s.errAddr (8 * w)
    let s1 := s.poke page rLastErrLo (BitVec.ofNat 32 a)
    let s2 := s1.poke page rLastErrHi
      (BitVec.ofNat 32 (src * 2 ^ 24 + cls * 2 ^ 16 + a / 2 ^ 32 % 2 ^ 16))
    let s3 := s2.poke page rLastSyndrome ((Config.syndrome w (s.wordUpsets w)).zeroExtend 32)
    { s3 with host := { s3.host with
        errNew := SMap.set false s3.host.errNew page (SMap.get false s3.host.errNew page || cls == 3) } }

/-- The reset value of a CE window (closed). -/
def State.ceWin (s : State) (page : Nat) : CeWin := SMap.get CeWin.reset s.host.ce page
def State.setCeWin (s : State) (page : Nat) (c : CeWin) : State :=
  { s with host := { s.host with ce := SMap.set CeWin.reset s.host.ce page c } }

/-- Count a corrected word in the page's CE window, which it opens if none is open; over CE_LIMIT
raises 0x0204 once per window (R139, R473). -/
def State.noteCe (s : State) (page : Nat) : State :=
  let c := s.ceWin page
  let n := if c.isOpen then c.count + 1 else 1
  let r := if c.isOpen then c.raised else false
  let above := decide (s.regField page rErrCtl 15 0 < n) && !r
  let s1 := s.setCeWin page { isOpen := true, count := n, raised := r || above }
  if above then s1.raise page 0x0204 else s1

/-- A double-bit correction enters the die's rewrite queue of 64 addresses, or is counted as dropped
(R134). DESIGN CHOICE: an address that the queue holds already enters it again, since the spec does not say
whether the queue holds duplicates (assumption 96). -/
def State.queueRewrite (s : State) (d w : Nat) : State :=
  let q := s.scrubber d
  if q.queue.length < 64 then s.setScrubber d { q with queue := q.queue ++ [w] }
  else s.incSat (pgDram d) 0x068

/-- The DRAM and QBUF pages count corrected words in their first counter (R152, R153). -/
def State.noteCorrected (s : State) (k : Nat) : State :=
  if addrKind k < 2 then s.count (keyPage k) 0 else s

/-- What one read of word `w` by unit `src` counts and records (R134). -/
def State.noteRead (s : State) (src w : Nat) : State :=
  let k := 8 * w
  let page := keyPage k
  if s.wordPoison w then s.incSat page rPoisonRead
  else
    match s.eccClass w with
    | 0 => s
    | 1 => (((s.incSat page rCe1).noteCorrected k).noteErr page src 1 w).noteCe page
    | 2 => ((((s.incSat page rCe2).noteCorrected k).noteErr page src 2 w).noteCe page).queueRewrite
        (addrDie k) w
    | _ =>
      let s1 := (s.incSat page rUe).noteErr page src 3 w
      let s2 := s1.putWord w { val := s.wordData w, poison := true }
      s2.raise (ueFault k).1 (ueFault k).2

/-- Bytes read and written are counted in the DRAM page (R152). -/
def State.noteBytes (s : State) (k : Nat) (rd : Bool) (n : Nat) : State :=
  if addrKind k = 0 then s.count (pgDram (addrDie k)) (if rd then 1 else 2) n else s

/-- The words that the byte range `[k, k + n)` touches. -/
def wordsOf (k n : Nat) : List Nat :=
  if n = 0 then [] else (List.range ((k + n - 1) / 8 + 1 - k / 8)).map (k / 8 + ·)

/-- The words read at a key (a multiple of 8): their values as every agent receives them. -/
def State.readWords (s : State) (k n : Nat) : List MWord := (List.range n).map fun i => s.peek (k / 8 + i)

/-- The accounting of a read of `n` bytes at a key. -/
def State.noteReads (s : State) (src k n : Nat) : State :=
  ((wordsOf k n).foldl (fun t w => t.noteRead src w) s).noteBytes k true n

/-- Byte `a` as a read returns it, and whether its word is poisoned. -/
def State.readByte (s : State) (a : Nat) : Byte × Bool :=
  let w := s.peek (a / 8)
  (w.val.extractLsb' (8 * (a % 8)) 8, w.poison)

/-- Write whole words at a key with their markers (R136). -/
def State.writeWords (s : State) (k : Nat) (l : List MWord) : State :=
  ((l.zipIdx).foldl (fun t e => t.putWord (k / 8 + e.2) e.1) s).noteBytes k false (8 * l.length)

/-- A word with byte `i` replaced. -/
def putByte (w : DWord) (i : Nat) (b : Byte) : DWord :=
  (w &&& ~~~(BitVec.ofNat 64 (0xFF * 2 ^ (8 * i)))) ||| BitVec.ofNat 64 (b.toNat * 2 ^ (8 * i))

/-- Write part of one word: a read-modify-write (R132); a poisoned word stays and the write is
counted (R137). -/
def State.writePart (s : State) (src w : Nat) (l : List (Nat × Byte)) : State :=
  if s.wordPoison w then s.incSat (keyPage (8 * w)) rPoisonRead
  else
    let t := s.noteRead src w
    if t.wordPoison w then t.incSat (keyPage (8 * w)) rPoisonRead
    else t.putWord w
      { val := l.foldl (fun v e => putByte v e.1 e.2) (s.peek w).val, poison := false }

/-- The bytes of a write that fall in word `w`, by position in the word. -/
def bytesIn (k : Nat) (l : List Byte) (w : Nat) : List (Nat × Byte) :=
  (List.range 8).filterMap fun i =>
    if 8 * w + i < k then none else (l[8 * w + i - k]?).map fun b => (i, b)

/-- Write bytes at a key, word by word: a fully covered word is replaced, a partly covered one is
read, merged and written (R132, R137). -/
def State.writeBytes (s : State) (src k : Nat) (l : List Byte) : State :=
  ((wordsOf k l.length).foldl (fun t w =>
    let p := bytesIn k l w
    if p.length = 8 then
      t.putWord w { val := p.foldl (fun v e => putByte v e.1 e.2) 0, poison := false }
    else t.writePart src w p) s).noteBytes k false l.length

/-- The elements of a tile are INVALID where their word is poisoned (R135): element of `b` bytes at
byte offset `o` of the words read from a key. -/
def elemAt (ws : List MWord) (b o : Nat) : Option Nat :=
  match ws[o / 8]? with
  | none => none
  | some w => if w.poison then none else some ((w.val.toNat / 2 ^ (8 * (o % 8))) % 2 ^ (8 * b))

/-- A signed scale byte (R31). -/
def scaleInt (n : Nat) : Int := (BitVec.ofNat 8 n).toInt

/-- The words of a tile or record of a kind, as read: data, then the scale tile if SCALED (R129). -/
structure Tile where
  kind : Byte
  ws   : List MWord
  deriving DecidableEq, Repr

/-- Element (r, c) of a tile with its block scale; INVALID where its word, or its scale's word, is
poisoned (R31, R32, R128, R135). -/
def Tile.el (t : Tile) (r c : Nat) : Elem :=
  let b := kindBytes t.kind
  match elemAt t.ws b ((64 * r + c) * b) with
  | none => none
  | some v =>
    if kindScaled t.kind then
      (elemAt t.ws 1 (4096 * b + (if kindAxis t.kind then c else r))).map fun x => (v, scaleInt x)
    else some (v, 0)

/-- A tile of a kind at a key. -/
def State.tileAt (s : State) (k : Nat) (kind : Byte) : Tile :=
  { kind := kind, ws := s.readWords k (recordBytes kind / 8) }

end Sys2Proof.Machine
end

