-- ==== Sys2Proof/Machine/Streams.lean ====
section
/-! DEFINITION. Streams, dependence marks, buffer pools and breaches (R157-R171, R192, R200): the
operations that the stall, round, port and program families share. -/

namespace Sys2Proof.Machine

/-! ### Breaches (R200) -/

/-- Raise a SCHEDULE_BREACH: it travels to the bell root, which stamps it (BREACH_STAMP). While
PSTATE is REPLAY it is counted and has no other effect. Streams and rounds still at work after HALTED can
raise one too (assumption 92). -/
def State.breach (s : State) (code d stall agent index : Nat) : State :=
  let new : Breach := { code := BitVec.ofNat 16 code, die := d, stall := stall, agent := agent, index := index }
  match s.prog.pst with
  | .running => { s with prog := { s.prog with breaches := s.prog.breaches ++ [new] } }
  | .halted => { s with prog := { s.prog with breaches := s.prog.breaches ++ [new] } }
  | .replay => s.count pgProgram 2
  | _ => s

/-! ### Descriptor fields (Table 7.3) -/

/-- Register `i` of a descriptor, at byte offset `4 i`. -/
def Stream.word (x : Stream) (i : Nat) : Word := x.desc.getD i 0
def Stream.persist (x : Stream) : Bool := (x.word 2).getLsbD 31
def Stream.ndim (x : Stream) : Nat := fieldOf (x.word 2) 30 28
def Stream.isRun (x : Stream) : Bool := (x.word 2).getLsbD 27
def Stream.role (x : Stream) : Nat := fieldOf (x.word 2) 26 24
def Stream.qmask (x : Stream) : Nat := fieldOf (x.word 2) 23 20
def Stream.kind (x : Stream) : Byte := (x.word 2).extractLsb' 0 8
def Stream.slots (x : Stream) : Nat := fieldOf (x.word 3) 31 16
def Stream.localBase (x : Stream) : Nat := fieldOf (x.word 3) 14 0
def Stream.countOf (x : Stream) (k : Nat) : Nat :=
  fieldOf (x.word (4 + k / 2)) (if k % 2 = 0 then 15 else 31) (if k % 2 = 0 then 0 else 16)
def Stream.strideOf (x : Stream) (k : Nat) : Int := (x.word (7 + k)).toInt
def Stream.waitEvery (x : Stream) : Nat := fieldOf (x.word 12) 31 16
def Stream.waitMark (x : Stream) : Nat := fieldOf (x.word 12) 11 0
def Stream.postEvery (x : Stream) : Nat := fieldOf (x.word 13) 31 16
def Stream.postEnd (x : Stream) : Bool := (x.word 13).getLsbD 15
def Stream.postMark (x : Stream) : Nat := fieldOf (x.word 13) 11 0

/-- Roles (Table 7.2). -/
def roleLoad : Nat := 0
def roleStore : Nat := 1
def rolePut : Nat := 2
def roleBcast : Nat := 3
def roleRound : Nat := 4
def rolePortIn : Nat := 5
def rolePortOut : Nat := 6

/-- Bytes of one transfer (R161). -/
def Stream.size (x : Stream) : Nat := if x.isRun then x.countOf 0 else recordBytes x.kind
/-- The dimensions that a walk steps through (dimension 0 is the run itself with UNIT = 1). -/
def Stream.dims (x : Stream) : List Nat :=
  (List.range x.ndim).filter fun k => !(x.isRun && k == 0)
/-- Transfers of a walk. -/
def Stream.walkLen (x : Stream) : Nat := x.dims.foldl (fun n k => n * x.countOf k) 1

/-- Offset of transfer `t` from the base, in units of the strides (R161). -/
def strideSum (x : Stream) (l : List Nat) (t : Nat) : Int :=
  match l with
  | [] => 0
  | k :: r => (t % x.countOf k : Nat) * x.strideOf k + strideSum x r (t / x.countOf k)

/-- Byte offset of transfer `t` from the base. -/
def Stream.offset (x : Stream) (t : Nat) : Int :=
  strideSum x x.dims t * (if x.isRun then 1 else (recordBytes x.kind : Nat))
/-- Far address of transfer `t`. -/
def Stream.far (x : Stream) (t : Nat) : Nat := ((x.base.toNat : Int) + x.offset t).toNat

/-- Memory key of the ring slot of transfer `t` (R161): in the unit's own scratchpad, or in a
quarter buffer for the die engine. -/
def Stream.ring (x : Stream) (d u t : Nat) : Nat :=
  let o := t % max 1 x.slots * x.size
  if u < 72 then slotAddr d u (64 * x.localBase + o)
  else d * 2 ^ 42 + 2 ^ 40 + x.localBase / 4096 % 4 * 2 ^ 24 + x.localBase % 4096 * 4096 + o

/-- Limit on outstanding transfers of a unit (Table 7.1). -/
def unitLimit (u : Nat) : Nat := if u < 72 then 32 else 512

/-- The streams of a unit, by stream number. -/
def State.unitStreams (s : State) (d u : Nat) : List (Nat × Stream) :=
  (s.streams.filter fun e => e.1 / 256 == d * 73 + u).map fun e => (e.1 % 256, e.2)
/-- Outstanding transfers of a unit. -/
def State.unitOut (s : State) (d u : Nat) : Nat :=
  (s.unitStreams d u).foldl (fun n e => n + e.2.out.length) 0
/-- Outstanding transfers of all stall units of a die. -/
def State.stallsOut (s : State) (d : Nat) : Nat :=
  (s.streams.filter fun e => e.1 / 256 / 73 == d && e.1 / 256 % 73 != 72).foldl
    (fun n e => n + e.2.out.length) 0
/-- Outstanding transfers of the die's port (roles PORT_IN and PORT_OUT). -/
def State.portOut (s : State) (d : Nat) : Nat :=
  ((s.unitStreams d 72).filter fun e => e.2.role == rolePortIn || e.2.role == rolePortOut).foldl
    (fun n e => n + e.2.out.length) 0

/-! ### Buffer pools (R171) -/

/-- Units of a pool that are held. -/
def Pool.used (p : Pool) : Nat := (p.held.map (·.2)).eraseDups.length

/-- Pool `i` of quarter `q`. -/
def State.pool (s : State) (d q i : Nat) : Pool := SMap.get Pool.reset s.stores.pools (64 * d + 16 * q + i)

/-- 4 KiB units held in a quarter buffer (QBUF.USED_4K). -/
def State.qbufUsed (s : State) (d q : Nat) : Nat :=
  (List.range 16).foldl (fun n i => n + (s.pool d q i).used) 0

/-- Change a pool; units that become held are issued in its ledger, units released are returned, and
QBUF_PEAK follows. -/
def State.setPool (s : State) (d q i : Nat) (p : Pool) : State :=
  let old := (s.pool d q i).used
  let s1 := { s with stores := { s.stores with
    pools := SMap.set Pool.reset s.stores.pools (64 * d + 16 * q + i) p } }
  let s2 := if old < p.used then s1.ledIssue d lgPool (16 * q + i) (p.used - old)
    else if p.used < old then s1.ledReturn d lgPool (16 * q + i) (old - p.used)
    else s1
  s2.peak (pgQbuf d q) 0x044 (s2.qbufUsed d q)

/-- The pool of quarter `q` that holds a 4 KiB unit. -/
def State.poolOf (s : State) (d q unit : Nat) : Option Nat :=
  (List.range 16).find? fun i =>
    let p := s.pool d q i
    decide (p.first ≤ unit ∧ unit < p.first + p.units)

/-- Hold the units of `len` bytes at a quarter-buffer key, for the tile that starts there; what the
tile held before is released first. Other memory holds nothing. -/
def State.hold (s : State) (k len : Nat) : State :=
  if addrKind k != 1 then s
  else
    let d := addrDie k
    let q := addrOff k / 2 ^ 24
    let o := addrOff k % 2 ^ 24
    match s.poolOf d q (o / 4096) with
    | none => s
    | some i =>
      let p := s.pool d q i
      let us := (List.range ((o + len - 1) / 4096 + 1 - o / 4096)).map fun j => (o, o / 4096 + j)
      s.setPool d q i { p with held := p.held.filter (·.1 != o) ++ us }

/-- Release what tiles that start in `[k, k + len)` hold. -/
def State.unhold (s : State) (k len : Nat) : State :=
  if addrKind k != 1 then s
  else
    let d := addrDie k
    let q := addrOff k / 2 ^ 24
    let o := addrOff k % 2 ^ 24
    match s.poolOf d q (o / 4096) with
    | none => s
    | some i =>
      let p := s.pool d q i
      s.setPool d q i { p with held := p.held.filter fun e => !(decide (o ≤ e.1) && decide (e.1 < o + len)) }

/-! ### Marks (R164, R192) -/

/-- Count of a mark. -/
def State.mark (s : State) (d m : Nat) : Nat := (SMap.get 0 s.stores.marks (4096 * d + m)).toNat
def State.setMark (s : State) (d m n : Nat) : State :=
  { s with stores := { s.stores with
    marks := SMap.set 0 s.stores.marks (4096 * d + m) (BitVec.ofNat 16 n) } }
/-- Requests waiting at a mark, oldest first. -/
def State.markReqs (s : State) (d m : Nat) : List (Taker × Nat) :=
  SMap.get [] s.stores.reqs (4096 * d + m)
def State.setReqs (s : State) (d m : Nat) (l : List (Taker × Nat)) : State :=
  { s with stores := { s.stores with reqs := SMap.set [] s.stores.reqs (4096 * d + m) l } }

/-- A command at the head has issued and started: the next word becomes the head. -/
def Stall.advance (x : Stall) (st : SeqSt) : Stall :=
  { x with waiting := x.waiting.filter (·.1 != x.cmdIndex), cmdIndex := x.cmdIndex + 1, fetched := false, seq := st }

/-- A request is served: a MARK_WAIT has its units and starts; a stream or a round context may go
on. -/
def State.grant (s : State) (d : Nat) (k : Taker) : State :=
  match k with
  | .stall l => s.modStall d l fun x => x.advance .run
  | .stream u st =>
    let x := s.stream d u st
    s.setStream d u st { x with gate := .granted, st := if x.st == .gated then .run else x.st }
  | .ready c => s.setRoundCtx d c { s.roundCtx d c with ready := .granted }
  | .release c => s.setRoundCtx d c { s.roundCtx d c with release := .granted }

/-- Serve requests in their order, each taking all its units at once. -/
def serveReqs (s : State) (d m : Nat) (l : List (Taker × Nat)) : State :=
  match l with
  | [] => s.setReqs d m []
  | (k, n) :: r =>
    if n ≤ s.mark d m then serveReqs ((s.setMark d m (s.mark d m - n)).grant d k) d m r
    else s.setReqs d m ((k, n) :: r)

/-- Ask for `n` units: served at once where none waits before and the count is enough. -/
def State.askMark (s : State) (d m n : Nat) (k : Taker) : State :=
  serveReqs s d m (s.markReqs d m ++ [(k, n)])

/-- Who posts, for BREACH_INFO (Table 8.10): agent code, logical stall, index. -/
structure Poster where
  agent : Nat
  stall : Nat
  index : Nat

/-- Post `n` units; above 65,535 it is the breach 0x0307 and the count is left unchanged. -/
def State.postMark (s : State) (d m n : Nat) (by' : Poster) : State :=
  if 65535 < s.mark d m + n then s.breach 0x0307 d by'.stall by'.agent by'.index
  else
    let t := s.setMark d m (s.mark d m + n)
    serveReqs t d m (t.markReqs d m)

/-! ### Holds of a bundle (R319) -/

/-- A block holds between its READY and APPLY or ABORT reaching it. -/
def State.held (s : State) (page : Nat) : Bool := s.bnd.ctx.any fun e => e.2.blocks.contains page
/-- The page whose hold stops a unit's transfers. -/
def unitPage (d u : Nat) : Nat := if u < 72 then pgStall d u else pgStreams d

/-! ### Transfers -/

/-- The owner of a stream as a poster. -/
def State.unitPoster (s : State) (d u st : Nat) : Poster :=
  if u < 72 then { agent := 1, stall := (s.logicalOf d u).getD 0, index := st }
  else { agent := 2, stall := 0, index := st }

/-- Streams, round contexts and baskets are at work: in the step, and after HALTED until what they hold
is done, since PSTATE becomes HALTED without waiting for them (R206). -/
def State.atWork (s : State) : Bool := s.prog.pst == .running || s.prog.pst == .halted

/-- The stream may issue its next transfer as far as the walk, the program and holds go. -/
def State.mayIssue (s : State) (d u st : Nat) : Bool :=
  let x := s.stream d u st
  s.atWork && s.dieLive d && !s.held (unitPage d u) &&
  (x.st == .run || x.st == .gated || x.st == .limited) && decide (x.issued < x.walk)

/-- The next transfer is a gate whose unit has not been taken (R164). -/
def Stream.atGate (x : Stream) : Bool :=
  x.waitEvery != 0 && x.issued % x.waitEvery == 0 && x.gate != .granted

/-- The owner, or the port for its roles, is at its limit (R158). -/
def State.atLimit (s : State) (d u st : Nat) : Bool :=
  let x := s.stream d u st
  decide (unitLimit u ≤ s.unitOut d u) ||
  ((x.role == rolePortIn || x.role == rolePortOut) && decide (256 ≤ s.portOut d))

/-- Take the gate's unit where there is one to take: the request is made once (R164). -/
def State.takeGate (s : State) (d u st : Nat) : State :=
  let x := s.stream d u st
  if !x.atGate || x.gate == .waiting then s
  else (s.setStream d u st { x with gate := .waiting, st := .gated }).askMark d x.waitMark 1
    (.stream u st)

/-- Count a new outstanding transfer that carries `ws` (R158): ledgers and peaks follow. -/
def State.issueXfer (s : State) (d u st : Nat) (ws : List MWord) : State :=
  let x := s.stream d u st
  let s1 := s.setStream d u st
    { x with out := x.out ++ [{ t := x.issued, words := ws }], issued := x.issued + 1,
             gate := .no, st := .run }
  let s2 := s1.ledIssue d lgXfer (if u < 72 then u else 72)
  let s3 := if x.role == rolePortIn || x.role == rolePortOut then s2.ledIssue d lgXfer 73 else s2
  let pk := s3.reg (pgStreams d) 0x048
  s3.poke (pgStreams d) 0x048 (BitVec.ofNat 32
    (max (fieldOf pk 25 16) (s3.unitOut d 72) * 65536 + max (fieldOf pk 11 0) (s3.stallsOut d)))

/-- In-order completion: the first index not yet completed (R165). -/
def doneFrom (n : Nat) (l : List Nat) (fuel : Nat) : Nat :=
  match fuel with
  | 0 => n
  | k + 1 => if l.contains n then doneFrom (n + 1) l k else n

/-- Make the posts that completed groups owe, one unit each, and end the walk when it is complete (R163,
R165). The walk of a ROUND stream is one item: its context parks it (R179). -/
def State.walkEnd (s : State) (d u st : Nat) : State :=
  let x := s.stream d u st
  let groups := if x.postEvery = 0 then 0 else x.done / x.postEvery
  let ended := decide (x.walk ≤ x.done)
  let extra := if ended && x.postEnd && x.postEvery != 0 && x.walk % x.postEvery != 0 then 1 else 0
  let due := groups + extra - x.posts
  let st' := if !ended || x.st == .stopped || x.role == roleRound then x.st
    else if x.persist then .parked else .free
  let s1 := s.setStream d u st
    { x with posts := max x.posts (groups + extra), st := st', walks := if ended then x.walks + 1 else x.walks }
  s1.forEach (List.range due) fun t _ => t.postMark d x.postMark 1 (s.unitPoster d u st)

/-- A stream that its owner's limit held back may issue again; a ROUND stream with no transfer left to
issue waits for a credit instead. -/
def State.unlimit (s : State) (d u : Nat) : State :=
  { s with streams := s.streams.map fun e =>
      if e.1 / 256 == d * 73 + u && e.2.st == .limited && (e.2.role != roleRound || decide (e.2.issued < e.2.walk))
      then (e.1, { e.2 with st := .run }) else e }

/-- Transfer `t` has completed, or is written off where its memory is gone: counts, ledgers, posts,
the walk's end (R158, R165, R326). -/
def State.completeXfer (s : State) (d u st t : Nat) (gone : Bool) : State :=
  let x := s.stream d u st
  let set := t :: x.doneSet
  let done := doneFrom x.done set set.length
  let s1 := s.setStream d u st
    { x with out := x.out.filter (·.t != t), doneSet := set.filter (done ≤ ·), done := done }
  let idx := if u < 72 then u else 72
  let s2 := if gone then s1.ledWoff d lgXfer idx else s1.ledReturn d lgXfer idx
  let s3 := if x.role == rolePortIn || x.role == rolePortOut then
    (if gone then s2.ledWoff d lgXfer 73 else s2.ledReturn d lgXfer 73) else s2
  let s4 := if u = 72 && !gone then ((s3.count (pgStreams d) 0).count (pgStreams d) 1 x.size) else s3
  (s4.unlimit d u).walkEnd d u st

/-! ### Memory of a dark quarter (R184) -/

/-- A key in memory that is gone: a scratchpad of a quarter whose island is gated. -/
def State.lostKey (s : State) (k : Option Nat) : Bool :=
  match k with
  | none => true
  | some k => addrKind k == 3 && (s.quarter (addrDie k) (slotQuarter (addrOff k / 2 ^ 21))).gated

/-! ### Protection of the applied image (R475) -/

/-- Address ranges of a directory and its die images, `[from, to)`. -/
def State.imageSpan (s : State) (dir : Nat) : List (Nat × Nat) :=
  (dir, dir + 512) :: (allDies.flatMap fun d =>
    let h := (s.peek ((dir + 8 * d) / 8)).val.toNat
    if h = 0 then []
    else (h, h + 4096) :: (List.range 12).map fun i =>
      let a := (s.peek ((h + 0x20 + 16 * i) / 8)).val.toNat
      let n := (s.peek ((h + 0x28 + 16 * i) / 8)).val.toNat
      (a, a + n))

/-- Those of the applied image, and of one whose LOAD has committed. -/
def State.imageRanges (s : State) : List (Nat × Nat) :=
  (if s.prog.loadReq then s.imageSpan s.prog.loadDir.toNat else []) ++
    (if s.prog.applied then s.imageSpan s.prog.dir.toNat else [])

/-- Whether a byte key lies in the applied image. -/
def State.protects (s : State) (k : Nat) : Bool :=
  s.imageRanges.any fun r => decide (r.1 ≤ k ∧ k < r.2)

/-- Write whole words at a key; words of the applied image are left as they are (R475). -/
def State.storeWords (s : State) (k : Nat) (l : List MWord) : State :=
  let rs := s.imageRanges
  if rs.any fun r => decide (k < r.2 ∧ r.1 < k + 8 * l.length) then
    (l.zipIdx).foldl (fun t e =>
      if rs.any fun r => decide (r.1 ≤ k + 8 * e.2 ∧ k + 8 * e.2 < r.2) then t
      else t.writeWords (k + 8 * e.2) [e.1]) s
  else s.writeWords k l

/-- Write bytes at a key; bytes of the applied image are left as they are (R475). -/
def State.storeBytes (s : State) (src k : Nat) (l : List Byte) : State :=
  let rs := s.imageRanges
  if rs.any fun r => decide (k < r.2 ∧ r.1 < k + l.length) then
    (l.zipIdx).foldl (fun t e =>
      if rs.any fun r => decide (r.1 ≤ k + e.2 ∧ k + e.2 < r.2) then t
      else t.writeBytes src (k + e.2) [e.1]) s
  else s.writeBytes src k l

end Sys2Proof.Machine
end

