-- ==== Sys2Proof/Machine/Status.lean ====
section
/-! DEFINITION. What a page header shows of its block: STATE (R406, R471), HEALTH (R403, Table 16.5),
PHASE (R411), and the rise of CHANGE_SEQ when they change (R409). Every command ends through
`State.finish`. -/

namespace Sys2Proof.Machine

/-! ### STATE -/

/-- Code of a block state (Table 16.6). -/
def BlkSt.code (b : BlkSt) : Nat :=
  match b with
  | .off => 0 | .starting => 1 | .on => 2 | .draining => 3 | .faulted => 4 | .spare => 5
  | .shuttered => 6 | .absent => 7

/-- State of a physical slot's page: its quarter's, unless it is SPARE or FAULTED (Table 16.6). -/
def State.slotBlk (s : State) (d p : Nat) : BlkSt :=
  match s.slotState d p with
  | .spare => .spare
  | .faulted => .faulted
  | .testing => .starting
  | .mapped => (s.quarter d (slotQuarter p)).st

/-- Offsets of the die pages whose blocks stop in Shutter: spine units but die control, register pages
and the flow engine (R365, R379). -/
def sleeps (o : Nat) : Bool := (decide (4 ≤ o) && decide (o ≤ 9)) || o == 0xB || o == 0xC || (decide (0x14 ≤ o) && decide (o < 0x18))

/-- State of a page's block. Pages without a start-up of their own are ON (R471). -/
def State.pageSt (s : State) (page : Nat) : BlkSt :=
  if isDiePage page then
    let d := pageDie page
    let x := s.die d
    let o := pageOff page
    if x.st == .faulted || x.st == .absent then x.st
    else if 0x20 ≤ o then s.slotBlk d (o - 0x20)
    else if 0x10 ≤ o && o < 0x14 then (s.quarter d (o - 0x10)).st
    else if x.st == .on && sleeps o && s.shut.st == .shuttered then .shuttered
    else if x.st == .on && sleeps o && s.shut.st == .waking then .starting
    else x.st
  else if 0x40 ≤ page && page < 0x80 then (s.port (page - 0x40)).st
  else if 0x100 ≤ page then (s.wale (page - 0x100)).st
  else .on

/-- REARM_PENDING of a switchable page. -/
def State.pageRearm (s : State) (page : Nat) : Bool :=
  if isDiePage page then
    0x10 ≤ pageOff page && pageOff page < 0x14 && (s.quarter (pageDie page) (pageOff page - 0x10)).rearm
  else if 0x40 ≤ page && page < 0x80 then (s.port (page - 0x40)).rearm
  else decide (0x100 ≤ page) && (s.wale (page - 0x100)).rearm

/-! ### Spares, wales -/

/-- Spare slots of a quarter in SPARE. -/
def QuarterSt.sparesFree (q : QuarterSt) : Nat := (q.slots.filter (· == .spare)).length
/-- Spare slots of a die in SPARE. -/
def State.sparesFree (s : State) (d : Nat) : Nat :=
  (List.range 4).foldl (fun n q => n + (s.quarter d q).sparesFree) 0
/-- SPARE_LOW of a die: fewer than 4 spares, or a quarter with none (Table 14.7). -/
def State.spareLow (s : State) (d : Nat) : Bool :=
  decide (s.sparesFree d < 4) || (List.range 4).any fun q => (s.quarter d q).sparesFree == 0

/-- Set bits of a word. -/
def bitCount (w : Word) : Nat := ((List.range 32).filter fun i => w.getLsbD i).length
/-- Lane groups of each direction of a wale (R348). -/
def waleGroups (w : Nat) : Nat := if w < 112 then 32 else 8
/-- Capacity of a direction: 125 GB/s for each group in service; zero while the wale is not ON (R348,
R407). A blocked end leaves the groups in service as they are. `ba` selects B to A. -/
def State.waleCap (s : State) (w : Nat) (ba : Bool) : Nat :=
  let x := s.wale w
  if x.st != .on then 0
  else 125 * bitCount (if ba then x.groupBA else x.groupAB)
/-- A wale whose WALE_CAP counts as zero (R348). -/
def State.waleDead (s : State) (w : Nat) : Bool := s.waleCap w false == 0 || s.waleCap w true == 0

/-! ### HEALTH -/

/-- The header's record of a ledger violation (R404). -/
def State.pageViol (s : State) (page : Nat) : Bool :=
  if isDiePage page then (s.die (pageDie page)).viol.contains page
  else if 0x40 ≤ page && page < 0x80 then (s.die (page - 0x40)).viol.contains page
  else (page == pgLedger || page == pgBell) && (s.reg pgLedger 0x064).getLsbD 31

/-- Registers of a page holding a staged value (R315): the latest bundle that stages any. -/
def State.stagedCount (s : State) (page : Nat) : Nat :=
  s.bnd.ctx.foldl (fun n e =>
    if e.2.st == .open || e.2.st == .preparing then n + (e.2.staged.filter (·.page == page)).length
    else n) 0

/-- A condition of Table 16.5 holds for the page. -/
def State.degraded (s : State) (page : Nat) : Bool :=
  let d := pageDie page
  let o := pageOff page
  match pageKind page with
  | some .quarter =>
    let q := s.quarter d (o - 0x10)
    q.st != .on || q.tst == .warn || q.sparesFree == 0
  | some .round => s.rounds.code.toNat / 2 ^ 14 % 2 == 1 || (SMap.find s.rounds.relay d).isSome
  | some .dieHealth =>
    (s.die d).service != 0 ||
      (s.regPair pgSpareMap 0x04C).getLsbD d || decide (s.sparesFree d < 4)
  | some .dram => decide (95 ≤ (s.die d).dramTemp.toNat)
  | some .portLink => (s.port d).link != 3
  | some .sloubPort =>
    let p := page - 0x40
    (s.port p).st != .on || (s.regPair pgSpareMap 0x04C).getLsbD p || (s.port p).link != 3
  | some .wale | some .xwale =>
    let w := page - 0x100
    (s.wale w).st != .on || decide (s.waleCap w false < 125 * waleGroups w) ||
      decide (s.waleCap w true < 125 * waleGroups w)
  | some .spareMap => allDies.any s.spareLow
  | some .power => !s.pwr.vinOk || s.pwr.capdown || s.pwr.run.isSome
  | some .thermal => s.quarters.any fun e => e.2.tst == .warn || e.2.tst == .tripped
  | some .shutter => s.shut.blocked
  | some .program => s.prog.pst == .stopped || s.prog.capBelow || s.prog.scrubAbv
  | some .meterMirror => !s.meter.working
  | some .security => s.keeper.fallback
  | _ => false

/-- PHASE (R411). -/
def State.phase (s : State) : Nat :=
  if s.keeper.withdrawn then 4
  else if s.shut.st != .awake then 3
  else s.keeper.phase

/-- Only ENGINE_ID, SUMMARY and KEEPER_MAILBOX are live until PHASE leaves BOOTING (R399). -/
def State.pageLive (s : State) (page : Nat) : Bool :=
  s.phase != 0 || page == pgEngineId || page == pgSummary || page == pgMailbox

/-- A page whose die is out answers through the slath with PAGE_ID, STATE, FAULT and FAULT_FIRST alone
(R344); DIE_HEALTH reads in full, and DIE_CTL reports the boot of a readmitted die (R418). -/
def State.pageOut (s : State) (page : Nat) : Bool :=
  isDiePage page && s.dieOut (pageDie page) && page != pgDieHealth (pageDie page) &&
    !(page == pgDieCtl (pageDie page) && (s.die (pageDie page)).readmit)

/-- Writes to a page act: it is live, its die is in the grid, and the engine has not been withdrawn; the
mailbox takes writes throughout (R344, R399, R429). -/
def State.takesWrites (s : State) (page : Nat) : Bool :=
  page == pgMailbox ||
    (s.pageLive page && !s.keeper.withdrawn && !(isDiePage page && s.dieOut (pageDie page)))

/-- LEVEL (R403); a page that is not live shows none. -/
def State.level' (s : State) (page : Nat) : Nat :=
  let b := s.pageSt page
  if !s.pageLive page then 0
  else if b == .faulted || b == .absent || s.pageViol page then 3
  else if s.degraded page then 2
  else if fieldOf (s.reg page rFault) 10 1 != 0 then 1
  else 0

/-- HEALTH (Table 16.4). -/
def State.health (s : State) (page : Nat) : Nat :=
  if !s.pageLive page then 0
  else (if s.pageViol page then 1024 else 0) + (if fieldOf (s.reg page rFault) 10 1 != 0 then 512 else 0) +
    (if s.stagedCount page != 0 then 256 else 0) + s.level' page

/-- Every assigned page (R400). -/
def enginePages : List Nat :=
  List.range 17 ++ (List.range 64).map (0x40 + ·) ++ [0x80] ++ (List.range 210).map (0x100 + ·)
def dieOffsets : List Nat := List.range 13 ++ (List.range 8).map (0x10 + ·) ++ (List.range 72).map (0x20 + ·)
def allPages : List Nat := enginePages ++ allDies.flatMap fun d => dieOffsets.map (pgDie d ·)

/-! ### CHANGE_SEQ (R409) -/

/-- Code of PSTATE (Table 8.9). -/
def PSt.code (p : PSt) : Nat :=
  match p with
  | .empty => 0 | .ready => 1 | .running => 2 | .replay => 3 | .stepHold => 4 | .halted => 5
  | .stopped => 6

/-- Registers that HEALTH is read from. -/
def healthRegs (s : State) : SMap (Option Word) :=
  s.regs.filter fun e =>
    e.1 % 4096 == rFault || e.1 / 4096 == pgSpareMap || e.1 / 4096 == pgLedger

/-- Nothing that HEALTH depends on differs: a quick test before every page is compared. -/
def sameHealth (s t : State) : Bool :=
  decide (s.dies = t.dies) && decide (s.quarters = t.quarters) && decide (s.ports = t.ports) &&
  decide (s.wales.wale = t.wales.wale) && decide (s.bnd.ctx = t.bnd.ctx) &&
  decide (healthRegs s = healthRegs t) && decide (s.rounds.code = t.rounds.code) &&
  decide (s.rounds.relay = t.rounds.relay) && decide (s.pwr = t.pwr) &&
  decide (s.shut.blocked = t.shut.blocked) && decide (s.prog.capBelow = t.prog.capBelow) &&
  decide (s.prog.scrubAbv = t.prog.scrubAbv) && decide (s.meter.working = t.meter.working) &&
  decide (s.keeper.fallback = t.keeper.fallback)

/-- Whether HEALTH of any page, PHASE or PSTATE differs between two states. -/
def healthChanged (s t : State) : Bool :=
  s.phase != t.phase || s.prog.pst != t.prog.pst ||
  (!sameHealth s t && allPages.any fun p => s.health p != t.health p)

/-- The end of every command: from `s` to `t`, CHANGE_SEQ rises by one if anything it tells of has
changed (R409). Nothing else differs from `t`. -/
def State.finish (s t : State) : State :=
  { t with host := { t.host with changes := t.host.changes + (if healthChanged s t then 1 else 0) } }

/-- The answer of a command that has its effect. -/
def State.ok (s t : State) : Host.Outcome State Fault Refusal := .next (s.finish t)

end Sys2Proof.Machine
end

