-- ==== Sys2Proof/Machine/Array.lean ====
section
/-! DEFINITION. The stall's array as operations on one stall: operands, K-steps, the accumulator
tile, steelyard checks, preload and write-back values (R56-R98). -/

namespace Sys2Proof

open Sys2Proof.Machine

/-! ### The PASS word -/

def PassWord.kp (w : PassWord) : Nat := w.kpM1.toNat + 1
/-- Weight tiles that a pass consumes (R60), which is also its number of activation tiles (R58). -/
def PassWord.tiles (w : PassWord) : Nat := (w.kp + 63) / 64
/-- Formats of a pass; L8 stands in for a reserved code, which no valid pass holds (R67). -/
def PassWord.aFmt (w : PassWord) : Fmt := (kindFmt w.aKind).getD .l8
def PassWord.wFmt (w : PassWord) : Fmt := (kindFmt w.wKind).getD .l8
/-- Row groups d (R57) and L8-equivalents per MAC. -/
def PassWord.groups (w : PassWord) : Nat := ((pairing w.aFmt w.wFmt).getD (1, 1)).1

/-- Byte ranges in scratchpad, as (start, length). -/
def PassWord.aRange (w : PassWord) : Nat × Nat := (64 * w.aAddr.toNat, w.tiles * recordBytes w.aKind)
def PassWord.preRange (w : PassWord) : Nat × Nat :=
  match w.preload.toNat with
  | 0 => (0, 0)
  | 2 => (64 * w.preAddr.toNat, 256)
  | _ => (64 * w.preAddr.toNat, 16384)
def PassWord.wbRange (w : PassWord) : Nat × Nat :=
  if w.psum then (64 * w.wbAddr.toNat, 16384) else (0, 0)

end Sys2Proof

namespace Sys2Proof.Machine

/-- Two byte ranges share a byte. -/
def overlap (a b : Nat × Nat) : Bool :=
  decide (a.2 ≠ 0) && decide (b.2 ≠ 0) && decide (a.1 < b.1 + b.2) && decide (b.1 < a.1 + a.2)

/-! ### Cells -/

/-- The value C = P + R of a working cell, exact (R84). -/
def Cell.val (c : Cell) : Val := (s32Val c.p).add (a40Val c.r)

/-- The cell's value rounded once to A40 for TAP (R86), and whether that saturates. -/
def Cell.tap (c : Cell) : A40 × Bool := a40Of c.val

/-- A working cell with P = 0 and R = 0. -/
def Cell.zero : Cell := { p := 0, r := 0, sat := false }
/-- A steelyard cell at zero. -/
def Lane.zero : Lane := { s := 0, a := 0, sat := false }

/-- A tile with P = 0 everywhere (PRELOAD 00). -/
def zeroCells : List Cell := List.replicate 4096 Cell.zero
def zeroLanes : List Lane := List.replicate 129 Lane.zero

/-- The cell (m, n), and the lane cells (m, 64), (64, n) and (64, 64) by their place. -/
def Acc.cell (a : Acc) (m n : Nat) : Cell := a.cells.getD (64 * m + n) Cell.zero
def Acc.lane (a : Acc) (i : Nat) : Lane := a.lanes.getD i Lane.zero

/-- The tile has its preload (or needs none). -/
def Acc.loaded (a : Acc) : Bool := !a.cells.isEmpty

/-- Steelyard lanes of a preloaded tile: row sums, column sums, their absolute sums and the totals,
as linear A40 sums whose order is not stated (assumption 13). A sum beyond the range of A40 saturates. -/
def preloadLanes (p : Nat → Nat → Word) : List Lane :=
  let el := fun m n => (a40Of (s32Val (p m n))).1
  let mk := fun (l : List A40) =>
    let (s, f) := feederSum l
    let (a, g) := feederSum (l.map a40Abs)
    { s := s, a := a, sat := f || g : Lane }
  let r64 := List.range 64
  (r64.map fun m => mk (r64.map fun n => el m n)) ++ (r64.map fun n => mk (r64.map fun m => el m n)) ++
    [mk (r64.flatMap fun m => r64.map fun n => el m n)]

/-- P of cell (m, n) from the words read at PRE_ADDR (R87, R88): a tile, or one bias row for every
row. A poisoned word enters as INVALID. -/
def preloadAt (w : PassWord) (ws : List MWord) (m n : Nat) : Word :=
  match elemAt ws 4 (if w.preload = 2 then 4 * n else 256 * m + 4 * n) with
  | some v => BitVec.ofNat 32 v
  | none => 0x7FC00000

/-- A tile filled from its preload source. -/
def Acc.preloaded (a : Acc) (w : PassWord) (ws : List MWord) : Acc :=
  let p := preloadAt w ws
  { a with
    cells := (List.range 4096).map fun i => { p := p (i / 64) (i % 64), r := 0, sat := false }
    lanes := preloadLanes p }

/-- A working cell that is INVALID: P or R is (R86). -/
def Cell.bad (c : Cell) : Bool := s32Val c.p == .invalid || a40Val c.r == .invalid

/-- The first product enters R exactly; later sums round (R85). With it, whether the addition or its product
saturated; in a cell that is INVALID none does (R37). -/
def Cell.add (c : Cell) (p : A40) (psat first : Bool) : Cell × Bool :=
  let (r, f) := if first then (p, psat) else
    let (r, sat) := a40Add c.r p
    (r, psat || sat)
  let new := f && !c.bad
  ({ c with r := r, sat := c.sat || new }, new)

/-- One sum of a lane cell takes its product, with what saturated. -/
def laneSum (c x y : A40) : A40 × Bool :=
  let (p, f) := a40Mul x y
  let (r, g) := a40Add c p
  (r, (f || g) && a40Val c != .invalid)

/-- A lane cell takes its two products, each of two feeder values (`fsat`: one of them saturated, which
counts as saturation of the cell for R73, assumption 13). With it, whether one of its results saturated. -/
def Lane.add (c : Lane) (x y xa ya : A40) (fsat : Bool) : Lane × Bool :=
  let (s, f) := laneSum c.s x y
  let (a, g) := laneSum c.a xa ya
  ({ s := s, a := a, sat := c.sat || fsat || f || g }, f || g)

/-- The operand vectors of K index k within its tiles: the activation tile by A_AXIS (R58), the
weight tile by W_AXIS (R63), each element with its scale on either axis. -/
def actVec (w : PassWord) (t : Tile) (k : Nat) : List Elem :=
  (List.range 64).map fun m => if w.aAxis then t.el (k % 64) m else t.el m (k % 64)
def weightVec (w : PassWord) (t : Tile) (k : Nat) : List Elem :=
  (List.range 64).map fun n => if w.wAxis then t.el n (k % 64) else t.el (k % 64) n

/-- What a feeder delivers for one K index besides the elements: the elements in linear A40, their sum and
their absolute sum, and what of these saturated (R59, R64). -/
structure Feed where
  els : List (A40 × Bool)
  sum : A40 × Bool
  abs : A40 × Bool

def feed (f : Fmt) (v : List Elem) : Feed :=
  let l := v.map (elemA40 f)
  { els := l, sum := feederSum (l.map (·.1)), abs := feederSum (l.map fun x => a40Abs x.1) }

/-- Element i of a feed, and whether it or the sums saturated. -/
def Feed.el (f : Feed) (i : Nat) : A40 × Bool := f.els.getD i (0, false)
def Feed.satSum (f : Feed) : Bool := f.sum.2 || f.abs.2
def Feed.sat (f : Feed) : Bool := f.satSum || f.els.any (·.2)

/-- The lane cell at place i takes its products from the two feeds (R56, R72). -/
def Lane.step (c : Lane) (i : Nat) (a w : Feed) : Lane × Bool :=
  if i < 64 then c.add (a.el i).1 w.sum.1 (a40Abs (a.el i).1) w.abs.1 ((a.el i).2 || w.satSum)
  else if i < 128 then
    c.add a.sum.1 (w.el (i - 64)).1 a.abs.1 (a40Abs (w.el (i - 64)).1) (a.satSum || (w.el (i - 64)).2)
  else c.add a.sum.1 w.sum.1 a.abs.1 w.abs.1 (a.satSum || w.satSum)

/-- K index k of a pass: every working cell receives its product, every steelyard cell its linear
products (R56, R59, R64). `first` says that this is the pass's first K index. With it, whether anything bound
for A40 saturated (R37). -/
def Acc.kStep (a : Acc) (w : PassWord) (av wv : List Elem) (first : Bool) : Acc × Bool :=
  let fa := feed w.aFmt av
  let fw := feed w.wFmt wv
  let cells := (a.cells.zipIdx).map fun e =>
    let (p, ps) := a40Of (product w.aFmt w.wFmt (av.getD (e.2 / 64) none) (wv.getD (e.2 % 64) none))
    e.1.add p ps first
  let lanes := (a.lanes.zipIdx).map fun e => e.1.step e.2 fa fw
  ({ a with cells := cells.map (·.1), lanes := lanes.map (·.1), kdone := a.kdone + 1 },
    fa.sat || fw.sat || cells.any (·.2) || lanes.any (·.2))

/-- The K indices of one weight tile, from those done so far to the tile's end or the pass's, and whether
any saturated. -/
def kSteps (a : Acc) (w : PassWord) (at' wt : Tile) (n : Nat) : Acc × Bool :=
  match n with
  | 0 => (a, false)
  | k + 1 =>
    let (b, f) := a.kStep w (actVec w at' a.kdone) (weightVec w wt a.kdone) (a.kdone == 0)
    let (c, g) := kSteps b w at' wt k
    (c, f || g)

/-- K indices that the pass runs on its next weight tile. -/
def Acc.kLeft (a : Acc) (w : PassWord) : Nat := min 64 (w.kp - a.kdone)

/-! ### Steelyard checks (R72, R73) -/

/-- A fault of the array as the environment gives it: what one cell shows before the check. -/
def Acc.withErr (a : Acc) (e : CellErr) : Acc :=
  let m := e.row.val
  let n := e.col.val
  if m < 64 && n < 64 then
    { a with cells := a.cells.set (64 * m + n) { (a.cell m n) with p := 0, r := e.val } }
  else
    let i := if m < 64 then m else if n < 64 then 64 + n else 128
    { a with lanes := a.lanes.set i { (a.lane i) with s := e.val } }

/-- TOL of the pairing class, within its limits (Table 3.4). -/
def styTol (ctl : Word) (w : PassWord) : Nat :=
  let raw := match w.aFmt, w.wFmt with
    | .l8, .l8 => fieldOf ctl 5 0
    | .l16, _ | _, .l16 => fieldOf ctl 13 8
    | _, _ => fieldOf ctl 21 16
  max 8 (min 40 raw)

/-- One check: `none` skipped, otherwise whether it passes. `l` are the cells it sums with their
saturation, `c` the lane cell it compares with. The sums and the comparison are exact: the rounding of the
compare adders, which the text beside R73 mentions, is not given (DESIGN CHOICE, assumption 86). -/
def styCheck (t : Nat) (l : List (Val × Bool)) (c : Lane) : Option Bool :=
  let s := a40Val c.s
  let a := a40Val c.a
  if c.sat || s == .invalid || a == .invalid || l.any (fun e => e.2 || e.1 == .invalid) then none
  else
    let diff := ((Val.sum (l.map (·.1))).add s.neg).abs
    some (!(a.shift (-(t : Int))).lt diff)

/-- The cells of row m, with row 64 the lane cells (64, n). -/
def Acc.rowVals (a : Acc) (m : Nat) : List (Val × Bool) :=
  (List.range 64).map fun n =>
    if m < 64 then ((a.cell m n).val, (a.cell m n).sat) else (a40Val (a.lane (64 + n)).s, (a.lane (64 + n)).sat)
def Acc.colVals (a : Acc) (n : Nat) : List (Val × Bool) :=
  (List.range 64).map fun m => ((a.cell m n).val, (a.cell m n).sat)

/-- The 129 checks in order, rows 0-64 and then columns 0-63: axis, index, result (R72). -/
def Acc.checks (a : Acc) (t : Nat) : List (Bool × Nat × Option Bool) :=
  ((List.range 65).map fun m => (false, m, styCheck t (a.rowVals m) (if m < 64 then a.lane m else a.lane 128)))
  ++ ((List.range 64).map fun n => (true, n, styCheck t (a.colVals n) (a.lane (64 + n))))

/-- Skipped checks of a pass; all 129 with STY_OFF (R73). -/
def Acc.skips (a : Acc) (ctl : Word) (w : PassWord) : Nat :=
  if ctl.getLsbD 31 then 129 else ((a.checks (styTol ctl w)).filter fun c => c.2.2.isNone).length
/-- The first failing check of a pass, as axis and index. -/
def Acc.firstFail (a : Acc) (ctl : Word) (w : PassWord) : Option (Bool × Nat) :=
  if ctl.getLsbD 31 then none
  else ((a.checks (styTol ctl w)).find? fun c => c.2.2 == some false).map fun c => (c.1, c.2.1)

/-! ### Write-back values (R91) -/

/-- The S32 words of a tile's rows, row m drawn at count n + m, and whether any saturated. -/
def Acc.psum (a : Acc) (seed n : DWord) : List Word × Bool :=
  let l := (a.cells.zipIdx).map fun e =>
    s32Of (some (draw seed (n + BitVec.ofNat 64 (e.2 / 64)) 0 (e.2 % 64))) e.1.val
  (l.map (·.1), l.any (·.2))

/-- Two S32 values to a 64-bit word, the even column low (R28). -/
def pairWords (l : List Word) : List MWord :=
  match l with
  | a :: b :: r => { val := b ++ a, poison := false } :: pairWords r
  | [a] => [{ val := (0 : Word) ++ a, poison := false }]
  | [] => []

/-! ### Sequence of passes in a stall -/

/-- The pass at the front enters RUN once it has its preload and no other pass runs (R9, R69). A
replayed tile stays in REPLAY while it runs. -/
def Stall.enterRun (x : Stall) : Stall :=
  match x.passes with
  | t :: _ =>
    let a := x.acc t
    if a.st == .preload && a.loaded then x.setAcc t { a with st := .run } else x
  | [] => x

/-- The tile whose pass runs its K-steps now. -/
def Stall.running (x : Stall) : Option (Fin 2) :=
  match x.passes with
  | t :: _ =>
    let a := x.acc t
    match a.word with
    | some w => if (a.st == .run || a.st == .replay) && a.loaded && decide (a.kdone < w.kp) then some t else none
    | none => none
  | [] => none

/-- The target of the pending write-back of a tile (R70). -/
def Acc.pendingWb (a : Acc) : Nat × Nat :=
  match a.word with
  | some w => if a.wbPend then w.wbRange else (0, 0)
  | none => (0, 0)

/-- The operands that a possible replay needs: activation operand and preload source of a pass whose
check has not passed (R92, R123). -/
def Acc.guarded (a : Acc) (r : Nat × Nat) : Bool :=
  match a.word with
  | some w =>
    (a.st == .preload || a.st == .run || a.st == .check || a.st == .replay) &&
      (overlap r w.aRange || overlap r w.preRange)
  | none => false

/-- The other accumulator tile. -/
def other (t : Fin 2) : Fin 2 := if t = 0 then 1 else 0

/-- Seed and count that a tile's write-back, or a drain, draws from (R51): those of its generation, the
present one or one that a later seed has replaced. -/
def Stall.seedFor (x : Stall) (gen : Nat) : DWord × DWord :=
  if gen = x.gen then (x.seed, x.n)
  else match x.olds.find? (·.gen == gen) with
    | some o => (o.seed, o.n)
    | none => (x.seed, x.n)
/-- The count of a generation after draws from it (R50). -/
def Stall.setCount (x : Stall) (gen : Nat) (n : DWord) : Stall :=
  if gen = x.gen then { x with n := n }
  else { x with olds := x.olds.map fun o => if o.gen = gen then { o with n := n } else o }

/-- A drain of the stall draws from generation `gen` now (R50). -/
def Stall.drainDraws (x : Stall) (gen : Nat) : Bool := x.drains.any fun j => j.started && j.draws && j.gen == gen
/-- A write-back of the stall draws from generation `gen` now. -/
def Stall.wbDraws (x : Stall) (gen : Nat) : Bool :=
  (x.acc0.wbRun && x.acc0.gen == gen) || (x.acc1.wbRun && x.acc1.gen == gen)

/-- The drains and write-backs that draw from generation `gen` share cycles from here on (R50). -/
def Stall.share (x : Stall) (gen : Nat) : Stall :=
  let mark := fun (a : Acc) => if a.wbRun && a.gen == gen then { a with shared := true } else a
  { x with acc0 := mark x.acc0, acc1 := mark x.acc1,
           drains := x.drains.map fun (j : DrainJob) => if j.started && j.draws && j.gen == gen then { j with shared := true } else j }

/-- The count after `k` cycles that rounded, the last of them at count `last`: in cycles that another site
shared the count has advanced once, and how many these were is timing, a free value (R50, assumption 17). -/
def sharedEnd (n last : DWord) (k : Nat) (f : DWord) : DWord :=
  BitVec.ofNat 64 (max n.toNat (last.toNat + 1) + f.toNat % (k + 1))

end Sys2Proof.Machine
end

