-- ==== Sys2Proof/Machine/Frames.lean ====
section
/-! DEFINITION. Sloub frames as bytes (R4, R266, R284, R286, Tables 10.1, 10.2, 11.3, 12.1, 12.3): what the
port lays out, the UDP checksum, and what it reads from an arriving packet. -/

namespace Sys2Proof.Machine

/-- The low `n` bytes of a value, least significant first (R4). -/
def leBytes (n v : Nat) : List Byte := (List.range n).map fun i => BitVec.ofNat 8 (v / 2 ^ (8 * i))
/-- The low `n` bytes of a value, most significant first: the order of IPv6 and UDP fields. -/
def beBytes (n v : Nat) : List Byte := (leBytes n v).reverse
/-- The value of bytes in little-endian order (R4). -/
def leNat (l : List Byte) : Nat := l.foldr (fun b n => b.toNat + 256 * n) 0
def zeroBytes (n : Nat) : List Byte := List.replicate n 0

/-! ### Frames that the port sends -/

/-- Bytes of a body on the wire. -/
def bodyBytes (b : TxBody) : Nat :=
  match b with
  | .openB .. => 32
  | .closeB .. => 32
  | .refuseB .. => 8
  | .nackB n => 8 + 8 * n.ranges.length
  | .creditB _ => 16
  | .fetchB .. => 40
  | .basketB .. => 32 + 8192
  | .streamB d m => 8 * d.length + (if m = 0 then 0 else 128)
/-- Bytes of a Sloub frame: header and body. -/
def frameBytes (f : TxFrame) : Nat := 32 + bodyBytes f.body

/-- The Sloub header (Table 12.1), VERSION 1. -/
def hdrWire (f : TxFrame) : List Byte :=
  [BitVec.ofNat 8 (1 + 16 * f.type.toNat), f.flags] ++ leBytes 2 f.flow.toNat ++ [f.gen] ++
  leBytes 5 (f.src.toNat + 2 ^ 20 * f.dst.toNat) ++ [BitVec.ofNat 8 f.vc.toNat, 0] ++
  leBytes 4 f.seq.toNat ++ leBytes 4 f.ack.toNat ++ leBytes 4 f.id.toNat ++ leBytes 4 f.offset.toNat ++
  leBytes 2 f.length.toNat ++ zeroBytes 2

/-- A body (Tables 10.1, 11.3, 12.3; R265, R302, R303). -/
def bodyWire (b : TxBody) : List Byte :=
  match b with
  | .openB o m => leBytes 2 o.senderFlow.toNat ++ [o.senderGen, m] ++ leBytes 4 o.initSeq.toNat ++
      leBytes 8 o.limit.toNat ++ zeroBytes 16
  | .closeB c => c.reason :: zeroBytes 3 ++ leBytes 4 c.finalSeq.toNat ++ leBytes 8 c.sent.toNat ++
      leBytes 8 c.limit.toNat ++ zeroBytes 8
  | .refuseB r => r.reason :: zeroBytes 3 ++ leBytes 4 r.retryUs.toNat
  | .nackB n => [n.reason, BitVec.ofNat 8 n.ranges.length] ++ leBytes 2 n.fetchTag.toNat ++ zeroBytes 4 ++
      n.ranges.flatMap fun r => leBytes 4 r.1.toNat ++ leBytes 4 r.2.toNat
  | .creditB l => leBytes 8 l.toNat ++ zeroBytes 8
  | .fetchB shard version offset length tag keyId form kind cols reason =>
      1 :: zeroBytes 7 ++ leBytes 4 shard.toNat ++ leBytes 4 version.toNat ++ leBytes 4 offset.toNat ++
      leBytes 4 length.toNat ++ leBytes 2 tag.toNat ++ leBytes 2 keyId.toNat ++ [form, kind, cols, reason] ++
      zeroBytes 8
  | .basketB basket shard flags step included weightSum contrib order decision localN tiles data =>
      leBytes 2 basket.toNat ++ [shard, flags] ++ leBytes 4 step.toNat ++ leBytes 8 included.toNat ++
      leBytes 4 weightSum.toNat ++ [contrib, order, decision, localN] ++ leBytes 2 tiles.toNat ++ zeroBytes 2 ++
      leBytes 4 (8192 * tiles.toNat) ++ data.flatMap fun e => leBytes 2 e.toNat
  | .streamB data map => (data.flatMap fun w => leBytes 8 w.toNat) ++
      (if map = 0 then [] else leBytes 128 map.toNat)

/-- A frame as the bytes of its UDP payload. -/
def TxFrame.wire (f : TxFrame) : List Byte := hdrWire f ++ bodyWire f.body

/-! ### The UDP checksum (R282) -/

/-- Sum of the 16-bit words of a byte string, the last one padded with zero. -/
def sum16 (l : List Byte) : Nat :=
  match l with
  | [] => 0
  | [a] => 256 * a.toNat
  | a :: b :: r => 256 * a.toNat + b.toNat + sum16 r
/-- End-around carries of a sum below 2^32. -/
def fold16 (n : Nat) : Nat :=
  let m := n % 65536 + n / 65536
  m % 65536 + m / 65536
/-- The UDP checksum over the IPv6 pseudo-header, the UDP header and the payload; 0 is sent as 0xFFFF. -/
def udpSum (src dst : BitVec 128) (sport dport : BitVec 16) (l : List Byte) : BitVec 16 :=
  let n := 8 + l.length
  let t := sum16 (beBytes 16 src.toNat ++ beBytes 16 dst.toNat ++ beBytes 4 n ++ [0, 0, 0, 17] ++
    beBytes 2 sport.toNat ++ beBytes 2 dport.toNat ++ beBytes 2 n) + sum16 l
  let c := 65535 - fold16 t
  BitVec.ofNat 16 (if c = 0 then 65535 else c)

/-! ### Frames that arrive -/

/-- What the checks of Table 12.4 and the meanings read from a packet's header. -/
structure Hdr where
  dstIp   : BitVec 128
  extHdr  : Bool
  fits    : Bool               -- at most 9,000 bytes (R282)
  udpDst  : BitVec 16
  srcIp   : BitVec 128
  udpSrc  : BitVec 16
  csumOk  : Bool
  version : BitVec 4
  type    : BitVec 4
  flags   : Byte
  flow    : BitVec 16
  gen     : Byte
  src     : BitVec 20
  dst     : BitVec 20
  vc      : Byte
  seq     : Word
  ack     : Word
  id      : Word
  offset  : Word
  length  : BitVec 16
  formOk  : Bool               -- a TYPE that a peer sends, and its SUBTYPE, MODE or RANGES
  zeroOk  : Bool
  sizeOk  : Bool
  deriving DecidableEq, Repr

/-- Offset and length of the fields that must be zero in a frame of a type, beyond those of every header
(assumption 98). -/
def zeroFields (type : Nat) : List (Nat × Nat) :=
  match type with
  | 0 => [(0x2C, 4)]
  | 2 => [(0x14, 4), (0x21, 7), (0x40, 8)]
  | 3 => [(0x0C, 4), (0x14, 4), (0x28, 8)]
  | 4 => [(0x0C, 4), (0x14, 4), (0x30, 16)]
  | 5 => [(0x0C, 4), (0x14, 4), (0x21, 3), (0x38, 8)]
  | 6 => [(0x0C, 4), (0x14, 4), (0x21, 3)]
  | 7 => [(0x0C, 4), (0x14, 4), (0x24, 4)]
  | _ => []

end Sys2Proof.Machine

namespace Sys2Proof

open Sys2Proof.Machine

/-- The `n` bytes from offset `a` of the frame, as a number. -/
def Packet.le (k : Packet) (a n : Nat) : Nat := leNat ((k.udp.drop a).take n)
def Packet.type (k : Packet) : Nat := k.le 0 1 / 16
/-- MODE of an OPEN. -/
def Packet.mode (k : Packet) : Nat := k.le 0x23 1
/-- RANGES of a NACK. -/
def Packet.ranges (k : Packet) : Nat := k.le 0x21 1

/-- A type that a peer of the engine sends, with a body that Tables 10.1 and 12.3 define (assumption 98). -/
def Packet.formOk (k : Packet) : Bool :=
  match k.type with
  | 0 => true
  | 2 => k.le 0x20 1 == 1
  | 3 => true
  | 4 => decide (k.mode ≤ 1)
  | 5 => true
  | 6 => true
  | 7 => decide (k.ranges ≤ 16)
  | _ => false

/-- Bytes of the frame that its type, LENGTH and RANGES give. -/
def Packet.size (k : Packet) : Nat :=
  32 + match k.type with
    | 0 => 32 + k.le 0x1C 2
    | 2 => 40
    | 3 => 16
    | 6 => 8
    | 7 => 8 + 8 * k.ranges
    | _ => 32

/-- The header of a packet. -/
def Packet.hdr (k : Packet) : Hdr :=
  { dstIp := k.dstIp, extHdr := k.extHdr, fits := decide (k.udp.length + 48 ≤ 9000), udpDst := k.udpDst, srcIp := k.srcIp, udpSrc := k.udpSrc
    csumOk := k.csum == udpSum k.srcIp k.dstIp k.udpSrc k.udpDst k.udp
    version := BitVec.ofNat 4 (k.le 0 1), type := BitVec.ofNat 4 k.type, flags := BitVec.ofNat 8 (k.le 1 1)
    flow := BitVec.ofNat 16 (k.le 2 2), gen := BitVec.ofNat 8 (k.le 4 1)
    src := BitVec.ofNat 20 (k.le 5 5), dst := BitVec.ofNat 20 (k.le 5 5 / 2 ^ 20)
    vc := BitVec.ofNat 8 (k.le 0x0A 1), seq := BitVec.ofNat 32 (k.le 0x0C 4)
    ack := BitVec.ofNat 32 (k.le 0x10 4), id := BitVec.ofNat 32 (k.le 0x14 4)
    offset := BitVec.ofNat 32 (k.le 0x18 4), length := BitVec.ofNat 16 (k.le 0x1C 2)
    formOk := k.formOk
    zeroOk := ((0x0B, 1) :: (0x1E, 2) :: zeroFields k.type).all fun z => k.le z.1 z.2 == 0
    sizeOk := k.udp.length == k.size }

/-- OPEN (Table 12.3). -/
def Packet.openB (k : Packet) : OpenBody :=
  { senderFlow := BitVec.ofNat 16 (k.le 0x20 2), senderGen := BitVec.ofNat 8 (k.le 0x22 1)
    initSeq := BitVec.ofNat 32 (k.le 0x24 4), limit := BitVec.ofNat 64 (k.le 0x28 8) }
/-- CLOSE (Table 12.3). -/
def Packet.closeB (k : Packet) : CloseBody :=
  { reason := BitVec.ofNat 8 (k.le 0x20 1), finalSeq := BitVec.ofNat 32 (k.le 0x24 4)
    sent := BitVec.ofNat 64 (k.le 0x28 8), limit := BitVec.ofNat 64 (k.le 0x30 8) }
/-- REFUSE (Table 12.3). -/
def Packet.refuseB (k : Packet) : RefuseBody :=
  { reason := BitVec.ofNat 8 (k.le 0x20 1), retryUs := BitVec.ofNat 32 (k.le 0x24 4) }
/-- NACK (Table 12.3). -/
def Packet.nackB (k : Packet) : NackBody :=
  { reason := BitVec.ofNat 8 (k.le 0x20 1), fetchTag := BitVec.ofNat 16 (k.le 0x22 2)
    ranges := (List.range k.ranges).map fun i =>
      (BitVec.ofNat 32 (k.le (0x28 + 8 * i) 4), BitVec.ofNat 32 (k.le (0x2C + 8 * i) 4)) }
/-- LIMIT of a CREDIT (Table 12.3). -/
def Packet.limit (k : Packet) : DWord := BitVec.ofNat 64 (k.le 0x20 8)
/-- WEIGHT (Table 10.2). -/
def Packet.weightB (k : Packet) : WeightBody :=
  { version := BitVec.ofNat 32 (k.le 0x20 4), fetchTag := BitVec.ofNat 16 (k.le 0x24 2)
    keyId := BitVec.ofNat 16 (k.le 0x26 2), encLength := BitVec.ofNat 32 (k.le 0x28 4)
    data := (k.udp.drop 0x30).take (k.le 0x1C 2), tag := (k.udp.drop (0x30 + k.le 0x1C 2)).take 16 }

end Sys2Proof
end

