-- ==== Sys2Proof/Machine/Funcs.lean ====
section
/-! DEFINITION. The functions of SHAPE and DERIVE (R112, R113, Table 5.5) and the quotients and roots
of the statistics slots. Reference values are formed in fixed point with 320 fraction bits; a result
that the specification gives only to within an error is a free value held to that error
(assumption 12). -/

namespace Sys2Proof.Machine

/-- Fixed-point numbers with 320 fraction bits. -/
def fpOne : Int := (2 ^ 320 : Nat)
def fpMul (a b : Int) : Int := a * b / fpOne
def fpDiv (a b : Int) : Int := a * fpOne / b
/-- ln 2. -/
def fpLn2 : Int :=
  1480553391661173448385607439722553250922680800745876974795605978609098082859138712941075737848984
/-- 1 / sqrt (2 pi). -/
def fpInvSqrt2Pi : Int :=
  852135539018184763820396513245673747463731821652439675318870577517399952981679869195813084020151

def fpOf (v : Val) : Int :=
  match v with
  | .num s m e =>
    let x : Int := if 0 ≤ e + 320 then (m * 2 ^ (e + 320).toNat : Nat) else (m / 2 ^ (-(e + 320)).toNat : Nat)
    if s then -x else x
  | _ => 0
def fpVal' (x : Int) : Val := Val.ofInt x (-320)

/-- `sum r^n / n!` from term `t` of index `n`. -/
def expSeries (fuel n : Nat) (t r : Int) : Int :=
  match fuel with
  | 0 => 0
  | k + 1 => t + expSeries k (n + 1) (fpMul t r / ((n : Int) + 1)) r

/-- e^x. -/
def expV (v : Val) : Val :=
  if (Val.num false 200 0).lt v then .num false 1 300
  else if v.lt (Val.num true 200 0) then .num false 1 (-300)
  else
    let x := fpOf v
    let k := x / fpLn2
    (fpVal' (expSeries 64 0 fpOne (x - k * fpLn2))).shift k

/-- `sum z^(2i+1) / (2i+1)` from the power `p` of index `i`. -/
def atanhSeries (fuel i : Nat) (p z2 : Int) : Int :=
  match fuel with
  | 0 => 0
  | k + 1 => p / (2 * (i : Int) + 1) + atanhSeries k (i + 1) (fpMul p z2) z2

/-- ln x of a positive value, in fixed point. -/
def lnFp (v : Val) : Int :=
  match v with
  | .num _ m e =>
    let l := Nat.log2 m
    let y := fpOf (.num false m (-(l : Int)))
    let z := fpDiv (y - fpOne) (y + fpOne)
    2 * atanhSeries 110 0 z (fpMul z z) + (e + l) * fpLn2
  | _ => 0

/-- 1 / (1 + e^(-x)). -/
def sigmoidFp (v : Val) : Int :=
  let e := fpOf (expV (v.abs.neg))
  let s := fpDiv fpOne (fpOne + e)
  match v with | .num true _ _ => fpDiv e (fpOne + e) | _ => s

/-- `sum x^(2n+1) / (1 * 3 * ... * (2n+1))`. -/
def phiSeries (fuel n : Nat) (t x2 : Int) : Int :=
  match fuel with
  | 0 => 0
  | k + 1 => t + phiSeries k (n + 1) (fpMul t x2 / (2 * (n : Int) + 3)) x2

/-- The normal density, to a relative error far below 2^-200. -/
def densV (v : Val) : Val :=
  let x := fpOf v
  (fpVal' fpInvSqrt2Pi).mul (expV (fpVal' (-(fpMul x x) / 2)))

/-- `t + k/(t + (k+1)/(t + ...))`: the continued fraction of the distribution's lower tail. -/
def tailFrac (fuel k : Nat) (t : Int) : Int :=
  match fuel with
  | 0 => t
  | f + 1 => t + fpDiv (k * fpOne) (tailFrac f (k + 1) t)

/-- The normal distribution: its series near zero, `densV (-t) / tailFrac t` in the lower tail, where the
series would leave nothing but its own rounding. -/
def distV (v : Val) : Val :=
  if (Val.num false 20 0).lt v then fpVal' fpOne
  else if v.lt (Val.num true 4 0) then
    (densV v).mul (fpVal' (fpDiv fpOne (tailFrac 200 1 (fpOf v.neg))))
  else
    let x := fpOf v
    fpVal' (fpOne / 2 + fpMul (fpOf (densV v)) (phiSeries 700 0 x (fpMul x x)))

/-! ### Roots and quotients -/

/-- Integer square root, bit by bit. -/
def isqrtGo (k n r : Nat) : Nat :=
  match k with
  | 0 => r
  | j + 1 => if (r + 2 ^ j) * (r + 2 ^ j) ≤ n then isqrtGo j n (r + 2 ^ j) else isqrtGo j n r
def isqrt (n : Nat) : Nat := isqrtGo (Nat.log2 n / 2 + 1) n 0

/-- The root of a value, with a sticky last bit below the 60th place. Of a negative one, which Table 5.3
meets with a negative EPS and says nothing of, the root of the magnitude (DESIGN CHOICE, assumption 85). -/
def sqrtV (v : Val) : Val :=
  match v with
  | .num _ m e =>
    let m' := if e % 2 = 0 then m * 2 ^ 160 else m * 2 ^ 161
    let e' := if e % 2 = 0 then e - 160 else e - 161
    let r := isqrt m'
    .num false (2 * r + (if r * r = m' then 0 else 1)) (e' / 2 - 1)
  | x => x

/-- The quotient of two finite values, with a sticky last bit. INVALID for a zero divisor: in RECIP, whose
domain excludes it (R112), and in `1 / sqrt(0)` of RSTD and RRMS, of which Table 5.3 says nothing (DESIGN
CHOICE, assumption 85). -/
def divV (a b : Val) : Val :=
  match a, b with
  | .invalid, _ => .invalid
  | _, .invalid => .invalid
  | _, .zero => .invalid
  | .zero, _ => .zero
  | .num s m e, .num t n f =>
    let k := 128 + Nat.log2 n
    let q := m * 2 ^ k / n
    .num (s ^^ t) (2 * q + (if q * n = m * 2 ^ k then 0 else 1)) (e - f - k - 1)

/-- Rounded to A40. -/
def a40Div (a b : A40) : A40 × Bool := a40Of (divV (a40Val a) (a40Val b))
def a40Sqrt (a : A40) : A40 × Bool := a40Of (sqrtV (a40Val a))

/-! ### Table 5.5 -/

/-- A result that need only lie within `2^-k` of `a` (absolutely below 1 if `absol`): the free code
`c` where it does, otherwise the code nearest to `a`. -/
def within (k : Nat) (absol : Bool) (a : Val) (c : A40) : A40 × Bool :=
  let r := a40Of a
  let tol := if absol && a.abs.lt (.num false 1 0) then Val.num false 1 (-(k : Int))
    else a.abs.shift (-(k : Int))
  let d := ((a40Val c).add a.neg).abs
  if !r.2 && a40Val r.1 != .zero && a40Val c != .invalid && !(tol.lt d) then (c, false) else r

/-- Error exponent of a function code. -/
def funcBits (f : Nat) : Nat :=
  match f with | 3 | 4 | 6 => 20 | 7 | 8 => 16 | _ => 24

/-- The value 1. -/
def one' : Val := .num false 1 0

/-- The exact value of a function, to the precision of the reference (INVALID outside the domain). -/
def funcRef (f : Nat) (v : Val) : Val :=
  match v with
  | .invalid => .invalid
  | _ =>
    match f with
    | 0 => v
    | 1 => expV v
    | 2 => if Val.zero.lt v then fpVal' (lnFp v) else .invalid
    | 3 => fpVal' (sigmoidFp v)
    | 4 => if (Val.num false 1 (-60)).lt v.abs then fpVal' (2 * sigmoidFp (v.shift 1) - fpOne) else v
    | 5 => if Val.zero.lt v then v else .zero
    | 6 =>
      let p := lnFp (fpVal' (fpOne + fpOf (expV v.abs.neg)))
      if Val.zero.lt v then v.add (fpVal' p)
      else if v.lt (.num true 40 0) then expV v else fpVal' p
    | 7 => v.mul (distV v)
    | 8 => v.mul (if v.lt (.num true 60 0) then expV v else fpVal' (sigmoidFp v))
    | 9 => divV one' v
    | 10 => if Val.zero.lt v then divV one' (sqrtV v) else .invalid
    | _ => .invalid

/-- SHAPE's function, with saturation (R112). IDENT and RELU are exact. Where the reference is exactly zero
(ln 1) the result is exactly zero, though its bound would leave it free within 2^-24 (DESIGN CHOICE,
assumption 12). -/
def shapeA40 (f : Nat) (x : A40) : A40 × Bool :=
  let r := funcRef f (a40Val x)
  if f = 0 || f = 5 || r == .invalid || r == .zero then a40Of r
  else within (funcBits f) (f == 2) r (Config.shapeFn (BitVec.ofNat 8 f) x)

/-- f' from the saved output (`inp` false) or the saved input (`inp` true), as Table 5.5 and R113
give it. -/
def derivRef (f : Nat) (inp : Bool) (v : Val) : Val :=
  match v with
  | .invalid => .invalid
  | _ =>
    let sub1 := fun (x : Val) => one'.add x.neg
    match f, inp with
    | 0, _ => one'
    | 1, false => v
    | 1, true => expV v
    | 2, false => expV v.neg
    | 2, true => if Val.zero.lt v then divV one' v else .invalid
    | 3, false => v.mul (sub1 v)
    | 3, true => let y := fpVal' (sigmoidFp v)
                 y.mul (fpVal' (sigmoidFp v.neg))
    | 4, false => sub1 (v.mul v)
    | 4, true => let y := fpVal' (sigmoidFp (v.shift 1))
                 (y.mul (fpVal' (sigmoidFp (v.shift 1).neg))).shift 2
    | 5, _ => if Val.zero.lt v then one' else .zero
    | 6, false => sub1 (expV v.neg)
    | 6, true => fpVal' (sigmoidFp v)
    | 7, _ => (distV v).add (v.mul (densV v))
    | 8, _ =>
      let y := fpVal' (sigmoidFp v)
      y.mul (one'.add (v.mul (fpVal' (sigmoidFp v.neg))))
    | 9, false => (v.mul v).neg
    | 9, true => (divV one' (v.mul v)).neg
    | 10, false => ((v.mul v).mul v).neg.shift (-1)
    | 10, true => if Val.zero.lt v then (divV one' (v.mul (sqrtV v))).neg.shift (-1) else .invalid
    | _, _ => .invalid

/-- The derivative DERIVE multiplies by; its error is that of the function (R113). -/
def derivA40 (f : Nat) (inp : Bool) (s : A40) : A40 × Bool :=
  let r := derivRef f inp (a40Val s)
  if f = 0 || f = 5 || r == .invalid || r == .zero then a40Of r
  else within (funcBits f) (f == 2) r (Config.deriveFn (BitVec.ofNat 8 f) inp s)

end Sys2Proof.Machine
end

