-- ==== Sys2Proof/Machine/Chain.lean ====
section
/-! DEFINITION. The vector chain of a stall: configurations, the stages TAP to PUT, the lane reducer
(R99-R123). -/

namespace Sys2Proof.Machine

/-! ### Configuration fields (Table 5.2) -/

/-- A chain configuration: 16 words. -/
abbrev ChainCfg := List Word

def ccWord (c : ChainCfg) (i : Nat) : Word := c.getD i 0
def ccBit (c : ChainCfg) (i b : Nat) : Bool := (ccWord c i).getLsbD b
def ccField (c : ChainCfg) (i hi lo : Nat) : Nat := fieldOf (ccWord c i) hi lo
/-- A scratchpad byte address held in 64-byte units at bits [lo+14:lo] of word i. -/
def ccAddr (c : ChainCfg) (i lo : Nat) : Nat := 64 * ccField c i (lo + 14) lo
def ccKind (c : ChainCfg) (i lo : Nat) : Byte := (ccWord c i).extractLsb' lo 8

def ccSiftEn (c : ChainCfg) : Bool := ccBit c 0 13
def ccDeriveEn (c : ChainCfg) : Bool := ccBit c 0 12
def ccShapeEn (c : ChainCfg) : Bool := ccBit c 0 11
def ccJoinEn (c : ChainCfg) : Bool := ccBit c 0 10
def ccScaleEn (c : ChainCfg) : Bool := ccBit c 0 9
def ccKeep (c : ChainCfg) : Bool := ccBit c 0 8
def ccSrc (c : ChainCfg) : Bool := ccBit c 0 0
def ccGate (c : ChainCfg) : Bool := ccBit c 9 24
def ccFunc (c : ChainCfg) : Nat := ccField c 9 7 0
def ccExpand (c : ChainCfg) : Bool := ccBit c 10 16
def ccOutKind (c : ChainCfg) : Byte := ccKind c 11 16
def ccFixed (c : ChainCfg) : Bool := ccBit c 11 9
def ccStoch (c : ChainCfg) : Bool := ccBit c 11 8
def ccDest (c : ChainCfg) : Nat := ccField c 12 31 30
def ccPacked (c : ChainCfg) : Bool := ccBit c 12 29
def ccStream (c : ChainCfg) : Nat := ccField c 12 28 24
def ccDst (c : ChainCfg) : Nat := ccAddr c 12 0
def ccMergeN (c : ChainCfg) : Nat := ccField c 13 23 21
def ccStatPut (c : ChainCfg) : Bool := ccBit c 13 20
def ccStatOnline (c : ChainCfg) : Bool := ccBit c 13 19
def ccStatAcc (c : ChainCfg) : Bool := ccBit c 13 18
def ccStatStart (c : ChainCfg) : Bool := ccBit c 13 17
def ccStatSlot (c : ChainCfg) : Nat := ccField c 13 16 15
def ccStatAddr (c : ChainCfg) : Nat := ccAddr c 13 0

/-! ### Regions (R102, R106, R123) -/

/-- Bytes of a broadcast operand of a kind (R129). -/
def vecBytes (k : Byte) : Nat := 64 * kindBytes k + (if kindScaled k then 64 else 0)

/-- The stored tiles that a drain reads row by row: SRC, JOIN and DERIVE operand, with their kinds. -/
def drainTiles (c : ChainCfg) : List (Nat × Byte) :=
  (if ccSrc c then [(ccAddr c 1 0, ccKind c 1 16)] else []) ++
  (if ccJoinEn c && ccField c 7 19 18 == 0 then [(ccAddr c 8 0, ccKind c 7 0)] else []) ++
  (if ccDeriveEn c then [(ccAddr c 8 16, ccKind c 9 16)] else [])

/-- The ranges of the preamble, in order (R106). -/
def preambleReads (c : ChainCfg) : List (Nat × Nat) :=
  (if ccScaleEn c && ccField c 2 3 0 == 1 then [(ccAddr c 3 0, 256)] else []) ++
  (if ccScaleEn c && ccField c 2 7 4 == 1 then [(ccAddr c 3 16, 256)] else []) ++
  (if ccScaleEn c && ccBit c 2 10 then [(ccAddr c 4 0, 256)] else []) ++
  (if ccJoinEn c && ccField c 7 19 18 != 0 then [(ccAddr c 8 0, vecBytes (ccKind c 7 0))] else []) ++
  ((drainTiles c).filter fun e => kindScaled e.2).map (fun e => (e.1 + 4096 * kindBytes e.2, 64)) ++
  (if ccMergeN c = 0 then [] else [(ccStatAddr c, 1088 * ccMergeN c)])

/-- The ranges of row m, in order. -/
def rowReads (c : ChainCfg) (m : Nat) : List (Nat × Nat) :=
  (drainTiles c).map (fun e => (e.1 + 64 * kindBytes e.2 * m, 64 * kindBytes e.2)) ++
  (if ccSiftEn c then [(ccAddr c 10 0 + 8 * m, 8)] else [])

/-- The scratchpad ranges a drain reads, in the order it reads them: the preamble, then the rows. -/
def drainReads (c : ChainCfg) : List (Nat × Nat) := preambleReads c ++ (List.range 64).flatMap (rowReads c)

/-- The scratchpad ranges a drain writes, a PACKED write at its largest size. -/
def drainWrites (c : ChainCfg) : List (Nat × Nat) :=
  (if ccDest c = 0 then
    [(ccDst c, if ccPacked c then 64 + 4096 * kindBytes (ccOutKind c) else recordBytes (ccOutKind c))]
   else []) ++
  (if ccStatPut c then [(ccStatAddr c, 1088)] else [])

/-! ### Lists of A40 with saturation -/

/-- Apply an operation that may saturate to each element. -/
def mapSat (l : List A40) (f : Nat → A40 → A40 × Bool) : List A40 × Bool :=
  let r := (l.zipIdx).map fun e => f e.2 e.1
  (r.map (·.1), r.any (·.2))

/-- The fixed binary tree of R119: neighbours first, each addition rounded. -/
def treeSum (fuel : Nat) (l : List A40) : A40 × Bool :=
  match fuel with
  | 0 => (l.headD 0, false)
  | k + 1 =>
    let rec pairs (l : List A40) : List A40 × Bool :=
      match l with
      | a :: b :: r =>
        let (s, f) := a40Add a b
        let (t, g) := pairs r
        (s :: t, f || g)
      | x => (x, false)
    let (m, f) := pairs l
    let (r, g) := treeSum k m
    (r, f || g)

/-! ### Operands from scratchpad -/

/-- What gives a drain the words of a scratchpad range, by address and bytes. -/
abbrev Reader := Nat → Nat → List MWord

/-- Words of a stall's scratchpad range. -/
def State.scratch (s : State) (d p a n : Nat) : List MWord := s.readWords (slotAddr d p a) ((n + 7) / 8)

/-- The word at address a in ranges read before, if one holds it. -/
def readBefore (l : List (Nat × List MWord)) (a : Nat) : Option MWord :=
  match l with
  | [] => none
  | e :: r => if e.1 ≤ a then (match e.2[(a - e.1) / 8]? with | some w => some w | none => readBefore r a)
              else readBefore r a

/-- The reader of a drain: the words it read before it had to wait stay as it read them (R123). -/
def State.drainReader (s : State) (d p : Nat) (reads : List (Nat × List MWord)) : Reader := fun a n =>
  if reads.isEmpty then s.scratch d p a n
  else ((s.scratch d p a n).zipIdx).map fun e => (readBefore reads (a + 8 * e.2)).getD e.1

/-- Element i of a vector of S32 as A40; INVALID in a poisoned word. -/
def s32El (ws : List MWord) (i : Nat) : A40 :=
  match elemAt ws 4 (4 * i) with
  | some v => (a40Of (s32Val (BitVec.ofNat 32 v))).1
  | none => a40Invalid

/-- Element (m, n) of a tile as A40, and whether the conversion saturated (R105, R37). -/
def tileEl (t : Tile) (m n : Nat) : A40 × Bool := elemA40 ((kindFmt t.kind).getD .l8) (t.el m n)

/-- Element i of a broadcast vector: row 0 of a weave tile (R111), and whether its conversion saturated. -/
def vecEl (k : Byte) (ws : List MWord) (i : Nat) : A40 × Bool :=
  let b := kindBytes k
  let v := elemAt ws b (i * b)
  let x := if kindScaled k then (elemAt ws 1 (64 * b + (if kindAxis k then i else 0))).map scaleInt else some 0
  elemA40 ((kindFmt k).getD .l8) (match v, x with | some c, some y => some (c, y) | _, _ => none)

/-! ### Statistics slots (R110, R118-R122) -/

def StatSlot.row (t : StatSlot) (m : Nat) : StatRow := t.rows.getD m { max := 0, sum := 0, sq := 0, arg := 0 }

/-- An empty slot: COUNT 0 (R118), and no entry that INVALID holds until STAT_START (R121). -/
def StatSlot.isEmpty (t : StatSlot) : Bool := t.count == 0 && !(t.rows.any fun r => a40Val r.max == .invalid)

/-- A row entry made INVALID (R121). -/
def StatRow.bad : StatRow := { max := a40Invalid, sum := a40Invalid, sq := a40Invalid, arg := 0xFFFFFFFF }

/-- The number of elements as A40. -/
def countA40 (n : Word) : A40 := (a40Of (if n = 0 then .zero else .num false n.toNat 0)).1

def a40Sub (a b : A40) : A40 × Bool := a40Of ((a40Val a).add (a40Val b).neg)

/-- ROW_OFF_SRC 2-4 for row m: MEAN, MAX, LSE (Table 5.3), and whether an operation saturated (R37). -/
def statOffset (t : StatSlot) (src m : Nat) : A40 × Bool :=
  let r := t.row m
  let bad := (a40Invalid, false)
  if t.count = 0 then bad
  else match src with
    | 2 => if t.online then bad else a40Div r.sum (countA40 t.count)
    | 3 => (r.max, false)
    | 4 => if t.online then a40Add r.max (shapeA40 2 r.sum).1 else bad
    | _ => bad

/-- `1 / sqrt(v + e)`, each operation rounded once. -/
def invRoot (v e : A40) : A40 × Bool :=
  let (x, f) := a40Add v e
  let (y, g) := a40Div (a40Of one').1 (a40Sqrt x).1
  (y, f || g)

/-- ROW_MUL_SRC 2 and 3 for row m: RSTD, RRMS (Table 5.3), and whether an operation saturated (R37). -/
def statMul (t : StatSlot) (src m : Nat) (eps : Word) : A40 × Bool :=
  let r := t.row m
  let e := (a40Of (s32Val eps)).1
  if t.count = 0 || t.online then (a40Invalid, false)
  else
    let n := countA40 t.count
    let ms := (a40Div r.sq n).1
    match src with
    | 2 =>
      let mean := (a40Div r.sum n).1
      let (m2, f1) := a40Mul mean mean
      let (var, f2) := a40Sub ms m2
      let (g, f3) := invRoot (if (a40Val var).lt .zero then a40Zero else var) e
      (g, f1 || f2 || f3)
    | 3 => invRoot ms e
    | _ => (a40Invalid, false)

/-- The largest element of a row and the lowest lane that holds it. -/
def rowMax (l : List A40) : A40 × Nat :=
  (l.zipIdx).foldl (fun b e => if (a40Val b.1).lt (a40Val e.1) then (e.1, e.2) else b) (l.headD 0, 0)

/-- A row entry takes a maximum, a sum and a sum of squares (PLAIN) or a maximum and a sum of
exponentials (ONLINE), as R119 and R120 state. -/
def StatRow.merge (r : StatRow) (online empty : Bool) (mx sm sq : A40) (arg : Word) : StatRow × Bool :=
  let inv := fun (x : A40) => a40Val x == .invalid
  if inv r.max then (StatRow.bad, false)
  else if inv mx || inv sm || inv sq then (StatRow.bad, false)
  else if empty then ({ max := mx, sum := sm, sq := sq, arg := arg }, false)
  else
    let up := (a40Val r.max).lt (a40Val mx)
    let m := if up then mx else r.max
    let a := if up then arg else r.arg
    if online then
      let (d1, g1) := a40Sub r.max m
      let (d2, g2) := a40Sub mx m
      let (x, f1) := a40Mul r.sum (shapeA40 1 d1).1
      let (y, f2) := a40Mul sm (shapeA40 1 d2).1
      let (t, f3) := a40Add x y
      ({ max := m, sum := t, sq := 0, arg := a }, g1 || g2 || f1 || f2 || f3)
    else
      let (t, f1) := a40Add r.sum sm
      let (q, f2) := a40Add r.sq sq
      ({ max := m, sum := t, sq := q, arg := a }, f1 || f2)

/-- The 64 lanes of row m enter the slot (R119-R121). -/
def StatRow.take (r : StatRow) (online empty : Bool) (base : Nat) (l : List A40) : StatRow × Bool :=
  if l.any (fun x => a40Val x == .invalid) then (StatRow.bad, false)
  else
    let (mx, n) := rowMax l
    let arg := BitVec.ofNat 32 (64 * base + n)
    if online then
      let (ds, h) := mapSat l fun _ x => a40Sub x mx
      let (s, f) := treeSum 6 (ds.map fun x => (shapeA40 1 x).1)
      let (r', g) := r.merge true empty mx s 0 arg
      (r', f || g || h)
    else
      let (s, f1) := treeSum 6 l
      let (sqs, f2) := mapSat l fun _ x => a40Mul x x
      let (q, f3) := treeSum 6 sqs
      let (r', g) := r.merge false empty mx s q arg
      (r', f1 || f2 || f3 || g)

/-- Every entry becomes INVALID, and COUNT rises by that of the record (R122). -/
def StatSlot.spoil (t : StatSlot) (n : Word) : StatSlot :=
  { t with count := t.count + n, rows := List.replicate 64 StatRow.bad }

/-- Merge the record at the head of `ws` (R122, Table 5.6), and whether an operation saturated. A kind other
than the slot's makes every entry INVALID. Where the word of COUNT and kind is poisoned, what the record
holds is unknown: every entry becomes INVALID and the COUNT it adds is a free value (assumption 26). COUNT
wraps modulo 2^32, and a COUNT that wraps to 0 makes the slot empty (DESIGN CHOICE, assumption 87). -/
def StatSlot.mergeRec (t : StatSlot) (ws : List MWord) : StatSlot × Bool :=
  match elemAt ws 4 0, elemAt ws 1 4 with
  | some n, some k =>
    if n = 0 then (t, false)
    else if k ≠ (if t.online then 1 else 0) then (t.spoil (BitVec.ofNat 32 n), false)
    else
      let rows := (List.range 64).map fun m =>
        let el := fun o => s32El (ws.drop (8 + 2 * m)) o
        match (elemAt ws 4 (0x4C + 16 * m)).map (BitVec.ofNat 32) with
        | none => (StatRow.bad, false)
        | some a => (t.row m).merge t.online t.isEmpty (el 0) (el 1) (if t.online then 0 else el 2) a
      ({ t with count := t.count + BitVec.ofNat 32 n, rows := rows.map (·.1) }, rows.any (·.2))
  | _, _ => (t.spoil (Config.poisonCount (ws.headD { val := 0, poison := true }).val), false)

/-- Merge n records stored back to back. -/
def StatSlot.mergeRecs (t : StatSlot) (ws : List MWord) (n : Nat) : StatSlot × Bool :=
  match n with
  | 0 => (t, false)
  | k + 1 =>
    let (u, f) := t.mergeRec ws
    let (v, g) := u.mergeRecs (ws.drop 136) k
    (v, f || g)

/-! ### The rows of a drain, TAP to SIFT -/

/-- SCALE on row m (R109): each operation rounds once. -/
def scaleRow (rd : Reader) (c : ChainCfg) (stats : List StatSlot) (m : Nat) (l : List A40) :
    List A40 × Bool :=
  let slot := stats.getD (ccField c 2 9 8) StatSlot.reset
  let off := ccField c 2 3 0
  let mul := ccField c 2 7 4
  let (l1, f1) :=
    if off = 0 then (l, false)
    else
      let (o, g) := if off = 1 then (s32El (rd (ccAddr c 3 0) 256) m, false) else statOffset slot off m
      let (y, f) := mapSat l fun _ x => a40Sub x o
      (y, f || g)
  let (l2, f2) :=
    if mul = 0 then (l1, false)
    else
      let (o, g) := if mul = 1 then (s32El (rd (ccAddr c 3 16) 256) m, false)
        else statMul slot mul m (ccWord c 6)
      let (y, f) := mapSat l1 fun _ x => a40Mul x o
      (y, f || g)
  let (l3, f3) :=
    if ccBit c 2 10 then
      let h := rd (ccAddr c 4 0) 256
      mapSat l2 fun n x => a40Mul x (s32El h n)
    else (l2, false)
  let (l4, f4) :=
    if ccBit c 2 11 then
      let k := (a40Of (s32Val (ccWord c 5))).1
      mapSat l3 fun _ x => a40Mul x k
    else (l3, false)
  (l4, f1 || f2 || f3 || f4)

/-- JOIN on row m (R111). -/
def joinRow (rd : Reader) (c : ChainCfg) (m : Nat) (l : List A40) : List A40 × Bool :=
  let k := ccKind c 7 0
  let form := ccField c 7 19 18
  let ws := rd (ccAddr c 8 0) (if form = 0 then recordBytes k else vecBytes k)
  let z := fun n => match form with
    | 0 => tileEl { kind := k, ws := ws } m n
    | 1 => vecEl k ws n
    | _ => vecEl k ws m
  mapSat l fun n x =>
    let (o, f) := z n
    let (y, g) := match ccField c 7 17 16 with
      | 0 => a40Add x o
      | 1 => a40Sub x o
      | _ => a40Mul x o
    (y, f || g)

/-- SHAPE transforms the row (it does not under DERIVE in GRAD) (R112, R113). -/
def ccShapes (c : ChainCfg) : Bool := ccShapeEn c && !(ccDeriveEn c && !ccGate c)

/-- DERIVE on row m (R113). -/
def deriveRow (rd : Reader) (c : ChainCfg) (m : Nat) (l : List A40) : List A40 × Bool :=
  let t := { kind := ccKind c 9 16, ws := rd (ccAddr c 8 16) (recordBytes (ccKind c 9 16)) : Tile }
  mapSat l fun n x =>
    let (o, f) := tileEl t m n
    let (g, f1) := if ccGate c then (o, false) else derivA40 (ccFunc c) (ccBit c 9 25) o
    let (r, f2) := a40Mul x g
    (r, f || f1 || f2)

/-- The 64-bit mask of row m: all clear where its word is poisoned (R114, R123). -/
def siftMask (rd : Reader) (c : ChainCfg) (m : Nat) : DWord :=
  match rd (ccAddr c 10 0 + 8 * m) 8 with
  | w :: _ => if w.poison then 0 else w.val
  | [] => 0

/-- Put the lanes of a list in the set positions of a mask, zero elsewhere. -/
def expandRow (mask : DWord) (n : Nat) (l : List A40) : List A40 :=
  match n with
  | 0 => []
  | k + 1 =>
    if mask.getLsbD (64 - (k + 1)) then l.headD 0 :: expandRow mask k l.tail
    else a40Zero :: expandRow mask k l

/-- SIFT on row m: the row and c_m (R114). -/
def siftRow (c : ChainCfg) (mask : DWord) (l : List A40) : List A40 × Nat :=
  let sel := ((l.zipIdx).filter fun e => mask.getLsbD e.2).map (·.1)
  let cm := ((List.range 64).filter fun i => mask.getLsbD i).length
  if ccExpand c then (expandRow mask 64 l, cm)
  else (sel ++ List.replicate (64 - sel.length) a40Zero, cm)

/-- What one row gives: the row after SIFT, c_m, the row entry of the slot, saturation. -/
structure RowOut where
  row  : List A40
  cnt  : Nat
  stat : StatRow
  sat  : Bool

/-- Row m through TAP to SIFT. `tap` is the row TAP reads, `stats` the slots after the preamble. -/
def chainRow (rd : Reader) (c : ChainCfg) (stats : List StatSlot) (m : Nat)
    (tap : List A40 × Bool) : RowOut :=
  let (l1, f1) := if ccScaleEn c then scaleRow rd c stats m tap.1 else (tap.1, false)
  let (l2, f2) := if ccJoinEn c then joinRow rd c m l1 else (l1, false)
  let (l3, f3) := if ccShapes c then mapSat l2 (fun _ x => shapeA40 (ccFunc c) x) else (l2, false)
  let (l4, f4) := if ccDeriveEn c then deriveRow rd c m l3 else (l3, false)
  let slot := stats.getD (ccStatSlot c) StatSlot.reset
  let (r, f5) := if ccStatAcc c then
      (slot.row m).take slot.online slot.isEmpty (ccField c 14 15 0)
        (if slot.online then l2 else l3)
    else (slot.row m, false)
  let (l5, cm) := if ccSiftEn c then siftRow c (siftMask rd c m) l4 else (l4, 64)
  { row := l5, cnt := cm, stat := r, sat := tap.2 || f1 || f2 || f3 || f4 || f5 }

/-- The slots after the preamble: STAT_START, then the merges (R118, R122), and whether one saturated. -/
def preambleStats (rd : Reader) (c : ChainCfg) (stats : List StatSlot) : List StatSlot × Bool :=
  let i := ccStatSlot c
  let t := stats.getD i StatSlot.reset
  let t1 := if ccStatStart c then { count := 0, online := ccStatOnline c, rows := [] : StatSlot } else t
  let (t2, f) := t1.mergeRecs (rd (ccStatAddr c) (1088 * ccMergeN c)) (ccMergeN c)
  (stats.set i t2, f)

/-- Row m as TAP reads it: a tile's cells rounded to A40 (R86), or a stored tile (R105). -/
def tapRow (rd : Reader) (c : ChainCfg) (a : Acc) (m : Nat) : List A40 × Bool :=
  let l := if ccSrc c then
      let t := { kind := ccKind c 1 16, ws := rd (ccAddr c 1 0) (recordBytes (ccKind c 1 16)) : Tile }
      (List.range 64).map fun n => tileEl t m n
    else (List.range 64).map fun n => (a.cell m n).tap
  (l.map (·.1), l.any (·.2))

/-- All rows of a drain: the rows for PACK with their counts c_m, the slots afterwards, and whether a stage
saturated. COUNT wraps modulo 2^32 (assumption 87). -/
def chainRows (rd : Reader) (c : ChainCfg) (stats : List StatSlot) (a : Acc) :
    List RowOut × List StatSlot × Bool :=
  let (pre, f) := preambleStats rd c stats
  let rows := (List.range 64).map fun m => chainRow rd c pre m (tapRow rd c a m)
  let i := ccStatSlot c
  let t := pre.getD i StatSlot.reset
  let t' := if ccStatAcc c then { t with count := t.count + 64, rows := rows.map (·.stat) } else t
  (rows, pre.set i t', f || rows.any (·.sat))

/-! ### PACK and PUT (R116, R117) -/


/-- Bytes as whole words, zero-filled. -/
def bytesWords (fuel : Nat) (l : List Byte) : List MWord :=
  match fuel with
  | 0 => []
  | k + 1 =>
    if l.isEmpty then []
    else { val := BitVec.ofNat 64 ((List.range 8).foldr (fun i n => (l.getD i 0).toNat + 256 * n) 0),
           poison := false } :: bytesWords k (l.drop 8)

/-- Block scale of each vector of the output, by row or by column (R46, R116). -/
def outScales (c : ChainCfg) (rows : List (List A40)) : List Int :=
  let k := ccOutKind c
  let f := (kindFmt k).getD .l8
  if !kindScaled k then List.replicate 64 0
  else if ccFixed c then List.replicate 64 (scaleInt (ccField c 11 7 0))
  else if kindAxis k then
    (List.range 64).map fun n => blockScale f (rows.map fun r => a40Val (r.getD n 0))
  else rows.map fun r => blockScale f (r.map a40Val)

/-- Elements of row m that PUT writes. -/
def rowLen (c : ChainCfg) (cnt : Nat) : Nat := if ccPacked c then cnt else 64

/-- Row m packed: codes and SAT; `n` is the count in force in its cycle. -/
def packRow (c : ChainCfg) (scales : List Int) (seed n : DWord) (m len : Nat) (r : List A40) :
    List Nat × Bool :=
  let k := ccOutKind c
  let f := (kindFmt k).getD .l8
  let es := ((r.take len).zipIdx).map fun e =>
    encode f (scales.getD (if kindAxis k then e.2 else m) 0)
      (if ccStoch c then some (draw seed n 1 e.2) else none) (a40Val e.1)
  (es.map (·.1), es.any (·.2))

/-- A row that PACK rounds stochastically: it holds an element. A row whose elements are all zero, INVALID or
exact in the output format counts too: the rules settle the point for write-backs (R91) and statistics
records (R122) alone (DESIGN CHOICE, assumption 88). -/
def rowRounds (c : ChainCfg) (cnt : Nat) : Bool := ccStoch c && rowLen c cnt != 0

/-- The rows packed in order: the bytes of each row and SAT. With stochastic rounding the count
advances for each row that rounds (R50); `gap m` cycles in which another site alone rounds lie before row m. -/
def packRows (c : ChainCfg) (scales : List Int) (seed : DWord) (gap : Nat → Nat) (n : DWord) (m : Nat)
    (rows : List (List A40 × Nat)) : List (List Byte) × DWord × Bool :=
  match rows with
  | [] => ([], n, false)
  | (r, cnt) :: rest =>
    let n0 := if rowRounds c cnt then n + BitVec.ofNat 64 (gap m) else n
    let (cs, f) := packRow c scales seed n0 m (rowLen c cnt) r
    let (bs, n2, g) := packRows c scales seed gap (if rowRounds c cnt then n0 + 1 else n0) (m + 1) rest
    ((cs.flatMap (leBytes (kindBytes (ccOutKind c)))) :: bs, n2, f || g)

/-- A statistics record (Table 5.6), its S32 values drawn at counts n, n + 1 and n + 2 (R122). -/
def statRecord (c : ChainCfg) (t : StatSlot) (seed n : DWord) : List Byte × Bool :=
  let empty := t.isEmpty
  let conv := fun (q m : Nat) (v : A40) =>
    s32Of (if ccStoch c then some (draw seed (n + BitVec.ofNat 64 q) 1 m) else none)
      (if empty then .zero else a40Val v)
  let rows := (List.range 64).map fun m =>
    let r := t.row m
    let (a, f1) := conv 0 m r.max
    let (b, f2) := conv 1 m r.sum
    let (q, f3) := conv 2 m r.sq
    (leBytes 4 a.toNat ++ leBytes 4 b.toNat ++ leBytes 4 q.toNat ++
      leBytes 4 (if empty then 0 else r.arg.toNat), f1 || f2 || f3)
  (leBytes 4 t.count.toNat ++ leBytes 1 (if t.online then 1 else 0) ++ List.replicate 59 0 ++
    rows.flatMap (·.1), rows.any (·.2))

/-- The chain configuration in a stall's store. -/
def State.chain (s : State) (d p i : Nat) : ChainCfg := SMap.get [] s.stores.chains ((72 * d + p) * 64 + i)

end Sys2Proof.Machine
end

