-- ==== Sys2Proof/Machine/Words.lean ====
section
/-! DEFINITION. Command words as the image holds them: the fields of Tables 3.1 and 8.5, and when a
word is valid (R67, R190, R196, R197). -/

namespace Sys2Proof.Machine

/-- A command word of a stall's stream (R190). -/
inductive CmdWord where
  | pass (w : PassWord)
  | drain (w : DrainWord)
  | loadw (w : LoadwWord)
  | post (w : MarkWord)
  | wait (w : MarkWord)
  | rearm (w : RearmWord)
  | bopen (n : Nat)
  | bclose (n : Nat)
  | bell (w : BellWord)
  | put (w : PutWord)
  | ballast (n : Nat)
  | halt (restart : Bool)
  deriving DecidableEq, Repr

/-- Bits `[hi:lo]` of a 128-bit word. -/
def wf (w hi lo : Nat) : Nat := w / 2 ^ lo % 2 ^ (hi - lo + 1)
def wb (w i : Nat) : Bool := decide (w / 2 ^ i % 2 = 1)

/-- The PASS word of Table 3.1. -/
def passOf (w : Nat) : PassWord :=
  { tag := BitVec.ofNat 16 (wf w 111 96), wbAddr := BitVec.ofNat 15 (wf w 94 80),
    preAddr := BitVec.ofNat 15 (wf w 78 64), aAddr := BitVec.ofNat 15 (wf w 62 48),
    kpM1 := BitVec.ofNat 10 (wf w 43 34), sumId := BitVec.ofNat 2 (wf w 33 32),
    sumStart := wb w 30, psum := wb w 29, preload := BitVec.ofNat 2 (wf w 28 27),
    acc := if wb w 26 then 1 else 0, aAxis := wb w 25, wAxis := wb w 24,
    wKind := BitVec.ofNat 8 (wf w 23 16), aKind := BitVec.ofNat 8 (wf w 15 8),
    res := BitVec.ofNat 24 (wf w 127 112 * 256 + wf w 95 95 * 128 + wf w 79 79 * 64 +
      wf w 63 63 * 32 + wf w 47 44 * 2 + wf w 31 31) }

/-- The command that a 128-bit word holds; none for an invalid opcode or a reserved bit that is set
in a word other than PASS (R190). -/
def cmdOf (w : Nat) : Option CmdWord :=
  let chk := fun (used : Nat) (c : CmdWord) => if w / 256 * 256 - used * 256 = 0 then some c else none
  match w % 256 with
  | 1 => some (.pass (passOf w))
  | 2 => chk (wf w 13 8 + wf w 16 16 * 256)
      (.drain { tile := if wb w 16 then 1 else 0, slot := Fin.ofNat 64 (wf w 13 8) })
  | 3 => chk (wf w 22 8 + wf w 50 32 * 2 ^ 24)
      (.loadw { tiles := BitVec.ofNat 11 (wf w 50 40), kind := BitVec.ofNat 8 (wf w 39 32),
                addr := BitVec.ofNat 15 (wf w 22 8) })
  | 4 => chk (wf w 19 8 + wf w 31 24 * 2 ^ 16)
      (.post { countM1 := BitVec.ofNat 8 (wf w 31 24), mark := BitVec.ofNat 12 (wf w 19 8) })
  | 5 => chk (wf w 19 8 + wf w 31 24 * 2 ^ 16)
      (.wait { countM1 := BitVec.ofNat 8 (wf w 31 24), mark := BitVec.ofNat 12 (wf w 19 8) })
  | 6 => chk (wf w 17 8 + wf w 29 20 * 2 ^ 12)
      (.rearm { countM1 := BitVec.ofNat 10 (wf w 29 20), first := BitVec.ofNat 10 (wf w 17 8) })
  | 7 => chk (wf w 19 8) (.bopen (wf w 19 8))
  | 8 => chk (wf w 19 8) (.bclose (wf w 19 8))
  | 9 => chk (wf w 11 8 + wf w 23 16 * 2 ^ 8 + wf w 46 32 * 2 ^ 24 + wf w 62 48 * 2 ^ 40)
      (.bell { dstAddr := BitVec.ofNat 15 (wf w 62 48), srcAddr := BitVec.ofNat 15 (wf w 46 32),
               point := BitVec.ofNat 8 (wf w 23 16), op := BitVec.ofNat 2 (wf w 11 10),
               group := BitVec.ofNat 2 (wf w 9 8) })
  | 10 => chk (wf w 24 8 + wf w 103 32 * 2 ^ 24)
      (.put { kind := BitVec.ofNat 8 (wf w 103 96), addr := BitVec.ofNat 48 (wf w 95 48),
              tiles := BitVec.ofNat 16 (wf w 47 32), last := wb w 24,
              basket := BitVec.ofNat 16 (wf w 23 8) })
  | 11 => chk (wf w 63 32 * 2 ^ 24) (.ballast (wf w 63 32))
  | 12 => chk (wf w 8 8) (.halt (wb w 8))
  | _ => none

/-- A byte range ends within the 2 MiB of a scratchpad. -/
def inPad (r : Nat × Nat) : Bool := decide (r.1 + r.2 ≤ 2 ^ 21)

/-- A valid PASS (R67). -/
def passOk (w : PassWord) : Bool :=
  w.res == 0 && kindOk w.aKind && kindOk w.wKind && (pairing w.aFmt w.wFmt).isSome &&
  w.aFmt != .s32 && w.wFmt != .s32 && inPad w.aRange && inPad w.preRange && inPad w.wbRange &&
  !(w.preload == 1 && overlap w.preRange w.aRange) && !(w.psum && overlap w.wbRange w.aRange)

/-- A valid word on die `d`, as far as the word itself tells (R67, Table 8.5, R196, R197). The
fields that Table 8.5 gives to SUM alone are zero in a BARRIER (assumption 28). -/
def CmdWord.ok (d : Nat) (c : CmdWord) : Bool :=
  match c with
  | .pass w => passOk w
  | .loadw w => decide (1 ≤ w.tiles.toNat ∧ w.tiles.toNat ≤ 1024) && kindOk w.kind
  | .rearm w => decide (w.first.toNat + w.countM1.toNat ≤ 1023)
  | .bell w =>
    decide (w.op.toNat ≤ 1) && decide (w.point.toNat ≤ 64) &&
    (w.op == 1 || (w.srcAddr == 0 && w.dstAddr == 0)) &&
    (w.point == 0 || (w.group == 0 && w.op == 0))
  | .put w =>
    kindOk w.kind && (kindFmt w.kind == some .l16 || kindFmt w.kind == some .bf16) &&
    decide (1 ≤ w.tiles.toNat) && addrOk w.addr.toNat && addrDie w.addr.toNat == d
  | .ballast n => decide (1 ≤ n)
  | _ => true

/-- The kind under which a word waits for its start (Table 8.7). -/
def CmdWord.kind (c : CmdWord) : CmdKind :=
  match c with
  | .pass _ => .pass
  | .loadw _ => .loadw
  | .drain _ => .drain
  | .wait _ => .markWait
  | .bell _ => .bell
  | _ => .other

end Sys2Proof.Machine
end

