-- ==== Sys2Proof/Machine/ImageCheck.lean ====
section
/-! DEFINITION. The program image in DRAM and its check (R185-R188): header and sections (Tables 8.1
to 8.3), and the rules that Table 8.4 collects. -/

namespace Sys2Proof.Machine

/-! ### Reading the image -/

def State.img64 (s : State) (a : Nat) : Nat := (s.peek (a / 8)).val.toNat
def State.img32 (s : State) (a : Nat) : Nat := s.img64 a / 2 ^ (8 * (a % 8)) % 2 ^ 32
def State.img16 (s : State) (a : Nat) : Nat := s.img64 a / 2 ^ (8 * (a % 8)) % 2 ^ 16
def State.imgByte (s : State) (a : Nat) : Nat := s.img64 a / 2 ^ (8 * (a % 8)) % 2 ^ 8

/-- Number of the first poisoned word of a byte range. -/
def State.imgPoison (s : State) (a n : Nat) : Option Nat :=
  (List.range ((n + 7) / 8)).find? fun i => (s.peek (a / 8 + i)).poison

/-- No word of a byte range is poisoned. -/
def State.clean (s : State) (a n : Nat) : Bool := (s.imgPoison a n).isNone

/-- Header address of die d's image, from the directory. -/
def State.imgHeader (s : State) (dir d : Nat) : Nat := s.img64 (dir + 8 * d)
/-- Address and length of section i of the image with header h (Table 8.1). -/
def State.imgSec (s : State) (h i : Nat) : Nat × Nat :=
  (s.img64 (h + 0x20 + 16 * i), s.img64 (h + 0x28 + 16 * i))
def State.imgId (s : State) (h : Nat) : Nat := s.img64 (h + 8)
def State.imgLive (s : State) (h : Nat) : Nat := s.img64 (h + 0x10)
def State.imgPath (s : State) (h : Nat) : Nat := s.img32 (h + 0x18)
def State.imgPoints (s : State) (h : Nat) : Nat := s.img32 (h + 0x1C)

/-- Offset and word count of logical stall l's stream (Table 8.2, section 0). -/
def State.imgStream (s : State) (h l : Nat) : Nat × Nat :=
  let c := (s.imgSec h 0).1
  (s.img64 (c + 16 * l), s.img32 (c + 16 * l + 8))
/-- Command word i of logical stall l. -/
def State.imgCmd (s : State) (h l i : Nat) : Option CmdWord :=
  let a := (s.imgSec h 0).1 + (s.imgStream h l).1 + 16 * i
  cmdOf (s.img64 a + s.img64 (a + 8) * 2 ^ 64)
/-- Budget of command word i of logical stall l (section 1, in the order of CMD). -/
def State.imgBudget (s : State) (h l i : Nat) : Nat :=
  s.img32 ((s.imgSec h 1).1 + 4 * (((s.imgStream h l).1 - 1024) / 16 + i))
/-- A 64-byte structure as 16 words. -/
def State.imgWords (s : State) (a : Nat) : List Word :=
  (List.range 16).map fun i => BitVec.ofNat 32 (s.img32 (a + 4 * i))
def State.imgStallSd (s : State) (h l st : Nat) : List Word :=
  s.imgWords ((s.imgSec h 2).1 + 64 * (32 * l + st))
def State.imgEngineSd (s : State) (h st : Nat) : List Word := s.imgWords ((s.imgSec h 3).1 + 64 * st)
def State.imgChain (s : State) (h l c : Nat) : List Word :=
  s.imgWords ((s.imgSec h 4).1 + 64 * (64 * l + c))
def State.imgMark (s : State) (h m : Nat) : Nat := s.img16 ((s.imgSec h 5).1 + 2 * m)
def State.imgBases (s : State) (h : Nat) : Nat := (s.imgSec h 6).2 / 8
def State.imgBase (s : State) (h e : Nat) : Nat := s.img64 ((s.imgSec h 6).1 + 8 * e)
/-- First unit and units of pool i of quarter q. -/
def State.imgPool (s : State) (h q i : Nat) : Nat × Nat :=
  let w := s.img32 ((s.imgSec h 7).1 + 4 * (16 * q + i))
  (w / 2 ^ 16 % 2 ^ 12, w % 2 ^ 13)
def State.imgRound (s : State) (h c i : Nat) : Nat := s.img32 ((s.imgSec h 8).1 + 16 * c + 4 * i)
/-- Masks of stalls and dies of a program bundle number. -/
def State.imgBundle (s : State) (h n : Nat) : Nat × Nat :=
  (s.img64 ((s.imgSec h 9).1 + 16 * n), s.img64 ((s.imgSec h 9).1 + 16 * n + 8))
/-- Address of the record of point p, from 1. -/
def State.imgPoint (s : State) (h p : Nat) : Nat := (s.imgSec h 10).1 + 55296 * (p - 1)
/-- A structure with no bit set holds nothing: a slot or a stream that the image does not fill
(assumption 27). -/
def unfilled (l : List Word) : Bool := l.all (· == 0)

/-- Command words of a stall's stream with their index. -/
def State.imgCmds (s : State) (h l : Nat) : List (Nat × Option CmdWord) :=
  (List.range (s.imgStream h l).2).map fun i => (i, s.imgCmd h l i)

/-! ### What a check finds -/

/-- A fault of an image: code of Table 8.4, logical stall or 0xFF, section or 0xF, item. -/
structure Found where
  code  : Nat
  stall : Nat
  sect  : Nat
  index : Nat
  deriving DecidableEq, Repr

/-- The first fault of a list of checks. -/
def firstOf (l : List (Option Found)) : Option Found := l.findSome? id
/-- A fault where a rule does not hold. -/
def need (ok : Bool) (f : Found) : Option Found := if ok then none else some f

/-- Two byte ranges `[a, a + n)` share a byte. -/
def rangesMeet (a b : Nat × Nat) : Bool := overlap a b

/-- A byte range lies wholly in die d's DRAM. -/
def inDram (d : Nat) (r : Nat × Nat) : Bool :=
  decide (d * 2 ^ 42 ≤ r.1 ∧ r.1 + r.2 ≤ d * 2 ^ 42 + 2 ^ 36)

/-- Lengths that Table 8.2 gives the sections. -/
def sectionLenOk (i len words points : Nat) : Bool :=
  match i with
  | 0 => decide (1024 ≤ len ∧ (len - 1024) % 16 = 0)
  | 1 => len == 4 * words
  | 2 => len == 131072
  | 3 => len == 16384
  | 4 => len == 262144
  | 5 => len == 8192
  | 6 => decide (len % 8 = 0 ∧ len ≤ 8192)
  | 7 => len == 256
  | 8 => len == 64
  | 9 => len == 65536
  | 10 => len == 55296 * points
  | _ => len == 844

/-- The header of another die's image, and sections of it, can be compared with: no word of them is poisoned.
A poisoned one is that die's fault; its data bits are not used (R188). -/
def State.refClean (s : State) (dir d : Nat) (secs : List Nat) : Bool :=
  let h := s.imgHeader dir d
  s.clean (dir + 8 * d) 8 && s.clean h 4096 && secs.all fun i => s.clean (s.imgSec h i).1 (s.imgSec h i).2

/-- The header (R186, codes 0x01, 0x02 and 0x0E). `ok`: the header `ref` can be compared with. -/
def State.checkHeader (s : State) (d h ref : Nat) (ok : Bool) : Option Found :=
  let f := fun (code i : Nat) => ({ code := code, stall := 0xFF, sect := 0xF, index := i } : Found)
  let words := ((s.imgSec h 0).2 - 1024) / 16
  let points := s.imgPoints h
  let secs := (List.range 12).map fun i => s.imgSec h i
  firstOf (
    [need (h % 64 == 0 && inDram d (h, 4096)) (f 1 0)] ++
    [match s.imgPoison h 4096 with | some i => some (f 0xE i) | none => none] ++
    [need (s.img32 h == 0x1B058801) (f 1 0), need (s.img32 (h + 4) == 1) (f 1 1),
     need (!ok || s.imgId h == s.imgId ref) (f 1 2),
     need (s.imgLive h == (maskOf s.liveDies).toNat) (f 2 4),
     need (decide (s.imgPath h < 2 ^ 16)) (f 1 6),
     need (s.imgPath h == s.rounds.code.toNat) (f 2 6),
     need (decide (points ≤ 64)) (f 1 7)] ++
    ((List.range 12).map fun i =>
      let r := s.imgSec h i
      need (r.1 % 64 == 0 && inDram d r && sectionLenOk i r.2 words points &&
        !(rangesMeet r (h, 4096)) &&
        (List.range i).all fun j => !(rangesMeet r (secs.getD j (0, 0)))) (f 1 (8 + 4 * i))) ++
    [need ((List.range 484).all fun i => s.img64 (h + 0xE0 + 8 * i) == 0) (f 1 56)])

/-! ### Streams (R162, R226, R302) -/

/-- A descriptor as a stream. -/
def sdStream (l : List Word) (base : Nat) : Stream :=
  { Stream.reset with desc := l, base := BitVec.ofNat 48 base }

/-- Lowest and highest far address of a walk. -/
def Stream.span (x : Stream) : Int × Int :=
  let u : Int := if x.isRun then 1 else (recordBytes x.kind : Nat)
  let b : Int := (x.base.toNat : Nat)
  x.dims.foldl (fun r k =>
    let e : Int := ((x.countOf k - 1 : Nat) : Int) * x.strideOf k * u
    (r.1 + min 0 e, r.2 + max 0 e)) (b, b)

/-- The walk's bytes as a range, for a walk that does not leave the address space. -/
def Stream.range (x : Stream) : Nat × Nat := (x.span.1.toNat, (x.span.2 - x.span.1).toNat + x.size)

/-- Reserved bits of a descriptor (Table 7.3). -/
def sdReserved (l : List Word) : Bool :=
  let g := fun i => l.getD i 0
  (g 1 &&& 0xFFFF0000) == 0 && (g 2 &&& 0x000FFF00) == 0 && (g 3 &&& 0x8000) == 0 &&
  (g 6 &&& 0xFFFF0000) == 0 && (g 12 &&& 0xF000) == 0 && (g 13 &&& 0x7000) == 0 &&
  (g 14 &&& 0xFFFF0000) == 0 && g 15 == 0

/-- LOCAL_BASE as Table 7.3 allows it, and the ring within its memory (R162). -/
def ringOk (engine : Bool) (x : Stream) : Bool :=
  let lb := x.localBase
  if x.role == roleLoad || x.role == roleStore then
    if engine then
      decide (lb < 2 ^ 14) && decide (lb % 4096 * 4096 + x.slots * x.size ≤ 2 ^ 24)
    else decide (64 * lb + x.slots * x.size ≤ 2 ^ 21)
  else if x.role == roleRound then decide (lb < 2 ^ 12)
  else lb == 0

/-- A descriptor that R162 allows, for die d; `engine`: a stream `st` of the die stream engine. -/
def State.sdOk (s : State) (d : Nat) (engine : Bool) (st : Nat) (x : Stream) : Bool :=
  let n := x.ndim
  let u := if x.isRun then 1 else recordBytes x.kind
  let b := x.base.toNat
  let (lo, hi) := x.span
  let k := addrKind b
  let lim : Nat × Nat := match k with
    | 0 => (d * 2 ^ 42, d * 2 ^ 42 + 2 ^ 36)
    | 1 => (d * 2 ^ 42 + 2 ^ 40, d * 2 ^ 42 + 2 ^ 40 + 2 ^ 26)
    | _ => (b / 2 ^ 21 * 2 ^ 21, b / 2 ^ 21 * 2 ^ 21 + 2 ^ 21)
  sdReserved x.desc && decide (x.role < 7) && decide (1 ≤ n ∧ n ≤ 5) &&
  ((List.range 5).all fun i =>
    if i < n then x.countOf i != 0 else x.countOf i == 0 && x.strideOf i == 0) &&
  kindOk x.kind &&
  (!x.isRun || (x.countOf 0 % 64 == 0 && decide (64 ≤ x.countOf 0 ∧ x.countOf 0 ≤ 8192) &&
    x.strideOf 0 == 0 && ((List.range 5).all fun i => x.strideOf i % 64 == 0) && b % 64 == 0)) &&
  (if engine then
    x.role != rolePut && ((x.role == roleBcast) == decide (st < 16))
   else x.role == roleLoad || x.role == roleStore || x.role == rolePut) &&
  ((x.slots != 0) == (x.role == roleLoad || x.role == roleStore)) &&
  ((x.qmask != 0) == (x.role == roleRound)) &&
  s.backed b && addrDie b == d && decide ((lim.1 : Int) ≤ lo ∧ hi + (x.size : Nat) ≤ (lim.2 : Nat)) &&
  b % 64 == 0 &&
  (x.isRun || kindScaled x.kind || k == 2 || b % min u 4096 == 0) &&
  (x.role != roleBcast || k == 1) && ringOk engine x

/-- Fields of a fetch entry (Table 10.4) and of an OUT_BIND register (Table 12.7). -/
def State.feCtl (s : State) (d e : Nat) : Word := s.reg (pgDecrypt d) (0x100 + 16 * e)
def State.feGeom (s : State) (d e : Nat) : Word := s.reg (pgDecrypt d) (0x108 + 16 * e)
def feValid (w : Word) : Bool := w.getLsbD 31
def feForm (w : Word) : Nat := fieldOf w 30 29
def feKey (w : Word) : Nat := fieldOf w 27 24
def feStream (w : Word) : Nat := fieldOf w 23 16
def feQcopy (w : Word) : Nat := fieldOf w 15 12
def feFlow (w : Word) : Nat := fieldOf w 9 0
def State.outBind (s : State) (d i : Nat) : Word := s.reg (pgPort d) (0x0C0 + 4 * i)

/-- VALID fetch entries that name a stream. -/
def State.feOf (s : State) (d st : Nat) : List Nat :=
  (List.range 32).filter fun e => feValid (s.feCtl d e) && feStream (s.feCtl d e) == st
/-- VALID OUT_BIND registers that name a stream. -/
def State.outOf (s : State) (d st : Nat) : List Nat :=
  (List.range 16).filter fun i => (s.outBind d i).getLsbD 31 && fieldOf (s.outBind d i) 23 16 == st

/-- What R226 asks of the entry of a PORT_IN stream. -/
def State.feOk (s : State) (d e : Nat) (x : Stream) : Bool :=
  let w := s.feCtl d e
  let cols := fieldOf (s.feGeom d e) 4 0
  let b := x.base.toNat
  let inQ := addrKind b == 1
  (s.keySlot d (feKey w)).valid &&
  (feQcopy w == 0 || (inQ && (feQcopy w / 2 ^ (addrOff b / 2 ^ 24)) % 2 == 1)) &&
  (match feForm w with
    | 0 => cols == 0
    | 1 | 2 => !x.isRun && kindFmt x.kind != some .s32 && decide (1 ≤ cols ∧ cols ≤ 16) &&
        x.walkLen % max 1 cols == 0
    | _ => false) &&
  (!(s.reg (pgDecrypt d) 0x040).getLsbD 0 || inQ)

/-- The port rules of one die stream engine stream (R226, R302). -/
def State.portStreamOk (s : State) (d st : Nat) (x : Stream) : Bool :=
  if x.role == rolePortIn then
    match s.feOf d st with | [e] => s.feOk d e x | _ => false
  else if x.role == rolePortOut then (s.outOf d st).length == 1
  else true

/-! ### Chain configurations (R102) -/

/-- No reserved bit is set and no field holds a reserved code (Table 5.2). -/
def ccFieldsOk (c : ChainCfg) : Bool :=
  let g := fun i => ccWord c i
  (g 0 &&& 0xFFFFC0FE) == 0 && (g 1 &&& 0xFF008000) == 0 && (g 2 &&& 0xFFFFF000) == 0 &&
  (g 3 &&& 0x80008000) == 0 && (g 4 &&& 0xFFFF8000) == 0 && (g 7 &&& 0xFFF0FF00) == 0 &&
  (g 8 &&& 0x80008000) == 0 && (g 9 &&& 0xFC00FF00) == 0 && (g 10 &&& 0xFFFE8000) == 0 &&
  (g 11 &&& 0xFF00FC00) == 0 && (g 12 &&& 0x00FF8000) == 0 && (g 13 &&& 0xFF000000) == 0 &&
  (g 14 &&& 0xFFFF0000) == 0 && (g 15 &&& 0xFFFF0000) == 0 &&
  decide (ccField c 2 7 4 ≤ 3) && decide (ccField c 2 3 0 ≤ 4) && decide (ccField c 7 19 18 ≤ 2) &&
  decide (ccField c 7 17 16 ≤ 2) && decide (ccFunc c ≤ 10) && decide (ccDest c ≤ 1)

/-- A configuration that R102 allows. -/
def ccOk (c : ChainCfg) : Bool :=
  let saved := ccKind c 9 16
  let out := ccOutKind c
  ccFieldsOk c && kindOk (ccKind c 1 16) && kindOk (ccKind c 7 0) && kindOk saved && kindOk out &&
  !(ccKeep c && ccSrc c) && !(ccDeriveEn c && !ccShapeEn c) &&
  !(ccDeriveEn c && !ccGate c && !ccBit c 9 25 && (ccFunc c == 7 || ccFunc c == 8)) &&
  !(ccDeriveEn c && ccBit c 9 25 && kindFmt saved != some .l16 && kindFmt saved != some .bf16) &&
  !(ccPacked c && (!ccSiftEn c || ccExpand c || kindScaled out || ccDest c == 1)) &&
  !(ccFixed c && !kindScaled out) &&
  (drainReads c).all inPad && (drainWrites c).all inPad &&
  (drainWrites c).all fun w => (drainReads c).all fun r => !(overlap w r)

/-! ### Command streams -/

/-- Where a stall stands in a walk of its stream: records left and kind of an open private sequence
(R196), open bracket, BELL_WAITs passed, last POINT. -/
structure CmdScan where
  left    : Nat := 0
  kind    : Byte := 0
  bracket : Option Nat := none
  point   : Nat := 0

/-- One word of the walk: the fault it shows, or the walk after it. -/
def scanCmd (c : CmdScan) (w : CmdWord) : Nat ⊕ CmdScan :=
  match w with
  | .loadw x =>
    if c.left != 0 || !(inPad (64 * x.addr.toNat, x.tiles.toNat * recordBytes x.kind)) then .inl 9
    else .inr { c with left := x.tiles.toNat, kind := x.kind }
  | .pass x =>
    if c.left = 0 then .inr c
    else if x.wKind != c.kind || decide (c.left < x.tiles) then .inl 9
    else .inr { c with left := c.left - x.tiles }
  | .bell x =>
    if x.point == 0 then .inr c
    else if x.point.toNat = c.point + 1 then .inr { c with point := x.point.toNat } else .inl 0xA
  | .bopen n => if c.bracket.isSome then .inl 0xB else .inr { c with bracket := some n }
  | .bclose n => if c.bracket = some n then .inr { c with bracket := none } else .inl 0xB
  | .halt _ => if c.left != 0 then .inl 9 else if c.bracket.isSome then .inl 0xB else .inr c
  | _ => .inr c

/-- The walk of a stream: code and index of its first fault. -/
def scanAll (c : CmdScan) (l : List (Nat × Option CmdWord)) : Option (Nat × Nat) :=
  match l with
  | [] => none
  | (i, none) :: _ => some (3, i)
  | (i, some w) :: r =>
    match scanCmd c w with
    | .inl code => some (code, i)
    | .inr c' => scanAll c' r

/-- The BELL_WAITs of a stream for a group, as operation and point (R197). -/
def bellsOf (g : Nat) (l : List (Nat × Option CmdWord)) : List (Nat × Nat) :=
  l.filterMap fun e => match e.2 with
    | some (.bell x) => if x.group.toNat = g then some (x.op.toNat, x.point.toNat) else none
    | _ => none

/-- First logical stall of stall l's group on its die. -/
def groupFirst (g l : Nat) : Nat :=
  match g with | 2 => l / 16 * 16 | 3 => l / 4 * 4 | _ => 0

/-- RESTART of a stream's last word. -/
def restartOf (l : List (Nat × Option CmdWord)) : Option Bool :=
  match l.getLast? with | some (_, some (.halt r)) => some r | _ => none

/-- Brackets a stream holds with a number, and the commands staged in them. -/
def bracketsOf (n : Nat) (l : List (Nat × Option CmdWord)) : Nat :=
  (l.filter fun e => e.2 == some (.bopen n)).length

/-- Staged commands of a stream in brackets of a number. -/
def stagedOf (n : Nat) (on : Bool) (l : List (Nat × Option CmdWord)) : Nat :=
  match l with
  | [] => 0
  | (_, w) :: r =>
    match w with
    | some (.bopen m) => stagedOf n (m == n) r
    | some (.bclose _) => stagedOf n false r
    | some (.rearm _) | some (.post _) | some (.put _) => (if on then 1 else 0) + stagedOf n on r
    | _ => stagedOf n on r

/-- The words of logical stall l: codes 0x03, 0x05, 0x07, 0x09, 0x0A, 0x0B. `ref` is the header of
the lowest live die, with which the stream is compared if `ok`; words of later sections are used where they
are not poisoned (R188). -/
def State.checkStall (s : State) (d h ref l : Nat) (ok : Bool) : Option Found :=
  let f := fun (code i : Nat) => ({ code := code, stall := l, sect := 0, index := i } : Found)
  let (off, n) := s.imgStream h l
  let len := (s.imgSec h 0).2
  let ws := s.imgCmds h l
  let nb := s.imgBases h
  if !(off % 16 == 0 && decide (1024 ≤ off ∧ off + 16 * n ≤ len ∧ 1 ≤ n ∧ n ≤ 2 ^ 20)) then
    some (f 3 0)
  else
    firstOf (
      (ws.map fun e =>
        match e.2 with
        | none => some (f 3 e.1)
        | some w =>
          firstOf [
            need (w.ok d) (f 3 e.1),
            need ((match w with | .halt _ => true | _ => false) == (e.1 + 1 == n)) (f 3 e.1),
            match w with
            | .drain x =>
              need (!(s.clean ((s.imgSec h 4).1 + 64 * (64 * l + x.slot.val)) 64) ||
                !(unfilled (s.imgChain h l x.slot.val))) (f 5 e.1)
            | .rearm x => need (decide (x.first.toNat + x.countM1.toNat < nb)) (f 7 e.1)
            | .bopen k =>
              need (!(s.clean ((s.imgSec h 9).1 + 16 * k) 16) ||
                ((s.imgBundle h k).1 / 2 ^ l % 2 == 1 && (s.imgBundle h k).2 / 2 ^ d % 2 == 1)) (f 0xB e.1)
            | _ => none]) ++
      [need (!ok || restartOf ws == restartOf (s.imgCmds ref 0)) (f 3 (n - 1)),
       (scanAll {} ws).map fun r => f r.1 r.2] ++
      ((List.range 4).map fun g =>
        let h' := if g = 0 then ref else h
        need ((g == 0 && !ok) || bellsOf g ws == bellsOf g (s.imgCmds h' (groupFirst g l))) (f 0xA 0)))

/-- Base table entries that stall l's REARMs name (R170, code 0x07). -/
def State.checkRearm (s : State) (d h l : Nat) : Option Found :=
  firstOf ((s.imgCmds h l).flatMap fun e =>
    match e.2 with
    | some (.rearm x) => (List.range (x.countM1.toNat + 1)).map fun i =>
        let k := x.first.toNat + i
        let v := s.imgBase h k
        let st := v / 2 ^ 48 % 256
        let eng := v / 2 ^ 56 % 2 == 1
        let sd := if eng then s.imgEngineSd h st else s.imgStallSd h l st
        let y := sdStream sd (v % 2 ^ 48)
        need (decide (v < 2 ^ 57) && (eng || decide (st < 32)) && !(unfilled sd) && y.persist &&
          s.sdOk d eng st y) { code := 7, stall := l, sect := 6, index := k }
    | _ => [])

/-- The base of a descriptor in an image. -/
def sdBase (l : List Word) : Nat := (l.getD 0 0).toNat + (l.getD 1 0).toNat % 2 ^ 16 * 2 ^ 32

/-! ### Pools and round contexts (R171, R176, code 0x08) -/

/-- The byte range `[o, o + n)` of quarter q's buffer lies in one pool of the image. -/
def State.inPool (s : State) (h q o n : Nat) : Bool :=
  (List.range 16).any fun i =>
    let (a, u) := s.imgPool h q i
    u != 0 && decide (a * 4096 ≤ o ∧ o + n ≤ (a + u) * 4096)

def State.checkPools (s : State) (h : Nat) : Option Found :=
  let f := fun i => ({ code := 8, stall := 0xFF, sect := 7, index := i } : Found)
  firstOf ((List.range 64).map fun i =>
    let w := s.img32 ((s.imgSec h 7).1 + 4 * i)
    let p := s.imgPool h (i / 16) (i % 16)
    need (w == p.1 * 2 ^ 16 + p.2 && decide (p.1 + p.2 ≤ 4096) &&
      (List.range (i % 16)).all fun j => !(overlap p (s.imgPool h (i / 16) j))) (f i))

/-- Bases that the die's REARMs can give streams of the die stream engine, as (stream, base). -/
def State.engineBases (s : State) (h : Nat) : List (Nat × Nat) :=
  (List.range 64).flatMap fun l => (s.imgCmds h l).flatMap fun e =>
    match e.2 with
    | some (.rearm x) => (List.range (x.countM1.toNat + 1)).filterMap fun i =>
        let v := s.imgBase h (x.first.toNat + i)
        if v / 2 ^ 56 % 2 = 1 then some (v / 2 ^ 48 % 256, v % 2 ^ 48) else none
    | _ => []

/-- The quarter-buffer bytes of a die stream engine stream lie in pools (R171). -/
def State.streamPool (s : State) (h st : Nat) (x : Stream) : Bool :=
  let rg := x.range
  let q := rg.1 / 2 ^ 24 % 4
  if x.role == roleLoad || x.role == roleStore then
    s.inPool h (x.localBase / 4096 % 4) (x.localBase % 4096 * 4096) (x.slots * x.size)
  else if x.role == roleBcast || (x.role == rolePortIn && addrKind x.base.toNat == 1) then
    s.inPool h q (rg.1 % 2 ^ 24) rg.2
  else decide (st < 256)

/-- Every slot of a context, with a base, lies in one pool of each quarter (R171, R176). -/
def State.slotsInPool (s : State) (h slots : Nat) (x : Stream) (base : Nat) : Bool :=
  let lo : Int := (base % 2 ^ 24 : Nat) + (x.span.1 - (x.base.toNat : Nat))
  decide (0 ≤ lo) && (List.range 4).all fun q =>
    x.qmask / 2 ^ q % 2 == 0 ||
    (List.range slots).all fun i => s.inPool h q (lo.toNat + i * (x.localBase * 4096)) (max 1 (x.range.2))

/-- One round context of an image, with the bases that its stream starts with and may be re-armed with. -/
def State.ctxOk (s : State) (h c : Nat) : Bool :=
  let cfg := s.imgRound h c 0
  let items := cfg / 2 ^ 24
  let slots := cfg / 2 ^ 8 % 2 ^ 8
  let st := cfg % 2 ^ 8
  let sd := s.imgEngineSd h st
  let x := sdStream sd (sdBase sd)
  let bases := x.base.toNat :: ((s.engineBases h).filter (·.1 == st)).map (·.2)
  decide (cfg / 2 ^ 16 % 2 ^ 7 = 0) && decide (s.imgRound h c 1 / 2 ^ 28 = 0) &&
  decide (s.imgRound h c 1 / 2 ^ 12 % 16 = 0) && decide (s.imgRound h c 2 < 2 ^ 12) &&
  s.imgRound h c 3 == 0 &&
  (items == 0 ||
    (decide ((if cfg / 2 ^ 23 % 2 = 1 then 2 * items + 2 else items + 2) ≤ slots) &&
      decide (16 ≤ st) && !(unfilled sd) && x.persist && x.role == roleRound &&
      bases.all (s.slotsInPool h slots x)))

/-! ### Replay points (R187, code 0x0C) -/

/-- Index of the word after the BELL_WAIT that carries point p. -/
def pointIndex (p : Nat) (l : List (Nat × Option CmdWord)) : Option Nat :=
  (l.find? fun e => match e.2 with | some (.bell x) => x.point.toNat == p | _ => false).map (·.1 + 1)

def State.checkPoint (s : State) (h p : Nat) : Option Found :=
  let a := s.imgPoint h p
  let entry := fun (i : Nat) =>
    s.img64 (a + 0x2000 + 16 * i) < 2 ^ 48 &&
      s.img64 (a + 0x2000 + 16 * i + 8) < 2 ^ 28 && s.img64 (a + 0x2000 + 16 * i + 8) / 2 ^ 24 ≤ 5
  need (((List.range 2304).all fun i => entry i) &&
    ((List.range 4).all fun c =>
      (s.img64 (a + 0xB000 + 16 * c) == 0 || s.img64 (a + 0xB000 + 16 * c) == 3) &&
      s.img64 (a + 0xB000 + 16 * c + 8) == 0) &&
    ((List.range 64).all fun l =>
      pointIndex p (s.imgCmds h l) == some (s.img32 (a + 0xD040 + 4 * l))) &&
    (List.range 216).all fun i => s.img64 (a + 0xD140 + 8 * i) == 0)
    { code := 0xC, stall := 0xFF, sect := 10, index := p }

/-- Points that a die's streams carry. -/
def pointCount (l : List (Nat × Option CmdWord)) : Nat :=
  ((bellsOf 0 l).filter fun e => e.2 != 0).length

/-! ### Program bundles across dies (R204, R323) -/

/-- The participants of a bundle number: (header, stall) on the live dies that the entry names. -/
def State.bundleParts (s : State) (dir h n : Nat) : List (Nat × Nat) :=
  let dies := (s.imgBundle h n).2
  s.liveDies.flatMap fun d =>
    if dies / 2 ^ d % 2 = 1 then
      let hd := s.imgHeader dir d
      (List.range 64).filterMap fun l =>
        if (s.imgBundle hd n).1 / 2 ^ l % 2 = 1 then some (hd, l) else none
    else []

/-- Brackets of a bundle number (R204, R323): as many with every participant, and at most 4,096 staged commands
over all of them. Where words of another die's image are poisoned, that die's check ends it. -/
def State.checkBundle (s : State) (dir h n : Nat) : Option Found :=
  let dies := (s.imgBundle h n).2
  let ok := s.liveDies.all fun d => dies / 2 ^ d % 2 == 0 || s.refClean dir d [0, 9]
  let ps := (s.bundleParts dir h n).map fun e => s.imgCmds e.1 e.2
  let k := match ps with | c :: _ => bracketsOf n c | [] => 0
  need (!ok || (ps.all fun c => bracketsOf n c == k) &&
    decide (ps.foldl (fun t c => t + stagedOf n false c) 0 ≤ 4096))
    { code := 0xB, stall := 0xFF, sect := 9, index := n }

/-! ### Assumptions (R199, code 0x0D) -/

/-- A scrub rate as R142 clamps it. -/
def State.scrubRate (s : State) (d hi lo : Nat) : Nat := min 4096 (s.regField (pgScrub d) 0x040 hi lo)

/-- An assumed WALE_CAP does not exceed the current one, and the die's scrub rates do not exceed
theirs: entry number of the first that does. -/
def State.assumeBad (s : State) (d h : Nat) : Option Nat :=
  let a := (s.imgSec h 11).1
  match (List.range 210).find? fun w =>
    let v := s.img32 (a + 4 * w)
    decide (s.waleCap w false < v % 2 ^ 16) || decide (s.waleCap w true < v / 2 ^ 16) with
  | some w => some w
  | none =>
    let v := s.img32 (a + 840)
    if decide (v / 2 ^ 16 < s.scrubRate d 31 16) || decide (v % 2 ^ 16 < s.scrubRate d 15 0)
    then some 210 else none

/-! ### The check of a die and of an image -/

/-- The sections in the order of Table 8.2; a poisoned word of a section is found before what the
section's rules say of it. -/
def State.checkSection (s : State) (dir d h ref i : Nat) : Option Found :=
  let r := s.imgSec h i
  let f := fun (code st k : Nat) => ({ code := code, stall := st, sect := i, index := k } : Found)
  match s.imgPoison r.1 r.2 with
  | some k => some (f 0xE 0xFF k)
  | none =>
    match i with
    | 0 => firstOf ((List.range 64).map fun l => s.checkStall d h ref l (s.refClean dir (s.liveDies.headD 0) [0]))
    | 1 => firstOf ((List.range 64).flatMap fun l => (s.imgCmds h l).map fun e =>
        match e.2 with
        | some (.ballast _) | some (.halt false) => none
        | _ => need (s.imgBudget h l e.1 != 0) (f 4 l e.1))
    | 2 => firstOf ((List.range 2048).map fun k =>
        let sd := s.imgStallSd h (k / 32) (k % 32)
        need (unfilled sd || s.sdOk d false (k % 32) (sdStream sd (sdBase sd))) (f 6 (k / 32) (k % 32)))
    | 3 => firstOf (((List.range 256).map fun k =>
        let sd := s.imgEngineSd h k
        let x := sdStream sd (sdBase sd)
        need (unfilled sd || (s.sdOk d true k x && s.portStreamOk d k x)) (f 6 0xFF k)) ++
        ((List.range 32).map fun e =>
          need (!(feValid (s.feCtl d e)) ||
            (sdStream (s.imgEngineSd h (feStream (s.feCtl d e))) 0).role == rolePortIn) (f 6 0xFF e)) ++
        ((List.range 16).map fun e =>
          need (!(s.outBind d e).getLsbD 31 ||
            (sdStream (s.imgEngineSd h (fieldOf (s.outBind d e) 23 16)) 0).role == rolePortOut)
            (f 6 0xFF e)))
    | 4 => firstOf ((List.range 4096).map fun k =>
        let c := s.imgChain h (k / 64) (k % 64)
        need (unfilled c || ccOk c) (f 5 (k / 64) (k % 64)))
    | 6 => firstOf ((List.range 64).map fun l => s.checkRearm d h l)
    | 7 => firstOf (s.checkPools h :: (List.range 256).map fun k =>
        let sd := s.imgEngineSd h k
        need (unfilled sd || s.streamPool h k (sdStream sd (sdBase sd)))
          { code := 8, stall := 0xFF, sect := 3, index := k }) |>.orElse fun _ =>
      firstOf ((s.engineBases h).map fun e =>
        need (s.streamPool h e.1 (sdStream (s.imgEngineSd h e.1) e.2)) { code := 8, stall := 0xFF, sect := 3, index := e.1 })
    | 8 => firstOf ((List.range 4).map fun c => need (s.ctxOk h c) (f 8 0xFF c))
    | 9 => firstOf ((List.range 4096).map fun n =>
        if (s.imgBundle h n).1 = 0 then none else s.checkBundle dir h n)
    | 10 => firstOf (need (s.imgPoints h == pointCount (s.imgCmds h 0)) (f 0xC 0xFF 0) ::
        (List.range (s.imgPoints h)).map fun k => s.checkPoint h (k + 1))
    | 11 => (s.assumeBad d h).map fun k => f 0xD 0xFF k
    | _ => none

/-- The first fault that the check of die d finds (R188). -/
def State.checkDie (s : State) (dir d : Nat) : Option Found :=
  let f := fun (code i : Nat) => ({ code := code, stall := 0xFF, sect := 0xF, index := i } : Found)
  let h := s.imgHeader dir d
  let ref := s.imgHeader dir (s.liveDies.headD 0)
  if !(s.backed dir && addrKind dir == 0 && dir % 64 == 0) then some (f 1 0)
  else if (s.peek (dir / 8 + d)).poison then some (f 0xE d)
  else if (h != 0) != s.dieLive d then some (f 2 d)
  else if h = 0 then none
  else
    match s.checkHeader d h ref (s.refClean dir (s.liveDies.headD 0) []) with
    | some e => some e
    | none => (List.range 12).findSome? fun i => s.checkSection dir d h ref i

/-- Byte ranges that a whole check reads. -/
def State.imageReads (s : State) (dir : Nat) : List (Nat × Nat) :=
  (dir, 512) :: s.liveDies.flatMap fun d =>
    let h := s.imgHeader dir d
    (h, 4096) :: (List.range 12).map fun i => s.imgSec h i

end Sys2Proof.Machine
end

