-- ==== Sys2Proof/Machine/RoundOps.lean ====
section
/-! DEFINITION. The weave path and the round as operations (R20, R172-R181, R474). -/

namespace Sys2Proof.Machine

/-! ### Wales (Table 1.4) -/

/-- Column and row of a die. -/
def dieX (d : Nat) : Nat := d % 8
def dieY (d : Nat) : Nat := d / 8

/-- The two dies that a wale joins, the lower index first. -/
def waleEnds (w : Nat) : Nat × Nat :=
  if w < 56 then (8 * (w / 7) + w % 7, 8 * (w / 7) + w % 7 + 1)
  else if w < 112 then (w - 56, w - 56 + 8)
  else if w < 161 then
    let e := w - 112
    (8 * (e / 7) + e % 7, 8 * (e / 7 + 1) + e % 7 + 1)
  else
    let e := w - 161
    (8 * (e / 7) + e % 7 + 1, 8 * (e / 7 + 1) + e % 7)

/-- The wale that joins two dies. -/
def waleOf (a b : Nat) : Option Nat :=
  (List.range 210).find? fun w => waleEnds w == (min a b, max a b)

/-- The wale from a to b can carry a hop. -/
def State.waleUp (s : State) (a b : Nat) : Bool :=
  match waleOf a b with | some w => !s.waleDead w | none => false

/-- Quarters of die `to` that a wale from die `src` serves (chapter 1): the two along the edge it
crosses, or the one at its corner. -/
def servedQuarters (src dst : Nat) : List Nat :=
  let left := decide (dieX src < dieX dst)
  let right := decide (dieX dst < dieX src)
  let top := decide (dieY src < dieY dst)
  let bottom := decide (dieY dst < dieY src)
  (List.range 4).filter fun q =>
    let qx := q % 2
    let qy := q / 2
    !(left && qx == 1) && !(right && qx == 0) && !(top && qy == 1) && !(bottom && qy == 0)

/-- A transfer over a wale: bytes in both directions; the spec gives no flit size, so the flits are a
free count (assumption 24). -/
def State.waleTraffic (s : State) (w bytes : Nat) : State :=
  ((s.count (pgWale w) 2 bytes).count (pgWale w) 0 (s.freeNow.toNat)).freeNext

/-! ### The path (R172-R175) -/

/-- Cycle Z (Table 7.6). -/
def pathZ : List Nat :=
  [0, 1, 9, 10, 2, 3, 11, 12, 4, 5, 13, 14, 6, 7, 15, 23, 31, 30, 22, 21, 29, 28, 20, 19,
   27, 26, 18, 17, 25, 33, 41, 42, 34, 35, 43, 44, 36, 37, 45, 46, 38, 39, 47, 55, 63, 62, 54, 53,
   61, 60, 52, 51, 59, 58, 50, 49, 57, 56, 48, 40, 32, 24, 16, 8]

/-- Cycle T: x and y exchanged (Table 7.7). -/
def pathT : List Nat := pathZ.map fun d => 8 * dieX d + dieY d

/-- Lost dies whose base cycle is T (Table 7.8). -/
def lostT : List Nat := [8, 15, 16, 23, 24, 25, 32, 33, 40, 47, 48, 55]

/-- The path around one lost die (R173). -/
def pathOne (d : Nat) : List Nat := (if lostT.contains d then pathT else pathZ).filter (· != d)

/-- Dies ABSENT or FAULTED. -/
def State.lostDies (s : State) : List Nat :=
  allDies.filter fun d => s.dieOut d || (s.die d).st == .faulted || (s.die d).st == .absent

/-- PATH_SRC as the ROUND pages hold it, equal in all of them (R174). -/
def State.pathHost (s : State) : Bool :=
  (s.reg (pgRound (s.liveDies.headD 0)) 0x040).getLsbD 0
/-- HOST_SUCC of a die. -/
def State.hostSucc (s : State) (d : Nat) : Option Nat :=
  let w := s.reg (pgRound d) 0x044
  if w.getLsbD 6 then some (fieldOf w 5 0) else none

/-- The host cycle from a die, by successors, for as many dies as `fuel` says. -/
def State.hostWalk (s : State) (d fuel : Nat) : List Nat :=
  match fuel with
  | 0 => []
  | k + 1 => d :: match s.hostSucc d with | some e => s.hostWalk e k | none => []

/-- The cycle of the live dies that the HOST_SUCC fields describe, if they describe one. -/
def State.hostCycle (s : State) : Option (List Nat) :=
  let live := s.liveDies
  let p := s.hostWalk (live.headD 0) live.length
  let ok := p.length == live.length && p.eraseDups.length == p.length && p.all live.contains &&
    (live.all fun d => match s.hostSucc d with | some e => live.contains e | none => false) &&
    (match p.getLast? with | some e => s.hostSucc e == p.head? | none => false)
  if ok then some p else none

/-- A host cycle that a bundle may commit: every hop has a wale with a non-zero WALE_CAP (R174). -/
def State.hostPath (s : State) : Option (List Nat) :=
  if s.liveDies.all fun d => match s.hostSucc d with | some e => s.waleUp d e | none => false
  then s.hostCycle else none

/-- Path and code with PATH_SRC = AUTO (R172-R174). -/
def State.autoPath (s : State) : List Nat × BitVec 16 :=
  match s.lostDies with
  | [] => (pathZ, 0)
  | [d] => (pathOne d, BitVec.ofNat 16 (0x4000 + 256 * d))
  | _ => ([], 0xC000)

/-- Path and code in force, before relays (R174). A host cycle stays in force until a die is lost; a wale
that dies under it is relayed (R175). -/
def State.choosePath (s : State) : List Nat × BitVec 16 :=
  if !s.rounds.src then s.autoPath
  else if s.rounds.broken then ([], 0xC000)
  else (s.rounds.host, 0x8000 + s.rounds.gen.zeroExtend 16)

/-- A die by its place, if it is on the grid. -/
def dieAt (x y : Int) : Option Nat :=
  if 0 ≤ x ∧ x < 8 ∧ 0 ≤ y ∧ y < 8 then some (8 * y.toNat + x.toNat) else none

/-- Relay candidates of a hop, in order of preference (Table 7.9). -/
def relayList (a b : Nat) : List Nat :=
  let lo := min a b
  let hi := max a b
  let x : Int := (dieX lo : Nat)
  let y : Int := (dieY lo : Nat)
  (if hi = lo + 1 then [dieAt x (y + 1), dieAt (x + 1) (y + 1), dieAt x (y - 1), dieAt (x + 1) (y - 1)]
   else if hi = lo + 8 then [dieAt (x + 1) y, dieAt (x + 1) (y + 1), dieAt (x - 1) y, dieAt (x - 1) (y + 1)]
   else if hi = lo + 9 then [dieAt (x + 1) y, dieAt x (y + 1)]
   else [dieAt (x - 1) y, dieAt x (y + 1)]).filterMap id

/-- The relay of a hop: the first live candidate with two usable wales (R175). -/
def State.relayOf (s : State) (a b : Nat) : Option Nat :=
  (relayList a b).find? fun r => s.dieLive r && s.waleUp a r && s.waleUp r b

/-- Hops of a cycle. -/
def hopsOf (p : List Nat) : List (Nat × Nat) :=
  match p with | [] => [] | d :: r => p.zip (r ++ [d])

/-- The relays that a path's hops need; none where a hop has no candidate. -/
def State.relaysOf (s : State) (l : List (Nat × Nat)) : Option (SMap Nat) :=
  match l with
  | [] => some []
  | (a, b) :: r =>
    match s.relaysOf r with
    | none => none
    | some m =>
      if a = b || s.waleUp a b then some m
      else (s.relayOf a b).map fun c => SMap.set 0 m a (c + 1)

/-- Position of a die in the path. -/
def State.pathPos (s : State) (d : Nat) : Option Nat := s.rounds.path.findIdx? (· == d)
/-- The die `k` places before die d on the path. -/
def State.pathBack (s : State) (d k : Nat) : Nat :=
  let n := s.rounds.path.length
  match s.pathPos d with
  | some i => s.rounds.path.getD ((i + n - k % n) % n) d
  | none => d
def State.pathPred (s : State) (d : Nat) : Nat := s.pathBack d 1
def State.pathSucc (s : State) (d : Nat) : Nat := s.pathBack d (s.rounds.path.length - 1)

/-! ### Round contexts: configuration (Table 7.11) -/

def State.ctxCfg (s : State) (d c : Nat) : Word := s.reg (pgRound d) (0x060 + 16 * c)
def State.ctxItems (s : State) (d c : Nat) : Nat := fieldOf (s.ctxCfg d c) 31 24
def State.ctxSlots (s : State) (d c : Nat) : Nat := fieldOf (s.ctxCfg d c) 15 8
def State.ctxStream (s : State) (d c : Nat) : Nat := fieldOf (s.ctxCfg d c) 7 0
def State.arriveMark (s : State) (d c : Nat) : Nat := fieldOf (s.reg (pgRound d) (0x064 + 16 * c)) 27 16
def State.readyMark (s : State) (d c : Nat) : Nat := fieldOf (s.reg (pgRound d) (0x064 + 16 * c)) 11 0
def State.releaseMark (s : State) (d c : Nat) : Nat := fieldOf (s.reg (pgRound d) (0x068 + 16 * c)) 11 0

/-- Items that a die originates in a round, its lost buddy's with REHOME (R177). -/
def State.ownItems (s : State) (d c : Nat) : Nat :=
  let n := s.ctxItems d c
  if (s.ctxCfg d c).getLsbD 23 && s.lostDies.contains (d ^^^ 1) then 2 * n else n

/-- Items due to a die in a round, and those of them that it forwards (R177, R178). -/
def State.itemsDue (s : State) (_d c : Nat) : Nat := s.rounds.path.foldl (fun n e => n + s.ownItems e c) 0
def State.itemsForward (s : State) (d c : Nat) : Nat := s.itemsDue d c - s.ownItems (s.pathSucc d) c

/-- The context of a die stream engine stream. -/
def State.ctxOfStream (s : State) (d st : Nat) : Option Nat :=
  (List.range 4).find? fun c => s.ctxItems d c != 0 && s.ctxStream d c == st

/-- Items 0 to n - 1 have arrived (in the order of R177). -/
def State.arrived (s : State) (d c : Nat) : Nat :=
  let x := s.roundCtx d c
  if x.taken < s.ownItems d c then x.taken else x.taken + x.recv

/-- Byte ranges of an item, one for each transfer, as signed offsets from the slot's start. -/
def itemParts (x : Stream) : List (Int × Nat) :=
  (List.range x.walkLen).map fun t => (x.offset t, x.size)
/-- A key at a signed offset. -/
def keyAt (k : Nat) (o : Int) : Nat := ((k : Int) + o).toNat

/-- Memory key of slot `i` of a context in quarter q. -/
def State.slotStart (s : State) (d c q i : Nat) : Nat :=
  let x := s.stream d 72 (s.ctxStream d c)
  d * 2 ^ 42 + 2 ^ 40 + q * 2 ^ 24 + (x.base.toNat % 2 ^ 24 + i * x.localBase * 4096)

/-- Quarters of QMASK. -/
def maskQuarters (m : Nat) : List Nat := (List.range 4).filter fun q => m / 2 ^ q % 2 == 1

/-- The context as a poster (Table 8.10). -/
def ctxPoster (c : Nat) : Poster := { agent := 3, stall := 0, index := c }

/-! ### Slots and credits (R178, R474) -/

/-- Release what a slot holds in every quarter of the mask. -/
def State.freeRoundSlot (s : State) (d c i : Nat) : State :=
  let x := s.stream d 72 (s.ctxStream d c)
  s.forEach (maskQuarters x.qmask) fun t q =>
    let k := s.slotStart d c q i
    let t1 := { t with weights := { t.weights with tags := SMap.set none t.weights.tags k none } }
    (itemParts x).foldl (fun u e => u.unhold (keyAt k e.1) e.2) t1

/-- Send `n` credits of the context's round to its predecessor: issued in its ledger. -/
def State.sendCredits (s : State) (d c n : Nat) : State :=
  if n = 0 then s
  else
    let r := (s.roundCtx d c).rnd
    let p := s.pathPred d
    let s1 := s.ledIssue d lgRound c n
    let y := s1.roundCtx p c
    s1.setRoundCtx p c { y with coming := SMap.upd 0 y.coming r (· + n) }

/-- The context is DONE once every item due has arrived and every slot is free; its ROUND stream is
then PARKED (R179). -/
def State.roundDone (s : State) (d c : Nat) : State :=
  let x := s.roundCtx d c
  if (x.st == .running || x.st == .relay) && x.taken + x.recv == s.itemsDue d c &&
      x.freed == s.itemsDue d c then
    let s1 := s.setRoundCtx d c { x with st := .done, ready := .no, release := .no }
    let st := s1.ctxStream d c
    s1.setStream d 72 st { s1.stream d 72 st with st := .parked }
  else s

/-- Free the slots whose items are released and forwarded, or due no forwarding; each returns a
credit at the time of R474. -/
def State.freeSlots (s : State) (d c : Nat) : State :=
  let x := s.roundCtx d c
  let due := s.itemsDue d c
  let sent := if x.fwd = s.itemsForward d c then due else x.fwd
  let rel := if x.st == .relay then s.arrived d c else x.released
  let upto := min (min rel sent) (s.arrived d c)
  let n := upto - x.freed
  let s1 := s.forEach (List.range n) fun t i =>
    t.freeRoundSlot d c ((x.freed + i) % max 1 (s.ctxSlots d c))
  let more := decide (x.taken + x.recv < due)
  let s2 := s1.setRoundCtx d c
    { s1.roundCtx d c with freed := x.freed + n, owed := if more then x.owed else x.owed + n }
  ((if more then s2.sendCredits d c n else s2).roundDone d c)

/-- A round begins: the stream is started by the image or re-armed. What is left of the credits of
earlier rounds is returned to their issuer; those of the new round, which the successor may have issued
already, stay. One credit goes to the predecessor for each slot. -/
def State.roundStart (s : State) (d c : Nat) : State :=
  let x := s.roundCtx d c
  let old := x.credits.filter fun e => decide (e.1 ≤ x.rnd)
  let s1 := s.ledReturn (s.pathSucc d) lgRound c (old.foldl (fun n e => n + e.2) 0)
  let s2 := s1.setRoundCtx d c
    { RoundCtx.reset with st := .running, rnd := x.rnd + 1, coming := x.coming,
                          credits := x.credits.filter fun e => decide (x.rnd < e.1) }
  s2.sendCredits d c (s2.ctxSlots d c)

/-- A stream leaves its owner: what is outstanding is abandoned while its ends remain, so its units
are returned, or written off where they are gone (Table 13.5, R184, R326). -/
def State.dropXfers (s : State) (d u st : Nat) (gone : Bool) (next : StreamSt) : State :=
  let x := s.stream d u st
  let n := x.out.length
  let idx := if u < 72 then u else 72
  let port := x.role == rolePortIn || x.role == rolePortOut
  let s1 := s.setStream d u st { x with st := next, out := [], gate := .no }
  let s2 := if gone then s1.ledWoff d lgXfer idx n else s1.ledReturn d lgXfer idx n
  if !port then s2 else if gone then s2.ledWoff d lgXfer 73 n else s2.ledReturn d lgXfer 73 n

/-- All streams listed for a unit. -/
def State.eachStream (s : State) (d u : Nat) (f : State → Nat → State) : State :=
  s.forEach ((s.unitStreams d u).map (·.1)) f

/-- A round context enters STOPPED: items in slots are discarded; credits are returned where both dies
remain, and written off where a holder or the owner is lost (R181, R326). -/
def State.ctxStop (s : State) (gone : Bool) (d c : Nat) : State :=
  let h := (s.ledger d lgRound c).held.toNat
  let s1 := if gone then s.ledWoff d lgRound c h else s.ledReturn d lgRound c h
  let s2 := s1.forEach (List.range (s1.ctxSlots d c)) fun v i => v.freeRoundSlot d c i
  s2.setRoundCtx d c { RoundCtx.reset with st := .stopped }

/-- Every round context and every ROUND stream of the engine enters STOPPED until an image built for the
new PATH_CODE is applied (R181); transfers of a forward to or from a lost die are written off. -/
def State.roundStop (s : State) : State :=
  let lost := s.lostDies
  let gone := fun d => lost.contains d || lost.contains (s.pathPred d)
  let s1 := s.forEach allDies fun t d => t.forEach (List.range 4) fun u c => u.ctxStop (gone d) d c
  let s2 := s1.forEach allDies fun t d =>
    t.eachStream d 72 fun u st =>
      if (u.stream d 72 st).role == roleRound then
        u.dropXfers d 72 st (lost.contains d || lost.contains (s.pathSucc d)) .stopped
      else u
  { s2 with rounds := { s2.rounds with transit := [], stopped := true } }

/-- A forward whose hop changes starts again over the relay: tiles already delivered are written again,
posts already made are not made twice (Table 7.12). -/
def State.restartForward (s : State) (t : Transit) : State :=
  let st := s.ctxStream t.src t.ctx
  let s1 := s.dropXfers t.src 72 st false .run
  s1.setStream t.src 72 st { s1.stream t.src 72 st with issued := 0, done := 0, doneSet := [] }

/-- Adopt the path of R174 and the relays of R175. With no path, rounds stop (R181). -/
def State.repath (s : State) : State :=
  let lost := s.rounds.src && s.rounds.host.any s.lostDies.contains
  let s0 : State := { s with rounds := { s.rounds with broken := s.rounds.broken || lost } }
  let (p, code) := s0.choosePath
  match s0.relaysOf (hopsOf p) with
  | some m =>
    let s1 := if code = 0xC000 then s0.roundStop
      else s0.forEach (s0.rounds.transit.filter fun t =>
        decide (SMap.find s0.rounds.relay t.src ≠ SMap.find m t.src)) State.restartForward
    { s1 with rounds := { s1.rounds with path := p, code := code, relay := m } }
  | none =>
    let s1 := s0.roundStop
    { s1 with rounds := { s1.rounds with path := [], code := 0xC000, relay := [] } }

/-- The wales that a hop crosses: its own, or the two of its relay. -/
def State.hopWales (s : State) (a b : Nat) : List Nat :=
  match SMap.find s.rounds.relay a with
  | some r => ([waleOf a (r - 1), waleOf (r - 1) b]).filterMap id
  | none => ([waleOf a b]).filterMap id

/-- The die whose wale brings what a hop from `a` carries to its end. -/
def State.lastHop (s : State) (a : Nat) : Nat :=
  match SMap.find s.rounds.relay a with | some r => r - 1 | none => a

/-- What the crossing of a hop by `n` bytes counts on wales and on the mesh pages of the dies that send it:
F1, F2 or F3 by `i` 0 to 2 (R311, R363). -/
def State.hopTraffic (s : State) (i a b n : Nat) : State :=
  let s1 := (s.hopWales a b).foldl (fun t w => t.waleTraffic w n) (s.count (pgMesh a) i n)
  if s.lastHop a = a then s1 else s1.count (pgMesh (s.lastHop a)) i n

/-- Every wale of a hop carries traffic now. -/
def State.hopUp (s : State) (a b : Nat) : Bool :=
  a == b || (!(s.hopWales a b).isEmpty && (s.hopWales a b).all fun w => !s.waleDead w)

/-! ### Streams that start (R163, R169) -/

/-- A stream enters RUN at transfer 0 with a base; a ROUND stream starts its context's round, and has
transfers to issue only while an item is forwarded. A PORT_IN walk's entry begins a new walk. -/
def State.startStream (s : State) (d u st : Nat) (base : BitVec 48) : State :=
  let x := s.stream d u st
  let s1 := s.setStream d u st
    { x with st := .run, base := base, issued := 0, done := 0, doneSet := [], posts := 0, out := [],
             gate := .no, walk := if x.role == roleRound then 0 else x.walkLen }
  if u = 72 && x.role == roleRound then
    match s1.ctxOfStream d st with | some c => s1.roundStart d c | none => s1
  else s1

/-- A base table entry: target is the die engine, stream, base (Table 7.5). -/
def State.baseEntry (s : State) (d e : Nat) : Bool × Nat × BitVec 48 :=
  let v := SMap.get 0 s.stores.bases (1024 * d + e)
  (v.getLsbD 56, (v.extractLsb' 48 8).toNat, v.extractLsb' 0 48)

/-- Entries of a REARM with the units of their streams. -/
def State.rearmList (s : State) (d p : Nat) (w : RearmWord) : List (Nat × Nat × BitVec 48) :=
  (List.range (w.countM1.toNat + 1)).map fun i =>
    let (eng, st, b) := s.baseEntry d (w.first.toNat + i)
    (if eng then 72 else p, st, b)

/-- Every stream that a REARM names is PARKED. -/
def State.rearmReady (s : State) (d p : Nat) (w : RearmWord) : Bool :=
  (s.rearmList d p w).all fun e => (s.stream d e.1 e.2.1).st == .parked

/-- Keep, for each stream, the last entry that names it (R169). -/
def lastEntries (l : List (Nat × Nat × BitVec 48)) : List (Nat × Nat × BitVec 48) :=
  match l with
  | [] => []
  | e :: r => if r.any fun f => f.1 == e.1 && f.2.1 == e.2.1 then lastEntries r else e :: lastEntries r

/-- Apply a REARM (R169). -/
def State.rearmApply (s : State) (d p : Nat) (w : RearmWord) : State :=
  s.forEach (lastEntries (s.rearmList d p w)) fun t e => t.startStream d e.1 e.2.1 e.2.2

end Sys2Proof.Machine
end

