-- ==== Sys2Proof/Machine/StallOps.lean ====
section
/-! DEFINITION. Operations of a stall and its arcade that several commands share: whether the
sequencer may issue, waits and ballast (R70, R77), work and ballast counts (R80, R436), the tile
windows (R60-R65), replay (R74), abandonment of a stall's work (Table 8.8), bell groups (R197). -/

namespace Sys2Proof.Machine

/-! ### Registers of the STALL page (Table 3.4) -/

def rFlags : Nat := 0x044
def rStyCtl : Nat := 0x048
def rStyLimit : Nat := 0x04C
def rSeed : Nat := 0x054
def rStyTransient : Nat := 0x074
def rStySkip : Nat := 0x078
def rLastSty : Nat := 0x07C
def rWaitCyc : Nat := 0x080
/-- Bits of FLAGS. -/
def flagSat : Word := 1
def flagLong : Word := 2
def flagTransient : Word := 4
def flagRepeat : Word := 8
def flagPoison : Word := 16

/-- Set a flag of a slot's FLAGS where a condition holds. -/
def State.flagIf (s : State) (d p : Nat) (f : Word) (c : Bool) : State :=
  if c then s.setBits (pgStall d p) rFlags f else s

/-! ### When a stall works -/

/-- The stall runs: its die is in the grid and in the step, its quarter is ON or drains gracefully, its slot mapped. -/
def State.stallOn (s : State) (d l : Nat) : Bool :=
  s.dieLive d && (s.die d).service == 0 && s.quarterRuns d (l / 16) &&
  match s.slotOf d l with | some p => s.slotState d p == .mapped | none => false

/-- The slot of a running stall. -/
def State.onSlot (s : State) (d l : Nat) : Option Nat := if s.stallOn d l then s.slotOf d l else none

/-- The head command of the stall, of kind `k`, may be looked at: the program runs, no barrier, sum,
bundle or HALT holds the stream, and what waits at the head is of that kind (assumption 18). -/
def Stall.atHead (x : Stall) (k : CmdKind) : Bool :=
  x.bell.isNone && x.halted.isNone &&
  (match x.bracket with | some b => !b.ready | none => true) &&
  (match x.waiting.find? (·.1 == x.cmdIndex) with | some e => e.2 == k | none => true)

/-- The slot of a stall whose sequencer may issue a command of kind `k`. -/
def State.issueSlot (s : State) (d l : Nat) (k : CmdKind) : Option Nat :=
  if s.prog.pst == .running then
    match s.onSlot d l with
    | some p => if (s.slot d p).atHead k then some p else none
    | none => none
  else none

/-! ### Counts (R80, R436) -/

/-- Work MACs of a slot, which reach the tally unit. -/
def State.countWork (s : State) (d p n : Nat) : State :=
  let t := s.count (pgStall d p) 1 n
  { t with meter := { t.meter with tally := { t.meter.tally with work := t.meter.tally.work + n } } }

/-- Ballast cycles of a slot at its duty: each counts 4,096 x duty / 16 MACs and lies in a gap. -/
def State.countBallast (s : State) (d p cycles : Nat) : State :=
  let x := s.slot d p
  let n := cycles * 256 * x.duty
  let t := (s.count (pgStall d p) 2 n).setSlot d p { x with gap := x.gap || decide (0 < cycles) }
  { t with meter := { t.meter with tally := { t.meter.tally with ballast := t.meter.tally.ballast + n } } }

/-- K-steps are under way in the slot: its window is open and it is a runner. -/
def State.inWindow (s : State) (d p : Nat) : Bool :=
  match s.logicalOf d p with
  | some l =>
    let a := s.arc d (l / 16) (l / 4 % 4)
    (a.window.isSome && a.runners.contains (l % 4)) ||
      ((s.slot d p).bank0.priv && (s.slot d p).bank0.st == .inUse) ||
      ((s.slot d p).bank1.priv && (s.slot d p).bank1.st == .inUse)
  | none => false

/-- The ballast cycles of a gap so far, at the duty it ran at: how many there were is time, a free number
(R77, R80, assumption 17). They are counted where the gap ends or the duty changes. -/
def State.gapBallast (s : State) (d p : Nat) : State :=
  if (s.slot d p).gap then (s.countBallast d p s.freeNow.toNat).freeNext else s

/-- What SEQ_STATE shows while a command that is no BALLAST waits at the head: a BALLAST before it has run
its cycles, so that the stall no longer stands at a tile by it (R62, assumption 89). -/
def Stall.seqNow (x : Stall) : SeqSt := if x.seq == .ballast then .run else x.seq

/-- Put the head on the list of commands that wait for their start. -/
def Stall.wait (x : Stall) (k : CmdKind) : Stall :=
  if x.waiting.any (·.1 == x.cmdIndex) then x
  else { x with waiting := x.waiting ++ [(x.cmdIndex, k)] }

/-- The head cannot issue or start in this cycle: the array runs ballast in place of K-steps (R77),
and WAIT_CYC counts the waits of R70, R92, R103, R169 and R319 (`counted`) (assumption 17). -/
def State.stallWait (s : State) (d p : Nat) (k : CmdKind) (st : SeqSt) (counted : Bool) : State :=
  let s1 := s.setSlot d p { (s.slot d p).wait k with seq := st }
  let s2 := if counted then
      s1.pokePair (pgStall d p) rWaitCyc (s1.regPair (pgStall d p) rWaitCyc + 1)
    else s1
  if s.inWindow d p then s2 else s2.countBallast d p 1

/-- A command has issued: the next word is the head. `started`: it has also started. -/
def Stall.issue (x : Stall) (k : CmdKind) (st : SeqSt) (started : Bool) : Stall :=
  if started then x.advance st
  else { x.wait k with cmdIndex := x.cmdIndex + 1, fetched := false, seq := st }

/-- The oldest issued command of a kind starts: it no longer waits. -/
def dropFirst (k : CmdKind) (l : List (Nat × CmdKind)) : List (Nat × CmdKind) :=
  match l with
  | [] => []
  | e :: r => if e.2 = k then r else e :: dropFirst k r
def Stall.start (x : Stall) (k : CmdKind) : Stall := { x with waiting := dropFirst k x.waiting }
/-- A LOADW that has opened its sequence and waits for the port starts (R191). -/
def Stall.startLoad (x : Stall) : Stall :=
  { x with waiting := x.waiting.filter fun e => !(e.2 == .loadw && decide (e.1 < x.cmdIndex)) }

/-! ### Marks and earlier writes (R193) -/

/-- Every earlier command of the stall has finished writing engine memory. -/
def Stall.written (x : Stall) (putsPad : Nat → Bool) : Bool :=
  !x.acc0.wbPend && !x.acc1.wbPend && !x.reading &&
  x.drains.all fun j => !(putsPad j.word.slot.val)

/-- A configuration whose drain writes scratchpad. -/
def State.padDrain (s : State) (d p c : Nat) : Bool := !(drainWrites (s.chain d p c)).isEmpty

/-! ### The arcade -/

/-- The members of arcade a of quarter q, with their slots. -/
def State.members (s : State) (d q a : Nat) : List (Nat × Nat) :=
  (List.range 4).filterMap fun m => (s.slotOf d (16 * q + 4 * a + m)).map fun p => (m, p)

/-- All four members are mapped stalls in service. -/
def State.membersOn (s : State) (d q a : Nat) : Bool :=
  s.dieLive d && s.quarterRuns d q && (s.members d q a).length == 4 &&
  (s.members d q a).all fun e => s.slotState d e.2 == .mapped

/-- Do the same to every member's stall. -/
def State.eachMember (s : State) (d q a : Nat) (f : Nat → Stall → Stall) : State :=
  s.forEach (s.members d q a) fun t e => t.setSlot d e.2 (f e.1 (t.slot d e.2))

/-- The stall has a pass that consumes the next tile of the broadcast, or of its replay (R62). -/
def Stall.wants (x : Stall) (priv : Bool) : Bool :=
  match x.running with
  | some t => (x.acc t).priv == priv
  | none => false

/-- The member stands at a tile of the broadcast: it has no private sequence open, and a pass that
consumes the tile, or no pass before it and BALLAST or HALT at its head (R62). A member whose PASS still
waits for its accumulator tile, or has issued and is still preloading, does not stand at the tile: it can run
no K-step on it (DESIGN CHOICE, assumption 89). -/
def Stall.stands (x : Stall) : Bool :=
  x.priv.isNone && (x.wants false || (x.passes.isEmpty && (x.seq == .ballast || x.halted.isSome)))

/-- K-steps begin in a member: a pass that has not begun starts and takes the seed in force, the gap
ends, and a duty below 16 begins to rise (R51, R78). `n` is the number of the tile or the address of the
record. -/
def Stall.beginSteps (x : Stall) (n : Nat) : Stall :=
  match x.running with
  | none => x
  | some t =>
    let a := x.acc t
    let x1 := if a.begun then x else x.start .pass
    let x2 := x1.setAcc t { a with first := if a.kdone = 0 then n else a.first, begun := true,
                                   gen := if a.begun then a.gen else x.gen }
    let keep := x.seq == .waitMark || x.seq == .waitTile || x.seq == .halted
    { x2 with gap := false, seq := if keep then x.seq else if a.st == .replay then .replay else .run,
              dutySt := if x.duty < 16 then .rising else .steady }

/-- A pass that has begun, or a drain that has started, draws from generation `gen`. -/
def Stall.genUsed (x : Stall) (gen : Nat) : Bool :=
  [x.acc0, x.acc1].any (fun a => a.st != .empty && a.begun && a.gen == gen) ||
    x.drains.any fun j => j.started && j.gen == gen

/-- A committed seed takes effect at the first pass that begins after it: the count starts at zero, and what
is under way keeps the seed and count that it began with (R51). -/
def State.takeSeed (s : State) (d p : Nat) : State :=
  let x := s.slot d p
  if !x.seedNew then s
  else s.setSlot d p
    { x with seed := s.regPair (pgStall d p) rSeed, n := 0, gen := x.gen + 1, seedNew := false,
             olds := ({ gen := x.gen, seed := x.seed, n := x.n : OldSeed } :: x.olds).filter fun o => x.genUsed o.gen }

/-- The pass that runs in a slot begins its K-steps on a tile or record. -/
def State.beginPass (s : State) (d p n : Nat) : State :=
  let x := s.slot d p
  let s1 := match x.running with
    | some t => if (x.acc t).begun then s else s.takeSeed d p
    | none => s
  let s2 := s1.gapBallast d p
  s2.setSlot d p ((s2.slot d p).beginSteps n)

/-- Scratchpad address of the activation tile that a pass reads next (R58). -/
def actAddr (w : PassWord) (k : Nat) : Nat := w.aRange.1 + k / 64 * recordBytes w.aKind

/-- L8-equivalents per MAC of a pass (Table 2.5). -/
def passEq (w : PassWord) : Nat := ((pairing w.aFmt w.wFmt).getD (1, 1)).2

/-- K-steps that the member's pass takes on the open tile. -/
def Stall.windowSteps (x : Stall) : Nat :=
  match x.running with
  | none => 0
  | some t => match (x.acc t).word with
    | some w => (x.acc t).kLeft w * w.groups
    | none => 0

/-- The member's K-steps on a bank's tile: the sums, the flags, the reads and the work they count
(R56-R64, R80, R81). -/
def State.runSteps (s : State) (d p : Nat) (b : Fin 2) : State :=
  let x := s.slot d p
  match x.running with
  | none => s
  | some t =>
    let a := x.acc t
    match a.word with
    | none => s
    | some w =>
      let k := slotAddr d p (actAddr w a.kdone)
      let at' := s.tileAt k w.aKind
      let wt : Tile := { kind := w.wKind, ws := (x.bank b).data }
      let n := a.kLeft w
      let (a', sat) := kSteps a w at' wt n
      let poison := (List.range n).any fun i =>
        (actVec w at' (a.kdone + i)).any (·.isNone) || (weightVec w wt (a.kdone + i)).any (·.isNone)
      let s1 := s.noteReads srcStall k (recordBytes w.aKind)
      let s2 := s1.setSlot d p (x.setAcc t a')
      ((s2.flagIf d p flagPoison poison).flagIf d p flagSat sat).countWork d p (n * 4096 * passEq w)

/-- Free a bank. -/
def Stall.freeBank (x : Stall) (b : Fin 2) : Stall := x.setBank b Bank.reset

/-! ### Replay of passes (R74) -/

/-- Tiles or records that a pass has consumed so far. -/
def Acc.usedTiles (a : Acc) : Nat := (a.kdone + 63) / 64

/-- A tile set back to the start of its pass: the preload comes again, nothing is drawn. -/
def Acc.again (a : Acc) (st : AccSt) : Acc :=
  let zero := match a.word with | some w => w.preload == 0 | none => true
  { a with st := st, kdone := 0, cells := if zero then zeroCells else [],
           lanes := if zero then zeroLanes else [] }

/-- Size of a record of a kind in 64-byte units. -/
def recordUnits (k : Byte) : Nat := recordBytes k / 64
/-- Records of a sequence that are still to run, in order, as addresses (64-byte units) with kinds. -/
def PrivSeq.todo (q : PrivSeq) : List (Nat × Byte) :=
  q.again ++ (List.range (q.tiles - q.consumed)).map fun i =>
    (q.addr.toNat + (q.consumed + i) * recordUnits q.kind, q.kind)
/-- Private banks become free. -/
def Stall.freePriv (x : Stall) : Stall :=
  let y := if x.bank0.priv then x.freeBank 0 else x
  if y.bank1.priv then y.freeBank 1 else y
/-- Records are to run again before those of the open sequence; a closed one reopens for them (R194). -/
def Stall.reopen (x : Stall) (l : List (Nat × Byte)) : Stall :=
  match (match x.priv with | some q => some q | none => x.lastPriv) with
  | none => x
  | some q => ({ x with priv := some { q with again := l ++ q.again }, reading := true } : Stall).freePriv

/-- Numbers of the tiles to broadcast again for a pass: those it had consumed, and the tile of the
open window if the pass runs in it. -/
def Acc.tilesAgain (a : Acc) (inWin : Bool) (open' : Nat) : List Nat :=
  let l := (List.range a.usedTiles).map (a.first + ·)
  if inWin && !l.contains open' then l ++ [open'] else l

/-- The private records that a pass had consumed. -/
def Acc.recordsAgain (a : Acc) : List (Nat × Byte) :=
  match a.word with
  | some w => (List.range a.usedTiles).map fun i => (a.first + i * recordUnits w.wKind, w.wKind)
  | none => []

/-- Steps 1 and 2 of R74 at the stall `l`: the failed tile goes to REPLAY, a pass running in the
other tile goes back to PRELOAD, and the arcade has their tiles to broadcast again. -/
def State.beginReplay (s : State) (d l p : Nat) (t : Fin 2) : State :=
  let q := l / 16
  let a := l / 4 % 4
  let m := l % 4
  let x := s.slot d p
  let arc := s.arc d q a
  let bad := x.acc t
  let o := other t
  let oth := x.acc o
  let stopped := oth.st == .run || oth.st == .replay
  let inWin := arc.window.isSome && arc.runners.contains m
  let again := (if bad.priv then [] else bad.tilesAgain false 0) ++
    (if stopped && !oth.priv then oth.tilesAgain inWin arc.consumed else [])
  let x1 := x.setAcc t { bad.again .replay with failed := true }
  let x2 := if stopped then x1.setAcc o (oth.again .preload) else x1
  let x3 := { x2 with passes := t :: x2.passes.filter (· != t), seq := .replay, gap := true }
  let recs := (if bad.priv then bad.recordsAgain else []) ++
    (if stopped && oth.priv then oth.recordsAgain else [])
  let x4 := if recs.isEmpty then (if stopped && oth.priv then x3.freePriv else x3) else x3.reopen recs
  (s.setSlot d p x4).setArc d q a
    { arc with replay := arc.replay ++ again.map (fun n => (m, n)),
               runners := arc.runners.filter (· != m) }

/-! ### Abandonment (Table 8.8, step 3; R189) -/

/-- Tiles EMPTY; drain queue, statistics slots and pass counters cleared; passes and private
sequences abandoned. Banks are freed. The seed and its count stay (R54); a gap begins (R78). -/
def Stall.abandon (x : Stall) : Stall :=
  { Stall.reset with
    seed := x.seed, n := x.n, gen := x.gen, seedNew := x.seedNew,
    cmdIndex := x.cmdIndex, fetched := x.fetched, duty := x.duty, dutySt := x.dutySt, gap := true,
    strikes := x.strikes, winOpen := x.winOpen, checks := x.checks }

/-- The stalls of a die lose their work. The members' banks and the arcades' tile counts start
again; slots of broadcast tiles are released by their pools' owner. -/
def State.abandonDie (s : State) (d : Nat) : State :=
  let s1 := { s with stalls := s.stalls.map fun (e : Nat × Stall) =>
    if e.1 / 72 = d then (e.1, e.2.abandon) else e }
  s1.forEach (List.range 16) fun t i => t.setArc d (i / 4) (i % 4) Arcade.reset

/-! ### Bell groups (R197) -/

/-- Logical stalls of a bell group that take part: on dies in service and in the step, in quarters
that are not dark. -/
def State.groupOf (s : State) (d l g : Nat) : List (Nat × Nat) :=
  let inDie := fun (e : Nat) (ls : List Nat) => (ls.filter fun k => s.stallOn e k).map fun k => (e, k)
  match g with
  | 0 => allDies.flatMap fun e => if (s.die e).bell then inDie e (List.range 64) else []
  | 1 => inDie d (List.range 64)
  | 2 => inDie d ((List.range 16).map (l / 16 * 16 + ·))
  | _ => inDie d ((List.range 4).map (l / 4 * 4 + ·))

/-- A stall is at a BELL_WAIT of a group. -/
def State.atBell (s : State) (e : Nat × Nat) (g : BitVec 2) : Bool :=
  match (s.stallOf e.1 e.2).bell with | some w => w.group == g | none => false

end Sys2Proof.Machine
end

