-- ==== Sys2Proof/Machine/ReduceOps.lean ====
section
/-! DEFINITION. Gradient baskets as operations (R247-R277): the entry of a basket, contributions and
the stage pool, the die adders, the lead's decision, the engine stage and the shards it leaves. -/

namespace Sys2Proof.Machine

/-! ### The entry of a basket (Table 11.4) -/

def State.bkCtl (s : State) (b : Nat) : Word := s.reg pgReduce (0x400 + 16 * b)
def State.bkValid (s : State) (b : Nat) : Bool := (s.bkCtl b).getLsbD 31
/-- 0 SERVER, 1 ALL, 2 EXCHANGE. -/
def State.bkDest (s : State) (b : Nat) : Nat := fieldOf (s.bkCtl b) 30 29
def State.bkParts (s : State) (b : Nat) : Nat := 4 ^ fieldOf (s.bkCtl b) 28 27
def State.bkFirstOnly (s : State) (b : Nat) : Bool := (s.bkCtl b).getLsbD 26
def State.bkLocal (s : State) (b : Nat) : Nat := fieldOf (s.bkCtl b) 23 16
def State.bkFlow (s : State) (b : Nat) : Nat := fieldOf (s.bkCtl b) 9 0
def State.bkTiles (s : State) (b : Nat) : Nat := s.regField pgReduce (0x404 + 16 * b) 29 16
def State.bkElems (s : State) (b : Nat) : Nat := s.regField pgReduce (0x404 + 16 * b) 12 0
/-- Region of a basket on a die, as a memory key. -/
def State.bkRegion (s : State) (d b : Nat) : Nat :=
  d * 2 ^ 42 + s.regField pgReduce (0x40C + 16 * b) 3 0 * 2 ^ 32 + (s.reg pgReduce (0x408 + 16 * b)).toNat
def State.bkMark (s : State) (b : Nat) : Nat := s.regField pgReduce (0x40C + 16 * b) 31 20
def State.bkKind (s : State) (b : Nat) : Byte := (s.reg pgReduce (0x40C + 16 * b)).extractLsb' 12 8
/-- Elements of a tile that the adders sum (R249). -/
def State.bkWidth (s : State) (b : Nat) : Nat := if s.bkElems b = 0 then 4096 else s.bkElems b
/-- Size at 16 bits (R249). -/
def State.bkBytes (s : State) (b : Nat) : Nat :=
  if s.bkElems b = 0 then 8192 * s.bkTiles b else 2 * s.bkElems b
/-- The order of the sums is the tree's (R262). -/
def State.bkTree (s : State) (b : Nat) : Bool :=
  match s.regField pgReduce 0x040 1 0 with
  | 1 => true
  | 2 => false
  | _ => decide (s.bkBytes b ≤ (s.reg pgReduce 0x048).toNat) ||
      (s.bkDest b == 1 && s.bkElems b != 0 &&
        decide (s.bkBytes b ≤ min 8 (s.regField pgReduce 0x044 3 0)))
/-- Bytes of a contributed record: an EXCHANGE tile has its route tile (R272). -/
def State.bkRecord (s : State) (b : Nat) : Nat :=
  recordBytes (s.bkKind b) + (if s.bkDest b = 2 then 64 else 0)
/-- Chunks of a basket (R256). -/
def State.bkChunks (s : State) (b : Nat) : Nat := (s.bkTiles b + 31) / 32

/-- A die that is live and in the step. -/
def State.inStep (s : State) (d : Nat) : Bool := s.dieLive d && (s.die d).service == 0
/-- Live dies in the step. -/
def State.stepDies (s : State) : List Nat := allDies.filter s.inStep
/-- The lead: the lowest live die in the step (R257). -/
def State.leadDie (s : State) : Nat := s.stepDies.headD 0

/-! ### Contributions (R250-R252) -/

/-- First stall and part of a stall. -/
def State.bkPart (s : State) (b l : Nat) : Nat := l * s.bkParts b / 64
/-- First tile of a stall's part and the tile after its last; a stall's puts to an EXCHANGE basket
are numbered from 0. -/
def State.partRange (s : State) (b l : Nat) : Nat × Nat :=
  if s.bkDest b = 2 then (0, 64 * s.bkTiles b)
  else
    let n := s.bkTiles b / s.bkParts b
    (s.bkPart b l * n, (s.bkPart b l + 1) * n)
/-- Cursor of a stall. -/
def State.cursor (s : State) (d b l : Nat) : Nat :=
  ((SMap.find (s.dieBasket d b).cursors l)).getD (s.partRange b l).1

/-- Tiles that a die has contributed to an EXCHANGE basket in the step, without those that a replay takes
back or repeats: its stalls' cursors count them from zero (R254, R272). -/
def State.exchanged (s : State) (d b : Nat) : Nat := (s.dieBasket d b).cursors.foldl (fun n e => n + e.2) 0

/-- A put is refused (the first four conditions of R251). -/
def State.putRefused (s : State) (d l : Nat) (w : PutWord) : Bool :=
  let b := w.basket.toNat
  let n := w.tiles.toNat
  !(decide (b < 128) && s.bkValid b && s.bkDest b != 3 && w.kind == s.bkKind b &&
    (if s.bkDest b = 2 then decide (s.exchanged d b + n ≤ 64 * s.bkTiles b)
     else decide (s.cursor d b l + n ≤ (s.partRange b l).2)) &&
    (!s.bkFirstOnly b || l * s.bkParts b % 64 < s.bkParts b))

/-- Key of the stage pool of a die and its free units (COLLECT.STAGE). -/
def State.stagePool (s : State) (d : Nat) : Nat × Nat :=
  (s.regField (pgCollect d) 0x044 5 4, s.regField (pgCollect d) 0x044 3 0)
def Pool.free (p : Pool) : List Nat :=
  ((List.range p.units).map (p.first + ·)).filter fun u => !(p.held.any fun e => e.2 == u)

/-- A put must wait (the last two conditions of R251): a staged tile takes two units, its 16-bit
size. -/
def State.putWaits (s : State) (d : Nat) (w : PutWord) : Bool :=
  let (q, i) := s.stagePool d
  ((s.dieBasket d w.basket.toNat).st == .sending && (s.dieBasket d w.basket.toNat).prior) ||
    decide ((s.pool d q i).free.length < 2 * w.tiles.toNat)

/-- Units of a stage pool are released. -/
def State.freeUnits (s : State) (d pool : Nat) (us : List Nat) : State :=
  let p := s.pool d (pool / 16) (pool % 16)
  s.setPool d (pool / 16) (pool % 16) { p with held := p.held.filter fun e => !(us.contains e.2) }

/-- A staged tile leaves the stage pool: its units are released and its ledger unit is returned. -/
def State.unstage (s : State) (d b : Nat) (t : StageTile) : State :=
  (s.freeUnits d t.pool t.units).ledReturn d lgContrib b

/-- The die sum of a basket goes, with the units that it holds in the stage pool. -/
def State.dropSum (s : State) (d b : Nat) : State :=
  let x := s.dieBasket d b
  let s1 := x.sumUnits.foldl (fun t e => t.freeUnits d e.2.1 e.2.2) s
  s1.setDieBasket d b { x with sum := [], leaves := [], sumUnits := [] }

/-- A tile enters the adders: at a position already delivered it is discarded and counted (R254); so
it is where the die has sent its sum (assumption 29). -/
def State.deliver (s : State) (d b : Nat) (t : StageTile) : State :=
  let x := s.dieBasket d b
  if x.delivered.contains (t.stall, t.pos) then
    (s.unstage d b t).incSat (pgCollect d) 0x060
  else if !(x.st == .idle || x.st == .filling) then s.unstage d b t
  else
    s.setDieBasket d b
      { x with st := .filling, delivered := (t.stall, t.pos) :: x.delivered,
               seen := if x.seen.contains t.stall then x.seen else t.stall :: x.seen,
               ended := if t.last then t.stall :: x.ended else x.ended,
               stage := x.stage ++ [{ t with prog := none }] }

/-- The tiles of a put, read when it starts; the words of an unbacked address are INVALID. -/
def State.putTiles (s : State) (d l : Nat) (w : PutWord) (prog : Option Nat) : List StageTile :=
  let b := w.basket.toNat
  let n := w.tiles.toNat
  let (q, i) := s.stagePool d
  let us := (s.pool d q i).free
  (List.range n).map fun j =>
    let a := w.addr.toNat + j * s.bkRecord b
    let ws := match s.resolve a with
      | some k => s.readWords k (s.bkRecord b / 8)
      | none => List.replicate (s.bkRecord b / 8) { val := 0, poison := true }
    { stall := l, pos := s.cursor d b l + j, ws := ws, prog := prog,
      last := w.last && j + 1 == n, past := false, pool := 16 * q + i,
      units := (us.drop (2 * j)).take 2 }

/-- A put starts: its tiles are read into the stage pool, the cursor advances, and outside a bracket
they enter the adders (R250-R252). -/
def State.startPut (s : State) (d l : Nat) (w : PutWord) (prog : Option Nat) : State :=
  let b := w.basket.toNat
  let n := w.tiles.toNat
  let ts := s.putTiles d l w prog
  let (q, i) := s.stagePool d
  let s1 := match s.resolve w.addr.toNat with
    | some k => s.noteReads srcPort k (n * s.bkRecord b)
    | none => s
  let p := s1.pool d q i
  let s2 := s1.setPool d q i { p with held := p.held ++ (ts.flatMap (·.units)).map fun u => (4096 * u, u) }
  let x := s2.dieBasket d b
  let s3 := (((s2.setDieBasket d b
      { x with tilesIn := x.tilesIn + n, cursors := SMap.set 0 (SMap.erase x.cursors l) l (s.cursor d b l + n) }
      ).ledIssue d lgContrib b n).count (pgCollect d) 0 n)
  match prog with
  | none => ts.foldl (fun t e => t.deliver d b e) s3
  | some _ =>
    let y := s3.dieBasket d b
    s3.setDieBasket d b { y with stage := y.stage ++ ts }

/-- Baskets of a die that hold staged tiles. -/
def State.stagedBaskets (s : State) (d : Nat) : List Nat :=
  (List.range 128).filter fun b => !(s.dieBasket d b).stage.isEmpty

/-- A program bundle commits on a die: its tentative tiles enter the adders (R252). -/
def State.commitPuts (s : State) (d n : Nat) : State :=
  s.forEach (s.stagedBaskets d) fun t b =>
    let x := t.dieBasket d b
    let mine := x.stage.filter (·.prog == some n)
    mine.foldl (fun u e => u.deliver d b e)
      (t.setDieBasket d b { x with stage := x.stage.filter (·.prog != some n) })

/-- It aborts: they are discarded and their positions stay open (R252). -/
def State.discardPuts (s : State) (d n : Nat) : State :=
  s.forEach (s.stagedBaskets d) fun t b =>
    let x := t.dieBasket d b
    let mine := x.stage.filter (·.prog == some n)
    mine.foldl (fun u e => u.unstage d b e)
      (t.setDieBasket d b { x with stage := x.stage.filter (·.prog != some n) })

/-! ### Adders (R256, R261) -/

/-- A sum of a tree node: widened to A40, added, rounded to S32. -/
def nodeAdd (a b : A40) : A40 × Bool :=
  let (w, s) := s32Of none ((a40Val a).add (a40Val b))
  ((a40Of (s32Val w)).1, s)

/-- Add two tiles element by element, counting the sums that saturate. -/
def tileAdd (a b : List A40) : List A40 × Nat :=
  let l := a.zipWith nodeAdd b
  (l.map (·.1), (l.filter (·.2)).length)

/-- A node of the tree over stalls: a child that contributes nothing counts as zero, so the other
passes unchanged. -/
def nodeSum (a b : Option (List A40)) : Option (List A40) × Nat :=
  match a, b with
  | some x, some y => let (z, n) := tileAdd x y; (some z, n)
  | some x, none => (some x, 0)
  | none, y => (y, 0)

/-- One level of a tree: neighbours are paired in order; a last unpaired value passes up. -/
def pairLevel (l : List (Option (List A40))) : List (Option (List A40)) × Nat :=
  match l with
  | a :: b :: r =>
    let (x, n) := nodeSum a b
    let (y, m) := pairLevel r
    (x :: y, n + m)
  | l => (l, 0)

/-- The tree over a list of values, `fuel` levels high. -/
def treeLevels (fuel : Nat) (l : List (Option (List A40))) : List (Option (List A40)) × Nat :=
  match fuel with
  | 0 => (l, 0)
  | k + 1 =>
    if l.length ≤ 1 then (l, 0)
    else
      let (x, n) := pairLevel l
      let (y, m) := treeLevels k x
      (y, n + m)

/-- S32 words of a tile of A40 values. -/
def s32Tile (l : List A40) : List Word × Nat :=
  let r := l.map fun v => s32Of none (a40Val v)
  (r.map (·.1), (r.filter (·.2)).length)
/-- A40 values of S32 words. -/
def a40Tile (l : List Word) : List A40 := l.map fun w => (a40Of (s32Val w)).1

/-- The A40 elements of a contributed tile (R105, R252). -/
def StageTile.vals (t : StageTile) (kind : Byte) (n : Nat) : List A40 :=
  let tile : Tile := { kind := kind, ws := t.ws }
  (List.range n).map fun i => (tileEl tile (i / 64) (i % 64)).1

/-- The adders of one level over its four children: neighbours, then the pair sums. What leaves the level
travels as S32 (R256). -/
def levelSum (l : List (Option (List A40))) : Option (List A40) × Nat :=
  let (r, k) := treeLevels 2 l
  match r.headD none with
  | none => (none, k)
  | some t => let (w, m) := s32Tile t; (some (a40Tile w), k + m)

/-- One level of the tree inside a die: `n` groups of four. -/
def fourLevel (n : Nat) (l : List (Option (List A40))) : List (Option (List A40)) × Nat :=
  let r := (List.range n).map fun i => levelSum ((l.drop (4 * i)).take 4)
  (r.map (·.1), r.foldl (fun a e => a + e.2) 0)

/-- The fixed tree over the 64 logical stalls for one position: arcades, quarters, the die (R55, R256). A
stall that delivers nothing counts as zero (R250). With it, how many sums saturated. -/
def stallTree (leaf : Nat → Option (List A40)) : List Word × Nat :=
  let (a, i) := fourLevel 16 ((List.range 64).map leaf)
  let (q, j) := fourLevel 4 a
  let (d, k) := fourLevel 1 q
  ((s32Tile ((d.headD none).getD [])).1, i + j + k)

/-- The tree over the tiles recorded for a position. -/
def leafTree (l : List (Nat × Nat × List A40)) (p : Nat) : List Word × Nat :=
  let mine := l.filter (·.1 == p)
  stallTree fun k => (mine.find? (·.2.1 == k)).map (·.2.2)

/-- Die sum at a position. -/
def DieBasket.at' (x : DieBasket) (p n : Nat) : List Word :=
  match x.sum.find? (·.1 == p) with | some e => e.2 | none => List.replicate n 0

/-- Words of the region added to what a sum holds at a position (R255). -/
def DieBasket.addAt (x : DieBasket) (p n : Nat) (ws : List Word) : DieBasket × Nat :=
  match x.sum.find? (·.1 == p) with
  | none => ({ x with sum := x.sum ++ [(p, ws)] }, 0)
  | some e =>
    let (r, k) := tileAdd (a40Tile e.2) (a40Tile ws)
    let (v, _) := s32Tile r
    ({ x with sum := (x.sum.filter (·.1 != p)) ++ [(p, v.take n)] }, k)

/-- The positions of a chunk that staged tiles wait at. -/
def DieBasket.chunkTiles (x : DieBasket) (c : Nat) : List StageTile :=
  x.stage.filter fun t => t.prog.isNone && !t.past && t.pos / 32 == c

/-- The tiles at position `p` enter the die sum: it is the fixed tree over all that stalls have delivered
there so far, so that its order never depends on when a tile came (R55, R256). It keeps the stage-pool units of
the first tile until the engine stage completes (R271, assumption 91). With it, the sums that newly saturate
and the tiles whose units are released. -/
def DieBasket.takeAt (x : DieBasket) (kind : Byte) (n p : Nat) (ts : List StageTile) :
    DieBasket × Nat × List StageTile :=
  let mine := ts.filter (·.pos == p)
  let ls := x.leaves ++ mine.map fun t => (p, t.stall, t.vals kind n)
  let (ws, k) := leafTree ls p
  let k0 := (leafTree x.leaves p).2
  let y := { x with leaves := ls, sum := x.sum.filter (·.1 != p) ++ [(p, ws)],
                    sat := if k = 0 || x.sat.contains p then x.sat else p :: x.sat }
  if x.sumUnits.any (·.1 == p) then (y, k - k0, mine)
  else match mine with
    | t :: r => ({ y with sumUnits := (p, t.pool, t.units) :: y.sumUnits }, k - k0, { t with units := [] } :: r)
    | [] => (y, k - k0, [])

/-- A chunk has passed the die adder: its tiles are summed into the die sum and leave the stage pool;
EXCHANGE tiles pass unsummed (R256, R272). -/
def State.sumChunk (s : State) (d b c : Nat) : State :=
  let x := s.dieBasket d b
  let ts := x.chunkTiles c
  if s.bkDest b = 2 then
    s.setDieBasket d b { x with stage := x.stage.map fun t => if ts.contains t then { t with past := true } else t }
  else
    let n := s.bkWidth b
    let ps := (ts.map (·.pos)).eraseDups
    let (y, sat, out) := ps.foldl (fun (a : DieBasket × Nat × List StageTile) p =>
      let (z, k, l) := a.1.takeAt (s.bkKind b) n p ts
      (z, a.2.1 + k, a.2.2 ++ l)) (x, 0, [])
    let s1 := s.setDieBasket d b { y with stage := y.stage.filter fun t => !ts.contains t }
    let s2 := out.foldl (fun t e => t.unstage d b e) s1
    if sat = 0 then s2 else s2.incSat (pgCollect d) 0x05C sat

/-! ### READY (R253, R255) -/

/-- A stall's contribution to a basket has ended. -/
def State.contribEnded (s : State) (d b l : Nat) : Bool :=
  (s.dieBasket d b).ended.contains l || (s.stallOf d l).halted == some true
/-- Every live logical stall of the die is at HALT with RESTART = 1. -/
def State.allHalted (s : State) (d : Nat) : Bool :=
  (List.range 64).all fun l => !s.stallOn d l || (s.stallOf d l).halted == some true

/-- The die is READY for a basket (R253). -/
def State.dieIsReady (s : State) (d b : Nat) : Bool :=
  let x := s.dieBasket d b
  s.atWork && s.inStep d && s.bkValid b &&
  ((x.st == .filling && !x.seen.isEmpty && x.seen.all (s.contribEnded d b ·) &&
      x.stage.all fun t => t.past) ||
   (x.st == .idle && x.seen.isEmpty && s.allHalted d))

/-- Two 32-bit halves of each word; a poisoned word gives INVALID. -/
def halves (l : List MWord) : List Word :=
  l.flatMap fun w =>
    if w.poison then [0x7FC00000, 0x7FC00000] else [w.val.extractLsb' 0 32, w.val.extractLsb' 32 32]

/-- Key of the hold header (R255). -/
def State.holdAt (s : State) (d b : Nat) : Nat := s.bkRegion d b + 16384 * s.bkTiles b
/-- HELD_STEPS and HELD_WEIGHT. -/
def State.heldSteps (s : State) (d b : Nat) : Nat := (s.peek (s.holdAt d b / 8)).val.toNat % 65536
def State.heldWeight (s : State) (d b : Nat) : Nat := (s.peek (s.holdAt d b / 8)).val.toNat / 2 ^ 32

/-- The positions that saturated in held steps count as saturated (R268). -/
def DieBasket.recallSat (x : DieBasket) : DieBasket :=
  { x with sat := x.sat ++ (x.heldSat.filter fun p => !x.sat.contains p) }

/-- The die sum with what the region holds added at every position (R255); a position whose addition
saturates, now or in a step held before, is marked (R268). -/
def State.withRegion (s : State) (d b : Nat) : DieBasket × Nat :=
  (List.range (s.bkTiles b)).foldl (fun (a : DieBasket × Nat) p =>
    let held := halves (s.readWords (s.bkRegion d b + 16384 * p) 2048)
    let x := if (a.1.sum.any (·.1 == p)) then a.1
      else { a.1 with sum := a.1.sum ++ [(p, List.replicate 4096 0)] }
    let (y, k) := x.addAt p 4096 held
    (if k = 0 || y.sat.contains p then y else { y with sat := p :: y.sat }, a.2 + k))
    ((s.dieBasket d b).recallSat, 0)

/-- The region and its hold header read zero. -/
def State.zeroRegion (s : State) (d b : Nat) : State :=
  s.storeWords (s.bkRegion d b) (List.replicate (2048 * s.bkTiles b + 8) { val := 0, poison := false })

/-- Whether the basket holds its sum locally this step (R255). -/
def State.holdsLocal (s : State) (d b : Nat) : Bool :=
  s.bkDest b == 0 && decide (0 < s.bkLocal b) && decide (s.heldSteps d b + 1 < s.bkLocal b + 1)

/-- DIE_READY: the sum is held, with its INVALID elements counted as they are written (R268), or READY goes to
the lead with the weight it counts. -/
def State.dieReady (s : State) (d b : Nat) : State :=
  let weight := (s.reg (pgCollect d) 0x040).toNat
  let hold := s.bkDest b == 0 && decide (0 < s.bkLocal b)
  if !hold then
    let x := s.dieBasket d b
    ((s.setDieBasket d b { x with st := .ready, weight := weight }).ledIssue 0 lgBell d).emit (.bell d (1024 + b))
  else
    let (y, sat) := s.withRegion d b
    let s1 := s.noteReads srcPort (s.bkRegion d b) (16384 * s.bkTiles b + 64)
    let s2 := if sat = 0 then s1 else s1.incSat (pgCollect d) 0x05C sat
    if s.holdsLocal d b then
      let ws := (List.range (s.bkTiles b)).flatMap fun p => pairWords (y.at' p 4096)
      let hdr : MWord := { val := BitVec.ofNat 64 (s.heldSteps d b + 1 +
        ((s.heldWeight d b + weight) % 2 ^ 32) * 2 ^ 32), poison := false }
      let bad := (((List.range (s.bkTiles b)).flatMap fun p => y.at' p 4096).filter fun w =>
        s32Val w == .invalid).length
      let s3 := (s2.storeWords (s.bkRegion d b)
        (ws ++ hdr :: List.replicate 7 { val := 0, poison := false })).incSat (pgCollect d) 0x058 bad
      (s3.setDieBasket d b { y with st := .done, heldSat := y.sat }).dropSum d b
    else
      ((s2.setDieBasket d b { y with st := .ready, weight := s.heldWeight d b + weight }).ledIssue 0
        lgBell d).emit (.bell d (1024 + b))

/-! ### Rows of an EXCHANGE basket (R272, R273) -/

/-- A row on its way: source die, its number among the source's rows, destination byte, words. -/
structure XRow where
  src  : Nat
  idx  : Nat
  dst  : Option Nat
  ws   : List MWord

/-- Row i of a record: 64 elements of 16 bits; a poisoned word makes its elements INVALID (R135). -/
def rowWords (kind : Byte) (t : StageTile) (i : Nat) : List MWord :=
  ((t.ws.drop (16 * i)).take 16).map fun w =>
    if w.poison then
      let c := invalidCode ((kindFmt kind).getD .l16)
      { val := BitVec.ofNat 64 (c * (1 + 2 ^ 16 + 2 ^ 32 + 2 ^ 48)), poison := false }
    else w
/-- Route byte of row i; 0xFF and a poisoned route word name no destination. -/
def rowRoute (t : StageTile) (i : Nat) : Option Nat :=
  match elemAt t.ws 1 (8192 + i) with
  | some v => if v = 255 then none else some v
  | none => none

/-- Rows that a die contributed, in source order (R273). -/
def State.rowsOf (s : State) (d b : Nat) : List XRow :=
  let x := s.dieBasket d b
  let ts := ((List.range 64).flatMap fun l =>
    let mine := x.stage.filter fun t => t.prog.isNone && t.stall == l
    (List.range (64 * s.bkTiles b)).flatMap fun p => mine.filter (·.pos == p))
  let rows := ts.flatMap fun t => (List.range 64).map fun i => (rowRoute t i, rowWords (s.bkKind b) t i)
  rows.zipIdx.map fun e => { src := d, idx := e.2, dst := e.1.1, ws := e.1.2 }

/-! ### The lead (R257-R260, R277) -/

/-- Weight and included mask of a decision over the dies that are READY. -/
def State.decideBasket (s : State) (b : Nat) (byDead : Bool) : State :=
  let e := s.basket b
  let ds := (e.arrived.map (·.1)).filter fun d => s.inStep d
  (s.setBasket b
    { e with window := false, decided := true, byDead := byDead, included := maskOf ds,
             weightSum := ds.foldl (fun n d => n + (s.dieBasket d b).weight) 0,
             received := [] }).count pgReduce 0

/-- Bin of a lateness (Table 11.5); none where the deadline is 0 and no bin holds it. -/
def lateBin (dl x : Nat) : Option Nat :=
  if x = 0 then some 0
  else if dl ≤ x then none
  else if 64 * x < dl then some 1
  else if 16 * x < dl then some 2
  else if 4 * x < dl then some 3
  else if 2 * x < dl then some 4
  else some 5

/-- Count in a die's LATE_HIST. -/
def State.lateHist (s : State) (d : Nat) (k : Option Nat) : State :=
  match k with | some i => s.incSat (pgCollect d) (0x070 + 4 * i) | none => s

/-- A late READY and the die sum behind it are dropped (R259). -/
def State.lateDrop (s : State) (d b : Nat) : State :=
  let x := s.dieBasket d b
  let s1 := ((s.incSat (pgCollect d) 0x054).count pgReduce 1).lateHist d (some 6)
  let s2 := x.stage.foldl (fun t e => t.unstage d b e) s1
  let rs := if s.bkDest b = 2 then (s.rowsOf d b).map (·.dst) else []
  let s3 := (s2.setDieBasket d b { x with st := .dropped, stage := [], heldSat := [], routes := rs }).dropSum d b
  if s.bkDest b == 0 && decide (0 < s.bkLocal b) then s3.zeroRegion d b else s3

/-- READY of a die is stamped at the lead (R257-R259). -/
def State.readyStamp (s : State) (d b lateness : Nat) : State :=
  let dl := (s.reg pgReduce 0x04C).toNat
  let s0 := s.ledReturn 0 lgBell d
  let e0 := s0.basket b
  let s1 := if !e0.decided && e0.window && decide (0 < dl) && decide (dl ≤ lateness)
    then s0.decideBasket b true else s0
  let e := s1.basket b
  if e.decided then s1.lateDrop d b
  else
    let first := e.arrived.isEmpty
    let s2 := s1.setBasket b
      { e with arrived := e.arrived ++ [(d, if first then 0 else lateness)],
               window := e.window || (first && decide (0 < dl)) }
    if s2.stepDies.all fun k => (s2.basket b).arrived.any (·.1 == k) then s2.decideBasket b false else s2

/-- INCLUDED reaches a die (R258, R277): its registers show the decision; an included die starts the
engine stage. -/
def State.receiveIncluded (s : State) (d b : Nat) : State :=
  let e := s.basket b
  let ds := bitsOf e.included
  let last := ((e.arrived.filter fun a => ds.contains a.1).getLast?.map (·.1)).getD 0
  let s1 := s.setBasket b { e with received := d :: e.received, binned := d :: e.binned }
  let s2 := s1.poke (pgCollect d) 0x050 (BitVec.ofNat 32
    ((if e.byDead then 2 ^ 31 else 0) + ds.length * 65536 + b * 256 + last))
  let s3 := if e.binned.contains d then s2 else
    match e.arrived.find? (·.1 == d) with
    | some a => s2.lateHist d (lateBin (s.reg pgReduce 0x04C).toNat a.2)
    | none => s2
  if ds.contains d then
    let x := s3.dieBasket d b
    let s4 := s3.setDieBasket d b { x with st := .reducing, engStart := 0, engDone := 0, heldSat := [] }
    if s.bkDest b == 0 && decide (0 < s.bkLocal b) then s4.zeroRegion d b else s4
  else s3

/-! ### Levels (R256, R276) -/

/-- Chunks of die sums, finished by level 3, that wait in the stage pool for the engine stage. -/
def State.backlog4 (s : State) (d : Nat) : Nat :=
  (List.range 128).foldl (fun n b =>
    let x := s.dieBasket d b
    if x.st == .reducing then n + (s.bkChunks b - x.engStart) else n) 0
/-- Chunks finished by the engine stage that wait for the port. -/
def State.backlog5 (s : State) (d : Nat) : Nat :=
  (List.range 128).foldl (fun n b =>
    let x := s.dieBasket d b
    if x.st == .sending then n + (x.owned.length + 31) / 32 else n) 0

/-- A level holds a chunk and has no credit to pass it on. Level 3 puts its chunks into the stage pool, and
the two slots of level 4 fill from there; so do those of level 5 from the shards that the engine stage leaves
(R256, R271, assumption 91). -/
def State.levelStuck (s : State) (d k : Nat) : Bool :=
  match k with
  | 0 => (s.level d 0).credits == 0 && (List.range 128).any fun b =>
      (s.dieBasket d b).stage.any fun t => t.prog.isNone && !t.past
  | 3 => decide (2 ≤ s.backlog4 d)
  | 4 => decide (2 ≤ s.backlog5 d)
  | _ => (s.level d k).credits == 0 && !(s.level d k).chunks.isEmpty

/-- Count the cycles in which a working level made the one before wait: a free number of cycles (Table
11.1 gives rates, not cycles) (assumption 24). -/
def State.levelBusy (s : State) (d k : Nat) : State :=
  if k = 0 || !s.levelStuck d (k - 1) then s
  else
    let n := s.freeNow.toNat
    let x := s.level d k
    (((s.incSat (pgCollect d) (0x090 + 4 * k) n).setLevel d k { x with rose := x.rose + n })).freeNext

/-- A level frees a slot: its credit goes to the level before it. -/
def State.pipeCredit (s : State) (d k : Nat) : State :=
  let x := s.level d k
  (s.setLevel d k { x with credits := x.credits + 1 }).ledIssue d lgPipe k

/-- The level takes a chunk and, before the last level, a credit. -/
def State.levelTake (s : State) (d k : Nat) (c : Nat × Nat) : State :=
  let x := s.level d k
  s.setLevel d k { x with chunks := x.chunks.erase c, busy := some c,
                          credits := if k < 5 then x.credits - 1 else x.credits }

/-- A chunk of the basket may enter the adders: its tiles are in the stage pool and no contributing
stall still owes one of its positions (assumption 33). -/
def State.chunkReady (s : State) (d b c : Nat) : Bool :=
  let x := s.dieBasket d b
  !(x.chunkTiles c).isEmpty &&
  ((List.range 4).all fun k => !((s.level d k).chunks.contains (b, c)) && (s.level d k).busy != some (b, c)) &&
  (s.bkDest b == 2 || x.seen.all fun l =>
    s.contribEnded d b l || decide ((s.partRange b l).2 ≤ 32 * c) ||
      decide (32 * (c + 1) ≤ (s.partRange b l).1) ||
      decide (min (s.partRange b l).2 (32 * (c + 1)) ≤ s.cursor d b l))

/-- The first such chunk. -/
def State.nextChunk (s : State) (d b : Nat) : Option Nat :=
  (((s.dieBasket d b).stage.map (·.pos / 32)).eraseDups).find? fun c => s.chunkReady d b c

/-! ### The engine stage (R261-R264, R273) -/

/-- Included dies in rank order (R261). -/
def State.ranks (s : State) (b : Nat) : List Nat :=
  let ds := bitsOf (s.basket b).included
  if s.bkTree b then ds else s.rounds.path.filter ds.contains

/-- Tiles of shard k (R263). -/
def State.shardRange (s : State) (b k : Nat) : Nat × Nat :=
  (k * s.bkTiles b / 64, (k + 1) * s.bkTiles b / 64)
/-- Owner of shard k among the included dies. -/
def ownerOf (ds : List Nat) (k : Nat) : Nat :=
  if ds.contains k then k else if ds.contains (k ^^^ 1) then k ^^^ 1 else ds.headD 0

/-- Sum of a position over the included dies, for an owner of rank r. -/
def State.engineSum (s : State) (b p : Nat) (tree : Bool) (rs : List Nat) (owner : Nat) : List Word × Nat :=
  let n := s.bkWidth b
  let v := fun d => a40Tile ((s.dieBasket d b).at' p n)
  if tree then
    let (r, k) := treeLevels 6 (rs.map fun d => some (v d))
    let (w, m) := s32Tile ((r.headD none).getD [])
    (w, k + m)
  else
    let i := (rs.findIdx? (· == owner)).getD 0
    let order := (rs.drop (i + 1)) ++ (rs.take (i + 1))
    match order with
    | [] => ([], 0)
    | d :: r =>
      let (t, k) := r.foldl (fun (a : List A40 × Nat) e =>
        let (x, m) := tileAdd a.1 (v e)
        (x, a.2 + m)) (v d, 0)
      let (w, m) := s32Tile t
      (w, k + m)

/-- Tiles of the shards that die `d` owns. -/
def State.ownTiles (s : State) (b d : Nat) (ds : List Nat) : Nat :=
  (List.range 64).foldl (fun n k =>
    if ownerOf ds k = d then n + ((s.shardRange b k).2 - (s.shardRange b k).1) else n) 0

/-- The sum travels on the bell (R262). -/
def State.bkBell (s : State) (b : Nat) : Bool :=
  s.regField pgReduce 0x040 1 0 == 0 && s.bkDest b == 1 && s.bkElems b != 0 &&
    decide (s.bkBytes b ≤ min 8 (s.regField pgReduce 0x044 3 0))

/-- The included die that follows die `d` in the ring. -/
def ringNext (rs : List Nat) (d : Nat) : Nat :=
  rs.getD (((rs.findIdx? (· == d)).getD 0 + 1) % max 1 rs.length) 0

/-- Bytes of S32 sums that a die sends to the next one in a ring: every shard but its own and, for ALL, in the
all-gather every shard but that of the next die (R261, R262). -/
def State.ringBytes (s : State) (d b : Nat) (rs : List Nat) : Nat :=
  let n := 4 * s.bkWidth b
  let ds := bitsOf (s.basket b).included
  let ring := n * (s.bkTiles b - s.ownTiles b d ds)
  if s.bkDest b = 0 || decide (rs.length ≤ 1) then ring
  else ring + n * (s.bkTiles b - s.ownTiles b (ringNext rs d) ds)

/-- How the engine stage moves what a die sends is not stated in full: the scatter or broadcast from rank 0 of a
tree, an exchange, and the copies for dies that are not included. -/
def State.moreMoves (s : State) (b : Nat) (tree : Bool) : Bool :=
  s.bkDest b == 2 || tree || (s.bkDest b == 1 && !s.liveDies.all (bitsOf (s.basket b).included).contains)

/-- Bytes of S32 sums that a die sends on the wales: none on the bell, those of a ring, in a tree the whole basket
once but for rank 0, and a free number more where more moves (assumption 24). -/
def State.stageBytes (s : State) (d b : Nat) (tree : Bool) (rs : List Nat) : Nat × State :=
  if s.bkBell b then (0, s)
  else
    let n := if s.bkDest b = 2 then 0
      else if tree then (if rs.headD 0 = d then 0 else 4 * s.bkWidth b * s.bkTiles b)
      else s.ringBytes d b rs
    if s.moreMoves b tree then (n + s.freeNow.toNat, s.freeNext) else (n, s)

/-- Hops of the path from die `a` to die `e`, `k` at most. -/
def State.pathHops (s : State) (k a e : Nat) : List (Nat × Nat) :=
  match k with
  | 0 => []
  | k + 1 => if a = e then [] else (a, s.pathSucc a) :: s.pathHops k (s.pathSucc a) e

/-- What the engine stage counts on wales and mesh pages (F3): a ring hop crosses the dies that stand between
two included ones; where more moves, each die and each wale carries a free number of bytes more (assumption 24). -/
def State.stageTraffic (s : State) (b : Nat) (tree : Bool) (rs : List Nat) : State :=
  if s.bkBell b then s
  else
    let s1 := if s.bkDest b == 2 || tree then s
      else s.forEach rs fun t d =>
        (s.pathHops 64 d (ringNext rs d)).foldl (fun u h => u.hopTraffic 2 h.1 h.2 (s.ringBytes d b rs)) t
    if !s.moreMoves b tree then s1
    else
      let s2 := s1.forEach s1.liveDies fun t d => (t.count (pgMesh d) 2 t.freeNow.toNat).freeNext
      s2.forEach (List.range 210) fun t w => t.freeNext.waleTraffic w t.freeNow.toNat

/-- An S32 sum as the port sends it, and whether it saturates at BF16 (R265, R268). -/
def bf16Of (w : Word) : BitVec 16 × Bool :=
  let (c, sat) := encode .bf16 0 none (s32Val w)
  (BitVec.ofNat 16 c, sat)

/-- SERVER: every owner keeps the final sums of its shards for its port (R263). SAT of a shard's
header covers the adders and BF16 (R266, R268). -/
def State.stageServer (s : State) (b : Nat) : State :=
  let rs := s.ranks b
  let ds := bitsOf (s.basket b).included
  let e := s.basket b
  let tree := s.bkTree b
  let hdr : PubHdr :=
    { step := (s.counter pgProgram 0).extractLsb' 0 32, included := e.included,
      weightSum := BitVec.ofNat 32 e.weightSum, contrib := ds.length, tree := tree,
      decision := e.decision, localN := s.bkLocal b, resent := e.decision != 0 }
  (s.stageTraffic b tree rs).forEach ds fun t d =>
    let mine := (List.range 64).filter fun k => ownerOf ds k == d
    let shards := mine.map fun k =>
      let (lo, hi) := s.shardRange b k
      let ts := (List.range (hi - lo)).map fun j =>
        let (w, n) := s.engineSum b (lo + j) tree rs d
        (j, w, n)
      let sat := ts.any (fun t => t.2.2 != 0 || t.2.1.any fun w => (bf16Of w).2) ||
        ds.any fun e => (s.dieBasket e b).sat.any fun p => decide (lo ≤ p ∧ p < hi)
      (k, ts, sat)
    let sats := shards.foldl (fun n k => k.2.1.foldl (fun m t => m + t.2.2) n) 0
    let (bytes, t0) := t.stageBytes d b tree rs
    let t1 := t0.count (pgCollect d) 1 bytes
    let t2 := if sats = 0 then t1 else t1.incSat (pgCollect d) 0x05C sats
    let t3 := t2.dropSum d b
    let x := t3.dieBasket d b
    t3.setDieBasket d b
      { x with st := if shards.all (fun k => k.2.1.isEmpty) then .done else .sending,
               owned := shards.flatMap fun k => k.2.1.map fun t => (k.1, t.1, t.2.1, k.2.2),
               inv := (shards.filter fun k => k.2.1.any fun t => t.2.1.any fun w => s32Val w == .invalid).map (·.1),
               pub := some hdr }

/-- The DONE_MARK post of a die (R264, R273). Table 8.10 has no agent code for the collective unit,
so what an overflow would show as the agent is a free value. -/
def State.doneMark (s : State) (d b : Nat) : State :=
  (s.postMark d (s.bkMark b) 1
    { agent := s.freeNow.toNat % 16, stall := 0, index := s.freeNow.toNat / 16 % 2 ^ 20 }).freeNext

/-- Included dies are done with the stage: their sums leave. -/
def State.stageOver (s : State) (b : Nat) : State :=
  s.forEach (bitsOf (s.basket b).included) fun t d =>
    let u := t.dropSum d b
    u.setDieBasket d b { u.dieBasket d b with st := .done, stage := [] }

/-- The shard that holds a tile (R263). -/
def State.shardOf (s : State) (b p : Nat) : Nat :=
  ((List.range 64).find? fun k => decide ((s.shardRange b k).1 ≤ p ∧ p < (s.shardRange b k).2)).getD 0

/-- ALL: the sums are written into the region of every live die, with the tiles of a short basket
filled up with zero (R249, R264). -/
def State.stageAll (s : State) (b : Nat) : State :=
  let rs := s.ranks b
  let ds := bitsOf (s.basket b).included
  let tree := s.bkTree b
  let tiles := (List.range (s.bkTiles b)).map fun p =>
    s.engineSum b p tree rs (ownerOf ds (s.shardOf b p))
  let words := tiles.flatMap fun t => t.1 ++ List.replicate (4096 - t.1.length) 0
  let bad := (words.filter fun w => s32Val w == .invalid).length
  let sats := tiles.foldl (fun n t => n + t.2) 0
  let s1 := (s.stageTraffic b tree rs).forEach ds fun t d =>
    let (bytes, t0) := t.stageBytes d b tree rs
    let t1 := t0.count (pgCollect d) 1 bytes
    if sats = 0 then t1 else t1.incSat (pgCollect d) 0x05C sats
  let s2 := s1.forEach s.liveDies fun t d =>
    ((t.storeWords (s.bkRegion d b) (pairWords words)).incSat (pgCollect d) 0x058 bad).doneMark d b
  s2.stageOver b

/-- What becomes of a source's rows, in order: delivered to a die, dropped for capacity, dropped for
want of a destination, or routed nowhere. -/
inductive RowFate where
  | to (d : Nat) | full | missing | nowhere
  deriving DecidableEq, Repr

/-- Fates of rows, `n` counting the rows already delivered to each die. -/
def rowFates (cap : Nat) (ok : Nat → Bool) (n : SMap Nat) (l : List XRow) : List (XRow × RowFate) :=
  match l with
  | [] => []
  | r :: rest =>
    match r.dst with
    | none => (r, .nowhere) :: rowFates cap ok n rest
    | some d =>
      if !ok d then (r, .missing) :: rowFates cap ok n rest
      else if 64 * cap ≤ SMap.get 0 n d then (r, .full) :: rowFates cap ok n rest
      else (r, .to d) :: rowFates cap ok (SMap.upd 0 n d (· + 1)) rest

/-- Bits to 64-bit words, lowest first. -/
def bitWords (n : Nat) (f : Nat → Bool) : List MWord :=
  (List.range (n / 64)).map fun i =>
    { val := BitVec.ofNat 64 ((List.range 64).foldl (fun a j => if f (64 * i + j) then a + 2 ^ j else a) 0),
      poison := false }

/-- EXCHANGE: rows are delivered in source order into every live die's region (R273, R274). -/
def State.stageExchange (s : State) (b : Nat) : State :=
  let cap := s.bkTiles b
  let ds := bitsOf (s.basket b).included
  let ok := fun d => ds.contains d && s.dieLive d
  let fates : List (Nat × List (XRow × RowFate)) :=
    ds.map fun d => (d, rowFates cap ok [] (s.rowsOf d b))
  let got := fun src dst => (fates.filter (·.1 == src)).flatMap fun e =>
    (e.2.filter (·.2 == .to dst)).map (·.1)
  let s1 := (s.stageTraffic b true []).forEach s.liveDies fun t d =>
    let rows := allDies.flatMap fun src =>
      let l := (got src d).flatMap (·.ws)
      l ++ List.replicate (1024 * cap - l.length) { val := 0, poison := false }
    let cnt := (List.range 16).map fun i =>
      ({ val := BitVec.ofNat 64 ((List.range 4).foldl (fun a j =>
          a + ((got (4 * i + j) d).length % 65536) * 2 ^ (16 * j)) 0), poison := false } : MWord)
    let lost : List Nat := match fates.find? (·.1 == d) with
      | some e => (e.2.filter fun (r : XRow × RowFate) => r.2 == .full || r.2 == .missing).map fun r => r.1.idx
      | none =>
        let rs := (s.dieBasket d b).routes ++ (s.rowsOf d b).map (·.dst)
        (List.range rs.length).filter fun i => (rs.getD i none).isSome
    let t1 := t.storeWords (s.bkRegion d b) (rows ++ cnt ++ bitWords (4096 * cap) lost.contains)
    let n := fun (f : RowFate) => match fates.find? (·.1 == d) with
      | some e => (e.2.filter fun (r : XRow × RowFate) => r.2 == f).length
      | none => 0
    ((t1.incSat (pgCollect d) 0x068 (n .full)).incSat (pgCollect d) 0x06C (n .missing)).doneMark d b
  let s2 := s1.forEach ds fun t d =>
    let (bytes, t0) := t.stageBytes d b true []
    (t0.dieBasket d b).stage.foldl (fun u e => u.unstage d b e) (t0.count (pgCollect d) 1 bytes)
  s2.stageOver b

/-- Every included die has finished its part of the engine stage. -/
def State.stageReady (s : State) (b : Nat) : Bool :=
  let e := s.basket b
  let ds := bitsOf e.included
  e.decided && !ds.isEmpty && ds.all fun d =>
    let x := s.dieBasket d b
    x.st == .reducing && x.engDone == s.bkChunks b

/-- ENGINE_STAGE_DONE (R263, R264, R273). -/
def State.engineStage (s : State) (b : Nat) : State :=
  match s.bkDest b with
  | 0 => s.stageServer b
  | 1 => s.stageAll b
  | _ => s.stageExchange b

/-! ### Loss of a die, the ends of a step (R257, R271, R345) -/

/-- Chunks of a basket in the engine stage of a die are abandoned: level 4's slot and credit come
back. -/
def State.dropLevel4 (s : State) (d b : Nat) : State :=
  let x := s.level d 4
  match x.busy with
  | some c =>
    if c.1 = b then
      ((s.setLevel d 4 { x with busy := none }).ledWoff d lgPipe 4).pipeCredit d 4
    else s
  | none => s

/-- An included die is lost before the engine stage of a basket completes: every die abandons the stage, the
lost one has no part in the basket any more, and the lead decides again without it (R271). -/
def State.redecide (s : State) (lost b : Nat) : State :=
  let e := s.basket b
  let ds := bitsOf e.included
  let waits := fun d => (s.dieBasket d b).st == .reducing || (s.dieBasket d b).st == .ready
  if e.decided && ds.contains lost && ds.any waits then
    let left := ds.filter (· != lost)
    let s1 := s.setBasket b
      { e with included := maskOf left, decision := e.decision + 1, received := [],
               weightSum := left.foldl (fun n d => n + (s.dieBasket d b).weight) 0 }
    let s2 := s1.forEach left fun t d =>
      let x := t.dieBasket d b
      (t.setDieBasket d b { x with st := .ready, engStart := 0, engDone := 0 }).dropLevel4 d b
    let s3 := (s2.dropLevel4 lost b).dropSum lost b
    let x := s3.dieBasket lost b
    ((x.stage.foldl (fun t e => t.unstage lost b e) s3).setDieBasket lost b
      { x with st := .dropped, stage := [] }).count pgReduce 0
  else s

/-- A die leaves the step or goes: baskets REDUCING are decided again, the lead passes on where the
lost die was it, and a basket that only waited for the lost die is decided (R257, R258, R271). -/
def State.collectLoss (s : State) (d : Nat) : State :=
  let was := s.red.lead
  let s0 := { s with red := { s.red with lead := s.leadDie } }
  s0.forEach (List.range 128) fun t b =>
    let t1 := t.redecide d b
    let e := t1.basket b
    if e.decided || e.arrived.isEmpty then t1
    else if was = d then
      let again := (e.arrived.map (·.1)).filter fun k => t1.inStep k
      (t1.setBasket b { e with window := false, arrived := [] }).forEach again fun u k =>
        u.ledIssue 0 lgBell k
    else
      let e' := { e with arrived := e.arrived.filter (·.1 != d) }
      let t2 := t1.setBasket b e'
      if !e'.arrived.isEmpty && t2.stepDies.all fun k => e'.arrived.any (·.1 == k) then t2.decideBasket b false
      else t2

/-- The engine closes the step out: undecided baskets become DROPPED, and no window or READY of theirs is left
at the lead (R345). -/
def State.dropUndecided (s : State) : State :=
  s.forEach (List.range 128) fun t b =>
    if (t.basket b).decided then t
    else (t.setBasket b EngBasket.reset).forEach allDies fun u d =>
      let x := u.dieBasket d b
      if x.st == .filling || x.st == .ready then
        ((x.stage.foldl (fun v e => v.unstage d b e) u).setDieBasket d b
          { x with st := .dropped, stage := [] }).dropSum d b
      else u

/-- A step begins: cursors return to the start of their parts and nothing has been delivered. What a
port still sends stays SENDING, and what saturated in a held sum stays known (R250, R251, R268). At the end of the step before, a die that never was
READY for a decided basket is counted (Table 11.5). -/
def State.basketsStep (s : State) : State :=
  let s0 := { s with red := { s.red with lead := s.liveDies.headD 0 } }
  s0.forEach (List.range 128) fun t b =>
    let e := t.basket b
    let t1 := if !e.decided then t else t.forEach s.liveDies fun u d =>
      if e.arrived.any (·.1 == d) || (u.dieBasket d b).st == .dropped then u else u.lateHist d (some 7)
    let t2 := t1.setBasket b EngBasket.reset
    t2.forEach allDies fun u d =>
      let x := u.dieBasket d b
      let v := (x.stage.foldl (fun v e => v.unstage d b e) u).dropSum d b
      let y := { DieBasket.reset with heldSat := x.heldSat }
      if x.st == .sending then
        v.setDieBasket d b { y with st := .sending, owned := x.owned, inv := x.inv, pub := x.pub, prior := true }
      else v.setDieBasket d b y

/-- Cursors kept at a replay point, and brought back by a replay (R254). -/
def State.keepCursors (s : State) (d : Nat) : State :=
  s.forEach (List.range 128) fun t b =>
    let x := t.dieBasket d b
    t.setDieBasket d b { x with cursorsAt := x.cursors }
def State.restoreCursors (s : State) (d : Nat) : State :=
  s.forEach (List.range 128) fun t b =>
    let x := t.dieBasket d b
    t.setDieBasket d b { x with cursors := x.cursorsAt }

/-- No basket published in the step has still to leave REDUCING (R270): none is REDUCING, and on the dies
in the step none is FILLING, READY or due to be READY (assumption 43). -/
def State.basketsSettled (s : State) : Bool :=
  (s.red.die.all fun e => e.2.st != .reducing &&
    (!s.inStep (e.1 / 128) || (e.2.st != .ready && e.2.st != .filling))) &&
  (List.range 128).all fun b => !s.bkValid b || s.stepDies.all fun d => !s.dieIsReady d b

/-! ### The mesh and the wale egress of a die (R301) -/

/-- Bytes of a chunk's sums. -/
def State.chunkBytes (s : State) (b c : Nat) : Nat := 16384 * min 32 (s.bkTiles b - 32 * c)

/-- Bytes of each piece of work of a die that its mesh may carry next on F1 (round transfers), F2 (stream
transfers) or F3 (chunks of baskets). -/
def State.meshWork (s : State) (d i : Nat) : List Nat :=
  let xfers := fun (ok : Stream → Bool) => s.streams.filterMap fun e =>
    if e.1 / 256 / 73 = d && !e.2.out.isEmpty && ok e.2 then some e.2.size else none
  match i with
  | 0 => xfers fun x => x.role == roleRound
  | 1 => xfers fun x => x.role == roleLoad || x.role == roleStore || x.role == rolePut
  | _ =>
    (s.red.level.flatMap fun e => if e.1 / 6 = d then e.2.chunks.map fun c => s.chunkBytes c.1 c.2 else []) ++
    s.red.die.filterMap fun e =>
      if e.1 / 128 = d && e.2.st == .reducing && decide (e.2.engStart < s.bkChunks (e.1 % 128)) then
        some (s.chunkBytes (e.1 % 128) e.2.engStart)
      else none

/-- Quantum of F1, F2 or F3: units of 256 bytes; 0 acts as 1. -/
def State.meshQuantum (s : State) (d i : Nat) : Nat := 256 * max 1 (s.regField (pgMesh d) 0x040 (8 * i + 7) (8 * i))

/-- The mesh of die d serves a piece of `n` bytes on F1, F2 or F3 (0 to 2), or another class goes first. Which
of the other classes' work stands at the mesh just then is a matter of time, a free choice (assumption 101).
Control messages on F0 never wait. -/
def State.meshServe (s : State) (d i n : Nat) : State × Bool :=
  let need := fun j =>
    if j = i then some n
    else (s.meshWork d j).min?.filter fun _ => (Config.freeValue (s.free + j)).getLsbD 0
  let t : State := { s with free := s.free + 3 }
  match Drr.pick 3 (s.meshQuantum d) need 8192 (SMap.get Drr.reset s.stores.mesh d) with
  | some (j, r) =>
    if j = i then ({ t with stores := { t.stores with mesh := SMap.set Drr.reset t.stores.mesh d r } }, true)
    else (t, false)
  | none => (t, false)

end Sys2Proof.Machine
end

