-- ==== Sys2Proof/Machine/FlowOps.lean ====
section
/-! DEFINITION. Sloub flows as operations (R281-R307): what a port sends and carries, the receive
checks, sequence numbers, credit, acknowledgement, the end of a flow. -/

namespace Sys2Proof.Machine

/-! ### Ports -/

def rPortCtl : Nat := 0x040
/-- The engine's LEID; 0: none (R423). -/
def State.leid (s : State) : BitVec 20 := (s.reg pgAddress 0x044).extractLsb' 0 20
def leidOk (l : BitVec 20) : Bool := l != 0 && l != 0xFFFFF
/-- IPv6 address and UDP port of a port (Table 12.7). -/
def State.portIp (s : State) (p : Nat) : BitVec 128 :=
  s.reg (pgPort p) 0x050 ++ s.reg (pgPort p) 0x04C ++ s.reg (pgPort p) 0x048 ++ s.reg (pgPort p) 0x044
def State.portUdp (s : State) (p : Nat) : BitVec 16 := (s.reg (pgPort p) rPortCtl).extractLsb' 0 16
/-- The die whose port carries port p's flows (R351): the buddy while PORT_MOVE is set, and until the
flows have been returned after it was cleared. -/
def State.carrier (s : State) (p : Nat) : Nat :=
  if (s.regPair pgSpareMap 0x04C ||| s.keeper.moveReq).getLsbD p then p ^^^ 1 else p
/-- The MAC address of a port. -/
def State.portMac (s : State) (p : Nat) : BitVec 48 :=
  (s.reg (pgPort p) 0x058).extractLsb' 0 16 ++ s.reg (pgPort p) 0x054
/-- NEXT_HOP_MAC of a port. -/
def State.hopMac (s : State) (p : Nat) : BitVec 48 :=
  (s.reg (pgPort p) 0x060).extractLsb' 0 16 ++ s.reg (pgPort p) 0x05C
/-- DSCP of a virtual channel (R300). -/
def State.dscp (s : State) (p vc : Nat) : BitVec 6 := (s.reg (pgPort p) 0x064).extractLsb' (8 * vc) 6
def State.retryMax (s : State) (p : Nat) : Nat := s.regField (pgPort p) 0x06C 31 24
/-- A physical port works: it is ON, or leaves service, with its link UP. -/
def Port.works (x : Port) : Bool := (x.st == .on || x.st == .draining) && x.link == 3
/-- The wales between a port's flows and the port that carries them (R351): none where it carries its own,
the buddy wale, or the two of its relay while that wale carries nothing. -/
def State.buddyWales (s : State) (p : Nat) : Option (List Nat) :=
  let b := s.carrier p
  if b = p then some []
  else if s.waleUp p b then some [waleOf p b].reduceOption
  else (s.relayOf p b).map fun r => [waleOf p r, waleOf r b].reduceOption
/-- The carrying port works and is reached: frames pass. -/
def State.portUp (s : State) (p : Nat) : Bool :=
  (s.port (s.carrier p)).works && !s.dieOut p && (s.buddyWales p).isSome
/-- Bytes of a port's frames cross from die `a` to the buddy, or back, on F2 (R351). -/
def State.crossBuddy (s : State) (p a n : Nat) : State :=
  match s.buddyWales p with
  | some (w :: l) => (w :: l).foldl (fun t v => t.waleTraffic v n) (s.count (pgMesh a) 1 n)
  | _ => s
/-- The engine is in Shutter. -/
def State.shuttered (s : State) : Bool := s.shut.st == .shuttered
/-- The FABRIC and MEM clocks stand or start: Shutter, or a wake from it (R379, R381). -/
def State.asleep (s : State) : Bool := s.shut.st == .shuttered || s.shut.st == .waking
/-- Retransmission and OPEN timers run (R305, R306). -/
def State.timersRun (s : State) (p : Nat) : Bool :=
  (s.port (s.carrier p)).link == 3 && !s.shuttered && !s.dieOut p
/-- Slots of a port that are not FREE. -/
def State.portUsed (s : State) (p : Nat) : Nat :=
  (s.flows.filter fun e => e.1 / 1024 == p && e.2.st != .free).length

/-! ### Sending -/

/-- The source LEID of a slot: its recorded one while CLOSING after the engine's LEID has changed
(R283). -/
def State.srcLeid (s : State) (x : Flow) : BitVec 20 := if x.st == .closing then x.leid else s.leid
/-- The slot may send at all: the engine has an LEID, or the slot closes under its recorded one; after
a withdrawal nothing is sent on any flow (R283, R358). -/
def State.maySend (s : State) (p : Nat) (x : Flow) : Bool :=
  s.portUp p && !s.keeper.withdrawn && (s.leid != 0 || (x.st == .closing && x.leid != s.leid))

/-- A frame of a slot, as the port sends it (R282-R284). -/
def State.frameOf (s : State) (p f : Nat) (x : Flow) (type vc : Nat) (flags : Byte) (id offset : Word)
    (length : BitVec 16) (body : TxBody) : TxFrame :=
  { port := p, carrier := s.carrier p, sport := BitVec.ofNat 16 (0xC000 + f), dstIp := x.peerIp,
    dport := x.peerUdp, dscp := s.dscp p vc, type := BitVec.ofNat 4 type, flags := flags,
    flow := x.peerFlow, gen := x.peerGen, src := s.srcLeid x, dst := x.peer, vc := BitVec.ofNat 2 vc,
    seq := 0, ack := x.rx, id := id, offset := offset, length := length, body := body }

/-- The packet a frame leaves in (R282): to NEXT_HOP_MAC, hop limit 64, flow label 0, the UDP checksum
computed. A port whose flows its buddy carries sends from the buddy's MAC address (assumption 99). -/
def State.packetOf (s : State) (f : TxFrame) : OutPacket :=
  let l := f.wire
  { dstMac := s.hopMac f.port, srcMac := s.portMac f.carrier, dscp := f.dscp, label := 0, hops := 64
    srcIp := s.portIp f.port, dstIp := f.dstIp, sport := f.sport, dport := f.dport
    csum := udpSum (s.portIp f.port) f.dstIp f.sport f.dport l, payload := l }
/-- A frame leaves in its packet. -/
def State.putFrame (s : State) (f : TxFrame) : State :=
  (s.crossBuddy f.port f.port (frameBytes f)).emit (.frame f (s.packetOf f))

/-- A frame leaves the port; frames sent are counted. What cannot leave is lost. -/
def State.sendFrame (s : State) (p : Nat) (x : Flow) (f : TxFrame) : State :=
  if s.maySend p x then (s.putFrame f).count (pgPort p) 0 else s

/-- A V0 frame of a slot that is not sequenced. -/
def State.sendV0 (s : State) (p f type : Nat) (body : TxBody) : State :=
  let x := s.flow p f
  s.sendFrame p x (s.frameOf p f x type 0 0 0 0 0 body)

/-- CREDIT with the current LIMIT and ACK. -/
def State.sendCredit (s : State) (p f : Nat) : State := s.sendV0 p f 3 (.creditB (s.flow p f).limitIn)

/-- CLOSE with the slot's counts (Table 12.3). -/
def State.sendClose (s : State) (p f : Nat) (reason : Byte) : State :=
  let x := s.flow p f
  s.sendV0 p f 5 (.closeB { reason := reason, finalSeq := x.finalSeq, sent := x.sent, limit := x.limitIn })

/-- The request OPEN of an OPENING slot: FLOW is PEER_FLOW_REQ, GEN 0, LIMIT 0 (R289). -/
def State.sendOpen (s : State) (p f : Nat) : State :=
  let x := s.flow p f
  let fr := s.frameOf p f x 4 0 0 0 0 0
    (.openB { senderFlow := BitVec.ofNat 16 f, senderGen := x.gen, initSeq := x.tx, limit := 0 } 0)
  s.sendFrame p x { fr with flow := x.peerReq, gen := 0 }

/-- The accepting OPEN (R290). -/
def State.sendAccept (s : State) (p f : Nat) : State :=
  let x := s.flow p f
  s.sendV0 p f 4
    (.openB { senderFlow := BitVec.ofNat 16 f, senderGen := x.gen, initSeq := x.tx, limit := x.limitIn } 1)

/-- A sequenced frame is sent with a new number and kept (R297, R298). One kept from an earlier use of the
slot holds its room in the store already (R294). -/
def State.sendKept (s : State) (p f : Nat) (k : Kept) : State :=
  let x := s.flow p f
  let fr := { k.frame with
    carrier := s.carrier p, sport := BitVec.ofNat 16 (0xC000 + f), dstIp := x.peerIp,
    dport := x.peerUdp, flow := x.peerFlow, gen := x.peerGen, src := s.srcLeid x, dst := x.peer,
    seq := x.tx, ack := x.rx }
  let s1 := s.setFlow p f
    { x with tx := x.tx + 1, sent := x.sent + BitVec.ofNat 64 k.bytes,
             kept := x.kept ++ [{ k with frame := fr, sends := 1 }] }
  let y := s1.port p
  let room := if k.sends = 0 then frameBytes fr else 0
  let s2 := (s1.setPort p { y with kept := y.kept + room }).sendFrame p x fr
  match fr.body with
  | .basketB .. => s2.count (pgCollect p) 2 k.bytes
  | _ => s2

/-- Resend kept frames that a condition picks: they are counted as resent. -/
def State.resend (s : State) (p f : Nat) (sel : Kept → Bool) : State :=
  let x := s.flow p f
  let hit := x.kept.filter sel
  let again := x.kept.map fun k => if sel k then { k with sends := k.sends + 1 } else k
  let s1 := s.setFlow p f { x with kept := again }
  hit.foldl (fun t k =>
    if t.maySend p x then
      (t.putFrame { k.frame with ack := x.rx, src := t.srcLeid x, carrier := t.carrier p }).count
        (pgPort p) 2
    else t) s1

/-! ### Baskets and streams on a port (R265, R302) -/

/-- Frames of basket b that a port still holds. -/
def State.basketHeld (s : State) (p b : Nat) : Bool :=
  s.flows.any fun e => e.1 / 1024 == p && (e.2.kept ++ e.2.queue).any fun k =>
    match k.frame.body with | .basketB n .. => n.toNat == b | _ => false

/-- A shard is SENT when every frame of it has been acknowledged (R265): the basket is then DONE. The
lag from decision to SENT is a time, a free value (Table 12.7). -/
def State.basketSent (s : State) (p : Nat) : State :=
  s.forEach (List.range 128) fun t b =>
    let x := t.dieBasket p b
    if x.st == .sending && x.owned.isEmpty && !t.basketHeld p b then
      let us := t.freeNow.toNat % 2 ^ 32
      ((((t.setDieBasket p b { x with st := if x.prior then .idle else .done, pub := none, inv := [], prior := false }).poke (pgPort p) 0x074
        (BitVec.ofNat 32 us)).peak (pgPort p) 0x078 us).freeNext)
    else t

/-- No frame of a stream's transfer is unacknowledged. -/
def State.xferClear (s : State) (p st t : Nat) : Bool :=
  !(s.flows.any fun e => e.1 / 1024 == p && (e.2.kept ++ e.2.queue).any fun k => k.xfer == some (st, t))

/-- PORT_OUT transfers all of whose frames are acknowledged complete (R302). -/
def State.streamsAcked (s : State) (p : Nat) (l : List (Nat × Nat)) : State :=
  s.forEach l.eraseDups fun t e =>
    if t.xferClear p e.1 e.2 && (t.stream p 72 e.1).out.any (·.t == e.2) then
      t.completeXfer p 72 e.1 e.2 false
    else t

/-- Bytes of frames. -/
def framesBytes (l : List Kept) : Nat := l.foldl (fun n k => n + frameBytes k.frame) 0
/-- Frames of a slot that the retransmit store holds: unacknowledged, or kept from an earlier use. -/
def Flow.held (x : Flow) : List Kept := x.kept ++ x.queue.filter (·.sends != 0)
def Flow.keptBytes (x : Flow) : Nat := framesBytes x.held
/-- Kept frames leave the retransmit store: they are acknowledged, or discarded. -/
def State.dropKept (s : State) (p f : Nat) (gone rest : List Kept) : State :=
  let s1 := s.setFlow p f { s.flow p f with kept := rest }
  let y := s1.port p
  s1.setPort p { y with kept := y.kept - framesBytes gone }

/-- An arriving ACK: frames below it are acknowledged; their credited bytes return (R296, R298). A slot
still OPENING has sent no sequenced frame, and what it keeps bears numbers of an earlier use (R294). -/
def State.takeAck (s : State) (p f : Nat) (ack : Word) : State :=
  let x := s.flow p f
  let done := x.kept.filter fun k => decide ((ack - k.frame.seq - 1).toNat < 2 ^ 31)
  if done.isEmpty || x.st == .opening then s
  else
    let rest := x.kept.filter fun k => !decide ((ack - k.frame.seq - 1).toNat < 2 ^ 31)
    let n := done.foldl (fun n k => n + k.bytes) 0
    let s1 := (s.dropKept p f done rest).ledReturn p lgFlowOut f n
    let s2 := s1.setFlow p f { s1.flow p f with acked := x.acked + BitVec.ofNat 64 n }
    (s2.streamsAcked p (done.filterMap (·.xfer))).basketSent p

/-- A LIMIT received: a lower one is ignored (R295). -/
def State.takeLimit (s : State) (p f : Nat) (l : DWord) : State :=
  let x := s.flow p f
  if x.limitOut.toNat < l.toNat then
    (s.setFlow p f { x with limitOut := l }).ledIssue p lgFlowOut f (l.toNat - x.limitOut.toNat)
  else s

/-- Credit granted to the peer (R228, R295). -/
def State.grantFlow (s : State) (p f n : Nat) : State :=
  let x := s.flow p f
  (s.setFlow p f { x with limitIn := x.limitIn + BitVec.ofNat 64 n }).ledIssue p lgFlowIn f n

/-! ### Receive checks (Table 12.4) -/

/-- Check 2: the UDP checksum, VERSION, TYPE, FLAGS, SUBTYPE, zero fields, LENGTH and size are right. A
payload has 64 to 8,192 bytes (R229); a frame without one has LENGTH 0. -/
def hdrOk (h : Hdr) : Bool :=
  h.csumOk && h.version == 1 && h.formOk && h.flags == 0 && h.zeroOk && h.sizeOk &&
  decide (h.vc.toNat < 4) && decide (h.length.toNat ≤ 8192) && h.length.toNat % 64 == 0 &&
  (if h.type = 0 then decide (64 ≤ h.length.toNat) else h.length == 0)

/-- A held-in-order flow: named by a VALID entry whose form is BF16_ROWS or PACKED (R297). -/
def State.inOrder (s : State) (p f : Nat) : Bool :=
  (List.range 32).any fun e =>
    let w := s.feCtl p e
    feValid w && feFlow w == f && feForm w != 0

/-- Checks 1 to 3; the register that counts the drop, or none. -/
def State.rxOuter (s : State) (p : Nat) (h : Hdr) : Option Nat :=
  if h.dstIp != s.portIp p || h.extHdr || !h.fits || h.udpDst != s.portUdp p then some 0x080
  else if !hdrOk h then some 0x084
  else
    let x := s.flow p h.flow.toNat
    if (leidOk s.leid && h.dst == s.leid) ||
        (decide (h.flow.toNat < 1024) && x.st == .closing && h.dst == x.leid) then none
    else some 0x088

/-- Check 5. -/
def State.rxSlot (s : State) (p : Nat) (h : Hdr) : Bool :=
  let x := s.flow p h.flow.toNat
  decide (h.flow.toNat < 1024) && x.st != .free && h.gen == x.gen && h.src == x.peer

/-- Check 6, for a credited frame of `n` bytes. A slot still OPENING expects no number yet. -/
def State.rxWindow (s : State) (p : Nat) (h : Hdr) (n : Nat) : Bool :=
  let f := h.flow.toNat
  let x := s.flow p f
  x.st != .opening &&
  (if s.inOrder p f then h.seq == x.rx else decide ((h.seq - x.rx).toNat < 1024)) &&
  decide (x.recv.toNat + n ≤ x.limitIn.toNat)

/-- The port takes frames: its carrier is ON with the link UP. -/
def State.portTakes (s : State) (p : Nat) : Bool := s.portUp p

/-- The ACK of a frame that names a slot. -/
def State.rxAck (s : State) (p : Nat) (h : Hdr) : State := s.takeAck p h.flow.toNat h.ack

/-- SEQ numbers that have arrived without a gap (R297). -/
def ackFrom (rx : Word) (got : List Word) (fuel : Nat) : Word :=
  match fuel with
  | 0 => rx
  | k + 1 => if got.contains rx then ackFrom (rx + 1) got k else rx

/-- A sequenced frame is taken: ACK advances past every contiguous number (R297); credited bytes
received are returned in the ledger (R296). -/
def State.takeSeq (s : State) (p f : Nat) (seq : Word) (bytes : Nat) : State :=
  let x := s.flow p f
  let got := seq :: x.got
  let rx := ackFrom x.rx got got.length
  let s1 := s.setFlow p f
    { x with rx := rx, got := got.filter (fun q => decide ((q - rx).toNat < 1024)),
             recv := x.recv + BitVec.ofNat 64 bytes }
  s1.ledReturn p lgFlowIn f bytes

/-- The gaps below the frames received, as ranges, at most 16 (R298). -/
def gapsOf (rx : Word) (got : List Word) (n : Nat) (open' : Option Word) (fuel : Nat) : List (Word × Word) :=
  match fuel with
  | 0 => []
  | k + 1 =>
    let cur := rx + BitVec.ofNat 32 n
    if got.contains cur then
      match open' with
      | some a => (a, cur - a) :: gapsOf rx got (n + 1) none k
      | none => gapsOf rx got (n + 1) none k
    else gapsOf rx got (n + 1) (some (open'.getD cur)) k

/-- NACK MISSING for ranges of numbers. -/
def State.nackRanges (s : State) (p f : Nat) (l : List (Word × Word)) : State :=
  (s.sendV0 p f 7 (.nackB { reason := 0, fetchTag := 0, ranges := l })).incSat (pgPort p) 0x094
/-- NACK MISSING for what a flow lacks. -/
def State.sendNack (s : State) (p f : Nat) : State :=
  let x := s.flow p f
  s.nackRanges p f ((gapsOf x.rx x.got 0 none 1024).take 16)

/-! ### Leaving FREE, entering OPEN -/

/-- A slot leaves FREE: the generation rises, the LEID in force is recorded, counts start again at
the opening (R283, R291). The first sequence number is the engine's choice: a free value. -/
def State.leaveFree (s : State) (p f : Nat) (st : FlSt) (peer : BitVec 20) (ip : BitVec 128)
    (udp pflow : BitVec 16) (pgen : Byte) : State :=
  let x := s.flow p f
  (s.setFlow p f
    { x with st := st, gen := x.gen + 1, cause := 0, peer := peer, peerIp := ip, peerUdp := udp,
             peerFlow := pflow, peerGen := pgen, leid := s.leid, eligible := false, openWait := false,
             tx := s.freeNow.extractLsb' 0 32, rx := 0, got := [], limitOut := 0, limitIn := 0,
             sent := 0, recv := 0, acked := 0, openSends := 0, peerFin := none, finalSeq := 0,
             lost := false }).freeNext

/-- Basket frames sent again carry RESENT (R294). -/
def markResent (b : TxBody) : TxBody :=
  match b with
  | .basketB n sh fl st inc ws c o d ln t data => .basketB n sh (fl ||| 8) st inc ws c o d ln t data
  | b => b

/-- A slot enters OPEN: frames kept from before are first in its queue, to be sent with new numbers; they
stay in the retransmit store (R294). Opens are counted. -/
def State.enterOpen (s : State) (p f : Nat) : State :=
  let x := s.flow p f
  let old := x.kept.map fun k => { k with frame := { k.frame with body := markResent k.frame.body } }
  (s.setFlow p f { x with st := .open, kept := [], queue := old ++ x.queue }).count pgFlows 0

/-- The request OPEN of a committed OPEN_REQ (R289). -/
def State.openNow (s : State) (p f : Nat) : State :=
  let x := s.flow p f
  let s1 := s.leaveFree p f .opening x.ctl x.cfgIp x.cfgUdp 0xFFFF 0
  let s2 := s1.setFlow p f { s1.flow p f with openSends := 1 }
  s2.sendOpen p f

/-- A slot returns to FREE with a cause; frames that R294 keeps stay, FETCH frames do not. -/
def State.toFree (s : State) (p f : Nat) (cause : BitVec 4) : State :=
  let x := s.flow p f
  let keep := x.kept.filter fun k => match k.frame.body with | .fetchB .. => false | _ => true
  let gone := x.kept.filter fun k => match k.frame.body with | .fetchB .. => true | _ => false
  let s1 := s.dropKept p f gone keep
  s1.setFlow p f { s1.flow p f with st := .free, cause := cause, peerFin := none, lost := false }

/-! ### Closing (R292) -/

/-- The ledgers of a CLOSING slot reconcile: both CLOSEs exchanged, everything below both FINAL_SEQ
acknowledged, the counts agree. What credit is left is returned and the slot is FREE. -/
def State.reconcile (s : State) (p f : Nat) : State :=
  let x := s.flow p f
  match x.peerFin with
  | none => s
  | some (fin, sent, limit) =>
    if x.st == .closing && x.rx == fin && sent == x.recv && decide (x.limitOut.toNat ≤ limit.toNat) &&
        (x.kept.isEmpty || x.lost) then
      let s1 := s.takeLimit p f limit
      let y := s1.flow p f
      let s2 := (s1.ledReturn p lgFlowIn f (y.limitIn.toNat - y.recv.toNat)).ledReturn p lgFlowOut f
        (y.limitOut.toNat - y.acked.toNat)
      (s2.count pgFlows 1).toFree p f x.cause
    else s

/-- The slot enters CLOSING with a cause and sends its CLOSE. A slot still OPENING knows no slot of its peer
that a CLOSE could name (R286), so it sends none (assumption 99); it has sent no frame of its own, so what it
keeps from before is not sent again in CLOSING. -/
def State.closeSlot (s : State) (p f : Nat) (reason : Byte) (cause : BitVec 4) : State :=
  let x := s.flow p f
  let s1 := s.setFlow p f
    { x with st := .closing, cause := cause, finalSeq := x.tx, openWait := false,
             lost := x.lost || x.st == .opening }
  if x.st == .opening then s1 else s1.sendClose p f reason

/-- The slot's ledgers are written off and it becomes FREE (R292). -/
def State.writeOff (s : State) (p f : Nat) : State :=
  let x := s.flow p f
  let s1 := (s.ledWoff p lgFlowIn f (x.limitIn.toNat - x.recv.toNat)).ledWoff p lgFlowOut f
    (x.limitOut.toNat - x.acked.toNat)
  let s2 := (s1.poke pgFlows 0x07C (BitVec.ofNat 32 (p * 2 ^ 26 + f * 2 ^ 16 + x.gen.toNat * 256))).poke
    pgFlows 0x080 (x.peer.zeroExtend 32)
  ((s2.raise pgFlows 0x0503).count pgFlows 2).toFree p f 7

end Sys2Proof.Machine
end

