-- ==== Sys2Proof/Machine/FetchOps.lean ====
section
/-! DEFINITION. Weight walks as operations (R224-R243): the FETCH, the bytes a walk takes in, INGEST,
failures and re-fetches, what a replay and a step do to a walk. -/

namespace Sys2Proof.Machine

/-! ### Fetch entries (Table 10.4) -/

def feFormIs (w : Word) (n : Nat) : Bool := feForm w == n
/-- COLS64 of an entry. -/
def State.feCols (s : State) (d e : Nat) : Nat := fieldOf (s.feGeom d e) 4 0
/-- Shard of walk n of an entry (R225). -/
def State.feShard (s : State) (d e : Nat) : Word :=
  s.reg (pgDecrypt d) (0x104 + 16 * e) +
    BitVec.ofNat 32 ((s.fetch d e).n * fieldOf (s.feGeom d e) 31 16)
/-- The key slot of an entry. -/
def State.feKeySlot (s : State) (d e : Nat) : KeySlot := s.keySlot d (feKey (s.feCtl d e))
/-- KEY_ID as the pages show it: 0 when not VALID. -/
def KeySlot.id' (k : KeySlot) : BitVec 16 := if k.valid then k.keyId else 0

/-- Bytes of the walk's shard as the FETCH names them: the bytes written for WEAVE, the BF16 matrix
for BF16_ROWS. -/
def State.shardBytes (s : State) (d e : Nat) : Nat :=
  let x := s.stream d 72 (feStream (s.feCtl d e))
  if feFormIs (s.feCtl d e) 0 then x.walkLen * x.size else x.walkLen * 8192

/-! ### The FETCH (R227, R228) -/

/-- The next tag of an entry: consecutive from 1, skipping 0. -/
def Fetch.takeTag (f : Fetch) : BitVec 16 × Fetch :=
  (f.nextTag, { f with nextTag := if f.nextTag = 0xFFFF then 1 else f.nextTag + 1 })

/-- First byte not yet written of a walk's shard. -/
def coveredTo (l : List (Nat × Nat)) (a fuel : Nat) : Nat :=
  match fuel with
  | 0 => a
  | k + 1 => match l.find? fun r => decide (r.1 ≤ a ∧ a < r.2) with
    | some r => coveredTo l r.2 k
    | none => a
/-- Every byte of `[a, b)` has been written. -/
def covered (l : List (Nat × Nat)) (a b : Nat) : Bool := decide (b ≤ coveredTo l a (l.length + 1))

/-- A walk begins: it takes its tag, and its FETCH is due (R227). After a replay it starts at the first byte
not yet written (R242); the walk after a wake sends REASON 2 (R246). -/
def State.fetchBegin (s : State) (d e : Nat) : State :=
  let f := s.fetch d e
  let (t, f1) := f.takeTag
  let packed := feFormIs (s.feCtl d e) 2
  let from' := if packed then f.resume else coveredTo f.written 0 (f.written.length + 1)
  s.setFetch d e
    { f1 with tag := t, tag2 := 0, wver := f.version, st := .fetching, fails := 0, raw := [], sent := false,
              reason := if f.woken then 2 else f.reason, encLen := 0, taken := from', due := true,
              reqOff := from', reqLen := if packed then 0 else s.shardBytes d e - from' }

/-- Credit that one transfer grants (R228). -/
def State.fetchCredit (s : State) (d e : Nat) : Nat :=
  match feForm (s.feCtl d e) with
  | 0 => (s.stream d 72 (feStream (s.feCtl d e))).size
  | 1 => 8192
  | _ => 8704

/-- What an issued transfer grants. A walk begins with its first transfer; one that has failed for good does
not begin again before the replay (R242). -/
def State.fetchGrant (s : State) (d e : Nat) : State :=
  let f := s.fetch d e
  let s1 := if f.st == .idle || f.st == .done then s.fetchBegin d e else s
  let n := s1.fetchCredit d e
  let fl := feFlow (s1.feCtl d e)
  if (s1.flow d fl).st == .open then s1.grantFlow d fl n
  else s1.setFetch d e { s1.fetch d e with owed := (s1.fetch d e).owed + n }

/-- The FETCH frame (Table 10.1). -/
def State.fetchFrame (s : State) (d e : Nat) : Kept :=
  let w := s.feCtl d e
  let f := s.fetch d e
  let fl := feFlow w
  let tag := if f.tag2 != 0 then f.tag2 else f.tag
  { frame := s.frameOf d fl (s.flow d fl) 2 0 0 0 0 0
      (.fetchB (s.feShard d e) f.wver (BitVec.ofNat 32 (f.reqOff / 64)) (BitVec.ofNat 32 f.reqLen) tag
        (s.feKeySlot d e).id' (BitVec.ofNat 8 (feForm w)) (s.stream d 72 (feStream w)).kind
        (BitVec.ofNat 8 (s.feCols d e)) f.reason)
    sends := 0, bytes := 0, xfer := none }

/-! ### Failures and re-fetches (R240-R242) -/

/-- INGEST gives up what it holds of an entry. -/
def State.dropIngest (s : State) (d e : Nat) : State :=
  let g := s.ingest d
  s.setIngest d { g with bands := g.bands.filter (·.entry != e), waits := g.waits.filter (·.1 != e) }

/-- LAST_FAIL of the DECRYPT page. -/
def State.noteFail (s : State) (d e cause off : Nat) : State :=
  s.poke (pgDecrypt d) 0x060 (BitVec.ofNat 32 (cause * 2 ^ 28 + e * 2 ^ 20 + off / 64 % 2 ^ 20))

/-- A consumer's budget has ended and its breach is not handled yet: 0x0306 is then not raised (R239). -/
def State.budgetBroken (s : State) : Bool := s.prog.breaches.any (·.code == 0x0302)

/-- A walk cannot go on: 0x0306 (R242). -/
def State.fetchLost (s : State) (d e : Nat) : State :=
  let s1 := (s.setFetch d e { s.fetch d e with st := .failed, due := false }).dropIngest d e
  if s1.budgetBroken then s1 else s1.breach 0x0306 d 0 2 (feStream (s.feCtl d e))

/-- Memory keys that byte `o` of a walk's transfer `t` is written to, in every quarter of QCOPY; none in
memory that is gone (R184). -/
def State.walkKeys (s : State) (d e t o : Nat) : List Nat :=
  let w := s.feCtl d e
  let x := s.stream d 72 (feStream w)
  match s.resolve (x.far t + o) with
  | none => []
  | some k =>
    if s.lostKey (some k) then []
    else if feQcopy w = 0 then [k]
    else (maskQuarters (feQcopy w)).map fun q => d * 2 ^ 42 + 2 ^ 40 + q * 2 ^ 24 + k % 2 ^ 24

/-- The walk has completed: the count rises, its item carries what it was fetched as (R225, R241). -/
def State.fetchEnd (s : State) (d e : Nat) : State :=
  let f := s.fetch d e
  let x := s.stream d 72 (feStream (s.feCtl d e))
  if decide (x.walk ≤ x.done) && (f.st == .fetching || f.st == .refetch) then
    let tag : ItemTag := { keyId := (s.feKeySlot d e).id', shard := s.feShard d e, version := f.wver }
    let keys := (s.walkKeys d e 0 0).filter fun k => addrKind k == 1
    let tags := keys.foldl (fun m k => SMap.set none m k (some tag)) s.weights.tags
    let s1 := { s with weights := { s.weights with tags := tags } }
    s1.setFetch d e
      { f with n := f.n + 1, st := .done, reason := 0, woken := false, written := [], raw := [], recs := 0,
               fed := 0, resume := 0, skip := 0, due := false }
  else s

/-- Outstanding transfers of a walk whose bytes are all written complete; one whose destination is gone is
abandoned (R184). -/
def State.fetchComplete (s : State) (d e : Nat) (ok : Nat → Bool) : State :=
  let st := feStream (s.feCtl d e)
  let ts := ((s.stream d 72 st).out.map (·.t)).filter ok
  (ts.foldl (fun t k => t.completeXfer d 72 st k (s.walkKeys d e k 0).isEmpty) s).fetchEnd d e

/-- Bytes of a WEAVE walk are written from shard offset `o` on, whole words in every copy (R231). -/
def State.fetchWrite (s : State) (d e o : Nat) (l : List MWord) : State :=
  let x := s.stream d 72 (feStream (s.feCtl d e))
  let n := max 1 x.size
  let put := (l.zipIdx).foldl (fun (t : State) c =>
    let b := o + 8 * c.2
    (s.walkKeys d e (b / n) (b % n)).foldl (fun u k => u.storeWords k [c.1]) t) s
  let f := put.fetch d e
  let w := f.written ++ [(o, o + 8 * l.length)]
  (put.setFetch d e { f with written := w }).fetchComplete d e fun t => covered w (t * n) (t * n + n)

/-- A memory key is the start of a slot of one of a die's round contexts. -/
def State.isRoundSlot (s : State) (d k : Nat) : Bool :=
  (List.range 4).any fun c => (maskQuarters (s.stream d 72 (s.ctxStream d c)).qmask).any fun q =>
    (List.range (s.ctxSlots d c)).any fun i => s.slotStart d c q i == k

/-- A neighbour on the path that holds, in a round slot, the item a walk fetches; the predecessor is
preferred (R241). -/
def State.fetchHolder (s : State) (d e : Nat) : Option (Nat × Nat) :=
  let f := s.fetch d e
  let want : ItemTag := { keyId := (s.feKeySlot d e).id', shard := s.feShard d e, version := f.wver }
  [s.pathPred d, s.pathSucc d].findSome? fun n =>
    if n = d || !s.dieLive n || f.wver = 0 then none
    else (s.weights.tags.find? fun t => t.2 == some want && addrDie t.1 == n && s.isRoundSlot n t.1).map fun t => (n, t.1)

/-- Copy a failed range from a neighbour's item over the wale on F2: poison travels with it. -/
def State.fetchCopy (s : State) (d e : Nat) (n from' : Nat) (o len : Nat) : State :=
  let x := s.stream d 72 (feStream (s.feCtl d e))
  let m := max 1 x.size
  let ws := (List.range (len / 8)).map fun i =>
    let b := o + 8 * i
    let k := ((from' : Int) + x.offset (b / m) + (b % m : Nat)).toNat
    s.peek (k / 8)
  let s1 := s.noteReads srcStream from' len
  let s2 := match waleOf n d with | some w => s1.waleTraffic w len | none => s1
  ((s2.count (pgMesh n) 1 len).fetchWrite d e o ws).incSat (pgDecrypt d) 0x054

/-- The flow of an entry can carry a FETCH. -/
def State.fetchFlowOpen (s : State) (d e : Nat) : Bool := (s.flow d (feFlow (s.feCtl d e))).st == .open

/-- A walk fails on the range `[o, o + len)` (R240, R241): once it re-fetches, from a neighbour or from
the server, in WEAVE form the range and otherwise the rest of the walk from what it has taken; a second
failure, or a flow that has closed, is 0x0306. -/
def State.failWalk (s : State) (d e cause o len : Nat) : State :=
  let w := s.feCtl d e
  let f := s.fetch d e
  let s1 := (s.noteFail d e cause o).setFetch d e { f with fails := f.fails + 1 }
  if f.fails != 0 || cause = 6 || !s.fetchFlowOpen d e then s1.fetchLost d e
  else
    match (if feFormIs w 0 then s1.fetchHolder d e else none) with
    | some (n, k) => s1.fetchCopy d e n k o len
    | none =>
      let f1 := s1.fetch d e
      let (t, f2) := f1.takeTag
      let f3 := if feFormIs w 0 then { f2 with tag2 := t, reqOff := o, reqLen := len }
        else { f2 with tag := t, reqOff := f2.taken
                       reqLen := if feFormIs w 2 then 0 else s1.shardBytes d e - f2.taken }
      (s1.setFetch d e { f3 with st := .refetch, due := true, reason := 1 }).incSat (pgDecrypt d) 0x058

/-- Walks of a flow that wait for data fail with a cause (Table 12.2, R240). -/
def State.failFlow (s : State) (d fl cause : Nat) : State :=
  s.forEach (List.range 32) fun t e =>
    let w := t.feCtl d e
    let f := t.fetch d e
    if feValid w && feFlow w == fl && (f.st == .fetching || f.st == .refetch) then
      t.failWalk d e cause f.reqOff f.reqLen
    else t

/-! ### INGEST (R236-R238) -/

/-- Element (r, c) of a band of BF16 rows of `cols` columns. -/
def bandEl (band : List Byte) (cols r c : Nat) : Val :=
  let i := 2 * (r * cols + c)
  elemVal .bf16 ((band.getD i 0).toNat + 256 * (band.getD (i + 1) 0).toNat) 0

/-- A record of a kind from 64 x 64 values: its bytes, saturated and INVALID elements. -/
def recordOf (kind : Byte) (v : Nat → Nat → Val) : List Byte × Nat × Nat :=
  let f := (kindFmt kind).getD .l8
  let r64 := List.range 64
  let rows := r64.map fun r => r64.map (v r ·)
  let scales := if !kindScaled kind then List.replicate 64 0
    else if kindAxis kind then r64.map fun c => blockScale f (r64.map (v · c))
    else rows.map (blockScale f)
  let es := rows.zipIdx.flatMap fun x => x.1.zipIdx.map fun y =>
    encode f (scales.getD (if kindAxis kind then y.2 else x.2) 0) none y.1
  let bad := (rows.flatMap fun x => x.filter (· == .invalid)).length
  ((es.flatMap fun x => leBytes (kindBytes kind) x.1) ++
    (if kindScaled kind then scales.map fun b => BitVec.ofInt 8 b else []),
   (es.filter (·.2)).length, bad)

/-- Row bytes of a band of an entry. -/
def State.bandBytes (s : State) (d e : Nat) : Nat := 8192 * max 1 (s.feCols d e)

/-- A whole band becomes the COLS64 records of a tile row (R236). -/
def State.ingestBand (s : State) (d e : Nat) (band : List Byte) : State :=
  let w := s.feCtl d e
  let st := feStream w
  let x := s.stream d 72 st
  let cols := max 1 (s.feCols d e)
  let f := s.fetch d e
  let recs := (List.range cols).map fun j => recordOf x.kind fun r c => bandEl band (64 * cols) r (64 * j + c)
  let s1 := (recs.zipIdx).foldl (fun (t : State) c =>
    (t.walkKeys d e (f.recs + c.2) 0).foldl
      (fun u k => u.storeWords k (bytesWords (c.1.1.length / 8) c.1.1)) t) s
  let s2 := s1.setFetch d e
    { s1.fetch d e with recs := f.recs + cols,
                        written := (s1.fetch d e).written ++ [(f.recs * 8192, (f.recs + cols) * 8192)] }
  let s3 := ((s2.incSat (pgIngest d) 0x048 (recs.foldl (fun n r => n + r.2.1) 0)).incSat (pgIngest d) 0x04C
    (recs.foldl (fun n r => n + r.2.2) 0)).count (pgIngest d) 1 cols
  (s3.poke (pgIngest d) 0x040 (BitVec.ofNat 32 e)).fetchComplete d e fun t =>
    decide (f.recs ≤ t ∧ t < f.recs + cols)

/-- A band is whole and all its transfers have issued: it can be converted. A slot still in use never
receives new weights (R228). -/
def State.bandReady (s : State) (d : Nat) (b : Band) : Bool :=
  decide (b.bytes.length = s.bandBytes d b.entry) &&
  decide ((s.fetch d b.entry).recs + max 1 (s.feCols d b.entry) ≤
    (s.stream d 72 (feStream (s.feCtl d b.entry))).issued)

/-- The data that arrived first enters its entry's band, or a free one of the two; none where it must wait
for room (R238). -/
def State.placeBand (s : State) (d : Nat) : Option State :=
  let g := s.ingest d
  match g.waits with
  | [] => none
  | (e, l) :: r =>
    let n := s.bandBytes d e
    let open' := g.bands.find? fun b => b.entry == e && decide (b.bytes.length < n)
    match open' with
    | some b =>
      let m := n - b.bytes.length
      let rest := if l.length ≤ m then r else (e, l.drop m) :: r
      some (s.setIngest d { g with
        bands := g.bands.map fun c => if c = b then { b with bytes := b.bytes ++ l.take m } else c, waits := rest })
    | none =>
      if 2 ≤ g.bands.length then none
      else
        let rest := if l.length ≤ n then r else (e, l.drop n) :: r
        some (s.setIngest d { bands := g.bands ++ [{ entry := e, bytes := l.take n }], waits := rest, used := true })

/-- INGEST converts what it can and takes in what waits. -/
def State.ingestPump (s : State) (d fuel : Nat) : State :=
  match fuel with
  | 0 => s
  | k + 1 =>
    match (s.ingest d).bands.find? (s.bandReady d) with
    | some b =>
      let g := s.ingest d
      ((s.setIngest d { g with bands := g.bands.erase b }).ingestBand d b.entry b.bytes).ingestPump d k
    | none =>
      match s.placeBand d with
      | some t => t.ingestPump d k
      | none => s

/-- Steps that INGEST can take: each band is placed and converted once, and each item may end a band. -/
def Ingest.steps (g : Ingest) : Nat :=
  g.bands.length + 2 * g.waits.length + 2 * (g.waits.foldl (fun n w => n + w.2.length) 0 / 8192) + 2
def State.ingestRun (s : State) (d : Nat) : State := s.ingestPump d (s.ingest d).steps

/-- BF16 bytes reach INGEST and are counted (R245). -/
def State.feed (s : State) (d e : Nat) (l : List Byte) : State :=
  let f := s.fetch d e
  let s1 := (s.setFetch d e { f with fed := f.fed + l.length }).count (pgIngest d) 0 (l.length / 2)
  let g := s1.ingest d
  (if l.isEmpty then s1 else s1.setIngest d { g with waits := g.waits ++ [(e, l)] }).ingestRun d

/-- A transfer of a PORT_IN walk issues: the first begins the walk; each grants credit on the entry's
flow, at once where the flow is OPEN and otherwise with the FETCH. A band that waited for it is converted. -/
def State.fetchIssue (s : State) (d e : Nat) : State := (s.fetchGrant d e).ingestRun d

/-- Bytes of one run of 64 elements, from its mask and values (R237). -/
def runBytes (mask : DWord) (n : Nat) (l : List Byte) : List Byte :=
  match n with
  | 0 => []
  | k + 1 =>
    if mask.getLsbD (64 - (k + 1)) then l.take 2 ++ runBytes mask k (l.drop 2)
    else 0 :: 0 :: runBytes mask k l

/-- Whole runs at the head of the encoded bytes, at most `fuel`, each with its encoded length, and what is
left. -/
def unpackRuns (fuel : Nat) (l : List Byte) : List (List Byte × Nat) × List Byte :=
  match fuel with
  | 0 => ([], l)
  | k + 1 =>
    let mask : DWord := BitVec.ofNat 64 (leNat (l.take 8))
    let need := 8 + 2 * ((List.range 64).filter fun i => mask.getLsbD i).length
    if l.length < 8 || l.length < need then ([], l)
    else
      let (a, r) := unpackRuns k (l.drop need)
      ((runBytes mask 64 (l.drop 8), need) :: a, r)

/-- Encoded offsets at which bands start, from run `i` at offset `p` on. -/
def bandStarts (i p n : Nat) (l : List (List Byte × Nat)) : List Nat :=
  match l with
  | [] => []
  | r :: t => if (i + 1) % n = 0 then (p + r.2) :: bandStarts (i + 1) (p + r.2) n t
    else bandStarts (i + 1) (p + r.2) n t

/-- A PACKED payload is decoded (R237): a stream that ends early, late, or with padding that is not
zero fails as a format error, and nothing of the payload is taken. -/
def State.takePacked (s : State) (d e o : Nat) (enc : Word) (l : List Byte) : State :=
  let f := s.fetch d e
  let left := s.shardBytes d e / 128 - f.fed / 128
  let (runs, rest) := unpackRuns left (f.raw ++ l.drop f.skip)
  let taken := f.taken + l.length
  let full := runs.length == left
  let ends := decide (rest.length < 64) && rest.all (· == 0) && enc.toNat == taken
  if (full && !ends) || (decide (enc.toNat ≤ taken) && !full) then
    (s.incSat (pgIngest d) 0x044).failWalk d e 4 o l.length
  else
    let starts := bandStarts (f.fed / 128) (f.taken + f.skip - f.raw.length) (64 * max 1 (s.feCols d e)) runs
    let s1 := s.setFetch d e
      { f with raw := rest, skip := 0, encLen := enc, taken := taken
               encPos := SMap.upd [] f.encPos f.n (· ++ starts) }
    s1.feed d e (runs.flatMap (·.1))

/-! ### WEIGHT frames (R230, R231) -/

/-- The entry whose current walk a frame's tag names. -/
def State.fetchOf (s : State) (d fl : Nat) (tag : BitVec 16) : Option Nat :=
  (List.range 32).find? fun e =>
    let w := s.feCtl d e
    let f := s.fetch d e
    feValid w && feFlow w == fl && (f.st == .fetching || f.st == .refetch) &&
      (tag == f.tag || (f.tag2 != 0 && tag == f.tag2))

/-- A discarded frame (R230, step 1). -/
def State.stale (s : State) (d : Nat) : State := (s.incSat (pgDecrypt d) 0x05C).count (pgDecrypt d) 2

/-- The initialisation vector of a payload (R231): VERSION, SHARD and OFFSET. -/
def gcmIv (h : Hdr) (w : WeightBody) : List Byte :=
  leBytes 4 w.version.toNat ++ leBytes 4 h.id.toNat ++ leBytes 4 h.offset.toNat
/-- The additional authenticated data (R231): the 16-byte prefix of Table 10.2, SHARD and the length. -/
def gcmAad (h : Hdr) (w : WeightBody) : List Byte :=
  leBytes 4 w.version.toNat ++ leBytes 2 w.fetchTag.toNat ++ leBytes 2 w.keyId.toNat ++
  leBytes 4 w.encLength.toNat ++ zeroBytes 4 ++ leBytes 4 h.id.toNat ++ leBytes 4 h.length.toNat
/-- The plaintext of a payload, as long as the payload; none where the tag fails. -/
def gcmOpen (key : BitVec 256) (h : Hdr) (w : WeightBody) : Option (List Byte) :=
  if Config.gcmOk key (gcmIv h w) (gcmAad h w) w.data w.tag then
    some ((List.range w.data.length).map (Config.gcmPlain key (gcmIv h w) w.data))
  else none

/-- End of the range that a walk's frames may cover. A WEAVE frame may not reach a transfer that has not
issued: the slot it would write may still be in use (R228; assumption 97). Of a PACKED walk whose length is
not known yet it is the largest encoded size. -/
def State.walkLast (s : State) (d e : Nat) : Nat :=
  let c := s.feCtl d e
  let x := s.stream d 72 (feStream c)
  match feForm c with
  | 0 => min (s.shardBytes d e) (x.issued * x.size)
  | 1 => s.shardBytes d e
  | _ => if (s.fetch d e).encLen = 0 then 8704 * x.walkLen else (s.fetch d e).encLen.toNat

/-- A WEIGHT frame that the flow has taken (R230). -/
def State.takeWeight (s : State) (d : Nat) (h : Hdr) (w : WeightBody) : State :=
  match s.fetchOf d h.flow.toNat w.fetchTag with
  | none => s.stale d
  | some e =>
    let c := s.feCtl d e
    let f := s.fetch d e
    let o := h.offset.toNat * 64
    let len := h.length.toNat
    let weave := feFormIs c 0
    let packed := feFormIs c 2
    if h.id != s.feShard d e || decide (s.walkLast d e < o + len) ||
        (weave && covered f.written o (o + len)) || (!weave && decide (o + len ≤ f.taken)) then s.stale d
    else if !weave && o != f.taken then s.failWalk d e 4 f.taken len
    else if w.keyId != (s.feKeySlot d e).id' || !(s.feKeySlot d e).valid then
      (s.incSat (pgDecrypt d) 0x050).failWalk d e 2 o len
    else if w.version = 0 || (f.wver != 0 && w.version != f.wver) then
      (s.incSat (pgDecrypt d) 0x050).failWalk d e 3 o len
    else
      match gcmOpen (s.feKeySlot d e).key h w with
      | none => (s.incSat (pgDecrypt d) 0x04C).failWalk d e 1 o len
      | some pt =>
        if packed && f.encLen != 0 && w.encLength != f.encLen then
          (s.incSat (pgIngest d) 0x044).failWalk d e 4 o len
        else
          let s1 := s.setFetch d e
            { f with wver := w.version, version := if f.version = 0 then w.version else f.version }
          let s2 := (s1.count (pgDecrypt d) 0).count (pgDecrypt d) 1 pt.length
          if weave then s2.fetchWrite d e o (bytesWords (pt.length / 8) pt)
          else if packed then s2.takePacked d e o w.encLength pt
          else (s2.setFetch d e { s2.fetch d e with taken := f.taken + pt.length }).feed d e pt

/-! ### Steps and replays (R225, R242, R243) -/

/-- A step begins, or an image applies (`fresh`): counts and versions start again; tags start at 1
with an image. That the next walk follows a wake stands. -/
def State.fetchStep (s : State) (d : Nat) (fresh : Bool) : State :=
  (s.setIngest d { Ingest.reset with used := (s.ingest d).used }).forEach (List.range 32) fun t e =>
    let f := t.fetch d e
    t.setFetch d e { Fetch.reset with nextTag := if fresh then 1 else f.nextTag, woken := f.woken }

/-- Every walk that has not completed is abandoned (R242); a walk that Shutter ends leaves REASON 2 to the
next (R246). -/
def State.fetchAbandon (s : State) (d : Nat) (asleep : Bool) : State :=
  (s.setIngest d { Ingest.reset with used := (s.ingest d).used }).forEach (List.range 32) fun t e =>
    let f := t.fetch d e
    t.setFetch d e
      { f with st := .idle, tag := 0, tag2 := 0, due := false, sent := false, owed := 0, raw := []
               reason := if asleep then f.reason else 2
               woken := f.woken || (asleep && (f.st == .fetching || f.st == .refetch)) }

/-- After a restore, a walk stands at transfer `i` of its `n`-th walk: its next FETCH starts at the
first byte not yet written (R242), which in BF16_ROWS and PACKED form starts a band. -/
def State.fetchRestore (s : State) (d e n i : Nat) : State :=
  let c := s.feCtl d e
  let f := s.fetch d e
  let x := s.stream d 72 (feStream c)
  let cols := max 1 (s.feCols d e)
  let band := i / cols * cols
  match feForm c with
  | 0 => s.setFetch d e { f with n := n, written := if i = 0 then [] else [(0, i * x.size)] }
  | 1 =>
    s.setFetch d e { f with n := n, recs := band, fed := band * 8192
                            written := if band = 0 then [] else [(0, band * 8192)] }
  | _ =>
    let starts := (SMap.get [] f.encPos n).take (i / cols)
    let pos := if i < cols then 0 else starts.getLastD 0
    s.setFetch d e { f with n := n, recs := band, fed := band * 8192, written := [], resume := pos / 64 * 64
                            skip := pos % 64
                            encPos := SMap.set [] (f.encPos.filter (·.1 < n)) n starts }

end Sys2Proof.Machine
end

