-- ==== Sys2Proof/Machine/BundleOps.lean ====
section
/-! DEFINITION. Bundles as operations (R313-R324): contexts and scopes, staging, the rules that bind a
staged write, application, abort, internal bundles, and program bundles. -/

namespace Sys2Proof.Machine

/-! ### Owners and scopes (R313, R314) -/

/-- Owners of a page: dies, or 64 for the engine. -/
def pageOwners (page : Nat) : List Nat :=
  if isDiePage page then [pageDie page]
  else if 0x40 ≤ page && page < 0x80 then [page - 0x40]
  else if 0x100 ≤ page && page < 0x1D2 then
    let e := waleEnds (page - 0x100)
    [e.1, e.2]
  else [64]

/-- A context forms a bundle now. -/
def BndCtx.live (x : BndCtx) : Bool := x.st == .open || x.st == .preparing
/-- A bundle's scope covers a page (R314). -/
def BndCtx.covers (x : BndCtx) (page : Nat) : Bool :=
  x.inEngine || (pageOwners page).all fun o => decide (o < 64) && x.inScope.getLsbD o
/-- A bundle's scope covers an owner of the page: the context that a write to it would go to. -/
def BndCtx.touches (x : BndCtx) (page : Nat) : Bool :=
  x.inEngine || (pageOwners page).any fun o => decide (o < 64) && x.inScope.getLsbD o
/-- Two scopes overlap. -/
def scopesMeet (e1 : Bool) (m1 : DWord) (e2 : Bool) (m2 : DWord) : Bool :=
  e1 || e2 || (m1 &&& m2) != 0

/-- Contexts in force: the six of R313, by number. -/
def ctxList : List Nat := List.range 6

/-- Participants of a commit: the live dies of the scope and, for an engine scope, the slath (64) for
the engine-level pages (assumption 15). -/
def State.ctxParts (s : State) (x : BndCtx) : List Nat :=
  (s.liveDies.filter fun d => x.inEngine || x.inScope.getLsbD d) ++ (if x.inEngine then [64] else [])

/-- Participant that answers for a page: its first owner among the participants. -/
def State.pagePart (s : State) (x : BndCtx) (page : Nat) : Nat :=
  ((s.ctxParts x).find? fun p => (pageOwners page).contains p).getD 64

/-- Where a participant stands. -/
def BndCtx.part (x : BndCtx) (p : Nat) : PartSt := SMap.get .none x.parts p
def BndCtx.setPart (x : BndCtx) (p : Nat) (v : PartSt) : BndCtx :=
  { x with parts := SMap.set .none x.parts p v }

/-! ### Staging (R315) -/

/-- The key under which a register is staged once. -/
def Staged.same (a b : Staged) : Bool := a.page == b.page && a.off == b.off && a.slot == b.slot
/-- The place of a write as ABORT_WHERE records it. -/
def whereOf (page off : Nat) : Word := BitVec.ofNat 32 (page % 2 ^ 14 * 2 ^ 16 + off % 2 ^ 12)

/-- Mark a commit to abort, keeping the lowest place for the first reason. -/
def BndCtx.markAbort (x : BndCtx) (r : Byte) (page off : Nat) : BndCtx :=
  if x.mark = 0 then { x with mark := r, wher := whereOf page off }
  else if x.mark = r && decide ((whereOf page off).toNat < x.wher.toNat) then { x with wher := whereOf page off }
  else x

/-- A host write to an RS register (R315). -/
def State.stage (s : State) (w : Staged) : State :=
  let find := fun (f : BndCtx → Bool) => ctxList.find? fun c => f (s.bctx c)
  match find fun x => x.st == .open && x.covers w.page with
  | some c =>
    let x := s.bctx c
    if x.staged.any (·.same w) then
      s.setBctx c { x with staged := w :: x.staged.filter fun v => !v.same w }
    else if 4096 ≤ x.staged.length then s.setBctx c (x.markAbort 4 w.page w.off)
    else s.setBctx c { x with staged := w :: x.staged }
  | none =>
    match find fun x => x.st == .open && x.touches w.page with
    | some c => s.setBctx c ((s.bctx c).markAbort 5 w.page w.off)
    | none => s.incSat pgBundle 0x060

/-! ### The live copy and what a commit would make of it -/

/-- Live value of an RS register; the FLOWS registers are those of the staged slot. -/
def State.liveReg (s : State) (page off slot : Nat) : Word :=
  if page = pgFlows then
    let x := s.flow (slot / 1024) (slot % 1024)
    match off with
    | 0x044 => x.ctl.zeroExtend 32
    | 0x048 => x.peerReq ++ x.cfgUdp
    | 0x04C => x.cfgIp.extractLsb' 0 32
    | 0x050 => x.cfgIp.extractLsb' 32 32
    | 0x054 => x.cfgIp.extractLsb' 64 32
    | 0x058 => x.cfgIp.extractLsb' 96 32
    | _ => 0
  else s.reg page off

/-- The value a register has after a bundle's writes. -/
def State.after (s : State) (l : List Staged) (page off slot : Nat) : Word :=
  match l.find? fun v => v.page == page && v.off == off && v.slot == slot with
  | some v => v.val
  | none => s.liveReg page off slot

/-- The bundle changes a register. -/
def State.changes (s : State) (w : Staged) : Bool := w.val != s.liveReg w.page w.off w.slot

/-- PSTATE is RUNNING or REPLAY. -/
def State.running (s : State) : Bool := s.prog.pst == .running || s.prog.pst == .replay

/-- A committed RUN = 1 is about to start the program (RUN). -/
def State.aboutToRun (s : State) : Bool :=
  s.prog.runReq && (s.reg pgProgram 0x040).getLsbD 0 && (s.prog.pst == .ready || s.prog.pst == .stepHold)

/-- A die is out of the grid and is not coming back: one that the host readmits counts as not out while it
boots, so that no step starts without it (R24, R208, R347). -/
def State.staysOut (s : State) (d : Nat) : Bool :=
  s.dieOut d && !(s.die d).readmit && !s.keeper.inReq.getLsbD d

/-! ### The rules that bind a staged write (step 3 of Table 13.2) -/

/-- Live values of the ROUND path registers after a bundle. -/
def State.withPath (s : State) (l : List Staged) : State :=
  (l.filter fun v => isDiePage v.page && pageOff v.page == 6 && (v.off == 0x040 || v.off == 0x044)).foldl
    (fun t v => t.poke v.page v.off v.val) s

/-- The path rules of R174 for a bundle that stages a path register. -/
def State.pathRule (s : State) (l : List Staged) (w : Staged) : Bool :=
  let t := s.withPath l
  let src := fun d => (t.reg (pgRound d) 0x040).getLsbD 0
  let ds := allDies.filter fun d => !s.dieOut d
  let same := ds.all fun d => src d == src (ds.headD 0)
  let needHost := (w.off == 0x040 && w.val.getLsbD 0) || (w.off == 0x044 && s.changes w)
  let next := if t.pathHost then t.hostCycle.getD [] else t.autoPath.1
  let moves := decide (next ≠ s.rounds.path)
  let busy := s.rounds.ctx.any fun e => e.2.st == .running || e.2.st == .relay
  same && (!needHost || t.hostPath.isSome) && !(moves && busy)

/-- A condition of code 0x02 or 0x0D holds for the checked image (R189). -/
def State.imageStale (s : State) : Bool :=
  let dir := s.prog.checkDir.toNat
  allDies.any fun d =>
    (s.imgHeader dir d != 0) != s.dieLive d ||
    (s.dieLive d &&
      (let h := s.imgHeader dir d
       s.imgLive h != (maskOf s.liveDies).toNat || s.imgPath h != s.rounds.code.toNat ||
         (s.assumeBad d h).isSome))

/-- LOAD and RUN (R189, R208). -/
def State.progRule (s : State) (l : List Staged) (w : Staged) : Bool :=
  let ctxStaged := l.any fun v => isDiePage v.page && pageOff v.page == 6 && decide (0x060 ≤ v.off)
  (!w.val.getLsbD 1 || (s.prog.check == .passed && !s.running && !s.imageStale && !ctxStaged)) &&
  (!(w.val.getLsbD 0 && (s.prog.pst == .ready || s.prog.pst == .stepHold || w.val.getLsbD 1)) ||
    allDies.all fun d => s.staysOut d || (List.range 4).all fun q => s.quarterOn d q)

/-- Bytes of a basket's region (R248, R273). -/
def regionBytes (dest tiles localN : Nat) : Nat :=
  match dest with
  | 0 => if localN = 0 then 0 else 16384 * tiles + 64
  | 1 => 16384 * tiles
  | _ => 524288 * tiles + 128 + 512 * tiles

/-- Region of basket b after a bundle, as DRAM offset and length. -/
def State.afterRegion (s : State) (l : List Staged) (b : Nat) : Nat × Nat :=
  let r := fun o => s.after l pgReduce (0x400 + 16 * b + o) 0
  ((fieldOf (r 12) 3 0) * 2 ^ 32 + (r 8).toNat,
   regionBytes (fieldOf (r 0) 30 29) (fieldOf (r 4) 29 16) (fieldOf (r 0) 23 16))

/-- A basket entry (R248, R249). KIND takes no code that R26 or R27 reserves, VALID or not (R476). -/
def State.basketRule (s : State) (l : List Staged) (w : Staged) : Bool :=
  let b := (w.off - 0x400) / 16
  let r := fun o => s.after l pgReduce (0x400 + 16 * b + o) 0
  let valid := (r 0).getLsbD 31
  let dest := fieldOf (r 0) 30 29
  let parts := 4 ^ fieldOf (r 0) 28 27
  let tiles := fieldOf (r 4) 29 16
  let elems := fieldOf (r 4) 12 0
  let kind := (r 12).extractLsb' 12 8
  let reg := s.afterRegion l b
  let still := allDies.all fun d =>
    (s.dieBasket d b).st == .idle || (s.dieBasket d b).st == .done
  dest != 3 && kindOk kind && (!s.changes w || still) &&
  (!valid ||
    (decide (0 < tiles) && tiles % parts == 0 && decide (elems ≤ 4096) &&
     (dest != 0 || (decide (128 ≤ tiles) && decide (tiles ≤ 8192))) &&
     (elems == 0 || (dest == 1 && tiles == 1 && parts == 1)) &&
     reg.1 % 4096 == 0 && decide (reg.1 + reg.2 ≤ 2 ^ 36) &&
     ((List.range 128).all fun c => c == b || !(s.after l pgReduce (0x400 + 16 * c) 0).getLsbD 31 ||
       !(overlap reg (s.afterRegion l c))) &&
     (kindFmt kind == some .l16 || kindFmt kind == some .bf16) && !(dest == 2 && kindScaled kind)))

/-- A staged FL_CTL (R289). -/
def State.openRule (s : State) (l : List Staged) (w : Staged) : Bool :=
  !w.val.getLsbD 31 ||
    ((s.flow (w.slot / 1024) (w.slot % 1024)).st == .free && leidOk (w.val.extractLsb' 0 20) &&
      leidOk ((s.after l pgAddress 0x044 0).extractLsb' 0 20))

/-- A quarter, or the whole die, stands as FAULTED in the repair map. -/
def State.inRepair (s : State) (d : Nat) : Bool :=
  s.keeper.repairs.any fun r => (r.kind == 1 || r.kind == 2) && r.die == d

/-- DIE_OUT (R347, R430). -/
def State.dieOutRule (s : State) (w : Staged) : Bool :=
  let base := if w.off = 0x044 then 0 else 32
  let old := s.reg pgSpareMap w.off
  (List.range 32).all fun i =>
    let d := base + i
    if w.val.getLsbD i = old.getLsbD i then true
    else !s.running && (w.val.getLsbD i ||
      (!s.inRepair d && (s.die d).cause != 1 && (s.die d).cause != 2))

/-- PORT_MOVE (R353). -/
def State.portMoveRule (s : State) (w : Staged) : Bool :=
  let base := if w.off = 0x04C then 0 else 32
  let old := s.reg pgSpareMap w.off
  (List.range 32).all fun i =>
    !(old.getLsbD i && !w.val.getLsbD i) || (!s.running && (s.port (base + i)).link == 3)

/-- REMAP_REQ (R340). -/
def State.remapRule (s : State) (w : Staged) : Bool :=
  !w.val.getLsbD 31 ||
    (!s.running && !s.aboutToRun && decide (fieldOf w.val 6 0 < 72) &&
      s.slotState (fieldOf w.val 21 16) (fieldOf w.val 6 0) == .spare &&
      slotQuarter (fieldOf w.val 6 0) == fieldOf w.val 13 8 / 16)

/-- TRIP_REARM (R386). -/
def State.tripRule (s : State) (l : List Staged) (w : Staged) : Bool :=
  (List.range 32).all fun i =>
    !w.val.getLsbD i ||
      (let g := 32 * ((w.off - 0x080) / 4) + i
       let d := g / 4
       let q := s.quarter d (g % 4)
       let cleared := !((if d < 32 then (s.after l pgSpareMap 0x044 0).getLsbD d
         else (s.after l pgSpareMap 0x048 0).getLsbD (d - 32)))
       q.tst == .cool && !q.iso && (!s.dieOut d || cleared))

/-- A new LEID (R423). -/
def State.leidRule (s : State) (w : Staged) : Bool :=
  !s.changes w || (!s.running && leidOk (w.val.extractLsb' 0 20) && s.keeper.locValid)

/-- Every rule that binds a staged write of a bundle with the writes `l` holds. -/
def State.ruleOk (s : State) (l : List Staged) (w : Staged) : Bool :=
  match pageKind w.page with
  | some .round => if w.off < 0x060 then s.pathRule l w else true
  | some .program => s.progRule l w
  | some .decrypt =>
    if w.off < 0x100 then true
    else !(s.changes w && s.running) && !(w.off % 16 == 0 && feForm w.val == 3)
  | some .reduce =>
    if w.off = 0x040 then fieldOf w.val 1 0 != 3
    else if w.off < 0x400 then true
    else s.basketRule l w
  | some .sloubPort => decide (w.off < 0x0C0) || !(s.changes w && s.running)
  | some .portLink => fieldOf w.val 1 0 != 3
  | some .flows => w.off != 0x044 || s.openRule l w
  | some .spareMap =>
    if w.off = 0x044 || w.off = 0x048 then s.dieOutRule w
    else if w.off = 0x04C || w.off = 0x050 then s.portMoveRule w
    else if w.off = 0x054 then s.remapRule w
    else true
  | some .thermal => decide (w.off < 0x080) || s.tripRule l w
  | some .address => w.off != 0x044 || s.leidRule w
  | _ => true

/-- A staged write cannot be taken (reason UNAVAILABLE). -/
def State.unavailable (s : State) (w : Staged) : Bool :=
  (pageOwners w.page).any (fun o => decide (o < 64) &&
    (s.dieOut o || (s.die o).st == .absent || (s.die o).st == .faulted)) ||
  s.pageSt w.page == .faulted || s.pageSt w.page == .absent ||
  (pageKind w.page == some .stall && (s.quarter (pageDie w.page) (slotQuarter (pageOff w.page - 0x20))).gated) ||
  (pageKind w.page == some .thermal && decide (0x080 ≤ w.off) && w.val != 0 && s.shut.st == .shuttered)

/-- Why a staged write fails at step 3, as a reason code; 0: it does not. DESIGN CHOICE: the spec gives no
precedence of reasons for one write that is UNAVAILABLE and breaks a rule; it reports UNAVAILABLE
(assumption 93). -/
def State.stagedBad (s : State) (l : List Staged) (w : Staged) : Byte :=
  if s.unavailable w then 6 else if s.ruleOk l w then 0 else 1

/-- The failing write of a participant with the lowest place. -/
def State.partBad (s : State) (x : BndCtx) (p : Nat) : Option (Byte × Word) :=
  let bad := (x.staged.filter fun w => s.pagePart x w.page == p).filterMap fun w =>
    let r := s.stagedBad x.staged w
    if r = 0 then none else some (r, whereOf w.page w.off)
  bad.foldl (fun a e => match a with
    | none => some e
    | some b => if e.2.toNat < b.2.toNat then some e else some b) none

/-! ### Application -/

/-- Bits that differ from 0 to 1, and from 1 to 0, placed at dies `base` and up. -/
def riseBits (base : Nat) (old new : Word) : DWord :=
  (new &&& ~~~old).zeroExtend 64 <<< base
/-- A committed bundle has staged path registers: PATH_SRC and the host cycle they now describe are in
force, and GEN rises by one if the host cycle has changed (R174). -/
def State.pathCommitted (s : State) : State :=
  let r := s.rounds
  match s.hostCycle with
  | some p => { s with rounds := { r with src := s.pathHost, host := p, broken := false,
                                          gen := if p = r.host then r.gen else r.gen + 1 } }
  | none => { s with rounds := { r with src := s.pathHost, broken := r.broken || s.pathHost } }

/-- An RS register takes its staged value. Requests that act once at the commit leave a flag for the
command that carries them out, and their live copy reads 0 (R189, R289, R340, R386). A LOAD names the image
that is checked when it commits. -/
def State.applyStaged (s : State) (w : Staged) : State :=
  match pageKind w.page with
  | some .flows =>
    let p := w.slot / 1024
    let f := w.slot % 1024
    let x := s.flow p f
    s.setFlow p f (match w.off with
      | 0x044 => { x with ctl := w.val.extractLsb' 0 20, openReq := x.openReq || w.val.getLsbD 31,
                          closeReq := x.closeReq || w.val.getLsbD 30 }
      | 0x048 => { x with peerReq := w.val.extractLsb' 16 16, cfgUdp := w.val.extractLsb' 0 16 }
      | 0x04C => { x with cfgIp := x.cfgIp.extractLsb' 32 96 ++ w.val }
      | 0x050 => { x with cfgIp := x.cfgIp.extractLsb' 64 64 ++ w.val ++ x.cfgIp.extractLsb' 0 32 }
      | 0x054 => { x with cfgIp := x.cfgIp.extractLsb' 96 32 ++ w.val ++ x.cfgIp.extractLsb' 0 64 }
      | 0x058 => { x with cfgIp := w.val ++ x.cfgIp.extractLsb' 0 96 }
      | _ => x)
  | some .program =>
    let t := s.poke w.page w.off (withField w.val 1 1 0)
    let load := w.val.getLsbD 1
    { t with prog := { t.prog with loadReq := t.prog.loadReq || load, runReq := true
                                   loadDir := if load then t.prog.checkDir else t.prog.loadDir }
             sec := { t.sec with loading := if load then t.sec.checked else t.sec.loading } }
  | some .spareMap =>
    let old := s.reg w.page w.off
    let k := s.keeper
    match w.off with
    | 0x044 | 0x048 =>
      let base := if w.off = 0x044 then 0 else 32
      { s.poke w.page w.off w.val with keeper := { k with
          outReq := k.outReq ||| riseBits base old w.val
          inReq := k.inReq ||| riseBits base w.val old } }
    | 0x04C | 0x050 =>
      let base := if w.off = 0x04C then 0 else 32
      let fall := riseBits base w.val old
      { s.poke w.page w.off w.val with keeper := { k with moveReq := k.moveReq ||| fall } }
    | 0x054 => s.poke w.page w.off (withField w.val 31 31 0)
    | _ => s.poke w.page w.off w.val
  | some .thermal =>
    let t := s.poke w.page w.off w.val
    if w.off < 0x080 then t
    else
      let qs := ((List.range 32).filter fun i => w.val.getLsbD i).map (32 * ((w.off - 0x080) / 4) + ·)
      { t with keeper := { t.keeper with trips := t.keeper.trips ++ qs.filter fun g => !t.keeper.trips.contains g } }
  | some .address =>
    { s.poke w.page w.off w.val with
        keeper := { s.keeper with leidReq := s.keeper.leidReq || s.changes w } }
  | some .stall =>
    let d := pageDie w.page
    let p := pageOff w.page - 0x20
    let t := s.poke w.page w.off w.val
    if w.off = rSeed || w.off = rSeed + 4 then t.setSlot d p { t.slot d p with seedNew := true } else t
  | some .decrypt =>
    let t := s.poke w.page w.off w.val
    if decide (0x100 ≤ w.off) && s.changes w then { t with prog := { t.prog with check := .idle } } else t
  | some .sloubPort =>
    let t := s.poke w.page w.off w.val
    if decide (0x0C0 ≤ w.off) && s.changes w then { t with prog := { t.prog with check := .idle } } else t
  | _ => s.poke w.page w.off w.val

/-- A page of a bundle's writes is a path register's. -/
def stagesPath (l : List Staged) : Bool :=
  l.any fun v => isDiePage v.page && pageOff v.page == 6 && decide (v.off < 0x060)

/-- Writes of a participant are applied, oldest first, and counted. -/
def State.applyPart (s : State) (x : BndCtx) (p : Nat) : State :=
  let mine := x.staged.reverse.filter fun w => s.pagePart x w.page == p
  (mine.foldl (fun t w => t.applyStaged w) s).count pgBundle 2 mine.length

/-- A hold of R319 ends on a die: its length is a time, a free value (assumption 24). -/
def State.holdPeak (s : State) (p : Nat) (held : Bool) : State :=
  if p < 64 && held then
    (s.peak (pgDieBundle p) 0x048 (s.freeNow.toNat % 2 ^ 32)).freeNext
  else s

/-! ### Map changes (R18, R83, R98, R340) -/

/-- Set a slot's state. -/
def State.setSlotState (s : State) (d p : Nat) (v : SlotSt) : State :=
  let q := slotQuarter p
  let x := s.quarter d q
  s.setQuarter d q { x with slots := x.slots.set (slotLocal p) v }

/-- Scratchpad contents move from a slot to another, poison with them; errors that the reads find are
accounted to the remap unit. -/
def State.copySlot (s : State) (d old new : Nat) : State :=
  let s1 := s.noteReads srcRemap (slotAddr d old 0) (2 ^ 21)
  let lo := slotAddr d old 0
  let hi := slotAddr d (old + 1) 0
  let base := slotAddr d new 0
  let ks : List Nat := (s.mem.bytes.map fun (e : Nat × Byte) => e.1 / 8) ++
    (s.mem.poison.map fun (e : Nat × Bool) => e.1) ++ (s.mem.upsets.map fun (e : Nat × Nat) => e.1)
  let mine := (ks.filter fun w => decide (lo ≤ 8 * w ∧ 8 * w < hi)).eraseDups
  mine.foldl (fun t w => t.putWord ((base + (8 * w - lo)) / 8) (s.peek w)) (s1.zeroSlot d new)

/-- Registers of the STALL page that a bundle stages (R83). -/
def stallStaged : List Nat := [0x048, 0x04C, 0x050, 0x054, 0x058]

/-- What a bundle that maps logical stall l to a slot writes: the staged registers of the slot's STALL page,
and the map in the SPARE_MAP and QUARTER pages, whose map registers are read-only and so have no staged
value (R18, R83). -/
def State.mapWrites (s : State) (d l old new : Nat) : List Staged :=
  { page := pgSpareMap, off := 0, val := 0, slot := 0 } ::
  { page := pgQuarter d (l / 16), off := 0, val := 0, slot := 0 } ::
  stallStaged.map fun o => { page := pgStall d new, off := o, val := s.reg (pgStall d old) o, slot := 0 }

/-- Requests of a slot's streams at marks stay where they stand, under the new slot (Table 7.12). -/
def State.moveReqs (s : State) (d old new : Nat) : State :=
  { s with stores := { s.stores with reqs := s.stores.reqs.map fun e =>
      if e.1 / 4096 = d then (e.1, e.2.map fun r => match r.1 with
        | .stream u st => if u = old then (Taker.stream new st, r.2) else r
        | _ => r)
      else e } }

/-- Logical stall l moves to a slot with its scratchpad, staged registers, configurations, statistics,
descriptors and walk positions; pass counters are zero. The slot left behind takes the state `left`. -/
def State.moveSlot (s : State) (d l new : Nat) (left : SlotSt) : State :=
  match s.slotOf d l with
  | none => s
  | some old =>
    let s1 := (stallStaged.foldl (fun t o => t.poke (pgStall d new) o (s.reg (pgStall d old) o)) s).copySlot d old new
    let x := s1.slot d old
    let y : Stall := { Stall.reset with
      stats := x.stats, seed := s1.regPair (pgStall d new) rSeed, n := 0, cmdIndex := x.cmdIndex, fetched := x.fetched,
      halted := x.halted, seq := x.seq }
    let s2 := (s1.setSlot d new y).setSlot d old Stall.reset
    let s3 := s2.forEach (List.range 256) fun t st =>
      (t.setStream d new st (s2.stream d old st)).setStream d old st Stream.reset
    let ch := (List.range 64).foldl (fun m c =>
      SMap.set [] (SMap.set [] m ((72 * d + new) * 64 + c) (s3.chain d old c)) ((72 * d + old) * 64 + c) [])
      s3.stores.chains
    let s4 := ({ s3 with stores := { s3.stores with chains := ch } } : State).moveReqs d old new
    let q := l / 16
    let z := s4.quarter d q
    let s5 := s4.setQuarter d q
      { z with map := z.map.set (l % 16) (some (slotLocal new)), remapOf := none,
               slots := (z.slots.set (slotLocal old) left).set (slotLocal new) .mapped }
    (s5.count pgSpareMap 0).count (pgQuarter d q) 0

/-- REMAP_REQ with GO = 1 among a bundle's writes. -/
def BndCtx.remaps (x : BndCtx) : Option Word :=
  (x.staged.find? fun w => w.page == pgSpareMap && w.off == 0x054 && w.val.getLsbD 31).map (·.val)

/-- The remap that a host bundle's REMAP_REQ asks for; a slot that holds no SPARE any more stays as it is.
The bundle's writes then include those of the map. -/
def State.hostRemap (s : State) (c : Nat) (v : Word) : State :=
  let d := fieldOf v 21 16
  let l := fieldOf v 13 8
  let p := fieldOf v 6 0
  match s.slotOf d l with
  | none => s
  | some old =>
    if s.dieLive d && s.slotState d p == .spare && slotQuarter p == l / 16 then
      let x := s.bctx c
      (s.setBctx c { x with staged := x.staged ++ s.mapWrites d l old p }).moveSlot d l p
        (if s.slotState d old == .faulted then .faulted else .spare)
    else s

/-! ### The commit -/

/-- The bundle has applied everywhere: its map change is made, BUNDLE_TAG of its pages, LAST_COMMIT_TAG and
counts follow (R317, R318). A changed path is in force from here. -/
def State.ctxCommitted (s0 : State) (c : Nat) : State :=
  let s := match (s0.bctx c).remaps with | some v => s0.hostRemap c v | none => s0
  let x := s.bctx c
  let pages := (x.staged.map (·.page)).eraseDups
  let s1 := pages.foldl (fun t g => t.poke g rBundleTag x.tag) s
  let s2 := (s1.poke pgBundle 0x05C x.tag).count pgBundle 0
  let s3 := (s2.peak pgBundle 0x064 (s2.freeNow.toNat % 2 ^ 32)).freeNext
  let s4 := s3.setBctx c { x with st := .committed, staged := [], parts := [], blocks := [],
                                  applySent := false, mark := 0, faults := [], reason := 0, wher := 0 }
  if stagesPath x.staged then s4.pathCommitted.repath else s4

/-- A bell token of a commit phase comes back (Table 13.5). -/
def State.bellBack (s : State) (p : Nat) : State := if p < 64 then s.ledReturn 0 lgBell p else s
def State.bellJoin (s : State) (p : Nat) : State := if p < 64 then s.ledIssue 0 lgBell p else s

/-- APPLY reaches a participant (steps 4 to 6 of Table 13.2). A bundle that carries a REMAP_REQ commits with
the remap (REMAP_REQ). -/
def State.ctxApply (s : State) (c p : Nat) : State :=
  let x := s.bctx c
  let held := x.blocks.any fun g => s.pagePart x g == p
  let s1 := ((s.applyPart x p).bellBack p).holdPeak p held
  let y := (s1.bctx c).setPart p .applied
  let s2 := s1.setBctx c { y with blocks := y.blocks.filter fun g => s.pagePart x g != p }
  if y.remaps.isNone && (s2.ctxParts y).all fun e => y.part e == .applied then s2.ctxCommitted c else s2

/-- APPLY reaches every participant that has not had it yet, and the bundle commits. -/
def State.finishApply (s : State) (c : Nat) : State :=
  let t := (s.ctxParts (s.bctx c)).foldl (fun t p =>
    if (t.bctx c).applySent && (t.bctx c).part p != .applied then t.ctxApply c p else t) s
  if (t.bctx c).applySent then t.ctxCommitted c else t

/-! ### Abort (R320) -/

/-- The root aborts a context: staged values are gone; participants still hold until ABORT reaches
them. TIMEOUT, FAULT and LOST raise 0x0A01. -/
def State.ctxAbort (s : State) (c : Nat) (reason : Byte) (wher : Word) : State :=
  let x := s.bctx c
  if !x.live then s
  else
    let s1 := (s.setBctx c
      { x with st := .aborted, reason := reason, wher := wher, staged := [], mark := 0,
               applySent := false, faults := [] }).count pgBundle 1
    if reason = 2 || reason = 3 || reason = 7 then s1.raise pgBundle 0x0A01 else s1

/-- ABORT reaches a participant: its blocks leave their holds. -/
def State.ctxAbortAt (s : State) (c p : Nat) : State :=
  let x := s.bctx c
  if x.part p == .none || x.part p == .dropped then s
  else
    let held := x.blocks.any fun g => s.pagePart x g == p
    let s1 := (s.bellBack p).holdPeak p held
    s1.setBctx c
      { x.setPart p .none with blocks := x.blocks.filter fun g => s.pagePart x g != p }

/-- ABORT has reached every participant. -/
def State.finishAbort (s : State) (c : Nat) : State :=
  if (s.bctx c).st == .aborted then
    let ps := (s.bctx c).parts.map (·.1)
    let s1 := ps.foldl (fun t p => t.ctxAbortAt c p) s
    s1.setBctx c { s1.bctx c with parts := [], blocks := [] }
  else s

/-- Every bundle that is open or preparing aborts at once, unless its APPLY has been sent: then it
commits first (R320, R332, R357, R379). -/
def State.abortAll (s : State) (reason : Byte) : State :=
  s.forEach ctxList fun t c =>
    if (t.bctx c).applySent then t.finishApply c else (t.ctxAbort c reason 0).finishAbort c

/-- A die of the scope is lost: before APPLY the bundle aborts LOST; after it the commit stands on the
others (R320, R332). Its bell tokens are written off with the die. -/
def State.ctxDieLost (s : State) (d : Nat) : State :=
  s.forEach ctxList fun t c =>
    let x := t.bctx c
    let y := { x with parts := SMap.erase x.parts d,
                      blocks := x.blocks.filter fun g => t.pagePart x g != d }
    if x.live && (x.inEngine || x.inScope.getLsbD d) && !x.applySent then
      ((t.setBctx c y).ctxAbort c 7 0).finishAbort c
    else if x.applySent then
      let t1 := t.setBctx c y
      if (t1.ctxParts y).all fun e => e == d || y.part e == .applied then t1.ctxCommitted c else t1
    else t.setBctx c y

/-! ### OPEN -/

/-- OPEN by the owner of a context with a scope (Table 13.1, R317). -/
def State.ctxOpen (s : State) (c : Nat) (engine : Bool) (scope : DWord) : State :=
  let s0 := s.finishAbort c
  let x := s0.bctx c
  let meets := ctxList.any fun k => k != c && (s0.bctx k).live &&
    scopesMeet engine scope (s0.bctx k).inEngine (s0.bctx k).inScope
  let empty := !engine && s0.liveDies.all fun d => !scope.getLsbD d
  if empty || meets then
    (s0.setBctx c { x with st := .aborted, reason := 9, wher := 0, staged := [], parts := [], blocks := [] }
      ).count pgBundle 1
  else
    let tag := if s0.bnd.tag = 0xFFFFFFFF then 1 else s0.bnd.tag + 1
    let s1 := s0.setBctx c
      { x with st := .open, inEngine := engine, inScope := scope, tag := tag, reason := 0, wher := 0,
               staged := [], mark := 0, parts := [], blocks := [], applySent := false, faults := [] }
    { s1 with bnd := { s1.bnd with tag := tag } }

/-! ### Internal bundles (R313, R321) -/

/-- Host bundles that an internal bundle's scope meets make way: PREEMPTED before APPLY, committed
after it. -/
def State.makeWay (s : State) (engine : Bool) (scope : DWord) : State :=
  s.forEach (List.range 4) fun t c =>
    let x := t.bctx c
    if !x.live || !scopesMeet engine scope x.inEngine x.inScope then t
    else if x.applySent then t.finishApply c
    else (t.ctxAbort c 0xA 0).finishAbort c

/-- A bundle of context 4 or 5 opens, applies its writes and commits as one event (assumption 20). -/
def State.internal (s : State) (c : Nat) (engine : Bool) (scope : DWord) (ws : List Staged) : State :=
  let s1 := (s.makeWay engine scope).ctxOpen c engine scope
  if (s1.bctx c).st != .open then s1
  else
    let s2 := s1.setBctx c { s1.bctx c with staged := ws.reverse }
    let s3 := (ws.foldl (fun t w => t.poke w.page w.off w.val) s2).count pgBundle 2 ws.length
    s3.ctxCommitted c

/-! ### Program bundles (R203-R205, R322-R324) -/

/-- Participants of a program bundle number in the applied image, as (die, stall). -/
def State.pbParts (s : State) (n : Nat) : List (Nat × Nat) :=
  let dir := s.prog.dir.toNat
  match s.liveDies.find? fun d => (s.imgBundle (s.imgHeader dir d) n).1 != 0 with
  | none => []
  | some e =>
    let dies := (s.imgBundle (s.imgHeader dir e) n).2
    (s.liveDies.filter fun d => dies / 2 ^ d % 2 = 1).flatMap fun d =>
      ((List.range 64).filter fun l => (s.imgBundle (s.imgHeader dir d) n).1 / 2 ^ l % 2 = 1).map (d, ·)
/-- Dies of a program bundle. -/
def State.pbDies (s : State) (n : Nat) : List Nat := ((s.pbParts n).map (·.1)).eraseDups

/-- A participant's bracket is open in this bundle: not void, with the bundle's number. -/
def State.inBundle (s : State) (e : Nat × Nat) (n : Nat) : Bool :=
  match (s.stallOf e.1 e.2).bracket with
  | some b => b.num == n && !b.void
  | none => false

/-- Dies with a stall inside a bracket of the bundle. -/
def State.pbOpen (s : State) (n : Nat) : Bool :=
  (s.pbParts n).any fun e => s.inBundle e n

/-- A BUNDLE_CLOSE starts: the bracket ends. -/
def Stall.closeBracket (x : Stall) : Stall := { x.advance .run with bracket := none }

/-- Staged commands of a bracket take effect on its die (R323): entries of the given kind. -/
def State.applyBracket (s : State) (d l p phase : Nat) : State :=
  match (s.slot d p).bracket with
  | none => s
  | some b => b.staged.foldl (fun t (c : StagedCmd) =>
      match c with
      | .rearm w => if phase = 0 then t.rearmApply d p w else t
      | .put _ => t
      | .post w =>
        if phase = 2 then t.postMark d w.mark.toNat (w.countM1.toNat + 1)
          { agent := 0, stall := l, index := (t.stallOf d l).cmdIndex }
        else t) s

/-- Every stream that the staged REARMs of a die's brackets name is PARKED: another stall may have re-armed
one since READY, and then each applies in turn (Table 7.12). -/
def State.pbParked (s : State) (d n : Nat) : Bool :=
  (List.range 64).all fun l => match s.slotOf d l, (s.stallOf d l).bracket with
    | some p, some b => b.num != n || b.void || b.staged.all fun (c : StagedCmd) =>
        match c with | .rearm w => s.rearmReady d p w | _ => true
    | _, _ => true

/-- The bundle ends on a die: its stalls leave their brackets. -/
def State.pbLeave (s : State) (d n : Nat) : State :=
  s.forEach (List.range 64) fun t l =>
    if t.inBundle (d, l) n then
      t.modStall d l fun x => match x.bracket with
        | some b => if b.ready then x.closeBracket else { x with bracket := some { b with void := true, staged := [] } }
        | none => x
    else t

/-- Note the number on a die's DIE_BUNDLE page. -/
def State.pbNote (s : State) (d n : Nat) : State := s.pokeField (pgDieBundle d) 0x040 11 0 n

/-- APPLY of a program bundle reaches a die: re-arms, then puts, then posts (R323). The counts of R205
and R330 follow once every die has applied. -/
def State.pbApply (s : State) (d n : Nat) : State :=
  let ls := (s.pbParts n).filter fun e => e.1 == d && s.inBundle e n
  let cmds := ls.foldl (fun k e => k + match (s.stallOf e.1 e.2).bracket with
    | some b => b.staged.length
    | none => 0) 0
  let run := fun (t : State) (phase : Nat) => ls.foldl (fun u e =>
    match u.slotOf d e.2 with | some p => u.applyBracket d e.2 p phase | none => u) t
  let s1 := run (((run s 0).commitPuts d n)) 2
  let s2 := ((((s1.pbLeave d n).count (pgDieBundle d) 0).count (pgDieBundle d) 2 cmds).pbNote d n).ledReturn 0
    lgBell d
  let b := s2.pbundle n
  let b1 := { b with applied := d :: b.applied }
  let all := b1.dies.all b1.applied.contains
  s2.setPbundle n (if all then
      { b1 with ready := [], dies := [], applied := [], applySent := false, window := false, fault := false,
                count := b1.count + 1 }
    else b1)

/-- A program bundle aborts (R324): its staged commands are discarded and each BUNDLE_CLOSE starts.
For reasons other than BREACH and STOP, each raises 0x0305 and 0x0A02 is raised on the lowest die. -/
def State.pbAbort (s : State) (n : Nat) (reason : Byte) : State :=
  let parts := (s.pbParts n).filter fun e => s.dieLive e.1
  let ds := (parts.map (·.1)).eraseDups
  let loud := reason != 0xB && reason != 0xC
  let b := s.pbundle n
  let s1 := b.dies.foldl (fun t d => t.ledReturn 0 lgBell d) s
  let s2 := ds.foldl (fun (t : State) d =>
    let t1 := (t.discardPuts d n).count (pgDieBundle d) 1
    (t1.pbNote d n).poke (pgDieBundle d) 0x044 (BitVec.ofNat 32 (reason.toNat * 2 ^ 24 + n))) s1
  let s3 := if loud then
      parts.foldl (fun t e => t.breach 0x0305 e.1 e.2 0 (t.stallOf e.1 e.2).cmdIndex) s2
    else s2
  let s4 := ds.foldl (fun t d => t.pbLeave d n) s3
  let s5 := s4.setPbundle n
    { s4.pbundle n with ready := [], dies := [], applied := [], applySent := false, window := false, fault := false }
  match loud, ds with
  | true, d :: _ => s5.raise (pgDieBundle d) 0x0A02
  | _, _ => s5

/-- Program bundle numbers with a bracket open. -/
def State.openBundles (s : State) : List Nat :=
  ((s.stalls.filterMap fun e => match e.2.bracket with
    | some b => if b.void then none else some b.num
    | none => none)).eraseDups

/-- Every open program bundle aborts (Table 8.8, step 5). One whose APPLY has been sent completes. -/
def State.pbAbortAll (s : State) (reason : Byte) : State :=
  s.forEach s.openBundles fun t n =>
    if (t.pbundle n).applySent then
      (t.pbDies n).foldl (fun u d => if (u.pbundle n).applied.contains d || !u.dieLive d then u else u.pbApply d n) t
    else t.pbAbort n reason

/-- A quarter of a die went dark: open bundles that its stalls take part in abort UNAVAILABLE. -/
def State.pbDark (s : State) (d q : Nat) : State :=
  s.forEach s.openBundles fun t n =>
    if (t.pbParts n).any (fun e => e.1 == d && e.2 / 16 == q) && !(t.pbundle n).applySent
    then t.pbAbort n 6 else t

end Sys2Proof.Machine
end

