-- ==== Sys2Proof/Machine/ProgOps.lean ====
section
/-! DEFINITION. Programs as operations (R185-R211): the head word, applying an image, starting a step,
the stop of Table 8.8, the restore of a replay point, the close-out of a step (R345). -/

namespace Sys2Proof.Machine

/-! ### Command words in DRAM (R475) -/

/-- Header of a die's applied image. -/
def State.header (s : State) (d : Nat) : Nat := s.imgHeader s.prog.dir.toNat d

/-- The word at the head of a stall. -/
def State.headWord (s : State) (d l : Nat) : Option CmdWord :=
  if s.prog.applied then s.imgCmd (s.header d) l (s.stallOf d l).cmdIndex else none

/-- As a stall reaches a word of its stream, the engine reads it with its budget; for a BUNDLE_OPEN also the
number's BUNDLES entry (R134, R475). What a poisoned word does is not stated: its data bits stand
(assumption 95). -/
def State.reachHead (s : State) (d l p : Nat) : State :=
  let x := s.slot d p
  if x.fetched then s
  else
    let h := s.header d
    let o := (s.imgStream h l).1 + 16 * x.cmdIndex
    let s1 := (s.noteReads srcStall ((s.imgSec h 0).1 + o) 16).noteReads srcStall
      ((s.imgSec h 1).1 + 4 * ((o - 1024) / 16)) 4
    let s2 := match s.headWord d l with
      | some (.bopen n) => s1.noteReads srcStall ((s.imgSec h 9).1 + 16 * n) 16
      | _ => s1
    s2.setSlot d p { x with fetched := true }

/-- The slot of a stall whose sequencer may issue the word `c`: it stands at the head (R191)
(assumption 18). -/
def State.headSlot (s : State) (d l : Nat) (c : CmdWord) : Option Nat :=
  match s.issueSlot d l c.kind with
  | some p => if s.headWord d l = some c then some p else none
  | none => none

/-! ### Applying an image (R189) -/

/-- Credits of a context come back to it and its slots are empty: no round is under way. A context that
R181 stopped stays STOPPED until an image for the path in force is applied. -/
def State.roundClear (s : State) (d c : Nat) (st : RoundSt) : State :=
  let h := (s.ledger d lgRound c).held.toNat
  let s1 := if h = 0 then s else s.ledReturn d lgRound c h
  s1.setRoundCtx d c { RoundCtx.reset with st := if s.rounds.stopped then .stopped else st }

/-- Items of round slots of a die carry nothing any more. -/
def State.tagsClear (s : State) (d : Nat) : State :=
  { s with weights := { s.weights with tags := s.weights.tags.filter fun e => addrDie e.1 != d } }

/-- Outstanding transfers of every stream of a die are abandoned: their units return (R326). -/
def State.dropStreams (s : State) (d : Nat) (sel : Nat → Stream → Bool) : State :=
  let l := s.streams.filter fun e => e.1 / 256 / 73 == d && sel (e.1 / 256 % 73) e.2
  s.forEach l fun t e => t.dropXfers d (e.1 / 256 % 73) (e.1 % 256) false e.2.st

/-- Descriptors of a unit; a stream that the image leaves empty is FREE. -/
def State.loadStream (s : State) (d u st : Nat) (desc : List Word) : State :=
  s.setStream d u st (if unfilled desc then Stream.reset
    else { Stream.reset with desc := desc, base := BitVec.ofNat 48 (sdBase desc) })

/-- Everything that the image of die d fills: descriptor, configuration and base stores, pools, ROUND
registers, marks. -/
def State.loadDie (s : State) (d : Nat) : State :=
  let h := s.header d
  let s1 := (s.dropStreams d fun _ _ => true).abandonDie d
  let s2 := { s1 with stores := { s1.stores with
    reqs := s1.stores.reqs.filter fun e => e.1 / 4096 != d
    marks := (List.range 4096).foldl (fun m i =>
      SMap.set 0 m (4096 * d + i) (BitVec.ofNat 16 (s.imgMark h i))) s1.stores.marks
    turn := s1.stores.turn.filter fun e => e.1 / 73 != d
    bases := (List.range 1024).foldl (fun m i => SMap.set 0 m (1024 * d + i)
      (if i < s.imgBases h then BitVec.ofNat 64 (s.imgBase h i) else 0)) s1.stores.bases
    nbases := SMap.set 0 s1.stores.nbases d (s.imgBases h)
    chains := (List.range 64).foldl (fun m l => match s.slotOf d l with
      | none => m
      | some p => (List.range 64).foldl (fun k c =>
          SMap.set [] k ((72 * d + p) * 64 + c) (s.imgChain h l c)) m) s1.stores.chains } }
  let s3 := s2.forEach (List.range 64) fun t l => match s.slotOf d l with
    | none => t
    | some p => (List.range 32).foldl (fun u st => u.loadStream d p st (s.imgStallSd h l st)) t
  let s4 := s3.forEach (List.range 256) fun t st => t.loadStream d 72 st (s.imgEngineSd h st)
  let s5 := s4.forEach (List.range 64) fun t i =>
    let r := s.imgPool h (i / 16) (i % 16)
    t.setPool d (i / 16) (i % 16) { first := r.1, units := r.2, held := [] }
  let s6 := s5.forEach (List.range 4) fun t c =>
    let reg := fun k => BitVec.ofNat 32 (s.imgRound h c k)
    ((((t.poke (pgRound d) (0x060 + 16 * c) (reg 0)).poke (pgRound d) (0x064 + 16 * c) (reg 1)).poke
      (pgRound d) (0x068 + 16 * c) (reg 2))).roundClear d c .idle
  (s6.tagsClear d).fetchStep d false

/-- The stalls of a die stand at their first word. -/
def State.rewind (s : State) (d : Nat) (st : SeqSt) : State :=
  s.forEach (List.range 64) fun t l => t.modStall d l fun x =>
    { x with cmdIndex := 0, fetched := false, waiting := [], halted := none, seq := st, bracket := none, bell := none }

/-- The image's state on every live die. -/
def State.loadImage (s : State) : State :=
  let s1 := s.forEach s.liveDies fun t d => (t.loadDie d).rewind d .idle
  { s1 with bnd := { s1.bnd with progs := [] }, rounds := { s1.rounds with transit := [] } }

/-- A committed LOAD applies the image that was checked when it committed (R189, R424). Contexts that R181
stopped leave STOPPED if the image is built for the path in force. -/
def State.applyImage (s : State) : State :=
  let dir := s.prog.loadDir
  let h := s.imgHeader dir.toNat (s.liveDies.headD 0)
  let id := s.imgId h
  let p := { s.prog with
    pst := .ready, dir := dir, applied := true, imageId := BitVec.ofNat 64 id
    live := maskOf s.liveDies, lastPoint := 0, replays := 0, breaches := [], replaying := false
    remap := false, capBelow := false, scrubAbv := false, walksAt := [], noReplay := false
    loadReq := false }
  let sec := { s.sec with imageDigests := s.sec.loading }
  let k := { s.keeper with memberGen := s.keeper.memberGen + 1 }
  let r := { s.rounds with stopped := s.rounds.stopped && s.imgPath h != s.rounds.code.toNat }
  let t := ({ s with prog := p, sec := sec, keeper := k, rounds := r } : State).loadImage
  t.forEach t.liveDies fun u d => u.fetchStep d true

/-! ### Steps (R163, R206, R208) -/

/-- Every quarter of every die that is not out is ON (R208). -/
def State.allQuartersOn (s : State) : Bool :=
  allDies.all fun d => s.staysOut d || (List.range 4).all fun q => s.quarterOn d q

/-- Every stream of the image enters RUN at transfer 0; a ROUND stream that R181 stopped stays STOPPED. -/
def State.runStreams (s : State) (d : Nat) : State :=
  let l := s.streams.filter fun e => e.1 / 256 / 73 == d && !e.2.desc.isEmpty
  s.forEach l fun t e =>
    if s.rounds.stopped && e.2.role == roleRound then t.setStream d (e.1 / 256 % 73) (e.1 % 256) { e.2 with st := .stopped }
    else t.startStream d (e.1 / 256 % 73) (e.1 % 256) e.2.base

/-- A step starts in the state that R189 sets, with LAST_POINT, REPLAYS and bracket counts at 0. -/
def State.startStep (s : State) : State :=
  let s1 := s.loadImage
  let s2 := s1.forEach s1.liveDies fun t d =>
    ((t.runStreams d).rewind d .run).setDie d { t.die d with service := 0 }
  { s2.basketsStep with prog := { s2.prog with
      pst := .running, lastPoint := 0, replays := 0, breaches := [], replaying := false, remap := false,
      walksAt := [], noReplay := false } }

/-! ### Table 8.8, steps 1 to 5 -/

/-- Frames of a PORT_OUT transfer that the port has not sent leave the queues (R304). -/
def State.dropQueued (s : State) (d : Nat) : State :=
  { s with flows := s.flows.map fun e =>
      if e.1 / 1024 = d then (e.1, { e.2 with queue := e.2.queue.filter fun k => k.xfer.isNone || k.sends != 0 })
      else e }

/-- Transfer of a PORT_OUT stream with a frame not yet handed to the port. -/
def State.notHanded (s : State) (d st t : Nat) : Bool :=
  s.flows.any fun e => e.1 / 1024 == d && e.2.queue.any fun k => k.xfer == some (st, t) && k.sends == 0

/-- PORT_OUT transfers not fully handed to the port are abandoned (R304). -/
def State.dropPortOut (s : State) (d : Nat) : State :=
  let s1 := s.forEach ((s.unitStreams d 72).filter fun e => e.2.role == rolePortOut) fun t e =>
    let gone := e.2.out.filter fun x => s.notHanded d e.1 x.t
    let t1 := t.setStream d 72 e.1 { e.2 with out := e.2.out.filter fun x => !s.notHanded d e.1 x.t }
    (t1.ledReturn d lgXfer 72 gone.length).ledReturn d lgXfer 73 gone.length
  s1.dropQueued d

/-- Requests at marks are withdrawn and gates are open questions again. -/
def State.clearGates (s : State) (d : Nat) : State :=
  let st := { s.stores with reqs := s.stores.reqs.filter fun e => e.1 / 4096 != d }
  let sm := s.streams.map fun e =>
    if e.1 / 256 / 73 = d then
      (e.1, { e.2 with gate := .no, st := if e.2.st == .gated || e.2.st == .limited then .run else e.2.st })
    else e
  let cx := s.rounds.ctx.map fun e =>
    if e.1 / 4 = d then (e.1, { e.2 with ready := .no, release := .no }) else e
  { s with stores := st, streams := sm, rounds := { s.rounds with ctx := cx } }

/-- Steps 2 to 5 on one die: its stalls lose their work, its broadcasts and weight walks are abandoned
(R242, R304). -/
def State.stopDie (s : State) (d : Nat) : State :=
  let s1 := (s.dropStreams d fun u x => u == 72 && (x.role == roleBcast || x.role == rolePortIn)).dropPortOut d
  ((s1.abandonDie d).clearGates d).fetchAbandon d false

/-- Bell tokens of a barrier or sum in progress come back (R326). -/
def State.dropBells (s : State) : State :=
  let n := fun d => ((List.range 64).filter fun l =>
    match (s.stallOf d l).bell with | some w => w.group == 0 | none => false).length
  s.forEach s.liveDies fun t d => if n d = 0 then t else t.ledReturn 0 lgBell d

/-- Steps 1 to 5 of Table 8.8: program bundles abort with a reason, every stall's work is abandoned. -/
def State.stopWork (s : State) (reason : Byte) : State :=
  let s1 := (s.pbAbortAll reason).dropBells
  s1.forEach s1.liveDies fun t d => t.stopDie d

/-- PROG_CMD.ABORT, and the stop that Shutter or a withdrawal brings (R207). -/
def State.abortProgram (s : State) : State :=
  let s1 := s.stopWork 0xC
  { s1 with prog := { s1.prog with pst := .stopped, breaches := [], replaying := false, remap := false } }

/-- The engine closes the step out (R345): undecided baskets are DROPPED and PSTATE is STOPPED. Open
host and internal bundles abort LOST (assumption 34). -/
def State.closeOut (s : State) : State :=
  let s1 := (s.stopWork 0xC).dropUndecided
  let s2 := s1.forEach ctxList fun t c =>
    if (t.bctx c).applySent then t.finishApply c else (t.ctxAbort c 7 0).finishAbort c
  { s2 with prog := { s2.prog with pst := .stopped, breaches := [], replaying := false, remap := false } }

/-! ### Breaches and replays (R200-R202, Table 8.8) -/

/-- A breach lies before another in the order of R200: the lower die, then the lower stall. -/
def Breach.before (a b : Breach) : Bool :=
  decide (a.die < b.die) || (a.die == b.die && decide (a.stall < b.stall))
/-- The breach that is recorded, of those stamped in one cycle. -/
def firstBreach (b : Breach) (l : List Breach) : Breach :=
  l.foldl (fun a e => if e.before a then e else a) b

/-- A breach is recorded in the PROGRAM page (R200, Table 8.10). -/
def State.recordBreach (s : State) (b : Breach) : State :=
  let stall := if b.agent < 2 then b.stall else 0
  ((s.raise pgProgram b.code.toNat).poke pgProgram 0x060
      (BitVec.ofNat 32 (b.code.toNat * 65536 + b.die * 1024 + stall * 16 + b.agent))).poke pgProgram 0x064
    (BitVec.ofNat 32 b.index)

/-- Step 6 on one stream: base, transfer index and state of the record (Table 8.3). A walk of a port
stream stands at the count kept at the point (R225, R302). -/
def State.restoreStream (s : State) (d u st a : Nat) : State :=
  let x := s.stream d u st
  let i := s.img64 (a + 8) % 2 ^ 24
  let code := s.img64 (a + 8) / 2 ^ 24 % 16
  let dest : StreamSt := if s.rounds.stopped && x.role == roleRound then .stopped else match code with
    | 0 => .free | 1 => .run | 2 => .gated | 3 => .limited | 4 => .parked | _ => .stopped
  let walks := SMap.get 0 s.prog.walksAt (streamKey d u st)
  let s1 := s.dropXfers d u st false x.st
  let s2 := s1.setStream d u st
    { x with base := BitVec.ofNat 48 (s.img64 a), st := dest, issued := i, done := i, doneSet := [],
             posts := if x.postEvery = 0 then 0 else i / x.postEvery, out := [], gate := .no,
             walk := if x.role == roleRound then 0 else x.walkLen, walks := walks }
  match (if u = 72 && x.role == rolePortIn then s2.feOf d st else []) with
  | e :: _ => s2.fetchRestore d e walks i
  | [] => s2

/-- Step 6 on one die, from the record of point p > 0, which the engine reads (R134, R475). -/
def State.restoreDie (s0 : State) (d p : Nat) : State :=
  let a := s0.imgPoint (s0.header d) p
  let s := s0.noteReads srcStall a 55296
  let s1 := { s with stores := { s.stores with marks := (List.range 4096).foldl (fun m i =>
    SMap.set 0 m (4096 * d + i) (BitVec.ofNat 16 (s.img16 (a + 2 * i)))) s.stores.marks } }
  let s2 := s1.forEach (List.range 4) fun t c =>
    let t1 := (List.range (t.ctxSlots d c)).foldl (fun u i => u.freeRoundSlot d c i) t
    t1.roundClear d c (if s.imgByte (a + 0xB000 + 16 * c) = 3 then .done else .idle)
  let s3 := s2.forEach (List.range 64) fun t l => match s.slotOf d l with
    | none => t
    | some u => (List.range 32).foldl (fun v st =>
        if (v.stream d u st).desc.isEmpty then v else v.restoreStream d u st (a + 0x2000 + 16 * (32 * l + st))) t
  let s4 := s3.forEach (List.range 256) fun t st =>
    if (t.stream d 72 st).desc.isEmpty then t else t.restoreStream d 72 st (a + 0xA000 + 16 * st)
  let s5 := s4.forEach (List.range 64) fun t l => t.modStall d l fun x =>
    { x with cmdIndex := s.img32 (a + 0xD040 + 4 * l), fetched := false, waiting := [], halted := none, seq := .run }
  s5.restoreCursors d

/-- Point 0: the state of the image as applied, with every stream in RUN (R200). -/
def State.restoreZero (s : State) (d : Nat) : State :=
  let s1 := ((s.loadDie d).runStreams d).rewind d .run
  s1.restoreCursors d

/-- Bracket counts stand at the point's: a bracket whose number has committed since then runs without
effect (R205). -/
def State.restoreBrackets (s : State) : State :=
  let p := s.prog.lastPoint
  let a := s.imgPoint (s.header (s.liveDies.headD 0)) p
  s.forEach (s.bnd.progs.map (·.1)) fun t n =>
    t.setPbundle n { t.pbundle n with
      base := if p = 0 then 0 else s.img16 (a + 0xB040 + 2 * n), closed := [] }

/-- Steps 6 and 7 of Table 8.8: everything stands at LAST_POINT and every stall resumes. Versions of
the step's weights stay (R243). -/
def State.resume (s : State) : State :=
  let p := s.prog.lastPoint
  let vers := s.weights.fetch.map fun e => (e.1, e.2.version, e.2.nextTag)
  let s1 := s.forEach s.liveDies fun t d => if p = 0 then t.restoreZero d else t.restoreDie d p
  let s2 := if p != 0 then s1 else s1.forEach vers fun t e =>
    t.setFetch (e.1 / 32) (e.1 % 32)
      { t.fetch (e.1 / 32) (e.1 % 32) with version := e.2.1, nextTag := e.2.2, reason := 2 }
  let s3 := s2.restoreBrackets
  { s3 with
    rounds := { s3.rounds with transit := [] }
    prog := { s3.prog with pst := .running, replaying := false, remap := false, breaches := [],
                           replays := if s.prog.remap then s.prog.replays else s.prog.replays + 1 } }

/-- Outstanding stream and round transfers have completed (step 4); frames of a port's transfers that
are all handed to the port may still wait for their acknowledgement (R304). An item that was partly
forwarded goes no further. -/
def State.quiet (s : State) : Bool :=
  s.streams.all fun e =>
    e.2.out.isEmpty || (e.1 / 256 % 73 == 72 && e.2.role == rolePortOut) || !s.dieLive (e.1 / 256 / 73)

end Sys2Proof.Machine
end

