-- ==== Sys2Proof/Machine/RecoverOps.lean ====
section
/-! DEFINITION. The bell in programs (R197), a die that leaves the step (R341), dies taken out (R343),
stall remaps (R337-R340), port loss (R351, R352), withdrawal (R357). -/

namespace Sys2Proof.Machine

/-! ### BELL_WAIT (R197) -/

/-- Scratchpad words that the participants add, read and accounted one after another. -/
def State.bellOperands (s : State) (parts : List (Nat × Nat)) : State × List MWord :=
  parts.foldl (fun (a : State × List MWord) e =>
    match a.1.slotOf e.1 e.2, (a.1.stallOf e.1 e.2).bell with
    | some p, some w =>
      let k := slotAddr e.1 p (64 * w.srcAddr.toNat)
      (a.1.noteReads srcStall k 8, a.2 ++ [a.1.peek (k / 8)])
    | _, _ => a) (s, [])

/-- SUM: the total modulo 2^64 at every participant's DST_ADDR, or a poisoned word. -/
def State.bellSum (s : State) (parts : List (Nat × Nat)) : State :=
  let (s1, ws) := s.bellOperands parts
  let bad := ws.any (·.poison)
  let tot : MWord := { val := ws.foldl (fun n w => n + w.val) 0, poison := bad }
  parts.foldl (fun t e =>
    match t.slotOf e.1 e.2, (t.stallOf e.1 e.2).bell with
    | some p, some w => t.writeWords (slotAddr e.1 p (64 * w.dstAddr.toNat)) [tot]
    | _, _ => t) s1

/-- A replay point has been passed: it is LAST_POINT, and what the engine itself keeps for it is
recorded (R197, R202, R225, R254, R302). -/
def State.passPoint (s : State) (n : Nat) : State :=
  let s1 := s.forEach s.liveDies fun t d => t.keepCursors d
  let ws : SMap Nat := s1.streams.foldl (fun m e => SMap.set 0 m e.1 e.2.walks) []
  { s1 with prog := { s1.prog with lastPoint := n, replays := 0, noReplay := false, walksAt := ws } }

/-- The barrier or sum of a group completes: every participant's BELL_WAIT starts. -/
def State.bellFinish (s : State) (parts : List (Nat × Nat)) (w : BellWord) : State :=
  let s1 := if w.op = 1 then s.bellSum parts else s
  let s2 := parts.foldl (fun t e => t.modStall e.1 e.2 fun x => { x.advance .run with bell := none }) s1
  if w.group != 0 then s2
  else
    let ds := (parts.map (·.1)).eraseDups
    let s3 := ds.foldl (fun t d => t.ledReturn 0 lgBell d) (s2.count pgBell (if w.op = 1 then 1 else 0))
    let s4 := (s3.peak pgBell 0x048 (s3.freeNow.toNat % 2 ^ 32)).freeNext
    if w.point = 0 then s4 else s4.passPoint w.point.toNat

/-- Complete the group of a stall's BELL_WAIT if every participant has reached it. -/
def State.bellTry (s : State) (d l : Nat) : State :=
  match (s.stallOf d l).bell with
  | none => s
  | some w =>
    let parts := s.groupOf d l w.group.toNat
    if parts.contains (d, l) && parts.all fun e => s.atBell e w.group then s.bellFinish parts w else s

/-- Groups that waited only for stalls that no longer take part complete. -/
def State.bellRecheck (s : State) : State :=
  s.forEach s.liveDies fun t d => t.forEach (List.range 64) fun u l => u.bellTry d l

/-! ### A quarter goes dark (R180, R184, R341) -/

/-- A stream of a stall unit stops for good: what it carries for a dark scratchpad is discarded. -/
def State.stopUnit (s : State) (d u : Nat) (dark : Bool) : State :=
  s.eachStream d u fun t st =>
    if dark then t.dropXfers d u st true .stopped
    else t.setStream d u st { t.stream d u st with st := .stopped, gate := .no }

/-- A context that only relays ignores RELEASE_MARK: its request there is withdrawn. -/
def State.dropRelease (s : State) (d c : Nat) : State :=
  let m := s.releaseMark d c
  serveReqs s d m ((s.markReqs d m).filter fun r => decide (r.1 ≠ Taker.release c))

/-- Running round contexts of a die only relay from now on (R180). -/
def State.relayDie (s : State) (d : Nat) : State :=
  s.forEach (List.range 4) fun t c =>
    let x := t.roundCtx d c
    if x.st == .running then
      ((t.setRoundCtx d c { x with st := .relay, release := .no }).dropRelease d c).freeSlots d c
    else t

/-- Frames of a stream's transfer that the port has not sent leave the queues. -/
def State.unqueue (s : State) (d st t : Nat) : State :=
  { s with flows := s.flows.map fun e =>
      if e.1 / 1024 = d then (e.1, { e.2 with queue := e.2.queue.filter fun k => k.xfer != some (st, t) || k.sends != 0 })
      else e }

/-- PORT_OUT transfers of a die whose source has gone dark, and whose frames the port has not sent, are
abandoned: they count as completed (R184). -/
def State.darkPortOut (s : State) (d : Nat) : State :=
  s.forEach ((s.unitStreams d 72).filter fun e => e.2.role == rolePortOut) fun t e =>
    t.forEach (e.2.out.filter fun x => s.lostKey (s.resolve (e.2.far x.t)) && s.notHanded d e.1 x.t) fun u x =>
      (u.unqueue d e.1 x.t).completeXfer d 72 e.1 x.t true

/-- Baskets FILLING or READY on a die become DROPPED there. -/
def State.dropBaskets (s : State) (d : Nat) : State :=
  s.forEach (List.range 128) fun t b =>
    let x := t.dieBasket d b
    if x.st == .filling || x.st == .ready then
      ((x.stage.foldl (fun u e => u.unstage d b e) t).setDieBasket d b { x with st := .dropped, stage := [] }).dropSum d b
    else t

/-- A die leaves the step (R341). -/
def State.leaveStep (s : State) (d : Nat) : State :=
  if !s.running || !s.inStep d then s
  else
    let tokens := (List.range 64).any fun l =>
      match (s.stallOf d l).bell with | some w => w.group == 0 | none => false
    let s0 := if tokens then s.ledReturn 0 lgBell d else s
    let s1 := s0.dropStreams d fun u x => u == 72 && x.role == roleBcast
    let s2 := s1.abandonDie d
    let s3 := s2.forEach (List.range 72) fun t p => t.stopUnit d p false
    let s4 := (s3.dropBaskets d).setDie d { s3.die d with service := 1 }
    ((s4.count (pgDieHealth d) 1).collectLoss d).bellRecheck

/-- A quarter is out of service: its island is gated, its stalls' work is lost, its streams are
STOPPED; a spare under test is SPARE again, and its remap starts anew when the quarter returns. `st` OFF or
FAULTED with a DARK_CAUSE. While a program runs its die leaves the step, and no replay is possible from
LAST_POINT (R202). -/
def State.darkQuarter (s : State) (d q : Nat) (st : BlkSt) (cause : BitVec 4) : State :=
  let x := s.quarter d q
  let s1 := (if s.running then s.pbDark d q else s).setQuarter d q
    { x with st := st, gated := true, cause := cause, rearm := false, remapOf := none, clock := false
             slots := x.slots.map fun v => if v == .testing then .spare else v }
  let s2 := (s1.forEach (List.range 18) fun t i => t.stopUnit d (slotNum q i) true).darkPortOut d
  let s3 := s2.forEach (List.range 18) fun t i =>
    let p := slotNum q i
    t.setSlot d p { (t.slot d p).abandon with duty := 0, dutySt := .steady }
  let s4 := (if x.clock then s3.count pgClocks 2 else s3).relayDie d
  if s4.running then
    ({ s4 with prog := { s4.prog with noReplay := true } } : State).leaveStep d
  else s4

/-! ### Taking a die out (R343-R346) -/

/-- Memory and state of a die that loses power: engine memory, stores, streams, stalls, walks, keys,
flow table. The registers of its pages keep only what R344 names. -/
def State.clearDie (s : State) (d : Nat) : State :=
  let keepReg := fun (k : Nat) =>
    let page := k / 4096
    !(isDiePage page && pageDie page == d) || page == pgDieHealth d || page == pgDieCtl d ||
      k % 4096 == rFault || k % 4096 == rFaultFirst
  let s1 := s.zeroRange (d * 2 ^ 42) ((d + 1) * 2 ^ 42)
  { s1 with
    regs := s1.regs.filter fun e => keepReg e.1
    stalls := s1.stalls.filter fun e => e.1 / 72 != d
    arcs := s1.arcs.filter fun e => e.1 / 16 != d
    streams := s1.streams.filter fun e => e.1 / 256 / 73 != d
    scrub := s1.scrub.filter fun e => e.1 != d
    stores := { marks := s1.stores.marks.filter fun e => e.1 / 4096 != d
                reqs := s1.stores.reqs.filter fun e => e.1 / 4096 != d
                bases := s1.stores.bases.filter fun e => e.1 / 1024 != d
                nbases := s1.stores.nbases.filter fun e => e.1 != d
                pools := s1.stores.pools.filter fun e => e.1 / 64 != d
                chains := s1.stores.chains.filter fun e => e.1 / 64 / 72 != d
                turn := s1.stores.turn.filter fun e => e.1 / 73 != d
                mesh := s1.stores.mesh.filter fun e => e.1 != d }
    weights := { fetch := s1.weights.fetch.filter fun e => e.1 / 32 != d
                 ingest := s1.weights.ingest.filter fun e => e.1 != d
                 keys := s1.weights.keys.filter fun e => e.1 / 16 != d
                 tags := s1.weights.tags.filter fun e => addrDie e.1 != d }
    red := { s1.red with die := s1.red.die.filter fun e => e.1 / 128 != d
                         level := s1.red.level.filter fun e => e.1 / 6 != d }
    flows := s1.flows.filter fun e => e.1 / 1024 != d }

/-- Everything a lost die's units held is written off; pool units and staged tiles, whose fate the
engine knows, are returned (R326, R345). -/
def State.writeOffDie (s : State) (d : Nat) : State :=
  let mine := s.ledgers.filter fun e => e.1 / 1024 / 8 == d && e.1 / 1024 % 8 != 7
  let s1 := s.forEach mine fun t e =>
    let cls := e.1 / 1024 % 8
    let i := e.1 % 1024
    let n := (t.ledger d cls i).held.toNat
    if n = 0 then t
    else if cls = 1 || cls = 3 then t.ledReturn d cls i n
    else t.ledWoff d cls i n
  let n := (s1.ledger 0 lgBell d).held.toNat
  let s2 := if n = 0 then s1 else s1.ledWoff 0 lgBell d n
  let progs := s2.bnd.progs.map fun e => (e.1, { e.2 with dies := e.2.dies.filter (· != d) })
  { s2 with bnd := { s2.bnd with progs := progs } }

/-- Ends of wales on dies that are out are blocked (R343). -/
def State.blockWales (s : State) : State :=
  s.forEach (List.range 210) fun t w =>
    let e := waleEnds w
    let b := t.dieOut e.1 || t.dieOut e.2
    if (t.wale w).blocked = b then t else t.setWale w { t.wale w with blocked := b }

/-- The DIE_OUT bit of a die is committed by the recovery agent under context 5, unless it is set. -/
def State.commitDieOut (s : State) (d : Nat) : State :=
  let off := if d < 32 then 0x044 else 0x048
  let v := s.reg pgSpareMap off ||| BitVec.ofNat 32 (2 ^ (d % 32))
  if v = s.reg pgSpareMap off then s
  else s.internal 5 true 0 [{ page := pgSpareMap, off := off, val := v, slot := 0 }]

/-- The die is out with a cause: `st` FAULTED or ABSENT. -/
def State.dieGone (s : State) (d : Nat) (cause : BitVec 4) (st : BlkSt) : State :=
  if s.dieOut d then s
  else
    let was := s.running
    let s1 := if was then s.closeOut else s
    let s2 := (s1.ctxDieLost d).setDie d
      { s1.die d with st := st, service := 2, cause := cause, bell := false, missed := 0 }
    let s3 := s2.forEach (List.range 4) fun u q =>
      let t := if (u.quarter d q).clock then u.count pgClocks 2 else u
      t.setQuarter d q { t.quarter d q with st := .off, gated := true, cause := 5, rearm := false,
                                            remapOf := none, clock := false,
                                            slots := (t.quarter d q).slots.map fun v => if v == .testing then .spare else v }
    let s4 := ((s3.writeOffDie d).roundStop).clearDie d
    let s5 := s4.setPort d { s4.port d with st := .off, rearm := false, link := 0, kept := 0 }
    let s6 := ((s5.blockWales.commitDieOut d).repath).collectLoss d
    let k := { s6.keeper with memberGen := s6.keeper.memberGen + 1,
                              outReq := s6.keeper.outReq &&& ~~~(BitVec.ofNat 64 (2 ^ d)) }
    ({ s6 with keeper := k } : State).count pgSpareMap 1

/-- A die is taken out; a die whose flows it carried has no carrier then and goes too (R352). -/
def State.takeDieOut (s : State) (d : Nat) (cause : BitVec 4) : State :=
  let s1 := s.dieGone d cause .faulted
  let b := d ^^^ 1
  if (s1.regPair pgSpareMap 0x04C).getLsbD b && !s1.dieOut b then s1.dieGone b 5 .faulted else s1

/-! ### The repair map (R336) -/

/-- The keeper enters a unit in the repair map. -/
def State.repair (s : State) (kind d u lane : Nat) : State :=
  let e : Repair := { kind := kind, die := d, unit := u, lane := lane, at' := s.keeper.powerOns }
  if s.keeper.repairs.any fun r => r.kind == kind && r.die == d && r.unit == u && r.lane == lane then s
  else { s with keeper := { s.keeper with repairs := s.keeper.repairs ++ [e] } }

/-! ### Stall remaps (R337-R340) -/

/-- The lowest spare slot of a quarter in SPARE. -/
def State.spareOf (s : State) (d q : Nat) : Option Nat :=
  ((List.range 18).map (slotNum q)).find? fun p => s.slotState d p == .spare

/-- The lowest logical stall of a quarter whose slot is FAULTED. -/
def State.brokenStall (s : State) (d q : Nat) : Option Nat :=
  ((List.range 16).map (16 * q + ·)).find? fun l => match s.slotOf d l with
    | some p => s.slotState d p == .faulted
    | none => false

/-- No spare of the quarter passes: the quarter is FAULTED, the step is closed out, the die is taken
out (R339). -/
def State.noSpare (s : State) (d q : Nat) : State :=
  let s1 := (s.darkQuarter d q .faulted 3).repair 1 d q 0
  let s2 := if s1.running then s1.closeOut else s1
  s2.takeDieOut d 4

/-- The next broken stall of a quarter gets the lowest spare, which tests itself; with none left the
quarter is lost. In a gated quarter the remap waits for the quarter's return. -/
def State.nextSpare (s : State) (d q : Nat) : State :=
  match (if (s.quarter d q).gated then none else s.brokenStall d q) with
  | none => s.setQuarter d q { s.quarter d q with remapOf := none }
  | some l =>
    match s.spareOf d q with
    | none => s.noSpare d q
    | some p =>
      let t := s.setSlotState d p .testing
      t.setQuarter d q { t.quarter d q with remapOf := some l }

/-- Since LAST_POINT a quarter has gone dark, or a die has left the step: the engine does not replay (R202). -/
def State.mayNotReplay (s : State) : Bool :=
  s.prog.noReplay || allDies.any fun d => (s.die d).service == 1

/-- A slot that holds a logical stall becomes FAULTED (R76, R327, R337). While a program runs, steps 1
to 5 of Table 8.8 come first and PSTATE reads REPLAY, unless R202 forbids the replay: then the step is
closed out. -/
def State.stallFault (s : State) (d l : Nat) : State :=
  match s.slotOf d l with
  | none => s
  | some p =>
    let q := l / 16
    let s1 := (s.setSlotState d p .faulted).repair 0 d p 0
    let s2 := if s1.prog.pst == .running && s1.mayNotReplay then s1.closeOut
      else if s1.prog.pst == .running then
        let t := (s1.count pgProgram 1).stopWork 0xB
        { t with prog := { t.prog with pst := .replay, replaying := true, remap := true, breaches := [] } }
      else if s1.prog.pst == .replay then { s1 with prog := { s1.prog with remap := true } }
      else s1
    if (s2.quarter d q).remapOf.isSome then s2 else s2.nextSpare d q

/-- A logical stall moves to a slot: one bundle of context 5 with die scope makes the map change and
everything that R52, R83 and R98 carry with it (R18, R317). A bundle that cannot open changes nothing. -/
def State.remap (s : State) (d l new : Nat) (left : SlotSt) : State :=
  match s.slotOf d l with
  | none => s
  | some old =>
    let ws := s.mapWrites d l old new
    let s1 := (s.makeWay false (BitVec.ofNat 64 (2 ^ d))).ctxOpen 5 false (BitVec.ofNat 64 (2 ^ d))
    if (s1.bctx 5).st != .open then s1
    else
      let s2 := s1.setBctx 5 { s1.bctx 5 with staged := ws }
      ((s2.count pgBundle 2 ws.length).moveSlot d l new left).ctxCommitted 5

/-! ### Port loss (R351-R353) -/

/-- Port p is lost: its flows move to the buddy's port, or its die, and a die whose flows it carries,
are out for want of a carrier. -/
def State.portLost (s : State) (p : Nat) : State :=
  let b := p ^^^ 1
  let moved := s.regPair pgSpareMap 0x04C
  if moved.getLsbD b && !s.dieOut b then (s.takeDieOut b 5).takeDieOut p 5
  else if !s.dieOut b && (s.port b).link == 3 && (s.port b).st == .on then
    let off := if p < 32 then 0x04C else 0x050
    let v := s.reg pgSpareMap off ||| BitVec.ofNat 32 (2 ^ (p % 32))
    let s1 := s.internal 5 true 0 [{ page := pgSpareMap, off := off, val := v, slot := 0 }]
    (s1.count pgSpareMap 2).emit (.neighborAdv p b (s1.portIp p) (s1.portMac b) true)
  else s.takeDieOut p 5

/-! ### Assumed capacities (R199) -/

/-- While a program runs, a WALE_CAP below or a scrub rate above what the image assumes is noted. -/
def State.noteAssume (s : State) : State :=
  if s.prog.pst != .running && s.prog.pst != .replay then s
  else
    let hs := s.liveDies.map fun d => (d, s.header d)
    let cap := hs.any fun e => (List.range 210).any fun w =>
      let v := s.img32 ((s.imgSec e.2 11).1 + 4 * w)
      decide (s.waleCap w false < v % 2 ^ 16) || decide (s.waleCap w true < v / 2 ^ 16)
    let scr := hs.any fun e =>
      let v := s.img32 ((s.imgSec e.2 11).1 + 840)
      decide (v / 2 ^ 16 < s.scrubRate e.1 31 16) || decide (v % 2 ^ 16 < s.scrubRate e.1 15 0)
    { s with prog := { s.prog with capBelow := s.prog.capBelow || cap, scrubAbv := s.prog.scrubAbv || scr } }

/-! ### Breach handling (R200, R202, R345) -/

/-- A stamped breach: a replay begins, or the step stops. After HALTED there is no step to replay: the breach
is recorded and counted (assumption 92). -/
def State.handleBreach (s : State) (b : Breach) : State :=
  let s1 := (s.recordBreach b).count pgProgram 2
  if s1.prog.pst == .halted then s1
  else if s1.mayNotReplay then s1.closeOut
  else if s1.prog.replays ≥ s1.regField pgProgram 0x05C 7 0 then
    let t := (s1.stopWork 0xB).raise pgProgram 0x0308
    { t with prog := { t.prog with pst := .stopped, breaches := [], replaying := false, remap := false } }
  else
    let t := s1.count pgProgram 1
    let u := t.stopWork 0xB
    { u with prog := { u.prog with pst := .replay, replaying := true, remap := false, breaches := [] } }

/-! ### Withdrawal (R357, R358) -/

/-- One CLOSE WITHDRAWAL on every slot of a port that is not FREE. -/
def State.closeAll (s : State) (p : Nat) (reason : Byte) (cause : BitVec 4) : State :=
  s.forEach (List.range 1024) fun t f =>
    if (t.flow p f).st == .free then t else t.closeSlot p f reason cause

/-- The engine closes a slot that is OPEN or OPENING: the walks that wait on it fail (R240, R292). -/
def State.hostClose (s : State) (p f : Nat) (reason : Byte) (cause : BitVec 4) : State :=
  let x := s.flow p f
  if x.st == .open || x.st == .opening then ((s.closeSlot p f reason cause).failFlow p f 6) else s

/-- The withdrawal of Table 14.5, up to the keeper's log entry and the meter's early record. The CAUSE
that the closed slots then show is not stated: a free value (assumption 24). -/
def State.withdraw (s : State) : State :=
  if s.keeper.withdrawn then s
  else
    let s1 := (s.raise pgPower 0x0703).abortAll 6
    let s2 := s1.stopWork 0xC
    let s3 : State := { s2 with prog := { s2.prog with
      pst := .stopped, breaches := [], replaying := false, remap := false, loadReq := false, runReq := false } }
    let cause := s3.freeNow.extractLsb' 0 4
    let s4 := s3.forEach allDies fun t p => if t.portUp p then t.closeAll p 1 cause else t
    ({ s4 with keeper := { s4.keeper with withdrawn := true } } : State).freeNext

end Sys2Proof.Machine
end

