-- ==== Sys2Proof/Machine/Views.lean ====
section
/-! DEFINITION. What a register read shows (the register tables): read-only fields are computed from
the state they tell of; everything else is the stored live value. The measurements of R447 stand here
because the SECURITY page shows them. -/

namespace Sys2Proof.Machine

/-- A word from a number. -/
def w32 (n : Nat) : Word := BitVec.ofNat 32 n
/-- Bit `i` of a word, if set. -/
def bitAt (c : Bool) (i : Nat) : Nat := if c then 2 ^ i else 0
/-- The word whose bit i says whether `f (base + i)` holds, for the bits below a limit. -/
def bitsWord (base n : Nat) (f : Nat → Bool) : Word :=
  w32 ((List.range (min 32 n)).foldl (fun a i => a + bitAt (f (base + i)) i) 0)
/-- Word k of a byte list, little-endian; bytes beyond its end are zero. -/
def wordAt (l : List Byte) (k : Nat) : Word :=
  w32 ((List.range 4).foldl (fun a i => a + (l.getD (4 * k + i) 0).toNat * 2 ^ (8 * i)) 0)

/-! ### Firmware and measurements (R421, R447) -/

/-- A firmware bank: 0 and 1 keeper firmware, 2 and 3 sequencer microcode. -/
def fwMade (i : Nat) : FwImage :=
  { version := Config.fwVersion i, svn := Config.fwSvn i, raise := false, sigOk := true }
def State.fwBank (s : State) (i : Nat) : FwImage := SMap.get (fwMade i) s.keeper.banks i
/-- Bank number of a component: `ucode` and which of its two banks. -/
def bankNum (ucode b : Bool) : Nat := (if ucode then 2 else 0) + (if b then 1 else 0)

/-- SVN_FUSE. -/
def State.svnFuse (s : State) : Byte := s.sec.svnFuse

/-- VARIANT, PART, HW_REV as numbers (Table 16.11). -/
def hwRev : Nat := Config.slathRev.toNat * 256 + Config.dieRev.toNat
def variantByte : Nat := if Config.variantWS then 1 else 0
def partNum : Nat := variantByte * 65536 + 0x6442

/-- Measurement `i` of Table 18.5, 64 bytes; 0 has none. -/
def State.measurement (s : State) (i : Nat) : List Byte :=
  match i with
  | 1 => Config.romDigest
  | 2 =>
    let f := s.fwBank (bankNum false s.keeper.bank)
    Config.fwDigest false f.version f.svn
  | 3 =>
    let f := s.fwBank (bankNum true s.keeper.ubank)
    Config.fwDigest true f.version f.svn
  | 4 => Config.shake256 (leBytes 8 Config.meterSerial.toNat ++ leBytes 4 s.meter.status.fw.toNat ++ Config.meterPub)
  | 5 => if s.prog.pst == .empty then List.replicate 64 0 else Config.shake256 (s.sec.imageDigests.flatMap id)
  | 6 =>
    let guard := allDies.foldl (fun n d => n + bitAt ((s.reg (pgDecrypt d) 0x040).getLsbD 0) d) 0
    Config.shake256 (leBytes 1 variantByte ++ leBytes 1 s.sec.svnFuse.toNat ++ leBytes 8 guard ++
      leBytes 8 s.prog.live.toNat ++ leBytes 4 (s.reg pgAddress 0x044).toNat)
  | 7 => Config.shake256 (leBytes 4 partNum ++ leBytes 8 Config.serial.toNat ++ leBytes 4 hwRev)
  | _ => List.replicate 64 0

/-! ### The header (Table 16.4) -/

/-- Block type and instance (Tables 16.2, 16.3). -/
def pageType (page : Nat) : Nat :=
  match pageKind page with
  | none => 0
  | some k => match k with
    | .engineId => 1 | .summary => 2 | .bundle => 3 | .ledger => 4 | .power => 5 | .clocks => 6
    | .thermal => 7 | .shutter => 8 | .bell => 9 | .address => 0xA | .program => 0xB | .security => 0xC
    | .meterMirror => 0xD | .mailbox => 0xE | .spareMap => 0xF | .aperture => 0x10 | .reduce => 0x11
    | .sloubPort => 0x20 | .flows => 0x21 | .wale => 0x22 | .xwale => 0x23
    | .dieCtl => 0x40 | .dieHealth => 0x41 | .dieBundle => 0x42 | .dieLedger => 0x43 | .mesh => 0x44
    | .streams => 0x45 | .round => 0x46 | .collect => 0x47 | .dram => 0x48 | .scrub => 0x49
    | .portLink => 0x4A | .decrypt => 0x4B | .ingest => 0x4C | .quarter => 0x50 | .qbuf => 0x51
    | .stall => 0x60
/-- n of Table 16.3. -/
def pageN (o : Nat) : Nat :=
  if 0x20 ≤ o then o - 0x20 else if 0x14 ≤ o then o - 0x14 else if 0x10 ≤ o then o - 0x10 else 0
def pageInstance (page : Nat) : Nat :=
  if isDiePage page then 256 * pageDie page + pageN (pageOff page)
  else if 0x170 ≤ page then page - 0x170
  else if 0x100 ≤ page then page - 0x100
  else if 0x40 ≤ page && page < 0x80 then page - 0x40
  else 0

/-- LEDGERS (Table 16.5). -/
def pageLedgers (page : Nat) : Nat :=
  match pageKind page with
  | some .stall => 1 | some .qbuf => 16 | some .streams => 1 | some .round => 4 | some .collect => 133
  | some .sloubPort => 2049 | some .ledger => 64 | _ => 0

/-- A counter of events that no command brings: cycles in which a unit was busy or waited (QBUF 0x030, STREAMS,
ROUND and INGEST 0x038), FEC codewords of a link (PORT_LINK 0x028 and 0x030). -/
def unseenCounter (page i : Nat) : Bool :=
  match pageKind page with
  | some .qbuf => i == 1
  | some .streams | some .round | some .ingest => i == 2
  | some .portLink => i != 2
  | _ => false

/-- A header counter as it reads. CHANGE_SEQ rises are counted in SUMMARY; the milliseconds since 42 V,
those of the current Shutter, and the counts of `unseenCounter` are free values (assumption 24). -/
def State.countView (s : State) (page i : Nat) : DWord :=
  if unseenCounter page i then s.freeNow
  else if page = pgSummary ∧ i = 0 then s.host.changes
  else if page = pgEngineId ∧ i = 0 then s.freeNow
  else if page = pgShutter ∧ i = 2 ∧ s.shut.st == .shuttered then s.counter page i + s.freeNow
  else s.counter page i

def State.headerView (s : State) (page off : Nat) : Word :=
  if off = 0x000 then w32 (pageInstance page * 65536 + pageType page)
  else if off = 0x00C then w32 (bitAt (s.pageRearm page) 8 + (s.pageSt page).code)
  else if off = 0x01C then w32 (s.stagedCount page)
  else if off = 0x020 then w32 (s.health page)
  else if off = 0x024 then w32 (bitAt (s.pageViol page) 31 + pageLedgers page)
  else if off < 0x028 then s.reg page off
  else
    let c := s.countView page ((off - 0x028) / 8)
    if off % 8 = 0 then c.extractLsb' 0 32 else c.extractLsb' 32 32

/-! ### Engine-level pages -/

def State.engineIdView (s : State) (off : Nat) : Word :=
  match off with
  | 0x040 => w32 partNum
  | 0x044 => Config.serial.extractLsb' 0 32
  | 0x048 => Config.serial.extractLsb' 32 32
  | 0x04C => w32 hwRev
  | 0x050 => (s.fwBank (bankNum false s.keeper.bank)).version
  | 0x054 => (s.fwBank (bankNum true s.keeper.ubank)).version
  | _ => 0

/-- A page's LEVEL is not OK (R410). -/
def State.attn (s : State) (page : Nat) : Bool := s.level' page != 0
/-- WORST. -/
def State.worst (s : State) : Nat := allPages.foldl (fun n p => max n (s.level' p)) 0
/-- SUM_STATUS. -/
def State.sumStatus (s : State) : Nat :=
  s.host.changes.toNat % 65536 * 65536 + s.phase * 256 + s.worst * 16 + s.prog.pst.code

def State.summaryView (s : State) (off : Nat) : Word :=
  if off = 0x040 then w32 s.sumStatus
  else if off = 0x044 then w32 (bitAt (s.attn pgFlows) 17 + (bitsWord 0 17 s.attn).toNat)
  else if off < 0x050 then bitsWord (0x40 + (off - 0x048) * 8) 32 s.attn
  else if off < 0x060 then
    let k := (off - 0x050) / 4
    bitsWord (0x100 + 32 * k) (112 - 32 * k) s.attn
  else if off < 0x070 then
    let k := (off - 0x060) / 4
    bitsWord (0x170 + 32 * k) (98 - 32 * k) s.attn
  else if off < 0x078 then
    bitsWord ((off - 0x070) * 8) 32 fun d => dieOffsets.any fun o => s.attn (pgDie d o)
  else if off = 0x078 then s.reg pgSummary off
  else
    let d := s.regField pgSummary 0x078 5 0
    bitsWord ((off - 0x07C) * 8) 32 fun o => dieOffsets.contains o && s.attn (pgDie d o)

/-- The context that BND_SEL names; 6 and 7 act as 0. -/
def State.bndSel (s : State) : Nat :=
  let c := s.regField pgBundle 0x040 2 0
  if 6 ≤ c then 0 else c

def BSt.code (b : BSt) : Nat :=
  match b with | .idle => 0 | .open => 1 | .preparing => 2 | .committed => 3 | .aborted => 4

def State.bundleView (s : State) (off : Nat) : Word :=
  let x := s.bctx s.bndSel
  let ab := x.st == .aborted
  match off with
  | 0x044 => x.scope.extractLsb' 0 32
  | 0x048 => x.scope.extractLsb' 32 32
  | 0x04C => w32 (bitAt x.engine 8)
  | 0x050 => x.tag
  | 0x054 => w32 ((if ab then x.reason.toNat else 0) * 2 ^ 24 + x.st.code * 2 ^ 16 + x.staged.length)
  | 0x058 => if ab then x.wher else 0
  | _ => s.reg pgBundle off

/-- Counts of a ledger page as sampled by the latest read of ISSUED_LO (R331). -/
def State.ledgerView (s : State) (page off : Nat) : Word :=
  if 0x044 ≤ off && off < 0x064 then
    let c := SMap.get 0 s.host.sample (4 * page + (off - 0x044) / 8)
    if (off - 0x044) % 8 = 0 then c.extractLsb' 0 32 else c.extractLsb' 32 32
  else s.reg page off

/-- A CAP_W value as it acts: clamped to 8,000-21,000 W (Table 15.9). -/
def clampCap (w : Nat) : Nat := max 8000 (min 21000 w)
/-- The lower of CAP_W and the keeper's cap; a change in Shutter applies at the wake (R367, R392). -/
def State.capSet (s : State) : Nat :=
  s.pwr.capHeld.getD (min (clampCap (s.regField pgPower 0x040 15 0)) s.pwr.keeperCap)
/-- The cap in force (R367). -/
def State.capInForce (s : State) : Nat :=
  let c := s.capSet
  if s.pwr.capdown || s.pwr.vinCap then min c 8000 else c

def State.powerView (s : State) (off : Nat) : Word :=
  match off with
  | 0x044 => w32 (s.capInForce * 65536 + s.pwr.keeperCap)
  | 0x050 => w32 (bitAt s.pwr.vinOk 3 + bitAt s.pwr.run.isSome 2 + bitAt s.pwr.capdown 1 + bitAt s.pins.pwrOk 0)
  | _ => s.reg pgPower off

/-- ARITH frequency of a quarter in MHz. -/
def State.arithMhz (s : State) (div4 : Bool) : Nat :=
  let m := 600 + 25 * s.pwr.step
  if div4 then divRne m 4 else m

def State.clocksView (s : State) (off : Nat) : Word :=
  if off = 0x044 then w32 (s.pwr.ceil * 65536 + bitAt (s.pwr.divided != 0) 15 + s.pwr.step)
  else if off < 0x400 then s.reg pgClocks off
  else
    let g := (off - 0x400) / 4
    let q := s.quarter (g / 4) (g % 4)
    if q.clock then w32 (2 ^ 31 + bitAt q.div4 30 + s.arithMhz q.div4) else w32 (bitAt q.div4 30)

def TSt.code (t : TSt) : Nat := match t with | .normal => 0 | .warn => 1 | .tripped => 2 | .cool => 3

/-- The hottest quarter, the lowest of equals, with its reading. -/
def State.hottest (s : State) : Nat × Nat :=
  (List.range 256).foldl (fun (a : Nat × Nat) g =>
    let t := (s.quarter (g / 4) (g % 4)).temp.toNat
    if a.2 < t then (g, t) else a) (0, 0)

def State.thermalView (s : State) (off : Nat) : Word :=
  if off = 0x044 then w32 (s.hottest.2 * 65536 + s.hottest.1)
  else if off < 0x400 then s.reg pgThermal off
  else
    let g := (off - 0x400) / 4
    let q := s.quarter (g / 4) (g % 4)
    w32 (q.tst.code * 2 ^ 30 + q.temp.toNat)

def SSt.code (t : SSt) : Nat :=
  match t with | .awake => 0 | .waiting => 1 | .entering => 2 | .shuttered => 3 | .waking => 4

def State.shutterView (s : State) (off : Nat) : Word :=
  if off = 0x048 then
    w32 (bitAt s.shut.blocked 10 + bitAt s.shut.latch 9 + bitAt s.shut.pin 8 + s.shut.st.code)
  else s.reg pgShutter off

def State.bellView (s : State) (off : Nat) : Word :=
  if off = 0x040 then bitsWord 0 32 fun d => (s.die d).bell
  else if off = 0x044 then bitsWord 32 32 fun d => (s.die d).bell
  else s.reg pgBell off

/-- LOCATION.CODE (R422). -/
def State.locCode (s : State) : Nat := s.keeper.place.toNat * 32 + s.keeper.ga.toNat % 32
def ASt.code (a : ASt) : Nat :=
  match a with | .none => 0 | .waking => 1 | .checking => 2 | .loading => 3 | .adopted => 4 | .failed => 5

def State.addressView (s : State) (off : Nat) : Word :=
  match off with
  | 0x040 => w32 (bitAt s.keeper.locValid 31 + s.keeper.ga.toNat * 2 ^ 25 + s.locCode)
  | 0x048 => w32 s.keeper.memberGen.toNat
  | 0x058 => w32 (s.keeper.afail.toNat * 2 ^ 24 + s.keeper.ast.code)
  | _ => s.reg pgAddress off

def CheckSt.code (c : CheckSt) : Nat :=
  match c with | .idle => 0 | .busy => 1 | .passed => 2 | .refused => 3

/-- IMAGE_ID of the applied image; 0 when PSTATE is EMPTY. -/
def State.imageIdView (s : State) : DWord := if s.prog.pst == .empty then 0 else s.prog.imageId

def State.programView (s : State) (off : Nat) : Word :=
  match off with
  | 0x050 => s.prog.refuse ||| w32 s.prog.check.code
  | 0x054 => s.prog.wher
  | 0x058 => w32 (s.prog.lastPoint * 2 ^ 24 + s.prog.replays % 256 * 2 ^ 16 + s.prog.pst.code)
  | 0x068 => s.imageIdView.extractLsb' 0 32
  | 0x06C => s.imageIdView.extractLsb' 32 32
  | 0x070 => w32 (bitAt s.prog.scrubAbv 1 + bitAt s.prog.capBelow 0)
  | _ => s.reg pgProgram off

def State.securityView (s : State) (off : Nat) : Word :=
  if off = 0x040 then
    w32 (s.sec.svnFuse.toNat * 2 ^ 24 + s.sec.svnRun.toNat * 2 ^ 16 + bitAt s.keeper.fallback 1 + bitAt s.keeper.bank 0)
  else if off = 0x048 then w32 s.sec.offers.length
  else if off < 0x080 then s.reg pgSecurity off
  else if off < 0x0C0 then wordAt (s.measurement (s.regField pgSecurity 0x044 2 0)) ((off - 0x080) / 4)
  else if off < 0x100 then Config.identPub ((off - 0x0C0) / 4)
  else Config.attPub ((off - 0x100) / 4)

/-- Whole tallies of 2^32 L8-equivalent MACs (R436). -/
def tallies (n : Nat) : DWord := BitVec.ofNat 64 (n / 2 ^ 32)

/-- METER_MIRROR. Frames with a bad CRC on METER_LINK come with no command: their count is free (assumption 24). -/
def State.meterView (s : State) (off : Nat) : Word :=
  let m := s.meter
  match off with
  | 0x040 => withField (withField (s.reg pgMeter off) 31 31 (bitAt m.present 0)) 30 30 (bitAt m.working 0)
  | 0x078 => (tallies m.tally.work).extractLsb' 0 32
  | 0x07C => (tallies m.tally.work).extractLsb' 32 32
  | 0x080 => (tallies m.tally.ballast).extractLsb' 0 32
  | 0x084 => (tallies m.tally.ballast).extractLsb' 32 32
  | 0x088 => s.freeNow.extractLsb' 0 32
  | _ => s.reg pgMeter off

def State.mailboxView (s : State) (off : Nat) : Word :=
  if off = 0x044 ∧ s.keeper.mbBusy then 1 else s.reg pgMailbox off

/-- Four map entries from logical stall `l` of a die: MAPPED and SLOT. -/
def State.mapWord (s : State) (d l : Nat) : Word :=
  w32 ((List.range 4).foldl (fun n j => n + (match s.slotOf d (l + j) with
    | some p => (128 + p) * 2 ^ (8 * j)
    | none => 0)) 0)

def State.spareMapView (s : State) (off : Nat) : Word :=
  if off = 0x05C then bitsWord 0 32 s.spareLow
  else if off = 0x060 then bitsWord 32 32 s.spareLow
  else if off < 0x100 then s.reg pgSpareMap off
  else s.mapWord (s.regField pgSpareMap 0x040 5 0) (off - 0x100)

/-- The port p's flows are carried by its buddy's port. -/
def State.portMoved (s : State) (p : Nat) : Bool := (s.regPair pgSpareMap 0x04C).getLsbD p

def State.portView (s : State) (p off : Nat) : Word :=
  if off = 0x070 then w32 (if s.portMoved p then 2 ^ 31 + (p ^^^ 1) else p) else s.reg (pgPort p) off

/-- The slot that FLOW_SEL names: 1024 times the port, plus the slot. -/
def State.flowSel (s : State) : Nat := s.regField pgFlows 0x040 15 0
def FlSt.code (f : FlSt) : Nat := match f with | .free => 0 | .opening => 1 | .open => 2 | .closing => 3

def State.flowsView (s : State) (off : Nat) : Word :=
  let k := s.flowSel
  let x := s.flow (k / 1024) (k % 1024)
  let used := fun (f : Nat → Bool) => (s.flows.filter fun e => f (e.1 / 1024) && e.2.st != .free).length
  if off = 0x040 then s.reg pgFlows off
  else if off < 0x05C then s.liveReg pgFlows off k
  else match off with
  | 0x05C => w32 (x.gen.toNat * 2 ^ 24 + x.cause.toNat * 2 ^ 20 + x.peerFlow.toNat * 16 + x.st.code)
  | 0x060 => x.tx
  | 0x064 => x.rx
  | 0x068 => w32 (x.keptBytes)
  | 0x06C => w32 (used (· == k / 1024) * 65536)
  | 0x070 => w32 (used fun _ => true)
  | _ => s.reg pgFlows off

def State.waleView (s : State) (w off : Nat) : Word :=
  let x := s.wale w
  let e := waleEnds w
  match off with
  | 0x040 => w32 (e.2 * 2 ^ 24 + e.1 * 2 ^ 16 + (if w < 112 then w else 128 + (w - 112)))
  | 0x044 => w32 (s.waleCap w true * 65536 + s.waleCap w false)
  | 0x048 => x.groupAB
  | 0x04C => x.groupBA
  | 0x050 => x.spareAB
  | 0x054 => x.spareBA
  | _ => s.reg (pgWale w) off

/-! ### Die pages -/

def State.dieCtlView (s : State) (d off : Nat) : Word :=
  let x := s.die d
  match off with
  | 0x040 => w32 (x.err.toNat * 2 ^ 24 + x.layers.toNat * 256 + x.stage.toNat)
  | 0x044 => x.hash.extractLsb' 0 32
  | 0x048 => x.hash.extractLsb' 32 32
  | _ => 0

/-- Bits over the four quarters of a die. -/
def State.quarterBits (s : State) (d : Nat) (f : QuarterSt → Bool) : Nat :=
  (List.range 4).foldl (fun n q => n + bitAt (f (s.quarter d q)) q) 0

def State.dieHealthView (s : State) (d off : Nat) : Word :=
  let x := s.die d
  match off with
  | 0x040 => w32 (x.service.toNat * 2 ^ 30 + x.cause.toNat * 2 ^ 24 + s.quarterBits d (·.st == .on) * 2 ^ 16 +
      s.sparesFree d * 256 + bitAt (s.portMoved d) 0)
  | 0x048 => w32 (bitAt x.iso 4 + s.quarterBits d (·.iso))
  | _ => s.reg (pgDieHealth d) off

def State.dieBundleView (s : State) (d off : Nat) : Word :=
  if off = 0x040 then
    withField (s.reg (pgDieBundle d) off) 22 16
      ((List.range 64).filter fun l => (s.stallOf d l).bracket.isSome).length
  else s.reg (pgDieBundle d) off

def StreamSt.code (x : StreamSt) : Nat :=
  match x with | .free => 0 | .run => 1 | .gated => 2 | .limited => 3 | .parked => 4 | .stopped => 5

/-- The stream that STREAM_SEL names. -/
def State.streamSel (s : State) (d : Nat) : Stream :=
  let v := s.reg (pgStreams d) 0x04C
  s.stream d (if v.getLsbD 15 then fieldOf v 14 8 else 72) (fieldOf v 7 0)

def State.streamsView (s : State) (d off : Nat) : Word :=
  let eng := fun (f : StreamSt → Bool) => ((s.unitStreams d 72).filter fun e => f e.2.st).length
  let x := s.streamSel d
  match off with
  | 0x040 => w32 (eng (fun t => t == .run || t == .gated || t == .limited) * 65536 + eng (· == .parked))
  | 0x044 => w32 (s.unitOut d 72 * 65536 + s.stallsOut d)
  | 0x050 => w32 (x.issued % 2 ^ 24 * 256 + x.role * 32 + bitAt x.persist 4 + x.st.code)
  | 0x054 => w32 (x.done % 2 ^ 24)
  | 0x058 => w32 (SMap.get 0 s.stores.nbases d)
  | _ => s.reg (pgStreams d) off

def RoundSt.code (x : RoundSt) : Nat :=
  match x with | .idle => 0 | .running => 1 | .relay => 2 | .done => 3 | .stopped => 4

/-- The hop to the successor: relay, and the direct wale where the two dies are neighbours. -/
def State.pathLink (s : State) (d : Nat) : Nat :=
  let a := s.pathSucc d
  let edge := match waleOf d a with
    | some w => if w < 112 then w else 128 + (w - 112)
    | none => 0
  (match SMap.find s.rounds.relay d with
    | some r => 2 ^ 31 + (r - 1) * 2 ^ 24
    | none => 0) + edge

def State.roundView (s : State) (d off : Nat) : Word :=
  let l := s.rounds.path.length
  if off = 0x048 then w32 (s.rounds.code.toNat * 65536 + l)
  else if off = 0x04C then
    match s.pathPos d with
    | some i => w32 (2 ^ 31 + s.pathSucc d * 65536 + s.pathPred d * 256 + i)
    | none => 0
  else if off = 0x050 then (if (s.pathPos d).isSome && decide (1 < l) then w32 (s.pathLink d) else 0)
  else if 0x060 ≤ off && off % 16 = 12 then
    let x := s.roundCtx d ((off - 0x060) / 16)
    w32 ((x.taken + x.recv) % 65536 * 65536 + (x.taken + x.recv - x.freed) % 256 * 256 + x.st.code)
  else s.reg (pgRound d) off

def BkSt.code (x : BkSt) : Nat :=
  match x with
  | .idle => 0 | .filling => 1 | .ready => 2 | .reducing => 3 | .sending => 4 | .done => 5 | .dropped => 6

def State.collectView (s : State) (d off : Nat) : Word :=
  if off = 0x04C then
    let b := s.regField (pgCollect d) 0x048 6 0
    let x := s.dieBasket d b
    let held := if 0 < s.bkLocal b then s.heldSteps d b % 256 else 0
    w32 (x.tilesIn % 65536 * 65536 + held * 256 + x.st.code)
  else s.reg (pgCollect d) off

def State.dramView (s : State) (d off : Nat) : Word :=
  let x := s.die d
  let up := x.trained
  match off with
  | 0x040 => w32 ((if up then 15 * 65536 else 0) + x.layers.toNat * 256 + bitAt x.selfRef 1 + bitAt up 0)
  | 0x044 => w32 x.dramTemp.toNat
  | _ => s.reg (pgDram d) off

def State.qbufView (s : State) (d q off : Nat) : Word :=
  if off = 0x040 then w32 (s.qbufUsed d q) else s.reg (pgQbuf d q) off

/-- The scrubber works: its die is in service and the engine is not in Shutter (R145). -/
def State.scrubs (s : State) (d : Nat) : Bool :=
  (s.die d).st == .on && (s.die d).trained && s.shut.st != .shuttered && s.shut.st != .waking

/-- SCRUB page registers. DESIGN CHOICE: SRAM_BUSY and DRAM_BUSY show the walks of SCRUB_CTL, that is a rate
other than 0; whether an extra SCRUB_NOW walk counts is not stated, and it does not (assumption 96). -/
def State.scrubView (s : State) (d off : Nat) : Word :=
  let x := s.scrubber d
  match off with
  | 0x068 => w32 (x.dramPos / 8)
  | 0x06C => w32 (x.sramUnit * 2 ^ 24 + x.sramPos / 8)
  | 0x070 =>
    w32 (bitAt (s.scrubs d && s.regField (pgScrub d) 0x040 15 0 != 0) 1 +
      bitAt (s.scrubs d && s.regField (pgScrub d) 0x040 31 16 != 0) 0)
  | _ => s.reg (pgScrub d) off

def State.portLinkView (s : State) (d off : Nat) : Word :=
  if off = 0x040 then w32 ((if (s.port d).link == 3 then 0xFF00 else 0) + (s.port d).link.toNat)
  else s.reg (pgPortLink d) off

def FSt.code (x : FSt) : Nat :=
  match x with | .idle => 0 | .fetching => 1 | .refetch => 2 | .done => 3 | .failed => 4

def State.decryptView (s : State) (d off : Nat) : Word :=
  let keyBits := fun (f : KeySlot → Bool) => (List.range 16).foldl (fun n k => n + bitAt (f (s.keySlot d k)) k) 0
  if off = 0x044 then w32 (keyBits (·.pending) * 65536 + keyBits (·.valid))
  else if 0x080 ≤ off && off < 0x0C0 then
    let k := s.keySlot d ((off - 0x080) / 4)
    if k.valid then k.keyId.zeroExtend 32 else 0
  else if 0x300 ≤ off then
    let f := s.fetch d ((off - 0x300) / 8)
    if off % 8 = 0 then f.version else w32 (f.n % 65536 * 65536 + f.fails % 4 * 64 + f.st.code)
  else s.reg (pgDecrypt d) off

/-- Of the INGEST page: whether a band is being converted now is a matter of time, a free choice once a band
has been taken in (assumption 97). -/
def State.ingestView (s : State) (d off : Nat) : Word :=
  if off = 0x040 then
    let e := s.regField (pgIngest d) 0x040 4 0
    let g := s.ingest d
    w32 ((if g.used && s.freeNow.getLsbD 0 then 2 ^ 31 else 0) + 32 * g.bands.length + e)
  else s.reg (pgIngest d) off

def SlotSt.code (x : SlotSt) : Nat :=
  match x with | .mapped => 0 | .spare => 1 | .faulted => 2 | .testing => 3

def State.quarterView (s : State) (d q off : Nat) : Word :=
  let x := s.quarter d q
  let codes := fun (base n : Nat) => (List.range n).foldl
    (fun a i => a + (x.slots.getD (base + i) .faulted).code * 4 ^ i) 0
  if off = 0x040 then
    w32 (x.cause.toNat * 4096 + x.sparesFree * 256 + bitAt x.gated 1 + bitAt x.iso 0)
  else if off < 0x054 then s.mapWord d (16 * q + (off - 0x044))
  else if off = 0x054 then w32 (codes 0 16)
  else w32 (codes 16 2)

def SeqSt.code (x : SeqSt) : Nat :=
  match x with
  | .idle => 0 | .run => 1 | .waitMark => 2 | .waitWindow => 3 | .waitTile => 4 | .ballast => 5
  | .replay => 6 | .halted => 7
def AccSt.code (x : AccSt) : Nat :=
  match x with
  | .empty => 0 | .preload => 1 | .run => 2 | .check => 3 | .held => 4 | .drain => 5 | .writeback => 6
  | .replay => 7
def BankSt.code (x : BankSt) : Nat := match x with | .free => 0 | .filling => 1 | .full => 2 | .inUse => 3

def State.stallView (s : State) (d p off : Nat) : Word :=
  let x := s.slot d p
  let sum := fun i => x.sums.getD i 0
  match off with
  | 0x040 =>
    let q := slotQuarter p
    match (if s.slotState d p == .mapped then s.logicalOf d p else none) with
    | some l => w32 (l % 4 * 2 ^ 22 + l / 4 % 4 * 2 ^ 20 + q * 2 ^ 18 + 2 ^ 17 + l * 256 + p)
    | none => w32 (q * 2 ^ 18 + p)
  | 0x05C => x.n.extractLsb' 0 32
  | 0x060 => x.n.extractLsb' 32 32
  | 0x064 => w32 (sum 1 * 65536 + sum 0)
  | 0x068 => w32 (sum 3 * 65536 + sum 2)
  | 0x06C => w32 (x.cmdIndex % 2 ^ 20 * 4096 + x.duty * 128 + x.seq.code)
  | 0x070 =>
    w32 (x.bank1.st.code * 1024 + x.bank0.st.code * 256 + x.acc1.st.code * 16 + x.acc0.st.code)
  | _ => s.reg (pgStall d p) off

/-! ### Every page -/

/-- A block register of a page. -/
def State.blockView (s : State) (page off : Nat) : Word :=
  let d := pageDie page
  let o := pageOff page
  match pageKind page with
  | none => 0
  | some k => match k with
    | .engineId => s.engineIdView off
    | .summary => s.summaryView off
    | .bundle => s.bundleView off
    | .ledger | .dieLedger => s.ledgerView page off
    | .power => s.powerView off
    | .clocks => s.clocksView off
    | .thermal => s.thermalView off
    | .shutter => s.shutterView off
    | .bell => s.bellView off
    | .address => s.addressView off
    | .program => s.programView off
    | .security => s.securityView off
    | .meterMirror => s.meterView off
    | .mailbox => s.mailboxView off
    | .spareMap => s.spareMapView off
    | .aperture | .mesh => s.reg page off
    | .reduce => if off = 0x050 then w32 s.red.lead else s.reg page off
    | .sloubPort => s.portView (page - 0x40) off
    | .flows => s.flowsView off
    | .wale | .xwale => s.waleView (page - 0x100) off
    | .dieCtl => s.dieCtlView d off
    | .dieHealth => s.dieHealthView d off
    | .dieBundle => s.dieBundleView d off
    | .streams => s.streamsView d off
    | .round => s.roundView d off
    | .collect => s.collectView d off
    | .dram => s.dramView d off
    | .scrub => s.scrubView d off
    | .portLink => s.portLinkView d off
    | .decrypt => s.decryptView d off
    | .ingest => s.ingestView d off
    | .quarter => s.quarterView d (o - 0x10) off
    | .qbuf => s.qbufView d (o - 0x14) off
    | .stall => s.stallView d (o - 0x20) off

/-- The bits of a register that a read shows: all but write-only and reserved ones (R7, Table 0.5). -/
def RegRow.shown (r : RegRow) : Word := r.ro ||| r.rw ||| r.rs ||| r.w1c ||| r.rc

/-- What a read of a register shows, without latches and side effects. -/
def State.view (s : State) (page off : Nat) : Word :=
  match pageKind page with
  | none => 0
  | some k =>
    match regRow k off with
    | none => 0
    | some r =>
      if !s.pageLive page then 0
      else if s.pageOut page && !(off == 0 || off == 0x00C || off == rFault || off == rFaultFirst) then 0
      else (if off < 0x040 then s.headerView page off else s.blockView page off) &&& r.shown

end Sys2Proof.Machine
end

