-- ==== Sys2Proof/Machine/BundleFam.lean ====
section
/-! DEFINITION. The meanings of the commands of bundles and ledgers (R313-R328). -/

namespace Sys2Proof.Machine

/-! ### The host's commands (Table 13.1) -/

/-- ENGINE of a BND_CTL write is set as written. -/
def State.bndEngine (s : State) (engine : Bool) : State :=
  s.setBctx s.bndSel { s.bctx s.bndSel with engine := engine }

/-- OPEN. Commands to contexts 4 and 5 have no effect (R316). -/
def State.cmdOpen (s : State) : State :=
  let c := s.bndSel
  let x := s.bctx c
  if 4 ≤ c || x.live then s else s.ctxOpen c x.engine x.scope

/-- COMMIT: one marked FULL or SCOPE aborts at once (R318). -/
def State.cmdCommit (s : State) : State :=
  let c := s.bndSel
  let x := s.bctx c
  if 4 ≤ c || x.st != .open then s
  else if x.mark != 0 then s.ctxAbort c x.mark x.wher
  else s.setBctx c { x with st := .preparing, parts := [], blocks := [] }

/-- ABORT: without effect once APPLY has been sent. -/
def State.cmdAbort (s : State) : State :=
  let c := s.bndSel
  if 4 ≤ c || (s.bctx c).applySent then s else s.ctxAbort c 8 0

/-- BND_OPEN, with ENGINE as the same write gives it. -/
def execBndOpen (engine : Bool) (s : State) : Host.Outcome State Fault Refusal :=
  if s.takesWrites pgBundle then s.ok (s.bndEngine engine).cmdOpen else .next s

/-- BND_COMMIT. -/
def execBndCommit (engine : Bool) (s : State) : Host.Outcome State Fault Refusal :=
  if s.takesWrites pgBundle then s.ok (s.bndEngine engine).cmdCommit else .next s

/-- BND_ABORT. -/
def execBndAbort (engine : Bool) (s : State) : Host.Outcome State Fault Refusal :=
  if s.takesWrites pgBundle then s.ok (s.bndEngine engine).cmdAbort else .next s

/-! ### The two phases (Table 13.2) -/

/-- PREPARE may reach participant `p` of a context. -/
def State.prepares (s : State) (c p : Nat) : Bool :=
  let x := s.bctx c
  x.st == .preparing && !x.applySent && (s.ctxParts x).contains p && x.part p == .none

/-- PREPARE: the participant's blocks check their staged writes; the bell token of the phase is in
flight (Table 13.5). The failing write with the lowest place is kept for ABORT_WHERE (R320). -/
def State.prepare (s : State) (c p : Nat) : State :=
  let x := s.bctx c
  let s1 := s.bellJoin p
  match s.partBad x p with
  | none => s1.setBctx c (x.setPart p .prepared)
  | some (r, w) =>
    let keep := x.reason != 0 && decide (x.wher.toNat ≤ w.toNat)
    let y := if keep then x else { x with reason := r, wher := w }
    s1.setBctx c (y.setPart p .nak)

/-- BUNDLE_PREPARE. A program bundle has no prepare round (R322). -/
def execBundlePrepare (r : BndRef) (p : Fin 65) (s : State) : Host.Outcome State Fault Refusal :=
  match r with
  | .prog _ => .next s
  | .ctx c => if s.prepares c p then s.ok (s.prepare c p) else .next s

/-- Pages of a bundle that a participant answers for. -/
def State.partPages (s : State) (x : BndCtx) (p : Nat) : List Nat :=
  ((x.staged.map (·.page)).eraseDups).filter fun g => s.pagePart x g == p

/-- A fault was raised after OPEN in a page of the participant that holds a staged write (R318). -/
def State.partFault (s : State) (x : BndCtx) (p : Nat) : Bool := (s.partPages x p).any x.faults.contains

/-- The hold point of a block has been reached; a remap request waits for the outstanding transfers
of its stall and for the end of a steelyard replay (Tables 7.12, 3.3). -/
def State.atHoldPoint (s : State) (x : BndCtx) (page : Nat) : Bool :=
  page != pgSpareMap || match x.staged.find? fun w => w.page == pgSpareMap && w.off == 0x054 && w.val.getLsbD 31 with
    | none => true
    | some w =>
      let d := fieldOf w.val 21 16
      match s.slotOf d (fieldOf w.val 13 8) with
      | some u => ((s.unitStreams d u).all fun e => e.2.out.isEmpty) &&
          (s.slot d u).acc0.st != .replay && (s.slot d u).acc1.st != .replay
      | none => true

/-- BLOCK_HOLD_READY: the block reports READY and holds from here (R319). -/
def execBlockHoldReady (r : BndRef) (p : Fin 65) (page : Fin 16384) (s : State) :
    Host.Outcome State Fault Refusal :=
  match r with
  | .prog _ => .next s
  | .ctx c =>
    let x := s.bctx c
    if x.st == .preparing && x.part p == .prepared && (s.partPages x p).contains page.val &&
        !x.blocks.contains page.val && s.atHoldPoint x page then
      s.ok (s.setBctx c { x with blocks := page.val :: x.blocks })
    else .next s

/-- A stall takes part in a program bundle and is ready for it: it stands at BUNDLE_CLOSE and every
stream of its staged REARMs is PARKED (R322). -/
def State.pbReady (s : State) (n : Nat) (e : Nat × Nat) : Bool :=
  match s.slotOf e.1 e.2 with
  | none => false
  | some p =>
    match (s.slot e.1 p).bracket with
    | none => false
    | some b => b.num == n && b.ready && !b.void && b.staged.all fun (c : StagedCmd) =>
        match c with
        | .rearm w => s.rearmReady e.1 p w
        | _ => true

/-- A die's READY for a program bundle may reach the root. -/
def State.pbDieReady (s : State) (n d : Nat) : Bool :=
  let b := s.pbundle n
  s.prog.pst == .running && !b.applySent && !b.fault && (s.pbDies n).contains d && s.dieLive d &&
    !b.dies.contains d && ((s.pbParts n).filter (·.1 == d)).all (s.pbReady n)

/-- READY of a participant reaches the root; with the last one APPLY is sent. -/
def State.ctxReady (s : State) (c p : Nat) : State :=
  let y := (s.bctx c).setPart p .ready
  s.setBctx c { y with applySent := (s.ctxParts y).all fun e => y.part e == .ready }

/-- READY of a die for a program bundle: the window opens with the first (R322). -/
def State.pbReadyAt (s : State) (n d : Nat) : State :=
  let b := s.pbundle n
  let ds := d :: b.dies
  (s.ledIssue 0 lgBell d).setPbundle n
    { b with dies := ds, window := true, applySent := (s.pbDies n).all ds.contains }

/-- BUNDLE_READY. -/
def execBundleReady (r : BndRef) (p : Fin 65) (s : State) : Host.Outcome State Fault Refusal :=
  match r with
  | .prog n => if s.pbDieReady n p then s.ok (s.pbReadyAt n p) else .next s
  | .ctx c =>
    let x := s.bctx c
    if x.st == .preparing && !x.applySent && x.part p == .prepared && !s.partFault x p &&
        (s.partPages x p).all x.blocks.contains then
      s.ok (s.ctxReady c p)
    else .next s

/-- BUNDLE_NAK: of a failed check, or of a fault raised since OPEN in a page the bundle stages. -/
def execBundleNak (r : BndRef) (p : Fin 65) (s : State) : Host.Outcome State Fault Refusal :=
  match r with
  | .prog n =>
    let b := s.pbundle n
    if b.fault && !b.applySent && (s.pbDies n).contains p.val && s.pbOpen n then s.ok (s.pbAbort n 3)
    else .next s
  | .ctx c =>
    let x := s.bctx c
    if x.st != .preparing || x.applySent then .next s
    else if x.part p == .nak then s.ok (s.ctxAbort c x.reason x.wher)
    else if s.partFault x p && (x.part p == .prepared || x.part p == .ready) then
      s.ok (s.ctxAbort c 3 0)
    else .next s

/-- BUNDLE_APPLY. -/
def execBundleApply (r : BndRef) (p : Fin 65) (s : State) : Host.Outcome State Fault Refusal :=
  match r with
  | .prog n =>
    let b := s.pbundle n
    if b.applySent && b.dies.contains p.val && !b.applied.contains p.val && s.dieLive p && s.pbParked p n then
      s.ok (s.pbApply p n)
    else .next s
  | .ctx c =>
    let x := s.bctx c
    if x.applySent && x.part p == .ready then s.ok (s.ctxApply c p) else .next s

/-- BUNDLE_ABORT_RECEIVE. A program bundle's abort reaches its dies in one event (assumption 20). -/
def execBundleAbortReceive (r : BndRef) (p : Fin 65) (s : State) : Host.Outcome State Fault Refusal :=
  match r with
  | .prog _ => .next s
  | .ctx c =>
    let x := s.bctx c
    if x.st == .aborted && x.part p != .none then s.ok (s.ctxAbortAt c p) else .next s

/-- COMMIT_WINDOW_EXPIRY. -/
def execCommitWindowExpiry (r : BndRef) (s : State) : Host.Outcome State Fault Refusal :=
  match r with
  | .prog n =>
    let b := s.pbundle n
    if b.window && !b.applySent then s.ok (s.pbAbort n 2) else .next s
  | .ctx c =>
    let x := s.bctx c
    if x.st == .preparing && !x.applySent then s.ok (s.ctxAbort c 2 0) else .next s

/-! ### Ledger checks (R327) -/

/-- Ledgers of a class (Table 13.5): per die for classes 0 to 6, of the engine for class 7. -/
def ledgerCount (cls : Nat) : Nat :=
  match cls with
  | 0 => 4 | 1 => 64 | 2 => 5 | 3 => 128 | 4 => 1024 | 5 => 1024 | 6 => 74 | _ => 64

/-- The page whose block a die's ledger belongs to (R404). -/
def ledgerBlock (d cls i : Nat) : Nat :=
  match cls with
  | 0 => pgRound d
  | 1 => pgQbuf d (i / 16)
  | 2 => pgCollect d
  | 3 => pgCollect d
  | 4 => pgPort d
  | 5 => pgPort d
  | _ => if i < 72 then pgStall d i else if i = 72 then pgStreams d else pgPort d

/-- A failed check: recorded in the ledger page, raised, and the die's violation noted (R327, R404). -/
def State.ledgerViolation (s : State) (d cls i : Nat) : State :=
  let page := if cls = 7 then pgLedger else pgDieLedger d
  let code := if cls = 7 then 0x0602 else 0x0601
  let v := BitVec.ofNat 32 (2 ^ 31 + cls * 2 ^ 24 + i)
  let s1 := if (s.reg page 0x064).getLsbD 31 then s else s.poke page 0x064 v
  let s2 := (s1.count page 2).raise page code
  if cls = 7 then s2
  else
    let x := s2.die d
    (s2.setDie d { x with viol := ledgerBlock d cls i :: page :: x.viol }).setBits pgLedger
      (if d < 32 then 0x068 else 0x06C) (BitVec.ofNat 32 (2 ^ (d % 32)))

/-- The halt of a ledger's scope (Table 13.5). -/
def State.ledgerHalt (s : State) (d cls i : Nat) : State :=
  if cls = 7 then s.abortProgram
  else if cls = 4 || cls = 5 then s.portLost d
  else if cls = 6 && i < 72 then
    match s.logicalOf d i with
    | some l => s.stallFault d l
    | none =>
      let t := (s.setSlotState d i .faulted).repair 0 d i 0
      if s.slotState d i == .testing then t.nextSpare d (slotQuarter i) else t
  else s.takeDieOut d 3

/-- LEDGER_CHECK of one ledger; the check of a page's last ledger completes a round. -/
def execLedgerCheck (d : Die) (l : LedgerRef) (s : State) : Host.Outcome State Fault Refusal :=
  let cls := l.cls.val
  let i := l.idx.val
  if ledgerCount cls ≤ i ∨ (cls ≠ 7 ∧ s.dieLive d = false) then .next s
  else
    let o := if cls = 7 then 0 else d.val
    let last := decide (6 ≤ cls) && i + 1 == ledgerCount cls
    let s1 := if last then s.count (if cls = 7 then pgLedger else pgDieLedger d) 0 else s
    if (s.ledger o cls i).sum = 0 then s.ok s1
    else s.ok ((s1.ledgerViolation d cls i).ledgerHalt d cls i)

end Sys2Proof.Machine
end

