-- ==== Sys2Proof/Machine/FetchFam.lean ====
section
/-! DEFINITION. The meanings of the commands of weight streaming (R224-R246). -/

namespace Sys2Proof.Machine

/-! ### Holds of a bundle on a port (R319) -/

/-- A context stages a register of flow slot `f` of port `p`. -/
def BndCtx.stagesFlow (x : BndCtx) (p f : Nat) : Bool :=
  x.staged.any fun w => w.page == pgFlows && w.slot == 1024 * p + f
/-- Frames of the slot wait: the port's block holds, or the flow table holds with a write to it. -/
def State.flowHeld (s : State) (p f : Nat) : Bool :=
  s.held (pgPort p) ||
    s.bnd.ctx.any fun e => e.2.blocks.contains pgFlows && e.2.stagesFlow p f

/-- The retransmit store of a port, in bytes (R298). -/
def retryBytes : Nat := 4 * 2 ^ 20

/-! ### FETCH_SEND (R227, R228, R240) -/

/-- The walk's FETCH is due, and its flow is OPEN on a port that is up. -/
def State.fetchReady (s : State) (d e : Nat) : Bool :=
  let fl := feFlow (s.feCtl d e)
  let f := s.fetch d e
  feValid (s.feCtl d e) && f.due && (f.st == .fetching || f.st == .refetch) &&
    (s.flow d fl).st == .open && s.portUp d && !s.shuttered && !s.flowHeld d fl

/-- FETCH_SEND: while the store is full the frame waits one counted cycle (R298); without a VALID key the
walk fails; otherwise the frame is sent, and the credit that the walk's issues granted before the flow was
OPEN enters the flow with it. -/
def execFetchSend (d : Die) (e : Fin 32) (s : State) : Host.Outcome State Fault Refusal :=
  if !s.fetchReady d e then .next s
  else if retryBytes < (s.port d).kept + 72 then s.ok (s.incSat (pgPort d) 0x07C)
  else
    let f := s.fetch d e
    let fl := feFlow (s.feCtl d e)
    let s1 := s.setFetch d e { f with due := false, owed := 0, sent := f.sent || (s.feKeySlot d e).valid }
    if !(s.feKeySlot d e).valid then s.ok (s1.failWalk d e 7 f.reqOff f.reqLen)
    else
      let s2 := if f.owed = 0 then s1 else s1.grantFlow d fl f.owed
      s.ok (s2.sendKept d fl (s2.fetchFrame d e))

/-! ### Sequenced frames (R230, R231, R287, R292, R297) -/

/-- A frame outside the window is dropped. Of a flow held in order, one beyond a gap is answered with a NACK
for the gap; one already taken is acknowledged again (R297). -/
def State.windowDrop (s : State) (p : Nat) (h : Hdr) : State :=
  let f := h.flow.toNat
  let x := s.flow p f
  let t := s.incSat (pgPort p) 0x090
  if x.st != .open && x.st != .closing then t
  else if decide ((x.rx - h.seq - 1).toNat < 2 ^ 31) then t.sendCredit p f
  else if s.inOrder p f && h.seq != x.rx then t.nackRanges p f [(x.rx, h.seq - x.rx)]
  else t

/-- A frame that a CLOSING slot takes: below the peer's FINAL_SEQ it is acknowledged and its payload
discarded; a number that the peer said it would never use is not taken (R292). -/
def State.rxClosing (s : State) (p : Nat) (h : Hdr) : State :=
  let f := h.flow.toNat
  let ok := match (s.flow p f).peerFin with
    | some (fin, _, _) => decide ((fin - h.seq - 1).toNat < 2 ^ 31)
    | none => true
  if ok && !((s.flow p f).got.contains h.seq) then (s.takeSeq p f h.seq h.length.toNat).reconcile p f
  else s.reconcile p f

/-- A sequenced frame that names a slot: a WEIGHT frame, or a CTRL frame, whose FETCH asks nothing of the
engine (assumption 98). A WEIGHT frame whose number has arrived before is stale (R246). -/
def State.rxSequenced (s : State) (p : Nat) (k : Packet) : State :=
  let h := k.hdr
  let f := h.flow.toNat
  if !s.rxWindow p h h.length.toNat then s.windowDrop p h
  else
    let s1 := (s.count (pgPort p) 1).rxAck p h
    if (s1.flow p f).st == .closing then s1.rxClosing p h
    else if (s1.flow p f).got.contains h.seq then (if h.type = 0 then s1.stale p else s1)
    else
      let s2 := s1.takeSeq p f h.seq h.length.toNat
      if h.type = 0 then s2.takeWeight p h k.weightB else s2

/-! ### ARRIVE_US_EXPIRY (R239, R242) -/

/-- ARRIVE_US_EXPIRY of a walk whose FETCH has left the port; a consumer whose budget ended first has taken
the breach (R239). -/
def execArriveUsExpiry (d : Die) (e : Fin 32) (s : State) : Host.Outcome State Fault Refusal :=
  let f := s.fetch d e
  if f.sent && (f.st == .fetching || f.st == .refetch) && !s.budgetBroken then
    s.ok ((s.noteFail d e 8 f.reqOff).fetchLost d e)
  else .next s

/-! ### KEY_ERASE (R233) -/

/-- A VALID fetch entry of the die names the key slot. -/
def State.keyUsed (s : State) (d k : Nat) : Bool :=
  (List.range 32).any fun e => feValid (s.feCtl d e) && feKey (s.feCtl d e) == k

/-- The bits of a mask are erased, or their erase is held while a program uses the slot. -/
def State.eraseKeys (s : State) (d : Nat) (mask : Nat) : State :=
  s.forEach ((List.range 16).filter fun k => mask / 2 ^ k % 2 == 1) fun t k =>
    if t.running && t.keyUsed d k then t.setKeySlot d k { t.keySlot d k with pending := true }
    else t.setKeySlot d k KeySlot.reset

/-- KEY_ERASE. -/
def execKeyErase (d : Die) (mask : BitVec 16) (s : State) : Host.Outcome State Fault Refusal :=
  if s.takesWrites (pgDecrypt d) then s.ok (s.eraseKeys d mask.toNat) else .next s

/-- KEY_ERASE_APPLY: held erases apply once PSTATE leaves RUNNING and REPLAY. -/
def execKeyEraseApply (d : Die) (s : State) : Host.Outcome State Fault Refusal :=
  if s.running then .next s
  else
    s.ok (s.forEach ((List.range 16).filter fun k => (s.keySlot d k).pending) fun t k =>
      t.setKeySlot d k KeySlot.reset)

end Sys2Proof.Machine
end

