-- ==== Sys2Proof/Machine/FlowFam.lean ====
section
/-! DEFINITION. The meanings of the commands of Sloub ports and flows (R281-R307, R351). -/

namespace Sys2Proof.Machine

/-! ### Packets that are not Sloub frames (R281, R282) -/

/-- The physical port of a die passes packets. -/
def State.linkOn (s : State) (p : Nat) : Bool := (s.port p).works && !s.dieOut p

/-- NON_SLOUB_PACKET. -/
def execNonSloubPacket (p : Die) (s : State) : Host.Outcome State Fault Refusal :=
  if s.portTakes p then s.ok (s.incSat (pgPort p) 0x080) else .next s

/-- NEIGHBOR_SOLICITATION at a physical port: answered for its own address, and for the buddy's while
it carries the buddy's flows (R351). -/
def execNeighborSolicitation (p : Die) (target : BitVec 128) (s : State) :
    Host.Outcome State Fault Refusal :=
  if !s.linkOn p then .next s
  else
    match [p.val, p.val ^^^ 1].find? fun q => s.carrier q == p.val && s.portIp q == target && !s.dieOut q with
    | some q => s.ok (s.emit (.neighborAdv q p (s.portIp q) (s.portMac p) false))
    | none => .next s

/-- PAUSE_FRAME. -/
def execPauseFrame (p : Die) (s : State) : Host.Outcome State Fault Refusal :=
  if s.linkOn p then s.ok (s.incSat (pgPort p) 0x09C) else .next s

/-! ### Opening (R289-R291) -/

/-- A committed OPEN_REQ acts: at once, or when the slot becomes eligible. -/
def State.actOpen (s : State) (p f : Nat) : State :=
  let x := s.flow p f
  if !x.openReq then s
  else
    let s1 := s.setFlow p f { x with openReq := false }
    if x.st != .free then s1
    else if x.eligible then s1.openNow p f
    else s1.setFlow p f { s1.flow p f with openWait := true }

/-- OPEN_REQ. An LEID that the same bundle commits comes first (R289). -/
def execOpenReq (p : Die) (f : Fin 1024) (s : State) : Host.Outcome State Fault Refusal :=
  if (s.flow p f).openReq && !s.keeper.leidReq then s.ok (s.actOpen p f) else .next s

/-- SLOT_ELIGIBLE. -/
def execSlotEligible (p : Die) (f : Fin 1024) (s : State) : Host.Outcome State Fault Refusal :=
  let x := s.flow p f
  if x.eligible then .next s
  else
    let s1 := s.setFlow p f { x with eligible := true }
    s.ok (if x.openWait && x.st == .free then s1.openNow p f else s1)

/-- REFUSE of a request OPEN (R282, R290): `f` is the slot it names, if any. -/
def State.refuse (s : State) (p : Nat) (h : Hdr) (b : OpenBody) (f : Option Nat) (reason : Byte)
    (us : Word) : State :=
  let src := match f with | some k => s.srcLeid (s.flow p k) | none => s.leid
  let fr : TxFrame :=
    { port := p, carrier := s.carrier p
      sport := match f with | some k => BitVec.ofNat 16 (0xC000 + k) | none => s.portUdp p
      dstIp := h.srcIp, dport := h.udpSrc, dscp := s.dscp p 0, type := 6, flags := 0
      flow := b.senderFlow, gen := b.senderGen, src := src, dst := h.src, vc := 0, seq := 0, ack := 0
      id := 0, offset := 0, length := 0, body := .refuseB { reason := reason, retryUs := us } }
  let s1 := s.incSat pgFlows (if reason = 1 then 0x074 else 0x078)
  if s.keeper.withdrawn then s1 else (s1.putFrame fr).count (pgPort p) 0

/-- A refusal whose RETRY_US is a time, which is a free value (assumption 24). -/
def State.refuseLater (s : State) (p : Nat) (h : Hdr) (b : OpenBody) (f : Option Nat) (reason : Byte) : State :=
  (s.refuse p h b f reason (s.freeNow.extractLsb' 0 32)).freeNext

/-- A slot is taken for a peer's request: it is accepted and OPEN. -/
def State.acceptOpen (s : State) (p f : Nat) (h : Hdr) (b : OpenBody) : State :=
  let s1 := s.leaveFree p f .opening h.src h.srcIp h.udpSrc b.senderFlow b.senderGen
  let s2 := (s1.setFlow p f { s1.flow p f with rx := b.initSeq }).takeLimit p f b.limit
  (s2.enterOpen p f).sendAccept p f

/-- The peer's OPEN is taken as the acceptance of an OPENING slot. -/
def State.openAnswered (s : State) (p f : Nat) (b : OpenBody) : State :=
  let x := s.flow p f
  let s1 := s.setFlow p f { x with peerFlow := b.senderFlow, peerGen := b.senderGen, rx := b.initSeq }
  (s1.takeLimit p f b.limit).enterOpen p f

/-- A FREE slot of a port that a request may take. -/
def State.freeSlot (s : State) (p : Nat) : Option Nat :=
  (List.range 1024).find? fun f =>
    let x := s.flow p f
    x.st == .free && x.eligible && !x.openReq

/-- A CLOSING slot, or a FREE one that becomes eligible, gives FULL a retry time. -/
def State.retryKnown (s : State) (p : Nat) : Bool :=
  s.flows.any fun e => e.1 / 1024 == p && (e.2.st == .closing || (e.2.st == .free && !e.2.eligible))

/-- A request OPEN that passed the checks (R290). -/
def State.requestOpen (s : State) (p : Nat) (h : Hdr) (b : OpenBody) : State :=
  let n := h.flow.toNat
  let named : Option Nat := if n < 1024 then some n else none
  if s.shuttered then s.refuseLater p h b named 3
  else if n = 0xFFFF then
    match s.freeSlot p with
    | some f => s.acceptOpen p f h b
    | none => if s.retryKnown p then s.refuseLater p h b none 1 else s.refuse p h b none 1 0
  else if 1024 ≤ n then s.refuseLater p h b none 4
  else
    let t := s.actOpen p n
    let x := t.flow p n
    match x.st with
    | .free => if x.eligible then t.acceptOpen p n h b else t.refuseLater p h b named 2
    | .opening => if x.peer = h.src then t.openAnswered p n b else t.refuseLater p h b named 4
    | .open => t.refuse p h b named 2 0
    | .closing => t.refuseLater p h b named 2

/-! ### Closing (R292) -/

/-- CLOSE_REQ. -/
def execCloseReq (p : Die) (f : Fin 1024) (s : State) : Host.Outcome State Fault Refusal :=
  if (s.flow p f).closeReq then
    let s1 := s.actOpen p f
    s.ok ((s1.setFlow p f { s1.flow p f with closeReq := false }).hostClose p f 0 1)
  else .next s

/-- A peer's CLOSE that passed the checks. -/
def State.peerClose (s : State) (p f : Nat) (b : CloseBody) : State :=
  let x := s.flow p f
  let s1 := if x.st == .closing then s
    else (s.closeSlot p f 3 (if b.reason = 1 then 3 else 2)).failFlow p f 6
  let y := s1.flow p f
  (s1.setFlow p f { y with peerFin := some (b.finalSeq, b.sent, b.limit) }).reconcile p f

/-- A REFUSE that passed the checks: it frees an OPENING slot; on an OPEN flow it fails the waiting walks and
changes nothing else (Table 12.2). -/
def State.takeRefuse (s : State) (p f : Nat) : State :=
  match (s.flow p f).st with
  | .opening => s.toFree p f 5
  | .open => s.failFlow p f 5
  | _ => s

/-- WRITE_OFF_EXPIRY. -/
def execWriteOffExpiry (p : Die) (f : Fin 1024) (s : State) : Host.Outcome State Fault Refusal :=
  if (s.flow p f).st == .closing then s.ok (s.writeOff p f) else .next s

/-! ### Acknowledgement and retransmission (R293-R298) -/

/-- A sequence number lies in a NACK's ranges. -/
def inRanges (l : List (Word × Word)) (q : Word) : Bool := l.any fun r => decide ((q - r.1).toNat < r.2.toNat)

/-- NACK MISSING: a frame sent once is sent again; of one already resent, whether that was within the
last RTO is a matter of time, a free choice (assumption 24). -/
def State.nackMissing (s : State) (p f : Nat) (l : List (Word × Word)) : State :=
  let ks := (s.flow p f).kept
  let pick := ks.zipIdx.filter fun e =>
    inRanges l e.1.frame.seq && (e.1.sends == 1 || (Config.freeValue (s.free + e.2)).getLsbD 0)
  let seqs := pick.map fun e => e.1.frame.seq
  let s1 : State := { s with free := s.free + ks.length }
  s1.resend p f fun k => seqs.contains k.frame.seq

/-- A NACK that passed the checks. -/
def State.takeNack (s : State) (p f : Nat) (b : NackBody) : State :=
  let s1 := s.incSat (pgPort p) 0x098
  let x := s1.flow p f
  if b.reason = 0 then
    if (x.st == .open || x.st == .closing) && !x.lost then s1.nackMissing p f b.ranges else s1
  else
    match s1.fetchOf p f b.fetchTag with
    | some e => s1.failWalk p e 5 (s1.fetch p e).reqOff (s1.fetch p e).reqLen
    | none => s1

/-- A CREDIT that passed the checks. An OPENING slot has received no credit (R289). -/
def State.takeCredit (s : State) (p f : Nat) (limit : DWord) : State :=
  if (s.flow p f).st == .opening then s else (s.takeLimit p f limit).reconcile p f

/-! ### Arriving frames (Table 12.4): what a frame does follows from its TYPE, which its bytes give -/

/-- Frames of the named slot wait while its page holds, or while the port takes none; in Shutter the port
takes no sequenced frame (R305). -/
def State.rxMay (s : State) (p : Nat) (h : Hdr) : Bool :=
  s.portTakes p && !s.flowHeld p h.flow.toNat && !(s.shuttered && (h.type = 0 || h.type = 2))

/-- A frame that is not sequenced and names a slot. -/
def State.rxV0 (s : State) (p : Nat) (k : Packet) : State :=
  let h := k.hdr
  let f := h.flow.toNat
  let s1 := s.count (pgPort p) 1
  match h.type.toNat with
  | 3 => (s1.rxAck p h).takeCredit p f k.limit
  | 4 => if (s1.flow p f).st == .opening then s1.openAnswered p f k.openB else s1
  | 5 => (s1.rxAck p h).peerClose p f k.closeB
  | 6 => s1.takeRefuse p f
  | _ => ((s1.rxAck p h).takeNack p f k.nackB).reconcile p f

/-- A packet is taken: dropped and counted at the first check it fails, otherwise handled by its type. -/
def State.receive (s : State) (p : Nat) (k : Packet) : State :=
  let h := k.hdr
  match s.rxOuter p h with
  | some r => s.incSat (pgPort p) r
  | none =>
    let s0 := s.crossBuddy p (s.carrier p) k.udp.length
    if h.type = 4 ∧ k.mode = 0 then (s0.count (pgPort p) 1).requestOpen p h k.openB
    else if !s0.rxSlot p h then s0.incSat (pgPort p) 0x08C
    else if h.type = 0 ∨ h.type = 2 then s0.rxSequenced p k
    else s0.rxV0 p k

/-- WEIGHT_FRAME. -/
def execWeightFrame (p : Die) (h : PacketHdr) (udp : List Byte) (s : State) :
    Host.Outcome State Fault Refusal :=
  if s.rxMay p (Packet.mk h udp).hdr then s.ok (s.receive p ⟨h, udp⟩) else .next s
/-- OPEN_REQUEST_FRAME. -/
def execOpenRequestFrame (p : Die) (h : PacketHdr) (udp : List Byte) (s : State) :
    Host.Outcome State Fault Refusal :=
  if s.rxMay p (Packet.mk h udp).hdr then s.ok (s.receive p ⟨h, udp⟩) else .next s
/-- OPEN_ACCEPT_FRAME. -/
def execOpenAcceptFrame (p : Die) (h : PacketHdr) (udp : List Byte) (s : State) :
    Host.Outcome State Fault Refusal :=
  if s.rxMay p (Packet.mk h udp).hdr then s.ok (s.receive p ⟨h, udp⟩) else .next s
/-- CLOSE_FRAME. -/
def execCloseFrame (p : Die) (h : PacketHdr) (udp : List Byte) (s : State) :
    Host.Outcome State Fault Refusal :=
  if s.rxMay p (Packet.mk h udp).hdr then s.ok (s.receive p ⟨h, udp⟩) else .next s
/-- REFUSE_FRAME. -/
def execRefuseFrame (p : Die) (h : PacketHdr) (udp : List Byte) (s : State) :
    Host.Outcome State Fault Refusal :=
  if s.rxMay p (Packet.mk h udp).hdr then s.ok (s.receive p ⟨h, udp⟩) else .next s
/-- NACK_FRAME. -/
def execNackFrame (p : Die) (h : PacketHdr) (udp : List Byte) (s : State) :
    Host.Outcome State Fault Refusal :=
  if s.rxMay p (Packet.mk h udp).hdr then s.ok (s.receive p ⟨h, udp⟩) else .next s
/-- CREDIT_FRAME. -/
def execCreditFrame (p : Die) (h : PacketHdr) (udp : List Byte) (s : State) :
    Host.Outcome State Fault Refusal :=
  if s.rxMay p (Packet.mk h udp).hdr then s.ok (s.receive p ⟨h, udp⟩) else .next s

/-! ### FRAME_EGRESS (R298, R300, R351) -/

/-- A new sequenced frame may leave: the flow is OPEN on a port that is up and does not hold. -/
def State.egressMay (s : State) (p f : Nat) : Bool :=
  (s.flow p f).st == .open && s.maySend p (s.flow p f) && !s.shuttered && !s.flowHeld p f

/-- The store has room for a frame and the flow has credit for it; a frame kept from an earlier use of the
slot has its room (R294). -/
def State.egressFits (s : State) (p f : Nat) (k : Kept) : Bool :=
  (k.sends != 0 || decide ((s.port p).kept + frameBytes k.frame ≤ retryBytes)) &&
  decide ((s.flow p f).sent.toNat + k.bytes ≤ (s.flow p f).limitOut.toNat)

/-- Class of a frame in its carrier's round robin: V2 and V3 of the carrier's own table, then of the
buddy's. -/
def TxFrame.egressClass (k : TxFrame) (own : Bool) : Nat := (if own then 0 else 2) + k.vc.toNat % 2

/-- Quantum of a class of a carrier, in bytes: Q2 or Q3 KiB of the table it belongs to; 0 acts as 1. -/
def State.egressQuantum (s : State) (c i : Nat) : Nat :=
  let p := if i < 2 then c else c ^^^ 1
  1024 * max 1 (if i % 2 = 0 then s.regField (pgPort p) 0x068 7 0 else s.regField (pgPort p) 0x068 15 8)

/-- Frames that are ready and have credit on a carrier, by class and bytes: the heads of the queues of the
tables it carries. -/
def State.egressReady (s : State) (c : Nat) : List (Nat × Nat) :=
  s.flows.filterMap fun e =>
    let p := e.1 / 1024
    let f := e.1 % 1024
    match e.2.queue with
    | [] => none
    | k :: _ =>
      if s.carrier p == c && s.egressMay p f && s.egressFits p f k then
        some (k.frame.egressClass (p == c), frameBytes k.frame)
      else none

/-- The round robin of a carrier when class `i` asks to send `n` bytes: the class that sends next, and the
round robin after it. In a class the shortest of the frames that wait stands for it (assumption 100). -/
def State.egressPick (s : State) (c i n : Nat) : Option (Nat × Drr) :=
  let l := s.egressReady c
  let need := fun j => if j = i then some n
    else ((l.filter (·.1 == j)).map (·.2)).min?
  Drr.pick 4 (s.egressQuantum c) need 64 (s.port c).drr

/-- FRAME_EGRESS: the frame at the head of the flow's queue is sent where the store has room, the flow has
credit and the round robin serves its class; without room or credit it waits one counted cycle
(assumption 17). -/
def execFrameEgress (p : Die) (f : Fin 1024) (s : State) : Host.Outcome State Fault Refusal :=
  let x := s.flow p f
  match x.queue with
  | [] => .next s
  | k :: r =>
    if !s.egressMay p f then .next s
    else if !s.egressFits p f k then s.ok (s.incSat (pgPort p) 0x07C)
    else
      let c := s.carrier p
      let i := k.frame.egressClass (c == p.val)
      match s.egressPick c i (frameBytes k.frame) with
      | none => .next s
      | some (j, r') =>
        if j = i then
          let s1 := s.setPort c { s.port c with drr := r' }
          s.ok ((s1.setFlow p f { x with queue := r }).sendKept p f k)
        else .next s

/-- The flow is lost (R293): the walks that wait on it fail (R240). -/
def State.flowLost (s : State) (p f : Nat) : State :=
  let s1 := s.raise (pgPort p) 0x0502
  let x := s1.flow p f
  match x.st with
  | .opening => (s1.toFree p f 4).failFlow p f 6
  | .open =>
    let s2 := (s1.closeSlot p f 2 4).failFlow p f 6
    s2.setFlow p f { s2.flow p f with lost := true }
  | _ => s1.setFlow p f { x with lost := true }

/-- RTO_EXPIRY of the request OPEN, or of the oldest unacknowledged frame. -/
def execRtoExpiry (p : Die) (f : Fin 1024) (s : State) : Host.Outcome State Fault Refusal :=
  let x := s.flow p f
  if !s.timersRun p then .next s
  else if x.st == .opening then
    if s.retryMax p < x.openSends then s.ok (s.flowLost p f)
    else s.ok ((s.setFlow p f { x with openSends := x.openSends + 1 }).sendOpen p f)
  else if (x.st == .open || x.st == .closing) && !x.lost then
    match x.kept with
    | [] => .next s
    | k :: _ =>
      if s.retryMax p < k.sends then s.ok (s.flowLost p f)
      else s.ok (s.resend p f fun e => e.frame.seq == k.frame.seq)
  else .next s

/-- ACK_DELAY_EXPIRY: the current ACK and LIMIT go out, and a NACK for the gaps below what has been
accepted. -/
def execAckDelayExpiry (p : Die) (f : Fin 1024) (s : State) : Host.Outcome State Fault Refusal :=
  let x := s.flow p f
  if (x.st == .open || x.st == .closing) && s.portUp p then
    let s1 := s.sendCredit p f
    s.ok (if x.got.isEmpty then s1 else s1.sendNack p f)
  else .next s

/-! ### PURGE (R294) -/

/-- Shards, as (basket, shard), and PORT_OUT transfers that frames belong to. -/
def shardsOf (l : List Kept) : List (Nat × Nat) :=
  (l.filterMap fun k => match k.frame.body with
    | .basketB b sh .. => some (b.toNat, sh.toNat)
    | _ => none).eraseDups
def xfersOf (l : List Kept) : List (Nat × Nat) := (l.filterMap (·.xfer)).eraseDups

/-- A frame belongs to one of the shards or transfers. -/
def Kept.among (k : Kept) (sh xf : List (Nat × Nat)) : Bool :=
  (match k.frame.body with | .basketB b d .. => sh.contains (b.toNat, d.toNat) | _ => false) ||
  (match k.xfer with | some e => xf.contains e | none => false)

/-- PURGE of a FREE slot: what is left of the shards and transfers whose kept frames go is discarded
with them. -/
def State.purge (s : State) (p f : Nat) : State :=
  let x := s.flow p f
  let gone := x.held
  let sh := shardsOf gone
  let xf := xfersOf gone
  let s1 := s.dropKept p f gone []
  let y := s1.flow p f
  let s2 := s1.setFlow p f { y with queue := y.queue.filter fun k => k.sends == 0 && !k.among sh xf }
  let s3 := s2.forEach sh fun t e =>
    let z := t.dieBasket p e.1
    t.setDieBasket p e.1 { z with owned := z.owned.filter fun o => o.1 != e.2 }
  let s4 := s3.incSat (pgPort p) 0x0A0 (sh.length + xf.length)
  (s4.streamsAcked p xf).basketSent p

/-- PURGE: the slot that FLOW_SEL names. -/
def State.purgeSel (s : State) : State :=
  let p := s.regField pgFlows 0x040 15 10
  let f := s.regField pgFlows 0x040 9 0
  if (s.flow p f).st == .free then s.purge p f else s

/-- PURGE. -/
def execPurge (s : State) : Host.Outcome State Fault Refusal :=
  if s.takesWrites pgFlows then s.ok s.purgeSel else .next s

/-! ### Shutter and the link (R305, R306, R351) -/

/-- SHUTTER_CREDIT_TICK. -/
def execShutterCreditTick (p : Die) (s : State) : Host.Outcome State Fault Refusal :=
  if s.shuttered && s.portUp p then
    s.ok (s.forEach (List.range 1024) fun t f =>
      if (t.flow p f).st == .open then t.sendCredit p f else t)
  else .next s

/-- LINK_DOWN. -/
def execLinkDown (p : Die) (s : State) : Host.Outcome State Fault Refusal :=
  if s.linkOn p then
    s.ok (((s.setPort p { s.port p with link := 0 }).count (pgPortLink p) 2).raise (pgPortLink p) 0x0501)
  else .next s

/-- The link of a port that is ON or STARTING comes up; a starting port is then ON (Table 16.8). -/
def State.portUpNow (s : State) (p : Nat) : State :=
  let x := s.port p
  s.setPort p { x with st := if x.st == .draining then .draining else .on, link := 3 }
/-- LINK_UP. -/
def execLinkUp (p : Die) (s : State) : Host.Outcome State Fault Refusal :=
  let x := s.port p
  if (x.st == .on || x.st == .starting || x.st == .draining) && !s.dieOut p && x.link != 3 then s.ok (s.portUpNow p) else .next s

/-- PORT_HOLD_EXPIRY: the link has been down for the whole window. A port whose flows already run on
its buddy has nothing to move. -/
def execPortHoldExpiry (p : Die) (s : State) : Host.Outcome State Fault Refusal :=
  let x := s.port p
  if x.st == .on && !s.dieOut p && x.link != 3 && s.carrier p == p.val then s.ok (s.portLost p) else .next s

end Sys2Proof.Machine
end

