-- ==== Sys2Proof/Machine/KeeperOps.lean ====
section
/-! DEFINITION. What the keeper does on its own: its log (R429), the keys (R451), the Shutter latch and
target (R378, R379), FINAL (R441), the whole withdrawal (R357), the progress of an adoption (R427). -/

namespace Sys2Proof.Machine

/-! ### The log (R429) -/

/-- A log entry: its time, and the detail that the specification does not lay out, are free values
(assumption 24). The log holds 4,096 entries and overwrites the oldest. -/
def State.logEvent (s : State) (code page : Nat) : State :=
  let e : LogEntry :=
    { ms := Config.freeValue s.free, power := s.keeper.powerOns, code := BitVec.ofNat 16 code,
      page := BitVec.ofNat 16 page,
      detail := leBytes 8 (Config.freeValue (s.free + 1)).toNat ++ leBytes 8 (Config.freeValue (s.free + 2)).toNat }
  let l := if s.keeper.log.length < 4096 then s.keeper.log else s.keeper.log.drop 1
  ({ s with free := s.free + 3, keeper := { s.keeper with log := l ++ [e] } } : State).count pgMailbox 2

/-- A log entry whose event code the specification does not give. -/
def State.logOther (s : State) (page : Nat) : State :=
  (s.freeNext).logEvent (s.freeNow.toNat % 65536) page

/-! ### Keys (R451) -/

/-- Every key slot of every die is erased. -/
def State.eraseAllKeys (s : State) : State := { s with weights := { s.weights with keys := [] } }

/-! ### The Shutter target (R378, R379) -/

/-- The target is Shutter. -/
def State.shutTarget (s : State) : Bool := s.shut.pin || s.shut.latch

/-- Follow the target: a running program is asked to hold at its step end, and asked no more when the
target is awake again before entry. -/
def State.retarget (s : State) : State :=
  match s.shut.st with
  | .awake =>
    if s.shutTarget && s.running then
      { s with shut := { s.shut with st := .waiting }, prog := { s.prog with hold := true } }
    else s
  | .waiting =>
    if s.shutTarget then s
    else { s with shut := { s.shut with st := .awake }, prog := { s.prog with hold := false } }
  | _ => s

/-- Set or clear the latch. -/
def State.setLatch (s : State) (b : Bool) : State :=
  ({ s with shut := { s.shut with latch := b } } : State).retarget

/-- On an IB-6442-WS a wake is withheld while the meter is not working (R378, R444). -/
def State.wakeBlock (s : State) : State :=
  { s with shut := { s.shut with blocked := Config.variantWS && !s.meter.working && decide (7 ≤ s.keeper.bring) } }

/-! ### FINAL (R441) -/

/-- The tally unit latches its counts and sends them unsigned to the meter. -/
def State.sendFinal (s : State) (withdrawal : Bool) : State :=
  let m := s.meter
  let t := { m.tally with latchW := m.tally.work, latchB := m.tally.ballast }
  let s1 : State := { s with meter := { m with tally := t, fin := if m.started then some withdrawal else none } }
  s1.emit (.final (tallies m.tally.work) (tallies m.tally.ballast))

/-! ### The meter's start (R435) -/

/-- The meter completes its own start. -/
def Meter.start (m : Meter) : Meter :=
  { m with started := true, fresh := false, energy := 0, sec := MeterSec.reset, above := false, since := 0,
           waiting := none, snapOut := false, badRep := false, fin := none, low := false, pend := none
           status := { m.status with fw := match m.pend with | some i => i.version | none => m.status.fw } }

/-! ### Adoption (R427) -/

/-- PROG_CMD.CHECK_GO: nothing while a check is BUSY. -/
def State.checkGo (s : State) : State :=
  if s.prog.check == .busy then s
  else { s with prog := { s.prog with check := .busy, checkDir := (s.regPair pgProgram 0x048).extractLsb' 0 48 } }

/-- An adoption is under way. -/
def Keeper.adopting (k : Keeper) : Bool := k.ast == .waking || k.ast == .checking || k.ast == .loading

/-- A SHUTTER command held during the adoption is applied (Table 17.7). -/
def State.adoptEnd (s : State) (a : ASt) (cause : Byte) : State :=
  let held := s.keeper.held
  let s1 : State := { s with keeper := { s.keeper with ast := a, afail := cause, adopt := none, held := false } }
  let s2 := s1.count pgAddress (if a == .adopted then 1 else 2)
  if held then s2.setLatch true else s2

/-- The adoption fails with a cause. -/
def State.adoptFail (s : State) (cause : Byte) : State := s.adoptEnd .failed cause

/-- LEID committed under context 4; then the standby image, or the end. -/
def State.adoptLeidCommit (s : State) (leid : BitVec 20) : State :=
  let w : Staged := { page := pgAddress, off := 0x044, val := leid.zeroExtend 32, slot := 0 }
  if !s.leidRule w then s.adoptFail 1
  else
    let t := s.internal 4 true 0 [w]
    if (t.bctx 4).st != .committed then t.adoptFail 1
    else
      let k := { t.keeper with adopt := none, leidReq := t.keeper.leidReq || s.changes w }
      let t1 : State := { t with keeper := k }
      if t1.regField pgAddress 0x04C 0 0 = 1 then
        let t2 := (t1.pokePair pgProgram 0x048 (t1.regPair pgAddress 0x050)).checkGo
        { t2 with keeper := { t2.keeper with ast := .checking } }
      else t1.adoptEnd .adopted t1.keeper.afail

/-- The keeper commits LOAD under context 4. -/
def State.adoptLoad (s : State) : State :=
  let v := s.reg pgProgram 0x040
  let w : Staged := { page := pgProgram, off := 0x040, val := v ||| 2, slot := 0 }
  if !s.progRule [w] w then s.adoptFail 1
  else
    let t := s.internal 4 true 0 [{ w with val := v }]
    if (t.bctx 4).st != .committed then t.adoptFail 1
    else { t with prog := { t.prog with loadReq := true }, keeper := { t.keeper with ast := .loading } }

/-- The next step of an adoption whose wait is over. -/
def State.adoptGo (s : State) : State :=
  match s.keeper.adopt with
  | some leid =>
    if s.shut.blocked && s.shut.st != .awake then s.adoptFail 3
    else if s.shut.st != .awake || s.running then s
    else s.adoptLeidCommit leid
  | none =>
    match s.keeper.ast with
    | .checking =>
      match s.prog.check with
      | .busy => s
      | .passed => s.adoptLoad
      | _ => s.adoptFail 2
    | .loading => if s.prog.loadReq then s else s.adoptEnd .adopted s.keeper.afail
    | _ => s

/-! ### Withdrawal (R357, R431, R441, R451) -/

/-- The whole withdrawal of Table 14.5: also the keeper's log entry, the keys, FINAL to the meter, and
an adoption under way fails with cause 1. -/
def State.withdrawAll (s : State) : State :=
  if s.keeper.withdrawn then s
  else
    let s1 := ((s.withdraw.logEvent 0x0703 pgPower).eraseAllKeys).sendFinal true
    if s1.keeper.adopting then s1.adoptFail 1 else s1

end Sys2Proof.Machine
end

