-- ==== Sys2Proof/Machine/BringOps.lean ====
section
/-! DEFINITION. Bring-up as operations (R415-R419): loss of power, wales trained, dies booted, the grid
formed, quarters started. -/

namespace Sys2Proof.Machine

/-! ### What a loss of 42 V leaves (R364, R419) -/

/-- Only what is kept without power stays: the keeper's own store and fuses, the meter, the isolation
switches, the levels of the pins. -/
def State.powerOff (s : State) : State :=
  { State.reset with
    pending := s.pending, out := s.out, free := s.free
    keeper := { Keeper.reset with
      powerOns := s.keeper.powerOns, active := s.keeper.active, uactive := s.keeper.uactive, banks := s.keeper.banks
      verK := s.keeper.verK, verU := s.keeper.verU, log := s.keeper.log, repairs := s.keeper.repairs
      lost36 := s.keeper.lost36 }
    sec := { Sec.reset with svnFuse := s.sec.svnFuse }
    meter := { s.meter with fresh := false, working := false, snapOut := false }
    pins := { Pins.reset with prsnt := s.pins.prsnt }
    shut := { Shut.reset with pin := s.shut.pin }
    pwr := { Pwr.reset with capdown := s.pwr.capdown }
    dies := (s.dies.filter fun e => e.2.iso).map fun (e : Nat × DieSt) => (e.1, { DieSt.reset with iso := true })
    quarters := (s.quarters.filter fun e => e.2.iso).map fun (e : Nat × QuarterSt) =>
      (e.1, { QuarterSt.reset with iso := true }) }

/-! ### Wales (R336, R348, R415) -/

/-- Lanes of a group that the repair map holds. -/
def State.retiredLanes (s : State) (w : Nat) (ba : Bool) (g : Nat) : Nat :=
  (s.keeper.repairs.filter fun r => r.kind == 3 && r.unit == w && r.lane / 64 == (if ba then 32 else 0) + g).length

/-- A wale trains: a group with one retired lane runs on its spare, one with more is out of service. -/
def State.trainWale (s : State) (w : Nat) : State :=
  let mask := fun (ba : Bool) (f : Nat → Bool) =>
    bitsWord 0 (waleGroups w) fun g => f (s.retiredLanes w ba g)
  s.setWale w { s.wale w with
    st := .on, rearm := false, hold := []
    groupAB := mask false (· < 2), groupBA := mask true (· < 2)
    spareAB := mask false (· == 1), spareBA := mask true (· == 1) }

/-! ### PWR_OK (R366) -/

/-- PWR_OK: the input in range and, from step 7 on, every rail in regulation. -/
def State.pwrCheck (s : State) : State :=
  { s with pins := { s.pins with pwrOk := s.pwr.input && s.pwr.vinOk && decide (7 ≤ s.keeper.bring) } }

/-! ### Dies -/

/-- A die starts to boot: its rails are up and its microcode is verified next (Table 17.2). -/
def State.bootDie (s : State) (d : Nat) : State :=
  let x := s.die d
  (s.setDie d { x with st := .starting, stage := 2, err := 0, layers := 0, hash := 0, trained := false }).count
    (pgDieCtl d) 0

/-- The memory of a die reads zero (R141). -/
def State.zeroDie (s : State) (d : Nat) : State := s.zeroRange (d * 2 ^ 42) ((d + 1) * 2 ^ 42)

/-- The levels of a die's pipeline hold two credits each (R256). -/
def State.pipeStart (s : State) (d : Nat) : State :=
  s.forEach (List.range 5) fun t k =>
    (t.setLevel d k { Level.reset with credits := 2 }).ledIssue d lgPipe k 2

/-- A die has booted: microcode loaded and measured, DRAM trained and zeroed, quarter buffers zeroed. The
retries of its DRAM training and the time it took are free (assumption 24). -/
def State.bootDone (s : State) (d : Nat) : State :=
  let x := s.die d
  let hash := wordAt (s.measurement 3) 1 ++ wordAt (s.measurement 3) 0
  let s1 := (s.zeroDie d).setDie d
    { x with st := .on, service := 0, cause := 0, stage := 5, err := 0, layers := 15, hash := hash, bell := true,
             missed := 0, trained := true, selfRef := false, readmit := false, viol := [] }
  let s2 := (s1.pipeStart d).count (pgDieCtl d) 1 (s.freeNow.toNat % 13)
  ({ s2 with cnt := SMap.set 0 s2.cnt (4 * pgDieCtl d + 2) (Config.freeValue (s.free + 1)), free := s.free + 2 } : State)

/-- A boot fails: the die is ABSENT with OUT_CAUSE 7 (R418). -/
def State.bootFail (s : State) (d : Nat) (err : Byte) : State :=
  let x := s.die d
  let y := { x with stage := 6, err := err, readmit := false }
  if x.service = 2 then
    let t := ((s.setDie d { y with st := .absent, cause := 7 }).commitDieOut d).count pgSpareMap 1
    { t with keeper := { t.keeper with memberGen := t.keeper.memberGen + 1 } }
  else (s.setDie d y).dieGone d 7 .absent

/-! ### Quarters -/

/-- Markers of the pages whose map a bundle forms (R18): SPARE_MAP and the QUARTER pages of a die. -/
def formWrites (d : Nat) : List Staged :=
  { page := pgSpareMap, off := 0, val := 0, slot := 0 } ::
  (List.range 4).map fun q => { page := pgQuarter d q, off := 0, val := 0, slot := 0 }

/-- A quarter's slots and map from the repair map: each logical stall takes the lowest regular slot,
then the lowest spare slot, that is not FAULTED (R416, R17). A quarter off for heat stays so (R386). -/
def State.formQuarter (s : State) (d q : Nat) : State :=
  let bad := fun i => s.keeper.repairs.any fun r => r.kind == 0 && r.die == d && r.unit == slotNum q i
  let good := (List.range 18).filter fun i => !bad i
  let used := good.take 16
  let x := s.quarter d q
  let y := { x with
    map := (List.range 16).map fun i => used[i]?
    slots := (List.range 18).map fun i => if bad i then SlotSt.faulted else if used.contains i then .mapped else .spare
    remapOf := none }
  let lost := s.keeper.repairs.any fun r => r.kind == 1 && r.die == d && r.unit == q
  s.setQuarter d q (if x.iso then { y with st := .faulted, gated := true, cause := 2 }
    else if lost || decide (good.length < 16) then { y with st := .faulted, gated := true, cause := 3 }
    else if x.tst == .tripped || x.tst == .cool then { y with st := .off, gated := true, cause := 1 }
    else { y with st := .off, gated := true, cause := 0 })

/-- The recovery agent forms the maps of dies: a bundle of context 5 with their scope, so that SPARE_MAP and the QUARTER pages
take its tag (R18, R416). -/
def State.formMaps (s : State) (ds : List Nat) : State :=
  let m := maskOf ds
  let s1 := (s.makeWay false m).ctxOpen 5 false m
  if (s1.bctx 5).st != .open then s1
  else
    let s2 := s1.setBctx 5 { s1.bctx 5 with staged := ds.flatMap formWrites }
    (s2.forEach ds fun t d => (List.range 4).foldl (fun u q => u.formQuarter d q) t).ctxCommitted 5

/-- A quarter's rail starts to come up. -/
def State.startQuarter (s : State) (d q : Nat) : State :=
  let x := s.quarter d q
  if x.st == .off && !x.iso && x.tst != .tripped && x.tst != .cool then s.setQuarter d q { x with st := .starting } else s

/-- A started quarter is ON at duty 0 with zeroed scratchpads and a running clock, divided where CAPDOWN
divides its group (R386, R371). A stall whose remap the dark cut short gets its spare now. -/
def State.quarterUp (s : State) (d q : Nat) : State :=
  let x := s.quarter d q
  let s1 := (s.zeroScratch d q).forEach (List.range 18) fun t i =>
    let p := slotNum q i
    t.setSlot d p { Stall.reset with seed := t.regPair (pgStall d p) rSeed }
  let s2 := s1.forEach (List.range 4) fun t a => t.setArc d q a Arcade.reset
  let s3 := s2.setQuarter d q
    { x with st := .on, gated := false, cause := 0, rearm := false, clock := true, tst := .normal,
             div4 := s.pwr.capdown || s.pwr.divided.getLsbD ((4 * d + q) / 8) }
  s3.nextSpare d q

/-! ### The steps of Table 17.1 -/

/-- Step 5: wales trained, ports and dies started. A die whose spine rail is isolated, or that the repair
map holds, is FAULTED and out (R336, R355). -/
def State.bringDies (s : State) : State :=
  let s1 := (s.forEach (List.range 210) fun t w => t.trainWale w)
  let s2 := s1.forEach allDies fun t d =>
    if (t.die d).iso || t.keeper.repairs.any fun r => r.kind == 2 && r.die == d then
      t.setDie d { t.die d with st := .faulted, service := 2, cause := 2 }
    else (t.bootDie d).setPort d { t.port d with st := .starting, link := 1 }
  { s2 with keeper := { s2.keeper with bring := 5, prsntHold := false } }

/-- Step 7 is complete: PWR_OK, PHASE UP, the stored CAP applies, and an image that declares a raise
sets SVN_FUSE (R426, R446). -/
def State.upNow (s : State) : State :=
  let k := s.keeper
  let raise := fun (b : Byte) (f : FwImage) => if f.raise && decide (b.toNat < f.svn.toNat) then f.svn else b
  let fuse := raise (raise s.sec.svnFuse (s.fwBank (bankNum false k.bank))) (s.fwBank (bankNum true k.ubank))
  let s1 : State := { s with
    keeper := { k with bring := 7, phase := 2, capPend := none }
    sec := { s.sec with svnFuse := fuse }
    pwr := { s.pwr with keeperCap := k.capPend.getD s.pwr.keeperCap } }
  s1.pwrCheck

/-- Step 7 ends with the last quarter that starts. -/
def State.upCheck (s : State) : State :=
  let busy := s.liveDies.any fun d => (List.range 4).any fun q => (s.quarter d q).st == .starting
  if s.keeper.bring = 6 && !busy then s.upNow else s

/-- The grid is formed (R416): maps, the dies out, the path, the lead; the quarters start. -/
def State.formGrid (s : State) : State :=
  let s1 := s.formMaps s.liveDies
  let s2 := s1.forEach (allDies.filter fun d => (s1.die d).service == 2) fun t d => t.commitDieOut d
  let broken := s2.liveDies.filter fun d => (List.range 4).any fun q => (s2.quarter d q).st == .faulted
  let s3 := s2.forEach broken fun t d => t.takeDieOut d 4
  let s4 := s3.blockWales.repath
  let s5 := s4.forEach s4.liveDies fun t d => (List.range 4).foldl (fun u q => u.startQuarter d q) t
  { s5 with keeper := { s5.keeper with bring := 6, phase := 1 }, red := { s5.red with lead := s5.liveDies.headD 0 } }

/-- Step 6 ends when no die boots any more; PHASE is FORMING. -/
def State.bringCheck (s : State) : State :=
  if s.keeper.bring = 5 && allDies.all fun d => (s.die d).st != .starting then s.formGrid.upCheck else s

end Sys2Proof.Machine
end

