-- ==== Sys2Proof/Machine/KeeperFam.lean ====
section
/-! DEFINITION. The meanings of the commands of bring-up and management (R415-R431, R460): power, boot,
location, LEID, the tree's commands, the health record, the mailbox, PLDM and SPDM. -/

namespace Sys2Proof.Machine

/-! ### Power-on and boot (R415-R419) -/

/-- GA[5] is odd parity over the six pins (R422). -/
def gaOdd (ga : BitVec 6) : Bool := ((List.range 6).filter fun i => ga.getLsbD i).length % 2 == 1

/-- A bank of keeper firmware verifies: signature (environment) and SVN (R446). -/
def State.bankGood (s : State) (sig : Bool) (b : Bool) : Bool :=
  sig && decide (s.sec.svnFuse.toNat ≤ (s.fwBank (bankNum false b)).svn.toNat)

/-- An image is refused: 0x0903, with the keeper's log entry. -/
def State.refuseImage (s : State) : State := (s.raise pgSecurity 0x0903).logEvent 0x0903 pgSecurity

/-- Steps 1 and 2: the input in range, the count of power-ons, GA, the log entry, the meter's start. -/
def State.powerUp (s : State) (ga : BitVec 6) (prsnt : Bool) : State :=
  let k := s.keeper
  let m := s.meter
  let m1 := if m.present then { m.start with powerOns := m.powerOns + 1 } else m
  let s1 : State := { s with
    pwr := { s.pwr with input := true, vinOk := true }
    pins := { s.pins with prsnt := prsnt }
    meter := { m1 with tally := Tally.reset }
    keeper := { k with powerOns := k.powerOns + 1, ga := ga, ga0 := ga, locValid := gaOdd ga, lost36 := false,
                       ubank := k.uactive } }
  if k.lost36 then s1.logEvent 0x0705 pgPower else s1.logOther pgPower

/-- Step 3: the keeper runs the active bank if it verifies, else the other one, else stays in ROM. -/
def State.bootKeeper (s : State) (bankA bankB : Bool) : State :=
  let a := s.keeper.active
  let ok := fun b => s.bankGood (if b then bankB else bankA) b
  let s1 := if ok a then s else s.refuseImage
  if ok a then
    { s1 with keeper := { s1.keeper with fwOk := true, bank := a },
              sec := { s1.sec with svnRun := (s.fwBank (bankNum false a)).svn } }
  else if ok (!a) then
    { s1 with keeper := { s1.keeper with fwOk := true, bank := !a, fallback := true },
              sec := { s1.sec with svnRun := (s.fwBank (bankNum false (!a))).svn } }
  else s1.refuseImage

/-- POWER_APPLIED: steps 1 to 4, and step 5 unless bring-up holds for PRSNT_N (R460) or the keeper stays in
ROM (R417). A meter still closing on hold-up comes first. -/
def execPowerApplied (ga : BitVec 6) (prsnt bankA bankB : Bool) (s : State) : Host.Outcome State Fault Refusal :=
  if s.pwr.input || s.meter.low || s.meter.fin.isSome then .next s
  else
    let s1 := (s.powerUp ga prsnt).bootKeeper bankA bankB
    let s2 : State := { s1 with keeper := { s1.keeper with bring := 3, prsntHold := s1.keeper.fwOk && !prsnt } }
    s.ok (if s2.keeper.fwOk && prsnt then s2.bringDies.bringCheck else s2)

/-- A die that was readmitted joins the grid (R347, R418): its quarters start, its port starts, the path
and the lead follow. -/
def State.rejoin (s : State) (d : Nat) : State :=
  let s1 := s.formMaps [d]
  if (List.range 4).any fun q => (s1.quarter d q).st == .faulted then s1.takeDieOut d 4
  else
    let s2 := (List.range 4).foldl (fun t q => t.startQuarter d q) s1
    let s3 := (s2.setPort d { s2.port d with st := .starting, link := 1 }).blockWales.repath
    { s3 with red := { s3.red with lead := s3.liveDies.headD 0 } }

/-- DIE_BOOT_DONE: the die's microcode verification and its DRAM training have ended. -/
def execDieBootDone (d : Die) (ucodeOk : Bool) (layersOk : BitVec 4) (s : State) : Host.Outcome State Fault Refusal :=
  let x := s.die d
  if x.st != .starting || x.stage != 2 then .next s
  else
    let back := x.readmit
    let good := ucodeOk && decide (s.sec.svnFuse.toNat ≤ (s.fwBank (bankNum true s.keeper.ubank)).svn.toNat)
    if !good then s.ok ((s.refuseImage.bootFail d 1).bringCheck)
    else if layersOk != 15 then
      let s1 := s.setDie d { x with layers := layersOk }
      s.ok ((s1.bootFail d 2).bringCheck)
    else
      let s1 := s.bootDone d
      s.ok ((if back then s1.rejoin d else s1).bringCheck)

/-- BOOT_TIMEOUT: the die has not completed its boot by 20 s. -/
def execBootTimeout (d : Die) (s : State) : Host.Outcome State Fault Refusal :=
  let x := s.die d
  if x.st != .starting || x.stage != 2 then .next s else s.ok ((s.bootFail d 4).bringCheck)

/-- PCIE_LINK_UP: the endpoint has trained. -/
def execPcieLinkUp (s : State) : Host.Outcome State Fault Refusal :=
  if s.pwr.input && !s.host.linkUp then s.ok { s with host := { s.host with linkUp := true, d3hot := false } } else .next s

/-- POWER_STATE_CHANGE: into or out of D3hot. -/
def execPowerStateChange (d3hot : Bool) (s : State) : Host.Outcome State Fault Refusal :=
  if s.host.linkUp then s.ok { s with host := { s.host with d3hot := d3hot } } else .next s

/-! ### Location and LEID (R422-R424) -/

/-- GA_SAMPLE: a change after step 2 makes the location invalid, and the keeper logs it. -/
def execGaSample (ga : BitVec 6) (s : State) : Host.Outcome State Fault Refusal :=
  if !s.pwr.input then .next s
  else
    let v := s.keeper.locValid && decide (ga = s.keeper.ga0) && gaOdd ga
    let s1 : State := { s with keeper := { s.keeper with ga := ga, locValid := v } }
    s.ok (if s.keeper.locValid && !v then s1.logOther pgAddress else s1)

/-- LEID_COMMIT: a committed change of LEID closes every flow, lapses the key offers and erases the key
slots; the keeper sends EARLY_CLOSE. -/
def execLeidCommit (s : State) : Host.Outcome State Fault Refusal :=
  if !s.keeper.leidReq then .next s
  else
    let s1 := s.forEach allDies fun t p =>
      t.forEach (List.range 1024) fun u f => u.hostClose p f 0 6
    let s2 : State := { s1.eraseAllKeys with
      keeper := { s1.keeper with leidReq := false, memberGen := s1.keeper.memberGen + 1 }
      sec := { s1.sec with offers := [] } }
    s.ok ((s2.count pgAddress 0).emit .earlyClose)

/-! ### The commands of the controller tree (Table 17.4, R427) -/

/-- The keeper answers ACCEPTED. -/
def State.keeperAccept (s : State) : State := s.emit (.keeperAnswer true 0)
/-- The keeper refuses, with a code that the specification does not number (assumption 24). -/
def State.keeperRefuse (s : State) : State := (s.emit (.keeperAnswer false (s.freeNow.toNat % 256))).freeNext
/-- The keeper's verified firmware runs: it answers on the sideband (step 3 of Table 17.1). -/
def State.keeperUp (s : State) : Bool := s.pwr.input && s.keeper.fwOk

/-- The keeper's SHUTTER. -/
def execKeeperShutter (s : State) : Host.Outcome State Fault Refusal :=
  if !s.keeperUp then .next s
  else if s.keeper.withdrawn then s.ok s.keeperRefuse
  else if s.keeper.adopting then s.ok ({ s with keeper := { s.keeper with held := true } } : State).keeperAccept
  else s.ok (s.setLatch true).keeperAccept

/-- The keeper's WAKE. -/
def execKeeperWake (s : State) : Host.Outcome State Fault Refusal :=
  if !s.keeperUp then .next s
  else if s.keeper.withdrawn then s.ok s.keeperRefuse
  else s.ok (s.setLatch false).keeperAccept

/-- CAP. -/
def execCap (w : BitVec 16) (s : State) : Host.Outcome State Fault Refusal :=
  if !s.keeperUp then .next s
  else
    let c := clampCap w.toNat
    let s1 : State := if s.keeper.bring < 7 then { s with keeper := { s.keeper with capPend := some c } }
      else { s with pwr := { s.pwr with keeperCap := c } }
    s.ok s1.keeperAccept

/-- DRAIN: the keeper commits RUN = 0 under context 4. -/
def execKeeperDrain (s : State) : Host.Outcome State Fault Refusal :=
  if !s.keeperUp then .next s
  else if s.keeper.withdrawn then s.ok s.keeperRefuse
  else
    let v := s.reg pgProgram 0x040 &&& ~~~1
    let t := s.internal 4 true 0 [{ page := pgProgram, off := 0x040, val := v, slot := 0 }]
    let t1 : State := { t with keeper := { t.keeper with drained := true }, prog := { t.prog with runReq := true } }
    s.ok t1.keeperAccept

/-- What IDENTIFY returns: part, variant, serial, location and LEID. -/
def State.identityBytes (s : State) : List Byte :=
  leBytes 4 partNum ++ leBytes 1 variantByte ++ leBytes 8 Config.serial.toNat ++ leBytes 4 s.locCode ++
    leBytes 4 (s.reg pgAddress 0x044).toNat

/-- IDENTIFY. -/
def execIdentify (secs : Byte) (s : State) : Host.Outcome State Fault Refusal :=
  if !s.keeperUp then .next s
  else
    let s1 : State := { s with pins := { s.pins with idLed := secs != 0 } }
    s.ok ((s1.emit (.identity s1.identityBytes)).keeperAccept)

/-- IDENTIFY_INDICATOR_EXPIRY. -/
def execIdentifyIndicatorExpiry (s : State) : Host.Outcome State Fault Refusal :=
  if s.pins.idLed then s.ok { s with pins := { s.pins with idLed := false } } else .next s

/-- ADOPT_LEID. -/
def execAdoptLeid (leid : BitVec 20) (hall : BitVec 2) (row rack : BitVec 6) (s : State) :
    Host.Outcome State Fault Refusal :=
  if !s.keeperUp then .next s
  else if s.keeper.withdrawn || !s.keeper.locValid || s.keeper.adopting || !leidOk leid then s.ok s.keeperRefuse
  else
    let s1 : State := { s with keeper :=
      { s.keeper with place := hall ++ row ++ rack, ast := .waking, afail := 0, adopt := some leid } }
    let s2 := if s1.shut.st == .awake then s1 else s1.setLatch false
    s.ok s2.keeperAccept.adoptGo

/-- ADOPT_TIME_EXPIRY: FAIL reads 4 and the adoption goes on. -/
def execAdoptTimeExpiry (s : State) : Host.Outcome State Fault Refusal :=
  if s.keeper.adopting then s.ok { s with keeper := { s.keeper with afail := 4 } } else .next s

/-! ### The health record (R428, Table 17.5) -/

/-- One bit of a reflected CRC-32. -/
def crcBit (c : Word) : Word := if c.getLsbD 0 then (c >>> 1) ^^^ 0xEDB88320 else c >>> 1
/-- One byte of it. -/
def crcByte (c : Word) (b : Byte) : Word :=
  (List.range 8).foldl (fun x _ => crcBit x) (c ^^^ b.zeroExtend 32)
/-- The IEEE 802.3 CRC-32. -/
def crc32 (l : List Byte) : Word := ~~~(l.foldl crcByte 0xFFFFFFFF)

/-- DRAINED: a DRAIN was accepted and the program stands. -/
def State.isDrained (s : State) : Bool :=
  s.keeper.drained && !(s.reg pgProgram 0x040).getLsbD 0 && !s.running

/-- FLAGS of Table 17.5. -/
def State.healthFlags (s : State) : Nat :=
  bitAt s.keeper.ready 0 + bitAt s.keeper.fwOk 1 + bitAt s.pins.pwrOk 2 + bitAt s.meter.working 3 +
  bitAt s.keeper.locValid 4 + bitAt s.keeper.withdrawn 5 + bitAt s.isDrained 6 + bitAt s.shut.blocked 7 +
  bitAt s.pwr.capdown 8

/-- Bytes 0x00 to 0x3B. AVG_W is measured: a free value (assumption 24). -/
def State.healthBody (s : State) : List Byte :=
  let low := allDies.filter s.spareLow
  let down := allDies.filter fun p => (s.port p).link != 3
  let hot := divRne s.hottest.2 4
  let ph := if s.keeper.fwOk then s.phase else 0x0F
  [1, BitVec.ofNat 8 ph] ++ leBytes 2 s.healthFlags ++ leBytes 4 s.keeper.recSeq.toNat ++
    leBytes 4 (s.reg pgAddress 0x044).toNat ++ leBytes 4 s.locCode ++
    [BitVec.ofNat 8 s.prog.pst.code, BitVec.ofNat 8 s.shut.st.code, BitVec.ofNat 8 s.worst,
     BitVec.ofNat 8 s.keeper.ast.code] ++
    leBytes 2 s.capInForce ++ leBytes 2 (s.freeNow.toNat % 65536) ++
    leBytes 8 (s.regPair pgSpareMap 0x044).toNat ++ leBytes 4 ((s.counter pgProgram 0).toNat % 2 ^ 32) ++
    leBytes 2 s.keeper.lastFault.toNat ++ [BitVec.ofNat 8 hot, BitVec.ofNat 8 low.length] ++
    leBytes 8 (maskOf down).toNat ++ leBytes 2 s.keeper.memberGen.toNat ++
    leBytes 2 (s.host.changes.toNat % 65536) ++ leBytes 8 s.imageIdView.toNat

/-- The record with its CRC. -/
def State.healthRecord (s : State) : List Byte := s.healthBody ++ leBytes 4 (crc32 s.healthBody).toNat

/-- Step 8 of Table 17.1: the meter link is checked and the engine is ready; an IB-6442-WS without a
working meter takes the Shutter latch (R444). -/
def State.stepEight (s : State) : State :=
  if s.keeper.bring != 7 || !s.keeper.fwOk then s
  else
    let s1 := ({ s with keeper := { s.keeper with bring := 8, ready := true } } : State).wakeBlock
    if Config.variantWS && !s1.meter.working then s1.setLatch true else s1

/-- HEALTH_RECORD_REFRESH: the keeper moves on with what it waits for, and forms a new record. Step 8
is taken at the first refresh after step 7. -/
def execHealthRecordRefresh (s : State) : Host.Outcome State Fault Refusal :=
  if !s.pwr.input then .next s
  else
    let s1 := s.adoptGo.stepEight
    let s2 : State := { s1 with keeper := { s1.keeper with recSeq := s1.keeper.recSeq + 1 } }
    s.ok ({ s2 with keeper := { s2.keeper with record := s2.healthRecord } } : State).freeNext

/-- HEALTH_RECORD_REQUEST: the latest record. -/
def execHealthRecordRequest (s : State) : Host.Outcome State Fault Refusal :=
  if !s.pwr.input then .next s else s.ok (s.emit (.health s.keeper.record))

/-! ### The mailbox (R429) -/

/-- A write of MB_CMD starts a request; while one is BUSY it is discarded. -/
def State.mbStart (s : State) (op : Byte) (index : BitVec 16) : State :=
  if s.keeper.mbBusy then s
  else
    let s1 := s.poke pgMailbox 0x040 (w32 (index.toNat * 65536 + op.toNat))
    { s1 with keeper := { s1.keeper with mbBusy := true, mbOp := op, mbIndex := index } }

/-- A write of MB_CMD by the host reaches the mailbox: the endpoint is up and the keeper powered. -/
def State.mbReach (s : State) : Bool := s.pwr.input && s.host.linkUp && !s.host.d3hot && !s.keeper.mbBusy

/-- READ_HEALTH. -/
def execReadHealth (s : State) : Host.Outcome State Fault Refusal := if s.mbReach then s.ok (s.mbStart 1 0) else .next s
/-- The mailbox's IDENTIFY. -/
def execMailboxIdentify (s : State) : Host.Outcome State Fault Refusal := if s.mbReach then s.ok (s.mbStart 2 0) else .next s
/-- READ_LOG. -/
def execReadLog (index : BitVec 16) (s : State) : Host.Outcome State Fault Refusal :=
  if s.mbReach then s.ok (s.mbStart 3 index) else .next s
/-- READ_REPAIR. -/
def execReadRepair (index : BitVec 16) (s : State) : Host.Outcome State Fault Refusal :=
  if s.mbReach then s.ok (s.mbStart 4 index) else .next s

/-- A log entry's 32 bytes. -/
def LogEntry.bytes (e : LogEntry) : List Byte :=
  leBytes 8 e.ms.toNat ++ leBytes 4 e.power.toNat ++ leBytes 2 e.code.toNat ++ leBytes 2 e.page.toNat ++ e.detail
/-- A repair-map entry's 8 bytes. -/
def Repair.bytes (r : Repair) (laneByte : Byte) : List Byte :=
  leBytes 1 r.kind ++ leBytes 1 r.die ++ leBytes 1 r.unit ++ [laneByte] ++ leBytes 4 r.at'.toNat

/-- What a request returns; none where it is refused. The byte that names a group and lane of a wale is
not laid out: a free value (assumption 24). -/
def State.mbAnswer (s : State) : Option (List Byte) :=
  match s.keeper.mbOp with
  | 1 => some s.keeper.record
  | 2 => some s.identityBytes
  | 3 => (s.keeper.log[s.keeper.mbIndex.toNat]?).map LogEntry.bytes
  | 4 => (s.keeper.repairs[s.keeper.mbIndex.toNat]?).map fun r =>
      r.bytes (if r.kind = 3 then s.freeNow.extractLsb' 0 8 else BitVec.ofNat 8 r.lane)
  | _ => none

/-- MB_RESP of a response; the words beyond it are free values (assumption 24). -/
def State.mbRespond (s : State) (l : List Byte) : State :=
  s.forEach (List.range 16) fun t k =>
    let f := (Config.freeValue (s.free + 1 + k)).extractLsb' 0 32
    let byte := fun i => match l[4 * k + i]? with | some b => b | none => f.extractLsb' (8 * i) 8
    t.poke pgMailbox (0x100 + 4 * k) (byte 3 ++ byte 2 ++ byte 1 ++ byte 0)

/-- MAILBOX_DONE. -/
def execMailboxDone (s : State) : Host.Outcome State Fault Refusal :=
  if !s.keeper.mbBusy || !s.pwr.input then .next s
  else
    let s0 : State := { s with keeper := { s.keeper with mbBusy := false } }
    match s.mbAnswer with
    | some l =>
      let s1 := (s0.mbRespond l).poke pgMailbox 0x044 (w32 (l.length * 65536 + 2))
      s.ok ({ s1.count pgMailbox 0 with free := s.free + 17 } : State)
    | none => s.ok ((s0.poke pgMailbox 0x044 3).count pgMailbox 1)

/-! ### PLDM (R421) -/

/-- PLDM_FW_UPDATE: an image that verifies is written to the bank not marked active. The ROM takes
updates too (R417). -/
def execPldmFwUpdate (ucode : Bool) (img : FwImage) (s : State) : Host.Outcome State Fault Refusal :=
  if !s.pwr.input then .next s
  else if !img.sigOk || decide (img.svn.toNat < s.sec.svnFuse.toNat) then s.ok (s.refuseImage.emit (.pldm [1]))
  else
    let k := s.keeper
    let b := bankNum ucode (!(if ucode then k.uactive else k.active))
    let k1 := { k with banks := SMap.set (fwMade b) k.banks b img, verK := k.verK || !ucode, verU := k.verU || ucode }
    s.ok (({ s with keeper := k1 } : State).emit (.pldm [0]))

/-- ACTIVATE_FIRMWARE: the banks of verified updates become active at the next application of 42 V. -/
def execActivateFirmware (s : State) : Host.Outcome State Fault Refusal :=
  if !s.pwr.input then .next s
  else
    let k := s.keeper
    if !k.verK && !k.verU then s.ok (s.emit (.pldm [1]))
    else
      let k1 := { k with active := k.active != k.verK, uactive := k.uactive != k.verU, verK := false, verU := false }
      s.ok (({ s with keeper := k1 } : State).emit (.pldm [0]))

/-- The sensors: input voltage, current and power, hottest quarter, hottest DRAM, the cap in force, and the
state sensor for PHASE. -/
def State.sensor (s : State) (i : Nat) : Nat :=
  match i with
  | 0 => s.regField pgPower 0x04C 15 0
  | 1 => s.regField pgPower 0x04C 31 16
  | 2 => s.regField pgPower 0x048 15 0
  | 3 => s.hottest.2
  | 4 => s.dies.foldl (fun n (e : Nat × DieSt) => max n e.2.dramTemp.toNat) 0
  | 5 => s.capInForce
  | _ => s.phase

/-- GET_SENSOR_READING. -/
def execGetSensorReading (sensor : Fin 7) (s : State) : Host.Outcome State Fault Refusal :=
  if s.keeperUp then s.ok (s.emit (.pldm (leBytes 4 (s.sensor sensor)))) else .next s

/-! ### SPDM (R421, R447, R448) -/

/-- GET_VERSION: SPDM 1.3. -/
def execGetVersion (s : State) : Host.Outcome State Fault Refusal :=
  if s.keeperUp then s.ok (s.emit (.spdm 0x04 [0x00, 0x13])) else .next s
/-- GET_CAPABILITIES: what the responder answers with is not laid out beyond the requests it takes. -/
def execGetCapabilities (s : State) : Host.Outcome State Fault Refusal :=
  if s.keeperUp then s.ok ((s.emit (.spdm 0x61 (leBytes 8 s.freeNow.toNat))).freeNext) else .next s
/-- NEGOTIATE_ALGORITHMS: the Diolardo identifier of SLH-DSA-SHAKE-128f is not given in numbers. -/
def execNegotiateAlgorithms (s : State) : Host.Outcome State Fault Refusal :=
  if s.keeperUp then s.ok ((s.emit (.spdm 0x63 (leBytes 8 s.freeNow.toNat))).freeNext) else .next s
/-- GET_DIGESTS: the digest of the chain of slot 0. -/
def execGetDigests (s : State) : Host.Outcome State Fault Refusal :=
  if s.keeperUp then s.ok (s.emit (.spdm 0x01 (Config.shake256 (Config.certificate 0)))) else .next s
/-- GET_CERTIFICATE: slot 0 holds the whole chain; other slots hold none. -/
def execGetCertificate (slot : Byte) (s : State) : Host.Outcome State Fault Refusal :=
  if !s.keeperUp then .next s
  else if slot = 0 then s.ok (s.emit (.spdm 0x02 (Config.certificate 0)))
  else s.ok (s.emit (.spdm 0x7F []))

/-- A quote: data over the requester's nonce, signed with the attestation key, and counted. -/
def State.quote (s : State) (code : Byte) (data nonce : List Byte) : State :=
  let body := data ++ nonce
  (s.emit (.spdm code (body ++ Config.sign 1 body))).count pgSecurity 0

/-- The measurement blocks that an index selects: one, or with 0xFF all seven. -/
def State.measBlocks (s : State) (index : Nat) : List Byte :=
  let block := fun i => leBytes 1 i ++ s.measurement i
  if index = 0xFF then (List.range 7).flatMap fun i => block (i + 1)
  else if 1 ≤ index ∧ index ≤ 7 then block index else []

/-- CHALLENGE. -/
def execChallenge (nonce : List Byte) (s : State) : Host.Outcome State Fault Refusal :=
  if s.keeperUp then s.ok (s.quote 0x03 (s.measBlocks 0xFF) nonce) else .next s
/-- GET_MEASUREMENTS. -/
def execGetMeasurements (index : Byte) (nonce : List Byte) (s : State) : Host.Outcome State Fault Refusal :=
  if s.keeperUp then s.ok (s.quote 0x60 (s.measBlocks index.toNat) nonce) else .next s

end Sys2Proof.Machine
end

