-- ==== Sys2Proof/Machine/MemoryFam.lean ====
section
/-! DEFINITION. The meanings of the commands of memory: the scrubber (R134, R142-R145), CE windows (R139,
R473), the aperture (R146-R150). -/

namespace Sys2Proof.Machine

/-! ### The scrubber -/

/-- The scrubber reads a word and rewrites it if it was corrected (R142); its address leaves the rewrite
queue then. -/
def State.scrubWord (s : State) (d w : Nat) : State :=
  let c := s.eccClass w
  let s1 := (s.noteReads srcScrub (8 * w) 8).count (pgScrub d) 0
  if s.wordPoison w || !(c == 1 || c == 2) then s1
  else
    let s2 := (s1.writeWords (8 * w) [{ val := (s.peek w).val, poison := false }]).count (pgScrub d) 1
    s2.setScrubber d { s2.scrubber d with queue := (s2.scrubber d).queue.filter (· != w) }

/-- A unit of the SRAM walk (0-71 slots, 72-75 quarter buffers) is covered: not a FAULTED slot, not in a
dark quarter. -/
def State.scrubCovers (s : State) (d u : Nat) : Bool :=
  decide (72 ≤ u) || (s.slotState d u != .faulted && !(s.quarter d (slotQuarter u)).gated)

/-- Words of a unit, and the word at a position in it. -/
def unitWords (u : Nat) : Nat := if u < 72 then 2 ^ 18 else 2 ^ 21
def unitWord (d u pos : Nat) : Nat :=
  if u < 72 then slotAddr d u (8 * pos) / 8 else (d * 2 ^ 42 + 2 ^ 40 + (u - 72) * 2 ^ 24 + 8 * pos) / 8

/-- Where the SRAM walk stands: a unit to skip is left for the next one covered. -/
def State.sramPlace (s : State) (d u pos : Nat) : Nat × Nat :=
  if s.scrubCovers d u then (u, pos)
  else (((List.range 76).find? fun v => decide (u < v) && s.scrubCovers d v).getD 72, 0)

/-- The place after a word; none at the end of the walk. -/
def sramNext (u pos : Nat) : Option (Nat × Nat) :=
  if pos + 1 < unitWords u then some (u, pos + 1) else if u < 75 then some (u + 1, 0) else none

/-- One word of the DRAM walk. -/
def State.walkDram (s : State) (d : Nat) : State :=
  let p := (s.scrubber d).dramPos
  let s1 := s.scrubWord d (d * 2 ^ 39 + p)
  let n := (p + 1) % 2 ^ 33
  let s2 := s1.setScrubber d { s1.scrubber d with dramPos := n }
  if n = 0 then s2.count (pgScrub d) 2 else s2

/-- One word of the SRAM walk. -/
def State.walkSram (s : State) (d : Nat) : State :=
  let at' := s.sramPlace d (s.scrubber d).sramUnit (s.scrubber d).sramPos
  let s1 := s.scrubWord d (unitWord d at'.1 at'.2)
  match sramNext at'.1 at'.2 with
  | some n => s1.setScrubber d { s1.scrubber d with sramUnit := n.1, sramPos := n.2 }
  | none => (s1.setScrubber d { s1.scrubber d with sramUnit := 0, sramPos := 0 }).count (pgScrub d) 2

/-- The extra walk ends: SCRUB_NOW reads 0 (R144). -/
def State.burstEnd (s : State) (d : Nat) : State :=
  ((s.setScrubber d { s.scrubber d with burst := none }).pokeField (pgScrub d) 0x008 2 2 0).count (pgScrub d) 2

/-- One word of the extra walk: DRAM first, then the SRAM units. -/
def State.walkBurst (s : State) (d : Nat) (b : Nat × Nat × Nat) : State :=
  if b.1 = 0 then
    let s1 := s.scrubWord d (d * 2 ^ 39 + b.2.2)
    let n := if b.2.2 + 1 < 2 ^ 33 then (0, 0, b.2.2 + 1) else (1, 0, 0)
    s1.setScrubber d { s1.scrubber d with burst := some n }
  else
    let at' := s.sramPlace d b.2.1 b.2.2
    let s1 := s.scrubWord d (unitWord d at'.1 at'.2)
    match sramNext at'.1 at'.2 with
    | some n => s1.setScrubber d { s1.scrubber d with burst := some (1, n.1, n.2) }
    | none => s1.burstEnd d

/-- SCRUB_WALK_STEP: the next word of a walk whose rate is not 0; the rewrite queue goes first. -/
def execScrubWalkStep (d : Die) (w : Walk) (s : State) : Host.Outcome State Fault Refusal :=
  if !s.scrubs d || !(s.scrubber d).queue.isEmpty then .next s
  else
    match w with
    | .dram => if s.regField (pgScrub d) 0x040 31 16 = 0 then .next s else s.ok (s.walkDram d)
    | .sram => if s.regField (pgScrub d) 0x040 15 0 = 0 then .next s else s.ok (s.walkSram d)
    | .burst =>
      match (s.scrubber d).burst with
      | none => .next s
      | some b => if s.regField (pgScrub d) 0x044 15 0 = 0 then .next s else s.ok (s.walkBurst d b)

/-- SCRUB_REWRITE: the oldest address of the rewrite queue. One in a scratchpad whose quarter is dark is left:
that memory is gone (R124). -/
def execScrubRewrite (d : Die) (s : State) : Host.Outcome State Fault Refusal :=
  match (s.scrubber d).queue with
  | [] => .next s
  | w :: r =>
    if !s.scrubs d then .next s
    else
      let t := s.setScrubber d { s.scrubber d with queue := r }
      s.ok (if s.lostKey (some (8 * w)) then t else t.scrubWord d w)

/-- SCRUB_NOW. -/
def State.scrubNow (s : State) (d : Nat) : State :=
  if (s.reg (pgScrub d) 0x008).getLsbD 2 then s
  else
    let s1 := s.pokeField (pgScrub d) 0x008 2 2 1
    s1.setScrubber d { s1.scrubber d with burst := some (0, 0, 0) }

/-- SCRUB_NOW written 1. -/
def execScrubNow (d : Die) (s : State) : Host.Outcome State Fault Refusal :=
  if s.takesWrites (pgScrub d) then s.ok (s.scrubNow d) else .next s

/-- CE_WINDOW_EXPIRY. -/
def execCeWindowExpiry (page : Fin 16384) (s : State) : Host.Outcome State Fault Refusal :=
  if (s.ceWin page).isOpen then s.ok (s.setCeWin page CeWin.reset) else .next s

/-! ### The aperture -/

/-- Engine memory address of a BAR2 offset (R146). -/
def State.aperAddr (s : State) (off : Nat) : Nat :=
  (s.reg pgAperture 0x040 &&& 0xFF0).toNat * 2 ^ 36 + off

/-- A byte can be reached: backed, initialised, and not in Shutter (R147). -/
def State.aperBacked (s : State) (a : Nat) : Bool :=
  let d := addrDie a
  let on := fun (q : Nat) => (s.quarter d q).st == .on || (s.quarter d q).st == .draining
  s.dieLive d && (s.die d).trained && !s.asleep && (s.resolve a).isSome &&
    (addrKind a != 2 || on (addrOff a / 2 ^ 25))

/-- Every byte of a range can be reached. -/
def State.aperRange (s : State) (a n : Nat) : Bool :=
  (wordsOf a n).all fun w => s.aperBacked (8 * w)

/-- The keys of the words that a range touches. -/
def State.aperKeys (s : State) (a n : Nat) : List Nat := (wordsOf a n).filterMap fun w => s.resolve (8 * w)

/-- An access without effect (R147). -/
def State.aperMiss (s : State) : State := s.incSat pgAperture 0x044

/-- The bytes of a range, word by word. -/
def State.aperBytes (s : State) (a n : Nat) : List Byte :=
  (List.range n).map fun i => match s.resolve (8 * ((a + i) / 8)) with
    | some k => (s.readByte (k + (a + i) % 8)).1
    | none => 0

/-- APERTURE_READ. -/
def execApertureRead (off : BitVec 36) (len : Nat) (s : State) : Host.Outcome State Fault Refusal :=
  let a := s.aperAddr off.toNat
  if !s.host.linkUp then .next s
  else if s.host.d3hot then s.ok (s.emit (.unsupported off.toNat))
  else
    let s0 := s.count pgAperture 0
    let guarded := addrKind a == 1 && (s.reg (pgDecrypt (addrDie a)) 0x040).getLsbD 0
    if guarded || !s.aperRange a len then
      s.ok (s0.aperMiss.emit (.aperData off.toNat (List.replicate len 0) false))
    else
      let ks := s.aperKeys a len
      let ep := ks.any fun k => (s.peek (k / 8)).poison
      let s1 := (s0.forEach ks fun t k => t.noteReads srcAperture k 8).count pgAperture 1 len
      let s2 := if ep then s1.incSat pgAperture 0x048 else s1
      s.ok (s2.emit (.aperData off.toNat (s.aperBytes a len) ep))

/-- Some byte of a write lies in one of these ranges and in none of those. -/
def hits (a n : Nat) (l no : List (Nat × Nat)) : Bool :=
  (List.range n).any fun i =>
    (l.any fun r => decide (r.1 ≤ a + i) && decide (a + i < r.2)) &&
      !(no.any fun r => decide (r.1 ≤ a + i) && decide (a + i < r.2))

/-- The bytes of a write reach memory, word by word, but for those of the applied image (R475). -/
def State.aperStore (s : State) (a : Nat) (l : List Byte) : State :=
  (wordsOf a l.length).foldl (fun t w =>
    match t.resolve (8 * w), bytesIn a l w with
    | some k, (i, b) :: r => t.storeBytes srcAperture (k + i) (b :: r.map (·.2))
    | _, _ => t) s

/-- APERTURE_WRITE. -/
def execApertureWrite (off : BitVec 36) (data : List Byte) (s : State) : Host.Outcome State Fault Refusal :=
  let a := s.aperAddr off.toNat
  let n := data.length
  if !s.host.linkUp || s.host.d3hot then .next s
  else if !s.aperRange a n then s.ok s.aperMiss
  else
    let own := s.imageRanges
    let s1 := (s.aperStore a data).count pgAperture 2 n
    let s2 := if hits a n own [] then s1.aperMiss else s1
    let ck := (s.prog.check == .busy || s.prog.check == .passed) && hits a n (s.imageSpan s.prog.checkDir.toNat) own
    s.ok (if ck then { s2 with prog := { s2.prog with check := .idle } } else s2)

end Sys2Proof.Machine
end

