-- ==== Sys2Proof/Machine/ProgFam.lean ====
section
/-! DEFINITION. The meanings of the commands of programs (R185-R211): the check of an image, LOAD and
RUN, budgets, breaches, replays, the end of a step. -/

namespace Sys2Proof.Machine

/-! ### Checking (R188) -/

/-- CHECK_GO. -/
def execCheckGo (s : State) : Host.Outcome State Fault Refusal :=
  if s.prog.check == .busy || !s.takesWrites pgProgram then .next s else s.ok s.checkGo

/-- Bytes of a range of memory. -/
def State.imgBytes (s : State) (a n : Nat) : List Byte := (List.range n).map fun i => (s.readByte (a + i)).1

/-- The digest of a die image; zero bytes for a die left out (R447). -/
def State.imgDigest (s : State) (dir d : Nat) : List Byte :=
  let h := s.imgHeader dir d
  if h = 0 then List.replicate 64 0
  else Config.shake256 (s.imgBytes h 4096 ++
    (List.range 12).flatMap fun i => s.imgBytes (s.imgSec h i).1 (s.imgSec h i).2)

/-- The check ends REFUSED with what a die found. -/
def State.checkRefused (s : State) (d : Nat) (f : Found) : State :=
  { s with prog := { s.prog with
      check := .refused
      refuse := BitVec.ofNat 32 (f.code * 2 ^ 24 + d * 2 ^ 10)
      wher := BitVec.ofNat 32 (f.stall % 256 * 2 ^ 24 + f.sect * 2 ^ 20 + f.index % 2 ^ 20) } }

/-- The check ends PASSED, with the digests of the die images (R447). -/
def State.imageCheckPassed (s : State) (dir : Nat) : State :=
  { s with prog := { s.prog with check := .passed, refuse := 0, wher := 0 }
           sec := { s.sec with checked := allDies.map fun d => s.imgDigest dir d } }

/-- IMAGE_CHECK_DONE, while DRAM can be read: of several faulty dies the one `found` first is not promised; where that die has
no fault, the lowest faulty one is recorded. -/
def execImageCheckDone (found : Die) (s : State) : Host.Outcome State Fault Refusal :=
  if s.prog.check != .busy || s.asleep then .next s
  else
    let dir := s.prog.checkDir.toNat
    let s1 := (s.imageReads dir).foldl (fun (t : State) r => t.noteReads srcImage r.1 r.2) s
    match (found.val :: allDies).findSome? fun d => (s.checkDie dir d).map fun f => (d, f) with
    | some (d, f) => s.ok (s1.checkRefused d f).adoptGo
    | none => s.ok (s1.imageCheckPassed dir).adoptGo

/-! ### LOAD, RUN, ABORT (R189, R207, R208) -/

/-- LOAD: a committed LOAD applies the checked image; the keeper sends EARLY_CLOSE (R437). -/
def execLoad (s : State) : Host.Outcome State Fault Refusal :=
  if s.prog.loadReq && !s.asleep then s.ok (s.applyImage.adoptGo.emit .earlyClose) else .next s

/-- A host remap is being committed: its APPLY has been sent (R340). -/
def State.remapping (s : State) : Bool :=
  ctxList.any fun c => (s.bctx c).applySent && (s.bctx c).remaps.isSome

/-- RUN: a committed RUN = 1 starts the program from READY or STEP_HOLD, after a host remap that was
prepared before it; RUN = 0 is looked at when the step ends. What the image assumes is compared from the
start on (R199). -/
def execRun (s : State) : Host.Outcome State Fault Refusal :=
  if s.prog.runReq && !s.prog.loadReq && !s.remapping then
    let s1 : State := { s with prog := { s.prog with runReq := false } }
    s.ok (if s.aboutToRun && s.allQuartersOn then s1.startStep.noteAssume.retarget else s1)
  else .next s

/-- ABORT. -/
def execAbort (s : State) : Host.Outcome State Fault Refusal :=
  if s.takesWrites pgProgram then s.ok s.abortProgram.adoptGo else .next s

/-! ### Budgets and breaches (R198-R202) -/

/-- Table 8.7's code for a command that has not started. -/
def CmdKind.breach (k : CmdKind) : Nat :=
  match k with
  | .markWait => 0x0301
  | .pass => 0x0302
  | .loadw => 0x0302
  | .drain => 0x0303
  | .bell => 0x0304
  | .other => 0x0305

/-- Commands of a stall that have become the head and not started, oldest first. HALT with RESTART = 1
waits for the step barrier. -/
def State.notStarted (s : State) (d l : Nat) : List (Nat × CmdKind) :=
  let x := s.stallOf d l
  if x.waiting.any (·.1 == x.cmdIndex) || x.halted == some false then x.waiting
  else x.waiting ++ match s.headWord d l with
    | some (.ballast _) => []
    | some (.halt r) => if r then [(x.cmdIndex, .bell)] else []
    | some w => [(x.cmdIndex, w.kind)]
    | none => []

/-- Those of them whose budget has not run out yet: a breach is raised once. -/
def State.inBudget (s : State) (d l : Nat) : List (Nat × CmdKind) :=
  (s.notStarted d l).filter fun e =>
    !(s.prog.breaches.any fun b => b.agent == 0 && b.die == d && b.stall == l && b.index == e.1)

/-- BUDGET_EXPIRY of a command of a stall that has not started. Budgets are times: which of several such
commands has run out is a free value (assumption 94). -/
def execBudgetExpiry (d : Die) (l : Stl) (s : State) : Host.Outcome State Fault Refusal :=
  if s.prog.pst == .running && s.stallOn d l then
    let w := s.inBudget d l
    match w[s.freeNow.toNat % w.length]? with
    | none => .next s
    | some e => s.ok (s.breach e.2.breach d l 0 e.1).freeNext
  else .next s

/-- BREACH_STAMP: of the breaches stamped first, in one cycle of the root, one is recorded and handled; the
others are counted and join. How many share that cycle is a free value, as the times at which stamps reach
the root are (assumption 33). -/
def execBreachStamp (s : State) : Host.Outcome State Fault Refusal :=
  match s.prog.breaches with
  | [] => .next s
  | b :: r =>
    let s1 := ({ s with prog := { s.prog with breaches := [] } } : State).freeNext
    let s2 := if r.isEmpty then s1 else s1.count pgProgram 2 r.length
    s.ok (s2.handleBreach (firstBreach b (r.take (s.freeNow.toNat % (r.length + 1)))))

/-- No stall of a live die waits for a spare. -/
def State.remapsDone (s : State) : Bool :=
  s.liveDies.all fun d => (List.range 4).all fun q =>
    (s.quarter d q).remapOf.isNone && (s.brokenStall d q).isNone

/-- REPLAY_RESUME (Table 8.8, steps 6 and 7). A quarter that has gone dark since LAST_POINT forbids it: the
step is closed out (R202). -/
def execReplayResume (s : State) : Host.Outcome State Fault Refusal :=
  if s.prog.pst == .replay && s.prog.replaying && s.quiet then
    if s.mayNotReplay then s.ok s.closeOut.adoptGo
    else if s.remapsDone then s.ok s.resume
    else .next s
  else .next s

/-! ### The end of a step (R206, R270, R342) -/

/-- Stalls that a step waits for. -/
def State.stepStalls (s : State) : List (Nat × Nat) :=
  s.stepDies.flatMap fun d => ((List.range 64).filter fun l => s.stallOn d l).map fun l => (d, l)

/-- Every stall of the step stands at HALT with this RESTART. -/
def State.allAtHalt (s : State) (r : Bool) : Bool :=
  !s.stepStalls.isEmpty && s.stepStalls.all fun e => (s.stallOf e.1 e.2).halted == some r

/-- A stall's tiles are EMPTY or HELD and its chain is idle: what HALT found under way has completed
(R97, Table 3.3). -/
def Stall.atRest (x : Stall) : Bool :=
  (x.acc0.st == .empty || x.acc0.st == .held) && (x.acc1.st == .empty || x.acc1.st == .held) && x.drains.isEmpty

/-- Transfers are complete; streams are PARKED or FREE and contexts IDLE or DONE on the dies still in
the step; the stalls' passes and drains have completed; every basket published in the step has left
REDUCING. -/
def State.settled (s : State) : Bool :=
  s.rounds.transit.isEmpty && s.basketsSettled && (s.stepStalls.all fun e => (s.stallOf e.1 e.2).atRest) &&
  (s.streams.all fun e =>
    let d := e.1 / 256 / 73
    !s.dieLive d || (e.2.out.isEmpty &&
      (!s.inStep d || e.2.desc.isEmpty || e.2.st == .parked || e.2.st == .free))) &&
  (s.stepDies.all fun d => (List.range 4).all fun c =>
    let st := (s.roundCtx d c).st
    st == .idle || st == .done)

/-- Dies that left the step. -/
def State.leftDies (s : State) : List Nat := s.liveDies.filter fun d => (s.die d).service == 1

/-- What follows the barrier: a die that left rejoins or goes out; the next step starts, or the
program holds (R206, R208, R342). -/
def State.stepEnd (s : State) : State :=
  let s1 := s.count pgProgram 0
  let bad := s1.leftDies.filter fun d => !((List.range 4).all fun q => s1.quarterOn d q)
  if !bad.isEmpty then
    let s2 : State := { s1 with prog := { s1.prog with pst := .stopped } }
    s2.forEach bad fun t d => t.takeDieOut d 4
  else
    let s2 := s1.forEach s1.leftDies fun t d => t.setDie d { t.die d with service := 0 }
    if (s2.reg pgProgram 0x040).getLsbD 0 && !s2.prog.hold && s2.allQuartersOn then s2.startStep.noteAssume
    else { s2 with prog := { s2.prog with pst := .stepHold } }

/-- STEP_BARRIER; a breach on its way to the root is handled first (assumption 33). -/
def execStepBarrier (s : State) : Host.Outcome State Fault Refusal :=
  if s.prog.pst == .running && s.prog.breaches.isEmpty && s.allAtHalt true && s.settled then s.ok s.stepEnd.adoptGo
  else .next s

/-- PROGRAM_HALTED. -/
def execProgramHalted (s : State) : Host.Outcome State Fault Refusal :=
  if s.prog.pst == .running && s.prog.breaches.isEmpty && s.allAtHalt false then
    s.ok ({ s with prog := { s.prog with pst := .halted } } : State).adoptGo
  else .next s

end Sys2Proof.Machine
end

