-- ==== Sys2Proof/Machine/RecoverFam.lean ====
section
/-! DEFINITION. The meanings of the commands of faults, spares and recovery (R333-R363): heartbeats, stall
remaps, dies out and back, ports, wale lanes, shorts, the tray's presence pin. -/

namespace Sys2Proof.Machine

/-! ### Heartbeats (R334) -/

/-- A die answers a heartbeat, or leaves it unanswered; the eighth in a row makes it silent. -/
def State.beat (s : State) (d : Nat) (answered : Bool) : State :=
  let x := s.die d
  if !x.bell then s
  else if answered then (if x.missed = 0 then s else s.setDie d { x with missed := 0 })
  else
    let s1 := (s.setDie d { x with missed := x.missed + 1 }).count (pgDieHealth d) 2
    if x.missed + 1 < 8 then s1 else (s1.raise (pgDieHealth d) 0x0404).takeDieOut d 1

/-- HEARTBEAT: one round of heartbeats, with the dies that answer it. -/
def execHeartbeat (answers : DWord) (s : State) : Host.Outcome State Fault Refusal :=
  if s.keeper.bring < 5 then .next s
  else s.ok ((s.count pgBell 2).forEach allDies fun t d => t.beat d (answers.getLsbD d))

/-! ### Stall remaps (R337-R340) -/

/-- A stall's tiles are not in REPLAY (Table 3.3). -/
def Stall.noReplay (x : Stall) : Bool := x.acc0.st != .replay && x.acc1.st != .replay

/-- SELF_TEST_DONE of the spare under test; the remap waits for the transfers of the slot left and for the
end of a steelyard replay in it. A stall that no longer needs a spare gives it back. -/
def execSelfTestDone (d : Die) (slot : Slot) (ok : Bool) (s : State) : Host.Outcome State Fault Refusal :=
  let q := slotQuarter slot
  match s.slotState d slot, (s.quarter d q).remapOf with
  | .testing, some l =>
    let s1 := s.count (pgQuarter d q) 1
    if !ok then
      s.ok ((((s1.count (pgQuarter d q) 2).setSlotState d slot .faulted).repair 0 d slot 0).nextSpare d q)
    else
      match s.slotOf d l with
      | none => .next s
      | some old =>
        if s.slotState d old != .faulted then s.ok ((s1.setSlotState d slot .spare).nextSpare d q)
        else if s.unitOut d old ≠ 0 || !(s.slot d old).noReplay then .next s
        else s.ok ((s1.remap d l slot .faulted).nextSpare d q)
  | _, _ => .next s

/-- The context whose bundle carries a REMAP_REQ and has applied at every participant. -/
def State.remapCtx (s : State) : Option Nat :=
  ctxList.find? fun c =>
    let x := s.bctx c
    x.applySent && x.remaps.isSome && (s.ctxParts x).all fun e => x.part e == .applied

/-- REMAP_REQ: the bundle that carries it commits, and with it the host remap; no self-test. A program does
not run then (R98, R340). -/
def execRemapReq (s : State) : Host.Outcome State Fault Refusal :=
  match s.remapCtx with
  | none => .next s
  | some c => if s.running then .next s else s.ok (s.ctxCommitted c)

/-! ### Dies out and back (R343, R347) -/

/-- DIE_OUT_SET: the host committed the die's DIE_OUT bit. -/
def execDieOutSet (d : Die) (s : State) : Host.Outcome State Fault Refusal :=
  if !s.keeper.outReq.getLsbD d then .next s
  else
    let k := { s.keeper with outReq := s.keeper.outReq &&& ~~~(BitVec.ofNat 64 (2 ^ d.val)) }
    s.ok (({ s with keeper := k } : State).takeDieOut d 6)

/-- DIE_READMIT: the host cleared the die's DIE_OUT bit; the die boots, and no step starts until it has
joined or failed: it joins at a step boundary only (R24). -/
def execDieReadmit (d : Die) (s : State) : Host.Outcome State Fault Refusal :=
  if !s.keeper.inReq.getLsbD d || s.running then .next s
  else
    let k := { s.keeper with inReq := s.keeper.inReq &&& ~~~(BitVec.ofNat 64 (2 ^ d.val)), memberGen := s.keeper.memberGen + 1 }
    let s1 : State := { s with keeper := k }
    if !s1.dieOut d || (s1.die d).st == .starting then s.ok s1
    else
      let s2 := s1.bootDie d
      s.ok (s2.setDie d { s2.die d with readmit := true })

/-- PORT_MOVE_CLEAR: the host returned the port's flows (R353). -/
def execPortMoveClear (p : Die) (s : State) : Host.Outcome State Fault Refusal :=
  if !s.keeper.moveReq.getLsbD p then .next s
  else s.ok { s with keeper := { s.keeper with moveReq := s.keeper.moveReq &&& ~~~(BitVec.ofNat 64 (2 ^ p.val)) } }

/-! ### Wale lanes (R348-R350) -/

/-- Groups in service, and spares in use, of a direction. -/
def WaleSt.groups (x : WaleSt) (ba : Bool) : Word := if ba then x.groupBA else x.groupAB
def WaleSt.spares (x : WaleSt) (ba : Bool) : Word := if ba then x.spareBA else x.spareAB
/-- A group of a wale that is ON carries flits. -/
def State.groupOn (s : State) (w : Nat) (ba : Bool) (g : Nat) : Bool :=
  (s.wale w).st == .on && !(s.wale w).blocked && ((s.wale w).groups ba).getLsbD g
/-- Flits of a group wait in the retry buffer, or go on. -/
def State.holdGroup (s : State) (w : Nat) (ba : Bool) (g : Nat) (b : Bool) : State :=
  let x := s.wale w
  let l := x.hold.filter fun e => !(e.1 == ba && e.2 == g)
  s.setWale w { x with hold := if b then l ++ [(ba, g)] else l }
/-- LAST_LANE. -/
def State.lastLane (s : State) (w action : Nat) (ba : Bool) (g lane : Nat) : State :=
  s.poke (pgWale w) 0x05C (w32 (action * 2 ^ 28 + bitAt ba 16 + g * 256 + lane))

/-- FLIT_RESEND_FAIL: after 16 resends the group retrains. -/
def execFlitResendFail (w : WaleIx) (dir : Dir) (g : Fin 32) (s : State) : Host.Outcome State Fault Refusal :=
  if !s.groupOn w dir g || (s.wale w).hold.contains (dir, g.val) then .next s
  else s.ok (((s.holdGroup w dir g true).count (pgWale w) 1 16).incSat (pgWale w) 0x060)

/-- RETRAIN_DONE: the group's flits go on. The lane that LAST_LANE then names is not stated: a free value
(assumption 24). -/
def execRetrainDone (w : WaleIx) (dir : Dir) (g : Fin 32) (s : State) : Host.Outcome State Fault Refusal :=
  if !(s.wale w).hold.contains (dir, g.val) then .next s
  else s.ok (((s.holdGroup w dir g false).lastLane w 4 dir g (s.freeNow.toNat % 33)).freeNext)

/-- Key of a lane's error count. -/
def laneKey (w : Nat) (ba : Bool) (g lane : Nat) : Nat := ((w * 2 + (if ba then 1 else 0)) * 32 + g) * 33 + lane
/-- A lane as the repair map names it: direction, group, lane. -/
def laneCode (ba : Bool) (g lane : Nat) : Nat := ((if ba then 32 else 0) + g) * 64 + lane
/-- Set a lane's error count. -/
def State.setLane (s : State) (k n : Nat) : State := { s with wales := { s.wales with lane := SMap.set 0 s.wales.lane k n } }

/-- A lane is retired: the spare takes its place, or its group leaves service. -/
def State.retireLane (s : State) (w : Nat) (ba : Bool) (g lane : Nat) : State :=
  let x := s.wale w
  let bit : Word := BitVec.ofNat 32 (2 ^ g)
  let s1 := s.repair 3 (waleEnds w).1 w (laneCode ba g lane)
  if lane < 32 && !(x.spares ba).getLsbD g then
    let y := if ba then { x with spareBA := x.spareBA ||| bit } else { x with spareAB := x.spareAB ||| bit }
    (((s1.setWale w y).holdGroup w ba g true).lastLane w 1 ba g lane).raise (pgWale w) 0x0401
  else
    let y := if ba then { x with groupBA := x.groupBA &&& ~~~bit } else { x with groupAB := x.groupAB &&& ~~~bit }
    let s2 := (((s1.setWale w y).holdGroup w ba g false).lastLane w 2 ba g lane).raise (pgWale w) 0x0402
    if (y.groups ba) = 0 then
      let s3 := (s2.lastLane w 3 ba g lane).raise (pgWale w) 0x0403
      ({ s3 with wales := { s3.wales with relayDue := true } } : State).noteAssume
    else s2.noteAssume

/-- LANE_ERROR attributed to a lane that carries data. -/
def execLaneError (w : WaleIx) (dir : Dir) (g : Fin 32) (lane : Fin 33) (s : State) : Host.Outcome State Fault Refusal :=
  let gone := s.keeper.repairs.any fun r => r.kind == 3 && r.unit == w.val && r.lane == laneCode dir g lane
  if !s.groupOn w dir g || gone || (lane.val == 32 && !((s.wale w).spares dir).getLsbD g) then .next s
  else
    let k := laneKey w dir g lane
    let n := SMap.get 0 s.wales.lane k + 1
    if n ≤ s.regField (pgWale w) 0x058 15 0 then s.ok (s.setLane k n)
    else s.ok ((s.setLane k 0).retireLane w dir g lane)

/-- LANE_WINDOW_EXPIRY. -/
def execLaneWindowExpiry (w : WaleIx) (dir : Dir) (g : Fin 32) (lane : Fin 33) (s : State) :
    Host.Outcome State Fault Refusal := s.ok (s.setLane (laneKey w dir g lane) 0)

/-- LANE_SWAP_DONE: the spare carries the lane's data and the group's flits resume. -/
def execLaneSwapDone (w : WaleIx) (dir : Dir) (g : Fin 32) (s : State) : Host.Outcome State Fault Refusal :=
  if !(s.wale w).hold.contains (dir, g.val) || !((s.wale w).spares dir).getLsbD g then .next s
  else s.ok (s.holdGroup w dir g false)

/-- WALE_RELAY_DONE: the hops of the path use relays over what is left. -/
def execWaleRelayDone (s : State) : Host.Outcome State Fault Refusal :=
  if s.wales.relayDue then s.ok ({ s with wales := { s.wales with relayDue := false } } : State).repath else .next s

/-! ### Shorts (R354, R355) -/

/-- QUARTER_RAIL_SHORT. -/
def execQuarterRailShort (d : Die) (q : Qtr) (s : State) : Host.Outcome State Fault Refusal :=
  if !s.dieLive d || (s.quarter d q).iso then .next s
  else
    let s1 := ((s.raise (pgQuarter d q) 0x0701).repair 1 d q 0).darkQuarter d q .faulted 2
    s.ok (s1.setQuarter d q { s1.quarter d q with iso := true })

/-- The spine rail's switch is open. -/
def State.isolateDie (s : State) (d : Nat) : State := s.setDie d { s.die d with iso := true }

/-- SPINE_RAIL_SHORT, of a die whose spine is powered. -/
def execSpineRailShort (d : Die) (s : State) : Host.Outcome State Fault Refusal :=
  let x := s.die d
  if x.st != .on && x.st != .starting then .next s
  else
    let s1 := (s.raise (pgDieHealth d) 0x0702).repair 2 d 0 0
    if x.service = 2 then
      s.ok ((s1.setDie d { s1.die d with st := .faulted, cause := 2, readmit := false, iso := true }).commitDieOut d)
    else s.ok (((s1.takeDieOut d 2).isolateDie d).bringCheck)

/-! ### The tray (R356-R358, R460) -/

/-- PRSNT_N_RELEASE: past the hold of R460 the release is a withdrawal. -/
def execPrsntNRelease (s : State) : Host.Outcome State Fault Refusal :=
  if !s.pins.prsnt then .next s
  else
    let s1 : State := { s with pins := { s.pins with prsnt := false } }
    s.ok (if s.pwr.input && !s.keeper.prsntHold then s1.withdrawAll else s1)

/-- PRSNT_N_ASSERT: asserted for 100 ms, the hold ends. -/
def execPrsntNAssert (s : State) : Host.Outcome State Fault Refusal :=
  let s1 : State := { s with pins := { s.pins with prsnt := true } }
  if s.keeper.prsntHold then s.ok s1.bringDies.bringCheck
  else if s.pins.prsnt then .next s
  else s.ok s1

end Sys2Proof.Machine
end

