-- ==== Sys2Proof/Machine/ShutterFam.lean ====
section
/-! DEFINITION. The meanings of the commands of Shutter (R378-R381). -/

namespace Sys2Proof.Machine

/-! ### Requests (R378) -/

/-- SHUTTER_REQ_N_CHANGE. -/
def execShutterReqNChange (asserted : Bool) (s : State) : Host.Outcome State Fault Refusal :=
  if asserted = s.shut.pin then .next s
  else s.ok ({ s with shut := { s.shut with pin := asserted } } : State).retarget

/-- SHUTTER. -/
def execShutter (s : State) : Host.Outcome State Fault Refusal :=
  if s.takesWrites pgShutter then s.ok (s.setLatch true) else .next s

/-- WAKE. -/
def execWake (s : State) : Host.Outcome State Fault Refusal :=
  if s.takesWrites pgShutter then s.ok (s.setLatch false) else .next s

/-! ### Entry (R379, R380, Table 15.6) -/

/-- A quarter enters Shutter: its rail goes off. One that drains completes its drain, and starts at wake if
its re-arm is pending (R414). -/
def State.quarterSleep (s : State) (d q : Nat) : State :=
  let x := s.quarter d q
  let s1 := if x.clock then s.count pgClocks 2 else s
  let y := { x with gated := true, clock := false, rearm := false }
  match x.st with
  | .on => s1.setQuarter d q { y with st := .shuttered }
  | .starting => s1.setQuarter d q { y with st := .shuttered }
  | .draining =>
    if x.rearm then s1.setQuarter d q { y with st := .shuttered }
    else s1.setQuarter d q { y with st := .off, cause := 4 }
  | _ => s

/-- A die enters Shutter: its streams are FREE, its contexts IDLE, its walks abandoned, its extra scrub walk
over, its DRAM in self-refresh. -/
def State.dieSleep (s : State) (d : Nat) : State :=
  let s1 := ((s.dropStreams d fun _ _ => true).abandonDie d).fetchAbandon d true
  let s2 := s1.forEach (List.range 4) fun t c => t.roundClear d c .idle
  let s3 := s2.forEach (List.range 64) fun t i => t.setPool d (i / 16) (i % 16) Pool.reset
  let s4 := (s3.tagsClear d).pokeField (pgScrub d) 0x008 2 2 0
  let s5 := s4.setScrubber d { s4.scrubber d with burst := none }
  let s6 := s5.setDie d { s5.die d with selfRef := true }
  s6.forEach (List.range 4) fun t q => t.quarterSleep d q

/-- What the program left is lost: stalls, descriptors, marks, program bundles. -/
def State.programLost (s : State) : State :=
  { s with
    stalls := [], arcs := [], streams := [], stores := Stores.reset
    rounds := { s.rounds with transit := [] }, bnd := { s.bnd with progs := [] }
    prog := { s.prog with applied := false, hold := false, breaches := [], replaying := false, remap := false } }

/-- The cap that stays in force in Shutter is held, or follows its registers again (R392). -/
def State.holdCap (s : State) (c : Option Nat) : State := { s with pwr := { s.pwr with capHeld := c } }

/-- SHUTTER_ENTRY, as one event (Table 15.6): the target is Shutter and no program runs. -/
def execShutterEntry (s : State) : Host.Outcome State Fault Refusal :=
  let may := (s.shut.st == .awake || s.shut.st == .waiting) && s.shutTarget && !s.running &&
    decide (7 ≤ s.keeper.bring) && !s.keeper.withdrawn
  if !may then .next s
  else
    let s1 := s.abortAll 6
    let s2 := (s1.forEach s1.liveDies fun t d => t.dieSleep d).programLost
    s.ok ((({ s2 with shut := { s2.shut with st := .shuttered } } : State).holdCap (some s.capSet)).count pgShutter 0)

/-- SHUTTER_WAIT_EXPIRY: the step has not ended within WAIT_MS. -/
def execShutterWaitExpiry (s : State) : Host.Outcome State Fault Refusal :=
  if s.shut.st == .waiting && s.running then s.ok s.abortProgram.adoptGo else .next s

/-! ### Wake (R381, Table 15.7) -/

/-- The host's wish for a quarter: CTL.ENABLE. -/
def State.quarterWanted (s : State) (d q : Nat) : Bool := (s.reg (pgQuarter d q) 0x008).getLsbD 0

/-- A quarter at the start of a wake: CTL writes recorded in Shutter apply (Table 16.7). -/
def State.quarterRise (s : State) (d q : Nat) : State :=
  let x := s.quarter d q
  match x.st with
  | .shuttered =>
    if s.quarterWanted d q then s.setQuarter d q { x with st := .starting }
    else s.setQuarter d q { x with st := .off, cause := 4 }
  | .off => if x.cause = 4 && s.quarterWanted d q then s.setQuarter d q { x with st := .starting } else s
  | _ => s

/-- SHUTTER_WAKE: the target is awake. On an IB-6442-WS the wake is withheld while the meter does not work.
The milliseconds spent SHUTTERED are a free value (assumption 24). -/
def execShutterWake (s : State) : Host.Outcome State Fault Refusal :=
  if s.shut.st != .shuttered || s.shutTarget || s.shut.blocked then .next s
  else
    let s1 := s.forEach s.liveDies fun t d => (List.range 4).foldl (fun u q => u.quarterRise d q) t
    let s2 := ((s1.count pgShutter 1).count pgShutter 2 s.freeNow.toNat).freeNext
    s.ok (({ s2 with shut := { s2.shut with st := .waking } } : State).holdCap none)

/-- A die completes its part of a wake: quarter buffers and scratchpads zeroed, quarters ON. -/
def State.dieWake (s : State) (d : Nat) : State :=
  let s1 := (List.range 4).foldl (fun t q => t.zeroQbuf d q) s
  let s2 := s1.setDie d { s1.die d with selfRef := false }
  let s3 := s2.setScrubber d { s2.scrubber d with sramUnit := 0, sramPos := 0 }
  (List.range 4).foldl (fun t q => if (t.quarter d q).st == .starting then t.quarterUp d q else t) s3

/-- WAKE_COMPLETE at the 30 ms point; dies that are `late` are taken out with OUT_CAUSE 7. ASSUME_STATUS stands
until the next image applies (Table 8.10). -/
def execWakeComplete (late : DWord) (s : State) : Host.Outcome State Fault Refusal :=
  if s.shut.st != .waking then .next s
  else
    let ds := s.liveDies
    let s1 := s.forEach (ds.filter fun d => late.getLsbD d) fun t d => t.takeDieOut d 7
    let s2 := s1.forEach (ds.filter fun d => !late.getLsbD d) fun t d => if t.dieLive d then t.dieWake d else t
    let s3 : State := { s2 with
      shut := { s2.shut with st := .awake }
      prog := { Prog.reset with capBelow := s2.prog.capBelow, scrubAbv := s2.prog.scrubAbv } }
    s.ok s3.adoptGo

end Sys2Proof.Machine
end

