-- ==== Sys2Proof/Machine/PowerFam.lean ====
section
/-! DEFINITION. The meanings of the commands of power and clocks (R364-R371): the input, the cap and its
catch-ups, the ARITH step, CAPDOWN_N, slew. -/

namespace Sys2Proof.Machine

/-! ### The input (R364) -/

/-- Input voltage within 40.0 to 45.0 V. -/
def vinGood (mv : BitVec 16) : Bool := decide (40000 ≤ mv.toNat) && decide (mv.toNat ≤ 45000)

/-- VIN_OUT_OF_RANGE for 100 µs: 0x0704 and the cap of 8,000 W. -/
def execVinOutOfRange (mv : BitVec 16) (s : State) : Host.Outcome State Fault Refusal :=
  if !s.pwr.input || !s.pwr.vinOk || vinGood mv then .next s
  else
    let s1 := (s.pokeField pgPower 0x04C 15 0 mv.toNat).raise pgPower 0x0704
    s.ok ({ s1 with pwr := { s1.pwr with vinOk := false, vinCap := true } } : State).pwrCheck

/-- VIN_RECOVER: back in range for 10 ms. -/
def execVinRecover (mv : BitVec 16) (s : State) : Host.Outcome State Fault Refusal :=
  if !s.pwr.input || s.pwr.vinOk || !vinGood mv then .next s
  else
    let s1 := s.pokeField pgPower 0x04C 15 0 mv.toNat
    s.ok ({ s1 with pwr := { s1.pwr with vinOk := true, vinCap := false } } : State).pwrCheck

/-- VIN_LOSS: below 36.0 V. FINAL leaves on the slath's hold-up, then every rail is off; the meter goes on
on its own. -/
def execVinLoss (s : State) : Host.Outcome State Fault Refusal :=
  if !s.pwr.input then .next s
  else
    let s1 := s.sendFinal false
    let s2 : State := { s1 with
      keeper := { s1.keeper with lost36 := true }
      meter := { s1.meter with low := s1.meter.started } }
    s.ok s2.powerOff

/-! ### The ARITH step (R368) -/

/-- The highest step that raising may reach. -/
def State.stepTop (s : State) : Nat := min (min 72 (s.regField pgClocks 0x040 6 0)) s.pwr.ceil
/-- The step falls by one. -/
def State.stepDown (s : State) : State :=
  if s.pwr.step = 0 then { s with pwr := { s.pwr with lowering := false } }
  else
    let n := s.pwr.step - 1
    ({ s with pwr := { s.pwr with step := n, lowering := s.pwr.lowering && decide (0 < n) } } : State).count pgClocks 0
/-- The step rises by one. -/
def State.stepUp (s : State) : State :=
  ({ s with pwr := { s.pwr with step := s.pwr.step + 1 } } : State).count pgClocks 1

/-- STEP_LOWER: 25 µs after the last, while lowering goes on. -/
def execStepLower (s : State) : Host.Outcome State Fault Refusal :=
  if s.pwr.lowering then s.ok s.stepDown else .next s

/-! ### Cap windows and catch-ups (R367, R369) -/

/-- A catch-up has ended: its excess joins OVERCAP_MJ and CATCHUP_LAST shows it. A value too large for its
field of CATCHUP_LAST is free (assumption 24). -/
def State.catchupEnd (s : State) (n t : Nat) : State :=
  let mj := divRne t 10
  let fit := fun (x hi : Nat) => if x < 65536 then x else (s.freeNow.toNat / 2 ^ hi) % 65536
  let last := w32 (fit (100 * (n + 1)) 16 * 65536 + fit mj 32)
  let s1 := ((s.incSat pgPower 0x054 mj).poke pgPower 0x058 last).count pgPower 1
  ({ s1 with pwr := { s1.pwr with run := none } } : State).freeNext

/-- The catch-up after a window of `w` W under the cap `c`: its excess in tenths of mJ, 0x0706 once above
25 J. -/
def State.catchup (s : State) (w c : Nat) : State :=
  if c < w then
    let old := s.pwr.run.getD (0, 0)
    let t := old.2 + (w - c)
    let s1 : State := { s with pwr := { s.pwr with run := some (old.1 + 1, t) } }
    if decide (250000 < t) && decide (old.2 ≤ 250000) then s1.raise pgPower 0x0706 else s1
  else
    match s.pwr.run with
    | some r => s.catchupEnd r.1 r.2
    | none => s

/-- Whole joules of input energy join the POWER page's counter. -/
def State.energy (s : State) (w : Nat) : State :=
  let e := s.pwr.frac + w
  ({ s with pwr := { s.pwr with frac := e % 10000 } } : State).count pgPower 0 (e / 10000)

/-- The step controller at the end of a window. While quarters are divided the step goes to 0 (R370). -/
def State.control (s : State) (w c : Nat) : State :=
  if s.pwr.capdown || s.pwr.divided != 0 || decide (c < w) then
    { s with pwr := { s.pwr with lowering := decide (0 < s.pwr.step) } }
  else
    let s1 : State := { s with pwr := { s.pwr with lowering := false } }
    if decide (w + 250 ≤ c) && decide (s.pwr.step < s.stepTop) then s1.stepUp else s1

/-- CAP_WINDOW_END, with the window's average power, the input voltage and current. -/
def execCapWindowEnd (avgW : BitVec 16) (mv da : BitVec 16) (s : State) : Host.Outcome State Fault Refusal :=
  if !s.pwr.input then .next s
  else
    let w := avgW.toNat
    let c := s.capInForce
    let s1 := (s.poke pgPower 0x048 (w32 w)).poke pgPower 0x04C (w32 (da.toNat * 65536 + mv.toNat))
    s.ok (((s1.energy w).catchup w c).control w c)

/-! ### CAPDOWN_N (R370) -/

/-- CAPDOWN_ASSERT, past the filter. -/
def execCapdownAssert (s : State) : Host.Outcome State Fault Refusal :=
  if s.pwr.capdown then .next s
  else
    let s1 : State := { s with pwr := { s.pwr with capdown := true, lowering := decide (0 < s.pwr.step) } }
    s.ok (if s.pwr.input then s1.count pgPower 2 else s1)

/-- CAPDOWN_RELEASE. -/
def execCapdownRelease (s : State) : Host.Outcome State Fault Refusal :=
  if s.pwr.capdown then s.ok { s with pwr := { s.pwr with capdown := false } } else .next s

/-- The quarters of group `j` are divided, or not. -/
def State.divideGroup (s : State) (j : Nat) (b : Bool) : State :=
  let m : Word := BitVec.ofNat 32 (2 ^ j)
  let s1 : State := { s with pwr := { s.pwr with
    divided := if b then s.pwr.divided ||| m else s.pwr.divided &&& ~~~m } }
  s1.forEach (List.range 8) fun t i =>
    let g := 8 * j + i
    let x := t.quarter (g / 4) (g % 4)
    if x.clock then t.setQuarter (g / 4) (g % 4) { x with div4 := b } else t

/-- CAPDOWN_GROUP_STEP: the next group in order is divided or, once the pin is released and the step is 0,
divided no more. -/
def execCapdownGroupStep (s : State) : Host.Outcome State Fault Refusal :=
  if s.pwr.capdown then
    match (List.range 32).find? fun j => !s.pwr.divided.getLsbD j with
    | some j => s.ok (s.divideGroup j true)
    | none => .next s
  else if s.pwr.step = 0 then
    match (List.range 32).find? fun j => s.pwr.divided.getLsbD j with
    | some j => s.ok (s.divideGroup j false)
    | none => .next s
  else .next s

/-! ### Slew (R371) -/

/-- SLEW_INTERVAL: the average of a 1 µs interval, in 0.1 A. -/
def execSlewInterval (avgDa : BitVec 16) (s : State) : Host.Outcome State Fault Refusal :=
  if !s.pwr.input then .next s
  else
    let a := avgDa.toNat
    let s1 := match s.pwr.lastDa with
      | some p => s.peak pgPower 0x05C (if p ≤ a then a - p else p - a)
      | none => s
    s.ok { s1 with pwr := { s1.pwr with lastDa := some a } }

end Sys2Proof.Machine
end

