-- ==== Sys2Proof/Machine/ThermalFam.lean ====
section
/-! DEFINITION. The meanings of the commands of temperature (R382-R387). Readings are in quarters of a
degree, DRAM temperatures in degrees. -/

namespace Sys2Proof.Machine

/-- TSTATE after a reading (R383). -/
def tstNext (t : TSt) (qc : Nat) (dram : Nat) : TSt :=
  match t with
  | .normal => if 420 ≤ qc then .warn else .normal
  | .warn => if qc < 400 then .normal else .warn
  | .tripped => if qc < 380 && dram < 90 then .cool else .tripped
  | .cool => .cool

/-- TEMP_SAMPLE of a quarter. -/
def execTempSample (d : Die) (q : Qtr) (qc : BitVec 10) (s : State) : Host.Outcome State Fault Refusal :=
  if !s.pwr.input then .next s
  else
    let x := s.quarter d q
    let t := tstNext x.tst qc.toNat (s.die d).dramTemp.toNat
    let s1 := s.setQuarter d q { x with temp := qc, tst := t }
    s.ok (if x.tst == .normal && t == .warn then (s1.raise (pgQuarter d q) 0x0801).count pgThermal 0 else s1)

/-- A quarter is switched off for heat (Table 15.8). One that is FAULTED stays so: a short prevails. -/
def State.heatOff (s : State) (d q : Nat) : State :=
  let x := s.quarter d q
  let s1 := if x.st == .faulted then s else s.darkQuarter d q .off 1
  let s2 := s1.setQuarter d q { s1.quarter d q with tst := .tripped }
  (s2.raise (pgQuarter d q) 0x0802).count pgThermal 1

/-- THERMAL_TRIP: the comparator trips. -/
def execThermalTrip (d : Die) (q : Qtr) (s : State) : Host.Outcome State Fault Refusal :=
  let x := s.quarter d q
  if !s.dieLive d || (x.tst != .normal && x.tst != .warn) then .next s else s.ok (s.heatOff d q)

/-- CEILING_STEP, every 1 ms; the step never exceeds the ceiling. -/
def execCeilingStep (s : State) : Host.Outcome State Fault Refusal :=
  if !s.pwr.input then .next s
  else
    let hot := s.quarters.any fun (e : Nat × QuarterSt) => e.2.tst == .warn
    let c := if !(s.reg pgThermal 0x040).getLsbD 0 then 72
      else if hot then s.pwr.ceil - 1 else min 72 (s.pwr.ceil + 1)
    let s1 : State := { s with pwr := { s.pwr with ceil := c } }
    s.ok (if c < s.pwr.step then s1.stepDown else s1)

/-- DRAM_TEMP_THRESHOLD: the hottest layer's temperature; 0x0803 at 95, and at 105 the four quarters trip. -/
def execDramTempThreshold (d : Die) (c : Byte) (s : State) : Host.Outcome State Fault Refusal :=
  if !s.dieLive d then .next s
  else
    let x := s.die d
    let rises := fun (n : Nat) => decide (x.dramTemp.toNat < n) && decide (n ≤ c.toNat)
    let s1 := s.setDie d { x with dramTemp := c }
    let s2 := if rises 95 then s1.raise (pgDram d) 0x0803 else s1
    if !rises 105 then s.ok s2
    else
      s.ok ((s2.raise (pgDram d) 0x0804).forEach (List.range 4) fun t q =>
        let y := t.quarter d q
        if y.tst == .normal || y.tst == .warn then t.heatOff d q else t)

/-- The live copy of a TRIP_REARM bit returns to 0. -/
def State.rearmClear (s : State) (g : Nat) : State :=
  s.pokeField pgThermal (0x080 + 4 * (g / 32)) (g % 32) (g % 32) 0

/-- TRIP_REARM: the quarter starts; that of a die which still boots starts when the die joins. -/
def execTripRearm (d : Die) (q : Qtr) (s : State) : Host.Outcome State Fault Refusal :=
  let g := 4 * d.val + q.val
  if !s.keeper.trips.contains g then .next s
  else
    let s1 : State := { s with keeper := { s.keeper with trips := s.keeper.trips.filter (· != g) } }
    let x := s1.quarter d q
    if x.iso || x.st != .off then s.ok (s1.rearmClear g)
    else if s1.dieLive d then s.ok ((s1.setQuarter d q { x with st := .starting }).count pgThermal 2)
    else s.ok (((s1.setQuarter d q { x with tst := .normal }).rearmClear g).count pgThermal 2)

/-- QUARTER_START_DONE: rail up, clock running, scratchpads zeroed, ON at duty 0. -/
def execQuarterStartDone (d : Die) (q : Qtr) (s : State) : Host.Outcome State Fault Refusal :=
  if !s.dieLive d || s.asleep || (s.quarter d q).st != .starting then .next s
  else s.ok ((s.quarterUp d q).rearmClear (4 * d.val + q.val)).upCheck

end Sys2Proof.Machine
end

