-- ==== Sys2Proof/Machine/HostFam.lean ====
section
/-! DEFINITION. The meanings of the commands at the host interface: register reads and writes with their
side effects (R6-R8, R315, R331, R395-R399) and the switching of blocks (R406-R408). The eight access
rows share one read and one write: what a register does is decided by the register (assumption 19). -/

namespace Sys2Proof.Machine

/-! ### Switching blocks (R406-R408) -/

/-- A quarter's switching fields are set. -/
def State.setQuarterCtl (s : State) (d q : Nat) (st : BlkSt) (rearm drain : Bool) : State :=
  s.setQuarter d q { s.quarter d q with st := st, rearm := rearm, drain := drain }

/-- Table 16.7 for a quarter. What is written in Shutter is recorded only; so is a start of a quarter whose
die has not joined the grid. -/
def State.ctlQuarter (s : State) (d q : Nat) (en dr : Bool) : State :=
  let x := s.quarter d q
  if s.shut.st == .shuttered then s
  else match x.st, en with
  | .on, false => s.setQuarterCtl d q .draining false dr
  | .starting, false => s.setQuarterCtl d q .draining false false
  | .draining, false => s.setQuarterCtl d q .draining false (x.drain && dr)
  | .draining, true => s.setQuarterCtl d q .draining true x.drain
  | .off, true => if s.dieLive d then s.startQuarter d q else s
  | _, _ => s

/-- Every slot of a port that is not FREE closes, cause host (R292). -/
def State.closeSlots (s : State) (p : Nat) (reason : Byte) : State :=
  s.forEach (List.range 1024) fun t f => t.hostClose p f reason 1

/-- Table 16.7 for a port. A graceful switch-off closes its slots at once. -/
def State.ctlPort (s : State) (p : Nat) (en dr : Bool) : State :=
  let x := s.port p
  match x.st, en with
  | .on, false =>
    let s1 := s.setPort p { x with st := .draining, rearm := false, drain := dr }
    if dr then s1.closeSlots p 0 else s1
  | .starting, false => s.setPort p { x with st := .draining, rearm := false, drain := dr }
  | .draining, false => s.setPort p { x with rearm := false, drain := x.drain && dr }
  | .draining, true => s.setPort p { x with rearm := true }
  | .off, true => s.setPort p { x with st := .starting, link := 1 }
  | _, _ => s

/-- Table 16.7 for a wale. -/
def State.ctlWale (s : State) (w : Nat) (en : Bool) : State :=
  let x := s.wale w
  match x.st, en with
  | .on, false => s.setWale w { x with st := .draining, rearm := false }
  | .starting, false => s.setWale w { x with st := .draining, rearm := false }
  | .draining, b => s.setWale w { x with rearm := b }
  | .off, true => s.setWale w { x with st := .starting }
  | _, _ => s

/-- A write of CTL: ENABLE and DRAIN of a switchable page, SCRUB_NOW of a SCRUB page (R406, R144). -/
def State.writeCtl (s : State) (page : Nat) (v : Word) : State :=
  let en := v.getLsbD 0
  let dr := v.getLsbD 1
  let s1 := s.poke page 0x008 (v &&& 3)
  match pageKind page with
  | some .quarter => s1.ctlQuarter (pageDie page) (pageOff page - 0x10) en dr
  | some .sloubPort => s1.ctlPort (page - 0x40) en dr
  | some .wale | some .xwale => s1.ctlWale (page - 0x100) en
  | some .scrub => if v.getLsbD 2 then s.scrubNow (pageDie page) else s
  | _ => s

/-- CTL_WRITE. -/
def execCtlWrite (page : Fin 16384) (data : Word) (s : State) : Host.Outcome State Fault Refusal :=
  if ctlPage page && s.takesWrites page then s.ok (s.writeCtl page data) else .next s

/-- A quarter has drained: its rail goes off. A graceful drain waits while a program runs and until its
streams are complete. -/
def State.quarterDrained (s : State) (d q : Nat) : Bool :=
  !(s.quarter d q).drain || (!s.running && (List.range 18).all fun i => s.unitOut d (slotNum q i) == 0)

/-- The quarter is OFF with DARK_CAUSE 4, or restarts. -/
def State.quarterOff (s : State) (d q : Nat) : State :=
  let s1 := s.darkQuarter d q .off 4
  if (s.quarter d q).rearm then s1.startQuarter d q else s1

/-- An immediate switch-off writes off what the port's slots hold after one CLOSE WITHDRAWAL each. -/
def State.dropSlots (s : State) (p : Nat) : State :=
  s.forEach (List.range 1024) fun t f =>
    match (t.flow p f).st with
    | .free => t
    | .closing => (t.sendClose p f 1).writeOff p f
    | _ => (t.hostClose p f 1 1).writeOff p f

/-- The port is OFF with its link down, or restarts. -/
def State.portOff (s : State) (p : Nat) : State :=
  let x := s.port p
  let s1 := if x.link == 3 then s.count (pgPortLink p) 2 else s
  s1.setPort p (if x.rearm then { x with st := .starting, rearm := false, link := 1 }
    else { x with st := .off, link := 0 })

/-- The drain of a port: graceful, every slot still open closes, and the port is OFF when all are FREE. -/
def State.portDrain (s : State) (p : Nat) : State :=
  if !(s.port p).drain then (s.dropSlots p).portOff p
  else if (s.flows.any fun e => e.1 / 1024 == p && e.2.st != .free) then s.closeSlots p 0
  else s.portOff p

/-- The wale is OFF, or restarts; its hops take the relay and a running program's assumption is judged. -/
def State.waleOff (s : State) (w : Nat) : State :=
  let x := s.wale w
  let s1 := s.setWale w { x with st := if x.rearm then .starting else .off, rearm := false, hold := [] }
  ({ s1 with wales := { s1.wales with relayDue := true } } : State).noteAssume

/-- BLOCK_DRAIN_DONE. -/
def execBlockDrainDone (page : Fin 16384) (s : State) : Host.Outcome State Fault Refusal :=
  let d := pageDie page
  let q := pageOff page - 0x10
  match pageKind page with
  | some .quarter =>
    if s.dieLive d && (s.quarter d q).st == .draining && s.quarterDrained d q then s.ok (s.quarterOff d q)
    else .next s
  | some .sloubPort =>
    if (s.port (page - 0x40)).st == .draining then s.ok (s.portDrain (page - 0x40)) else .next s
  | some .wale | some .xwale =>
    if (s.wale (page - 0x100)).st == .draining then s.ok (s.waleOff (page - 0x100)) else .next s
  | _ => .next s

/-- The wale's groups in service have retrained. -/
def State.waleOn (s : State) (w : Nat) : State :=
  let s1 := s.setWale w { s.wale w with st := .on, hold := [] }
  { s1 with wales := { s1.wales with relayDue := true } }

/-- BLOCK_START_DONE. -/
def execBlockStartDone (page : Fin 16384) (s : State) : Host.Outcome State Fault Refusal :=
  let d := pageDie page
  let q := pageOff page - 0x10
  match pageKind page with
  | some .quarter =>
    if s.dieLive d && !s.asleep && (s.quarter d q).st == .starting then
      s.ok ((s.quarterUp d q).rearmClear (4 * d + q)).upCheck
    else .next s
  | some .sloubPort =>
    let p := page.val - 0x40
    if (s.port p).st == .starting && !s.dieOut p then s.ok (s.portUpNow p) else .next s
  | some .wale | some .xwale =>
    if (s.wale (page - 0x100)).st == .starting then s.ok (s.waleOn (page - 0x100)) else .next s
  | _ => .next s

/-! ### Reads (R6-R8, R331, R397) -/

/-- Reads of a page reach its registers: it is live and its die is not out (R344, R399). -/
def State.readsPage (s : State) (page : Nat) : Bool := s.pageLive page && !s.pageOut page

/-- The ledger that LG_SEL of a ledger page selects; none where the page does not hold it. -/
def State.selLedger (s : State) (page : Nat) : Ledger :=
  let c := s.regField page 0x040 26 24
  let i := s.regField page 0x040 9 0
  if ledgerCount c ≤ i then Ledger.reset
  else if page = pgLedger then (if c = 7 then s.ledger 0 7 i else Ledger.reset)
  else if c = 7 then Ledger.reset else s.ledger (pageDie page) c i

/-- All four counts are sampled in one cycle (R331). -/
def State.sampleLedger (s : State) (page : Nat) : State :=
  let l := s.selLedger page
  let put := fun (m : SMap DWord) (i : Nat) (v : DWord) => SMap.set 0 m (4 * page + i) v
  { s with host := { s.host with
      sample := put (put (put (put s.host.sample 0 l.issued) 1 l.returned) 2 l.held) 3 l.woff } }

/-- The page is a ledger page. -/
def ledgerPage (page : Nat) : Bool := pageKind page == some .ledger || pageKind page == some .dieLedger
/-- The page holds the error record of R140. -/
def errPage (page : Nat) : Bool :=
  pageKind page == some .dram || pageKind page == some .qbuf || pageKind page == some .scrub

/-- What happens before a register is read: a read of ISSUED_LO samples. -/
def State.readBefore (s : State) (page off : Nat) : State :=
  if s.readsPage page && ledgerPage page && off == 0x044 then s.sampleLedger page else s

/-- Whether a register reads from a latch: the HI of a pair, LAST_SYNDROME. The HI registers of a sampled
ledger count read from the sample (R331). -/
def latched (page off : Nat) : Bool :=
  match pageKind page with
  | none => false
  | some k => (regIsHi k off && !(ledgerPage page && decide (0x044 ≤ off) && decide (off < 0x064))) ||
      (errPage page && off == rLastSyndrome)

/-- The value that a read returns. -/
def State.readVal (s : State) (page off : Nat) : Word :=
  if s.readsPage page && latched page off then SMap.get 0 s.host.latch (regKey page off) else s.view page off

/-- Latch a register. -/
def State.latchReg (s : State) (page off : Nat) : State :=
  { s with host := { s.host with latch := SMap.set 0 s.host.latch (regKey page off) (s.view page off) } }

/-- The bits that a read of a register clears. -/
def rcBits (page off : Nat) : Word :=
  match pageKind page with
  | none => 0
  | some k => match regRow k off with | some r => r.rc | none => 0

/-- What a read leaves behind: latches, cleared RC bits, the re-armed error record. -/
def State.readAfter (s : State) (page off : Nat) : State :=
  if !s.readsPage page then s
  else
    let hi := match pageKind page with | some k => regIsHi k (off + 4) | none => false
    let s1 := if hi then s.latchReg page (off + 4) else s
    let s2 := if errPage page && off == rLastErrLo then
        let t := s1.latchReg page rLastSyndrome
        { t with host := { t.host with errNew := SMap.set false t.host.errNew page false } }
      else s1
    let rc := rcBits page off
    (if rc = 0 then s2 else s2.poke page off (s2.reg page off &&& ~~~rc)).freeNext

/-- Read one aligned register at a BAR0 offset: the bytes join those read before. -/
def State.readReg (a : State × List Byte) (addr : Nat) : State × List Byte :=
  let page := addr / 4096
  let off := addr % 4096
  let s := a.1.readBefore page off
  (s.readAfter page off, a.2 ++ leBytes 4 (s.readVal page off).toNat)

/-- An aligned 4-byte access, or an aligned 8-byte read at a LO register (R397). -/
def regularRead (addr len : Nat) : Bool :=
  (len == 4 && addr % 4 == 0) ||
  (len == 8 && addr % 8 == 0 && match pageKind (addr / 4096) with
    | some k => regIsHi k (addr % 4096 + 4)
    | none => false)

/-- What an access counts: all in ENGINE_ID, odd ones and those to unassigned pages in SUMMARY. -/
def State.noteAccess (s : State) (i addr : Nat) (regular : Bool) : State :=
  let s1 := s.count pgEngineId i
  let s2 := if regular then s1 else s1.count pgSummary 1
  if (pageKind (addr / 4096)).isNone then s2.count pgSummary 2 else s2

/-- The registers that a read covers, in order. -/
def coveredRegs (addr len : Nat) : List Nat :=
  (List.range ((addr % 4 + len + 3) / 4)).map fun i => addr / 4 * 4 + 4 * i

/-- A number from its bytes, least significant first. -/
def ofBytes (l : List Byte) : Nat := l.foldr (fun b n => b.toNat + 256 * n) 0

/-- A host read of `len` bytes. -/
def State.hostRead (s : State) (addr len : Nat) : State :=
  if s.host.d3hot then s.emit (.unsupported addr)
  else
    let s1 := s.noteAccess 1 addr (regularRead addr len)
    let r := (coveredRegs addr len).foldl State.readReg (s1, [])
    r.1.emit (.readData addr len (BitVec.ofNat 64 (ofBytes ((r.2.drop (addr % 4)).take len))))

/-- A host read reaches the endpoint: the link is up. -/
def State.barRead (s : State) (addr : BitVec 26) (len : Fin 9) : Host.Outcome State Fault Refusal :=
  if s.host.linkUp then s.ok (s.hostRead addr.toNat len) else .next s

/-- LO_READ. -/
def execLoRead (addr : BitVec 26) (len : Fin 9) (s : State) : Host.Outcome State Fault Refusal := s.barRead addr len
/-- RC_READ. -/
def execRcRead (addr : BitVec 26) (len : Fin 9) (s : State) : Host.Outcome State Fault Refusal := s.barRead addr len
/-- LEDGER_SAMPLE_READ. -/
def execLedgerSampleRead (addr : BitVec 26) (len : Fin 9) (s : State) : Host.Outcome State Fault Refusal :=
  s.barRead addr len

/-! ### Writes -/

/-- A W1C write; a bit in `sets` is one that the engine sets in the same cycle (R8). CLASS all zero clears
LAST_CODE and FAULT_FIRST (R402); VALID cleared ends the violation of the page's block (R404). -/
def State.writeW1c (s : State) (page off : Nat) (m v sets : Word) : State :=
  let c := v &&& m &&& ~~~sets
  let new := s.reg page off &&& ~~~c
  if off = rFault then
    if fieldOf new 10 1 = 0 then (s.poke page off 0).poke page rFaultFirst 0 else s.poke page off new
  else
    let s1 := s.poke page off new
    if ledgerPage page && off == 0x064 && c.getLsbD 31 && isDiePage page then
      s1.setDie (pageDie page) { s1.die (pageDie page) with viol := [] }
    else s1

/-- RW bits that a write sets, with what the register's value does. -/
def State.writeRw (s : State) (page off : Nat) (m v : Word) : State :=
  let s1 := s.poke page off ((s.reg page off &&& ~~~m) ||| (v &&& m))
  if page = pgBundle then
    let x := s.bctx s.bndSel
    if off = 0x044 then s.setBctx s.bndSel { x with scope := x.scope.extractLsb' 32 32 ++ v }
    else if off = 0x048 then s.setBctx s.bndSel { x with scope := v ++ x.scope.extractLsb' 0 32 }
    else if off = 0x04C then s.bndEngine (v.getLsbD 8)
    else s1
  else if page = pgMailbox then s.mbStart (v.extractLsb' 0 8) (v.extractLsb' 16 16)
  else if pageKind page == some .scrub then s1.noteAssume
  else s1

/-- WO bits (Tables 8.12, 10.7, 12.11, 13.6, 15.12). More than one bundle command is none (R316). -/
def State.writeWo (s : State) (page off : Nat) (v : Word) : State :=
  let b := v.getLsbD
  if page = pgBundle then
    if fieldOf v 2 0 = 1 then s.cmdOpen
    else if fieldOf v 2 0 = 2 then s.cmdCommit
    else if fieldOf v 2 0 = 4 then s.cmdAbort
    else s
  else if page = pgShutter then
    let s1 := if b 0 then s.setLatch true else s
    if b 1 then s1.setLatch false else s1
  else if page = pgProgram then
    let s1 := if b 0 then s.checkGo else s
    if b 1 then s1.abortProgram.adoptGo else s1
  else if page = pgFlows then (if b 29 then s.purgeSel else s)
  else if off = 0x048 then s.eraseKeys (pageDie page) (v.toNat % 65536)
  else s

/-- Write one register, HI of a pair or not (R7, R8, R315): reserved and read-only bits are ignored. -/
def State.writeOne (s : State) (page off : Nat) (r : RegRow) (v sets : Word) : State :=
  let s1 := if r.w1c = 0 then s else s.writeW1c page off r.w1c v sets
  let s2 := if r.rw = 0 then s1 else s1.writeRw page off r.rw v
  let s3 := if r.rs = 0 then s2
    else s2.stage { page := page, off := off, val := v &&& r.rs, slot := if page = pgFlows then s2.flowSel else 0 }
  if r.wo = 0 then s3 else s3.writeWo page off (v &&& r.wo)

/-- Hold a write of HI, or drop what is held. -/
def State.holdHi (s : State) (page off : Nat) (v : Option Word) : State :=
  { s with host := { s.host with held := SMap.set none s.host.held (regKey page off) v } }

/-- Write a register: HI is held; LO applies with the held HI (R6). -/
def State.writeReg (s : State) (page off : Nat) (v sets : Word) : State :=
  if !s.takesWrites page then s
  else if off = 0x008 then s.writeCtl page v
  else match pageKind page with
  | none => s
  | some k => match regRow k off with
    | none => s
    | some r =>
      if regIsHi k off then (if r.rw ||| r.rs = 0 then s else s.holdHi page off (some v))
      else
        let s1 := s.writeOne page off r v sets
        if !r.pair then s1
        else match regRow k (off + 4), SMap.get none s.host.held (regKey page (off + 4)) with
          | some h, some w => (s1.writeOne page (off + 4) h w 0).holdHi page (off + 4) none
          | _, _ => s1

/-- A host write of `len` bytes. In D3hot it is dropped; one of another size or alignment is discarded
(R395, R397). -/
def State.hostWrite (s : State) (addr len : Nat) (v sets : Word) : State :=
  if s.host.d3hot then s
  else
    let regular := len == 4 && addr % 4 == 0
    let s1 := s.noteAccess 2 addr regular
    if regular then s1.writeReg (addr / 4096) (addr % 4096) v sets else s1

/-- A host write reaches the endpoint. -/
def State.barWrite (s : State) (addr : BitVec 26) (len : Fin 9) (v sets : Word) : Host.Outcome State Fault Refusal :=
  if s.host.linkUp then s.ok (s.hostWrite addr.toNat len v sets) else .next s

/-- HI_WRITE. -/
def execHiWrite (addr : BitVec 26) (len : Fin 9) (data : Word) (s : State) : Host.Outcome State Fault Refusal :=
  s.barWrite addr len data 0
/-- LO_WRITE. -/
def execLoWrite (addr : BitVec 26) (len : Fin 9) (data : Word) (s : State) : Host.Outcome State Fault Refusal :=
  s.barWrite addr len data 0
/-- W1C_WRITE. -/
def execW1cWrite (addr : BitVec 26) (len : Fin 9) (data : Word) (engineSets : Word) (s : State) :
    Host.Outcome State Fault Refusal := s.barWrite addr len data engineSets
/-- RS_WRITE. -/
def execRsWrite (addr : BitVec 26) (len : Fin 9) (data : Word) (s : State) : Host.Outcome State Fault Refusal :=
  s.barWrite addr len data 0
/-- REGISTER_WRITE. -/
def execRegisterWrite (addr : BitVec 26) (len : Fin 9) (data : Word) (s : State) : Host.Outcome State Fault Refusal :=
  s.barWrite addr len data 0

/-! ### The endpoint's resets (R395) -/

/-- ENDPOINT_RESET by a reset, or by the loss of the link. -/
def execEndpointReset (linkLost : Bool) (s : State) : Host.Outcome State Fault Refusal :=
  if !s.host.linkUp then .next s
  else
    let s1 := s.pokeField pgAperture 0x040 11 4 0
    let s2 := s1.forEach (List.range 4) fun t c => if (t.bctx c).st == .open then t.ctxAbort c 8 0 else t
    s.ok { s2 with host := { s2.host with latch := [], d3hot := false, linkUp := !linkLost } }

end Sys2Proof.Machine
end

