-- ==== Sys2Proof/Machine/MeterFam.lean ====
section
/-! DEFINITION. The Akell meter and the tally unit (R432-R445): energy, windows, snaps, reports,
records, the meter as the keeper takes it, and the meter port. -/

namespace Sys2Proof.Machine

/-! ### Flags of a record (Table 18.3) -/

def rfEngineOk : BitVec 16 := 0x001
def rfNoReport : BitVec 16 := 0x002
def rfBadReport : BitVec 16 := 0x004
def rfGap : BitVec 16 := 0x008
def rfFinal : BitVec 16 := 0x010
def rfPartial : BitVec 16 := 0x020
def rfInterval : BitVec 16 := 0x040
def rfOver : BitVec 16 := 0x080
def rfRestart : BitVec 16 := 0x100
def rfSealed : BitVec 16 := 0x200
def rfWithdrawn : BitVec 16 := 0x400
/-- A flag if a condition holds. -/
def flagWhen (c : Bool) (f : BitVec 16) : BitVec 16 := if c then f else 0

/-! ### Closing the open window -/

/-- The highest and lowest 1 s average as 16-bit values; free where no second ended in the window. -/
def secPair (o : Option (Nat × Nat)) (v : DWord) : BitVec 16 × BitVec 16 :=
  match o with
  | some p => (BitVec.ofNat 16 p.1, BitVec.ofNat 16 p.2)
  | none => (v.extractLsb' 0 16, v.extractLsb' 16 16)

/-- The record of the open window, without its work: `full` for a whole window. Its start, and the
length of a shorter one, are times (assumption 24). -/
def State.recordOf (s : State) (full : Bool) (flags : BitVec 16) : Record :=
  let m := s.meter
  let pw := secPair m.sec.power (Config.freeValue (s.free + 2))
  let vo := secPair m.sec.volts (Config.freeValue (s.free + 3))
  { flags := flags ||| flagWhen m.above rfOver ||| flagWhen (Config.variantWS && m.sealOk) rfSealed
    seq := Config.meterSeq0 + m.seq + 1
    startMs := Config.freeValue s.free
    durMs := if full then BitVec.ofNat 32 (1000 * m.interval.toNat)
      else (Config.freeValue (s.free + 1)).extractLsb' 0 32
    powerOns := m.powerOns, energy := m.energy, total := Config.meterEnergy0 + m.total
    power := pw, volts := (vo.2, vo.1), work := 0, ballast := 0, report := none
    fw := m.status.fw, interval := m.interval, prev := [], sig := [] }

/-- The window is over: energy and averages of the next one start at zero. -/
def Meter.nextWindow (m : Meter) : Meter :=
  { m with energy := 0, above := false, since := 0, seq := m.seq + 1,
           sec := { m.sec with power := none, volts := none } }

/-- A closed record joins those to be signed and stored. -/
def Meter.close (m : Meter) (r : Record) : Meter := { m with closing := m.closing ++ [r], waiting := none, badRep := false }

/-- The record awaited closes without a report; the engine takes note of it while it is powered and the cassette
is in place (R438). -/
def State.noReport (s : State) : State :=
  match s.meter.waiting with
  | none => s
  | some r =>
    let f := if s.meter.badRep then rfBadReport else rfNoReport
    let m := { s.meter.close { r with flags := r.flags ||| f } with gap := true }
    let s1 : State := { s with meter := m }
    if s.pwr.input && m.present then (s1.raise pgMeter 0x0902).count pgMeter 2 else s1

/-- The open window ends: its record awaits the report of a new SNAP. A record still awaiting one gets
none any more, because the meter takes only the answer to its latest SNAP (R433). -/
def State.windowClose (s : State) (full : Bool) (flags : BitVec 16) : State :=
  let s1 := s.noReport
  let r := s1.recordOf full flags
  let m := { s1.meter.nextWindow with waiting := some r, badRep := false, snap := s1.meter.snap + 1, snapOut := true }
  ({ s1 with meter := m, free := s1.free + 4 } : State).emit (.snapReq m.snap)

/-! ### Energy and windows (R434, R435) -/

/-- 1 s averages after 16,000 samples: power in W, voltage in mV. -/
def MeterSec.sample (x : MeterSec) (mv mj : Nat) : MeterSec × Bool :=
  let n := x.n + 1
  let e := x.mj + mj
  let v := x.mv + mv
  if n < 16000 then ({ x with n := n, mj := e, mv := v }, false)
  else
    let w := divRne e 1000
    let u := divRne v 16000
    let join := fun (o : Option (Nat × Nat)) (a : Nat) => match o with
      | none => some (a, a)
      | some p => some (max p.1 a, min p.2 a)
    ({ n := 0, mj := 0, mv := 0, power := join x.power w, volts := join x.volts u }, decide (22000000 < e))

/-- METER_SAMPLE: the energy of one of 16,000 samples a second, in mJ. -/
def execMeterSample (mv _da : BitVec 16) (mj : Nat) (s : State) : Host.Outcome State Fault Refusal :=
  if !s.meter.started then .next s
  else
    let m := s.meter
    let x := m.sec.sample mv.toNat mj
    s.ok { s with meter := { m with energy := m.energy + mj, total := m.total + mj, sec := x.1,
                                    above := m.above || x.2, since := m.since + 1 } }

/-- METER_WINDOW_END: a whole window of INTERVAL_S ends and SNAP is sent. -/
def execMeterWindowEnd (s : State) : Host.Outcome State Fault Refusal :=
  if s.meter.started then s.ok (s.windowClose true 0) else .next s

/-! ### Snaps and reports (R436-R438) -/

/-- The keeper's report of the latched counts (Table 18.2), signed with the attestation key. UPTIME_MS
is a time (assumption 24). -/
def State.reportNow (s : State) : WorkReport :=
  let t := s.meter.tally
  let leid := (s.reg pgAddress 0x044).extractLsb' 0 20
  let img := s.imageIdView
  let up := s.freeNow
  let rem := fun n => BitVec.ofNat 32 (n % 2 ^ 32)
  let body := leBytes 4 s.meter.snap.toNat ++ leBytes 4 leid.toNat ++ leBytes 8 (t.latchW / 2 ^ 32) ++
    leBytes 8 (t.latchB / 2 ^ 32) ++ leBytes 4 t.latchW ++ leBytes 4 t.latchB ++ leBytes 8 img.toNat ++
    leBytes 8 Config.serial.toNat ++ leBytes 8 up.toNat ++ leBytes 1 s.phase ++ leBytes 1 s.prog.pst.code ++ leBytes 6 0
  { snapSeq := s.meter.snap, leid := leid, workTotal := tallies t.latchW, ballastTotal := tallies t.latchB,
    workRem := rem t.latchW, ballastRem := rem t.latchB, imageId := img, serial := Config.serial, uptimeMs := up,
    phase := BitVec.ofNat 8 s.phase, pstate := BitVec.ofNat 8 s.prog.pst.code, sigOk := true,
    sig := Config.sign 1 body }

/-- SNAP: the tally unit latches both counts and the keeper answers, unless it runs no verified
firmware or the engine has been withdrawn (Table 18.9). -/
def execSnap (s : State) : Host.Outcome State Fault Refusal :=
  if !s.meter.snapOut || !s.pwr.input then .next s
  else
    let m := s.meter
    let t := { m.tally with latchW := m.tally.work, latchB := m.tally.ballast }
    let s1 := ({ s with meter := { m with tally := t, snapOut := false } } : State).poke pgMeter 0x074 m.snap
    if s1.keeper.withdrawn || !s1.keeper.fwOk then s.ok s1
    else s.ok (((s1.emit (.report s1.reportNow)).freeNext).count pgMeter 1)

/-- The work of a record: the report's totals less those of the previous valid report, or the totals
themselves after a restart; none for a first report, which is the baseline (R437, R443). -/
def Meter.workOf (m : Meter) (w b up : DWord) : DWord × DWord × Bool :=
  match m.base with
  | none => (0, 0, false)
  | some p =>
    if w.toNat < p.workTotal.toNat ∨ b.toNat < p.ballastTotal.toNat ∨ up.toNat < p.uptimeMs.toNat then (w, b, true)
    else (w - p.workTotal, b - p.ballastTotal, false)

/-- A valid report enters its record. -/
def Meter.takeReport (m : Meter) (r : Record) (w : WorkReport) : Meter :=
  let x := m.workOf w.workTotal w.ballastTotal w.uptimeMs
  let f := r.flags ||| rfEngineOk ||| flagWhen m.gap rfGap ||| flagWhen x.2.2 rfRestart
  { m.close { r with flags := f, work := x.1, ballast := x.2.1, report := some w } with base := some w, gap := false }

/-- WORK_REPORT: only an answer to the latest SNAP is acted on; every other message is discarded and
counted (R433). -/
def execWorkReport (r : WorkReport) (s : State) : Host.Outcome State Fault Refusal :=
  let m := s.meter
  match (if m.present then m.waiting else none) with
  | some x =>
    if r.snapSeq != m.snap then s.ok { s with meter := { m with junk := m.junk + 1 } }
    else if !r.sigOk then s.ok { s with meter := { m with badRep := true } }
    else s.ok { s with meter := m.takeReport x r }
  | none => if m.present then s.ok { s with meter := { m with junk := m.junk + 1 } } else .next s

/-- REPORT_TIMEOUT: 10 s after the SNAP. -/
def execReportTimeout (s : State) : Host.Outcome State Fault Refusal :=
  if s.meter.waiting.isSome then s.ok s.noReport else .next s

/-- EARLY_CLOSE reaches the meter: ignored within 1 s of a close. -/
def execEarlyClose (s : State) : Host.Outcome State Fault Refusal :=
  if s.meter.started && decide (16000 ≤ s.meter.since) then s.ok (s.windowClose false rfPartial) else .next s

/-! ### The end of power (R441) -/

/-- FINAL closes the open record with the unsigned totals; without input power the meter then ends. -/
def execFinal (s : State) : Host.Outcome State Fault Refusal :=
  match s.meter.fin with
  | none => .next s
  | some wd =>
    let s1 := s.noReport
    let m := s1.meter
    let x := match m.base with
      | none => ((0 : DWord), (0 : DWord), false)
      | some p => m.workOf (tallies m.tally.latchW) (tallies m.tally.latchB) p.uptimeMs
    let r := s1.recordOf false (rfFinal ||| flagWhen wd rfWithdrawn ||| flagWhen x.2.2 rfRestart)
    let n := { m.nextWindow.close { r with work := x.1, ballast := x.2.1 } with fin := none, low := false, started := m.started && s.pwr.input }
    s.ok { s1 with meter := n, free := s1.free + 4 }

/-- FINAL_TIMEOUT: 1 ms after the meter's own sense fell below 36.0 V. -/
def execFinalTimeout (s : State) : Host.Outcome State Fault Refusal :=
  if !s.meter.low then .next s
  else
    let s1 := s.noReport
    let r := s1.recordOf false rfNoReport
    let n := { s1.meter.nextWindow.close r with fin := none, low := false, gap := true, started := false }
    s.ok { s1 with meter := n, free := s1.free + 4 }

/-! ### Records (R439, R440) -/

/-- A report's 64 bytes. -/
def reportBytes (r : WorkReport) : List Byte :=
  leBytes 4 r.snapSeq.toNat ++ leBytes 4 r.leid.toNat ++ leBytes 8 r.workTotal.toNat ++ leBytes 8 r.ballastTotal.toNat ++
    leBytes 4 r.workRem.toNat ++ leBytes 4 r.ballastRem.toNat ++ leBytes 8 r.imageId.toNat ++ leBytes 8 r.serial.toNat ++
    leBytes 8 r.uptimeMs.toNat ++ leBytes 1 r.phase.toNat ++ leBytes 1 r.pstate.toNat ++ leBytes 6 0

/-- A record's 256 bytes (Table 18.3). -/
def Record.bytes (r : Record) : List Byte :=
  leBytes 4 0xA4E10001 ++ leBytes 2 1 ++ leBytes 2 r.flags.toNat ++ leBytes 8 r.seq.toNat ++
    leBytes 8 Config.meterSerial.toNat ++ leBytes 8 (match r.report with | some w => w.serial.toNat | none => 0) ++
    leBytes 8 r.startMs.toNat ++ leBytes 4 r.durMs.toNat ++ leBytes 4 r.powerOns.toNat ++ leBytes 8 r.energy ++
    leBytes 8 r.total ++ leBytes 2 r.power.1.toNat ++ leBytes 2 r.power.2.toNat ++ leBytes 2 r.volts.1.toNat ++
    leBytes 2 r.volts.2.toNat ++ leBytes 8 r.work.toNat ++ leBytes 8 r.ballast.toNat ++
    (match r.report with | some w => reportBytes w | none => leBytes 64 0) ++
    (match r.report with | some w => (Config.shake256 w.sig).take 32 | none => leBytes 32 0) ++ r.prev ++
    leBytes 4 r.fw.toNat ++ leBytes 4 Config.calId.toNat ++ leBytes 2 r.interval.toNat ++ leBytes 30 0

/-- A record slot: the record and its signature, zero-filled to 17,408 bytes. -/
def Record.slot (r : Record) : List Byte := (r.bytes ++ r.sig ++ List.replicate 17408 0).take 17408

/-- METER_MIRROR shows the latest record (Table 18.7). -/
def State.mirrorRecord (s : State) (r : Record) : State :=
  let pair := fun (t : State) (o n : Nat) => t.pokePair pgMeter o (BitVec.ofNat 64 n)
  let s1 := pair (pair (pair (pair (pair s 0x048 r.seq.toNat) 0x050 r.total) 0x058 r.energy) 0x060 r.work.toNat)
    0x068 r.ballast.toNat
  (s1.poke pgMeter 0x070 (r.flags.zeroExtend 32)).count pgMeter 0

/-- RECORD_STORED: the oldest closed record is signed and stored; the keeper mirrors it while the module
has power and the cassette is in place. -/
def execRecordStored (s : State) : Host.Outcome State Fault Refusal :=
  match s.meter.closing with
  | [] => .next s
  | r :: rest =>
    let prev := match s.meter.records with
      | [] => leBytes 32 0
      | p :: _ => (Config.shake256 p.slot).take 32
    let r1 := { r with prev := prev }
    let r2 := { r1 with sig := Config.sign 2 r1.bytes }
    let s1 : State := { s with meter := { s.meter with closing := rest, records := (r2 :: s.meter.records).take 60000 } }
    s.ok (if s.pwr.input && s.meter.present then s1.mirrorRecord r2 else s1)

/-! ### The meter as the keeper takes it (R442-R444) -/

/-- The conditions of R442. -/
def Meter.meets (m : Meter) : Bool :=
  m.present && m.fresh && m.status.selfTestOk && m.status.noFault && m.status.holdupOk && m.status.certOk &&
    (!Config.variantWS || (m.status.sealed && m.sealOk))

/-- The keeper takes the meter's state anew: 0x0901 when it stops working, and on an IB-6442-WS the
Shutter latch. -/
def State.meterRecheck (s : State) : State :=
  let w := s.meter.meets
  let s1 : State := ({ s with meter := { s.meter with working := w } } : State).wakeBlock
  if s.meter.working && !w then
    let s2 := s1.raise pgMeter 0x0901
    if Config.variantWS && s2.shut.st != .shuttered then s2.setLatch true else s2
  else s1

/-- METER_STATUS: a status message reaches the keeper. -/
def execMeterStatus (x : MeterStatus) (s : State) : Host.Outcome State Fault Refusal :=
  if !s.meter.present || !s.pwr.input then .next s
  else
    let s1 : State := { s with meter := { s.meter with status := x, fresh := true } }
    let v := bitAt x.sealed 29 + bitAt x.holdupOk 28 + bitAt x.selfTestOk 27 + bitAt x.certOk 26 + x.interval.toNat
    s.ok (((s1.poke pgMeter 0x040 (w32 v)).poke pgMeter 0x044 x.fw).meterRecheck)

/-- METER_STATUS_TIMEOUT: none for 3 s. -/
def execMeterStatusTimeout (s : State) : Host.Outcome State Fault Refusal :=
  if s.meter.fresh then s.ok ({ s with meter := { s.meter with fresh := false } } : State).meterRecheck else .next s

/-- METER_PRSNT_CHANGE. A cassette that is taken out closes its record on its own hold-up supply, without FINAL
(R441, R469), and does so before it can reappear. The cassette that appears starts its first window and takes its baseline from its
first valid report (R435, R443); verified firmware applies at its start (Table 18.4). -/
def execMeterPrsntChange (present : Bool) (s : State) : Host.Outcome State Fault Refusal :=
  if present = s.meter.present || (present && s.meter.low) then .next s
  else
    let m := s.meter
    let n := if present then { (if s.pwr.input then m.start else m) with base := none, gap := false } else { m with fresh := false, started := false, snapOut := false, fin := none, low := m.low || m.started }
    s.ok ({ s with meter := { n with present := present, status := { n.status with certOk := false } } } : State).meterRecheck

/-- SEAL_OPENED, of an IB-6442-WS. -/
def execSealOpened (s : State) : Host.Outcome State Fault Refusal :=
  if !Config.variantWS || !s.meter.sealOk then .next s
  else s.ok ((({ s with meter := { s.meter with sealOk := false } } : State).raise pgMeter 0x0905).meterRecheck)

/-! ### The meter port (R445) -/

/-- READ_STATUS: the status message, ENERGY_TOTAL, latest SEQ. -/
def execReadStatus (s : State) : Host.Outcome State Fault Refusal :=
  let m := s.meter
  let x := m.status
  let bits := bitAt x.selfTestOk 0 + bitAt x.noFault 1 + bitAt x.holdupOk 2 + bitAt (Config.variantWS && m.sealOk) 3
  s.ok (s.emit (.meterAnswer false (leBytes 1 bits ++ leBytes 4 x.fw.toNat ++ leBytes 2 m.interval.toNat ++
    leBytes 8 (Config.meterEnergy0 + m.total) ++ leBytes 8 (Config.meterSeq0 + m.seq).toNat)))

/-- READ_RECORD: the slot, or REFUSED when it is not held. -/
def execReadRecord (seq : DWord) (s : State) : Host.Outcome State Fault Refusal :=
  match s.meter.records.find? fun r => r.seq == seq with
  | some r => s.ok (s.emit (.meterAnswer false r.slot))
  | none => s.ok (s.emit (.meterAnswer true []))

/-- READ_CERT: a certificate of the record-key chain, index 0 to 3. -/
def execReadCert (index : Byte) (s : State) : Host.Outcome State Fault Refusal :=
  if index.toNat < 4 then s.ok (s.emit (.meterAnswer false (Config.certificate (16 + index.toNat))))
  else s.ok (s.emit (.meterAnswer true []))

/-- The seal of an IB-6442-WS is intact: the port changes nothing. -/
def State.portSealed (s : State) : Bool := s.meter.sealOk && Config.variantWS

/-- SET_INTERVAL: the open record closes at once. -/
def execSetInterval (secs : BitVec 16) (s : State) : Host.Outcome State Fault Refusal :=
  if s.portSealed || decide (secs.toNat < 10) || decide (900 < secs.toNat) then s.ok (s.emit (.meterAnswer true []))
  else
    let s1 := if s.meter.started then s.windowClose false (rfPartial ||| rfInterval) else s
    s.ok (({ s1 with meter := { s1.meter with interval := secs } } : State).emit (.meterAnswer false []))

/-- UPDATE_FW: a verified image waits for the next meter start. -/
def execUpdateFw (img : FwImage) (s : State) : Host.Outcome State Fault Refusal :=
  if s.portSealed || !img.sigOk then s.ok (s.emit (.meterAnswer true []))
  else s.ok (({ s with meter := { s.meter with pend := some img } } : State).emit (.meterAnswer false []))

end Sys2Proof.Machine
end

