-- ==== Sys2Proof/Machine/ReduceFam.lean ====
section
/-! DEFINITION. The meanings of the commands of the reduction (R253-R277): READY and the lead's
decision, the levels of the pipeline, the engine stage. -/

namespace Sys2Proof.Machine

/-- The collective unit of a die may decide and start chunks: no bundle holds its page (R319). -/
def State.collectMay (s : State) (d : Nat) : Bool :=
  s.dieLive d && !s.held (pgCollect d) && !s.held pgReduce

/-! ### READY and the decision (R253-R260) -/

/-- DIE_READY. -/
def execDieReady (d : Die) (b : Fin 128) (s : State) : Host.Outcome State Fault Refusal :=
  if s.collectMay d && s.dieIsReady d b then s.ok (s.dieReady d b) else .next s

/-- READY of a die is on its way to the lead. -/
def State.readyComing (s : State) (d b : Nat) : Bool :=
  (s.dieBasket d b).st == .ready && !((s.basket b).arrived.any (·.1 == d)) && s.inStep d

/-- READY_STAMP. -/
def execReadyStamp (d : Die) (b : Fin 128) (lateness : Nat) (s : State) :
    Host.Outcome State Fault Refusal :=
  if s.readyComing d b && !s.held pgReduce then s.ok (s.readyStamp d b lateness) else .next s

/-- DEADLINE_EXPIRY. -/
def execDeadlineExpiry (b : Fin 128) (s : State) : Host.Outcome State Fault Refusal :=
  if (s.basket b).window && !(s.basket b).decided && !s.held pgReduce then s.ok (s.decideBasket b true)
  else .next s

/-- INCLUDED_RECEIVE. -/
def execIncludedReceive (d : Die) (b : Fin 128) (s : State) : Host.Outcome State Fault Refusal :=
  if (s.basket b).decided && !((s.basket b).received.contains d.val) && s.collectMay d then
    s.ok (s.receiveIncluded d b)
  else .next s

/-! ### The levels (Table 11.1) -/

/-- The chunk of basket `b` that level `k` of a die could start on, with a credit of the next level. -/
def State.levelChunk (s : State) (d k b : Nat) : Option (Nat × Nat) :=
  let x := s.level d k
  if x.busy.isSome || (decide (k < 5) && x.credits == 0) || (decide (3 ≤ k ∧ k < 5) && s.levelStuck d k) then none
  else
    match k with
    | 0 => (s.nextChunk d b).map fun c => (b, c)
    | 4 =>
      let y := s.dieBasket d b
      if y.st == .reducing && decide (y.engStart < s.bkChunks b) then some (b, y.engStart) else none
    | 5 =>
      let y := s.dieBasket d b
      if y.st == .sending && !y.owned.isEmpty then some (b, 0) else none
    | _ => x.chunks.find? (·.1 == b)

/-- FLAGS of a shard's header (Table 11.3). -/
def shardFlags (inv rehomed sat resent : Bool) : Byte :=
  BitVec.ofNat 8 ((if inv then 1 else 0) + (if rehomed then 2 else 0) + (if sat then 4 else 0) +
    (if resent then 8 else 0))

/-- The frame of one tile of a shard (R265, R266). -/
def State.basketFrame (s : State) (d b : Nat) (x : DieBasket) (h : PubHdr)
    (t : Nat × Nat × List Word × Bool) : Kept :=
  let fl := s.bkFlow b
  let rg := s.shardRange b t.1
  let flags := shardFlags (x.inv.contains t.1) (t.1 != d) t.2.2.2 h.resent
  let body : TxBody := .basketB (BitVec.ofNat 16 b) (BitVec.ofNat 8 t.1) flags h.step h.included
    h.weightSum (BitVec.ofNat 8 h.contrib) (if h.tree then 1 else 2) (BitVec.ofNat 8 h.decision)
    (BitVec.ofNat 8 h.localN) (BitVec.ofNat 16 (rg.2 - rg.1)) (t.2.2.1.map fun w => (bf16Of w).1)
  { frame := s.frameOf d fl (s.flow d fl) 1 2 0 (BitVec.ofNat 32 b) (BitVec.ofNat 32 (128 * t.2.1)) 8192
      body
    sends := 0, bytes := 8192, xfer := none }

/-- Level 5: up to 32 tiles of the owned shards are handed to the port. -/
def State.sendChunk (s : State) (d b : Nat) : State :=
  let x := s.dieBasket d b
  match x.pub with
  | none => s
  | some h =>
    let fl := s.bkFlow b
    let now := x.owned.take 32
    let ks := now.map (s.basketFrame d b x h)
    let words := now.flatMap (·.2.2.1)
    let inv := (words.filter fun w => s32Val w == .invalid).length
    let sat := (words.filter fun w => (bf16Of w).2).length
    let s1 := s.setDieBasket d b { x with owned := x.owned.drop 32 }
    let s2 := s1.setFlow d fl { s1.flow d fl with queue := (s1.flow d fl).queue ++ ks }
    (s2.incSat (pgCollect d) 0x058 inv).incSat (pgCollect d) 0x05C sat

/-- A level takes a chunk. -/
def State.startChunk (s : State) (d k b : Nat) (c : Nat × Nat) : State :=
  let s1 := s.levelTake d k c
  match k with
  | 4 =>
    let y := s1.dieBasket d b
    s1.setDieBasket d b { y with engStart := y.engStart + 1 }
  | 5 => s1.sendChunk d b
  | _ => s1

/-- CHUNK_LEVEL_START: the mesh carries the chunk on F3 (R301). -/
def execChunkLevelStart (d : Die) (k : Fin 6) (b : Fin 128) (s : State) :
    Host.Outcome State Fault Refusal :=
  if !s.collectMay d then .next s
  else
    match s.levelChunk d k b with
    | none => .next s
    | some c =>
      let m := s.meshServe d 2 (s.chunkBytes c.1 c.2)
      s.ok (if m.2 then m.1.startChunk d k b c else m.1)

/-- A chunk has been received at level `k + 1`: the credit it went with is back (Table 13.5). -/
def State.chunkArrives (s : State) (d k : Nat) : State := s.ledReturn d lgPipe k

/-- What the end of a chunk at level `k` leaves. -/
def State.levelDone (s : State) (d k : Nat) (c : Nat × Nat) : State :=
  match k with
  | 0 => (s.chunkArrives d 0).setLevel d 1 { s.level d 1 with chunks := (s.level d 1).chunks ++ [c] }
  | 1 =>
    ((s.chunkArrives d 1).setLevel d 2 { s.level d 2 with chunks := (s.level d 2).chunks ++ [c] }).pipeCredit d 0
  | 2 =>
    ((s.chunkArrives d 2).setLevel d 3 { s.level d 3 with chunks := (s.level d 3).chunks ++ [c] }).pipeCredit d 1
  | 3 => (((s.sumChunk d c.1 c.2).chunkArrives d 3).pipeCredit d 3).pipeCredit d 2
  | 4 =>
    let y := s.dieBasket d c.1
    ((s.setDieBasket d c.1 { y with engDone := y.engDone + 1 }).chunkArrives d 4).pipeCredit d 4
  | _ => s.count pgReduce 2

/-- The level that worked on a chunk is free. -/
def State.endLevel (s : State) (d k : Nat) (c : Nat × Nat) : State :=
  (s.setLevel d k { s.level d k with busy := none }).levelDone d k c

/-- CHUNK_LEVEL_DONE: what the level made the one before wait is counted as it was while it worked (R276). -/
def execChunkLevelDone (d : Die) (k : Fin 6) (b : Fin 128) (s : State) :
    Host.Outcome State Fault Refusal :=
  let x := s.level d k
  match x.busy with
  | none => .next s
  | some c =>
    if c.1 = b.val && s.dieLive d then
      s.ok ((s.levelBusy d k).endLevel d k c)
    else .next s

/-- ENGINE_STAGE_DONE. -/
def execEngineStageDone (b : Fin 128) (s : State) : Host.Outcome State Fault Refusal :=
  if s.stageReady b && !s.held pgReduce &&
      (bitsOf (s.basket b).included).all fun d => !s.held (pgCollect d) then
    s.ok (s.engineStage b)
  else .next s

/-- The level whose LEVEL_BUSY rose most, the lowest of equals; 7 where none rose (R276). -/
def State.mostBusy (s : State) (d : Nat) : Nat :=
  let r := (List.range 6).foldl (fun (a : Nat × Nat) k =>
    if a.2 < (s.level d k).rose then (k, (s.level d k).rose) else a) (7, 0)
  r.1

/-- LEVEL_SAT_WINDOW. -/
def execLevelSatWindow (d : Die) (s : State) : Host.Outcome State Fault Refusal :=
  if !s.dieLive d then .next s
  else
    let t := s.poke (pgCollect d) 0x0A8 (BitVec.ofNat 32 (s.mostBusy d))
    s.ok (t.forEach (List.range 6) fun u k => u.setLevel d k { u.level d k with rose := 0 })

end Sys2Proof.Machine
end

