-- ==== Sys2Proof/Machine/SecurityFam.lean ====
section
/-! DEFINITION. The meanings of the key exchange (R449-R451): offers and deliveries. -/

namespace Sys2Proof.Machine

/-- KEY_REQUEST: an offer with a fresh encapsulation key, signed with the attestation key; at most four
are open. -/
def execKeyRequest (nonce : List Byte) (keyId : BitVec 16) (slot : Fin 16) (mask : DWord) (s : State) :
    Host.Outcome State Fault Refusal :=
  if !s.keeperUp then .next s
  else if 4 ≤ s.sec.offers.length then s.ok (s.emit (.keyAnswer false))
  else
    let n := s.sec.nextOffer
    let m5 := s.measurement 5
    let m6 := s.measurement 6
    let data := nonce ++ leBytes 4 (s.reg pgAddress 0x044).toNat ++ leBytes 2 keyId.toNat ++ leBytes 1 slot.val ++
      leBytes 8 mask.toNat ++ m5 ++ m6 ++ leBytes 4 n.toNat ++ Config.offerKey n
    let o : Offer := { num := n, keyId := keyId, slot := slot.val, mask := mask, meas5 := m5, meas6 := m6, data := data }
    let s1 : State := { s with sec := { s.sec with offers := s.sec.offers ++ [o], nextOffer := n + 1 } }
    s.ok (s1.emit (.keyOffer data (Config.sign 1 data)))

/-- Why a delivery under an open offer is refused, in the order of R450; 0 with the key: it is not. -/
def State.deliverCause (s : State) (o : Offer) (key : Option (BitVec 256)) : Nat :=
  let ds := bitsOf o.mask
  if key.isNone then 2
  else if ds.any fun d => !s.dieLive d then 4
  else if ds.any fun d => (s.keySlot d o.slot).valid || (s.keySlot d o.slot).pending then 3
  else if decide (o.meas5 ≠ s.measurement 5) || decide (o.meas6 ≠ s.measurement 6) then 5
  else 0

/-- SECURITY.LAST_KX. -/
def kxWord (cause slot keyId : Nat) : Word := w32 (cause * 2 ^ 28 + slot % 16 * 2 ^ 16 + keyId % 2 ^ 16)

/-- A delivery is refused: 0x0904, its cause, the count. -/
def State.deliverRefused (s : State) (cause slot keyId : Nat) : State :=
  (((s.poke pgSecurity 0x04C (kxWord cause slot keyId)).raise pgSecurity 0x0904).count pgSecurity 2).emit (.keyAnswer false)

/-- The key is installed on every die of the mask. -/
def State.installKey (s : State) (o : Offer) (key : BitVec 256) : State :=
  let s1 := s.forEach (bitsOf o.mask) fun t d =>
    t.setKeySlot d o.slot { key := key, keyId := o.keyId, valid := true, pending := false }
  ((s1.poke pgSecurity 0x04C (kxWord 0 o.slot o.keyId.toNat)).count pgSecurity 1).emit (.keyAnswer true)

/-- KEY_DELIVER. The decapsulation key is erased afterwards, so the offer is gone either way. Slot and
KEY_ID of an unknown offer are not stated: free values (assumption 24). -/
def execKeyDeliver (offer : Word) (ct wrapped : List Byte) (s : State) : Host.Outcome State Fault Refusal :=
  if !s.keeperUp then .next s
  else
    match s.sec.offers.find? fun o => o.num == offer with
    | none => s.ok ((s.deliverRefused 1 (s.freeNow.toNat / 65536) s.freeNow.toNat).freeNext)
    | some o =>
      let s1 : State := { s with sec := { s.sec with offers := s.sec.offers.filter fun x => x.num != offer } }
      let key := Config.unwrapKey offer ct wrapped
      match key, s1.deliverCause o key with
      | some k, 0 => s.ok (s1.installKey o k)
      | _, c => s.ok (s1.deliverRefused c o.slot o.keyId.toNat)

/-- OFFER_LAPSE. -/
def execOfferLapse (offer : Word) (s : State) : Host.Outcome State Fault Refusal :=
  if s.sec.offers.any fun o => o.num == offer then
    s.ok { s with sec := { s.sec with offers := s.sec.offers.filter fun x => x.num != offer } }
  else .next s

end Sys2Proof.Machine
end

