-- ==== Sys2Proof/Machine/StallFam.lean ====
section
/-! DEFINITION. The meanings of the commands of a stall, its arcade and its chain (R56-R123, R190-R206,
R250-R252). A command of a stall's stream is the word at its head; where that is another word, or the
sequencer may not issue, nothing happens (assumptions 5, 18). Where its start condition fails, the
attempt is one cycle of waiting (assumption 17). -/

namespace Sys2Proof.Machine

/-! ### Passes (R56-R70, R84-R92) -/

/-- A PASS at the head waits: its tile is not EMPTY, a pending write-back overlaps what it reads, or
the stall holds (R70, R92, R319). -/
def State.passWaits (s : State) (d p : Nat) (w : PassWord) : Bool :=
  let x := s.slot d p
  let o := (x.acc (other w.acc)).pendingWb
  (x.acc w.acc).st != .empty || overlap w.preRange o || overlap w.aRange o || s.held (pgStall d p)

/-- Pass counter SUM_ID after a PASS, and whether it stood at 4,096 (R68, R93). -/
def Stall.countPass (x : Stall) (w : PassWord) : Stall × Bool :=
  let i := w.sumId.toNat
  let n := x.sums.getD i 0
  ({ x with sums := x.sums.set i (if w.sumStart then 1 else min 4096 (n + 1)) }, !w.sumStart && n == 4096)

/-- The records of the open sequence that no issued pass will consume (R194, R196). -/
def Stall.privLeft (x : Stall) : Bool :=
  match x.priv with
  | none => false
  | some q =>
    let owed := x.passes.foldl (fun n t => match (x.acc t).word with
      | some w => if (x.acc t).priv then n + (w.tiles - (x.acc t).usedTiles) else n
      | none => n) 0
    decide (owed < q.todo.length)

/-- The tile that a PASS takes, with its preload still to come. -/
def Stall.passTile (x : Stall) (w : PassWord) : Acc :=
  { Acc.reset with
    st := .preload, cells := if w.preload = 0 then zeroCells else [],
    lanes := if w.preload = 0 then zeroLanes else [], word := some w, priv := x.privLeft,
    wbPend := w.psum }

/-- A PASS issues: its tile leaves EMPTY. -/
def State.passIssue (s : State) (d p : Nat) (w : PassWord) : State :=
  let x := s.slot d p
  let (y, long) := x.countPass w
  let y1 := { y.setAcc w.acc (x.passTile w) with passes := y.passes ++ [w.acc] }
  (s.setSlot d p (y1.issue .pass .waitWindow false).enterRun).flagIf d p flagLong long

/-- PASS. -/
def execPass (d : Die) (l : Stl) (w : PassWord) (s : State) : Host.Outcome State Fault Refusal :=
  match s.headSlot d l (.pass w) with
  | none => .next s
  | some p =>
    let t := s.reachHead d l p
    if !passOk w then .next s
    else if t.passWaits d p w then s.ok (t.stallWait d p .pass .waitTile true)
    else s.ok (t.passIssue d p w)

/-- PRELOAD_DONE: P comes from scratchpad (R87, R88); a steelyard sum may saturate (R37). -/
def execPreloadDone (d : Die) (l : Stl) (t : Fin 2) (s : State) : Host.Outcome State Fault Refusal :=
  match s.onSlot d l with
  | none => .next s
  | some p =>
    let x := s.slot d p
    let a := x.acc t
    match a.word with
    | none => .next s
    | some w =>
      if (a.st == .preload || a.st == .replay) && !a.loaded && w.preload != 0 then
        let k := slotAddr d p w.preRange.1
        let ws := s.readWords k (w.preRange.2 / 8)
        let s1 := s.noteReads srcStall k w.preRange.2
        let s2 := s1.setSlot d p (x.setAcc t (a.preloaded w ws)).enterRun
        s.ok ((s2.flagIf d p flagPoison (ws.any (·.poison))).flagIf d p flagSat
          ((a.preloaded w ws).lanes.any (·.sat)))
      else .next s

/-- PASS_RUN_END: the last K-step has completed and the tile enters CHECK (R69). -/
def execPassRunEnd (d : Die) (l : Stl) (t : Fin 2) (s : State) : Host.Outcome State Fault Refusal :=
  match s.onSlot d l with
  | none => .next s
  | some p =>
    let x := s.slot d p
    let a := x.acc t
    match a.word with
    | none => .next s
    | some w =>
      if (a.st == .run || a.st == .replay) && a.kdone == w.kp && x.passes.head? == some t then
        s.ok (s.setSlot d p { x.setAcc t { a with st := .check } with passes := x.passes.tail }.enterRun)
      else .next s

/-! ### Steelyard checks (R72-R76) -/

/-- A tile whose check has passed leaves CHECK (Table 3.2); the pass is counted. -/
def State.checkPassed (s : State) (d p : Nat) (t : Fin 2) (w : PassWord) : State :=
  let x := s.slot d p
  let a := { x.acc t with st := if w.psum then .writeback else .held, order := x.checks, failed := false }
  (s.setSlot d p { x.setAcc t a with checks := x.checks + 1 }).count (pgStall d p) 0

/-- LAST_STY of a failing check. -/
def lastSty (w : PassWord) (t : Fin 2) (f : Bool × Nat) : Word :=
  BitVec.ofNat 32 (w.tag.toNat * 65536 + t.val * 512 + (if f.1 then 256 else 0) + f.2)

/-- A repeated mismatch (R76): the slot is FAULTED and the arcade stops broadcasting. -/
def State.styRepeat (s : State) (d l p : Nat) : State :=
  let q := l / 16
  let a := l / 4 % 4
  let s1 := (s.setBits (pgStall d p) rFlags flagRepeat).raise (pgStall d p) 0x0102
  (s1.setArc d q a { s1.arc d q a with stopped := true }).stallFault d l

/-- A first mismatch of a pass (R74): counted until WINDOW_MS after it; with more than TRANSIENT_MAX counted
it is a repeated one (R76). -/
def State.styTransient (s : State) (d l p : Nat) (t : Fin 2) : State :=
  let s1 := ((s.raise (pgStall d p) 0x0101).setBits (pgStall d p) rFlags flagTransient).incSat
    (pgStall d p) rStyTransient
  let x := s1.slot d p
  let n := x.strikes + 1
  let s2 := s1.setSlot d p { x with strikes := n, winOpen := true }
  if s2.regField (pgStall d p) rStyLimit 7 0 < n then s2.styRepeat d l p
  else s2.beginReplay d l p t

/-- The checks of a tile in CHECK, with what the array's faults leave in its cells (R72, R73). -/
def State.checkTile (s : State) (d l p : Nat) (t : Fin 2) (w : PassWord) (err : List CellErr) : State :=
  let x := s.slot d p
  let a0 := x.acc t
  let a := err.foldl Acc.withErr a0
  let ctl := s.reg (pgStall d p) rStyCtl
  let s1 := s.setSlot d p (x.setAcc t a)
  let n := a.skips ctl w
  let s2 := if n = 0 then s1 else s1.incSat (pgStall d p) rStySkip n
  match a.firstFail ctl w with
  | none => s2.checkPassed d p t w
  | some f =>
    let s3 := s2.poke (pgStall d p) rLastSty (lastSty w t f)
    if a0.failed then s3.styRepeat d l p else s3.styTransient d l p t

/-- STEELYARD_CHECK of a pass that runs for the first time. -/
def execSteelyardCheck (d : Die) (l : Stl) (t : Fin 2) (err : List CellErr) (s : State) :
    Host.Outcome State Fault Refusal :=
  match s.onSlot d l with
  | none => .next s
  | some p =>
    let a := (s.slot d p).acc t
    match a.word with
    | none => .next s
    | some w => if a.st == .check && !a.failed then s.ok (s.checkTile d l p t w err) else .next s

/-- REPLAYED_PASS_CHECK of a pass that runs again (R74, R76). -/
def execReplayedPassCheck (d : Die) (l : Stl) (t : Fin 2) (err : List CellErr) (s : State) :
    Host.Outcome State Fault Refusal :=
  match s.onSlot d l with
  | none => .next s
  | some p =>
    let a := (s.slot d p).acc t
    match a.word with
    | none => .next s
    | some w => if a.st == .check && a.failed then s.ok (s.checkTile d l p t w err) else .next s

/-- STY_WINDOW_EXPIRY: WINDOW_MS have passed since the oldest mismatch counted, which no span of that length
holds together with a later one any more (R76). -/
def execStyWindowExpiry (d : Die) (l : Stl) (s : State) : Host.Outcome State Fault Refusal :=
  match s.slotOf d l with
  | none => .next s
  | some p =>
    if (s.slot d p).winOpen then
      let n := (s.slot d p).strikes - 1
      s.ok (s.setSlot d p { s.slot d p with winOpen := decide (0 < n), strikes := n })
    else .next s

/-! ### The arcade's broadcast (R60-R65, R74) -/

/-- A member has a bank filling. -/
def Stall.filling (x : Stall) : Bool := x.bank0.st == .filling || x.bank1.st == .filling

/-- A tile starts to fill bank b of a stall. -/
def Stall.fill (x : Stall) (b : Fin 2) (n : Nat) (kind : Byte) (ws : List MWord) : Stall :=
  x.setBank b { st := .filling, tile := n, kind := kind, data := ws, priv := false }

/-- The stream of an arcade (R60). -/
def arcStream (q a : Nat) : Nat := 4 * q + a

/-- The next tile of the sequence may start to fill bank b: every member has the bank free, none has
a private sequence open, no replay is due, the arcade broadcasts (R61, R195). -/
def State.bcastFree (s : State) (d q a : Nat) (b : Fin 2) : Bool :=
  let arc := s.arc d q a
  s.membersOn d q a && !arc.stopped && arc.replay.isEmpty &&
  (s.members d q a).all fun e =>
    let x := s.slot d e.2
    (x.bank b).st == .free && !x.filling && x.priv.isNone

/-- The broadcast of the stream's next tile begins. -/
def State.bcastNext (s : State) (d q a : Nat) (b : Fin 2) : State :=
  let st := arcStream q a
  let x := s.stream d 72 st
  let k := x.far x.issued
  let n := recordBytes x.kind
  let ws := s.readWords k (n / 8)
  let arc := s.arc d q a
  let s1 := (s.noteReads srcStream k n).issueXfer d 72 st ws
  let s2 := s1.eachMember d q a fun _ y => y.fill b arc.next x.kind ws
  s2.setArc d q a { arc with next := arc.next + 1,
                             held := arc.held ++ [{ num := arc.next, addr := k, done := false }] }

/-- A tile that a replay needs, or that a replay displaced, is broadcast to one member again from its
held slot (R74). A broadcast tile that stood in the bank comes again afterwards; private records are
loaded again. -/
def State.bcastAgain (s : State) (d q a : Nat) (b : Fin 2) (e : Nat × Nat) : State :=
  let arc := s.arc d q a
  let m := e.1 % 4
  match arc.held.find? (·.num == e.2), s.slotOf d (16 * q + 4 * a + m) with
  | some h, some p =>
    let x := s.slot d p
    let kind := (s.stream d 72 (arcStream q a)).kind
    let n := recordBytes kind
    let old := x.bank b
    let arc' := if old.st == .full && !old.priv then { arc with replay := arc.replay ++ [(4 + m, old.tile)] } else arc
    let y := if old.priv then { x.freePriv with reading := true } else x
    ((s.noteReads srcStream h.addr n).setSlot d p (y.fill b e.2 kind (s.readWords h.addr (n / 8)))).setArc d q a arc'
  | _, _ => s

/-- BROADCAST_START. -/
def execBroadcastStart (d : Die) (q a : Qtr) (b : Fin 2) (s : State) : Host.Outcome State Fault Refusal :=
  let arc := s.arc d q a
  match arc.replay with
  | e :: _ =>
    match s.slotOf d (16 * q + 4 * a + e.1 % 4) with
    | none => .next s
    | some p =>
      let x := s.slot d p
      let waits := e.1 < 4 && ((x.bank 0).tile == e.2 && (x.bank 0).st == .full && !(x.bank 0).priv ||
        (x.bank 1).tile == e.2 && (x.bank 1).st == .full && !(x.bank 1).priv)
      let place := if e.1 < 4 then (x.bank b).st != .inUse
        else (x.bank b).st == .free && (s.members d q a).all fun f =>
          f.1 == e.1 % 4 || ((s.slot d f.2).bank b).tile == e.2
      if s.membersOn d q a && !arc.stopped && arc.window.isNone && !x.filling && !waits && place &&
          arc.held.any (·.num == e.2)
      then s.ok (s.bcastAgain d q a b e) else .next s
  | [] =>
    let st := arcStream q a
    if s.inStep d && s.bcastFree d q a b && (s.stream d 72 st).role == roleBcast && s.mayIssue d 72 st then
      let s1 := s.takeGate d 72 st
      if (s1.stream d 72 st).atGate then s.ok s1
      else if s1.atLimit d 72 st then s.ok (s1.setStream d 72 st { s1.stream d 72 st with st := .limited })
      else s.ok (s1.bcastNext d q a b)
    else .next s

/-- The oldest outstanding transfer of a stream. -/
def Stream.oldest (x : Stream) : Option Nat := x.out.head?.map (·.t)

/-- Bank b of a stall is full. -/
def Stall.fullBank (x : Stall) (b : Fin 2) : Stall := x.setBank b { x.bank b with st := .full }

/-- BANK_FULL (R61). -/
def execBankFull (d : Die) (q a : Qtr) (b : Fin 2) (s : State) : Host.Outcome State Fault Refusal :=
  let ms := s.members d q a
  let full := fun (e : Nat × Nat) => ((s.slot d e.2).bank b).st == .filling
  let st := arcStream q a
  if !s.membersOn d q a then .next s
  else if ms.all full then
    let s1 := s.eachMember d q a fun _ y => y.fullBank b
    match (s1.stream d 72 st).oldest with
    | some t => s.ok (s1.completeXfer d 72 st t false)
    | none => s.ok s1
  else
    match ms.find? full with
    | none => .next s
    | some e =>
      let s1 := s.setSlot d e.2 ((s.slot d e.2).fullBank b)
      let arc := s1.arc d q a
      match arc.replay with
      | r :: rs => s.ok (if r.1 = 4 + e.1 then s1.setArc d q a { arc with replay := rs } else s1)
      | [] => s.ok s1

/-- The stall may begin K-steps: one that holds begins no pass (R319). -/
def State.mayBegin (s : State) (d p : Nat) : Bool :=
  let x := s.slot d p
  match x.running with
  | some t => (x.acc t).begun || !s.held (pgStall d p)
  | none => true

/-- Members that would run K-steps on the tile in bank b, where its window may open (R62): all four
stand at the next tile of the sequence, or one replays the next tile due again (R74). -/
def State.windowFor (s : State) (d q a : Nat) (b : Fin 2) : Option (Nat × List Nat) :=
  let arc := s.arc d q a
  let ms := s.members d q a
  if !s.membersOn d q a || arc.window.isSome || arc.stopped then none
  else
    match arc.replay with
    | (m, n) :: _ =>
      match ms.find? (·.1 == m) with
      | none => none
      | some e =>
        let x := s.slot d e.2
        let k := x.bank b
        if k.st == .full && !k.priv && k.tile == n && x.wants false && s.mayBegin d e.2 then some (n, [m]) else none
    | [] =>
      let n := arc.consumed
      let ok := ms.all fun e =>
        let x := s.slot d e.2
        let k := x.bank b
        k.st == .full && !k.priv && k.tile == n && x.stands && s.mayBegin d e.2
      let rs := (ms.filter fun e => (s.slot d e.2).wants false).map (·.1)
      if ok && !rs.isEmpty then some (n, rs) else none

/-- A bank's tile is in use. -/
def Stall.useBank (x : Stall) (b : Fin 2) : Stall := x.setBank b { x.bank b with st := .inUse }

/-- TILE_WINDOW_OPEN: `priv` names the one member of a private window (R194). -/
def execTileWindowOpen (d : Die) (q a : Qtr) (b : Fin 2) (priv : Option (Fin 4)) (s : State) :
    Host.Outcome State Fault Refusal :=
  match priv with
  | some m =>
    match s.onSlot d (16 * q + 4 * a + m) with
    | none => .next s
    | some p =>
      let x := s.slot d p
      let k := x.bank b
      match x.priv with
      | none => .next s
      | some sq =>
        if k.st == .full && k.priv && some (k.tile, k.kind) == sq.todo.head? && x.wants true && s.mayBegin d p then
          s.ok ((s.setSlot d p (x.useBank b)).beginPass d p k.tile)
        else .next s
  | none =>
    match s.windowFor d q a b with
    | none => .next s
    | some (n, rs) =>
      let arc := s.arc d q a
      let one := !arc.replay.isEmpty
      let s1 := s.forEach (s.members d q a) fun t e =>
        let t1 := if one && !rs.contains e.1 then t else t.setSlot d e.2 ((t.slot d e.2).useBank b)
        if rs.contains e.1 then t1.beginPass d e.2 n else t1
      s.ok (s1.setArc d q a { s1.arc d q a with window := some b, winAgain := one, runners := rs })

/-- A stall after its window: a gap begins, which the next window ends (R78), and it waits for that window
while its pass has K indices left. -/
def Stall.afterWindow (x : Stall) : Stall :=
  { x with gap := true, seq := if x.seq == .run && x.running.isSome then .waitWindow else x.seq }

/-- The record of a private window is consumed; with the last one the sequence closes (R194). -/
def Stall.consumeRecord (x : Stall) : Stall :=
  match x.priv with
  | none => x
  | some q =>
    let q' := match q.again with
      | _ :: r => { q with again := r }
      | [] => { q with consumed := q.consumed + 1 }
    if q'.todo.isEmpty then { x with priv := none, lastPriv := some q' } else { x with priv := some q' }

/-- The shared window closes (R62): the runners' K-steps are done, the others ran ballast (a member in BALLAST
its own cycles, which that command counts), and the bank is free. -/
def State.closeShared (s : State) (d q a : Nat) (b : Fin 2) : State :=
  let arc := s.arc d q a
  let ms := s.members d q a
  let steps := fun (e : Nat × Nat) => if arc.runners.contains e.1 then (s.slot d e.2).windowSteps else 0
  let most := ms.foldl (fun n e => max n (steps e)) 0
  let s1 := s.forEach ms fun t e =>
    let t1 := if arc.runners.contains e.1 then t.runSteps d e.2 b else t
    let t2 := if steps e < most && (s.slot d e.2).seq != .ballast then t1.countBallast d e.2 (most - steps e) else t1
    let y := t2.slot d e.2
    t2.setSlot d e.2 ((if (y.bank b).st == .inUse && !(y.bank b).priv then y.freeBank b else y).afterWindow)
  let arc' := { s1.arc d q a with window := none, winAgain := false, runners := [] }
  s1.setArc d q a (if arc.winAgain then { arc' with replay := arc.replay.tail }
    else { arc' with consumed := arc.consumed + 1
                     held := arc.held.map fun h => if h.num = arc.consumed then { h with done := true } else h })

/-- TILE_WINDOW_CLOSE. -/
def execTileWindowClose (d : Die) (q a : Qtr) (b : Fin 2) (priv : Option (Fin 4)) (s : State) :
    Host.Outcome State Fault Refusal :=
  match priv with
  | some m =>
    match s.onSlot d (16 * q + 4 * a + m) with
    | none => .next s
    | some p =>
      let k := (s.slot d p).bank b
      if k.st == .inUse && k.priv then
        let s1 := s.runSteps d p b
        s.ok (s1.setSlot d p (((s1.slot d p).freeBank b).consumeRecord).afterWindow)
      else .next s
  | none =>
    if s.membersOn d q a && (s.arc d q a).window == some b then s.ok (s.closeShared d q a b) else .next s

/-- A pass of the stall whose check has not passed consumed tile n of the broadcast. -/
def Stall.needsTile (x : Stall) (n : Nat) : Bool :=
  [x.acc0, x.acc1].any fun a => match a.word with
    | some w => a.begun && !a.priv && (a.st == .preload || a.st == .run || a.st == .check || a.st == .replay) &&
        decide (a.first ≤ n ∧ n < a.first + w.tiles)
    | none => false

/-- BCAST_SLOT_RELEASE: the slot of tile n is released (R65). -/
def execBcastSlotRelease (d : Die) (q a : Qtr) (n : Nat) (s : State) : Host.Outcome State Fault Refusal :=
  let arc := s.arc d q a
  match arc.held.find? (·.num == n) with
  | none => .next s
  | some h =>
    if h.done && s.dieLive d && !((s.members d q a).any fun e => (s.slot d e.2).needsTile n) then
      let len := recordBytes (s.stream d 72 (arcStream q a)).kind
      s.ok ((s.setArc d q a { arc with held := arc.held.filter (·.num != n) }).unhold h.addr len)
    else .next s

/-! ### Write-backs (R91, R92, R477) -/

/-- A write-back waits no longer for its check or for the operands of the other tile's pass. -/
def Stall.wbReady (x : Stall) (t : Fin 2) : Bool :=
  let a := x.acc t
  match a.word with
  | some w => a.st == .writeback && !a.wbRun && !(x.acc (other t)).guarded w.wbRange
  | none => false

/-- WRITEBACK_START: of two ready write-backs the one whose check passed first goes first, and none
starts while the other is under way. -/
def execWritebackStart (d : Die) (l : Stl) (t : Fin 2) (s : State) : Host.Outcome State Fault Refusal :=
  match s.onSlot d l with
  | none => .next s
  | some p =>
    let x := s.slot d p
    let o := x.acc (other t)
    if x.wbReady t && !o.wbRun && !(x.wbReady (other t) && decide (o.order < (x.acc t).order)) then
      let a := x.acc t
      let y := x.setAcc t { a with wbRun := true, at' := (x.seedFor a.gen).2 }
      s.ok (s.setSlot d p (if x.drainDraws a.gen then y.share a.gen else y))
    else .next s

/-- The count at row 0 of a write-back and the count after it (R50, R91): its 64 rows round in consecutive
cycles. Where a drain rounded in some of them, which counts that drain had used before row 0, and how many
cycles they shared, is timing: free values (assumption 17). -/
def Acc.wbCounts (a : Acc) (n : DWord) (f : Nat → DWord) : DWord × DWord :=
  if a.shared then
    let from' := a.at' + BitVec.ofNat 64 ((f 0).toNat % 68)
    (from', sharedEnd n (from' + 63) 64 (f 1))
  else (n, n + 64)

/-- WRITEBACK_DONE: the S32 rows are in scratchpad and the tile is EMPTY. -/
def execWritebackDone (d : Die) (l : Stl) (t : Fin 2) (s : State) : Host.Outcome State Fault Refusal :=
  match s.onSlot d l with
  | none => .next s
  | some p =>
    let x := s.slot d p
    let a := x.acc t
    match a.word with
    | none => .next s
    | some w =>
      if a.wbRun then
        let (seed, n) := x.seedFor a.gen
        let (from', last) := a.wbCounts n fun i => Config.freeValue (s.free + i)
        let (ws, sat) := a.psum seed from'
        let s1 := s.storeWords (slotAddr d p w.wbRange.1) (pairWords ws)
        let s2 := s1.setSlot d p ((x.setCount a.gen last).setAcc t Acc.reset)
        let s3 := if a.shared then s2.freeNext.freeNext else s2
        s.ok (s3.flagIf d p flagSat sat)
      else .next s

/-! ### Drains (R103-R107, R116-R123) -/

/-- DRAIN: accepted while the chain holds fewer than two. -/
def execDrain (d : Die) (l : Stl) (w : DrainWord) (s : State) : Host.Outcome State Fault Refusal :=
  match s.headSlot d l (.drain w) with
  | none => .next s
  | some p =>
    let t := s.reachHead d l p
    let x := t.slot d p
    if 2 ≤ x.drains.length then s.ok (t.stallWait d p .drain .waitTile true)
    else
      let job : DrainJob := { word := w, started := false, gen := 0, draws := false, at' := 0, shared := false,
                              reads := [], whole := false, left := false, rows := [], counts := [] }
      s.ok (t.setSlot d p ({ x with drains := x.drains ++ [job] }.issue .drain .run false))

/-- The front drain may begin: it has its tile, and the stall does not hold (R104, R319). -/
def State.drainMay (s : State) (d p : Nat) (c : ChainCfg) (j : DrainJob) : Bool :=
  !j.started && !s.held (pgStall d p) && (ccSrc c || ((s.slot d p).acc j.word.tile).st == .held)

/-- The reads that a drain can make now: in order, up to the first that overlaps the target of a pending
write-back (R123). -/
def Stall.drainNow (x : Stall) (c : ChainCfg) (j : DrainJob) : List (Nat × Nat) :=
  ((drainReads c).drop j.reads.length).takeWhile fun r =>
    !overlap r x.acc0.pendingWb && !overlap r x.acc1.pendingWb

/-- The front drain makes the reads it can. With the preamble and the first read of row 0 TAP has its row 0
and the drain starts; with all of them the rows run from TAP to SIFT. `r` are the drains behind it. -/
def State.drainGo (s : State) (d p : Nat) (c : ChainCfg) (j : DrainJob) (r : List DrainJob) : State :=
  let x := s.slot d p
  let a := x.acc j.word.tile
  let now := x.drainNow c j
  let n := j.reads.length + now.length
  let s1 := now.foldl (fun (u : State) e => u.noteReads srcStall (slotAddr d p e.1) e.2) s
  let starts := !j.started && decide ((preambleReads c).length + (if ccSrc c then 1 else 0) ≤ n)
  let gen := if ccSrc c then x.gen else a.gen
  let j1 : DrainJob := if starts then
      { j with started := true, gen := gen, draws := ccStoch c, at' := (x.seedFor gen).2 } else j
  let x1 := if starts then x.start .drain else x
  let x2 := if starts && !ccSrc c then x1.setAcc j.word.tile { a with st := .drain } else x1
  if n < (drainReads c).length || !j1.started then
    let got := now.map fun e => (e.1, s.scratch d p e.1 e.2)
    let y := { x2 with drains := { j1 with reads := j.reads ++ got } :: r }
    s1.setSlot d p (if starts && ccStoch c && x.wbDraws gen then y.share gen else y)
  else
    let (rows, stats, sat) := chainRows (s.drainReader d p j.reads) c x.stats a
    let j2 : DrainJob := { j1 with whole := true, reads := [], rows := rows.map (·.row), counts := rows.map (·.cnt) }
    let y := { x2 with drains := j2 :: r, stats := stats }
    (s1.setSlot d p (if starts && ccStoch c && x.wbDraws gen then y.share gen else y)).flagIf d p flagSat sat

/-- DRAIN_START: the preamble, then the rows as far as no read has to wait. -/
def execDrainStart (d : Die) (l : Stl) (s : State) : Host.Outcome State Fault Refusal :=
  match s.onSlot d l with
  | none => .next s
  | some p =>
    match (s.slot d p).drains with
    | [] => .next s
    | j :: r =>
      let c := s.chain d p j.word.slot
      if s.drainMay d p c j then s.ok (s.drainGo d p c j r) else .next s

/-- Where PUT writes a drain's output in scratchpad, with the bytes (R115-R117). -/
def putBytes (c : ChainCfg) (rows : List (List Byte)) (counts : List Nat) (scales : List Int) : List (Nat × List Byte) :=
  let data := rows.flatten
  if ccPacked c then [(ccDst c + 64, data), (ccDst c, counts.map fun n => BitVec.ofNat 8 n)]
  else
    let sc := if kindScaled (ccOutKind c) then scales.map fun b => BitVec.ofInt 8 b else []
    [(ccDst c, data ++ sc)]

/-- Cycles in which a drain's PACK rounds (R50, R122). -/
def DrainJob.cycles (j : DrainJob) (c : ChainCfg) : Nat :=
  (j.counts.filter (rowRounds c)).length + (if ccStatPut c && ccStoch c then 3 else 0)

/-- The count before a drain's first row and the cycles before each row in which a write-back alone rounded:
none where it shared no cycle, else timing, free values (R50, assumption 17). -/
def DrainJob.gaps (j : DrainJob) (n : DWord) (f : Nat → DWord) : DWord × (Nat → Nat) :=
  if j.shared then (j.at', fun m => (f m).toNat % 129) else (n, fun _ => 0)

/-- A tile whose row 63 TAP has read leaves DRAIN: to HELD with KEEP, else to EMPTY (R104). -/
def Stall.leaveDrain (x : Stall) (c : ChainCfg) (j : DrainJob) : Stall :=
  if ccSrc c || j.left then x
  else x.setAcc j.word.tile (if ccKeep c then { x.acc j.word.tile with st := .held } else Acc.reset)

/-- The rows and closing writes of the front drain go out (R107, R115-R117, R122). -/
def State.drainOut (s : State) (d p : Nat) (c : ChainCfg) (j : DrainJob) (r : List DrainJob) : State :=
  let x := s.slot d p
  let (seed, n) := x.seedFor j.gen
  let scales := outScales c j.rows
  let (n0, gap) := j.gaps n fun i => Config.freeValue (s.free + i)
  let (bs, n1, f1) := packRows c scales seed gap n0 0 (j.rows.zip j.counts)
  let n2 := n1 + BitVec.ofNat 64 (gap 64)
  let (rec', f2) := statRecord c (x.stats.getD (ccStatSlot c) StatSlot.reset) seed n2
  let last := if ccStatPut c && ccStoch c then n2 + 3 else n1
  let last := if !j.shared then last
    else if j.cycles c = 0 then n else sharedEnd n (last - 1) (j.cycles c) (Config.freeValue (s.free + 65))
  let outs := putBytes c bs j.counts scales
  let s1 := if ccDest c = 0 then outs.foldl (fun t e => t.writeBytes srcStall (slotAddr d p e.1) e.2) s else s
  let s2 := if ccStatPut c then s1.writeBytes srcStall (slotAddr d p (ccStatAddr c)) rec' else s1
  let puts := if ccDest c = 0 then x.puts
    else
      let l := outs.flatMap (·.2)
      x.puts ++ [(ccStream c, bytesWords (l.length / 8 + 1) l)]
  let y := ({ x with drains := r, puts := puts }.setCount j.gen last).leaveDrain c j
  let s3 := (s2.setSlot d p y).flagIf d p flagSat (f1 || (ccStatPut c && f2))
  if j.shared then { s3 with free := s3.free + 66 } else s3

/-- No operand of a pass whose check has not passed lies where the drain writes (R123). -/
def Stall.drainFree (x : Stall) (c : ChainCfg) : Bool :=
  (drainWrites c).all fun w => !x.acc0.guarded w && !x.acc1.guarded w

/-- DRAIN_DONE: the reads that waited go on; the tile leaves DRAIN once TAP has read row 63 (R104); rows and
closing writes are out (R107), but a write that a replay's operands forbid waits, and the drain with it
(R123, assumption 90). -/
def execDrainDone (d : Die) (l : Stl) (s : State) : Host.Outcome State Fault Refusal :=
  match s.onSlot d l with
  | none => .next s
  | some p =>
    match (s.slot d p).drains with
    | [] => .next s
    | j :: r =>
      let c := s.chain d p j.word.slot
      let s1 := if j.started && !j.whole then s.drainGo d p c j r else s
      match (s1.slot d p).drains with
      | [] => .next s
      | j1 :: _ =>
        let x := s1.slot d p
        if !j1.whole then s.ok s1
        else if x.drainFree c then s.ok (s1.drainOut d p c j1 r)
        else s.ok (s1.setSlot d p { x.leaveDrain c j1 with drains := { j1 with left := true } :: r })

/-! ### Private weight sequences (R194-R196) -/

/-- The accumulator port is taken: a write-back's rows or a preload's go before private records (R90, R194). -/
def Stall.portBusy (x : Stall) : Bool :=
  [x.acc0, x.acc1].any fun a => a.wbRun || ((a.st == .preload || a.st == .replay) && !a.loaded)

/-- LOADW: it opens its sequence where none is open and a bank is free, and starts when the loader begins the
first record: at once where the port is free, otherwise once that record comes (R191, R194). -/
def execLoadw (d : Die) (l : Stl) (w : LoadwWord) (s : State) : Host.Outcome State Fault Refusal :=
  match s.headSlot d l (.loadw w) with
  | none => .next s
  | some p =>
    let t := s.reachHead d l p
    let x := t.slot d p
    if x.priv.isNone && (x.bank0.st == .free || x.bank1.st == .free) then
      let q : PrivSeq := { addr := w.addr, kind := w.kind, tiles := w.tiles.toNat, consumed := 0, again := [] }
      s.ok (t.setSlot d p { x.issue .loadw .run (!x.portBusy) with priv := some q, reading := true })
    else s.ok (t.stallWait d p .loadw .waitTile false)

/-- A replay of a broadcast pass needs the banks first. -/
def Stall.replaysShared (x : Stall) : Bool :=
  match x.passes with | t :: _ => (x.acc t).st == .replay && !(x.acc t).priv | [] => false

/-- Bank b may take a private record: it is free, or it holds a broadcast tile in the way of a record that a
replay needs (R194). -/
def Stall.privBank (x : Stall) (q : PrivSeq) (b : Fin 2) : Bool :=
  (x.bank b).st == .free ||
    (!q.again.isEmpty && x.bank0.st != .free && x.bank1.st != .free && !x.bank0.priv && !x.bank1.priv &&
      (x.bank b).st == .full)

/-- PRIVATE_RECORD_LOADED: the next record of the sequence is in bank b. A broadcast tile that it displaces
comes again after the sequence. -/
def execPrivateRecordLoaded (d : Die) (l : Stl) (b : Fin 2) (s : State) : Host.Outcome State Fault Refusal :=
  match s.onSlot d l with
  | none => .next s
  | some p =>
    let x := s.slot d p
    match x.priv with
    | none => .next s
    | some q =>
      let k := (if x.bank0.priv then 1 else 0) + (if x.bank1.priv then 1 else 0)
      match q.todo[k]? with
      | none => .next s
      | some (u, kind) =>
        if x.privBank q b && !x.replaysShared then
          let len := recordBytes kind
          let key := slotAddr d p (64 * u)
          let y := x.startLoad.setBank b
            { st := .full, tile := u, kind := kind, data := s.readWords key (len / 8), priv := true }
          let s1 := (s.noteReads srcStall key len).setSlot d p { y with reading := k + 1 != q.todo.length }
          let arc := s1.arc d (l / 16) (l / 4 % 4)
          s.ok (if (x.bank b).st == .free then s1
            else s1.setArc d (l / 16) (l / 4 % 4) { arc with replay := arc.replay ++ [(4 + l.val % 4, (x.bank b).tile)] })
        else .next s

/-! ### Marks, re-arms, brackets (R169, R192, R193, R203) -/

/-- A staged command of an open bracket starts as it is staged; in a bracket that has committed before,
it is discarded (R203, R205). -/
def Stall.stageCmd (x : Stall) (b : Bracket) (c : StagedCmd) : Stall :=
  { x.advance .run with bracket := some (if b.void then b else { b with staged := b.staged ++ [c] }) }

/-- MARK_POST. -/
def execMarkPost (d : Die) (l : Stl) (w : MarkWord) (s : State) : Host.Outcome State Fault Refusal :=
  match s.headSlot d l (.post w) with
  | none => .next s
  | some p =>
    let t := s.reachHead d l p
    let x := t.slot d p
    match x.bracket with
    | some b => s.ok (t.setSlot d p (x.stageCmd b (.post w)))
    | none =>
      if x.written (t.padDrain d p) then
        s.ok ((t.setSlot d p (x.advance .run)).postMark d w.mark.toNat (w.countM1.toNat + 1)
          { agent := 0, stall := l, index := x.cmdIndex })
      else s.ok (t.stallWait d p .other x.seqNow false)

/-- MARK_WAIT: the request is made once; the units are taken in its turn. -/
def execMarkWait (d : Die) (l : Stl) (w : MarkWord) (s : State) : Host.Outcome State Fault Refusal :=
  match s.headSlot d l (.wait w) with
  | none => .next s
  | some p =>
    let t := s.reachHead d l p
    let x := t.slot d p
    if x.waiting.any (·.1 == x.cmdIndex) then s.ok (t.stallWait d p .markWait .waitMark false)
    else
      let s1 := (t.setSlot d p { x.wait .markWait with seq := .waitMark }).askMark d w.mark.toNat
        (w.countM1.toNat + 1) (.stall l)
      s.ok (if (s1.slot d p).cmdIndex = x.cmdIndex then s1.stallWait d p .markWait .waitMark false else s1)

/-- REARM. -/
def execRearm (d : Die) (l : Stl) (w : RearmWord) (s : State) : Host.Outcome State Fault Refusal :=
  match s.headSlot d l (.rearm w) with
  | none => .next s
  | some p =>
    let t := s.reachHead d l p
    let x := t.slot d p
    match x.bracket with
    | some b => s.ok (t.setSlot d p (x.stageCmd b (.rearm w)))
    | none =>
      if t.rearmReady d p w then s.ok ((t.setSlot d p (x.advance .run)).rearmApply d p w)
      else s.ok (t.stallWait d p .other x.seqNow true)

/-- BUNDLE_OPEN: a bracket whose count has committed before runs without effect (R205). -/
def execBundleOpen (d : Die) (l : Stl) (n : Fin 4096) (s : State) : Host.Outcome State Fault Refusal :=
  match s.headSlot d l (.bopen n) with
  | none => .next s
  | some p =>
    let t := s.reachHead d l p
    let x := t.slot d p
    let b := t.pbundle n
    let i := b.base + SMap.get 0 b.closed (64 * d.val + l.val)
    let br : Bracket := { num := n, void := decide (i < b.count), staged := [], ready := false }
    s.ok (t.setSlot d p { x.advance .run with bracket := some br })

/-- A staged post. -/
def StagedCmd.isPost (c : StagedCmd) : Bool := match c with | .post _ => true | _ => false

/-- BUNDLE_CLOSE: the stall is ready for its bundle; a void bracket ends at once (R205, R322). With a post in
the bracket it waits until every earlier command has finished writing, since the post is made at the commit
(R193). -/
def execBundleClose (d : Die) (l : Stl) (n : Fin 4096) (s : State) : Host.Outcome State Fault Refusal :=
  match s.headSlot d l (.bclose n) with
  | none => .next s
  | some p =>
    let t := s.reachHead d l p
    let x := t.slot d p
    match x.bracket with
    | none => .next s
    | some br =>
      let k := 64 * d.val + l.val
      let b := t.pbundle n
      let b1 := { b with closed := SMap.upd 0 b.closed k (· + 1) }
      if br.void then s.ok ((t.setSlot d p x.closeBracket).setPbundle n b1)
      else if br.staged.any StagedCmd.isPost && !x.written (t.padDrain d p) then
        s.ok (t.stallWait d p .other x.seqNow false)
      else s.ok ((t.setSlot d p { x.wait .other with bracket := some { br with ready := true }, seq := x.seqNow }).setPbundle
        n { b1 with ready := k :: b1.ready })

/-! ### Bell, baskets, ballast, HALT -/

/-- BELL_WAIT: with its last participant the barrier or sum completes (R197). The first stall of a die
at an engine-wide one takes the die's bell token (Table 13.5). -/
def execBellWait (d : Die) (l : Stl) (w : BellWord) (s : State) : Host.Outcome State Fault Refusal :=
  match s.headSlot d l (.bell w) with
  | none => .next s
  | some p =>
    let t := s.reachHead d l p
    let x := t.slot d p
    let first := w.group == 0 && !((List.range 64).any fun k => t.atBell (d, k) 0)
    let s1 := t.setSlot d p { x.wait .bell with bell := some w, seq := x.seqNow }
    let s2 := if first then s1.ledIssue 0 lgBell d else s1
    s.ok (s2.bellTry d l)

/-- BASKET_PUT (R251, R252): a refused one is counted once and never starts. -/
def execBasketPut (d : Die) (l : Stl) (w : PutWord) (s : State) : Host.Outcome State Fault Refusal :=
  match s.headSlot d l (.put w) with
  | none => .next s
  | some p =>
    let t := s.reachHead d l p
    let x := t.slot d p
    match x.bracket with
    | some { void := true, num := n, staged := l, ready := r } =>
      s.ok (t.setSlot d p (x.stageCmd { void := true, num := n, staged := l, ready := r } (.put w)))
    | br =>
      if x.refused then s.ok (t.stallWait d p .other x.seqNow false)
      else if t.putRefused d l w then
        s.ok (((t.setSlot d p { x with refused := true }).stallWait d p .other x.seqNow false).incSat (pgCollect d) 0x064)
      else if t.putWaits d w then s.ok (t.stallWait d p .other x.seqNow false)
      else
        let y := match br with
          | some b => x.stageCmd b (.put w)
          | none => x.advance .run
        s.ok ((t.setSlot d p y).startPut d l w (br.map (·.num)))

/-- BALLAST: its cycles run before the next command is the head (R77, R80). -/
def execBallast (d : Die) (l : Stl) (cycles : Word) (s : State) : Host.Outcome State Fault Refusal :=
  match s.headSlot d l (.ballast cycles.toNat) with
  | none => .next s
  | some p =>
    let t := s.reachHead d l p
    let s1 := t.setSlot d p ((t.slot d p).advance .ballast)
    s.ok (if t.inWindow d p then s1 else s1.countBallast d p cycles.toNat)

/-- HALT (R206). -/
def execHalt (d : Die) (l : Stl) (restart : Bool) (s : State) : Host.Outcome State Fault Refusal :=
  match s.headSlot d l (.halt restart) with
  | none => .next s
  | some p =>
    let t := s.reachHead d l p
    let x := t.slot d p
    let y := if restart then { x.wait .bell with seq := .halted } else x.advance .halted
    s.ok (t.setSlot d p { y with halted := some restart })

/-! ### The duty (R78, R79) -/

/-- DUTY_HOLD_EXPIRY: the gap has lasted HOLD cycles. -/
def execDutyHoldExpiry (d : Die) (l : Stl) (s : State) : Host.Outcome State Fault Refusal :=
  match s.onSlot d l with
  | none => .next s
  | some p =>
    let x := s.slot d p
    if x.gap && x.dutySt != .falling then s.ok (s.setSlot d p { x with dutySt := .falling }) else .next s

/-- DUTY_STEP_DOWN. -/
def execDutyStepDown (d : Die) (l : Stl) (s : State) : Host.Outcome State Fault Refusal :=
  match s.onSlot d l with
  | none => .next s
  | some p =>
    let x := s.slot d p
    if x.gap && x.dutySt == .falling && decide (0 < x.duty) then
      let s1 := s.gapBallast d p
      s.ok (s1.setSlot d p { s1.slot d p with duty := x.duty - 1 })
    else .next s

/-- DUTY_STEP_UP. -/
def execDutyStepUp (d : Die) (l : Stl) (s : State) : Host.Outcome State Fault Refusal :=
  match s.onSlot d l with
  | none => .next s
  | some p =>
    let x := s.slot d p
    if x.dutySt == .rising && decide (x.duty < 16) then
      let s1 := s.gapBallast d p
      s.ok (s1.setSlot d p { s1.slot d p with duty := x.duty + 1, dutySt := if x.duty + 1 = 16 then .steady else .rising })
    else .next s

end Sys2Proof.Machine
end

