-- ==== Sys2Proof/Machine/StreamFam.lean ====
section
/-! DEFINITION. The meanings of the commands of streams and rounds (R157-R184, R302-R304, R474). Which
stream or context acts next is the order of the commands (assumption 21). -/

namespace Sys2Proof.Machine

/-! ### Transfers (R158-R165) -/

/-- Words at an engine memory address, and the accounting of their read; where the address is gone
the words are poisoned. -/
def State.sourceWords (s : State) (a n : Nat) : List MWord :=
  match s.resolve a with
  | some k => s.readWords k (n / 8)
  | none => List.replicate (n / 8) { val := 0, poison := true }
def State.noteSource (s : State) (a n : Nat) : State :=
  match s.resolve a with | some k => s.noteReads srcStream k n | none => s
/-- Quarter-buffer units at an address are held for the tile that starts there (R171). -/
def State.holdAt' (s : State) (a n : Nat) : State :=
  match s.resolve a with | some k => s.hold k n | none => s

/-- A payload of 8,192 bytes or less as a V3 BASKET frame (R302, R303): poisoned words leave as zero
under a map. -/
def State.streamFrame (s : State) (d st t j : Nat) (ws : List MWord) : Kept :=
  let x := s.stream d 72 st
  let bad := ws.any (·.poison)
  let map : BitVec 1024 := BitVec.ofNat 1024 ((ws.zipIdx).foldl (fun n e => if e.1.poison then n + 2 ^ e.2 else n) 0)
  let fl := match s.outOf d st with | i :: _ => fieldOf (s.outBind d i) 9 0 | [] => 0
  let body : TxBody := .streamB (ws.map fun w => if w.poison then 0 else w.val) map
  { frame := s.frameOf d fl (s.flow d fl) 1 3 (if bad then 3 else 2)
      (BitVec.ofNat 32 (st + x.walks % 2 ^ 24 * 256)) (BitVec.ofNat 32 ((t * x.size + 8192 * j) / 64))
      (BitVec.ofNat 16 (8 * ws.length)) body
    sends := 0, bytes := 8 * ws.length, xfer := some (st, t) }

/-- A PORT_OUT transfer is handed to the port: its frames wait on the bound flow. -/
def State.queueOut (s : State) (d st t : Nat) (ws : List MWord) : State :=
  match s.outOf d st with
  | [] => s
  | i :: _ =>
    let fl := fieldOf (s.outBind d i) 9 0
    let ks := (List.range ((8 * ws.length + 8191) / 8192)).map fun j =>
      s.streamFrame d st t j ((ws.drop (1024 * j)).take 1024)
    s.setFlow d fl { s.flow d fl with queue := (s.flow d fl).queue ++ ks }

/-- The item that a context of a die forwards now. -/
def State.forwarding (s : State) (d c : Nat) : Option Transit :=
  s.rounds.transit.find? fun t => t.src == d && t.ctx == c
/-- The item that a ROUND stream forwards now. -/
def State.streamItem (s : State) (d st : Nat) : Option Transit :=
  match s.ctxOfStream d st with | some c => s.forwarding d c | none => none

/-- Keys, one for each quarter of the mask, of part `j` of the slot in which a die holds item `i`. -/
def State.partKeys (s : State) (d c i j : Nat) : List (Nat × Nat) :=
  let x := s.stream d 72 (s.ctxStream d c)
  (maskQuarters x.qmask).map fun q =>
    (q, keyAt (s.slotStart d c q (i % max 1 (s.ctxSlots d c))) (x.offset j))
/-- Number of the next item that a die receives, in the order it holds them (R177). -/
def State.nextItem (s : State) (d c : Nat) : Nat := s.ownItems d c + (s.roundCtx d c).recv

/-- A ROUND transfer issues: one record or run of the item, read in the lowest quarter of the mask; units
of the successor's slot are held from here (R171). -/
def State.issueRound (s : State) (d st : Nat) (t : Transit) : State :=
  let x := s.stream d 72 st
  let k := ((s.partKeys d t.ctx t.k x.issued).headD (0, 0)).2
  let ks := s.partKeys t.dst t.ctx (s.nextItem t.dst t.ctx) x.issued
  let s1 := ks.foldl (fun (u : State) e => u.hold e.2 x.size) (s.noteReads srcStream k x.size)
  s1.issueXfer d 72 st (s.readWords k (x.size / 8))

/-- What a transfer reads, holds and starts as it issues, by role (R166, R171, R228, R302). A PORT_OUT
transfer from a dark scratchpad is abandoned (R184). -/
def State.issueByRole (s : State) (d u st : Nat) : State :=
  let x := s.stream d u st
  let t := x.issued
  let n := x.size
  let far := x.far t
  let ring := x.ring d u t
  if x.role = roleLoad then
    (((s.noteSource far n).unhold ring n).hold ring n).issueXfer d u st (s.sourceWords far n)
  else if x.role = roleStore then
    ((s.noteReads srcStream ring n).holdAt' far n).issueXfer d u st (s.readWords ring (n / 8))
  else if x.role = rolePut then
    let y := s.slot d u
    let ws := match y.puts.find? (·.1 == st) with | some e => e.2 | none => []
    let rest := y.puts.eraseP (·.1 == st)
    ((s.setSlot d u { y with puts := rest }).holdAt' far n).issueXfer d u st ws
  else if x.role = roleRound then
    match s.streamItem d st with | some it => s.issueRound d st it | none => s
  else if x.role = rolePortIn then
    match s.feOf d st with
    | [] => s
    | e :: _ => (((s.walkKeys d e t 0).foldl (fun v k => v.hold k n) s).issueXfer d u st []).fetchIssue d e
  else if x.role = rolePortOut then
    if s.lostKey (s.resolve far) then (s.issueXfer d u st []).completeXfer d u st t true
    else ((s.noteSource far n).issueXfer d u st []).queueOut d st t (s.sourceWords far n)
  else s

/-- What a stream needs beside its gate: a PUT its output, a ROUND stream an item that its context
forwards over usable wales, a port stream its binding. The arcade drives BCAST streams itself. -/
def State.roleReady (s : State) (d u st : Nat) : Bool :=
  let x := s.stream d u st
  if x.role = roleLoad || x.role = roleStore then true
  else if x.role = rolePut then decide (u < 72) && (s.slot d u).puts.any (·.1 == st)
  else if x.role = roleRound then
    u == 72 && match s.streamItem d st with | some it => s.hopUp it.src it.dst | none => false
  else if x.role = rolePortIn then u == 72 && !(s.feOf d st).isEmpty
  else if x.role = rolePortOut then u == 72 && !(s.outOf d st).isEmpty
  else false

/-- The stream can issue now: no gate and no limit holds it. -/
def State.canIssue (s : State) (d u st : Nat) : Bool :=
  s.mayIssue d u st && s.roleReady d u st && !(s.stream d u st).atGate && !s.atLimit d u st

/-- Stream with which a unit's round robin goes on. -/
def State.turn (s : State) (d u : Nat) : Nat := SMap.get 0 s.stores.turn (73 * d + u)
/-- No stream that can issue comes before this one in round-robin order of stream index (R158). -/
def State.hasTurn (s : State) (d u st : Nat) : Bool :=
  let far := fun i => (i + 256 - s.turn d u % 256) % 256
  (s.unitStreams d u).all fun e => decide (far st ≤ far e.1) || !s.canIssue d u e.1
/-- The stream has issued: the round robin goes on with the next index. -/
def State.passTurn (s : State) (d u st : Nat) : State :=
  { s with stores := { s.stores with turn := SMap.set 0 s.stores.turn (73 * d + u) ((st + 1) % 256) } }

/-- TRANSFER_ISSUE: at a gate the unit is taken first, at a limit the stream is LIMITED; a stream whose turn
has not come waits. -/
def execTransferIssue (d : Die) (u : Fin 73) (st : Fin 256) (s : State) : Host.Outcome State Fault Refusal :=
  if s.mayIssue d u st && s.roleReady d u st then
    let s1 := s.takeGate d u st
    if (s1.stream d u st).atGate then s.ok s1
    else if s1.atLimit d u st then s.ok (s1.setStream d u st { s1.stream d u st with st := .limited })
    else if s1.hasTurn d u st then s.ok ((s1.passTurn d u st).issueByRole d u st)
    else s.ok s1
  else .next s

/-- A LOAD, STORE or PUT transfer completes: its words are written, or it is abandoned where an end of
it is gone (R184). -/
def State.finishXfer (s : State) (d u st : Nat) (x : Xfer) : State :=
  let y := s.stream d u st
  let far := s.resolve (y.far x.t)
  let ring := y.ring d u x.t
  let lost := s.lostKey far || (u < 72 && s.lostKey (some ring))
  let dst := if y.role = roleLoad then some ring else far
  let s1 := if lost then s else match dst with | some k => s.storeWords k x.words | none => s
  let s2 := if y.role = roleStore then s1.unhold ring y.size else s1
  s2.completeXfer d u st x.t lost

/-- A ROUND transfer completes: one copy has crossed the wale and stands in every quarter of the successor's
mask, in the slot of R177 (R178). -/
def State.finishRound (s : State) (d st : Nat) (it : Transit) (x : Xfer) : State :=
  let n := 8 * x.words.length
  let served := servedQuarters (s.lastHop d) it.dst
  let ks := s.partKeys it.dst it.ctx (s.nextItem it.dst it.ctx) x.t
  let s1 := ks.foldl (fun (u : State) e =>
    let v := u.storeWords e.2 x.words
    if served.contains e.1 then v.count (pgQbuf it.dst e.1) 2 n else v) s
  (s1.hopTraffic 0 d it.dst n).completeXfer d 72 st x.t false

/-- TRANSFER_COMPLETE: on the mesh F2 carries the transfer, or F1 that of a round (R301). -/
def execTransferComplete (d : Die) (u : Fin 73) (st : Fin 256) (t : Nat) (s : State) :
    Host.Outcome State Fault Refusal :=
  let y := s.stream d u st
  match y.out.find? (·.t == t) with
  | none => .next s
  | some x =>
    if s.dieLive d && (y.role == roleLoad || y.role == roleStore || y.role == rolePut) then
      let m := s.meshServe d 1 y.size
      s.ok (if m.2 then m.1.finishXfer d u st x else m.1)
    else match (if y.role == roleRound then s.streamItem d st else none) with
      | none => .next s
      | some it =>
        if s.hopUp it.src it.dst && s.dieLive it.dst then
          let m := s.meshServe d 0 y.size
          s.ok (if m.2 then m.1.finishRound d st it x else m.1)
        else .next s

/-! ### Round contexts (R176-R180, R474) -/

/-- A context takes part in its round. -/
def RoundCtx.inRound (x : RoundCtx) : Bool := x.st == .running || x.st == .relay

/-- The context may take or forward items. -/
def State.roundMay (s : State) (d c : Nat) : Bool :=
  s.atWork && s.dieLive d && !s.held (pgRound d) && (s.roundCtx d c).inRound

/-- An item has arrived: ARRIVE_MARK is posted, unless the context only relays. -/
def State.postArrive (s : State) (d c : Nat) : State :=
  if (s.roundCtx d c).st == .running then s.postMark d (s.arriveMark d c) 1 (ctxPoster c) else s

/-- ROUND_ITEM_TAKE. -/
def execRoundItemTake (d : Die) (c : Qtr) (s : State) : Host.Outcome State Fault Refusal :=
  let x := s.roundCtx d c
  if s.roundMay d c && decide (x.taken < s.ownItems d c) then
    let s1 := if x.ready == .no then
        (s.setRoundCtx d c { x with ready := .waiting }).askMark d (s.readyMark d c) 1 (.ready c)
      else s
    let y := s1.roundCtx d c
    if y.ready == .granted then
      s.ok (((s1.setRoundCtx d c { y with taken := y.taken + 1, ready := .no }).postArrive d c).freeSlots d c)
    else s.ok s1
  else .next s

/-- Items on the wale to a context. -/
def State.comingTo (s : State) (d c : Nat) : Nat :=
  (s.rounds.transit.filter fun t => t.dst == d && t.ctx == c).length

/-- The successor's slot for the next item is free and a credit of the item's round is held. -/
def State.credited (s : State) (d c : Nat) : Bool :=
  let x := s.roundCtx d c
  let n := s.pathSucc d
  let y := s.roundCtx n c
  decide (0 < SMap.get 0 x.credits x.rnd) && y.rnd == x.rnd && y.inRound &&
  decide (s.ownItems n c + y.recv + s.comingTo n c < y.freed + s.ctxSlots n c)

/-- The next item leaves for the successor against a credit; the ROUND stream walks it from transfer 0. -/
def State.forwardItem (s : State) (d c : Nat) : State :=
  let x := s.roundCtx d c
  let st := s.ctxStream d c
  let y := s.stream d 72 st
  let tag := match s.partKeys d c x.fwd 0 with
    | e :: _ => SMap.get none s.weights.tags (s.slotStart d c e.1 (x.fwd % max 1 (s.ctxSlots d c)))
    | [] => none
  let s1 := s.setRoundCtx d c { x with busy := true, credits := SMap.upd 0 x.credits x.rnd (· - 1) }
  let s2 := s1.setStream d 72 st
    { y with st := if y.st == .limited then .run else y.st, walk := y.walkLen, issued := 0, done := 0,
             doneSet := [], posts := 0, gate := .no }
  { s2 with rounds := { s2.rounds with transit := s2.rounds.transit ++
      [{ src := d, dst := s.pathSucc d, ctx := c, k := x.fwd, tag := tag }] } }

/-- ROUND_ITEM_FORWARD: without a credit the context waits, and its stream is LIMITED. -/
def execRoundItemForward (d : Die) (c : Qtr) (s : State) : Host.Outcome State Fault Refusal :=
  let x := s.roundCtx d c
  if s.roundMay d c && !x.busy && decide (x.fwd < s.arrived d c ∧ x.fwd < s.itemsForward d c) &&
      s.hopUp d (s.pathSucc d) then
    if s.credited d c then s.ok (s.forwardItem d c)
    else
      let st := s.ctxStream d c
      let y := s.stream d 72 st
      s.ok (s.setStream d 72 st { y with st := if y.st == .run then .limited else y.st })
  else .next s

/-- The item's tag stands at its slot in every quarter of the mask. -/
def State.tagItem (s : State) (t : Transit) : State :=
  let x := s.stream t.dst 72 (s.ctxStream t.dst t.ctx)
  let i := s.nextItem t.dst t.ctx % max 1 (s.ctxSlots t.dst t.ctx)
  s.forEach (maskQuarters x.qmask) fun u q =>
    { u with weights := { u.weights with tags := SMap.set none u.weights.tags (s.slotStart t.dst t.ctx q i) t.tag } }

/-- Every transfer of the item on its way has completed. -/
def State.itemHere (s : State) (t : Transit) : Bool :=
  let y := s.stream t.src 72 (s.ctxStream t.src t.ctx)
  decide (y.walk ≤ y.done)

/-- ROUND_ITEM_ARRIVAL: the item's last tile is written in every quarter of the mask. -/
def execRoundItemArrival (d : Die) (c : Qtr) (s : State) : Host.Outcome State Fault Refusal :=
  match s.rounds.transit.find? fun t => t.dst == d.val && t.ctx == c.val with
  | none => .next s
  | some t =>
    if s.itemHere t && s.dieLive d then
      let y := s.roundCtx d c
      let z := s.stream t.src 72 (s.ctxStream t.src c)
      let s1 := s.tagItem t
      let s2 := { s1 with rounds := { s1.rounds with transit := s1.rounds.transit.erase t } }
      let s3 := (s2.setRoundCtx d c { s2.roundCtx d c with recv := y.recv + 1 }).ledReturn d lgRound c
      let x := s3.roundCtx t.src c
      let s4 := s3.setRoundCtx t.src c { x with fwd := x.fwd + 1, busy := false }
      let s5 := ((s4.count (pgRound t.src) 0).count (pgRound t.src) 1 (z.walkLen * z.size)).postArrive d c
      s.ok ((s5.freeSlots d c).freeSlots t.src c)
    else .next s

/-- ROUND_RELEASE. -/
def execRoundRelease (d : Die) (c : Qtr) (s : State) : Host.Outcome State Fault Refusal :=
  let x := s.roundCtx d c
  if s.atWork && s.dieLive d && x.st == .running && decide (x.released < s.arrived d c) then
    let s1 := if x.release == .no then
        (s.setRoundCtx d c { x with release := .waiting }).askMark d (s.releaseMark d c) 1 (.release c)
      else s
    let y := s1.roundCtx d c
    if y.release == .granted then
      s.ok ((s1.setRoundCtx d c { y with released := y.released + 1, release := .no }).freeSlots d c)
    else s.ok s1
  else .next s

/-- ROUND_CREDIT: a credit arrives; one of a round that is over goes back to its issuer. -/
def execRoundCredit (d : Die) (c : Qtr) (s : State) : Host.Outcome State Fault Refusal :=
  let x := s.roundCtx d c
  match x.coming with
  | [] => .next s
  | (r, _) :: _ =>
    let x1 := { x with coming := SMap.upd 0 x.coming r (· - 1) }
    if r < x.rnd then s.ok ((s.setRoundCtx d c x1).ledReturn (s.pathSucc d) lgRound c)
    else s.ok (s.setRoundCtx d c { x1 with credits := SMap.upd 0 x1.credits r (· + 1) })

end Sys2Proof.Machine
end

