-- ==== Sys2Proof/Machine/Dispatch.lean ====
section
/-! DEFINITION. The dispatch of commands: one arm per constructor of `Instr`. -/

namespace Sys2Proof.Machine

/-- The effect of a command on everything but the queue. -/
def exec (i : Instr) (s : State) : Host.Outcome State Fault Refusal :=
  match i with
  | .loRead addr len => Sys2Proof.Machine.execLoRead addr len s
  | .hiWrite addr len data => Sys2Proof.Machine.execHiWrite addr len data s
  | .loWrite addr len data => Sys2Proof.Machine.execLoWrite addr len data s
  | .w1cWrite addr len data engineSets => Sys2Proof.Machine.execW1cWrite addr len data engineSets s
  | .rcRead addr len => Sys2Proof.Machine.execRcRead addr len s
  | .rsWrite addr len data => Sys2Proof.Machine.execRsWrite addr len data s
  | .registerWrite addr len data => Sys2Proof.Machine.execRegisterWrite addr len data s
  | .ledgerSampleRead addr len => Sys2Proof.Machine.execLedgerSampleRead addr len s
  | .pass d l w => Sys2Proof.Machine.execPass d l w s
  | .preloadDone d l t => Sys2Proof.Machine.execPreloadDone d l t s
  | .passRunEnd d l t => Sys2Proof.Machine.execPassRunEnd d l t s
  | .steelyardCheck d l t err => Sys2Proof.Machine.execSteelyardCheck d l t err s
  | .styWindowExpiry d l => Sys2Proof.Machine.execStyWindowExpiry d l s
  | .replayedPassCheck d l t err => Sys2Proof.Machine.execReplayedPassCheck d l t err s
  | .broadcastStart d q a b => Sys2Proof.Machine.execBroadcastStart d q a b s
  | .bankFull d q a b => Sys2Proof.Machine.execBankFull d q a b s
  | .tileWindowOpen d q a b priv => Sys2Proof.Machine.execTileWindowOpen d q a b priv s
  | .tileWindowClose d q a b priv => Sys2Proof.Machine.execTileWindowClose d q a b priv s
  | .bcastSlotRelease d q a n => Sys2Proof.Machine.execBcastSlotRelease d q a n s
  | .writebackStart d l t => Sys2Proof.Machine.execWritebackStart d l t s
  | .writebackDone d l t => Sys2Proof.Machine.execWritebackDone d l t s
  | .drain d l w => Sys2Proof.Machine.execDrain d l w s
  | .drainStart d l => Sys2Proof.Machine.execDrainStart d l s
  | .drainDone d l => Sys2Proof.Machine.execDrainDone d l s
  | .loadw d l w => Sys2Proof.Machine.execLoadw d l w s
  | .privateRecordLoaded d l b => Sys2Proof.Machine.execPrivateRecordLoaded d l b s
  | .markPost d l w => Sys2Proof.Machine.execMarkPost d l w s
  | .markWait d l w => Sys2Proof.Machine.execMarkWait d l w s
  | .rearm d l w => Sys2Proof.Machine.execRearm d l w s
  | .bundleOpen d l n => Sys2Proof.Machine.execBundleOpen d l n s
  | .bundleClose d l n => Sys2Proof.Machine.execBundleClose d l n s
  | .bellWait d l w => Sys2Proof.Machine.execBellWait d l w s
  | .basketPut d l w => Sys2Proof.Machine.execBasketPut d l w s
  | .ballast d l cycles => Sys2Proof.Machine.execBallast d l cycles s
  | .halt d l restart => Sys2Proof.Machine.execHalt d l restart s
  | .dutyHoldExpiry d l => Sys2Proof.Machine.execDutyHoldExpiry d l s
  | .dutyStepDown d l => Sys2Proof.Machine.execDutyStepDown d l s
  | .dutyStepUp d l => Sys2Proof.Machine.execDutyStepUp d l s
  | .transferIssue d u st => Sys2Proof.Machine.execTransferIssue d u st s
  | .transferComplete d u st t => Sys2Proof.Machine.execTransferComplete d u st t s
  | .roundItemTake d c => Sys2Proof.Machine.execRoundItemTake d c s
  | .roundItemArrival d c => Sys2Proof.Machine.execRoundItemArrival d c s
  | .roundItemForward d c => Sys2Proof.Machine.execRoundItemForward d c s
  | .roundRelease d c => Sys2Proof.Machine.execRoundRelease d c s
  | .roundCredit d c => Sys2Proof.Machine.execRoundCredit d c s
  | .checkGo => Sys2Proof.Machine.execCheckGo s
  | .imageCheckDone found => Sys2Proof.Machine.execImageCheckDone found s
  | .abort => Sys2Proof.Machine.execAbort s
  | .load => Sys2Proof.Machine.execLoad s
  | .run => Sys2Proof.Machine.execRun s
  | .budgetExpiry d l => Sys2Proof.Machine.execBudgetExpiry d l s
  | .breachStamp => Sys2Proof.Machine.execBreachStamp s
  | .replayResume => Sys2Proof.Machine.execReplayResume s
  | .stepBarrier => Sys2Proof.Machine.execStepBarrier s
  | .programHalted => Sys2Proof.Machine.execProgramHalted s
  | .fetchSend d e => Sys2Proof.Machine.execFetchSend d e s
  | .weightFrame p h udp => Sys2Proof.Machine.execWeightFrame p h udp s
  | .arriveUsExpiry d e => Sys2Proof.Machine.execArriveUsExpiry d e s
  | .keyErase d mask => Sys2Proof.Machine.execKeyErase d mask s
  | .keyEraseApply d => Sys2Proof.Machine.execKeyEraseApply d s
  | .dieReady d b => Sys2Proof.Machine.execDieReady d b s
  | .readyStamp d b lateness => Sys2Proof.Machine.execReadyStamp d b lateness s
  | .deadlineExpiry b => Sys2Proof.Machine.execDeadlineExpiry b s
  | .includedReceive d b => Sys2Proof.Machine.execIncludedReceive d b s
  | .chunkLevelStart d k b => Sys2Proof.Machine.execChunkLevelStart d k b s
  | .chunkLevelDone d k b => Sys2Proof.Machine.execChunkLevelDone d k b s
  | .engineStageDone b => Sys2Proof.Machine.execEngineStageDone b s
  | .levelSatWindow d => Sys2Proof.Machine.execLevelSatWindow d s
  | .nonSloubPacket p => Sys2Proof.Machine.execNonSloubPacket p s
  | .neighborSolicitation p target => Sys2Proof.Machine.execNeighborSolicitation p target s
  | .pauseFrame p => Sys2Proof.Machine.execPauseFrame p s
  | .openRequestFrame p h udp => Sys2Proof.Machine.execOpenRequestFrame p h udp s
  | .openAcceptFrame p h udp => Sys2Proof.Machine.execOpenAcceptFrame p h udp s
  | .closeFrame p h udp => Sys2Proof.Machine.execCloseFrame p h udp s
  | .refuseFrame p h udp => Sys2Proof.Machine.execRefuseFrame p h udp s
  | .nackFrame p h udp => Sys2Proof.Machine.execNackFrame p h udp s
  | .creditFrame p h udp => Sys2Proof.Machine.execCreditFrame p h udp s
  | .frameEgress p f => Sys2Proof.Machine.execFrameEgress p f s
  | .openReq p f => Sys2Proof.Machine.execOpenReq p f s
  | .slotEligible p f => Sys2Proof.Machine.execSlotEligible p f s
  | .closeReq p f => Sys2Proof.Machine.execCloseReq p f s
  | .purge => Sys2Proof.Machine.execPurge s
  | .rtoExpiry p f => Sys2Proof.Machine.execRtoExpiry p f s
  | .ackDelayExpiry p f => Sys2Proof.Machine.execAckDelayExpiry p f s
  | .writeOffExpiry p f => Sys2Proof.Machine.execWriteOffExpiry p f s
  | .shutterCreditTick p => Sys2Proof.Machine.execShutterCreditTick p s
  | .linkDown p => Sys2Proof.Machine.execLinkDown p s
  | .linkUp p => Sys2Proof.Machine.execLinkUp p s
  | .portHoldExpiry p => Sys2Proof.Machine.execPortHoldExpiry p s
  | .bndOpen engine => Sys2Proof.Machine.execBndOpen engine s
  | .bndCommit engine => Sys2Proof.Machine.execBndCommit engine s
  | .bndAbort engine => Sys2Proof.Machine.execBndAbort engine s
  | .bundlePrepare r p => Sys2Proof.Machine.execBundlePrepare r p s
  | .blockHoldReady r p page => Sys2Proof.Machine.execBlockHoldReady r p page s
  | .bundleReady r p => Sys2Proof.Machine.execBundleReady r p s
  | .bundleNak r p => Sys2Proof.Machine.execBundleNak r p s
  | .bundleApply r p => Sys2Proof.Machine.execBundleApply r p s
  | .bundleAbortReceive r p => Sys2Proof.Machine.execBundleAbortReceive r p s
  | .commitWindowExpiry r => Sys2Proof.Machine.execCommitWindowExpiry r s
  | .ledgerCheck d l => Sys2Proof.Machine.execLedgerCheck d l s
  | .heartbeat answers => Sys2Proof.Machine.execHeartbeat answers s
  | .selfTestDone d slot ok => Sys2Proof.Machine.execSelfTestDone d slot ok s
  | .remapReq => Sys2Proof.Machine.execRemapReq s
  | .dieOutSet d => Sys2Proof.Machine.execDieOutSet d s
  | .dieReadmit d => Sys2Proof.Machine.execDieReadmit d s
  | .portMoveClear p => Sys2Proof.Machine.execPortMoveClear p s
  | .flitResendFail w dir g => Sys2Proof.Machine.execFlitResendFail w dir g s
  | .retrainDone w dir g => Sys2Proof.Machine.execRetrainDone w dir g s
  | .laneError w dir g lane => Sys2Proof.Machine.execLaneError w dir g lane s
  | .laneWindowExpiry w dir g lane => Sys2Proof.Machine.execLaneWindowExpiry w dir g lane s
  | .laneSwapDone w dir g => Sys2Proof.Machine.execLaneSwapDone w dir g s
  | .waleRelayDone => Sys2Proof.Machine.execWaleRelayDone s
  | .quarterRailShort d q => Sys2Proof.Machine.execQuarterRailShort d q s
  | .spineRailShort d => Sys2Proof.Machine.execSpineRailShort d s
  | .prsntNRelease => Sys2Proof.Machine.execPrsntNRelease s
  | .prsntNAssert => Sys2Proof.Machine.execPrsntNAssert s
  | .vinOutOfRange mv => Sys2Proof.Machine.execVinOutOfRange mv s
  | .vinRecover mv => Sys2Proof.Machine.execVinRecover mv s
  | .vinLoss => Sys2Proof.Machine.execVinLoss s
  | .capWindowEnd avgW mv da => Sys2Proof.Machine.execCapWindowEnd avgW mv da s
  | .stepLower => Sys2Proof.Machine.execStepLower s
  | .capdownAssert => Sys2Proof.Machine.execCapdownAssert s
  | .capdownRelease => Sys2Proof.Machine.execCapdownRelease s
  | .capdownGroupStep => Sys2Proof.Machine.execCapdownGroupStep s
  | .slewInterval avgDa => Sys2Proof.Machine.execSlewInterval avgDa s
  | .shutterReqNChange asserted => Sys2Proof.Machine.execShutterReqNChange asserted s
  | .shutter => Sys2Proof.Machine.execShutter s
  | .wake => Sys2Proof.Machine.execWake s
  | .shutterEntry => Sys2Proof.Machine.execShutterEntry s
  | .shutterWaitExpiry => Sys2Proof.Machine.execShutterWaitExpiry s
  | .shutterWake => Sys2Proof.Machine.execShutterWake s
  | .wakeComplete late => Sys2Proof.Machine.execWakeComplete late s
  | .tempSample d q qc => Sys2Proof.Machine.execTempSample d q qc s
  | .thermalTrip d q => Sys2Proof.Machine.execThermalTrip d q s
  | .ceilingStep => Sys2Proof.Machine.execCeilingStep s
  | .dramTempThreshold d c => Sys2Proof.Machine.execDramTempThreshold d c s
  | .tripRearm d q => Sys2Proof.Machine.execTripRearm d q s
  | .quarterStartDone d q => Sys2Proof.Machine.execQuarterStartDone d q s
  | .scrubWalkStep d w => Sys2Proof.Machine.execScrubWalkStep d w s
  | .scrubRewrite d => Sys2Proof.Machine.execScrubRewrite d s
  | .scrubNow d => Sys2Proof.Machine.execScrubNow d s
  | .ceWindowExpiry page => Sys2Proof.Machine.execCeWindowExpiry page s
  | .apertureRead off len => Sys2Proof.Machine.execApertureRead off len s
  | .apertureWrite off data => Sys2Proof.Machine.execApertureWrite off data s
  | .ctlWrite page data => Sys2Proof.Machine.execCtlWrite page data s
  | .blockDrainDone page => Sys2Proof.Machine.execBlockDrainDone page s
  | .blockStartDone page => Sys2Proof.Machine.execBlockStartDone page s
  | .endpointReset linkLost => Sys2Proof.Machine.execEndpointReset linkLost s
  | .powerApplied ga prsnt bankA bankB => Sys2Proof.Machine.execPowerApplied ga prsnt bankA bankB s
  | .dieBootDone d ucodeOk layersOk => Sys2Proof.Machine.execDieBootDone d ucodeOk layersOk s
  | .bootTimeout d => Sys2Proof.Machine.execBootTimeout d s
  | .gaSample ga => Sys2Proof.Machine.execGaSample ga s
  | .leidCommit => Sys2Proof.Machine.execLeidCommit s
  | .keeperShutter => Sys2Proof.Machine.execKeeperShutter s
  | .keeperWake => Sys2Proof.Machine.execKeeperWake s
  | .cap w => Sys2Proof.Machine.execCap w s
  | .keeperDrain => Sys2Proof.Machine.execKeeperDrain s
  | .identify secs => Sys2Proof.Machine.execIdentify secs s
  | .adoptLeid leid hall row rack => Sys2Proof.Machine.execAdoptLeid leid hall row rack s
  | .adoptTimeExpiry => Sys2Proof.Machine.execAdoptTimeExpiry s
  | .healthRecordRefresh => Sys2Proof.Machine.execHealthRecordRefresh s
  | .healthRecordRequest => Sys2Proof.Machine.execHealthRecordRequest s
  | .readHealth => Sys2Proof.Machine.execReadHealth s
  | .mailboxIdentify => Sys2Proof.Machine.execMailboxIdentify s
  | .readLog index => Sys2Proof.Machine.execReadLog index s
  | .readRepair index => Sys2Proof.Machine.execReadRepair index s
  | .mailboxDone => Sys2Proof.Machine.execMailboxDone s
  | .pldmFwUpdate ucode img => Sys2Proof.Machine.execPldmFwUpdate ucode img s
  | .activateFirmware => Sys2Proof.Machine.execActivateFirmware s
  | .getSensorReading sensor => Sys2Proof.Machine.execGetSensorReading sensor s
  | .getVersion => Sys2Proof.Machine.execGetVersion s
  | .getCapabilities => Sys2Proof.Machine.execGetCapabilities s
  | .negotiateAlgorithms => Sys2Proof.Machine.execNegotiateAlgorithms s
  | .getDigests => Sys2Proof.Machine.execGetDigests s
  | .getCertificate slot => Sys2Proof.Machine.execGetCertificate slot s
  | .challenge nonce => Sys2Proof.Machine.execChallenge nonce s
  | .getMeasurements index nonce => Sys2Proof.Machine.execGetMeasurements index nonce s
  | .keyRequest nonce keyId slot mask => Sys2Proof.Machine.execKeyRequest nonce keyId slot mask s
  | .keyDeliver offer ct wrapped => Sys2Proof.Machine.execKeyDeliver offer ct wrapped s
  | .offerLapse offer => Sys2Proof.Machine.execOfferLapse offer s
  | .meterSample mv da mj => Sys2Proof.Machine.execMeterSample mv da mj s
  | .meterWindowEnd => Sys2Proof.Machine.execMeterWindowEnd s
  | .snap => Sys2Proof.Machine.execSnap s
  | .workReport r => Sys2Proof.Machine.execWorkReport r s
  | .reportTimeout => Sys2Proof.Machine.execReportTimeout s
  | .earlyClose => Sys2Proof.Machine.execEarlyClose s
  | .final => Sys2Proof.Machine.execFinal s
  | .finalTimeout => Sys2Proof.Machine.execFinalTimeout s
  | .recordStored => Sys2Proof.Machine.execRecordStored s
  | .meterStatus m => Sys2Proof.Machine.execMeterStatus m s
  | .meterStatusTimeout => Sys2Proof.Machine.execMeterStatusTimeout s
  | .meterPrsntChange present => Sys2Proof.Machine.execMeterPrsntChange present s
  | .sealOpened => Sys2Proof.Machine.execSealOpened s
  | .readStatus => Sys2Proof.Machine.execReadStatus s
  | .readRecord seq => Sys2Proof.Machine.execReadRecord seq s
  | .readCert index => Sys2Proof.Machine.execReadCert index s
  | .setInterval secs => Sys2Proof.Machine.execSetInterval secs s
  | .updateFw img => Sys2Proof.Machine.execUpdateFw img s
  | .identifyIndicatorExpiry => Sys2Proof.Machine.execIdentifyIndicatorExpiry s
  | .pcieLinkUp => Sys2Proof.Machine.execPcieLinkUp s
  | .powerStateChange d3hot => Sys2Proof.Machine.execPowerStateChange d3hot s

end Sys2Proof.Machine
end

