-- ==== Sys2Proof/Safety.lean ====
section
/-! DEFINITION. What counts as a safe state, in the terms claims use: the ledgers balance (R325, R327), and
engine memory is in its canonical form; and when a command completes. -/

namespace Sys2Proof.Machine

/-- Every ledger's sum is zero (R327). -/
def State.balanced (s : State) : Prop := ∀ d cls i, (s.ledger d cls i).sum = 0

/-- Engine memory is in its canonical form. -/
def Mem.wf (m : Mem) : Bool := SMap.wf 0 m.bytes && SMap.wf false m.poison && SMap.wf 0 m.upsets

/-- What every command keeps: ledgers that balance and a memory in canonical form. -/
def State.safe (s : State) : Prop := s.balanced ∧ s.mem.wf = true

/-- An outcome is a next state. -/
def Proceeds (o : Host.Outcome State Fault Refusal) : Prop := ∃ t, o = .next t

/-- A command answers a next state, of which something holds. -/
def Completes (c : Instr) (s : State) (p : State → Prop) : Prop := ∃ t, exec c s = .next t ∧ p t

/-- A command answers exactly the next state `t`, with CHANGE_SEQ counted where a LEVEL or FAULT changed (R409). -/
def Gives (c : Instr) (s t : State) : Prop := exec c s = .next (s.finish t)

/-- A host access of four bytes at register `off` of page `page` reaches the endpoint (R395, R397). -/
def State.reaches (s : State) (a : BitVec 26) (page off : Nat) : Prop :=
  s.host.linkUp = true ∧ s.host.d3hot = false ∧ a.toNat = 4096 * page + off ∧ off < 4096 ∧ off % 4 = 0

/-- A register that acts by its access codes alone, in the page and row given, is written in a page that takes
writes. -/
def State.plainWrite (s : State) (k : PageKind) (page off : Nat) (r : RegRow) : Prop :=
  s.takesWrites page = true ∧ pageKind page = some k ∧ regRow k off = some r ∧ off ≠ 8 ∧ r.wo = 0

/-- The step of the ARITH clock lies within the thermal ceiling, and that within its range (R384). -/
def Pwr.within (p : Pwr) : Prop := p.step ≤ p.ceil ∧ p.ceil ≤ 72

end Sys2Proof.Machine
end

