-- ==== Sys2Proof/WellFormed.lean ====
section
/-! DEFINITION. Which commands are well formed: operands that the operation table's row can have. What a
meaning does with an ill-formed command is nothing special: the checks say what a sender keeps to. -/

namespace Sys2Proof

open Sys2Proof.Machine

/-- A host access lies within BAR0 and has one to eight bytes (R397). -/
def accessOk (addr : BitVec 26) (len : Fin 9) : Bool := decide (1 ≤ len.val) && decide (addr.toNat + len.val ≤ 2 ^ 26)

/-- A page index that Table 16.1 assigns (R396). -/
def pageOk (page : Nat) : Bool := (pageKind page).isSome

/-- No cell of the array is named twice. -/
def cellsOk (err : List CellErr) : Bool := decide ((err.map fun e => (e.row, e.col)).Nodup)

/-- A program bundle's participants are dies; the slath is one of a context alone (R322). -/
def refOk (r : BndRef) (p : Fin 65) : Bool := match r with | .ctx _ => true | .prog _ => decide (p.val < 64)

/-- The operands are those that the row's command can have. -/
def Instr.wf (i : Instr) : Bool :=
  match i with
  | .loRead a n => accessOk a n
  | .hiWrite a n _ => accessOk a n
  | .loWrite a n _ => accessOk a n
  | .w1cWrite a n _ _ => accessOk a n
  | .rcRead a n => accessOk a n
  | .rsWrite a n _ => accessOk a n
  | .registerWrite a n _ => accessOk a n
  | .ledgerSampleRead a n => accessOk a n
  | .pass _ _ w => passOk w
  | .preloadDone .. => true
  | .passRunEnd .. => true
  | .steelyardCheck _ _ _ err => cellsOk err
  | .styWindowExpiry .. => true
  | .replayedPassCheck _ _ _ err => cellsOk err
  | .broadcastStart .. => true
  | .bankFull .. => true
  | .tileWindowOpen .. => true
  | .tileWindowClose .. => true
  | .bcastSlotRelease .. => true
  | .writebackStart .. => true
  | .writebackDone .. => true
  | .drain d _ w => (CmdWord.drain w).ok d.val
  | .drainStart .. => true
  | .drainDone .. => true
  | .loadw d _ w => (CmdWord.loadw w).ok d.val
  | .privateRecordLoaded .. => true
  | .markPost .. => true
  | .markWait .. => true
  | .rearm d _ w => (CmdWord.rearm w).ok d.val
  | .bundleOpen .. => true
  | .bundleClose .. => true
  | .bellWait d _ w => (CmdWord.bell w).ok d.val
  | .basketPut d _ w => (CmdWord.put w).ok d.val
  | .ballast d _ n => (CmdWord.ballast n.toNat).ok d.val
  | .halt .. => true
  | .dutyHoldExpiry .. => true
  | .dutyStepDown .. => true
  | .dutyStepUp .. => true
  | .transferIssue .. => true
  | .transferComplete .. => true
  | .roundItemTake .. => true
  | .roundItemArrival .. => true
  | .roundItemForward .. => true
  | .roundRelease .. => true
  | .roundCredit .. => true
  | .checkGo => true
  | .imageCheckDone .. => true
  | .abort => true
  | .load => true
  | .run => true
  | .budgetExpiry .. => true
  | .breachStamp => true
  | .replayResume => true
  | .stepBarrier => true
  | .programHalted => true
  | .fetchSend .. => true
  | .weightFrame .. => true
  | .arriveUsExpiry .. => true
  | .keyErase .. => true
  | .keyEraseApply .. => true
  | .dieReady .. => true
  | .readyStamp .. => true
  | .deadlineExpiry .. => true
  | .includedReceive .. => true
  | .chunkLevelStart .. => true
  | .chunkLevelDone .. => true
  | .engineStageDone .. => true
  | .levelSatWindow .. => true
  | .nonSloubPacket .. => true
  | .neighborSolicitation .. => true
  | .pauseFrame .. => true
  | .openRequestFrame .. => true
  | .openAcceptFrame .. => true
  | .closeFrame .. => true
  | .refuseFrame .. => true
  | .nackFrame .. => true
  | .creditFrame .. => true
  | .frameEgress .. => true
  | .openReq .. => true
  | .slotEligible .. => true
  | .closeReq .. => true
  | .purge => true
  | .rtoExpiry .. => true
  | .ackDelayExpiry .. => true
  | .writeOffExpiry .. => true
  | .shutterCreditTick .. => true
  | .linkDown .. => true
  | .linkUp .. => true
  | .portHoldExpiry .. => true
  | .bndOpen .. => true
  | .bndCommit .. => true
  | .bndAbort .. => true
  | .bundlePrepare r p => refOk r p
  | .blockHoldReady r p page => refOk r p && pageOk page
  | .bundleReady r p => refOk r p
  | .bundleNak r p => refOk r p
  | .bundleApply r p => refOk r p
  | .bundleAbortReceive r p => refOk r p
  | .commitWindowExpiry .. => true
  | .ledgerCheck _ l => decide (l.idx.val < ledgerCount l.cls)
  | .heartbeat .. => true
  | .selfTestDone .. => true
  | .remapReq => true
  | .dieOutSet .. => true
  | .dieReadmit .. => true
  | .portMoveClear .. => true
  | .flitResendFail .. => true
  | .retrainDone .. => true
  | .laneError .. => true
  | .laneWindowExpiry .. => true
  | .laneSwapDone .. => true
  | .waleRelayDone => true
  | .quarterRailShort .. => true
  | .spineRailShort .. => true
  | .prsntNRelease => true
  | .prsntNAssert => true
  | .vinOutOfRange .. => true
  | .vinRecover .. => true
  | .vinLoss => true
  | .capWindowEnd .. => true
  | .stepLower => true
  | .capdownAssert => true
  | .capdownRelease => true
  | .capdownGroupStep => true
  | .slewInterval .. => true
  | .shutterReqNChange .. => true
  | .shutter => true
  | .wake => true
  | .shutterEntry => true
  | .shutterWaitExpiry => true
  | .shutterWake => true
  | .wakeComplete .. => true
  | .tempSample .. => true
  | .thermalTrip .. => true
  | .ceilingStep => true
  | .dramTempThreshold .. => true
  | .tripRearm .. => true
  | .quarterStartDone .. => true
  | .scrubWalkStep .. => true
  | .scrubRewrite .. => true
  | .scrubNow .. => true
  | .ceWindowExpiry page => pageOk page
  | .apertureRead off len => decide (1 ≤ len) && decide (off.toNat + len ≤ 2 ^ 36)
  | .apertureWrite off data => decide (1 ≤ data.length) && decide (off.toNat + data.length ≤ 2 ^ 36)
  | .ctlWrite page _ => ctlPage page
  | .blockDrainDone page => ctlPage page
  | .blockStartDone page => ctlPage page
  | .endpointReset .. => true
  | .powerApplied .. => true
  | .dieBootDone .. => true
  | .bootTimeout .. => true
  | .gaSample .. => true
  | .leidCommit => true
  | .keeperShutter => true
  | .keeperWake => true
  | .cap .. => true
  | .keeperDrain => true
  | .identify .. => true
  | .adoptLeid .. => true
  | .adoptTimeExpiry => true
  | .healthRecordRefresh => true
  | .healthRecordRequest => true
  | .readHealth => true
  | .mailboxIdentify => true
  | .readLog .. => true
  | .readRepair .. => true
  | .mailboxDone => true
  | .pldmFwUpdate .. => true
  | .activateFirmware => true
  | .getSensorReading .. => true
  | .getVersion => true
  | .getCapabilities => true
  | .negotiateAlgorithms => true
  | .getDigests => true
  | .getCertificate .. => true
  | .challenge nonce => decide (nonce.length = 32)
  | .getMeasurements _ nonce => decide (nonce.length = 32)
  | .keyRequest nonce _ _ _ => decide (nonce.length = 32)
  | .keyDeliver .. => true
  | .offerLapse .. => true
  | .meterSample .. => true
  | .meterWindowEnd => true
  | .snap => true
  | .workReport .. => true
  | .reportTimeout => true
  | .earlyClose => true
  | .final => true
  | .finalTimeout => true
  | .recordStored => true
  | .meterStatus .. => true
  | .meterStatusTimeout => true
  | .meterPrsntChange .. => true
  | .sealOpened => true
  | .readStatus => true
  | .readRecord .. => true
  | .readCert .. => true
  | .setInterval .. => true
  | .updateFw .. => true
  | .identifyIndicatorExpiry => true
  | .pcieLinkUp => true
  | .powerStateChange .. => true

end Sys2Proof
end

