-- ==== Sys2Proof/Certificates/Slice0/Obligations.lean ====
section
/-! DEFINITION. The statements for the provers: the machine and its invariants, then the commands family by
family: where each has its own effect, and what it leaves alone. -/

open Sys2Proof Sys2Proof.Machine

namespace Sys2Proof.Machine

/-- From `s` to `t` only the slot `p` of die `d`, the registers and the counters may differ. -/
def State.onlySlot (s t : State) (d p : Nat) : Prop :=
  t = { s with stalls := t.stalls, regs := t.regs, cnt := t.cnt, host := { s.host with changes := t.host.changes } } ∧
  ∀ e r, 72 * e + r ≠ 72 * d + p → t.slot e r = s.slot e r

/-- No adoption is under way. -/
def State.noAdoption (s : State) : Prop := s.keeper.adopt = none ∧ s.keeper.adopting = false

/-- A port takes an unsequenced frame of a type for a slot (Table 12.4), and its ACK acknowledges nothing new. -/
def State.takesV0 (s : State) (p : Nat) (k : Packet) (type : BitVec 4) : Prop :=
  s.rxMay p k.hdr = true ∧ s.rxOuter p k.hdr = none ∧ s.rxSlot p k.hdr = true ∧ k.hdr.type = type ∧
  ∀ e ∈ (s.flow p k.hdr.flow.toNat).kept, 2 ^ 31 ≤ (k.hdr.ack - e.frame.seq - 1).toNat

/-- What the sequencer does when it moves on to the next word, with state `st`. -/
def Stall.movedOn (x y : Stall) (st : SeqSt) : Prop :=
  y.cmdIndex = x.cmdIndex + 1 ∧ y.seq = st ∧ y.waiting = x.waiting.filter (·.1 != x.cmdIndex)

/-- Commands of a stall's tiles, windows and duty that read and write no memory. -/
def stallOnly (c : Instr) : Bool :=
  match c with
  | .passRunEnd .. | .writebackStart .. | .styWindowExpiry .. | .tileWindowOpen .. | .dutyHoldExpiry ..
  | .dutyStepDown .. | .dutyStepUp .. => true
  | _ => false

/-- Words of a stall's stream, and commands that move the data of tiles between a stall and its scratchpad. -/
def stallData (c : Instr) : Bool :=
  match c with
  | .pass .. | .drain .. | .loadw .. | .bundleOpen .. | .ballast .. | .halt .. | .preloadDone .. | .writebackDone ..
  | .drainStart .. | .drainDone .. | .privateRecordLoaded .. | .tileWindowClose .. => true
  | _ => false

/-- Commands of streams and round contexts. -/
def streamRound (c : Instr) : Bool :=
  match c with
  | .transferIssue .. | .transferComplete .. | .roundItemTake .. | .roundItemArrival .. | .roundItemForward ..
  | .roundRelease .. | .roundCredit .. => true
  | _ => false

/-- Commands of the meter and its port. -/
def meterOnly (c : Instr) : Bool :=
  match c with
  | .meterSample .. | .meterWindowEnd | .snap | .workReport .. | .reportTimeout | .earlyClose | .final
  | .finalTimeout | .recordStored | .setInterval .. | .readStatus | .readRecord .. | .readCert .. | .updateFw .. => true
  | _ => false

/-- Commands that the keeper answers or records on its own. -/
def keeperTalk (c : Instr) : Bool :=
  match c with
  | .gaSample .. | .cap .. | .identify .. | .identifyIndicatorExpiry | .adoptTimeExpiry | .portMoveClear ..
  | .healthRecordRequest | .readHealth | .mailboxIdentify | .readLog .. | .readRepair .. | .mailboxDone
  | .pldmFwUpdate .. | .activateFirmware | .getSensorReading .. | .getVersion | .getCapabilities
  | .negotiateAlgorithms | .getDigests | .getCertificate .. | .challenge .. | .getMeasurements ..
  | .keyRequest .. | .offerLapse .. => true
  | _ => false

/-- Commands of the power controller, the clocks and the temperature sensors that switch nothing. -/
def powerStep (c : Instr) : Bool :=
  match c with
  | .vinOutOfRange .. | .vinRecover .. | .capWindowEnd .. | .stepLower | .capdownAssert | .capdownRelease
  | .capdownGroupStep | .slewInterval .. | .tempSample .. | .ceilingStep => true
  | _ => false

/-- Commands of a wale's lanes. -/
def waleLane (c : Instr) : Bool :=
  match c with
  | .flitResendFail .. | .retrainDone .. | .laneError .. | .laneWindowExpiry .. | .laneSwapDone .. => true
  | _ => false

/-- Commands of the scrubber and the aperture. -/
def memoryWork (c : Instr) : Bool :=
  match c with
  | .scrubWalkStep .. | .scrubRewrite .. | .scrubNow .. | .ceWindowExpiry .. | .apertureRead ..
  | .apertureWrite .. => true
  | _ => false

/-- Commands of flows, weight walks, baskets and bundles that switch no block. -/
def dataWork (c : Instr) : Bool :=
  match c with
  | .openRequestFrame .. | .openAcceptFrame .. | .closeFrame .. | .refuseFrame .. | .nackFrame .. | .creditFrame ..
  | .weightFrame .. | .frameEgress .. | .openReq .. | .slotEligible .. | .closeReq .. | .purge | .rtoExpiry ..
  | .ackDelayExpiry .. | .writeOffExpiry .. | .shutterCreditTick .. | .fetchSend .. | .arriveUsExpiry ..
  | .dieReady .. | .readyStamp .. | .deadlineExpiry .. | .includedReceive .. | .chunkLevelStart ..
  | .chunkLevelDone .. | .levelSatWindow .. | .bndOpen .. | .bndCommit .. | .bndAbort .. | .bundlePrepare ..
  | .blockHoldReady .. | .bundleReady .. | .bundleNak .. | .bundleAbortReceive .. | .commitWindowExpiry .. => true
  | _ => false

end Sys2Proof.Machine

/-! ### The machine -/

/-- A step takes the command at the front of the queue and answers its effect on the state with the queue's
rest. -/
def Obligations.StepRunsFrontCommand : Prop :=
  ∀ (s : State) (c : Instr) (r : List Instr),
    step { s with pending := c :: r } = exec c { s with pending := r }

/-- On an empty queue the block idles: the model's choice (log entry 3). -/
def Obligations.EmptyQueueIdles : Prop := ∀ s : State, s.pending = [] → step s = .next s

/-- Every command has its effect in every state: the block never stops. -/
def Obligations.EveryStepProceeds : Prop := ∀ s : State, Proceeds (step s)

/-- A step takes one command from the front of the queue and no command touches the queue. -/
def Obligations.QueueTakenInOrder : Prop :=
  ∀ s t : State, step s = .next t → t.pending = s.pending.tail

/-- R326, R328: whatever command runs, from any state whose ledgers balance, they balance afterwards. -/
def Obligations.LedgersStayBalanced : Prop :=
  ∀ s t : State, s.balanced → step s = .next t → t.balanced

/-- Engine memory keeps its one canonical form, so that equal memories are equal data. -/
def Obligations.MemoryStaysCanonical : Prop :=
  ∀ s t : State, s.mem.wf = true → step s = .next t → t.mem.wf = true

/-- R434: ENERGY_TOTAL never decreases and is never reset, by any command. -/
def Obligations.EnergyTotalNeverFalls : Prop :=
  ∀ s t : State, step s = .next t → s.meter.total ≤ t.meter.total

/-- R446: the SVN fuse never decreases, by any command. -/
def Obligations.FusesNeverFall : Prop :=
  ∀ s t : State, step s = .next t → s.sec.svnFuse.toNat ≤ t.sec.svnFuse.toNat

/-- R384: no command leaves the ARITH step above the thermal ceiling, nor the ceiling above 72. -/
def Obligations.StepNeverAboveCeiling : Prop :=
  ∀ s t : State, s.pwr.within → step s = .next t → t.pwr.within

/-- After reset the ledgers balance, memory is canonical, the ARITH step is within its ceiling, and no
command waits. -/
def Obligations.ResetMeetsInvariants : Prop :=
  State.reset.balanced ∧ State.reset.mem.wf = true ∧ State.reset.pwr.within ∧ State.reset.pending = []

/-- The registers with a reset value other than zero, after reset, on every die, slot and port (Tables 3.4,
6.5, 6.7, 12.11, 14.8, 15.9 to 15.12, 8.12). -/
def Obligations.ResetRegisters : Prop :=
  (∀ d p : Nat, d < 64 → p < 72 →
    State.reset.reg (pgStall d p) 0x048 = 0x00141214 ∧ State.reset.reg (pgStall d p) 0x04C = 0x03E80004 ∧
    State.reset.reg (pgStall d p) 0x050 = 0x000007D0 ∧ State.reset.reg (pgStall d p) 0x054 = 0) ∧
  (∀ d : Nat, d < 64 → State.reset.reg (pgDram d) 0x048 = 0x003C0100 ∧
    State.reset.reg (pgScrub d) 0x040 = 0x00400010 ∧ State.reset.reg (pgScrub d) 0x044 = 0x00000400) ∧
  (∀ p : Nat, p < 64 → State.reset.reg (pgPort p) 0x040 = 0xC5B0 ∧ State.reset.reg (pgPort p) 0x068 = 0x0408) ∧
  State.reset.reg pgPower 0x040 = 21000 ∧ State.reset.reg pgClocks 0x040 = 72 ∧
  State.reset.reg pgThermal 0x040 = 1 ∧ State.reset.reg pgShutter 0x044 = 1000 ∧
  State.reset.reg pgProgram 0x05C = 2 ∧ State.reset.reg pgSpareMap 0x058 = 200

/-- R132, R134: a word written whole is read as it was written, poison included, and no other word
changes. -/
def Obligations.MemoryReadAfterWrite : Prop :=
  ∀ (s : State) (w u : Nat) (v : MWord),
    (s.putWord w v).peek w = v ∧ (u ≠ w → (s.putWord w v).peek u = s.peek u)

/-! ### Registers at the host interface -/

/-- From R7, R8. A write of an RW register takes its RW bits and leaves reserved and read-only bits; no other register
changes. (Pages whose RW registers do more than hold a value, BUNDLE, KEEPER_MAILBOX and SCRUB, and the LO of
a pair have statements of their own.) -/
def Obligations.RegisterWriteTakesRwBits : Prop :=
  ∀ (s : State) (a : BitVec 26) (v : Word) (k : PageKind) (page off : Nat) (r : RegRow),
    s.reaches a page off → s.plainWrite k page off r → r.rs = 0 → r.w1c = 0 → r.pair = false →
    regIsHi k off = false → page ≠ pgBundle → page ≠ pgMailbox → k ≠ .scrub →
    Completes (.registerWrite a 4 v) s fun t =>
      t.reg page off = (s.reg page off &&& ~~~r.rw) ||| (v &&& r.rw) ∧
      (∀ p o, regKey p o ≠ regKey page off → t.reg p o = s.reg p o) ∧
      t = { s with regs := t.regs, cnt := t.cnt, host := { s.host with changes := t.host.changes } }

/-- From R6. A write of the HI of a pair is held, and changes nothing else; a write of the LO applies both. -/
def Obligations.PairWritesApplyTogether : Prop :=
  (∀ (s : State) (a : BitVec 26) (v : Word) (k : PageKind) (page off : Nat) (r : RegRow),
    s.reaches a page off → s.plainWrite k page off r → regIsHi k off = true → r.rw ||| r.rs ≠ 0 →
    Completes (.hiWrite a 4 v) s fun t =>
      SMap.get none t.host.held (regKey page off) = some v ∧
      t = { s with cnt := t.cnt, host := { s.host with held := t.host.held, changes := t.host.changes } }) ∧
  (∀ (s : State) (a : BitVec 26) (v w : Word) (k : PageKind) (page off : Nat) (r h : RegRow),
    s.reaches a page off → s.plainWrite k page off r → r.pair = true → regIsHi k off = false →
    regRow k (off + 4) = some h → r.rs = 0 → r.w1c = 0 → h.rs = 0 → h.w1c = 0 → h.wo = 0 →
    page ≠ pgBundle → page ≠ pgMailbox → k ≠ .scrub →
    SMap.get none s.host.held (regKey page (off + 4)) = some w →
    Completes (.loWrite a 4 v) s fun t =>
      t.reg page off = (s.reg page off &&& ~~~r.rw) ||| (v &&& r.rw) ∧
      t.reg page (off + 4) = (s.reg page (off + 4) &&& ~~~h.rw) ||| (w &&& h.rw) ∧
      SMap.get none t.host.held (regKey page (off + 4)) = none)

/-- From R8, R402. A W1C bit written 1 clears unless the engine sets it in the same cycle; a write that leaves
FAULT.CLASS all zero clears LAST_CODE and FAULT_FIRST. -/
def Obligations.W1cWriteClears : Prop :=
  ∀ (s : State) (a : BitVec 26) (v sets : Word) (k : PageKind) (page off : Nat) (r : RegRow),
    s.reaches a page off → s.plainWrite k page off r → r.w1c ≠ 0 → r.rs = 0 → r.rw = 0 → r.pair = false →
    regIsHi k off = false →
    Completes (.w1cWrite a 4 v sets) s fun t =>
      let new := s.reg page off &&& ~~~(v &&& r.w1c &&& ~~~sets)
      if off = rFault ∧ fieldOf new 10 1 = 0 then t.reg page off = 0 ∧ t.reg page rFaultFirst = 0
      else t.reg page off = new

/-- From R315. A write to an RS register goes to the staged copy of the open context whose bundle covers the page,
and the live register keeps its value; with no bundle open it is discarded and counted. -/
def Obligations.RsWriteOnlyStages : Prop :=
  (∀ (s : State) (a : BitVec 26) (v : Word) (k : PageKind) (page off : Nat) (r : RegRow),
    s.reaches a page off → s.plainWrite k page off r → r.rs ≠ 0 → r.rw = 0 → r.w1c = 0 → r.pair = false →
    regIsHi k off = false → page ≠ pgFlows →
    (s.bctx 0).st = .open → (s.bctx 0).covers page = true → (s.bctx 0).staged.length < 4096 →
    (s.bctx 0).staged.all (fun w => !(w.page == page && w.off == off)) = true →
    Completes (.rsWrite a 4 v) s fun t =>
      (t.bctx 0).staged = { page := page, off := off, val := v &&& r.rs, slot := 0 } :: (s.bctx 0).staged ∧
      t = { s with cnt := t.cnt, bnd := t.bnd, host := { s.host with changes := t.host.changes } }) ∧
  (∀ (s : State) (a : BitVec 26) (v : Word) (k : PageKind) (page off : Nat) (r : RegRow),
    s.reaches a page off → s.plainWrite k page off r → r.rs ≠ 0 → r.rw = 0 → r.w1c = 0 → r.pair = false →
    regIsHi k off = false → (∀ c, (s.bctx c).st ≠ .open) →
    Completes (.rsWrite a 4 v) s fun t =>
      (t.reg pgBundle 0x060).toNat = min 0xFFFFFFFF ((s.reg pgBundle 0x060).toNat + 1) ∧
      t = { s with cnt := t.cnt, regs := t.regs, host := { s.host with changes := t.host.changes } })

/-- From R6. A read of the LO of a pair returns LO and latches HI in the same cycle, and a later read of HI returns
what was latched. -/
def Obligations.LoReadLatchesHi : Prop :=
  (∀ (s : State) (a : BitVec 26) (k : PageKind) (page off : Nat),
    s.reaches a page off → s.readsPage page = true → pageKind page = some k → regIsHi k (off + 4) = true →
    regIsHi k off = false → ledgerPage page = false → rcBits page off = 0 →
    Completes (.loRead a 4) s fun t =>
      let u := s.noteAccess 1 a.toNat true
      t.out = s.out ++ [.readData a.toNat 4 (BitVec.ofNat 64 (u.view page off).toNat)] ∧
      SMap.get 0 t.host.latch (regKey page (off + 4)) = u.view page (off + 4) ∧ t.regs = s.regs) ∧
  (∀ (s : State) (a : BitVec 26) (page off : Nat),
    s.reaches a page off → s.readsPage page = true → latched page off = true → latched page (off + 4) = false →
    rcBits page off = 0 → (pageKind page).any (fun k => regIsHi k (off + 4)) = false →
    Completes (.loRead a 4) s fun t =>
      t.out = s.out ++ [.readData a.toNat 4 (BitVec.ofNat 64 (SMap.get 0 s.host.latch (regKey page off)).toNat)] ∧
      t.regs = s.regs)

/-- From R8. A read of an RC register returns its value and then clears it; no other register changes. -/
def Obligations.RcReadClears : Prop :=
  ∀ (s : State) (a : BitVec 26) (k : PageKind) (page off : Nat),
    s.reaches a page off → s.readsPage page = true → pageKind page = some k → rcBits page off ≠ 0 →
    regIsHi k off = false → regIsHi k (off + 4) = false → ledgerPage page = false → errPage page = false →
    Completes (.rcRead a 4) s fun t =>
      t.out = s.out ++ [.readData a.toNat 4 (BitVec.ofNat 64 ((s.noteAccess 1 a.toNat true).view page off).toNat)] ∧
      t.reg page off = s.reg page off &&& ~~~rcBits page off ∧
      (∀ p o, regKey p o ≠ regKey page off → t.reg p o = s.reg p o)

/-- From R331. A read of ISSUED_LO samples the four counts of the selected ledger in one cycle; no register and no
ledger changes. -/
def Obligations.LedgerReadSamples : Prop :=
  ∀ (s : State) (a : BitVec 26) (page : Nat),
    s.reaches a page 0x044 → s.readsPage page = true → ledgerPage page = true →
    Completes (.ledgerSampleRead a 4) s fun t =>
      let l := (s.noteAccess 1 a.toNat true).selLedger page
      SMap.get 0 t.host.sample (4 * page) = l.issued ∧ SMap.get 0 t.host.sample (4 * page + 1) = l.returned ∧
      SMap.get 0 t.host.sample (4 * page + 2) = l.held ∧ SMap.get 0 t.host.sample (4 * page + 3) = l.woff ∧
      t.regs = s.regs ∧ t.ledgers = s.ledgers

/-- From R395, R397. In D3hot a write is dropped and a read answers Unsupported Request; a write of another size
or alignment is discarded and counted. -/
def Obligations.IrregularAccesses : Prop :=
  (∀ (s : State) (a : BitVec 26) (n : Fin 9) (v : Word), s.host.linkUp = true → s.host.d3hot = true →
    Gives (.registerWrite a n v) s s ∧ Gives (.loRead a n) s (s.emit (.unsupported a.toNat))) ∧
  (∀ (s : State) (a : BitVec 26) (n : Fin 9) (v : Word), s.host.linkUp = true → s.host.d3hot = false →
    ¬(n = 4 ∧ a.toNat % 4 = 0) → Gives (.registerWrite a n v) s (s.noteAccess 2 a.toNat false)) ∧
  (∀ (s : State) (a : BitVec 26), s.counter pgSummary 1 + 1 =
    (s.noteAccess 2 a.toNat false).counter pgSummary 1)

/-- What host reads leave alone: everything but the messages, the free values, registers, counters and the
host's own latches and samples. -/
def Obligations.HostReadsFrame : Prop :=
  ∀ (s t : State) (a : BitVec 26) (n : Fin 9) (c : Instr),
    c = .loRead a n ∨ c = .rcRead a n ∨ c = .ledgerSampleRead a n → exec c s = .next t →
    t = { s with out := t.out, free := t.free, regs := t.regs, cnt := t.cnt, host := t.host } ∧
    t.host.held = s.host.held ∧ t.host.linkUp = s.host.linkUp ∧ t.host.d3hot = s.host.d3hot


/-! ### The stall and its arcade -/

/-- From R69, R70, R77, R84, R191. A valid PASS at the head, once it has been read, whose tile is EMPTY and which no
write-back or bundle holds, issues: its tile leaves EMPTY with its running parts zero, it is the last of the passes in
order, and the next word is the head, with the banks, drains and other slots as before. A PASS that must wait (its tile
is not EMPTY, a pending write-back overlaps what it reads, or the stall holds) changes no tile, and WAIT_CYC counts the
cycle. It rests on the model's own readings of log entries 17, 18. -/
def Obligations.PassesIssueInTurn : Prop :=
  (∀ (s : State) (d : Die) (l : Stl) (w : PassWord) (p : Nat),
      let u := s.reachHead d l p
      s.headSlot d l (.pass w) = some p → passOk w = true → u.passWaits d p w = false →
      Completes (.pass d l w) s fun t =>
        let x := u.slot d p
        let y := t.slot d p
        (y.acc w.acc).word = some w ∧ (y.acc w.acc).kdone = 0 ∧ (y.acc w.acc).wbPend = w.psum ∧
        (y.acc w.acc).cells = (if w.preload = 0 then zeroCells else []) ∧
        (y.acc w.acc).st = (if (x.passes ++ [w.acc]).head? = some w.acc ∧ w.preload = 0 then .run else .preload) ∧
        y.passes = x.passes ++ [w.acc] ∧ y.cmdIndex = x.cmdIndex + 1 ∧
        y.bank0 = x.bank0 ∧ y.bank1 = x.bank1 ∧ y.drains = x.drains ∧ y.priv = x.priv ∧ u.onlySlot t d p) ∧
  (∀ (s : State) (d : Die) (l : Stl) (w : PassWord) (p : Nat),
      let u := s.reachHead d l p
      s.headSlot d l (.pass w) = some p → passOk w = true → u.passWaits d p w = true →
      Completes (.pass d l w) s fun t =>
        let x := u.slot d p
        let y := t.slot d p
        y.acc0 = x.acc0 ∧ y.acc1 = x.acc1 ∧ y.passes = x.passes ∧ y.sums = x.sums ∧ y.cmdIndex = x.cmdIndex ∧
        t.regPair (pgStall d p) rWaitCyc = u.regPair (pgStall d p) rWaitCyc + 1 ∧ t.mem = u.mem)

/-- R68: what a PASS that issues does to pass counter SUM_ID: 1 with SUM_START, one more without it, and at
4,096 it stays and FLAGS.LONG_SUM is set. The pass runs in every case, and no other counter moves. -/
def Obligations.PassCountsSums : Prop :=
  ∀ (s : State) (d : Die) (l : Stl) (w : PassWord) (p n : Nat),
    let u := s.reachHead d l p
    s.headSlot d l (.pass w) = some p → passOk w = true → u.passWaits d p w = false →
    (u.slot d p).sums[w.sumId.toNat]? = some n →
    Completes (.pass d l w) s fun t =>
      let c := (t.slot d p).sums[w.sumId.toNat]?
      (w.sumStart = true → c = some 1 ∧ t.reg (pgStall d p) rFlags = u.reg (pgStall d p) rFlags) ∧
      (w.sumStart = false → n < 4096 → c = some (n + 1) ∧ t.reg (pgStall d p) rFlags = u.reg (pgStall d p) rFlags) ∧
      (w.sumStart = false → n = 4096 →
        c = some 4096 ∧ t.reg (pgStall d p) rFlags = u.reg (pgStall d p) rFlags ||| 2) ∧
      (∀ j, j ≠ w.sumId.toNat → (t.slot d p).sums[j]? = (u.slot d p).sums[j]?) ∧
      (t.slot d p).passes = (u.slot d p).passes ++ [w.acc]

/-- From R77, R80, R103, R194, R203, R205, R206. A DRAIN with room in the chain joins its drains. A LOADW with a free
bank and no sequence open opens its sequence. A BUNDLE_OPEN opens its bracket, void where the bundle has committed this
count before. A BALLAST outside a K-step window counts its cycles at the duty of the slot, as MACs. A HALT halts the
stall, and with RESTART stays the head. In each of the first four the next word is the head.
It rests on the model's own readings of log entries 17, 18, 35. -/
def Obligations.StreamWordsIssue : Prop :=
  (∀ (s : State) (d : Die) (l : Stl) (w : DrainWord) (p : Nat),
    let u := s.reachHead d l p
    s.headSlot d l (.drain w) = some p → (u.slot d p).drains.length < 2 →
    Completes (.drain d l w) s fun t =>
      (t.slot d p).drains.length = (u.slot d p).drains.length + 1 ∧
      (∃ j : DrainJob, (t.slot d p).drains = (u.slot d p).drains ++ [j] ∧ j.word = w ∧ j.started = false) ∧
      (t.slot d p).cmdIndex = (u.slot d p).cmdIndex + 1 ∧ (t.slot d p).acc0 = (u.slot d p).acc0 ∧
      (t.slot d p).acc1 = (u.slot d p).acc1 ∧ u.onlySlot t d p) ∧
  (∀ (s : State) (d : Die) (l : Stl) (w : LoadwWord) (p : Nat),
    let u := s.reachHead d l p
    s.headSlot d l (.loadw w) = some p → (u.slot d p).priv = none →
    (u.slot d p).bank0.st = .free ∨ (u.slot d p).bank1.st = .free →
    Completes (.loadw d l w) s fun t =>
      (t.slot d p).priv = some { addr := w.addr, kind := w.kind, tiles := w.tiles.toNat, consumed := 0, again := [] } ∧
      (t.slot d p).cmdIndex = (u.slot d p).cmdIndex + 1 ∧ (t.slot d p).acc0 = (u.slot d p).acc0 ∧
      (t.slot d p).acc1 = (u.slot d p).acc1 ∧ (t.slot d p).bank0 = (u.slot d p).bank0 ∧
      (t.slot d p).bank1 = (u.slot d p).bank1 ∧ u.onlySlot t d p) ∧
  (∀ (s : State) (d : Die) (l : Stl) (n : Fin 4096) (p : Nat),
    let u := s.reachHead d l p
    s.headSlot d l (.bopen n) = some p →
    Completes (.bundleOpen d l n) s fun t =>
      let again := (u.pbundle n).base + SMap.get 0 (u.pbundle n).closed (64 * d.val + l.val) < (u.pbundle n).count
      (t.slot d p).bracket = some { num := n, staged := [], ready := false, void := decide again } ∧
      (u.slot d p).movedOn (t.slot d p) .run ∧ u.onlySlot t d p) ∧
  (∀ (s : State) (d : Die) (l : Stl) (n : Word) (p : Nat),
    let u := s.reachHead d l p
    s.headSlot d l (.ballast n.toNat) = some p → u.inWindow d p = false →
    Completes (.ballast d l n) s fun t =>
      (u.slot d p).movedOn (t.slot d p) .ballast ∧
      t.counter (pgStall d p) 2 =
        u.counter (pgStall d p) 2 + BitVec.ofNat 64 (n.toNat * 256 * (u.slot d p).duty) ∧
      t.meter.tally.ballast = u.meter.tally.ballast + n.toNat * 256 * (u.slot d p).duty ∧
      t.mem = u.mem ∧ t.regs = u.regs) ∧
  (∀ (s : State) (d : Die) (l : Stl) (r : Bool) (p : Nat),
    let u := s.reachHead d l p
    s.headSlot d l (.halt r) = some p →
    Completes (.halt d l r) s fun t =>
      (t.slot d p).halted = some r ∧ (t.slot d p).seq = .halted ∧
      (t.slot d p).cmdIndex = (u.slot d p).cmdIndex + (if r then 0 else 1) ∧ u.onlySlot t d p)

/-- From R169, R192, R193, R197, R203, R251, R252, R322. MARK_POST: outside a bracket, with the stall's earlier writes
done, it adds its units to the mark where none waits there; in a bracket it is staged. MARK_WAIT: with no request before
it, it takes its units where the mark has them, else its request waits. REARM: outside a bracket it starts the streams it
lists, all PARKED; in a bracket it is staged. BUNDLE_CLOSE makes the stall ready for its bundle. BELL_WAIT stops the stall
at its group; with the last participant of a barrier that is no engine-wide one, every participant goes on. BASKET_PUT:
one that is neither refused nor has to wait reads its tiles and goes on; in a bracket it is staged as well.
It rests on the model's own readings of log entries 18, 20, 38. -/
def Obligations.SequencedWordsAct : Prop :=
  (∀ (s : State) (d : Die) (l : Stl) (w : MarkWord) (p : Nat),
    let u := s.reachHead d l p
    s.headSlot d l (.post w) = some p → (u.slot d p).bracket = none →
    (u.slot d p).written (u.padDrain d p) = true → u.markReqs d w.mark.toNat = [] →
    u.mark d w.mark.toNat + (w.countM1.toNat + 1) ≤ 65535 →
    Completes (.markPost d l w) s fun t =>
      t.mark d w.mark.toNat = u.mark d w.mark.toNat + (w.countM1.toNat + 1) ∧
      (u.slot d p).movedOn (t.slot d p) .run ∧ t.mem = u.mem ∧ t.prog = u.prog ∧ t.streams = u.streams) ∧
  (∀ (s : State) (d : Die) (l : Stl) (w : MarkWord) (p : Nat),
    let u := s.reachHead d l p
    s.headSlot d l (.wait w) = some p →
    (u.slot d p).waiting.any (·.1 == (u.slot d p).cmdIndex) = false → u.markReqs d w.mark.toNat = [] →
    w.countM1.toNat + 1 ≤ u.mark d w.mark.toNat → u.slotOf d l = some p →
    Completes (.markWait d l w) s fun t =>
      t.mark d w.mark.toNat = u.mark d w.mark.toNat - (w.countM1.toNat + 1) ∧
      (t.slot d p).cmdIndex = (u.slot d p).cmdIndex + 1 ∧ (t.slot d p).seq = .run ∧ t.mem = u.mem) ∧
  (∀ (s : State) (d : Die) (l : Stl) (w : MarkWord) (p : Nat),
    let u := s.reachHead d l p
    s.headSlot d l (.wait w) = some p →
    (u.slot d p).waiting.any (·.1 == (u.slot d p).cmdIndex) = false → u.markReqs d w.mark.toNat = [] →
    u.mark d w.mark.toNat < w.countM1.toNat + 1 →
    Completes (.markWait d l w) s fun t =>
      t.markReqs d w.mark.toNat = [(.stall l, w.countM1.toNat + 1)] ∧
      t.mark d w.mark.toNat = u.mark d w.mark.toNat ∧ (t.slot d p).seq = .waitMark ∧
      (t.slot d p).cmdIndex = (u.slot d p).cmdIndex ∧ t.mem = u.mem) ∧
  (∀ (s : State) (d : Die) (l : Stl) (w : RearmWord) (p : Nat),
    let u := s.reachHead d l p
    s.headSlot d l (.rearm w) = some p → (u.slot d p).bracket = none → u.rearmReady d p w = true →
    Gives (.rearm d l w) s ((u.setSlot d p ((u.slot d p).advance .run)).rearmApply d p w)) ∧
  (∀ (s : State) (d : Die) (l : Stl) (w : RearmWord) (p a : Nat) (b : BitVec 48),
    let u := s.reachHead d l p
    s.headSlot d l (.rearm w) = some p → (u.slot d p).bracket = none → u.rearmReady d p w = true →
    u.rearmList d p w = [(p, a, b)] → p < 72 →
    Completes (.rearm d l w) s fun t =>
      (t.stream d p a).st = .run ∧ (t.stream d p a).base = b ∧ (t.stream d p a).issued = 0 ∧
      (t.stream d p a).done = 0 ∧ (u.slot d p).movedOn (t.slot d p) .run ∧ t.mem = u.mem) ∧
  (∀ (s : State) (d : Die) (l : Stl) (c : StagedCmd) (i : Instr) (p : Nat) (b : Bracket),
    let u := s.reachHead d l p
    (∃ w, c = .post w ∧ i = .markPost d l w ∧ s.headSlot d l (.post w) = some p) ∨
    (∃ w, c = .rearm w ∧ i = .rearm d l w ∧ s.headSlot d l (.rearm w) = some p) →
    (u.slot d p).bracket = some b → b.void = false →
    Completes i s fun t => (t.slot d p).bracket = some { b with staged := b.staged ++ [c] } ∧
      (u.slot d p).movedOn (t.slot d p) .run ∧ u.onlySlot t d p) ∧
  (∀ (s : State) (d : Die) (l : Stl) (n : Fin 4096) (p : Nat) (b : Bracket),
    let u := s.reachHead d l p
    s.headSlot d l (.bclose n) = some p → (u.slot d p).bracket = some b → b.void = false →
    b.staged.any StagedCmd.isPost = false ∨ (u.slot d p).written (u.padDrain d p) = true →
    Completes (.bundleClose d l n) s fun t =>
      (t.slot d p).bracket = some { b with ready := true } ∧ (64 * d.val + l.val) ∈ (t.pbundle n).ready ∧
      (t.slot d p).cmdIndex = (u.slot d p).cmdIndex ∧
      t = { u with stalls := t.stalls, bnd := t.bnd, host := { u.host with changes := t.host.changes } }) ∧
  (∀ (s : State) (d : Die) (l : Stl) (w : BellWord) (p : Nat),
    let u := s.reachHead d l p
    let v := u.setSlot d p { (u.slot d p).wait .bell with bell := some w, seq := (u.slot d p).seqNow }
    s.headSlot d l (.bell w) = some p → w.group ≠ 0 → u.slotOf d l = some p →
    let parts := v.groupOf d l w.group.toNat
    (parts.all (fun e => v.atBell e w.group) = false → Gives (.bellWait d l w) s v) ∧
    (parts.contains (d.val, l.val) = true → parts.all (fun e => v.atBell e w.group) = true → w.op ≠ 1 →
      Completes (.bellWait d l w) s fun t =>
        (∀ e ∈ parts, (t.stallOf e.1 e.2).bell = none ∧ (t.stallOf e.1 e.2).seq = .run) ∧
        t = { v with stalls := t.stalls, host := { v.host with changes := t.host.changes } })) ∧
  (∀ (s : State) (d : Die) (l : Stl) (w : PutWord) (p : Nat),
    let u := s.reachHead d l p
    s.headSlot d l (.put w) = some p → (u.slot d p).bracket = none → (u.slot d p).refused = false →
    u.putRefused d l w = false → u.putWaits d w = false →
    Completes (.basketPut d l w) s fun t =>
      (u.slot d p).movedOn (t.slot d p) .run ∧
      (t.dieBasket d w.basket.toNat).tilesIn = (u.dieBasket d w.basket.toNat).tilesIn + w.tiles.toNat ∧
      (0 < w.tiles.toNat → t.cursor d w.basket.toNat l = u.cursor d w.basket.toNat l + w.tiles.toNat) ∧
      t.counter (pgCollect d) 0 = u.counter (pgCollect d) 0 + BitVec.ofNat 64 w.tiles.toNat) ∧
  (∀ (s : State) (d : Die) (l : Stl) (w : PutWord) (p : Nat) (b : Bracket),
    let u := s.reachHead d l p
    s.headSlot d l (.put w) = some p → (u.slot d p).bracket = some b → b.void = false →
    (u.slot d p).refused = false → u.putRefused d l w = false → u.putWaits d w = false →
    Completes (.basketPut d l w) s fun t =>
      (t.slot d p).bracket = some { b with staged := b.staged ++ [.put w] } ∧
      (u.slot d p).movedOn (t.slot d p) .run ∧
      (t.dieBasket d w.basket.toNat).tilesIn = (u.dieBasket d w.basket.toNat).tilesIn + w.tiles.toNat)


/-- From R69, R87, R88, R91, R92, R104, R107, R194, R477. PRELOAD_DONE fills a tile's cells from scratchpad;
PASS_RUN_END takes the front pass's tile to CHECK. WRITEBACK_START gives the port to the write-back whose check passed
first; WRITEBACK_DONE stores the S32 rows drawn from the tile's seed and leaves the tile EMPTY. DRAIN_START, where no
pending write-back lies in its way, takes a HELD tile to DRAIN and its rows through the chain. DRAIN_DONE leaves the tile
EMPTY, or HELD with KEEP, and the chain gives the place up; while a replay's operands forbid its writes it keeps its
place, though the tile leaves DRAIN. PRIVATE_RECORD_LOADED fills the bank with the next record of the open sequence.
From R77 to R80. When a gap has lasted HOLD the duty begins to fall; it falls by sixteenths while it is above 0, and
with K-steps it rises by sixteenths to 16, where it is steady. Each step counts the ballast of the gap so far at the
duty it ran at, in MACs (how many cycles that were is a free number, log entry 17), and no tile, bank, drain, register or
byte of memory changes. It rests on the model's own readings of log entries 17, 35, 36, 90. -/
def Obligations.TilesAndDutyMove : Prop :=
  (∀ (s : State) (d : Die) (l : Stl) (i : Fin 2) (p : Nat) (w : PassWord),
    s.onSlot d l = some p → ((s.slot d p).acc i).word = some w →
    ((s.slot d p).acc i).st = .preload ∨ ((s.slot d p).acc i).st = .replay →
    ((s.slot d p).acc i).cells = [] → w.preload ≠ 0 →
    Completes (.preloadDone d l i) s fun t =>
      let a := (s.slot d p).acc i
      let ws := s.readWords (slotAddr d p w.preRange.1) (w.preRange.2 / 8)
      ((t.slot d p).acc i).cells = (a.preloaded w ws).cells ∧ ((t.slot d p).acc i).lanes = (a.preloaded w ws).lanes ∧
      (ws.any (·.poison) = true → t.reg (pgStall d p) rFlags &&& flagPoison = flagPoison) ∧
      (t.slot d p).passes = (s.slot d p).passes) ∧
  (∀ (s : State) (d : Die) (l : Stl) (i : Fin 2) (p : Nat) (w : PassWord),
    s.onSlot d l = some p → ((s.slot d p).acc i).word = some w →
    ((s.slot d p).acc i).st = .run ∨ ((s.slot d p).acc i).st = .replay →
    ((s.slot d p).acc i).kdone = w.kp → (s.slot d p).passes.head? = some i →
    Completes (.passRunEnd d l i) s fun t =>
      ((t.slot d p).acc i).st = .check ∧ ((t.slot d p).acc i).cells = ((s.slot d p).acc i).cells ∧
      (t.slot d p).passes = (s.slot d p).passes.tail ∧ s.onlySlot t d p) ∧
  (∀ (s : State) (d : Die) (l : Stl) (i : Fin 2) (p : Nat),
    s.onSlot d l = some p → (s.slot d p).wbReady i = true → ((s.slot d p).acc (other i)).wbRun = false →
    ((s.slot d p).wbReady (other i) = true → ((s.slot d p).acc i).order ≤ ((s.slot d p).acc (other i)).order) →
    Completes (.writebackStart d l i) s fun t =>
      let a := (s.slot d p).acc i
      ((t.slot d p).acc i).wbRun = true ∧ ((t.slot d p).acc i).at' = ((s.slot d p).seedFor a.gen).2 ∧
      ((t.slot d p).acc i).cells = a.cells ∧ ((t.slot d p).acc i).st = .writeback ∧
      (t.slot d p).passes = (s.slot d p).passes ∧ s.onlySlot t d p ∧ t.regs = s.regs ∧ t.cnt = s.cnt) ∧
  (∀ (s : State) (d : Die) (l : Stl) (i : Fin 2) (p : Nat) (w : PassWord),
    s.onSlot d l = some p → ((s.slot d p).acc i).word = some w → ((s.slot d p).acc i).wbRun = true →
    Completes (.writebackDone d l i) s fun t =>
      let a := (s.slot d p).acc i
      let r := (s.slot d p).seedFor a.gen
      let c := a.wbCounts r.2 fun j => Config.freeValue (s.free + j)
      (t.slot d p).acc i = Acc.reset ∧ (t.slot d p).acc (other i) = (s.slot d p).acc (other i) ∧
      t.mem = (s.storeWords (slotAddr d p w.wbRange.1) (pairWords (a.psum r.1 c.1).1)).mem ∧
      ((a.psum r.1 c.1).2 = true → t.reg (pgStall d p) rFlags &&& flagSat = flagSat) ∧
      (a.gen = (s.slot d p).gen → (t.slot d p).n = c.2) ∧
      (a.shared = false → c = (r.2, r.2 + 64))) ∧
  (∀ (s : State) (d : Die) (l : Stl) (p : Nat) (j : DrainJob) (r : List DrainJob),
    s.onSlot d l = some p → (s.slot d p).drains = j :: r → s.drainMay d p (s.chain d p j.word.slot) j = true →
    j.reads = [] → (s.slot d p).drainNow (s.chain d p j.word.slot) j = drainReads (s.chain d p j.word.slot) →
    Completes (.drainStart d l) s fun t =>
      let c := s.chain d p j.word.slot
      let x := s.slot d p
      let out := (chainRows (s.drainReader d p []) c x.stats (x.acc j.word.tile)).1
      (∃ k q, (t.slot d p).drains = k :: q ∧ q.length = r.length ∧ k.word = j.word ∧ k.started = true ∧
        k.whole = true ∧ k.rows = out.map (·.row) ∧ k.counts = out.map (·.cnt)) ∧
      ((t.slot d p).acc j.word.tile).st = (if ccSrc c then (x.acc j.word.tile).st else .drain) ∧
      ((t.slot d p).acc (other j.word.tile)).st = (x.acc (other j.word.tile)).st ∧
      (t.slot d p).passes = x.passes) ∧
  (∀ (s : State) (d : Die) (l : Stl) (p : Nat) (j : DrainJob) (r : List DrainJob),
    s.onSlot d l = some p → (s.slot d p).drains = j :: r → j.started = true → j.whole = true →
    (s.slot d p).drainFree (s.chain d p j.word.slot) = true →
    Completes (.drainDone d l) s fun t =>
      let c := s.chain d p j.word.slot
      (t.slot d p).drains = r ∧
      (ccSrc c = false → j.left = false →
        ((t.slot d p).acc j.word.tile).st = (if ccKeep c then .held else .empty)) ∧
      (ccSrc c = true → (t.slot d p).acc0 = (s.slot d p).acc0 ∧ (t.slot d p).acc1 = (s.slot d p).acc1) ∧
      (t.slot d p).acc (other j.word.tile) = (s.slot d p).acc (other j.word.tile)) ∧
  (∀ (s : State) (d : Die) (l : Stl) (p : Nat) (j : DrainJob) (r : List DrainJob),
    s.onSlot d l = some p → (s.slot d p).drains = j :: r → j.started = true → j.whole = true →
    (s.slot d p).drainFree (s.chain d p j.word.slot) = false →
    Completes (.drainDone d l) s fun t =>
      let c := s.chain d p j.word.slot
      (t.slot d p).drains = { j with left := true } :: r ∧
      (ccSrc c = false → j.left = false →
        ((t.slot d p).acc j.word.tile).st = (if ccKeep c then .held else .empty)) ∧
      s.onlySlot t d p ∧ t.regs = s.regs) ∧
  (∀ (s : State) (d : Die) (l : Stl) (b : Fin 2) (p n : Nat) (k : Byte) (q : PrivSeq),
    s.onSlot d l = some p → (s.slot d p).priv = some q →
    q.todo[(if (s.slot d p).bank0.priv then 1 else 0) + (if (s.slot d p).bank1.priv then 1 else 0)]? = some (n, k) →
    (s.slot d p).privBank q b = true → (s.slot d p).replaysShared = false →
    Completes (.privateRecordLoaded d l b) s fun t =>
      (t.slot d p).bank b = { st := .full, tile := n, kind := k, priv := true
                              data := s.readWords (slotAddr d p (64 * n)) (recordBytes k / 8) } ∧
      (t.slot d p).acc0 = (s.slot d p).acc0 ∧ (t.slot d p).acc1 = (s.slot d p).acc1 ∧
      (t.slot d p).priv = some q) ∧
  (∀ (s : State) (d : Die) (l : Stl) (p : Nat), s.onSlot d l = some p →
      let x := s.slot d p
      let same := fun (y : Stall) => y.acc0 = x.acc0 ∧ y.acc1 = x.acc1 ∧ y.bank0 = x.bank0 ∧ y.bank1 = x.bank1 ∧
        y.drains = x.drains ∧ y.passes = x.passes ∧ y.cmdIndex = x.cmdIndex
      let more := if x.gap then s.freeNow.toNat * 256 * x.duty else 0
      (x.gap = true → x.dutySt ≠ .falling → Completes (.dutyHoldExpiry d l) s fun t =>
        t.slot d p = { x with dutySt := .falling } ∧ s.onlySlot t d p ∧ t.regs = s.regs) ∧
      (x.gap = true → x.dutySt = .falling → 0 < x.duty → Completes (.dutyStepDown d l) s fun t =>
        (t.slot d p).duty = x.duty - 1 ∧ (t.slot d p).dutySt = .falling ∧ same (t.slot d p) ∧
        t.meter.tally.ballast = s.meter.tally.ballast + more ∧
        t.counter (pgStall d p) 2 = s.counter (pgStall d p) 2 + BitVec.ofNat 64 more ∧
        t.regs = s.regs ∧ t.mem = s.mem) ∧
      (x.dutySt = .rising → x.duty < 16 → Completes (.dutyStepUp d l) s fun t =>
        (t.slot d p).duty = x.duty + 1 ∧ (t.slot d p).dutySt = (if x.duty = 15 then .steady else .rising) ∧
        same (t.slot d p) ∧ t.meter.tally.ballast = s.meter.tally.ballast + more ∧ t.regs = s.regs ∧ t.mem = s.mem))

/-- From R72 to R76. A check that passes takes the tile to HELD, or to WRITEBACK, and counts the pass. The first that
fails takes it to REPLAY with 0x0101, LAST_STY, FLAGS.STY_TRANSIENT and one mismatch more in the window. With more
mismatches than TRANSIENT_MAX, or when a replayed pass fails again, the operation of a repeated mismatch runs on a state
with LAST_STY set. When WINDOW_MS have passed since the oldest mismatch it no longer counts.
It rests on the model's own readings of log entries 6, 35. -/
def Obligations.SteelyardChecksDecide : Prop :=
  (∀ (s : State) (d : Die) (l : Stl) (i : Fin 2) (err : List CellErr) (p : Nat) (w : PassWord) (c : Instr),
    s.onSlot d l = some p → ((s.slot d p).acc i).word = some w → ((s.slot d p).acc i).st = .check →
    c = (if ((s.slot d p).acc i).failed then .replayedPassCheck d l i err else .steelyardCheck d l i err) →
    ((err.foldl Acc.withErr ((s.slot d p).acc i)).firstFail (s.reg (pgStall d p) rStyCtl) w) = none →
    Completes c s fun t =>
      ((t.slot d p).acc i).st = (if w.psum then .writeback else .held) ∧
      (t.slot d p).acc (other i) = (s.slot d p).acc (other i) ∧
      t.counter (pgStall d p) 0 = s.counter (pgStall d p) 0 + 1 ∧ s.onlySlot t d p) ∧
  (∀ (s : State) (d : Die) (l : Stl) (i : Fin 2) (err : List CellErr) (p : Nat) (w : PassWord) (f : Bool × Nat),
    s.onSlot d l = some p → ((s.slot d p).acc i).word = some w → ((s.slot d p).acc i).st = .check →
    ((s.slot d p).acc i).failed = false →
    ((err.foldl Acc.withErr ((s.slot d p).acc i)).firstFail (s.reg (pgStall d p) rStyCtl) w) = some f →
    (s.slot d p).strikes + 1 ≤ s.regField (pgStall d p) rStyLimit 7 0 →
    Completes (.steelyardCheck d l i err) s fun t =>
      ((t.slot d p).acc i).st = .replay ∧ ((t.slot d p).acc i).kdone = 0 ∧ ((t.slot d p).acc i).failed = true ∧
      (t.slot d p).seq = .replay ∧ (t.slot d p).winOpen = true ∧
      (t.slot d p).strikes = (s.slot d p).strikes + 1 ∧
      t.reg (pgStall d p) rLastSty = lastSty w i f ∧
      t.reg (pgStall d p) rFlags &&& flagTransient = flagTransient ∧
      fieldOf (t.reg (pgStall d p) rFault) 31 16 = 0x0101 ∧ t.mem = s.mem) ∧
  (∀ (s : State) (d : Die) (l : Stl) (i : Fin 2) (err : List CellErr) (p : Nat) (w : PassWord) (f : Bool × Nat)
      (c : Instr),
    s.onSlot d l = some p → ((s.slot d p).acc i).word = some w → ((s.slot d p).acc i).st = .check →
    ((err.foldl Acc.withErr ((s.slot d p).acc i)).firstFail (s.reg (pgStall d p) rStyCtl) w) = some f →
    (((s.slot d p).acc i).failed = true ∧ c = .replayedPassCheck d l i err) ∨
    (((s.slot d p).acc i).failed = false ∧ c = .steelyardCheck d l i err ∧
      s.regField (pgStall d p) rStyLimit 7 0 < (s.slot d p).strikes + 1) →
    ∃ u : State, Gives c s (u.styRepeat d l p) ∧ u.reg (pgStall d p) rLastSty = lastSty w i f ∧
      u.mem = s.mem ∧ u.quarters = s.quarters ∧ u.arcs = s.arcs) ∧
  (∀ (s : State) (d : Die) (l : Stl) (p : Nat), s.slotOf d l = some p → (s.slot d p).winOpen = true →
    Completes (.styWindowExpiry d l) s fun t =>
      t.slot d p = { s.slot d p with winOpen := decide (1 < (s.slot d p).strikes)
                                     strikes := (s.slot d p).strikes - 1 } ∧ s.onlySlot t d p ∧ t.regs = s.regs)

/-- From R60 to R65, R194. A broadcast fills the bank of every member with the next tile, the bank is full in all of
them at once, the window opens for the members that run and closes with the tile consumed, and a slot no member needs is
released; a private window frees its member's bank alone. It rests on the model's own readings of log entries 21, 35,
89. -/
def Obligations.ArcadeTilesMove : Prop :=
  (∀ (s : State) (d : Die) (q a : Qtr) (b : Fin 2), (s.arc d q a).replay = [] → s.inStep d = true →
    s.bcastFree d q a b = true → (s.stream d 72 (arcStream q a)).role = roleBcast →
    s.mayIssue d 72 (arcStream q a) = true → (s.stream d 72 (arcStream q a)).atGate = false →
    s.atLimit d 72 (arcStream q a) = false →
    Completes (.broadcastStart d q a b) s fun t =>
      (t.arc d q a).next = (s.arc d q a).next + 1 ∧
      (∀ e ∈ s.members d q a, ((t.slot d e.2).bank b).st = .filling ∧
        ((t.slot d e.2).bank b).tile = (s.arc d q a).next) ∧
      (t.stream d 72 (arcStream q a)).issued = (s.stream d 72 (arcStream q a)).issued + 1) ∧
  (∀ (s : State) (d : Die) (q a : Qtr) (b : Fin 2), s.membersOn d q a = true →
    (∀ e ∈ s.members d q a, ((s.slot d e.2).bank b).st = .filling) →
    Completes (.bankFull d q a b) s fun t =>
      (∀ e ∈ s.members d q a, ((t.slot d e.2).bank b).st = .full) ∧ t.mem = s.mem) ∧
  (∀ (s : State) (d : Die) (q a : Qtr) (b : Fin 2) (n : Nat) (rs : List Nat), (s.arc d q a).replay = [] →
    s.windowFor d q a b = some (n, rs) →
    Completes (.tileWindowOpen d q a b none) s fun t =>
      (t.arc d q a).window = some b ∧ (t.arc d q a).runners = rs ∧
      (∀ e ∈ s.members d q a, ((t.slot d e.2).bank b).st = .inUse) ∧ t.mem = s.mem ∧ t.regs = s.regs) ∧
  (∀ (s : State) (d : Die) (q a : Qtr) (b : Fin 2), s.membersOn d q a = true →
    (s.arc d q a).window = some b → (s.arc d q a).winAgain = false →
    Completes (.tileWindowClose d q a b none) s fun t =>
      (t.arc d q a).window = none ∧ (t.arc d q a).runners = [] ∧
      (t.arc d q a).consumed = (s.arc d q a).consumed + 1 ∧ (t.arc d q a).next = (s.arc d q a).next) ∧
  (∀ (s : State) (d : Die) (q a : Qtr) (m : Fin 4) (b : Fin 2) (p : Nat), s.onSlot d (16 * q + 4 * a + m) = some p →
    ((s.slot d p).bank b).st = .inUse → ((s.slot d p).bank b).priv = true →
    Completes (.tileWindowClose d q a b (some m)) s fun t =>
      (t.slot d p).bank b = Bank.reset ∧ (t.slot d p).bank (other b) = (s.slot d p).bank (other b) ∧
      t.arcs = s.arcs) ∧
  (∀ (s : State) (d : Die) (q a : Qtr) (n : Nat) (h : HeldTile), (s.arc d q a).held.find? (·.num == n) = some h →
    h.done = true → s.dieLive d = true →
    (∀ e ∈ s.members d q a, (s.slot d e.2).needsTile n = false) →
    Completes (.bcastSlotRelease d q a n) s fun t =>
      (t.arc d q a).held = (s.arc d q a).held.filter (·.num != n) ∧
      t.ledgers = (s.unhold h.addr (recordBytes (s.stream d 72 (arcStream q a)).kind)).ledgers ∧
      t.stalls = s.stalls ∧ t.mem = s.mem)

/-- From R17, R69, R87, R191, R475. What the stall's commands leave alone. The ends of passes, the duty, write-back starts
and windows change the stalls, the arcades, counters, free values and the tally of MACs alone. The words of its stream
named here, and the commands that move tile data, change registers, memory, the scrubber, bundles and the last fault as
well, and neither programs, streams, flows, ledgers nor power. Reading the head word is the same operation for every
word: it is read once, and then only what a read of memory changes differs. -/
def Obligations.StallFrames : Prop :=
  (∀ (c : Instr) (s t : State), stallOnly c = true → exec c s = .next t →
      t = { s with free := t.free, cnt := t.cnt, stalls := t.stalls, arcs := t.arcs
                   meter := { s.meter with tally := t.meter.tally }, host := { s.host with changes := t.host.changes } }) ∧
  (∀ (c : Instr) (s t : State), stallData c = true → exec c s = .next t →
      t = { s with free := t.free, regs := t.regs, cnt := t.cnt, stalls := t.stalls, arcs := t.arcs, mem := t.mem
                   scrub := t.scrub, bnd := t.bnd, meter := { s.meter with tally := t.meter.tally }
                   keeper := { s.keeper with lastFault := t.keeper.lastFault }, host := t.host } ∧
      t.host.linkUp = s.host.linkUp ∧ t.host.d3hot = s.host.d3hot ∧ t.host.held = s.host.held) ∧
  (∀ (s : State) (d l p : Nat), (s.slot d p).fetched = true → s.reachHead d l p = s) ∧
  (∀ (s : State) (d l p : Nat),
    let u := s.reachHead d l p
    u.slot d p = { s.slot d p with fetched := true } ∧
    (∀ e r, 72 * e + r ≠ 72 * d + p → u.slot e r = s.slot e r) ∧
    u = { s with regs := u.regs, cnt := u.cnt, stalls := u.stalls, mem := u.mem, scrub := u.scrub, bnd := u.bnd
                 keeper := { s.keeper with lastFault := u.keeper.lastFault }, host := u.host } ∧
    ∀ k, SMap.get 0 u.mem.bytes k = SMap.get 0 s.mem.bytes k)


/-! ### Streams and rounds -/

/-- From R158, R161, R166, R171. A LOAD or STORE transfer of a stream that may issue, is at no gate, within its limit and
at its turn becomes outstanding with the words its source holds, and the turn passes on; at the limit the stream is
LIMITED. A LOAD transfer that the mesh serves writes its words at its destination and is outstanding no more; one that it
does not serve yet stays outstanding.
From R176 to R179, R474. A round context takes its own next item once READY_MARK gave the unit; it begins to forward an
item against a credit of the round; it receives an item once every transfer of it has completed; it releases an item once
RELEASE_MARK gave the unit; and it enters a credit of its round or a later one that arrives.
It rests on the model's own readings of log entries 4, 21, 101. -/
def Obligations.TransfersAndRounds : Prop :=
  (∀ (s : State) (d : Die) (u : Fin 73) (st : Fin 256), s.mayIssue d u st = true →
    (s.stream d u st).role = roleLoad ∨ (s.stream d u st).role = roleStore →
    (s.stream d u st).atGate = false → s.atLimit d u st = false → s.hasTurn d u st = true →
    Completes (.transferIssue d u st) s fun t =>
      let x := s.stream d u st
      let ws := if x.role = roleLoad then s.sourceWords (x.far x.issued) x.size
        else s.readWords (x.ring d u x.issued) (x.size / 8)
      (t.stream d u st).out = x.out ++ [{ t := x.issued, words := ws }] ∧
      (t.stream d u st).issued = x.issued + 1 ∧ (t.stream d u st).st = .run ∧
      (t.stream d u st).done = x.done ∧ t.turn d u = (st.val + 1) % 256 ∧ t.stalls = s.stalls ∧ t.prog = s.prog) ∧
  (∀ (s : State) (d : Die) (u : Fin 73) (st : Fin 256), s.mayIssue d u st = true → s.roleReady d u st = true →
    (s.stream d u st).atGate = false → s.atLimit d u st = true →
    Gives (.transferIssue d u st) s (s.setStream d u st { s.stream d u st with st := .limited })) ∧
  (∀ (s : State) (d : Die) (u : Fin 73) (st : Fin 256) (n k : Nat) (x : Xfer),
    (s.stream d u st).out.find? (·.t == n) = some x → s.dieLive d = true → (s.stream d u st).role = roleLoad →
    s.resolve ((s.stream d u st).far n) = some k → s.lostKey (some k) = false →
    s.lostKey (some ((s.stream d u st).ring d u n)) = false →
    Completes (.transferComplete d u st n) s fun t =>
      if (s.meshServe d 1 (s.stream d u st).size).2 then
        t.mem = (s.storeWords ((s.stream d u st).ring d u n) x.words).mem ∧
        (t.stream d u st).out = (s.stream d u st).out.filter (·.t != n) ∧
        (t.stream d u st).issued = (s.stream d u st).issued
      else t = { s with free := s.free + 3, host := { s.host with changes := t.host.changes } }) ∧
  (∀ (s : State) (d : Die) (c : Qtr), s.roundMay d c = true → (s.roundCtx d c).taken < s.ownItems d c →
    (s.roundCtx d c).ready = .granted →
    Gives (.roundItemTake d c) s (((s.setRoundCtx d c { s.roundCtx d c with
      taken := (s.roundCtx d c).taken + 1, ready := .no }).postArrive d c).freeSlots d c)) ∧
  (∀ (s : State) (d : Die) (c : Qtr), s.roundMay d c = true → (s.roundCtx d c).busy = false →
    (s.roundCtx d c).fwd < s.arrived d c → (s.roundCtx d c).fwd < s.itemsForward d c →
    s.hopUp d (s.pathSucc d) = true → s.credited d c = true →
    Completes (.roundItemForward d c) s fun t =>
      let x := s.roundCtx d c
      let y := t.stream d 72 (s.ctxStream d c)
      (t.roundCtx d c).busy = true ∧ (t.roundCtx d c).fwd = x.fwd ∧
      SMap.get 0 (t.roundCtx d c).credits x.rnd + 1 = SMap.get 0 x.credits x.rnd ∧
      (∃ g : Option ItemTag, t.rounds.transit =
        s.rounds.transit ++ [{ src := d, dst := s.pathSucc d, ctx := c, k := x.fwd, tag := g }]) ∧
      y.issued = 0 ∧ y.done = 0 ∧ y.walk = y.walkLen ∧ t.ledgers = s.ledgers ∧ t.stalls = s.stalls ∧ t.mem = s.mem) ∧
  (∀ (s : State) (d : Die) (c : Qtr) (x : Transit),
    s.rounds.transit.find? (fun t => t.dst == d.val && t.ctx == c.val) = some x →
    s.itemHere x = true → s.dieLive d = true →
    Completes (.roundItemArrival d c) s fun t =>
      t.rounds.transit = s.rounds.transit.erase x ∧ (t.roundCtx d c).recv = (s.roundCtx d c).recv + 1 ∧
      (t.roundCtx x.src c).fwd = (s.roundCtx x.src c).fwd + 1 ∧ (t.roundCtx x.src c).busy = false ∧
      t.mem = s.mem ∧ t.keeper = s.keeper ∧ t.flows = s.flows ∧ t.pwr = s.pwr) ∧
  (∀ (s : State) (d : Die) (c : Qtr), s.atWork = true → s.dieLive d = true → (s.roundCtx d c).st = .running →
    (s.roundCtx d c).released < s.arrived d c → (s.roundCtx d c).release = .granted →
    Gives (.roundRelease d c) s ((s.setRoundCtx d c { s.roundCtx d c with
      released := (s.roundCtx d c).released + 1, release := .no }).freeSlots d c)) ∧
  (∀ (s : State) (d : Die) (c : Qtr) (r n : Nat) (m : SMap Nat), (s.roundCtx d c).coming = (r, n) :: m →
    (s.roundCtx d c).rnd ≤ r →
    Completes (.roundCredit d c) s fun t =>
      SMap.get 0 (t.roundCtx d c).credits r = SMap.get 0 (s.roundCtx d c).credits r + 1 ∧
      SMap.get 0 (t.roundCtx d c).coming r = SMap.get 0 (s.roundCtx d c).coming r - 1 ∧
      t = { s with rounds := t.rounds, host := { s.host with changes := t.host.changes } })

/-- From R158, R176. What the commands of streams and rounds leave alone: dies, quarters, baskets, ports, power, Shutter,
security, the meter, messages and the pins; PSTATE, the path, the keys and the member generation stay as they are. -/
def Obligations.StreamRoundFrame : Prop :=
  ∀ (c : Instr) (s t : State), streamRound c = true → exec c s = .next t →
    t = { s with free := t.free, regs := t.regs, cnt := t.cnt, host := t.host, mem := t.mem, scrub := t.scrub,
                 stalls := t.stalls, streams := t.streams, stores := t.stores, rounds := t.rounds, prog := t.prog,
                 weights := t.weights, flows := t.flows, bnd := t.bnd, ledgers := t.ledgers, keeper := t.keeper } ∧
    t.prog.pst = s.prog.pst ∧ t.rounds.path = s.rounds.path ∧ t.weights.keys = s.weights.keys ∧
    t.keeper.memberGen = s.keeper.memberGen


/-! ### Programs -/

/-- From R188, R189, R199, R206 to R208. CHECK_GO starts the check of the directory at CHECK_ADDR; its end is PASSED
where no die has a fault, and REFUSED with the code, die and place of a fault that it found. LOAD applies the image
that was checked when it was committed, and PSTATE is READY. RUN starts a step from READY or STEP_HOLD when every
quarter is ON; with a quarter not ON it only clears the request. ABORT stops the program. The step barrier starts the
next step, or holds where RUN is 0, a hold is asked for or a quarter is not ON; PROGRAM_HALTED ends the program.
It rests on the model's own readings of log entries 39, 40, 46, 47, 59. -/
def Obligations.ProgramsCheckAndRun : Prop :=
  (∀ s : State, s.prog.check ≠ .busy → s.takesWrites pgProgram = true →
    Completes .checkGo s fun t =>
      t.prog = { s.prog with check := .busy, checkDir := (s.regPair pgProgram 0x048).extractLsb' 0 48 } ∧
      t = { s with prog := t.prog, host := { s.host with changes := t.host.changes } }) ∧
  (∀ (s : State) (f : Die), s.prog.check = .busy → s.asleep = false → s.noAdoption →
    (∀ d : Nat, d < 64 → s.checkDie s.prog.checkDir.toNat d = none) →
    Completes (.imageCheckDone f) s fun t =>
      t.prog = { s.prog with check := .passed, refuse := 0, wher := 0 }) ∧
  (∀ (s : State) (d : Die) (f : Found), s.prog.check = .busy → s.asleep = false → s.noAdoption →
    s.checkDie s.prog.checkDir.toNat d = some f →
    Completes (.imageCheckDone d) s fun t =>
      t.prog.check = .refused ∧ t.prog.refuse = BitVec.ofNat 32 (f.code * 2 ^ 24 + d.val * 2 ^ 10) ∧
      t.prog.wher = BitVec.ofNat 32 (f.stall % 256 * 2 ^ 24 + f.sect * 2 ^ 20 + f.index % 2 ^ 20) ∧
      t.prog.pst = s.prog.pst ∧ t.prog.applied = s.prog.applied) ∧
  (∀ s : State, s.prog.loadReq = true → s.asleep = false → s.noAdoption →
    Completes .load s fun t =>
      t.prog.pst = .ready ∧ t.prog.applied = true ∧ t.prog.dir = s.prog.loadDir ∧ t.prog.lastPoint = 0 ∧
      t.prog.replays = 0 ∧ t.prog.breaches = [] ∧ t.prog.loadReq = false ∧ t.prog.live = maskOf s.liveDies ∧
      t.keeper.memberGen = s.keeper.memberGen + 1 ∧ t.sec.imageDigests = s.sec.loading ∧
      t.out.getLast? = some .earlyClose) ∧
  (∀ s : State, s.prog.runReq = true → s.prog.loadReq = false → s.remapping = false →
    (s.reg pgProgram 0x040).getLsbD 0 = true → s.prog.pst = .ready ∨ s.prog.pst = .stepHold →
    s.allQuartersOn = true →
    Completes .run s fun t =>
      t.prog.pst = .running ∧ t.prog.runReq = false ∧ t.prog.lastPoint = 0 ∧ t.prog.replays = 0 ∧
      t.prog.breaches = [] ∧ t.prog.dir = s.prog.dir) ∧
  (∀ s : State, s.prog.runReq = true → s.prog.loadReq = false → s.remapping = false → s.allQuartersOn = false →
    Gives .run s { s with prog := { s.prog with runReq := false } }) ∧
  (∀ s : State, s.takesWrites pgProgram = true → s.noAdoption →
    Completes .abort s fun t =>
      t.prog.pst = .stopped ∧ t.prog.breaches = [] ∧ t.prog.replaying = false ∧ t.prog.remap = false ∧
      t.prog.dir = s.prog.dir ∧ t.prog.applied = s.prog.applied) ∧
  (∀ s : State, s.prog.pst = .running → s.prog.breaches = [] → s.allAtHalt true = true → s.settled = true →
    s.leftDies = [] → s.noAdoption →
    Completes .stepBarrier s fun t =>
      t.prog.pst = if (s.reg pgProgram 0x040).getLsbD 0 = true ∧ s.prog.hold = false ∧ s.allQuartersOn = true
        then .running else .stepHold) ∧
  (∀ s : State, s.prog.pst = .running → s.prog.breaches = [] → s.allAtHalt false = true → s.noAdoption →
    Completes .programHalted s fun t =>
      t = { s with prog := { s.prog with pst := .halted }, host := { s.host with changes := t.host.changes } })

/-- From R198 to R202. A command of a running stall that has not started raises the breach of its kind, with its die,
stall and index. At the stamp, in a running program that may replay, the first breach of those stamped together, by die
and then by stall, is recorded in PROGRAM; the program replays while REPLAYS is below REPLAY_MAX, and stops at it. Where
a replay is forbidden it stops. After HALTED the breach is recorded and counted with those that join it, and the
program, its stalls, its streams and memory stay. The replay resumes once the outstanding transfers have
completed and no stall waits for a spare, with one replay more, or as many after a remap.
It rests on the model's own readings of log entries 33, 92, 94. -/
def Obligations.BreachesReplay : Prop :=
  (∀ (s : State) (d : Die) (l : Stl), s.prog.pst = .running → s.stallOn d l = true → s.inBudget d l ≠ [] →
    Completes (.budgetExpiry d l) s fun t => ∃ e ∈ s.inBudget d l,
      t.prog.breaches = s.prog.breaches ++
        [{ code := BitVec.ofNat 16 e.2.breach, die := d, stall := l, agent := 0, index := e.1 }] ∧
      t = { s with prog := { s.prog with breaches := t.prog.breaches }, free := s.free + 1
                   host := { s.host with changes := t.host.changes } }) ∧
  (∀ (s : State) (b : Breach) (r : List Breach), s.prog.breaches = b :: r → s.prog.pst = .running →
    s.mayNotReplay = false →
    let c := firstBreach b (r.take (s.freeNow.toNat % (r.length + 1)))
    Completes .breachStamp s fun t =>
      t.reg pgProgram 0x060 = BitVec.ofNat 32
        (c.code.toNat * 65536 + c.die * 1024 + (if c.agent < 2 then c.stall else 0) * 16 + c.agent) ∧
      t.reg pgProgram 0x064 = BitVec.ofNat 32 c.index ∧ t.prog.breaches = [] ∧
      t.prog.replays = s.prog.replays ∧ t.prog.lastPoint = s.prog.lastPoint ∧
      (s.prog.replays < s.regField pgProgram 0x05C 7 0 → t.prog.pst = .replay ∧ t.prog.replaying = true) ∧
      (s.regField pgProgram 0x05C 7 0 ≤ s.prog.replays → t.prog.pst = .stopped ∧ t.prog.replaying = false)) ∧
  (∀ s : State, s.prog.breaches ≠ [] → s.prog.pst = .running → s.mayNotReplay = true →
    Completes .breachStamp s fun t =>
      t.prog.pst = .stopped ∧ t.prog.replaying = false ∧ t.prog.breaches = []) ∧
  (∀ (s : State) (b : Breach) (r : List Breach), s.prog.breaches = b :: r → s.prog.pst = .halted →
    let c := firstBreach b (r.take (s.freeNow.toNat % (r.length + 1)))
    Completes .breachStamp s fun t =>
      t.reg pgProgram 0x060 = BitVec.ofNat 32
        (c.code.toNat * 65536 + c.die * 1024 + (if c.agent < 2 then c.stall else 0) * 16 + c.agent) ∧
      t.reg pgProgram 0x064 = BitVec.ofNat 32 c.index ∧
      t.counter pgProgram 2 = s.counter pgProgram 2 + BitVec.ofNat 64 (r.length + 1) ∧
      t.prog = { s.prog with breaches := [] } ∧ t.stalls = s.stalls ∧ t.streams = s.streams ∧ t.mem = s.mem) ∧
  (∀ s : State, s.prog.pst = .replay → s.prog.replaying = true → s.quiet = true → s.mayNotReplay = false →
    s.remapsDone = true →
    Completes .replayResume s fun t =>
      t.prog.pst = .running ∧ t.prog.replaying = false ∧ t.prog.breaches = [] ∧
      t.prog.replays = (if s.prog.remap then s.prog.replays else s.prog.replays + 1) ∧
      t.prog.lastPoint = s.prog.lastPoint ∧ t.rounds.transit = [])


/-! ### Weight streaming -/

/-- From R227, R228, R239, R240, R242, R298. A FETCH that may leave takes the flow's next sequence number, is kept there,
leaves in its packet where the slot may send, and carries the credit that its issued transfers granted; while the store
is full it waits one counted cycle. Without a VALID key the walk fails with cause 7: the first time it re-fetches, the
second time it is lost with 0x0306. A walk whose data does not come in time is lost with cause 8 and 0x0306.
From R233. KEY_ERASE erases the slots of its mask at once, and holds the erase of one that a running program names,
which applies when the program no longer runs; no other key slot of the die changes.
It rests on the model's own readings of log entries 4, 17. -/
def Obligations.WalksFetchAndKeysErase : Prop :=
  (∀ (s : State) (d : Die) (e : Fin 32), s.fetchReady d e = true → (s.feKeySlot d e).valid = true →
    (s.port d).kept + 72 ≤ retryBytes →
    Completes (.fetchSend d e) s fun t =>
      let fl := feFlow (s.feCtl d e)
      t.fetch d e = { s.fetch d e with due := false, owed := 0, sent := true } ∧
      (t.flow d fl).tx = (s.flow d fl).tx + 1 ∧ (t.flow d fl).kept.length = (s.flow d fl).kept.length + 1 ∧
      (t.flow d fl).sent = (s.flow d fl).sent ∧
      (t.flow d fl).limitIn = (s.flow d fl).limitIn + BitVec.ofNat 64 (s.fetch d e).owed ∧
      (s.maySend d (s.flow d fl) = true → ∃ (f : TxFrame) (p : OutPacket), t.out = s.out ++ [.frame f p] ∧
        f.type = 2 ∧ f.seq = (s.flow d fl).tx ∧ f.flow = (s.flow d fl).peerFlow) ∧
      t.mem = s.mem ∧ t.prog = s.prog) ∧
  (∀ (s : State) (d : Die) (e : Fin 32), s.fetchReady d e = true → retryBytes < (s.port d).kept + 72 →
    Gives (.fetchSend d e) s (s.incSat (pgPort d) 0x07C)) ∧
  (∀ (s : State) (d : Die) (e : Fin 32), s.fetchReady d e = true → (s.feKeySlot d e).valid = false →
    (s.port d).kept + 72 ≤ retryBytes →
    Completes (.fetchSend d e) s fun t =>
      fieldOf (t.reg (pgDecrypt d) 0x060) 31 28 = 7 ∧ t.mem = s.mem ∧
      ((s.fetch d e).fails ≠ 0 → (t.fetch d e).st = .failed ∧ (t.fetch d e).due = false) ∧
      ((s.fetch d e).fails ≠ 0 → s.prog.pst = .running → s.budgetBroken = false →
        t.prog.breaches = s.prog.breaches ++
          [{ code := 0x0306, die := d, stall := 0, agent := 2, index := feStream (s.feCtl d e) }]) ∧
      ((s.fetch d e).fails = 0 → feFormIs (s.feCtl d e) 0 = false →
        (t.fetch d e).st = .refetch ∧ (t.fetch d e).due = true ∧ (t.fetch d e).fails = 1 ∧ t.prog = s.prog)) ∧
  (∀ (s : State) (d : Die) (e : Fin 32), (s.fetch d e).sent = true →
    (s.fetch d e).st = .fetching ∨ (s.fetch d e).st = .refetch → s.budgetBroken = false → s.prog.pst = .running →
    Completes (.arriveUsExpiry d e) s fun t =>
      t.fetch d e = { s.fetch d e with st := .failed, due := false } ∧
      t.prog.breaches = s.prog.breaches ++
        [{ code := 0x0306, die := d, stall := 0, agent := 2, index := feStream (s.feCtl d e) }] ∧
      fieldOf (t.reg (pgDecrypt d) 0x060) 31 28 = 8 ∧ t.mem = s.mem) ∧
  (∀ (s : State) (d : Die) (m : BitVec 16), s.takesWrites (pgDecrypt d) = true →
    Completes (.keyErase d m) s fun t =>
      (∀ k : Nat, k < 16 → t.keySlot d k =
        if m.getLsbD k then
          if s.running && s.keyUsed d k then { s.keySlot d k with pending := true } else KeySlot.reset
        else s.keySlot d k) ∧
      t = { s with weights := { s.weights with keys := t.weights.keys }
                   host := { s.host with changes := t.host.changes } }) ∧
  (∀ (s : State) (d : Die), s.running = false →
    Completes (.keyEraseApply d) s fun t =>
      (∀ k : Nat, k < 16 → t.keySlot d k = if (s.keySlot d k).pending then KeySlot.reset else s.keySlot d k) ∧
      t = { s with weights := { s.weights with keys := t.weights.keys }
                   host := { s.host with changes := t.host.changes } })

/-- From R230, R246, R287, R297. A WEIGHT frame that its port takes, that passes the receive checks for an OPEN slot and
acknowledges nothing new, and whose number has not arrived before, is received: the flow counts its bytes, ACK advances
past its number where that is the next, and the frame goes to the walk that its tag names; a tag of no walk is discarded
and counted. One whose number has arrived before is discarded and counted.
It rests on the model's own readings of log entries 6, 98. -/
def Obligations.WeightFrameReachesWalk : Prop :=
  (∀ (s : State) (p : Die) (k : Packet), s.takesV0 p k 0 →
    s.rxWindow p k.hdr k.hdr.length.toNat = true → (s.flow p k.hdr.flow.toNat).st = .open →
    (s.flow p k.hdr.flow.toNat).got.contains k.hdr.seq = false →
    let h := k.hdr
    let f := s.flow p h.flow.toNat
    let u := ((s.crossBuddy p (s.carrier p) k.udp.length).count (pgPort p) 1).takeSeq p h.flow.toNat h.seq h.length.toNat
    Gives (.weightFrame p k.toPacketHdr k.udp) s (u.takeWeight p h k.weightB) ∧
    (h.seq = f.rx → f.got.contains (h.seq + 1) = false → (u.flow p h.flow.toNat).rx = h.seq + 1) ∧
    (u.flow p h.flow.toNat).recv = f.recv + BitVec.ofNat 64 h.length.toNat ∧
    (u.fetchOf p h.flow.toNat k.weightB.fetchTag = none → Completes (.weightFrame p k.toPacketHdr k.udp) s fun t =>
      t.counter (pgDecrypt p) 2 = s.counter (pgDecrypt p) 2 + 1 ∧ t.mem = s.mem ∧ t.weights = s.weights ∧
      t.prog = s.prog)) ∧
  (∀ (s : State) (p : Die) (k : Packet), s.takesV0 p k 0 →
    s.rxWindow p k.hdr k.hdr.length.toNat = true → (s.flow p k.hdr.flow.toNat).st = .open →
    (s.flow p k.hdr.flow.toNat).got.contains k.hdr.seq = true →
    Completes (.weightFrame p k.toPacketHdr k.udp) s fun t =>
      t.counter (pgDecrypt p) 2 = s.counter (pgDecrypt p) 2 + 1 ∧ t.flows = s.flows ∧ t.mem = s.mem ∧
      t.weights = s.weights ∧ t.prog = s.prog)

/-! ### Reduction -/

/-- From R253, R256 to R260. A die that holds no local sum is READY with its weight and takes a bell token; the lead
lists one that comes in time with its lateness; the deadline decides the basket over the dies that are READY and in the
step; an included die that receives the decision starts the engine stage.
From R256, R264, R273, R276, R301. A level takes a chunk that it may work on and, before the last, a credit, when the
mesh serves it; when the chunk is done the level is free, and the levels before the third hand it to the next; the end
of the engine stage leaves the included dies SENDING or DONE with no sum; the window of LEVEL_SAT names the level that
rose most and starts again.
It rests on the model's own readings of log entries 24, 33, 83, 91, 101. -/
def Obligations.BasketsReduce : Prop :=
  (∀ (s : State) (d : Die) (b : Fin 128), s.collectMay d = true → s.dieIsReady d b = true →
    s.bkDest b ≠ 0 ∨ s.bkLocal b = 0 →
    Completes (.dieReady d b) s fun t =>
      (t.dieBasket d b).st = .ready ∧ (t.dieBasket d b).weight = (s.reg (pgCollect d) 0x040).toNat ∧
      (t.dieBasket d b).sum = (s.dieBasket d b).sum ∧ t.out = s.out ++ [.bell d (1024 + b)] ∧
      (t.ledger 0 lgBell d).held = (s.ledger 0 lgBell d).held + 1 ∧ t.mem = s.mem) ∧
  (∀ (s : State) (d : Die) (b : Fin 128) (n : Nat), s.readyComing d b = true → s.held pgReduce = false →
    (s.basket b).decided = false → s.reg pgReduce 0x04C = 0 ∨ n < (s.reg pgReduce 0x04C).toNat →
    Completes (.readyStamp d b n) s fun t =>
      (t.basket b).arrived = (s.basket b).arrived ++ [(d.val, if (s.basket b).arrived.isEmpty then 0 else n)] ∧
      (t.basket b).decided = s.stepDies.all (fun k => (t.basket b).arrived.any (·.1 == k)) ∧
      (t.ledger 0 lgBell d).returned = (s.ledger 0 lgBell d).returned + 1 ∧ t.mem = s.mem) ∧
  (∀ (s : State) (b : Fin 128), (s.basket b).window = true → (s.basket b).decided = false →
    s.held pgReduce = false →
    Completes (.deadlineExpiry b) s fun t =>
      (t.basket b).decided = true ∧ (t.basket b).window = false ∧ (t.basket b).byDead = true ∧
      (t.basket b).included = maskOf (((s.basket b).arrived.map (·.1)).filter fun d => s.inStep d) ∧
      t.counter pgReduce 0 = s.counter pgReduce 0 + 1 ∧
      t = { s with cnt := t.cnt, red := { s.red with eng := t.red.eng }
                   host := { s.host with changes := t.host.changes } }) ∧
  (∀ (s : State) (d : Die) (b : Fin 128), (s.basket b).decided = true →
    (s.basket b).received.contains d.val = false → s.collectMay d = true →
    Completes (.includedReceive d b) s fun t =>
      (t.basket b).received = d.val :: (s.basket b).received ∧
      (t.basket b).included = (s.basket b).included ∧
      ((bitsOf (s.basket b).included).contains d.val = true →
        (t.dieBasket d b).st = .reducing ∧ (t.dieBasket d b).engStart = 0 ∧ (t.dieBasket d b).engDone = 0) ∧
      ((bitsOf (s.basket b).included).contains d.val = false → t.dieBasket d b = s.dieBasket d b)) ∧
  (∀ (s : State) (d : Die) (k : Fin 6) (b : Fin 128) (c : Nat × Nat), s.collectMay d = true →
    s.levelChunk d k b = some c → (s.meshServe d 2 (s.chunkBytes c.1 c.2)).2 = true →
    Completes (.chunkLevelStart d k b) s fun t =>
      (t.level d k).busy = some c ∧ (t.level d k).chunks = (s.level d k).chunks.erase c ∧
      (t.level d k).credits = (if k.val < 5 then (s.level d k).credits - 1 else (s.level d k).credits) ∧
      t.ledgers = s.ledgers ∧ t.mem = s.mem) ∧
  (∀ (s : State) (d : Die) (k : Fin 6) (b : Fin 128) (c : Nat × Nat), (s.level d k).busy = some c → c.1 = b.val →
    s.dieLive d = true →
    Completes (.chunkLevelDone d k b) s fun t =>
      (t.level d k).busy = none ∧
      (k.val = 0 → (t.level d 1).chunks = (s.level d 1).chunks ++ [c] ∧
        (t.ledger d lgPipe 0).returned = (s.ledger d lgPipe 0).returned + 1) ∧
      (k.val = 1 → (t.level d 2).chunks = (s.level d 2).chunks ++ [c]) ∧
      (k.val = 2 → (t.level d 3).chunks = (s.level d 3).chunks ++ [c]) ∧
      (k.val = 4 → (t.dieBasket d c.1).engDone = (s.dieBasket d c.1).engDone + 1) ∧
      (k.val = 5 → t.counter pgReduce 2 = s.counter pgReduce 2 + 1) ∧ t.mem = s.mem) ∧
  (∀ (s : State) (b : Fin 128), s.stageReady b = true → s.held pgReduce = false →
    (∀ d ∈ bitsOf (s.basket b).included, s.held (pgCollect d) = false) →
    Completes (.engineStageDone b) s fun t =>
      ∀ d ∈ bitsOf (s.basket b).included,
        ((t.dieBasket d b).st = .done ∨ (s.bkDest b = 0 ∧ (t.dieBasket d b).st = .sending)) ∧
        (t.dieBasket d b).sum = []) ∧
  (∀ (s : State) (d : Die), s.dieLive d = true →
    Completes (.levelSatWindow d) s fun t =>
      t.reg (pgCollect d) 0x0A8 = BitVec.ofNat 32 (s.mostBusy d) ∧
      (∀ k : Nat, k < 6 → t.level d k = { s.level d k with rose := 0 }) ∧
      t = { s with regs := t.regs, red := { s.red with level := t.red.level }
                   host := { s.host with changes := t.host.changes } })


/-! ### Sloub ports and flows -/

/-- From R281, R282, R286, R351. A packet that is no Sloub frame is counted and dropped, a PAUSE frame is counted, and a
solicitation is answered, with the MAC address of the port that answers, for the port's own address and for its buddy's
while it carries the buddy's flows.
From R306, R351, Table 16.8. A port whose link goes down raises 0x0501 and keeps its flows; when the link is up a
starting port is ON and a draining port stays DRAINING; after the hold its flows move to the buddy's port, whose
advertisement overrides.
It rests on the model's own readings of log entries 4, 6, 99. -/
def Obligations.PortsCountAndMove : Prop :=
  (∀ (s : State) (p : Die), s.portTakes p = true →
    Completes (.nonSloubPacket p) s fun t =>
      (t.reg (pgPort p) 0x080).toNat = min 0xFFFFFFFF ((s.reg (pgPort p) 0x080).toNat + 1) ∧
      t = { s with regs := t.regs, host := { s.host with changes := t.host.changes } }) ∧
  (∀ (s : State) (p : Die), s.linkOn p = true →
    Completes (.pauseFrame p) s fun t =>
      (t.reg (pgPort p) 0x09C).toNat = min 0xFFFFFFFF ((s.reg (pgPort p) 0x09C).toNat + 1) ∧
      t = { s with regs := t.regs, host := { s.host with changes := t.host.changes } }) ∧
  (∀ (s : State) (p : Die), s.linkOn p = true → s.carrier p = p.val →
    Gives (.neighborSolicitation p (s.portIp p)) s (s.emit (.neighborAdv p p (s.portIp p) (s.portMac p) false))) ∧
  (∀ (s : State) (p : Die), s.linkOn p = true → s.carrier (p.val ^^^ 1) = p.val → s.dieOut (p.val ^^^ 1) = false →
    s.portIp p ≠ s.portIp (p.val ^^^ 1) →
    Gives (.neighborSolicitation p (s.portIp (p.val ^^^ 1))) s
      (s.emit (.neighborAdv (p.val ^^^ 1) p (s.portIp (p.val ^^^ 1)) (s.portMac p) false))) ∧
  (∀ (s : State) (p : Die), s.linkOn p = true →
    Completes (.linkDown p) s fun t =>
      t.port p = { s.port p with link := 0 } ∧ t.counter (pgPortLink p) 2 = s.counter (pgPortLink p) 2 + 1 ∧
      fieldOf (t.reg (pgPortLink p) rFault) 31 16 = 0x0501 ∧ t.flows = s.flows) ∧
  (∀ (s : State) (p : Die), (s.port p).st = .on ∨ (s.port p).st = .starting ∨ (s.port p).st = .draining →
    s.dieOut p = false → (s.port p).link ≠ 3 →
    Gives (.linkUp p) s
      (s.setPort p { s.port p with st := if (s.port p).st = .draining then .draining else .on, link := 3 })) ∧
  (∀ (s : State) (p : Die), (s.port p).st = .on → s.dieOut p = false → (s.port p).link ≠ 3 → s.carrier p = p.val →
    (s.regPair pgSpareMap 0x04C).getLsbD (p.val ^^^ 1) = false → s.dieOut (p.val ^^^ 1) = false →
    (s.port (p.val ^^^ 1)).link = 3 → (s.port (p.val ^^^ 1)).st = .on → (∀ c, (s.bctx c).live = false) →
    Completes (.portHoldExpiry p) s fun t =>
      t.carrier p = p.val ^^^ 1 ∧
      t.out.getLast? = some (.neighborAdv p (p.val ^^^ 1) (s.portIp p) (s.portMac (p.val ^^^ 1)) true) ∧
      t.counter pgSpareMap 2 = s.counter pgSpareMap 2 + 1 ∧ t.flows = s.flows)

/-- From R289 to R291. A request to any slot takes a FREE, eligible one: its generation rises, it records the peer
and is OPEN with the peer's numbers; the peer's OPEN answers an OPENING slot; a REFUSE frees it with cause 5.
From R292, R295 to R298. The peer's CLOSE closes an OPEN slot, with the cause that its reason gives, and the slot is
CLOSING with the peer's counts or already FREE; a CREDIT above the LIMIT raises it, issued in the egress ledger; a NACK
of missing frames makes each frame sent once, that it names, go again.
It rests on the model's own readings of log entries 6, 51, 98. -/
def Obligations.FlowsOpenAndClose : Prop :=
  (∀ (s : State) (p : Die) (k : Packet) (f : Nat), s.rxMay p k.hdr = true → s.rxOuter p k.hdr = none →
    k.hdr.type = 4 → k.mode = 0 → k.hdr.flow = 0xFFFF → s.shuttered = false → s.freeSlot p = some f →
    Completes (.openRequestFrame p k.toPacketHdr k.udp) s fun t =>
      let x := t.flow p f
      x.st = .open ∧ x.gen = (s.flow p f).gen + 1 ∧ x.peer = k.hdr.src ∧ x.peerIp = k.srcIp ∧
      x.peerUdp = k.udpSrc ∧ x.peerFlow = k.openB.senderFlow ∧ x.peerGen = k.openB.senderGen ∧
      x.rx = k.openB.initSeq ∧ x.limitOut = k.openB.limit ∧ x.limitIn = 0 ∧ x.leid = s.leid ∧ x.kept = [] ∧
      t.counter pgFlows 0 = s.counter pgFlows 0 + 1 ∧
      t = { s with out := t.out, free := t.free, cnt := t.cnt, flows := t.flows, ledgers := t.ledgers
                   host := { s.host with changes := t.host.changes } }) ∧
  (∀ (s : State) (p : Die) (k : Packet), s.takesV0 p k 4 → k.mode ≠ 0 →
    (s.flow p k.hdr.flow.toNat).st = .opening →
    Completes (.openAcceptFrame p k.toPacketHdr k.udp) s fun t =>
      let x := t.flow p k.hdr.flow.toNat
      x.st = .open ∧ x.peerFlow = k.openB.senderFlow ∧ x.peerGen = k.openB.senderGen ∧ x.rx = k.openB.initSeq ∧
      x.gen = (s.flow p k.hdr.flow.toNat).gen ∧
      t = { s with free := t.free, cnt := t.cnt, flows := t.flows, ledgers := t.ledgers
                   host := { s.host with changes := t.host.changes } }) ∧
  (∀ (s : State) (p : Die) (k : Packet), s.takesV0 p k 6 → (s.flow p k.hdr.flow.toNat).st = .opening →
    Completes (.refuseFrame p k.toPacketHdr k.udp) s fun t =>
      let x := t.flow p k.hdr.flow.toNat
      x.st = .free ∧ x.cause = 5 ∧ x.gen = (s.flow p k.hdr.flow.toNat).gen ∧ t.mem = s.mem) ∧
  (∀ (s : State) (p : Die) (k : Packet), s.takesV0 p k 5 → (s.flow p k.hdr.flow.toNat).st = .open →
    Completes (.closeFrame p k.toPacketHdr k.udp) s fun t =>
      let x := t.flow p k.hdr.flow.toNat
      (x.st = .free ∨ (x.st = .closing ∧ x.peerFin = some (k.closeB.finalSeq, k.closeB.sent, k.closeB.limit))) ∧
      x.cause = (if k.closeB.reason = 1 then 3 else 2) ∧ x.finalSeq = (s.flow p k.hdr.flow.toNat).tx) ∧
  (∀ (s : State) (p : Die) (k : Packet), s.takesV0 p k 3 → (s.flow p k.hdr.flow.toNat).st = .open →
    (s.flow p k.hdr.flow.toNat).limitOut.toNat < k.limit.toNat →
    Completes (.creditFrame p k.toPacketHdr k.udp) s fun t =>
      let i := k.hdr.flow.toNat
      (t.flow p i).limitOut = k.limit ∧ (t.flow p i).st = .open ∧ (t.flow p i).sent = (s.flow p i).sent ∧
      (t.ledger p lgFlowOut i).issued = (s.ledger p lgFlowOut i).issued + (k.limit - (s.flow p i).limitOut) ∧
      t.counter (pgPort p) 1 = s.counter (pgPort p) 1 + 1) ∧
  (∀ (s : State) (p : Die) (k : Packet), s.takesV0 p k 7 → (s.flow p k.hdr.flow.toNat).st = .open →
    (s.flow p k.hdr.flow.toNat).lost = false → k.nackB.reason = 0 →
    Completes (.nackFrame p k.toPacketHdr k.udp) s fun t =>
      let i := k.hdr.flow.toNat
      (∀ e ∈ (s.flow p i).kept, inRanges k.nackB.ranges e.frame.seq = true → e.sends = 1 →
        { e with sends := 2 } ∈ (t.flow p i).kept) ∧
      (t.flow p i).kept.length = (s.flow p i).kept.length ∧ (t.flow p i).tx = (s.flow p i).tx ∧ t.mem = s.mem)

/-- From R289, R291, R292, R294, R297, R298, R300. OPEN_REQ of a FREE, eligible slot opens it under a new generation; a
slot is eligible again after its time; CLOSE_REQ closes an OPEN slot; the frame at the head of the queue leaves where the
flow has credit, the store has room and the carrier's round robin serves its class, and is kept; without credit or room
it waits one counted cycle; PURGE of a FREE slot drops what it keeps.
From R292, R293, R298, R305. With more sends than RETRY_MAX an OPENING slot is lost and FREE with cause 4, and an OPEN
one is lost and CLOSING with cause 4; otherwise the OPEN or the oldest frame goes again; the ACK of a flow goes out when
its delay ends, with a NACK where it has a gap; a CLOSING slot is written off and FREE with cause 7; in Shutter every
OPEN flow sends its CREDIT.
It rests on the model's own readings of log entries 4, 17, 47, 100. -/
def Obligations.FlowsSendAndTime : Prop :=
  (∀ (s : State) (p : Die) (f : Fin 1024), (s.flow p f).openReq = true → s.keeper.leidReq = false →
    (s.flow p f).st = .free → (s.flow p f).eligible = true →
    Completes (.openReq p f) s fun t =>
      (t.flow p f).st = .opening ∧ (t.flow p f).gen = (s.flow p f).gen + 1 ∧ (t.flow p f).openReq = false ∧
      (t.flow p f).peer = (s.flow p f).ctl ∧ (t.flow p f).peerIp = (s.flow p f).cfgIp ∧
      (t.flow p f).openSends = 1 ∧ (t.flow p f).leid = s.leid ∧
      t = { s with out := t.out, free := t.free, cnt := t.cnt, flows := t.flows
                   host := { s.host with changes := t.host.changes } }) ∧
  (∀ (s : State) (p : Die) (f : Fin 1024), (s.flow p f).eligible = false → (s.flow p f).openWait = false →
    Gives (.slotEligible p f) s (s.setFlow p f { s.flow p f with eligible := true })) ∧
  (∀ (s : State) (p : Die) (f : Fin 1024), (s.flow p f).closeReq = true → (s.flow p f).openReq = false →
    (s.flow p f).st = .open →
    Completes (.closeReq p f) s fun t =>
      (t.flow p f).st = .closing ∧ (t.flow p f).cause = 1 ∧ (t.flow p f).closeReq = false ∧
      (t.flow p f).finalSeq = (s.flow p f).tx) ∧
  (∀ (s : State) (p : Die) (f : Fin 1024) (k : Kept) (r : List Kept) (d : Drr), (s.flow p f).queue = k :: r →
    s.egressMay p f = true → s.egressFits p f k = true →
    let i := k.frame.egressClass (s.carrier p == p.val)
    s.egressPick (s.carrier p) i (frameBytes k.frame) = some (i, d) →
    Completes (.frameEgress p f) s fun t =>
      (t.flow p f).queue = r ∧ (t.flow p f).tx = (s.flow p f).tx + 1 ∧
      (t.flow p f).sent = (s.flow p f).sent + BitVec.ofNat 64 k.bytes ∧
      (t.flow p f).kept.length = (s.flow p f).kept.length + 1 ∧ t.out.length = s.out.length + 1 ∧
      t.counter (pgPort p) 0 = s.counter (pgPort p) 0 + 1 ∧ (t.port (s.carrier p)).drr = d ∧
      t = { s with out := t.out, free := t.free, cnt := t.cnt, ports := t.ports, flows := t.flows
                   host := { s.host with changes := t.host.changes } }) ∧
  (∀ (s : State) (p : Die) (f : Fin 1024) (k : Kept) (r : List Kept), (s.flow p f).queue = k :: r →
    s.egressMay p f = true → s.egressFits p f k = false →
    Gives (.frameEgress p f) s (s.incSat (pgPort p) 0x07C)) ∧
  (∀ (s : State) (p f : Nat), s.takesWrites pgFlows = true → p = s.regField pgFlows 0x040 15 10 →
    f = s.regField pgFlows 0x040 9 0 → (s.flow p f).st = .free →
    Completes .purge s fun t => (t.flow p f).kept = [] ∧ (t.flow p f).st = .free ∧
      (∀ k ∈ (t.flow p f).queue, k ∈ (s.flow p f).queue ∧ k.sends = 0) ∧ t.mem = s.mem) ∧
  (∀ (s : State) (p : Die) (f : Fin 1024), s.timersRun p = true → (s.flow p f).st = .opening →
    s.retryMax p < (s.flow p f).openSends →
    Completes (.rtoExpiry p f) s fun t => (t.flow p f).st = .free ∧ (t.flow p f).cause = 4) ∧
  (∀ (s : State) (p : Die) (f : Fin 1024), s.timersRun p = true → (s.flow p f).st = .opening →
    (s.flow p f).openSends ≤ s.retryMax p →
    Gives (.rtoExpiry p f) s ((s.setFlow p f { s.flow p f with openSends := (s.flow p f).openSends + 1 }).sendOpen p f)) ∧
  (∀ (s : State) (p : Die) (f : Fin 1024) (k : Kept) (r : List Kept), s.timersRun p = true →
    (s.flow p f).st = .open → (s.flow p f).lost = false → (s.flow p f).kept = k :: r → s.retryMax p < k.sends →
    Completes (.rtoExpiry p f) s fun t =>
      (t.flow p f).st = .closing ∧ (t.flow p f).cause = 4 ∧ (t.flow p f).lost = true) ∧
  (∀ (s : State) (p : Die) (f : Fin 1024) (k : Kept) (r : List Kept), s.timersRun p = true →
    (s.flow p f).st = .open → (s.flow p f).lost = false → (s.flow p f).kept = k :: r → k.sends ≤ s.retryMax p →
    Completes (.rtoExpiry p f) s fun t =>
      (t.flow p f).kept.head? = some { k with sends := k.sends + 1 } ∧ (t.flow p f).st = .open ∧
      (t.flow p f).tx = (s.flow p f).tx ∧
      t = { s with out := t.out, free := t.free, cnt := t.cnt, flows := t.flows
                   host := { s.host with changes := t.host.changes } }) ∧
  (∀ (s : State) (p : Die) (f : Fin 1024), (s.flow p f).st = .open ∨ (s.flow p f).st = .closing →
    s.portUp p = true →
    Gives (.ackDelayExpiry p f) s
      (if (s.flow p f).got = [] then s.sendCredit p f else (s.sendCredit p f).sendNack p f)) ∧
  (∀ (s : State) (p : Die) (f : Fin 1024), (s.flow p f).st = .closing →
    Completes (.writeOffExpiry p f) s fun t =>
      (t.flow p f).st = .free ∧ (t.flow p f).cause = 7 ∧ t.counter pgFlows 2 = s.counter pgFlows 2 + 1 ∧
      fieldOf (t.reg pgFlows rFault) 31 16 = 0x0503 ∧
      (t.ledger p lgFlowIn f).woff = (s.ledger p lgFlowIn f).woff +
        BitVec.ofNat 64 ((s.flow p f).limitIn.toNat - (s.flow p f).recv.toNat)) ∧
  (∀ (s : State) (p : Die), s.shuttered = true → s.portUp p = true → s.leid ≠ 0 → s.keeper.withdrawn = false →
    Completes (.shutterCreditTick p) s fun t =>
      t.out.length = s.out.length + ((List.range 1024).filter fun f => (s.flow p f).st == .open).length ∧
      t = { s with out := t.out, free := t.free, cnt := t.cnt, host := { s.host with changes := t.host.changes } })


/-! ### Bundles and ledgers -/

/-- From R313 to R318, R320. In the selected host context OPEN takes the next tag, 0 left out, and fixes the scope; COMMIT
begins to prepare, or aborts with the reason known; ABORT discards what is staged with reason 8.
It rests on the model's own readings of log entry 19. -/
def Obligations.HostBundleCommands : Prop :=
  (∀ (s : State) (e : Bool), s.takesWrites pgBundle = true → s.bndSel < 4 → (∀ c, (s.bctx c).live = false) →
    e = true ∨ (∃ d ∈ s.liveDies, (s.bctx s.bndSel).scope.getLsbD d = true) →
    Completes (.bndOpen e) s fun t =>
      let x := t.bctx s.bndSel
      x.st = .open ∧ x.engine = e ∧ x.inEngine = e ∧ x.inScope = (s.bctx s.bndSel).scope ∧ x.staged = [] ∧
      x.tag = t.bnd.tag ∧ t.bnd.tag = (if s.bnd.tag = 0xFFFFFFFF then 1 else s.bnd.tag + 1) ∧ t.mem = s.mem) ∧
  (∀ (s : State) (e : Bool), s.takesWrites pgBundle = true → s.bndSel < 4 → (s.bctx s.bndSel).st = .open →
    Completes (.bndCommit e) s fun t =>
      let x := s.bctx s.bndSel
      if x.mark = 0 then t.bctx s.bndSel = { x with engine := e, st := .preparing, parts := [], blocks := [] }
      else (t.bctx s.bndSel).st = .aborted ∧ (t.bctx s.bndSel).reason = x.mark ∧
        (t.bctx s.bndSel).wher = x.wher ∧ (t.bctx s.bndSel).staged = []) ∧
  (∀ (s : State) (e : Bool), s.takesWrites pgBundle = true → s.bndSel < 4 → (s.bctx s.bndSel).live = true →
    (s.bctx s.bndSel).applySent = false →
    Completes (.bndAbort e) s fun t =>
      (t.bctx s.bndSel).st = .aborted ∧ (t.bctx s.bndSel).reason = 8 ∧ (t.bctx s.bndSel).staged = [] ∧
      t.counter pgBundle 1 = s.counter pgBundle 1 + 1 ∧
      t = { s with cnt := t.cnt, bnd := t.bnd, host := { s.host with changes := t.host.changes } })

/-- From R318 to R320, R322 to R324, R340, Table 13.2. A participant that prepares answers by its checks, its blocks hold,
it reports READY or NAK, APPLY is sent when all are READY and reaches each; with the last the bundle is COMMITTED under
its tag, unless it carries a remap request, with which it commits. ABORT frees the blocks that hold, and the window's
end aborts with reason 2.
Of a program bundle the READY of a die opens the window, and with the last die APPLY is sent; APPLY reaches a die once,
its token comes back, and with the last die the bundle's count rises; the window's end aborts it, and it counts nothing.
It rests on the model's own readings of log entries 15, 20, 44, 49, 104. -/
def Obligations.CommitsArePhased : Prop :=
  (∀ (s : State) (c : Fin 6) (p : Fin 65), s.prepares c p = true →
    Completes (.bundlePrepare (.ctx c) p) s fun t =>
      (t.bctx c).part p = (if s.partBad (s.bctx c) p = none then .prepared else .nak) ∧
      (t.bctx c).st = .preparing ∧ (t.bctx c).staged = (s.bctx c).staged ∧
      t = { s with bnd := t.bnd, ledgers := t.ledgers, host := { s.host with changes := t.host.changes } }) ∧
  (∀ (s : State) (c : Fin 6) (p : Fin 65) (g : Fin 16384), (s.bctx c).st = .preparing →
    (s.bctx c).part p = .prepared → (s.partPages (s.bctx c) p).contains g.val = true →
    (s.bctx c).blocks.contains g.val = false → s.atHoldPoint (s.bctx c) g = true →
    Completes (.blockHoldReady (.ctx c) p g) s fun t =>
      t.bctx c = { s.bctx c with blocks := g.val :: (s.bctx c).blocks } ∧ t.held g = true ∧
      t = { s with bnd := t.bnd, host := { s.host with changes := t.host.changes } }) ∧
  (∀ (s : State) (c : Fin 6) (p : Fin 65), (s.bctx c).st = .preparing → (s.bctx c).applySent = false →
    (s.bctx c).part p = .prepared →
    (∀ g ∈ s.partPages (s.bctx c) p, g ∈ (s.bctx c).blocks ∧ g ∉ (s.bctx c).faults) →
    Completes (.bundleReady (.ctx c) p) s fun t =>
      (t.bctx c).part p = .ready ∧
      (t.bctx c).applySent = (s.ctxParts (s.bctx c)).all (fun e => (t.bctx c).part e == .ready)) ∧
  (∀ (s : State) (c : Fin 6) (p : Fin 65), (s.bctx c).st = .preparing → (s.bctx c).applySent = false →
    (s.bctx c).part p = .nak →
    Completes (.bundleNak (.ctx c) p) s fun t =>
      (t.bctx c).st = .aborted ∧ (t.bctx c).reason = (s.bctx c).reason ∧ (t.bctx c).wher = (s.bctx c).wher ∧
      (t.bctx c).staged = []) ∧
  (∀ (s : State) (c : Fin 6) (p : Fin 65), (s.bctx c).applySent = true → (s.bctx c).part p = .ready →
    Completes (.bundleApply (.ctx c) p) s fun t =>
      if (s.bctx c).remaps = none ∧ ∀ e ∈ s.ctxParts (s.bctx c), e = p.val ∨ (s.bctx c).part e = .applied then
        (t.bctx c).st = .committed ∧ (t.bctx c).staged = [] ∧ t.reg pgBundle 0x05C = (s.bctx c).tag
      else (t.bctx c).part p = .applied ∧ (t.bctx c).st = (s.bctx c).st) ∧
  (∀ (s : State) (c : Fin 6) (p : Fin 65), (s.bctx c).st = .aborted → (s.bctx c).part p ≠ .none →
    (s.bctx c).part p ≠ .dropped →
    Completes (.bundleAbortReceive (.ctx c) p) s fun t =>
      (t.bctx c).part p = .none ∧
      (t.bctx c).blocks = (s.bctx c).blocks.filter (fun g => s.pagePart (s.bctx c) g != p.val)) ∧
  (∀ (s : State) (c : Fin 6), (s.bctx c).st = .preparing → (s.bctx c).applySent = false →
    Completes (.commitWindowExpiry (.ctx c)) s fun t =>
      (t.bctx c).st = .aborted ∧ (t.bctx c).reason = 2 ∧ (t.bctx c).staged = [] ∧
      fieldOf (t.reg pgBundle rFault) 31 16 = 0x0A01) ∧
  (∀ (s : State) (n : Fin 4096) (p : Fin 65), s.pbDieReady n p = true →
    Completes (.bundleReady (.prog n) p) s fun t =>
      (t.pbundle n).dies = p.val :: (s.pbundle n).dies ∧ (t.pbundle n).window = true ∧
      (t.pbundle n).applySent = (s.pbDies n).all (fun d => (t.pbundle n).dies.contains d) ∧
      (t.ledger 0 lgBell p).held = (s.ledger 0 lgBell p).held + 1) ∧
  (∀ (s : State) (n : Fin 4096) (p : Fin 65), (s.pbundle n).applySent = true →
    (s.pbundle n).dies.contains p.val = true → (s.pbundle n).applied.contains p.val = false → s.dieLive p = true →
    s.pbParked p n = true →
    Completes (.bundleApply (.prog n) p) s fun t =>
      t.counter (pgDieBundle p) 0 = s.counter (pgDieBundle p) 0 + 1 ∧
      (t.ledger 0 lgBell p).returned = (s.ledger 0 lgBell p).returned + 1 ∧
      (if ∀ d ∈ (s.pbundle n).dies, d = p.val ∨ d ∈ (s.pbundle n).applied then
        (t.pbundle n).count = (s.pbundle n).count + 1 ∧ (t.pbundle n).applySent = false ∧ (t.pbundle n).dies = []
      else (t.pbundle n).count = (s.pbundle n).count ∧ (t.pbundle n).applied = p.val :: (s.pbundle n).applied)) ∧
  (∀ (s : State) (n : Fin 4096), (s.pbundle n).window = true → (s.pbundle n).applySent = false →
    Completes (.commitWindowExpiry (.prog n)) s fun t =>
      (t.pbundle n).dies = [] ∧ (t.pbundle n).ready = [] ∧ (t.pbundle n).window = false ∧
      (t.pbundle n).count = (s.pbundle n).count ∧ t.mem = s.mem)

/-- From R327, R404, Table 13.5. A check that finds a sum of zero leaves the ledger page's rounds counted and nothing else
changed; a bell ledger that fails is recorded, raises 0x0602 and stops the program.
It rests on the model's own readings of log entry 50. -/
def Obligations.LedgerChecksHold : Prop :=
  (∀ (s : State) (d : Die) (l : LedgerRef), l.idx.val < ledgerCount l.cls.val → l.cls.val = 7 ∨ s.dieLive d = true →
    (s.ledger (if l.cls.val = 7 then 0 else d.val) l.cls.val l.idx.val).sum = 0 →
    Completes (.ledgerCheck d l) s fun t =>
      t = { s with cnt := t.cnt, host := { s.host with changes := t.host.changes } } ∧
      ((6 ≤ l.cls.val ∧ l.idx.val + 1 = ledgerCount l.cls.val) ∨ t.cnt = s.cnt)) ∧
  (∀ (s : State) (d : Die) (l : LedgerRef), l.cls.val = 7 → l.idx.val < 64 →
    (s.ledger 0 7 l.idx.val).sum ≠ 0 →
    Completes (.ledgerCheck d l) s fun t =>
      t.prog.pst = .stopped ∧ (t.reg pgLedger 0x064).getLsbD 31 = true ∧
      fieldOf (t.reg pgLedger rFault) 31 16 = 0x0602)

/-! ### Faults and recovery -/

/-- R137: a write that covers a poisoned word replaces it with the written bytes and valid check bits; one that
covers less leaves memory as it was and is counted in POISON_READ_CNT. -/
def Obligations.PoisonedWordWrites : Prop :=
  ∀ (s : State) (src w i : Nat) (l : List Byte), s.wordPoison w = true → 0 < l.length → i + l.length ≤ 8 →
    let t := s.writeBytes src (8 * w + i) l
    (l.length = 8 → t.wordPoison w = false ∧ t.eccClass w = 0 ∧
      ∀ j, ∀ h : j < l.length, t.readByte (8 * w + j) = (l[j], false)) ∧
    (l.length < 8 → t.mem = s.mem ∧
      (t.reg (keyPage (8 * w)) rPoisonRead).toNat =
        min 0xFFFFFFFF ((s.reg (keyPage (8 * w)) rPoisonRead).toNat + 1))

/-- R402: a fault recorded in a page sets its class bit and LAST_CODE, and FAULT_FIRST if no class was set; a write
that leaves CLASS all zero clears LAST_CODE and FAULT_FIRST, and a clearing write changes nothing of the block:
no other register, and nothing beyond registers and the counts of accesses. -/
def Obligations.FaultsAreRecorded : Prop :=
  (∀ (s : State) (page code : Nat), 256 ≤ code → code < 2816 →
    (isDiePage page = true → s.dieOut (pageDie page) = false ∨ page = pgDieHealth (pageDie page)) →
    let t := s.raise page code
    (t.reg page rFault).getLsbD (code / 256) = true ∧ fieldOf (t.reg page rFault) 31 16 = code ∧
    (∀ i, i < 16 → i ≠ code / 256 → (t.reg page rFault).getLsbD i = (s.reg page rFault).getLsbD i) ∧
    t.reg page rFaultFirst =
      if fieldOf (s.reg page rFault) 10 1 = 0 then BitVec.ofNat 32 code else s.reg page rFaultFirst) ∧
  (∀ (s : State) (a : BitVec 26) (v : Word) (k : PageKind) (page : Nat), s.reaches a page rFault →
    s.takesWrites page = true → pageKind page = some k →
    Completes (.w1cWrite a 4 v 0) s fun t =>
      let new := s.reg page rFault &&& ~~~(v &&& 0x7FE)
      (if fieldOf new 10 1 = 0 then t.reg page rFault = 0 ∧ t.reg page rFaultFirst = 0
        else t.reg page rFault = new ∧ t.reg page rFaultFirst = s.reg page rFaultFirst) ∧
      (∀ p o, regKey p o ≠ regKey page rFault → regKey p o ≠ regKey page rFaultFirst → t.reg p o = s.reg p o) ∧
      t = { s with regs := t.regs, cnt := t.cnt, host := { s.host with changes := t.host.changes } })

/-- From R334, R343. A round of heartbeats counts the misses in a row of every die whose bell node is in service and
starts again at an answer; the eighth takes the die out. From R338 to R340. A spare that fails its self-test is FAULTED
and in the repair map, and with one that passes the remap of a broken stall goes on; a bundle that carries a remap
request commits with the remap, while no program runs. From R343 to R347, R353. A committed DIE_OUT takes the die out,
with its quarters and its port; one cleared boots it again, while no program runs; a cleared PORT_MOVE is done.
It rests on the model's own readings of log entries 42, 47, 52, 76. -/
def Obligations.DiesGoAndReturn : Prop :=
  (∀ (s : State) (m : DWord), 5 ≤ s.keeper.bring →
    (∀ d, d < 64 → (s.die d).bell = true → m.getLsbD d = false → (s.die d).missed < 7) →
    Completes (.heartbeat m) s fun t =>
      (∀ d, d < 64 → t.die d = if (s.die d).bell
        then { s.die d with missed := if m.getLsbD d then 0 else (s.die d).missed + 1 } else s.die d) ∧
      t.counter pgBell 2 = s.counter pgBell 2 + 1 ∧
      t = { s with dies := t.dies, cnt := t.cnt, host := { s.host with changes := t.host.changes } }) ∧
  (∀ (s : State) (m : DWord) (d : Die), 5 ≤ s.keeper.bring → (s.die d).bell = true → m.getLsbD d = false →
    (s.die d).missed = 7 → Completes (.heartbeat m) s fun t => t.dieOut d = true) ∧
  (∀ (s : State) (d : Die) (p : Slot) (l : Nat), s.slotState d p = .testing →
    (s.quarter d (slotQuarter p)).remapOf = some l → s.spareOf d (slotQuarter p) ≠ none →
    Completes (.selfTestDone d p false) s fun t =>
      t.slotState d p = .faulted ∧
      (∃ r ∈ t.keeper.repairs, r.kind = 0 ∧ r.die = d.val ∧ r.unit = p.val) ∧
      t.counter (pgQuarter d (slotQuarter p)) 2 = s.counter (pgQuarter d (slotQuarter p)) 2 + 1 ∧
      t = { s with cnt := t.cnt, quarters := t.quarters, keeper := { s.keeper with repairs := t.keeper.repairs }
                   host := { s.host with changes := t.host.changes } }) ∧
  (∀ (s : State) (d : Die) (p : Slot) (l old : Nat), s.slotState d p = .testing →
    (s.quarter d (slotQuarter p)).remapOf = some l → s.slotOf d l = some old → s.slotState d old = .faulted →
    s.unitOut d old = 0 → (s.slot d old).noReplay = true →
    Gives (.selfTestDone d p true) s
      (((s.count (pgQuarter d (slotQuarter p)) 1).remap d l p .faulted).nextSpare d (slotQuarter p))) ∧
  (∀ (s : State) (c d l p old : Nat) (v : Word), s.remapCtx = some c → (s.bctx c).remaps = some v →
    s.running = false → d = fieldOf v 21 16 → l = fieldOf v 13 8 → p = fieldOf v 6 0 → s.dieLive d = true →
    s.slotOf d l = some old → s.slotState d p = .spare → slotQuarter p = l / 16 →
    Completes .remapReq s fun t =>
      t.slotOf d l = some p ∧ t.slotState d p = .mapped ∧ (t.bctx c).st = .committed ∧
      t.reg pgBundle 0x05C = (s.bctx c).tag ∧ t.reg pgSpareMap rBundleTag = (s.bctx c).tag ∧
      t.dies = s.dies ∧ t.ports = s.ports ∧ t.wales = s.wales ∧ t.pwr = s.pwr) ∧
  (∀ (s : State) (d : Die), s.keeper.outReq.getLsbD d = true → s.dieOut d = false →
    Completes (.dieOutSet d) s fun t =>
      (t.die d).st = .faulted ∧ (t.die d).service = 2 ∧ (t.die d).cause = 6 ∧ (t.die d).bell = false ∧
      (∀ q, q < 4 → (t.quarter d q).st = .off ∧ (t.quarter d q).cause = 5 ∧ (t.quarter d q).gated = true) ∧
      (t.port d).st = .off ∧ (t.port d).link = 0) ∧
  (∀ (s : State) (d : Die), s.keeper.inReq.getLsbD d = true → s.dieOut d = true → (s.die d).st ≠ .starting →
    s.running = false →
    Completes (.dieReadmit d) s fun t =>
      t.die d = { s.die d with st := .starting, stage := 2, err := 0, layers := 0, hash := 0, trained := false
                               readmit := true } ∧
      t.keeper = { s.keeper with inReq := s.keeper.inReq &&& ~~~(BitVec.ofNat 64 (2 ^ d.val))
                                 memberGen := s.keeper.memberGen + 1 } ∧
      t.counter (pgDieCtl d) 0 = s.counter (pgDieCtl d) 0 + 1 ∧
      t = { s with dies := t.dies, cnt := t.cnt, keeper := t.keeper
                   host := { s.host with changes := t.host.changes } }) ∧
  (∀ (s : State) (p : Die), s.keeper.moveReq.getLsbD p = true →
    Gives (.portMoveClear p) s
      { s with keeper := { s.keeper with moveReq := s.keeper.moveReq &&& ~~~(BitVec.ofNat 64 (2 ^ p.val)) } })

/-- From R175, R348 to R350. A group whose flits fail 16 resends waits and retrains; a lane's attributed errors count in its
window and past LANE_ERR_MAX it is retired: the group's spare takes its place, or its group leaves service;
the spare's swap ends the wait; hops of the path take relays over what is left, and where a hop has none there is no
path.
It rests on the model's own readings of log entries 24, 81. -/
def Obligations.WaleLanesAreRepaired : Prop :=
  (∀ (s : State) (w : WaleIx) (b : Dir) (g : Fin 32), s.groupOn w b g = true →
    (s.wale w).hold.contains (b, g.val) = false →
    Completes (.flitResendFail w b g) s fun t =>
      t.wale w = { s.wale w with hold := (s.wale w).hold ++ [(b, g.val)] } ∧
      t.counter (pgWale w) 1 = s.counter (pgWale w) 1 + 16 ∧
      (t.reg (pgWale w) 0x060).toNat = min 0xFFFFFFFF ((s.reg (pgWale w) 0x060).toNat + 1) ∧
      t = { s with wales := t.wales, cnt := t.cnt, regs := t.regs
                   host := { s.host with changes := t.host.changes } }) ∧
  (∀ (s : State) (w : WaleIx) (b : Dir) (g : Fin 32), (s.wale w).hold.contains (b, g.val) = true →
    Completes (.retrainDone w b g) s fun t =>
      (t.wale w).hold.contains (b, g.val) = false ∧ (t.wale w).groups b = (s.wale w).groups b ∧
      fieldOf (t.reg (pgWale w) 0x05C) 31 28 = 4 ∧
      t = { s with wales := t.wales, free := t.free, regs := t.regs
                   host := { s.host with changes := t.host.changes } }) ∧
  (∀ (s : State) (w : WaleIx) (b : Dir) (g : Fin 32) (x : Fin 33), s.groupOn w b g = true →
    x.val < 32 ∨ ((s.wale w).spares b).getLsbD g = true →
    (s.keeper.repairs.any fun r => r.kind == 3 && r.unit == w.val && r.lane == laneCode b g x) = false →
    let k := laneKey w b g x
    (SMap.get 0 s.wales.lane k + 1 ≤ s.regField (pgWale w) 0x058 15 0 →
      Gives (.laneError w b g x) s (s.setLane k (SMap.get 0 s.wales.lane k + 1))) ∧
    (s.regField (pgWale w) 0x058 15 0 < SMap.get 0 s.wales.lane k + 1 → ((s.wale w).spares b).getLsbD g = false →
      Completes (.laneError w b g x) s fun t =>
        ((t.wale w).spares b).getLsbD g = true ∧ (t.wale w).groups b = (s.wale w).groups b ∧
        (t.wale w).hold.contains (b, g.val) = true ∧ SMap.get 0 t.wales.lane k = 0 ∧
        fieldOf (t.reg (pgWale w) rFault) 31 16 = 0x0401 ∧
        (∃ r ∈ t.keeper.repairs, r.kind = 3 ∧ r.unit = w.val ∧ r.lane = laneCode b g x)) ∧
    (s.regField (pgWale w) 0x058 15 0 < SMap.get 0 s.wales.lane k + 1 → ((s.wale w).spares b).getLsbD g = true →
      Completes (.laneError w b g x) s fun t =>
        ((t.wale w).groups b).getLsbD g = false ∧ (t.wale w).spares b = (s.wale w).spares b ∧
        SMap.get 0 t.wales.lane k = 0 ∧
        fieldOf (t.reg (pgWale w) rFault) 31 16 = (if (t.wale w).groups b = 0 then 0x0403 else 0x0402) ∧
        ((t.wale w).groups b = 0 → t.wales.relayDue = true))) ∧
  (∀ (s : State) (w : WaleIx) (b : Dir) (g : Fin 32) (x : Fin 33),
    Gives (.laneWindowExpiry w b g x) s (s.setLane (laneKey w b g x) 0)) ∧
  (∀ (s : State) (w : WaleIx) (b : Dir) (g : Fin 32), (s.wale w).hold.contains (b, g.val) = true →
    ((s.wale w).spares b).getLsbD g = true →
    Completes (.laneSwapDone w b g) s fun t =>
      (t.wale w).hold = (s.wale w).hold.filter (· != (b, g.val)) ∧
      t = { s with wales := t.wales, host := { s.host with changes := t.host.changes } }) ∧
  (∀ s : State, s.wales.relayDue = true →
    let p := if s.rounds.src && s.rounds.host.any s.lostDies.contains then ([], 0xC000) else s.choosePath
    Completes .waleRelayDone s fun t =>
      t.wales = { s.wales with relayDue := false } ∧ t.dies = s.dies ∧ t.mem = s.mem ∧
      match s.relaysOf (hopsOf p.1) with
      | some m => t.rounds.path = p.1 ∧ t.rounds.code = p.2 ∧ t.rounds.relay = m
      | none => t.rounds.path = [] ∧ t.rounds.code = 0xC000 ∧ t.rounds.relay = [])

/-- From R336, R354, R355. A short of a quarter's rail leaves it FAULTED, isolated, dark and in the repair map; one of a
spine rail takes the die out with its switch open. From R356 to R358, R460. Past bring-up, PRSNT_N released withdraws the
engine: the program stops, the keys are erased and FINAL goes to the meter; asserted, it ends the hold.
It rests on the model's own readings of log entries 4, 6. -/
def Obligations.ShortsAndWithdrawal : Prop :=
  (∀ (s : State) (d : Die) (q : Qtr), s.dieLive d = true → (s.quarter d q).iso = false →
    Completes (.quarterRailShort d q) s fun t =>
      (t.quarter d q).st = .faulted ∧ (t.quarter d q).cause = 2 ∧ (t.quarter d q).gated = true ∧
      (t.quarter d q).iso = true ∧ (t.quarter d q).map = (s.quarter d q).map ∧
      (∃ r ∈ t.keeper.repairs, r.kind = 1 ∧ r.die = d.val ∧ r.unit = q.val) ∧
      t.ports = s.ports ∧ t.wales = s.wales) ∧
  (∀ (s : State) (d : Die), (s.die d).st = .on ∨ (s.die d).st = .starting → (s.die d).service ≠ 2 →
    s.keeper.bring ≠ 5 →
    Completes (.spineRailShort d) s fun t =>
      (t.die d).st = .faulted ∧ (t.die d).service = 2 ∧ (t.die d).cause = 2 ∧ (t.die d).iso = true ∧
      (∃ r ∈ t.keeper.repairs, r.kind = 2 ∧ r.die = d.val)) ∧
  (∀ s : State, s.pins.prsnt = true → s.pwr.input = true → s.keeper.prsntHold = false → s.keeper.withdrawn = false →
    Completes .prsntNRelease s fun t =>
      t.keeper.withdrawn = true ∧ t.pins.prsnt = false ∧ t.prog.pst = .stopped ∧ t.weights.keys = [] ∧
      t.meter.fin = (if s.meter.started then some true else none) ∧ t.pwr = s.pwr ∧ t.dies = s.dies) ∧
  (∀ s : State, s.pins.prsnt = true → s.pwr.input = false ∨ s.keeper.prsntHold = true →
    Gives .prsntNRelease s { s with pins := { s.pins with prsnt := false } }) ∧
  (∀ s : State, s.pins.prsnt = false → s.keeper.prsntHold = false →
    Gives .prsntNAssert s { s with pins := { s.pins with prsnt := true } }) ∧
  (∀ s : State, s.keeper.prsntHold = true →
    Completes .prsntNAssert s fun t =>
      t.pins.prsnt = true ∧ t.keeper.prsntHold = false ∧ 5 ≤ t.keeper.bring ∧ t.pwr.input = s.pwr.input)

/-! ### Power, clocks, temperature -/

/-- From R364, R366, R367. Outside 40 to 45 V the cap is at most 8,000 W, PWR_OK falls and 0x0704 is raised; back in range
that ends; below 36 V FINAL leaves and only what is kept without power stays. From R367 to R369. The end of a cap window
shows its power and counts its energy; over the cap the window joins a catch-up and the step falls, not over it the
catch-up ends and the step rises by one where there is room. A lowering step falls by one; the slew peak is the
greatest difference of two averages.
It rests on the model's own readings of log entries 24, 62, 74. -/
def Obligations.PowerFollowsCap : Prop :=
  (∀ (s : State) (mv : BitVec 16), s.pwr.input = true → s.pwr.vinOk = true → vinGood mv = false →
    Completes (.vinOutOfRange mv) s fun t =>
      t.pwr = { s.pwr with vinOk := false, vinCap := true } ∧ t.capInForce ≤ 8000 ∧ t.pins.pwrOk = false ∧
      fieldOf (t.reg pgPower rFault) 31 16 = 0x0704 ∧ t.regField pgPower 0x04C 15 0 = mv.toNat ∧
      t = { s with regs := t.regs, bnd := t.bnd, pwr := t.pwr, pins := t.pins
                   keeper := { s.keeper with lastFault := 0x0704 }
                   host := { s.host with changes := t.host.changes } }) ∧
  (∀ (s : State) (mv : BitVec 16), s.pwr.input = true → s.pwr.vinOk = false → vinGood mv = true →
    Completes (.vinRecover mv) s fun t =>
      t.pwr = { s.pwr with vinOk := true, vinCap := false } ∧ t.pins.pwrOk = decide (7 ≤ s.keeper.bring) ∧
      t = { s with regs := t.regs, pwr := t.pwr, pins := t.pins
                   host := { s.host with changes := t.host.changes } }) ∧
  (∀ s : State, s.pwr.input = true →
    Completes .vinLoss s fun t =>
      t.pwr.input = false ∧ t.mem.bytes = [] ∧ t.prog = Prog.reset ∧ t.pins.pwrOk = false ∧
      t.keeper.log = s.keeper.log ∧ t.keeper.repairs = s.keeper.repairs ∧ t.keeper.powerOns = s.keeper.powerOns ∧
      t.sec.svnFuse = s.sec.svnFuse ∧ t.meter.total = s.meter.total ∧ t.meter.records = s.meter.records ∧
      t.out = s.out ++ [.final (tallies s.meter.tally.work) (tallies s.meter.tally.ballast)] ∧
      t.pending = s.pending) ∧
  (∀ (s : State) (avg mv da : BitVec 16), s.pwr.input = true →
    Completes (.capWindowEnd avg mv da) s fun t =>
      let w := avg.toNat
      let c := s.capInForce
      (t.reg pgPower 0x048).toNat = w ∧ t.pwr.frac = (s.pwr.frac + w) % 10000 ∧
      t.counter pgPower 0 = s.counter pgPower 0 + BitVec.ofNat 64 ((s.pwr.frac + w) / 10000) ∧
      (c < w → t.pwr.step = s.pwr.step ∧ t.pwr.lowering = decide (0 < s.pwr.step) ∧
        t.pwr.run = some ((s.pwr.run.getD (0, 0)).1 + 1, (s.pwr.run.getD (0, 0)).2 + (w - c))) ∧
      (w ≤ c → t.pwr.run = none) ∧
      (w ≤ c → s.pwr.capdown = false → s.pwr.divided = 0 →
        t.pwr.lowering = false ∧
        t.pwr.step = s.pwr.step + (if w + 250 ≤ c ∧ s.pwr.step < s.stepTop then 1 else 0)) ∧
      t = { s with free := t.free, regs := t.regs, cnt := t.cnt, bnd := t.bnd, pwr := t.pwr
                   keeper := { s.keeper with lastFault := t.keeper.lastFault }
                   host := { s.host with changes := t.host.changes } }) ∧
  (∀ s : State, s.pwr.lowering = true → 0 < s.pwr.step →
    Completes .stepLower s fun t =>
      t.pwr = { s.pwr with step := s.pwr.step - 1, lowering := decide (1 < s.pwr.step) } ∧
      t.counter pgClocks 0 = s.counter pgClocks 0 + 1 ∧
      t = { s with cnt := t.cnt, pwr := t.pwr, host := { s.host with changes := t.host.changes } }) ∧
  (∀ (s : State) (a : BitVec 16) (p : Nat), s.pwr.input = true → s.pwr.lastDa = some p → p < 65536 →
    Completes (.slewInterval a) s fun t =>
      (t.reg pgPower 0x05C).toNat = max (s.reg pgPower 0x05C).toNat (max (a.toNat - p) (p - a.toNat)) ∧
      t = { s with regs := t.regs, pwr := { s.pwr with lastDa := some a.toNat }
                   host := { s.host with changes := t.host.changes } })

/-- From R370. CAPDOWN_N imposes the cap of 8,000 W, lowers the step to 0 and divides one group of quarters after another,
lowest first; released and with the step at 0, the groups are divided no more, in the same order.
It rests on the model's own readings of log entries 62, 74. -/
def Obligations.CapdownDividesGroups : Prop :=
  (∀ s : State, s.pwr.capdown = false →
    Completes .capdownAssert s fun t =>
      t.pwr = { s.pwr with capdown := true, lowering := decide (0 < s.pwr.step) } ∧ t.capInForce ≤ 8000 ∧
      t.counter pgPower 2 = s.counter pgPower 2 + (if s.pwr.input then 1 else 0) ∧
      t = { s with cnt := t.cnt, pwr := t.pwr, host := { s.host with changes := t.host.changes } }) ∧
  (∀ s : State, s.pwr.capdown = true →
    Gives .capdownRelease s { s with pwr := { s.pwr with capdown := false } }) ∧
  (∀ (s : State) (j : Nat), s.pwr.capdown = true → j < 32 → s.pwr.divided.getLsbD j = false →
    (∀ i, i < j → s.pwr.divided.getLsbD i = true) →
    Completes .capdownGroupStep s fun t =>
      t.pwr = { s.pwr with divided := s.pwr.divided ||| BitVec.ofNat 32 (2 ^ j) } ∧
      (∀ d q, q < 4 → t.quarter d q =
        if (4 * d + q) / 8 = j ∧ (s.quarter d q).clock = true then { s.quarter d q with div4 := true }
        else s.quarter d q) ∧
      t = { s with pwr := t.pwr, quarters := t.quarters, host := { s.host with changes := t.host.changes } }) ∧
  (∀ (s : State) (j : Nat), s.pwr.capdown = false → s.pwr.step = 0 → j < 32 → s.pwr.divided.getLsbD j = true →
    (∀ i, i < j → s.pwr.divided.getLsbD i = false) →
    Completes .capdownGroupStep s fun t =>
      t.pwr.divided.getLsbD j = false ∧
      (∀ i, i < 32 → i ≠ j → t.pwr.divided.getLsbD i = s.pwr.divided.getLsbD i) ∧
      (∀ d q, q < 4 → t.quarter d q =
        if (4 * d + q) / 8 = j ∧ (s.quarter d q).clock = true then { s.quarter d q with div4 := false }
        else s.quarter d q) ∧
      t = { s with pwr := t.pwr, quarters := t.quarters, host := { s.host with changes := t.host.changes } })

/-- From R378, R379. The pin and the latch make the target; a running program is asked to hold while the target is Shutter,
and asked no more when it is not before the entry. The entry leaves no stall, no stream and no program; a step that
does not end in time is aborted. From R392. The cap in force stands until the wake. From R381, Tables 8.10, 15.6 and 15.7. A wake starts the quarters that the host wants;
at its end, where no die is late and every broken stall has a spare, those quarters are ON and there is no program, with
ASSUME_STATUS as it was; a die that is late is out.
It rests on the model's own readings of log entries 24, 54, 105. -/
def Obligations.ShutterEntersAndWakes : Prop :=
  (∀ (s : State) (c : Instr) (pin latch : Bool),
    (c = .shutterReqNChange pin ∧ pin ≠ s.shut.pin ∧ latch = s.shut.latch) ∨
    (c = .shutter ∧ s.takesWrites pgShutter = true ∧ pin = s.shut.pin ∧ latch = true) ∨
    (c = .wake ∧ s.takesWrites pgShutter = true ∧ pin = s.shut.pin ∧ latch = false) →
    Completes c s fun t =>
      t.shut.pin = pin ∧ t.shut.latch = latch ∧ t.shut.blocked = s.shut.blocked ∧
      (s.shut.st = .awake → (pin || latch) = true → s.running = true → t.shut.st = .waiting ∧ t.prog.hold = true) ∧
      (s.shut.st = .waiting → (pin || latch) = false → t.shut.st = .awake ∧ t.prog.hold = false) ∧
      ((s.shut.st ≠ .awake ∨ (pin || latch) = false ∨ s.running = false) →
        (s.shut.st ≠ .waiting ∨ (pin || latch) = true) → t.shut.st = s.shut.st ∧ t.prog.hold = s.prog.hold) ∧
      t = { s with shut := t.shut, prog := { s.prog with hold := t.prog.hold }
                   host := { s.host with changes := t.host.changes } }) ∧
  (∀ s : State, s.shut.st = .awake ∨ s.shut.st = .waiting → s.shutTarget = true → s.running = false →
    7 ≤ s.keeper.bring → s.keeper.withdrawn = false →
    Completes .shutterEntry s fun t =>
      t.shut = { s.shut with st := .shuttered } ∧ t.stalls = [] ∧ t.streams = [] ∧ t.prog.applied = false ∧
      t.counter pgShutter 0 = s.counter pgShutter 0 + 1 ∧ t.mem = s.mem ∧
      t.pwr = { s.pwr with capHeld := some s.capSet } ∧ t.capInForce = s.capInForce ∧
      ∀ d q, s.dieLive d = true → d < 64 → q < 4 → (s.quarter d q).st = .on →
        (t.quarter d q).st = .shuttered ∧ (t.quarter d q).gated = true ∧ (t.quarter d q).clock = false) ∧
  (∀ s : State, s.shut.st = .waiting → s.running = true → s.noAdoption →
    Completes .shutterWaitExpiry s fun t => t.prog.pst = .stopped ∧ t.prog.breaches = [] ∧ t.shut = s.shut) ∧
  (∀ s : State, s.shut.st = .shuttered → s.shutTarget = false → s.shut.blocked = false →
    Completes .shutterWake s fun t =>
      t.shut = { s.shut with st := .waking } ∧ t.counter pgShutter 1 = s.counter pgShutter 1 + 1 ∧
      (∀ d q, s.dieLive d = true → d < 64 → q < 4 → (s.quarter d q).st = .shuttered →
        (t.quarter d q).st = if s.quarterWanted d q then .starting else .off) ∧
      t = { s with free := t.free, cnt := t.cnt, quarters := t.quarters, shut := t.shut
                   pwr := { s.pwr with capHeld := none }
                   host := { s.host with changes := t.host.changes } }) ∧
  (∀ (s : State) (late : DWord), s.shut.st = .waking → s.noAdoption →
    (∀ d ∈ s.liveDies, late.getLsbD d = false) →
    (∀ d ∈ s.liveDies, ∀ q, q < 4 → s.brokenStall d q = none ∨ s.spareOf d q ≠ none) →
    Completes (.wakeComplete late) s fun t =>
      t.shut = { s.shut with st := .awake } ∧
      t.prog = { Prog.reset with capBelow := s.prog.capBelow, scrubAbv := s.prog.scrubAbv } ∧
      ∀ d ∈ s.liveDies, (t.die d).selfRef = false ∧
        ∀ q, q < 4 → (s.quarter d q).st = .starting → (t.quarter d q).st = .on) ∧
  (∀ (s : State) (late : DWord) (d : Nat), s.shut.st = .waking → s.noAdoption → d ∈ s.liveDies →
    late.getLsbD d = true →
    Completes (.wakeComplete late) s fun t => t.dieOut d = true ∧ t.shut.st = .awake)

/-- From R382 to R387, Table 15.8. A reading moves TSTATE, with 0x0801 at WARN; a trip switches the quarter off with
DARK_CAUSE 1 and 0x0802; the ceiling falls while a quarter is in WARN and rises else, and the step follows it; DRAM at
95 degrees raises 0x0803, and at 105 the die's quarters trip; a re-arm starts the quarter, which comes up ON with its
clock, its scratchpads zero and its TRIP_REARM bit 0, where no stall of it still needs a spare that it does not have.
It rests on the model's own readings of log entries 62, 75. -/
def Obligations.TemperatureActs : Prop :=
  (∀ (s : State) (d : Die) (q : Qtr) (x : BitVec 10), s.pwr.input = true →
    Completes (.tempSample d q x) s fun t =>
      let o := s.quarter d q
      let n := t.quarter d q
      n = { o with temp := x, tst := n.tst } ∧
      (o.tst = .normal → n.tst = if 420 ≤ x.toNat then .warn else .normal) ∧
      (o.tst = .warn → n.tst = if x.toNat < 400 then .normal else .warn) ∧
      (o.tst = .tripped →
        n.tst = if x.toNat < 380 ∧ (s.die d).dramTemp.toNat < 90 then .cool else .tripped) ∧
      (o.tst = .cool → n.tst = .cool) ∧
      (o.tst = .normal → 420 ≤ x.toNat → s.dieOut d = false →
        fieldOf (t.reg (pgQuarter d q) rFault) 31 16 = 0x0801 ∧
        t.counter pgThermal 0 = s.counter pgThermal 0 + 1) ∧
      t = { s with regs := t.regs, cnt := t.cnt, quarters := t.quarters, bnd := t.bnd
                   keeper := { s.keeper with lastFault := t.keeper.lastFault }
                   host := { s.host with changes := t.host.changes } }) ∧
  (∀ (s : State) (d : Die) (q : Qtr), s.dieLive d = true →
    (s.quarter d q).tst = .normal ∨ (s.quarter d q).tst = .warn → (s.quarter d q).st ≠ .faulted →
    Completes (.thermalTrip d q) s fun t =>
      (t.quarter d q).st = .off ∧ (t.quarter d q).cause = 1 ∧ (t.quarter d q).gated = true ∧
      (t.quarter d q).tst = .tripped ∧ fieldOf (t.reg (pgQuarter d q) rFault) 31 16 = 0x0802 ∧
      t.counter pgThermal 1 = s.counter pgThermal 1 + 1) ∧
  (∀ s : State, s.pwr.input = true →
    Completes .ceilingStep s fun t =>
      (t.pwr.ceil = if (s.reg pgThermal 0x040).getLsbD 0 = false then 72
        else if ∃ e ∈ s.quarters, e.2.tst = .warn then s.pwr.ceil - 1 else min 72 (s.pwr.ceil + 1)) ∧
      (t.pwr.step = if t.pwr.ceil < s.pwr.step then s.pwr.step - 1 else s.pwr.step) ∧
      t = { s with pwr := t.pwr, cnt := t.cnt, host := { s.host with changes := t.host.changes } }) ∧
  (∀ (s : State) (d : Die) (c : Byte), s.dieLive d = true → c.toNat < 95 →
    Gives (.dramTempThreshold d c) s (s.setDie d { s.die d with dramTemp := c })) ∧
  (∀ (s : State) (d : Die) (c : Byte), s.dieLive d = true → (s.die d).dramTemp.toNat < 95 → 95 ≤ c.toNat →
    c.toNat < 105 →
    Completes (.dramTempThreshold d c) s fun t =>
      t.die d = { s.die d with dramTemp := c } ∧ fieldOf (t.reg (pgDram d) rFault) 31 16 = 0x0803 ∧
      t.quarters = s.quarters) ∧
  (∀ (s : State) (d : Die) (c : Byte), s.dieLive d = true → (s.die d).dramTemp.toNat < 105 → 105 ≤ c.toNat →
    Completes (.dramTempThreshold d c) s fun t =>
      (t.die d).dramTemp = c ∧
      ∀ q, q < 4 → (s.quarter d q).tst = .normal ∨ (s.quarter d q).tst = .warn → (s.quarter d q).st ≠ .faulted →
        (t.quarter d q).st = .off ∧ (t.quarter d q).cause = 1 ∧ (t.quarter d q).tst = .tripped) ∧
  (∀ (s : State) (d : Die) (q : Qtr), (4 * d.val + q.val) ∈ s.keeper.trips → (s.quarter d q).iso = false →
    (s.quarter d q).st = .off → s.dieLive d = true →
    Completes (.tripRearm d q) s fun t =>
      t.quarter d q = { s.quarter d q with st := .starting } ∧
      t.keeper = { s.keeper with trips := s.keeper.trips.filter (· != 4 * d.val + q.val) } ∧
      t.counter pgThermal 2 = s.counter pgThermal 2 + 1 ∧
      t = { s with cnt := t.cnt, quarters := t.quarters, keeper := t.keeper
                   host := { s.host with changes := t.host.changes } }) ∧
  (∀ (s : State) (d : Die) (q : Qtr), s.dieLive d = true → s.asleep = false → (s.quarter d q).st = .starting →
    s.brokenStall d q = none ∨ s.spareOf d q ≠ none →
    Completes (.quarterStartDone d q) s fun t =>
      (t.quarter d q).st = .on ∧ (t.quarter d q).gated = false ∧ (t.quarter d q).cause = 0 ∧
      (t.quarter d q).tst = .normal ∧ (t.quarter d q).clock = true ∧
      (∀ p a, p < 72 → slotQuarter p = q.val → slotAddr d p 0 ≤ a → a < slotAddr d (p + 1) 0 →
        SMap.get 0 t.mem.bytes a = 0) ∧
      (∀ p, p < 72 → slotQuarter p = q.val → (t.slot d p).duty = 0 ∧ (t.slot d p).passes = []) ∧
      (t.reg pgThermal (0x080 + 4 * ((4 * d.val + q.val) / 32))).getLsbD ((4 * d.val + q.val) % 32) = false)

/-! ### Memory -/

/-- From R124, R142 to R145. With the rewrite queue empty, a walk whose rate is not 0 reads its next word and moves on, and
the DRAM walk writes a corrected word back; a word of the rewrite queue is written back, and left in a scratchpad that is
dark; SCRUB_NOW starts a walk of its own. From R139. A CE window ends. From R146 to R149. The aperture
reads and writes the bytes of engine memory that its base selects, and an access that cannot be made is counted and
changes nothing.
It rests on the model's own readings of log entries 72, 73. -/
def Obligations.ScrubberAndAperture : Prop :=
  (∀ (s : State) (d : Die), s.scrubs d = true → (s.scrubber d).queue = [] →
    s.regField (pgScrub d) 0x040 31 16 ≠ 0 →
    Completes (.scrubWalkStep d .dram) s fun t =>
      let w := d.val * 2 ^ 39 + (s.scrubber d).dramPos
      (t.scrubber d).dramPos = ((s.scrubber d).dramPos + 1) % 2 ^ 33 ∧
      t.counter (pgScrub d) 0 = s.counter (pgScrub d) 0 + 1 ∧
      (s.wordPoison w = false → s.eccClass w = 0 → t.mem = s.mem) ∧
      (s.wordPoison w = false → s.eccClass w = 1 ∨ s.eccClass w = 2 →
        t.mem = s.mem.putWord w { val := (s.peek w).val, poison := false })) ∧
  (∀ (s : State) (d : Die), s.scrubs d = true → (s.scrubber d).queue = [] →
    s.regField (pgScrub d) 0x040 15 0 ≠ 0 → s.scrubCovers d (s.scrubber d).sramUnit = true →
    Completes (.scrubWalkStep d .sram) s fun t =>
      ((t.scrubber d).sramUnit, (t.scrubber d).sramPos) =
        (sramNext (s.scrubber d).sramUnit (s.scrubber d).sramPos).getD (0, 0) ∧
      (t.scrubber d).dramPos = (s.scrubber d).dramPos ∧
      t.counter (pgScrub d) 0 = s.counter (pgScrub d) 0 + 1) ∧
  (∀ (s : State) (d : Die) (u p : Nat), s.scrubs d = true → (s.scrubber d).queue = [] →
    s.regField (pgScrub d) 0x044 15 0 ≠ 0 → (s.scrubber d).burst = some (0, u, p) → p + 1 < 2 ^ 33 →
    Completes (.scrubWalkStep d .burst) s fun t =>
      (t.scrubber d).burst = some (0, 0, p + 1) ∧ (t.scrubber d).dramPos = (s.scrubber d).dramPos ∧
      t.counter (pgScrub d) 0 = s.counter (pgScrub d) 0 + 1) ∧
  (∀ (s : State) (d : Die) (w : Nat) (r : List Nat), (s.scrubber d).queue = w :: r → s.scrubs d = true →
    s.lostKey (some (8 * w)) = false → s.wordPoison w = false → s.eccClass w = 1 ∨ s.eccClass w = 2 →
    Completes (.scrubRewrite d) s fun t =>
      t.mem = s.mem.putWord w { val := (s.peek w).val, poison := false } ∧
      (t.scrubber d).queue = r.filter (· != w)) ∧
  (∀ (s : State) (d : Die) (w : Nat) (r : List Nat), (s.scrubber d).queue = w :: r → s.scrubs d = true →
    s.lostKey (some (8 * w)) = true →
    Gives (.scrubRewrite d) s (s.setScrubber d { s.scrubber d with queue := r })) ∧
  (∀ (s : State) (d : Die), s.takesWrites (pgScrub d) = true → (s.reg (pgScrub d) 0x008).getLsbD 2 = false →
    Completes (.scrubNow d) s fun t =>
      t.scrubber d = { s.scrubber d with burst := some (0, 0, 0) } ∧
      (t.reg (pgScrub d) 0x008).getLsbD 2 = true ∧
      t = { s with regs := t.regs, scrub := t.scrub, host := { s.host with changes := t.host.changes } }) ∧
  (∀ (s : State) (g : Fin 16384), (s.ceWin g).isOpen = true →
    Gives (.ceWindowExpiry g) s (s.setCeWin g CeWin.reset)) ∧
  (∀ (s : State) (o : BitVec 36) (n : Nat), s.host.linkUp = true → s.host.d3hot = false →
    let a := s.aperAddr o.toNat
    let guarded := addrKind a = 1 ∧ (s.reg (pgDecrypt (addrDie a)) 0x040).getLsbD 0 = true
    (¬ guarded → s.aperRange a n = true →
      Completes (.apertureRead o n) s fun t =>
        t.out = s.out ++ [.aperData o.toNat (s.aperBytes a n)
          ((s.aperKeys a n).any fun k => (s.peek (k / 8)).poison)] ∧
        t.counter pgAperture 0 = s.counter pgAperture 0 + 1 ∧
        t.counter pgAperture 1 = s.counter pgAperture 1 + BitVec.ofNat 64 n) ∧
    (guarded ∨ s.aperRange a n = false →
      Completes (.apertureRead o n) s fun t =>
        t.out = s.out ++ [.aperData o.toNat (List.replicate n 0) false] ∧
        (t.reg pgAperture 0x044).toNat = min 0xFFFFFFFF ((s.reg pgAperture 0x044).toNat + 1) ∧ t.mem = s.mem)) ∧
  (∀ (s : State) (o : BitVec 36) (l : List Byte) (k : Nat), s.host.linkUp = true → s.host.d3hot = false →
    let a := s.aperAddr o.toNat
    (s.aperRange a l.length = false → Gives (.apertureWrite o l) s s.aperMiss) ∧
    (s.aperRange a l.length = true → l.length = 8 → a % 8 = 0 → s.resolve a = some k → s.prog.applied = false →
      Completes (.apertureWrite o l) s fun t =>
        (∀ i, ∀ h : i < l.length, t.readByte (k + i) = (l[i], false)) ∧
        (∀ b, b < k ∨ k + 8 ≤ b → t.readByte b = s.readByte b) ∧
        t.counter pgAperture 2 = s.counter pgAperture 2 + 8))

/-! ### Switching blocks -/

/-- From R406 to R408, Table 16.7. Clearing ENABLE of a block that is ON makes it DRAINING, with the DRAIN written; setting
it while it drains makes the re-arm pending; an OFF block starts. The end of a drain leaves it OFF, a quarter with
DARK_CAUSE 4, or starts it again; the end of a start leaves it ON, a quarter where no stall of it needs a spare that it
does not have. From R395. A reset of the endpoint aborts the open host
bundles and clears the latches and the aperture's base.
It rests on the model's own readings of log entries 78, 79. -/
def Obligations.BlocksSwitch : Prop :=
  (∀ (s : State) (g : Fin 16384) (v : Word) (d : Die) (q : Qtr), g.val = pgQuarter d q → s.takesWrites g = true →
    s.shut.st ≠ .shuttered →
    Completes (.ctlWrite g v) s fun t =>
      t.reg g 0x008 = v &&& 3 ∧
      ((s.quarter d q).st = .on → v.getLsbD 0 = false →
        t.quarter d q = { s.quarter d q with st := .draining, rearm := false, drain := v.getLsbD 1 }) ∧
      ((s.quarter d q).st = .draining → v.getLsbD 0 = true →
        t.quarter d q = { s.quarter d q with rearm := true }) ∧
      ((s.quarter d q).st = .off → v.getLsbD 0 = true → s.dieLive d = true → (s.quarter d q).iso = false →
        (s.quarter d q).tst = .normal → t.quarter d q = { s.quarter d q with st := .starting }) ∧
      t = { s with regs := t.regs, quarters := t.quarters, host := { s.host with changes := t.host.changes } }) ∧
  (∀ (s : State) (g : Fin 16384) (v : Word) (p : Die), g.val = pgPort p → s.takesWrites g = true →
    Completes (.ctlWrite g v) s fun t =>
      ((s.port p).st = .on → v.getLsbD 0 = false →
        (t.port p).st = .draining ∧ (t.port p).drain = v.getLsbD 1 ∧ (t.port p).rearm = false) ∧
      ((s.port p).st = .draining → v.getLsbD 0 = true → t.port p = { s.port p with rearm := true }) ∧
      ((s.port p).st = .off → v.getLsbD 0 = true → t.port p = { s.port p with st := .starting, link := 1 })) ∧
  (∀ (s : State) (g : Fin 16384) (v : Word) (w : WaleIx), g.val = pgWale w → s.takesWrites g = true →
    Completes (.ctlWrite g v) s fun t =>
      ((s.wale w).st = .on → v.getLsbD 0 = false →
        t.wale w = { s.wale w with st := .draining, rearm := false }) ∧
      ((s.wale w).st = .draining → t.wale w = { s.wale w with rearm := v.getLsbD 0 }) ∧
      ((s.wale w).st = .off → v.getLsbD 0 = true → t.wale w = { s.wale w with st := .starting }) ∧
      t = { s with regs := t.regs, wales := { s.wales with wale := t.wales.wale }
                   host := { s.host with changes := t.host.changes } }) ∧
  (∀ (s : State) (g : Fin 16384) (d : Die) (q : Qtr), g.val = pgQuarter d q → s.dieLive d = true →
    ((s.quarter d q).st = .draining → s.quarterDrained d q = true → (s.quarter d q).rearm = false →
      Completes (.blockDrainDone g) s fun t =>
        (t.quarter d q).st = .off ∧ (t.quarter d q).cause = 4 ∧ (t.quarter d q).gated = true ∧
        (t.quarter d q).clock = false) ∧
    ((s.quarter d q).st = .draining → s.quarterDrained d q = true → (s.quarter d q).rearm = true →
      (s.quarter d q).iso = false → (s.quarter d q).tst = .normal →
      Completes (.blockDrainDone g) s fun t => (t.quarter d q).st = .starting ∧ (t.quarter d q).rearm = false) ∧
    ((s.quarter d q).st = .starting → s.asleep = false → s.brokenStall d q = none ∨ s.spareOf d q ≠ none →
      Completes (.blockStartDone g) s fun t =>
        (t.quarter d q).st = .on ∧ (t.quarter d q).gated = false ∧ (t.quarter d q).clock = true)) ∧
  (∀ (s : State) (g : Fin 16384) (p : Die), g.val = pgPort p →
    ((s.port p).st = .draining → (s.port p).drain = false →
      Completes (.blockDrainDone g) s fun t =>
        (t.port p).st = (if (s.port p).rearm then .starting else .off) ∧
        ∀ f, f < 1024 → (t.flow p f).st = .free) ∧
    ((s.port p).st = .starting → s.dieOut p = false →
      Gives (.blockStartDone g) s (s.setPort p { s.port p with st := .on, link := 3 }))) ∧
  (∀ (s : State) (g : Fin 16384) (w : WaleIx), g.val = pgWale w →
    ((s.wale w).st = .draining → Completes (.blockDrainDone g) s fun t =>
      (t.wale w).st = (if (s.wale w).rearm then .starting else .off) ∧ (t.wale w).hold = [] ∧
      t.wales.relayDue = true) ∧
    ((s.wale w).st = .starting → Completes (.blockStartDone g) s fun t =>
      (t.wale w).st = .on ∧ (t.wale w).groups false = (s.wale w).groups false ∧
      (t.wale w).groups true = (s.wale w).groups true ∧ t.wales.relayDue = true)) ∧
  (∀ (s : State) (b : Bool), s.host.linkUp = true →
    Completes (.endpointReset b) s fun t =>
      t.host.latch = [] ∧ t.host.d3hot = false ∧ t.host.linkUp = !b ∧ t.regField pgAperture 0x040 11 4 = 0 ∧
      (∀ c, c < 4 → (s.bctx c).st = .open →
        (t.bctx c).st = .aborted ∧ (t.bctx c).reason = 8 ∧ (t.bctx c).staged = []) ∧
      t = { s with regs := t.regs, cnt := t.cnt, bnd := t.bnd, host := t.host })

/-! ### Bring-up and the keeper -/

/-- From R415 to R419, R446, R460. When 42 V comes the keeper runs the active bank if it verifies, else the other one, else
stays in ROM; the power-on and the location are recorded, and bring-up goes on past step 3 unless it waits for
PRSNT_N. A die whose boot ends well is ON with its DRAM zero and two credits a level; one that fails, or takes too
long, is ABSENT with OUT_CAUSE 7. R395: the endpoint's link and power state.
It rests on the model's own readings of log entries 2, 66, 69. -/
def Obligations.PowerOnAndBoot : Prop :=
  (∀ (s : State) (ga : BitVec 6) (pr a b : Bool), s.pwr.input = false → s.meter.low = false → s.meter.fin = none →
    Completes (.powerApplied ga pr a b) s fun t =>
      let k := s.keeper
      let ok := fun x => s.bankGood (if x then b else a) x
      t.pwr.input = true ∧ t.pwr.vinOk = true ∧ t.keeper.powerOns = k.powerOns + 1 ∧ t.keeper.ga = ga ∧
      t.keeper.locValid = gaOdd ga ∧ t.keeper.fwOk = (k.fwOk || ok k.active || ok (!k.active)) ∧
      (ok k.active = true → t.keeper.bank = k.active) ∧
      (ok k.active = false → ok (!k.active) = true → t.keeper.bank = (!k.active) ∧ t.keeper.fallback = true) ∧
      (if t.keeper.fwOk = true ∧ pr = true then 5 ≤ t.keeper.bring else t.keeper.bring = 3) ∧
      (pr = false → t.keeper.prsntHold = t.keeper.fwOk) ∧ t.pins.prsnt = pr) ∧
  (∀ (s : State) (d : Die), (s.die d).st = .starting → (s.die d).stage = 2 → (s.die d).readmit = false →
    s.sec.svnFuse.toNat ≤ (s.fwBank (bankNum true s.keeper.ubank)).svn.toNat → s.keeper.bring ≠ 5 →
    Completes (.dieBootDone d true 15) s fun t =>
      (t.die d).st = .on ∧ (t.die d).service = 0 ∧ (t.die d).stage = 5 ∧ (t.die d).trained = true ∧
      (t.die d).layers = 15 ∧ (t.die d).bell = true ∧
      (∀ k, k < 5 → (t.level d k).credits = 2) ∧
      (∀ a, d.val * 2 ^ 42 ≤ a → a < (d.val + 1) * 2 ^ 42 → SMap.get 0 t.mem.bytes a = 0) ∧
      t.quarters = s.quarters ∧ t.ports = s.ports) ∧
  (∀ (s : State) (d : Die), (s.die d).st = .starting → (s.die d).stage = 2 → (s.die d).readmit = true →
    s.sec.svnFuse.toNat ≤ (s.fwBank (bankNum true s.keeper.ubank)).svn.toNat →
    Gives (.dieBootDone d true 15) s ((s.bootDone d).rejoin d).bringCheck) ∧
  (∀ (s : State) (d : Die) (u : Bool) (l : BitVec 4) (c : Instr) (e : Byte), (s.die d).st = .starting →
    (s.die d).stage = 2 →
    (c = .dieBootDone d u l ∧ e = 1 ∧
      (u = false ∨ (s.fwBank (bankNum true s.keeper.ubank)).svn.toNat < s.sec.svnFuse.toNat)) ∨
    (c = .dieBootDone d u l ∧ e = 2 ∧ u = true ∧ l ≠ 15 ∧
      s.sec.svnFuse.toNat ≤ (s.fwBank (bankNum true s.keeper.ubank)).svn.toNat) ∨
    (c = .bootTimeout d ∧ e = 4) →
    s.keeper.bring ≠ 5 →
    Completes c s fun t =>
      (t.die d).st = .absent ∧ (t.die d).service = 2 ∧ (t.die d).cause = 7 ∧ (t.die d).stage = 6 ∧
      (t.die d).err = e) ∧
  (∀ s : State, s.pwr.input = true → s.host.linkUp = false →
    Gives .pcieLinkUp s { s with host := { s.host with linkUp := true, d3hot := false } }) ∧
  (∀ (s : State) (b : Bool), s.host.linkUp = true →
    Gives (.powerStateChange b) s { s with host := { s.host with d3hot := b } })

/-- From R422 to R424. A change of GA makes the location invalid for good; a committed LEID closes every flow that is not FREE, lapses the
offers and erases the keys. R425 to R427: the keeper accepts SHUTTER, WAKE, CAP, DRAIN and IDENTIFY unless the engine
has been withdrawn; an adoption waits for the program, then commits its LEID.
It rests on the model's own readings of log entries 20, 53, 57, 65. -/
def Obligations.TreeCommandsAct : Prop :=
  (∀ (s : State) (ga : BitVec 6), s.pwr.input = true →
    Completes (.gaSample ga) s fun t =>
      t.keeper.ga = ga ∧ t.keeper.locValid = (s.keeper.locValid && decide (ga = s.keeper.ga0) && gaOdd ga) ∧
      (t.keeper.locValid = s.keeper.locValid → t.keeper.log = s.keeper.log) ∧
      t = { s with free := t.free, cnt := t.cnt, host := { s.host with changes := t.host.changes }
                   keeper := { s.keeper with ga := ga, locValid := t.keeper.locValid, log := t.keeper.log } }) ∧
  (∀ s : State, s.keeper.leidReq = true →
    Completes .leidCommit s fun t =>
      t.weights.keys = [] ∧ t.sec.offers = [] ∧ t.keeper.leidReq = false ∧
      t.keeper.memberGen = s.keeper.memberGen + 1 ∧ t.counter pgAddress 0 = s.counter pgAddress 0 + 1 ∧
      t.out.getLast? = some .earlyClose ∧
      (∀ p f, p < 64 → f < 1024 → (t.flow p f).st = if (s.flow p f).st = .free then .free else .closing) ∧
      t.prog.pst = s.prog.pst ∧ t.mem = s.mem) ∧
  (∀ s : State, s.keeperUp = true → s.keeper.withdrawn = false → s.keeper.adopting = false →
    Gives .keeperShutter s ((s.setLatch true).emit (.keeperAnswer true 0))) ∧
  (∀ s : State, s.keeperUp = true → s.keeper.withdrawn = false → s.keeper.adopting = true →
    Gives .keeperShutter s
      (({ s with keeper := { s.keeper with held := true } } : State).emit (.keeperAnswer true 0))) ∧
  (∀ s : State, s.keeperUp = true → s.keeper.withdrawn = false →
    Gives .keeperWake s ((s.setLatch false).emit (.keeperAnswer true 0))) ∧
  (∀ (s : State) (c : Instr), s.keeperUp = true → s.keeper.withdrawn = true →
    c = .keeperShutter ∨ c = .keeperWake ∨ c = .keeperDrain ∨ (∃ l h r k, c = .adoptLeid l h r k) →
    Completes c s fun t => ∃ n, t.out = s.out ++ [.keeperAnswer false n] ∧
      t = { s with out := t.out, free := t.free, host := { s.host with changes := t.host.changes } }) ∧
  (∀ (s : State) (w : BitVec 16), s.keeperUp = true →
    Completes (.cap w) s fun t =>
      t.out = s.out ++ [.keeperAnswer true 0] ∧
      (7 ≤ s.keeper.bring → t.pwr.keeperCap = max 8000 (min 21000 w.toNat) ∧ t.keeper = s.keeper) ∧
      (s.keeper.bring < 7 → t.keeper.capPend = some (max 8000 (min 21000 w.toNat)) ∧ t.pwr = s.pwr) ∧
      t = { s with out := t.out, pwr := { s.pwr with keeperCap := t.pwr.keeperCap }
                   keeper := { s.keeper with capPend := t.keeper.capPend }
                   host := { s.host with changes := t.host.changes } }) ∧
  (∀ s : State, s.keeperUp = true → s.keeper.withdrawn = false → (∀ c, (s.bctx c).live = false) →
    Completes .keeperDrain s fun t =>
      t.prog.runReq = true ∧ t.keeper.drained = true ∧
      t.reg pgProgram 0x040 = s.reg pgProgram 0x040 &&& ~~~1 ∧ (t.bctx 4).st = .committed ∧
      t.out = s.out ++ [.keeperAnswer true 0] ∧ t.prog.pst = s.prog.pst) ∧
  (∀ (s : State) (n : Byte), s.keeperUp = true →
    Gives (.identify n) s
      { s with pins := { s.pins with idLed := n != 0 }
               out := s.out ++ [.identity s.identityBytes, .keeperAnswer true 0] }) ∧
  (∀ s : State, s.pins.idLed = true →
    Gives .identifyIndicatorExpiry s { s with pins := { s.pins with idLed := false } }) ∧
  (∀ (s : State) (l : BitVec 20) (h : BitVec 2) (r k : BitVec 6), s.keeperUp = true → s.keeper.withdrawn = false →
    s.keeper.locValid = true → s.keeper.adopting = false → leidOk l = true → s.shut.st = .awake →
    (s.running = true → Gives (.adoptLeid l h r k) s
      (({ s with keeper := { s.keeper with place := h ++ r ++ k, ast := .waking, afail := 0, adopt := some l } } :
        State).emit (.keeperAnswer true 0))) ∧
    (s.running = false → (∀ c, (s.bctx c).live = false) → s.regField pgAddress 0x04C 0 0 = 0 →
      Completes (.adoptLeid l h r k) s fun t =>
        t.keeper.ast = .adopted ∧ t.keeper.place = h ++ r ++ k ∧ t.keeper.adopt = none ∧
        t.reg pgAddress 0x044 = l.zeroExtend 32 ∧ t.out = s.out ++ [.keeperAnswer true 0] ∧
        t.counter pgAddress 1 = s.counter pgAddress 1 + 1)) ∧
  (∀ s : State, s.keeper.adopting = true →
    Gives .adoptTimeExpiry s { s with keeper := { s.keeper with afail := 4 } })

/-- From R428, R429, Table 17.5. A refresh forms the next health record, and takes step 8 after step 7; a request answers
the latest one. A mailbox command makes the mailbox BUSY with its code and index; done, it answers with its bytes and
their number, or refuses. R421, R446: a verified image goes to the bank not marked active, which activation
then marks, and no other image is taken; sensors answer.
It rests on the model's own readings of log entries 24, 57, 64, 67. -/
def Obligations.KeeperAnswersAndUpdates : Prop :=
  (∀ s : State, s.pwr.input = true → s.noAdoption → s.keeper.bring ≠ 7 →
    Completes .healthRecordRefresh s fun t =>
      let u : State := { s with keeper := { s.keeper with recSeq := s.keeper.recSeq + 1 } }
      t.keeper = { u.keeper with record := u.healthRecord } ∧
      t = { s with keeper := t.keeper, free := t.free, host := { s.host with changes := t.host.changes } }) ∧
  (∀ s : State, s.pwr.input = true → s.noAdoption → s.keeper.bring = 7 → s.keeper.fwOk = true →
    Completes .healthRecordRefresh s fun t =>
      t.keeper.bring = 8 ∧ t.keeper.ready = true ∧ t.keeper.recSeq = s.keeper.recSeq + 1) ∧
  (∀ s : State, s.pwr.input = true → Gives .healthRecordRequest s (s.emit (.health s.keeper.record))) ∧
  (∀ (s : State) (c : Instr) (n : Byte) (i : BitVec 16), s.mbReach = true →
    (c = .readHealth ∧ n = 1 ∧ i = 0) ∨ (c = .mailboxIdentify ∧ n = 2 ∧ i = 0) ∨ (c = .readLog i ∧ n = 3) ∨
    (c = .readRepair i ∧ n = 4) →
    Completes c s fun t =>
      t.keeper = { s.keeper with mbBusy := true, mbOp := n, mbIndex := i } ∧
      (t.reg pgMailbox 0x040).toNat = i.toNat * 65536 + n.toNat ∧
      t = { s with regs := t.regs, keeper := t.keeper, host := { s.host with changes := t.host.changes } }) ∧
  (∀ s : State, s.keeper.mbBusy = true → s.pwr.input = true →
    (∀ l, s.mbAnswer = some l → l.length < 65536 →
      Completes .mailboxDone s fun t =>
        t.keeper.mbBusy = false ∧ (t.reg pgMailbox 0x044).toNat = l.length * 65536 + 2 ∧
        t.counter pgMailbox 0 = s.counter pgMailbox 0 + 1 ∧
        ∀ j b, j < 64 → l[j]? = some b →
          (t.reg pgMailbox (0x100 + 4 * (j / 4))).extractLsb' (8 * (j % 4)) 8 = b) ∧
    (s.mbAnswer = none →
      Completes .mailboxDone s fun t =>
        t.keeper.mbBusy = false ∧ t.reg pgMailbox 0x044 = 3 ∧
        t.counter pgMailbox 1 = s.counter pgMailbox 1 + 1)) ∧
  (∀ (s : State) (u : Bool) (f : FwImage), s.pwr.input = true →
    (f.sigOk = true → s.sec.svnFuse.toNat ≤ f.svn.toNat →
      Completes (.pldmFwUpdate u f) s fun t =>
        t.fwBank (bankNum u (!(if u then s.keeper.uactive else s.keeper.active))) = f ∧
        t.fwBank (bankNum u (if u then s.keeper.uactive else s.keeper.active)) =
          s.fwBank (bankNum u (if u then s.keeper.uactive else s.keeper.active)) ∧
        t.keeper.active = s.keeper.active ∧ t.keeper.uactive = s.keeper.uactive ∧
        t.out = s.out ++ [.pldm [0]]) ∧
    (f.sigOk = false ∨ f.svn.toNat < s.sec.svnFuse.toNat →
      Completes (.pldmFwUpdate u f) s fun t =>
        t.keeper.banks = s.keeper.banks ∧ t.out = s.out ++ [.pldm [1]] ∧
        fieldOf (t.reg pgSecurity rFault) 31 16 = 0x0903)) ∧
  (∀ s : State, s.pwr.input = true →
    (s.keeper.verK = true ∨ s.keeper.verU = true →
      Completes .activateFirmware s fun t =>
        t.keeper = { s.keeper with active := s.keeper.active != s.keeper.verK
                                   uactive := s.keeper.uactive != s.keeper.verU, verK := false, verU := false } ∧
        t.out = s.out ++ [.pldm [0]]) ∧
    (s.keeper.verK = false → s.keeper.verU = false → Gives .activateFirmware s (s.emit (.pldm [1])))) ∧
  (∀ (s : State) (i : Fin 7), s.keeperUp = true →
    Gives (.getSensorReading i) s (s.emit (.pldm (leBytes 4 (s.sensor i)))))

/-- From R421, R447, R448. The keeper answers the requests of SPDM, and signs and counts every quote over the nonce.
R449 to R451: a key request opens one of at most four offers; a delivery under an open offer is installed on every die
of its mask, or refused with its cause and 0x0904, and the offer is gone either way.
It rests on the model's own readings of log entries 24, 57, 68, 70. -/
def Obligations.SpdmAndKeys : Prop :=
  (∀ s : State, s.keeperUp = true →
    Gives .getVersion s (s.emit (.spdm 0x04 [0x00, 0x13])) ∧
    Gives .getDigests s (s.emit (.spdm 0x01 (Config.shake256 (Config.certificate 0)))) ∧
    Gives (.getCertificate 0) s (s.emit (.spdm 0x02 (Config.certificate 0)))) ∧
  (∀ (s : State) (n : Byte), s.keeperUp = true → n ≠ 0 →
    Gives (.getCertificate n) s (s.emit (.spdm 0x7F []))) ∧
  (∀ (s : State) (c : Instr) (n : Byte), s.keeperUp = true →
    (c = .getCapabilities ∧ n = 0x61) ∨ (c = .negotiateAlgorithms ∧ n = 0x63) →
    Completes c s fun t => ∃ l, t.out = s.out ++ [.spdm n l] ∧
      t = { s with out := t.out, free := t.free, host := { s.host with changes := t.host.changes } }) ∧
  (∀ (s : State) (c : Instr) (n i : Byte) (r : List Byte), s.keeperUp = true →
    (c = .challenge r ∧ n = 0x03 ∧ i = 0xFF) ∨ (c = .getMeasurements i r ∧ n = 0x60) →
    Completes c s fun t =>
      let b := s.measBlocks i.toNat ++ r
      t.out = s.out ++ [.spdm n (b ++ Config.sign 1 b)] ∧
      t.counter pgSecurity 0 = s.counter pgSecurity 0 + 1 ∧
      t = { s with out := t.out, cnt := t.cnt, host := { s.host with changes := t.host.changes } }) ∧
  (∀ (s : State) (r : List Byte) (k : BitVec 16) (i : Fin 16) (m : DWord), s.keeperUp = true →
    (s.sec.offers.length < 4 →
      Completes (.keyRequest r k i m) s fun t =>
        (∃ o : Offer, t.sec = { s.sec with offers := s.sec.offers ++ [o], nextOffer := s.sec.nextOffer + 1 } ∧
          o.num = s.sec.nextOffer ∧ o.keyId = k ∧ o.slot = i.val ∧ o.mask = m ∧
          o.meas5 = s.measurement 5 ∧ o.meas6 = s.measurement 6 ∧
          t.out = s.out ++ [.keyOffer o.data (Config.sign 1 o.data)]) ∧
        t = { s with out := t.out, sec := t.sec, host := { s.host with changes := t.host.changes } }) ∧
    (4 ≤ s.sec.offers.length → Gives (.keyRequest r k i m) s (s.emit (.keyAnswer false)))) ∧
  (∀ (s : State) (n : Word) (ct w : List Byte), s.keeperUp = true →
    s.sec.offers.find? (fun o => o.num == n) = none →
    Completes (.keyDeliver n ct w) s fun t =>
      t.weights = s.weights ∧ t.sec = s.sec ∧ t.out = s.out ++ [.keyAnswer false] ∧
      fieldOf (t.reg pgSecurity 0x04C) 31 28 = 1 ∧ fieldOf (t.reg pgSecurity rFault) 31 16 = 0x0904) ∧
  (∀ (s : State) (n : Word) (ct w : List Byte) (o : Offer), s.keeperUp = true → o.slot < 16 →
    s.sec.offers.find? (fun o => o.num == n) = some o →
    Completes (.keyDeliver n ct w) s fun t =>
      let c := s.deliverCause o (Config.unwrapKey n ct w)
      t.sec = { s.sec with offers := s.sec.offers.filter (·.num != n) } ∧
      fieldOf (t.reg pgSecurity 0x04C) 31 28 = c ∧
      if c = 0 then
        ∃ k, Config.unwrapKey n ct w = some k ∧
          (∀ d i, d < 64 → i < 16 → t.keySlot d i = if i = o.slot ∧ o.mask.getLsbD d = true
            then { key := k, keyId := o.keyId, valid := true, pending := false } else s.keySlot d i) ∧
          t.out = s.out ++ [.keyAnswer true] ∧ t.counter pgSecurity 1 = s.counter pgSecurity 1 + 1
      else
        t.weights = s.weights ∧ t.out = s.out ++ [.keyAnswer false] ∧
        t.counter pgSecurity 2 = s.counter pgSecurity 2 + 1 ∧
        fieldOf (t.reg pgSecurity rFault) 31 16 = 0x0904) ∧
  (∀ (s : State) (n : Word), (s.sec.offers.any fun o => o.num == n) = true →
    Gives (.offerLapse n) s { s with sec := { s.sec with offers := s.sec.offers.filter (·.num != n) } })

/-! ### The Akell meter -/

/-- From R434, R435, R437. A sample adds its energy to the window and to the total. A window that ends, early or in full,
takes its energy and the next sequence number into a record that awaits the report of a new SNAP, and the next window
starts empty. R433, R438: only the answer to the latest SNAP enters the record; one that fails verification marks it,
every other is counted; without an answer the record closes with NO_REPORT or BAD_REPORT and 0x0902.
It rests on the model's own readings of log entries 24, 55. -/
def Obligations.MeterWindowsAndReports : Prop :=
  (∀ (s : State) (mv da : BitVec 16) (mj : Nat), s.meter.started = true →
    Completes (.meterSample mv da mj) s fun t =>
      t.meter.energy = s.meter.energy + mj ∧ t.meter.total = s.meter.total + mj ∧
      t.meter.since = s.meter.since + 1 ∧ t.meter.seq = s.meter.seq ∧ t.meter.waiting = s.meter.waiting ∧
      t = { s with meter := t.meter, host := { s.host with changes := t.host.changes } }) ∧
  (∀ (s : State) (c : Instr) (f : BitVec 16), s.meter.started = true → s.meter.waiting = none →
    (c = .meterWindowEnd ∧ f = 0) ∨ (c = .earlyClose ∧ 16000 ≤ s.meter.since ∧ f = rfPartial) ∨
    (∃ n, c = .setInterval n ∧ s.portSealed = false ∧ 10 ≤ n.toNat ∧ n.toNat ≤ 900 ∧
      f = rfPartial ||| rfInterval) →
    Completes c s fun t =>
      (∃ r : Record, t.meter.waiting = some r ∧ r.energy = s.meter.energy ∧
        r.total = Config.meterEnergy0 + s.meter.total ∧ r.seq = Config.meterSeq0 + s.meter.seq + 1 ∧
        r.interval = s.meter.interval ∧ r.flags &&& f = f ∧ r.report = none) ∧
      t.meter.energy = 0 ∧ t.meter.total = s.meter.total ∧ t.meter.seq = s.meter.seq + 1 ∧
      t.meter.snap = s.meter.snap + 1 ∧ t.meter.snapOut = true ∧ t.meter.closing = s.meter.closing ∧
      t.out[s.out.length]? = some (.snapReq (s.meter.snap + 1))) ∧
  (∀ (s : State) (n : BitVec 16), s.portSealed = false → 10 ≤ n.toNat → n.toNat ≤ 900 →
    Completes (.setInterval n) s fun t =>
      t.meter.interval = n ∧ t.out.getLast? = some (.meterAnswer false [])) ∧
  (∀ s : State, s.meter.snapOut = true → s.pwr.input = true → s.keeper.withdrawn = false → s.keeper.fwOk = true →
    Completes .snap s fun t =>
      t.meter = { s.meter with snapOut := false
                               tally := { s.meter.tally with latchW := s.meter.tally.work
                                                             latchB := s.meter.tally.ballast } } ∧
      t.reg pgMeter 0x074 = s.meter.snap ∧ t.counter pgMeter 1 = s.counter pgMeter 1 + 1 ∧
      ∃ w : WorkReport, t.out = s.out ++ [.report w] ∧ w.snapSeq = s.meter.snap ∧
        w.workTotal = tallies s.meter.tally.work ∧ w.ballastTotal = tallies s.meter.tally.ballast ∧
        w.imageId = s.imageIdView ∧ w.sigOk = true) ∧
  (∀ (s : State) (x : Record) (r : WorkReport), s.meter.present = true → s.meter.waiting = some x →
    r.snapSeq = s.meter.snap →
    (r.sigOk = true → Completes (.workReport r) s fun t =>
      t.meter.waiting = none ∧ t.meter.base = some r ∧ t.meter.gap = false ∧
      ∃ y : Record, t.meter.closing = s.meter.closing ++ [y] ∧ y.report = some r ∧ y.energy = x.energy ∧
        y.seq = x.seq ∧ y.flags &&& (x.flags ||| rfEngineOk) = x.flags ||| rfEngineOk ∧
        (∀ b, s.meter.base = some b → b.workTotal.toNat ≤ r.workTotal.toNat →
          b.ballastTotal.toNat ≤ r.ballastTotal.toNat → b.uptimeMs.toNat ≤ r.uptimeMs.toNat →
          y.work = r.workTotal - b.workTotal ∧ y.ballast = r.ballastTotal - b.ballastTotal)) ∧
    (r.sigOk = false →
      Gives (.workReport r) s { s with meter := { s.meter with badRep := true } })) ∧
  (∀ (s : State) (r : WorkReport), s.meter.present = true → s.meter.waiting = none ∨ r.snapSeq ≠ s.meter.snap →
    Gives (.workReport r) s { s with meter := { s.meter with junk := s.meter.junk + 1 } }) ∧
  (∀ (s : State) (x : Record), s.meter.waiting = some x → s.pwr.input = true → s.meter.present = true →
    Completes .reportTimeout s fun t =>
      t.meter = { s.meter with closing := s.meter.closing ++
          [{ x with flags := x.flags ||| (if s.meter.badRep then rfBadReport else rfNoReport) }]
                               waiting := none, badRep := false, gap := true } ∧
      t.counter pgMeter 2 = s.counter pgMeter 2 + 1 ∧ fieldOf (t.reg pgMeter rFault) 31 16 = 0x0902)

/-- From R439 to R441. FINAL, or its time-out, closes the open record with FINAL or NO_REPORT, and the meter ends where its
input is gone; a closed record is stored with the digest of the one before and its signature, and shown in
METER_MIRROR. R442 to R444: the keeper takes the meter as working while a fresh status message meets the conditions,
and raises 0x0901 when it does not any more. R445: the port's commands answer and change what they say.
It rests on the model's own readings of log entries 24, 55, 56, 57. -/
def Obligations.MeterRecordsAndStatus : Prop :=
  (∀ (s : State) (b : Bool), s.meter.fin = some b → s.meter.waiting = none →
    Completes .final s fun t =>
      (∃ r : Record, t.meter.closing = s.meter.closing ++ [r] ∧ r.energy = s.meter.energy ∧
        r.seq = Config.meterSeq0 + s.meter.seq + 1 ∧ r.flags &&& rfFinal = rfFinal ∧
        (b = true → r.flags &&& rfWithdrawn = rfWithdrawn)) ∧
      t.meter.fin = none ∧ t.meter.energy = 0 ∧ t.meter.total = s.meter.total ∧
      t.meter.started = (s.meter.started && s.pwr.input)) ∧
  (∀ s : State, s.meter.low = true → s.meter.waiting = none →
    Completes .finalTimeout s fun t =>
      (∃ r : Record, t.meter.closing = s.meter.closing ++ [r] ∧ r.energy = s.meter.energy ∧
        r.flags &&& rfNoReport = rfNoReport) ∧
      t.meter.low = false ∧ t.meter.started = false ∧ t.meter.gap = true ∧ t.meter.total = s.meter.total) ∧
  (∀ (s : State) (r : Record) (l : List Record), s.meter.closing = r :: l →
    Completes .recordStored s fun t =>
      t.meter.closing = l ∧
      (∃ p g, p = (match s.meter.records with | [] => leBytes 32 0 | q :: _ => (Config.shake256 q.slot).take 32) ∧
        g = Config.sign 2 ({ r with prev := p } : Record).bytes ∧
        t.meter.records = ({ r with prev := p, sig := g } :: s.meter.records).take 60000) ∧
      (s.pwr.input = true → s.meter.present = true → t.regPair pgMeter 0x048 = r.seq ∧
        t.regPair pgMeter 0x060 = r.work ∧ t.regPair pgMeter 0x068 = r.ballast ∧
        t.counter pgMeter 0 = s.counter pgMeter 0 + 1) ∧
      (s.pwr.input = false → t.regs = s.regs)) ∧
  (∀ (s : State) (m : MeterStatus), s.meter.present = true → s.pwr.input = true →
    Completes (.meterStatus m) s fun t =>
      t.meter = { s.meter with status := m, fresh := true, working := t.meter.meets } ∧
      t.reg pgMeter 0x044 = m.fw ∧
      (s.meter.working = true → t.meter.working = false → fieldOf (t.reg pgMeter rFault) 31 16 = 0x0901)) ∧
  (∀ s : State, s.meter.fresh = true →
    Completes .meterStatusTimeout s fun t =>
      t.meter = { s.meter with fresh := false, working := false } ∧
      (s.meter.working = true → fieldOf (t.reg pgMeter rFault) 31 16 = 0x0901)) ∧
  (∀ s : State, s.meter.present = true →
    Completes (.meterPrsntChange false) s fun t =>
      t.meter.present = false ∧ t.meter.working = false ∧ t.meter.started = false ∧ t.meter.waiting = s.meter.waiting ∧
      t.meter.low = (s.meter.low || s.meter.started) ∧ t.meter.records = s.meter.records ∧ t.meter.total = s.meter.total) ∧
  (∀ s : State, s.meter.present = false → s.meter.low = false →
    Completes (.meterPrsntChange true) s fun t =>
      t.meter.present = true ∧ t.meter.base = none ∧ t.meter.gap = false ∧
      t.meter.started = (s.pwr.input || s.meter.started) ∧ t.meter.total = s.meter.total) ∧
  (∀ s : State, Completes .sealOpened s fun t =>
    t.meter.sealOk = (s.meter.sealOk && !Config.variantWS) ∧ t.meter.records = s.meter.records ∧
    t.meter.total = s.meter.total) ∧
  (∀ s : State, Completes .readStatus s fun t =>
    ∃ l, t.out = s.out ++ [.meterAnswer false l] ∧
      t = { s with out := t.out, host := { s.host with changes := t.host.changes } }) ∧
  (∀ (s : State) (n : DWord), Gives (.readRecord n) s (s.emit
    (match s.meter.records.find? (fun r => r.seq == n) with
      | some r => .meterAnswer false r.slot
      | none => .meterAnswer true []))) ∧
  (∀ (s : State) (i : Byte), Gives (.readCert i) s (s.emit
    (if i.toNat < 4 then .meterAnswer false (Config.certificate (16 + i.toNat)) else .meterAnswer true []))) ∧
  (∀ (s : State) (f : FwImage), s.portSealed = false → f.sigOk = true →
    Gives (.updateFw f) s
      (({ s with meter := { s.meter with pend := some f } } : State).emit (.meterAnswer false []))) ∧
  (∀ (s : State) (f : FwImage), f.sigOk = false → Gives (.updateFw f) s (s.emit (.meterAnswer true [])))

/-! ### Frames -/

/-- What the commands of a family leave alone. The meter's change the meter and what shows it; the keeper's talk
changes the keeper, security, the cap and the pins; the power controller's switch no quarter; a wale's lanes change
the wales, the repair map and the assumed capacities; the scrubber and the aperture change memory and the check of an
image; flows, walks, baskets and bundles touch no die, quarter, wale, power, Shutter, security, meter or pin. -/
def Obligations.FamilyFrames : Prop :=
  (∀ (c : Instr) (s t : State), meterOnly c = true → exec c s = .next t →
    t = { s with out := t.out, free := t.free, regs := t.regs, cnt := t.cnt, bnd := t.bnd, meter := t.meter
                 keeper := { s.keeper with lastFault := t.keeper.lastFault }
                 host := { s.host with changes := t.host.changes } } ∧
    (∀ p o, p ≠ pgMeter → o < 4096 → t.reg p o = s.reg p o)) ∧
  (∀ (c : Instr) (s t : State), keeperTalk c = true → exec c s = .next t →
    t = { s with out := t.out, free := t.free, regs := t.regs, cnt := t.cnt, bnd := t.bnd, pins := t.pins
                 pwr := { s.pwr with keeperCap := t.pwr.keeperCap }, keeper := t.keeper, sec := t.sec
                 host := { s.host with changes := t.host.changes } } ∧
    t.keeper.bring = s.keeper.bring ∧ t.keeper.withdrawn = s.keeper.withdrawn ∧
    t.keeper.repairs = s.keeper.repairs ∧ t.sec.svnFuse = s.sec.svnFuse) ∧
  (∀ (c : Instr) (s t : State), powerStep c = true → exec c s = .next t →
    t = { s with free := t.free, regs := t.regs, cnt := t.cnt, bnd := t.bnd, quarters := t.quarters, pwr := t.pwr
                 pins := { s.pins with pwrOk := t.pins.pwrOk }
                 keeper := { s.keeper with lastFault := t.keeper.lastFault }
                 host := { s.host with changes := t.host.changes } } ∧
    t.pwr.input = s.pwr.input ∧ ∀ d q, (t.quarter d q).st = (s.quarter d q).st) ∧
  (∀ (c : Instr) (s t : State), waleLane c = true → exec c s = .next t →
    t = { s with free := t.free, regs := t.regs, cnt := t.cnt, bnd := t.bnd, wales := t.wales
                 prog := { s.prog with capBelow := t.prog.capBelow, scrubAbv := t.prog.scrubAbv }
                 keeper := { s.keeper with lastFault := t.keeper.lastFault, repairs := t.keeper.repairs }
                 host := { s.host with changes := t.host.changes } } ∧
    ∀ w, (t.wale w).st = (s.wale w).st) ∧
  (∀ (c : Instr) (s t : State), memoryWork c = true → exec c s = .next t →
    t = { s with out := t.out, regs := t.regs, cnt := t.cnt, mem := t.mem, scrub := t.scrub, bnd := t.bnd
                 prog := { s.prog with check := t.prog.check }
                 keeper := { s.keeper with lastFault := t.keeper.lastFault }, host := t.host } ∧
    t.host.linkUp = s.host.linkUp ∧ t.host.d3hot = s.host.d3hot ∧ t.host.held = s.host.held) ∧
  (∀ (c : Instr) (s t : State), dataWork c = true → exec c s = .next t →
    t = { s with out := t.out, free := t.free, regs := t.regs, cnt := t.cnt, host := t.host, mem := t.mem
                 scrub := t.scrub, stalls := t.stalls, streams := t.streams, stores := t.stores
                 rounds := t.rounds, prog := t.prog, weights := t.weights, red := t.red, ports := t.ports
                 flows := t.flows, bnd := t.bnd, ledgers := t.ledgers, keeper := t.keeper })
end

