-- ==== Sys2Proof/Laws/Maps.lean ====
section
/-! SUPPORT. Laws of sparse maps: what a read gives after a write, and that updates keep the canonical
form. -/

namespace Sys2Proof.Machine

variable {α : Type}

theorem SMap.find_erase_same (m : SMap α) (k : Nat) : SMap.find (SMap.erase m k) k = none := by
  induction m with
  | nil => rfl
  | cons e r ih =>
    obtain ⟨j, v⟩ := e
    by_cases h : j = k
    · simpa [SMap.erase, h] using ih
    · simp only [SMap.erase] at ih ⊢
      simp [h, SMap.find, ih]

theorem SMap.find_erase_other (m : SMap α) {k j : Nat} (h : j ≠ k) :
    SMap.find (SMap.erase m k) j = SMap.find m j := by
  induction m with
  | nil => rfl
  | cons e r ih =>
    obtain ⟨i, v⟩ := e
    simp only [SMap.erase] at ih ⊢
    by_cases hi : i = k
    · have : i ≠ j := fun he => h (he ▸ hi)
      simp [SMap.find, hi, ih]
      intro hk
      exact absurd hk.symm h
    · by_cases hj : i = j
      · subst hj; simp [SMap.find, hi]
      · simp [SMap.find, hi, hj, ih]

theorem SMap.find_insert_same (m : SMap α) (k : Nat) (v : α) (h : SMap.find m k = none) :
    SMap.find (SMap.insert m k v) k = some v := by
  induction m with
  | nil => simp [SMap.insert, SMap.find]
  | cons e r ih =>
    obtain ⟨j, w⟩ := e
    simp only [SMap.find] at h
    split at h
    · simp at h
    · rename_i hj
      simp only [SMap.insert]
      split
      · simp [SMap.find]
      · simp [SMap.find, hj, ih h]

theorem SMap.find_insert_other (m : SMap α) {k j : Nat} (v : α) (h : j ≠ k) :
    SMap.find (SMap.insert m k v) j = SMap.find m j := by
  induction m with
  | nil => simp [SMap.insert, SMap.find, Ne.symm h]
  | cons e r ih =>
    obtain ⟨i, w⟩ := e
    simp only [SMap.insert]
    split
    · simp [SMap.find, Ne.symm h]
    · simp [SMap.find, ih]

variable [DecidableEq α] (d : α)

/-- A read after a write to the same key gives the value written. -/
@[simp] theorem SMap.get_set_same (m : SMap α) (k : Nat) (v : α) : SMap.get d (SMap.set d m k v) k = v := by
  unfold SMap.set SMap.get
  split
  · rename_i h; simp [SMap.find_erase_same, h]
  · rw [SMap.find_insert_same _ _ _ (SMap.find_erase_same m k)]; rfl

/-- A write leaves every other key alone. -/
theorem SMap.get_set_other (m : SMap α) {k j : Nat} (v : α) (h : j ≠ k) :
    SMap.get d (SMap.set d m k v) j = SMap.get d m j := by
  unfold SMap.set SMap.get
  split
  · rw [SMap.find_erase_other _ h]
  · rw [SMap.find_insert_other _ _ h, SMap.find_erase_other _ h]

/-- A read after a write, by whether the keys are equal. -/
theorem SMap.get_set (m : SMap α) (k j : Nat) (v : α) :
    SMap.get d (SMap.set d m k v) j = if j = k then v else SMap.get d m j := by
  split
  · rename_i h; rw [h, SMap.get_set_same]
  · rename_i h; exact SMap.get_set_other d m v h

/-! ### The canonical form -/

theorem SMap.wfFrom_mono (m : SMap α) {a b : Nat} (h : a ≤ b) (w : SMap.wfFrom d b m = true) :
    SMap.wfFrom d a m = true := by
  cases m with
  | nil => rfl
  | cons e r =>
    obtain ⟨j, v⟩ := e
    simp only [SMap.wfFrom, Bool.and_eq_true, decide_eq_true_eq] at w ⊢
    exact ⟨⟨by omega, w.1.2⟩, w.2⟩

theorem SMap.wfFrom_filter (m : SMap α) (p : Nat × α → Bool) {a : Nat} (w : SMap.wfFrom d a m = true) :
    SMap.wfFrom d a (m.filter p) = true := by
  induction m generalizing a with
  | nil => rfl
  | cons e r ih =>
    obtain ⟨j, v⟩ := e
    simp only [SMap.wfFrom, Bool.and_eq_true, decide_eq_true_eq] at w
    rw [List.filter_cons]
    split
    · simp only [SMap.wfFrom, Bool.and_eq_true, decide_eq_true_eq]
      exact ⟨w.1, ih w.2⟩
    · exact SMap.wfFrom_mono d _ (by omega) (ih w.2)

theorem SMap.wf_filter (m : SMap α) (p : Nat × α → Bool) (w : SMap.wf d m = true) :
    SMap.wf d (m.filter p) = true := SMap.wfFrom_filter d m p w

theorem SMap.wfFrom_insert (m : SMap α) (k : Nat) (v : α) (hv : v ≠ d) {a : Nat} (ha : a ≤ k)
    (hn : SMap.find m k = none) (w : SMap.wfFrom d a m = true) :
    SMap.wfFrom d a (SMap.insert m k v) = true := by
  induction m generalizing a with
  | nil => simp [SMap.insert, SMap.wfFrom, ha, hv]
  | cons e r ih =>
    obtain ⟨j, x⟩ := e
    simp only [SMap.wfFrom, Bool.and_eq_true, decide_eq_true_eq] at w
    simp only [SMap.find] at hn
    split at hn
    · simp at hn
    · rename_i hj
      simp only [SMap.insert]
      split
      · rename_i hk
        simp only [SMap.wfFrom, Bool.and_eq_true, decide_eq_true_eq]
        exact ⟨⟨ha, hv⟩, ⟨by omega, w.1.2⟩, w.2⟩
      · simp only [SMap.wfFrom, Bool.and_eq_true, decide_eq_true_eq]
        exact ⟨w.1, ih (by omega) hn w.2⟩

/-- A write keeps the canonical form. -/
theorem SMap.wf_set (m : SMap α) (k : Nat) (v : α) (w : SMap.wf d m = true) :
    SMap.wf d (SMap.set d m k v) = true := by
  unfold SMap.set
  split
  · exact SMap.wf_filter d m _ w
  · rename_i hv
    exact SMap.wfFrom_insert d _ k v hv (Nat.zero_le k) (SMap.find_erase_same m k) (SMap.wf_filter d m _ w)

end Sys2Proof.Machine
end

