-- ==== Sys2Proof/Laws/Keeps.lean ====
section
/-! SUPPORT. What every operation of the model keeps: the command queue, a memory in canonical form, and
ledgers that balance (R326, R328). `Keeps s t` says that `t` may follow `s`; one lemma per operation says
so in a form that chains (files Laws/Keep*.lean). -/

namespace Sys2Proof.Machine

/-- From `s` to `t` the queue is the same, a canonical memory stays canonical, balanced ledgers stay
balanced (R328), the energy total and the fuses do not fall (R434, R446), and an ARITH step within the
thermal ceiling stays within it (R384). -/
structure Keeps (s t : State) : Prop where
  queue : t.pending = s.pending
  mem : s.mem.wf = true → t.mem.wf = true
  led : s.balanced → t.balanced
  energy : s.meter.total ≤ t.meter.total
  fuse : s.sec.svnFuse.toNat ≤ t.sec.svnFuse.toNat
  ceil : s.pwr.step ≤ s.pwr.ceil ∧ s.pwr.ceil ≤ 72 → t.pwr.step ≤ t.pwr.ceil ∧ t.pwr.ceil ≤ 72

/-- Every next state of an outcome is one that `Keeps` allows. -/
structure KeepsO (s : State) (o : Host.Outcome State Fault Refusal) : Prop where
  keeps : ∀ t, o = .next t → Keeps s t

theorem Keeps.refl (s : State) : Keeps s s := ⟨rfl, id, id, Nat.le_refl _, Nat.le_refl _, id⟩

theorem Keeps.trans {a b c : State} (h : Keeps a b) (k : Keeps b c) : Keeps a c :=
  ⟨k.queue.trans h.queue, fun w => k.mem (h.mem w), fun w => k.led (h.led w), Nat.le_trans h.energy k.energy,
    Nat.le_trans h.fuse k.fuse, fun w => k.ceil (h.ceil w)⟩

theorem Keeps.cut {a x : State} {p : Prop} (h : Keeps a x) (k : Keeps a x → p) : p := k h

/-- An update of other parts of the state. -/
theorem Keeps.update {a s t : State} (h : Keeps a s) (h1 : t.pending = s.pending) (h2 : t.mem = s.mem)
    (h3 : t.ledgers = s.ledgers) (h4 : t.meter.total = s.meter.total) (h5 : t.sec.svnFuse = s.sec.svnFuse)
    (h6 : t.pwr.step = s.pwr.step) (h7 : t.pwr.ceil = s.pwr.ceil) : Keeps a t := by
  refine h.trans ⟨h1, fun w => h2 ▸ w, fun w d c i => ?_, h4 ▸ Nat.le_refl _, h5 ▸ Nat.le_refl _, ?_⟩
  · have := w d c i
    simpa [State.ledger, h3] using this
  · rw [h6, h7]
    exact id

theorem KeepsO.next {a s : State} (h : Keeps a s) : KeepsO a (.next s) := by
  refine ⟨fun t ht => ?_⟩
  cases ht
  exact h

theorem KeepsO.of {a s t : State} (h : KeepsO s (.next t)) (k : Keeps a s) : Keeps a t := k.trans (h.keeps t rfl)

theorem Keeps.foldl {α : Type} {a : State} {f : State → α → State} (l : List α)
    (hf : ∀ s x, Keeps a s → Keeps a (f s x)) {s : State} (h : Keeps a s) : Keeps a (l.foldl f s) := by
  induction l generalizing s with
  | nil => exact h
  | cons e r ih => exact ih (hf s e h)

theorem Keeps.forEach {α : Type} {a : State} {f : State → α → State} {l : List α}
    (hf : ∀ s x, Keeps a s → Keeps a (f s x)) {s : State} (h : Keeps a s) : Keeps a (s.forEach l f) :=
  Keeps.foldl l hf h

/-! ### Memory -/

theorem Mem.wf_putWord {m : Mem} (w : Nat) (v : MWord) (h : m.wf = true) : (m.putWord w v).wf = true := by
  simp only [Mem.wf, Bool.and_eq_true] at h ⊢
  refine ⟨⟨?_, SMap.wf_set false m.poison w v.poison h.1.2⟩, SMap.wf_set 0 m.upsets w 0 h.2⟩
  have go : ∀ (l : List Nat) (b : SMap Byte), SMap.wf 0 b = true →
      SMap.wf 0 (l.foldl (fun b i => SMap.set 0 b (8 * w + i) (v.val.extractLsb' (8 * i) 8)) b) = true := by
    intro l
    induction l with
    | nil => exact fun _ hb => hb
    | cons i r ih => exact fun b hb => ih _ (SMap.wf_set _ _ _ _ hb)
  exact go _ _ h.1.1

theorem Keeps.putWord {a s : State} (w : Nat) (v : MWord) (h : Keeps a s) : Keeps a (s.putWord w v) :=
  h.trans ⟨rfl, fun k => Mem.wf_putWord w v k, id, Nat.le_refl _, Nat.le_refl _, id⟩

theorem Keeps.zeroRange {a s : State} (lo hi : Nat) (h : Keeps a s) : Keeps a (s.zeroRange lo hi) := by
  refine h.trans ⟨rfl, fun k => ?_, id, Nat.le_refl _, Nat.le_refl _, id⟩
  simp only [Mem.wf, Bool.and_eq_true, State.zeroRange] at k ⊢
  exact ⟨⟨SMap.wf_filter _ _ _ k.1.1, SMap.wf_filter _ _ _ k.1.2⟩, SMap.wf_filter _ _ _ k.2⟩

/-! ### Ledgers -/

/-- A ledger is written with a sum that is what it was. -/
theorem Keeps.setLedger {a s : State} {d cls i : Nat} {x : Ledger} (hx : x.sum = (s.ledger d cls i).sum)
    (h : Keeps a s) : Keeps a (s.setLedger d cls i x) := by
  refine h.trans ⟨rfl, id, fun k d' c' i' => ?_, Nat.le_refl _, Nat.le_refl _, id⟩
  simp only [State.ledger, State.setLedger, SMap.get_set]
  split
  · rw [hx]; exact k d cls i
  · exact k d' c' i'

theorem Keeps.ledIssue {a s : State} (d cls i n : Nat) (h : Keeps a s) : Keeps a (s.ledIssue d cls i n) := by
  refine Keeps.setLedger ?_ h
  simp only [Ledger.sum]
  generalize BitVec.ofNat 64 n = m
  ring

theorem Keeps.ledReturn {a s : State} (d cls i n : Nat) (h : Keeps a s) :
    Keeps a (s.ledReturn d cls i n) := by
  refine Keeps.setLedger ?_ h
  simp only [Ledger.sum]
  generalize BitVec.ofNat 64 n = m
  ring

theorem Keeps.count {a s : State} (page i n : Nat) (h : Keeps a s) : Keeps a (s.count page i n) :=
  h.update rfl rfl rfl rfl rfl rfl rfl

theorem Keeps.ledWoff {a s : State} (d cls i n : Nat) (h : Keeps a s) : Keeps a (s.ledWoff d cls i n) := by
  unfold State.ledWoff
  split
  · exact h
  · refine Keeps.count _ _ _ (Keeps.setLedger ?_ h)
    simp only [Ledger.sum]
    generalize BitVec.ofNat 64 n = m
    ring

/-- A state written out field by field: only what `Keeps` speaks of matters. -/
theorem keeps_mk {a s : State} {p : List Instr} {m : Mem} {l : SMap Ledger}
    {x1 : List OutMsg} {x2 : Nat} {x3 : SMap (Option Word)} {x4 : SMap DWord} {x5 : HostIf} {x7 : SMap
    Scrub} {x8 : SMap DieSt} {x9 : SMap QuarterSt} {x10 : SMap Stall} {x11 : SMap Arcade} {x12 : SMap
    Stream} {x13 : Stores} {x14 : Rounds} {x15 : Prog} {x16 : Weights} {x17 : Red} {x18 : SMap Port}
    {x19 : SMap Flow} {x20 : Bnd} {x22 : Wales} {x23 : Pwr} {x24 : Shut} {x25 : Keeper} {x26 : Sec} {x27
    : Meter} {x28 : Pins}
    (h : Keeps a s) (hp : p = s.pending) (hm : m = s.mem) (hl : l = s.ledgers)
    (he : x27.total = s.meter.total) (hf : x26.svnFuse = s.sec.svnFuse) (hs : x23.step = s.pwr.step)
    (hc : x23.ceil = s.pwr.ceil) :
    Keeps a (State.mk p x1 x2 x3 x4 x5 m x7 x8 x9 x10 x11 x12 x13 x14 x15 x16 x17 x18 x19 x20 l x22 x23 x24 x25 x26 x27 x28) :=
  h.update hp hm hl he hf hs hc

theorem keepsO_ok {a s t : State} (h : Keeps a t) : KeepsO a (s.ok t) :=
  KeepsO.next (h.update rfl rfl rfl rfl rfl rfl rfl)

end Sys2Proof.Machine
end

