-- ==== Sys2Proof/Laws/KeepOps.lean ====
section
/-! SUPPORT. What the operations of Machine/Ops.lean keep (Laws/Keeps.lean). -/

namespace Sys2Proof.Machine

variable {a s : State}

theorem keeps_setDie (h : Keeps a s) : Keeps a (State.setDie s d v2) := by
  unfold State.setDie
  repeat' first
    | with_reducible assumption
    | (with_reducible refine keeps_mk ?_ rfl rfl rfl rfl rfl rfl rfl; first | with_reducible assumption)
    | with_reducible apply Keeps.foldl
    | (intro _ _ _; try beta_reduce)
    | (intro _ _; try beta_reduce)
    | (extract_lets +onlyGivenNames x; refine Keeps.cut (a := a) (x := x) ?_ ?_; rotate_left; (intro hx; clear_value x); rotate_left; unfold x; clear x)
    | (extract_lets +onlyGivenNames x; clear_value x)
    | split

theorem keeps_setQuarter (h : Keeps a s) : Keeps a (State.setQuarter s d q v3) := by
  unfold State.setQuarter
  repeat' first
    | with_reducible assumption
    | (with_reducible refine keeps_mk ?_ rfl rfl rfl rfl rfl rfl rfl; first | with_reducible assumption)
    | with_reducible apply Keeps.foldl
    | (intro _ _ _; try beta_reduce)
    | (intro _ _; try beta_reduce)
    | (extract_lets +onlyGivenNames x; refine Keeps.cut (a := a) (x := x) ?_ ?_; rotate_left; (intro hx; clear_value x); rotate_left; unfold x; clear x)
    | (extract_lets +onlyGivenNames x; clear_value x)
    | split

theorem keeps_setSlot (h : Keeps a s) : Keeps a (State.setSlot s d p v3) := by
  unfold State.setSlot
  repeat' first
    | with_reducible assumption
    | (with_reducible refine keeps_mk ?_ rfl rfl rfl rfl rfl rfl rfl; first | with_reducible assumption)
    | with_reducible apply Keeps.foldl
    | (intro _ _ _; try beta_reduce)
    | (intro _ _; try beta_reduce)
    | (extract_lets +onlyGivenNames x; refine Keeps.cut (a := a) (x := x) ?_ ?_; rotate_left; (intro hx; clear_value x); rotate_left; unfold x; clear x)
    | (extract_lets +onlyGivenNames x; clear_value x)
    | split

theorem keeps_setArc (h : Keeps a s) : Keeps a (State.setArc s d q v3 v4) := by
  unfold State.setArc
  repeat' first
    | with_reducible assumption
    | (with_reducible refine keeps_mk ?_ rfl rfl rfl rfl rfl rfl rfl; first | with_reducible assumption)
    | with_reducible apply Keeps.foldl
    | (intro _ _ _; try beta_reduce)
    | (intro _ _; try beta_reduce)
    | (extract_lets +onlyGivenNames x; refine Keeps.cut (a := a) (x := x) ?_ ?_; rotate_left; (intro hx; clear_value x); rotate_left; unfold x; clear x)
    | (extract_lets +onlyGivenNames x; clear_value x)
    | split

theorem keeps_setStream (h : Keeps a s) : Keeps a (State.setStream s d u st v4) := by
  unfold State.setStream
  repeat' first
    | with_reducible assumption
    | (with_reducible refine keeps_mk ?_ rfl rfl rfl rfl rfl rfl rfl; first | with_reducible assumption)
    | with_reducible apply Keeps.foldl
    | (intro _ _ _; try beta_reduce)
    | (intro _ _; try beta_reduce)
    | (extract_lets +onlyGivenNames x; refine Keeps.cut (a := a) (x := x) ?_ ?_; rotate_left; (intro hx; clear_value x); rotate_left; unfold x; clear x)
    | (extract_lets +onlyGivenNames x; clear_value x)
    | split

theorem keeps_setRoundCtx (h : Keeps a s) : Keeps a (State.setRoundCtx s d c v3) := by
  unfold State.setRoundCtx
  repeat' first
    | with_reducible assumption
    | (with_reducible refine keeps_mk ?_ rfl rfl rfl rfl rfl rfl rfl; first | with_reducible assumption)
    | with_reducible apply Keeps.foldl
    | (intro _ _ _; try beta_reduce)
    | (intro _ _; try beta_reduce)
    | (extract_lets +onlyGivenNames x; refine Keeps.cut (a := a) (x := x) ?_ ?_; rotate_left; (intro hx; clear_value x); rotate_left; unfold x; clear x)
    | (extract_lets +onlyGivenNames x; clear_value x)
    | split

theorem keeps_setFetch (h : Keeps a s) : Keeps a (State.setFetch s d e v3) := by
  unfold State.setFetch
  repeat' first
    | with_reducible assumption
    | (with_reducible refine keeps_mk ?_ rfl rfl rfl rfl rfl rfl rfl; first | with_reducible assumption)
    | with_reducible apply Keeps.foldl
    | (intro _ _ _; try beta_reduce)
    | (intro _ _; try beta_reduce)
    | (extract_lets +onlyGivenNames x; refine Keeps.cut (a := a) (x := x) ?_ ?_; rotate_left; (intro hx; clear_value x); rotate_left; unfold x; clear x)
    | (extract_lets +onlyGivenNames x; clear_value x)
    | split

theorem keeps_setIngest (h : Keeps a s) : Keeps a (State.setIngest s d v2) := by
  unfold State.setIngest
  repeat' first
    | with_reducible assumption
    | (with_reducible refine keeps_mk ?_ rfl rfl rfl rfl rfl rfl rfl; first | with_reducible assumption)
    | with_reducible apply Keeps.foldl
    | (intro _ _ _; try beta_reduce)
    | (intro _ _; try beta_reduce)
    | (extract_lets +onlyGivenNames x; refine Keeps.cut (a := a) (x := x) ?_ ?_; rotate_left; (intro hx; clear_value x); rotate_left; unfold x; clear x)
    | (extract_lets +onlyGivenNames x; clear_value x)
    | split

theorem keeps_setKeySlot (h : Keeps a s) : Keeps a (State.setKeySlot s d k v3) := by
  unfold State.setKeySlot
  repeat' first
    | with_reducible assumption
    | (with_reducible refine keeps_mk ?_ rfl rfl rfl rfl rfl rfl rfl; first | with_reducible assumption)
    | with_reducible apply Keeps.foldl
    | (intro _ _ _; try beta_reduce)
    | (intro _ _; try beta_reduce)
    | (extract_lets +onlyGivenNames x; refine Keeps.cut (a := a) (x := x) ?_ ?_; rotate_left; (intro hx; clear_value x); rotate_left; unfold x; clear x)
    | (extract_lets +onlyGivenNames x; clear_value x)
    | split

theorem keeps_setDieBasket (h : Keeps a s) : Keeps a (State.setDieBasket s d b v3) := by
  unfold State.setDieBasket
  repeat' first
    | with_reducible assumption
    | (with_reducible refine keeps_mk ?_ rfl rfl rfl rfl rfl rfl rfl; first | with_reducible assumption)
    | with_reducible apply Keeps.foldl
    | (intro _ _ _; try beta_reduce)
    | (intro _ _; try beta_reduce)
    | (extract_lets +onlyGivenNames x; refine Keeps.cut (a := a) (x := x) ?_ ?_; rotate_left; (intro hx; clear_value x); rotate_left; unfold x; clear x)
    | (extract_lets +onlyGivenNames x; clear_value x)
    | split

theorem keeps_setBasket (h : Keeps a s) : Keeps a (State.setBasket s b v2) := by
  unfold State.setBasket
  repeat' first
    | with_reducible assumption
    | (with_reducible refine keeps_mk ?_ rfl rfl rfl rfl rfl rfl rfl; first | with_reducible assumption)
    | with_reducible apply Keeps.foldl
    | (intro _ _ _; try beta_reduce)
    | (intro _ _; try beta_reduce)
    | (extract_lets +onlyGivenNames x; refine Keeps.cut (a := a) (x := x) ?_ ?_; rotate_left; (intro hx; clear_value x); rotate_left; unfold x; clear x)
    | (extract_lets +onlyGivenNames x; clear_value x)
    | split

theorem keeps_setLevel (h : Keeps a s) : Keeps a (State.setLevel s d k v3) := by
  unfold State.setLevel
  repeat' first
    | with_reducible assumption
    | (with_reducible refine keeps_mk ?_ rfl rfl rfl rfl rfl rfl rfl; first | with_reducible assumption)
    | with_reducible apply Keeps.foldl
    | (intro _ _ _; try beta_reduce)
    | (intro _ _; try beta_reduce)
    | (extract_lets +onlyGivenNames x; refine Keeps.cut (a := a) (x := x) ?_ ?_; rotate_left; (intro hx; clear_value x); rotate_left; unfold x; clear x)
    | (extract_lets +onlyGivenNames x; clear_value x)
    | split

theorem keeps_setPort (h : Keeps a s) : Keeps a (State.setPort s p v2) := by
  unfold State.setPort
  repeat' first
    | with_reducible assumption
    | (with_reducible refine keeps_mk ?_ rfl rfl rfl rfl rfl rfl rfl; first | with_reducible assumption)
    | with_reducible apply Keeps.foldl
    | (intro _ _ _; try beta_reduce)
    | (intro _ _; try beta_reduce)
    | (extract_lets +onlyGivenNames x; refine Keeps.cut (a := a) (x := x) ?_ ?_; rotate_left; (intro hx; clear_value x); rotate_left; unfold x; clear x)
    | (extract_lets +onlyGivenNames x; clear_value x)
    | split

theorem keeps_setFlow (h : Keeps a s) : Keeps a (State.setFlow s p f v3) := by
  unfold State.setFlow
  repeat' first
    | with_reducible assumption
    | (with_reducible refine keeps_mk ?_ rfl rfl rfl rfl rfl rfl rfl; first | with_reducible assumption)
    | with_reducible apply Keeps.foldl
    | (intro _ _ _; try beta_reduce)
    | (intro _ _; try beta_reduce)
    | (extract_lets +onlyGivenNames x; refine Keeps.cut (a := a) (x := x) ?_ ?_; rotate_left; (intro hx; clear_value x); rotate_left; unfold x; clear x)
    | (extract_lets +onlyGivenNames x; clear_value x)
    | split

theorem keeps_setBctx (h : Keeps a s) : Keeps a (State.setBctx s c v2) := by
  unfold State.setBctx
  repeat' first
    | with_reducible assumption
    | (with_reducible refine keeps_mk ?_ rfl rfl rfl rfl rfl rfl rfl; first | with_reducible assumption)
    | with_reducible apply Keeps.foldl
    | (intro _ _ _; try beta_reduce)
    | (intro _ _; try beta_reduce)
    | (extract_lets +onlyGivenNames x; refine Keeps.cut (a := a) (x := x) ?_ ?_; rotate_left; (intro hx; clear_value x); rotate_left; unfold x; clear x)
    | (extract_lets +onlyGivenNames x; clear_value x)
    | split

theorem keeps_setPbundle (h : Keeps a s) : Keeps a (State.setPbundle s n v2) := by
  unfold State.setPbundle
  repeat' first
    | with_reducible assumption
    | (with_reducible refine keeps_mk ?_ rfl rfl rfl rfl rfl rfl rfl; first | with_reducible assumption)
    | with_reducible apply Keeps.foldl
    | (intro _ _ _; try beta_reduce)
    | (intro _ _; try beta_reduce)
    | (extract_lets +onlyGivenNames x; refine Keeps.cut (a := a) (x := x) ?_ ?_; rotate_left; (intro hx; clear_value x); rotate_left; unfold x; clear x)
    | (extract_lets +onlyGivenNames x; clear_value x)
    | split

theorem keeps_setWale (h : Keeps a s) : Keeps a (State.setWale s w v2) := by
  unfold State.setWale
  repeat' first
    | with_reducible assumption
    | (with_reducible refine keeps_mk ?_ rfl rfl rfl rfl rfl rfl rfl; first | with_reducible assumption)
    | with_reducible apply Keeps.foldl
    | (intro _ _ _; try beta_reduce)
    | (intro _ _; try beta_reduce)
    | (extract_lets +onlyGivenNames x; refine Keeps.cut (a := a) (x := x) ?_ ?_; rotate_left; (intro hx; clear_value x); rotate_left; unfold x; clear x)
    | (extract_lets +onlyGivenNames x; clear_value x)
    | split

theorem keeps_setScrubber (h : Keeps a s) : Keeps a (State.setScrubber s d v2) := by
  unfold State.setScrubber
  repeat' first
    | with_reducible assumption
    | (with_reducible refine keeps_mk ?_ rfl rfl rfl rfl rfl rfl rfl; first | with_reducible assumption)
    | with_reducible apply Keeps.foldl
    | (intro _ _ _; try beta_reduce)
    | (intro _ _; try beta_reduce)
    | (extract_lets +onlyGivenNames x; refine Keeps.cut (a := a) (x := x) ?_ ?_; rotate_left; (intro hx; clear_value x); rotate_left; unfold x; clear x)
    | (extract_lets +onlyGivenNames x; clear_value x)
    | split

theorem keeps_emit (h : Keeps a s) : Keeps a (State.emit s m) := by
  unfold State.emit
  repeat' first
    | with_reducible assumption
    | (with_reducible refine keeps_mk ?_ rfl rfl rfl rfl rfl rfl rfl; first | with_reducible assumption)
    | with_reducible apply Keeps.foldl
    | (intro _ _ _; try beta_reduce)
    | (intro _ _; try beta_reduce)
    | (extract_lets +onlyGivenNames x; refine Keeps.cut (a := a) (x := x) ?_ ?_; rotate_left; (intro hx; clear_value x); rotate_left; unfold x; clear x)
    | (extract_lets +onlyGivenNames x; clear_value x)
    | split

theorem keeps_freeNext (h : Keeps a s) : Keeps a (State.freeNext s) := by
  unfold State.freeNext
  repeat' first
    | with_reducible assumption
    | (with_reducible refine keeps_mk ?_ rfl rfl rfl rfl rfl rfl rfl; first | with_reducible assumption)
    | with_reducible apply Keeps.foldl
    | (intro _ _ _; try beta_reduce)
    | (intro _ _; try beta_reduce)
    | (extract_lets +onlyGivenNames x; refine Keeps.cut (a := a) (x := x) ?_ ?_; rotate_left; (intro hx; clear_value x); rotate_left; unfold x; clear x)
    | (extract_lets +onlyGivenNames x; clear_value x)
    | split

theorem keeps_poke (h : Keeps a s) : Keeps a (State.poke s page off v) := by
  unfold State.poke
  repeat' first
    | with_reducible assumption
    | (with_reducible refine keeps_mk ?_ rfl rfl rfl rfl rfl rfl rfl; first | with_reducible assumption)
    | with_reducible apply Keeps.foldl
    | (intro _ _ _; try beta_reduce)
    | (intro _ _; try beta_reduce)
    | (extract_lets +onlyGivenNames x; refine Keeps.cut (a := a) (x := x) ?_ ?_; rotate_left; (intro hx; clear_value x); rotate_left; unfold x; clear x)
    | (extract_lets +onlyGivenNames x; clear_value x)
    | split

theorem keeps_pokeField (h : Keeps a s) : Keeps a (State.pokeField s page off hi lo v) := by
  unfold State.pokeField
  repeat' first
    | with_reducible assumption
    | with_reducible apply keeps_poke
    | (with_reducible refine keeps_mk ?_ rfl rfl rfl rfl rfl rfl rfl; first | with_reducible assumption | with_reducible apply keeps_poke)
    | with_reducible apply Keeps.foldl
    | (intro _ _ _; try beta_reduce)
    | (intro _ _; try beta_reduce)
    | (extract_lets +onlyGivenNames x; refine Keeps.cut (a := a) (x := x) ?_ ?_; rotate_left; (intro hx; clear_value x); rotate_left; unfold x; clear x)
    | (extract_lets +onlyGivenNames x; clear_value x)
    | split

theorem keeps_setBits (h : Keeps a s) : Keeps a (State.setBits s page off m) := by
  unfold State.setBits
  repeat' first
    | with_reducible assumption
    | with_reducible apply keeps_poke
    | (with_reducible refine keeps_mk ?_ rfl rfl rfl rfl rfl rfl rfl; first | with_reducible assumption | with_reducible apply keeps_poke)
    | with_reducible apply Keeps.foldl
    | (intro _ _ _; try beta_reduce)
    | (intro _ _; try beta_reduce)
    | (extract_lets +onlyGivenNames x; refine Keeps.cut (a := a) (x := x) ?_ ?_; rotate_left; (intro hx; clear_value x); rotate_left; unfold x; clear x)
    | (extract_lets +onlyGivenNames x; clear_value x)
    | split

theorem keeps_pokePair (h : Keeps a s) : Keeps a (State.pokePair s page off v) := by
  unfold State.pokePair
  repeat' first
    | with_reducible assumption
    | with_reducible apply keeps_poke
    | with_reducible apply Keeps.count
    | (with_reducible refine keeps_mk ?_ rfl rfl rfl rfl rfl rfl rfl; first | with_reducible assumption | with_reducible apply keeps_poke | with_reducible apply Keeps.count)
    | with_reducible apply Keeps.foldl
    | (intro _ _ _; try beta_reduce)
    | (intro _ _; try beta_reduce)
    | (extract_lets +onlyGivenNames x; refine Keeps.cut (a := a) (x := x) ?_ ?_; rotate_left; (intro hx; clear_value x); rotate_left; unfold x; clear x)
    | (extract_lets +onlyGivenNames x; clear_value x)
    | split

theorem keeps_incSat (h : Keeps a s) : Keeps a (State.incSat s page off n) := by
  unfold State.incSat
  repeat' first
    | with_reducible assumption
    | with_reducible apply keeps_poke
    | with_reducible apply keeps_peak
    | (with_reducible refine keeps_mk ?_ rfl rfl rfl rfl rfl rfl rfl; first | with_reducible assumption | with_reducible apply keeps_poke | with_reducible apply keeps_peak)
    | with_reducible apply Keeps.foldl
    | (intro _ _ _; try beta_reduce)
    | (intro _ _; try beta_reduce)
    | (extract_lets +onlyGivenNames x; refine Keeps.cut (a := a) (x := x) ?_ ?_; rotate_left; (intro hx; clear_value x); rotate_left; unfold x; clear x)
    | (extract_lets +onlyGivenNames x; clear_value x)
    | split

theorem keeps_peak (h : Keeps a s) : Keeps a (State.peak s page off v) := by
  unfold State.peak
  repeat' first
    | with_reducible assumption
    | with_reducible apply keeps_poke
    | (with_reducible refine keeps_mk ?_ rfl rfl rfl rfl rfl rfl rfl; first | with_reducible assumption | with_reducible apply keeps_poke)
    | with_reducible apply Keeps.foldl
    | (intro _ _ _; try beta_reduce)
    | (intro _ _; try beta_reduce)
    | (extract_lets +onlyGivenNames x; refine Keeps.cut (a := a) (x := x) ?_ ?_; rotate_left; (intro hx; clear_value x); rotate_left; unfold x; clear x)
    | (extract_lets +onlyGivenNames x; clear_value x)
    | split

theorem keeps_modStall (h : Keeps a s) : Keeps a (State.modStall s d l f) := by
  unfold State.modStall
  repeat' first
    | with_reducible assumption
    | with_reducible apply keeps_setSlot
    | (with_reducible refine keeps_mk ?_ rfl rfl rfl rfl rfl rfl rfl; first | with_reducible assumption | with_reducible apply keeps_setSlot)
    | with_reducible apply Keeps.foldl
    | (intro _ _ _; try beta_reduce)
    | (intro _ _; try beta_reduce)
    | (extract_lets +onlyGivenNames x; refine Keeps.cut (a := a) (x := x) ?_ ?_; rotate_left; (intro hx; clear_value x); rotate_left; unfold x; clear x)
    | (extract_lets +onlyGivenNames x; clear_value x)
    | split

theorem keeps_zeroDram (h : Keeps a s) : Keeps a (State.zeroDram s d) := by
  unfold State.zeroDram
  repeat' first
    | with_reducible assumption
    | with_reducible apply Keeps.zeroRange
    | (with_reducible refine keeps_mk ?_ rfl rfl rfl rfl rfl rfl rfl; first | with_reducible assumption | with_reducible apply Keeps.zeroRange)
    | with_reducible apply Keeps.foldl
    | (intro _ _ _; try beta_reduce)
    | (intro _ _; try beta_reduce)
    | (extract_lets +onlyGivenNames x; refine Keeps.cut (a := a) (x := x) ?_ ?_; rotate_left; (intro hx; clear_value x); rotate_left; unfold x; clear x)
    | (extract_lets +onlyGivenNames x; clear_value x)
    | split

theorem keeps_zeroQbuf (h : Keeps a s) : Keeps a (State.zeroQbuf s d q) := by
  unfold State.zeroQbuf
  repeat' first
    | with_reducible assumption
    | with_reducible apply Keeps.zeroRange
    | (with_reducible refine keeps_mk ?_ rfl rfl rfl rfl rfl rfl rfl; first | with_reducible assumption | with_reducible apply Keeps.zeroRange)
    | with_reducible apply Keeps.foldl
    | (intro _ _ _; try beta_reduce)
    | (intro _ _; try beta_reduce)
    | (extract_lets +onlyGivenNames x; refine Keeps.cut (a := a) (x := x) ?_ ?_; rotate_left; (intro hx; clear_value x); rotate_left; unfold x; clear x)
    | (extract_lets +onlyGivenNames x; clear_value x)
    | split

theorem keeps_zeroSlot (h : Keeps a s) : Keeps a (State.zeroSlot s d p) := by
  unfold State.zeroSlot
  repeat' first
    | with_reducible assumption
    | with_reducible apply Keeps.zeroRange
    | (with_reducible refine keeps_mk ?_ rfl rfl rfl rfl rfl rfl rfl; first | with_reducible assumption | with_reducible apply Keeps.zeroRange)
    | with_reducible apply Keeps.foldl
    | (intro _ _ _; try beta_reduce)
    | (intro _ _; try beta_reduce)
    | (extract_lets +onlyGivenNames x; refine Keeps.cut (a := a) (x := x) ?_ ?_; rotate_left; (intro hx; clear_value x); rotate_left; unfold x; clear x)
    | (extract_lets +onlyGivenNames x; clear_value x)
    | split

theorem keeps_zeroScratch (h : Keeps a s) : Keeps a (State.zeroScratch s d q) := by
  unfold State.zeroScratch
  repeat' first
    | with_reducible assumption
    | with_reducible apply Keeps.forEach
    | with_reducible apply keeps_zeroSlot
    | (with_reducible refine keeps_mk ?_ rfl rfl rfl rfl rfl rfl rfl; first | with_reducible assumption | with_reducible apply Keeps.forEach | with_reducible apply keeps_zeroSlot)
    | with_reducible apply Keeps.foldl
    | (intro _ _ _; try beta_reduce)
    | (intro _ _; try beta_reduce)
    | (extract_lets +onlyGivenNames x; refine Keeps.cut (a := a) (x := x) ?_ ?_; rotate_left; (intro hx; clear_value x); rotate_left; unfold x; clear x)
    | (extract_lets +onlyGivenNames x; clear_value x)
    | split

end Sys2Proof.Machine
end

