-- ==== Sys2Proof/Laws/KeepFlags.lean ====
section
/-! SUPPORT. What the operations of Machine/Flags.lean keep (Laws/Keeps.lean). -/

namespace Sys2Proof.Machine

variable {a s : State}

theorem keeps_raise (h : Keeps a s) : Keeps a (State.raise s page code) := by
  unfold State.raise
  repeat' first
    | with_reducible assumption
    | with_reducible apply keeps_poke
    | with_reducible apply Keeps.count
    | with_reducible apply keeps_setPbundle
    | (with_reducible refine keeps_mk ?_ rfl rfl rfl rfl rfl rfl rfl; first | with_reducible assumption | with_reducible apply keeps_poke | with_reducible apply Keeps.count | with_reducible apply keeps_setPbundle)
    | with_reducible apply Keeps.foldl
    | (intro _ _ _; try beta_reduce)
    | (intro _ _; try beta_reduce)
    | (extract_lets +onlyGivenNames x; refine Keeps.cut (a := a) (x := x) ?_ ?_; rotate_left; (intro hx; clear_value x); rotate_left; unfold x; clear x)
    | (extract_lets +onlyGivenNames x; clear_value x)
    | split

theorem keeps_noteErr (h : Keeps a s) : Keeps a (State.noteErr s page src cls w) := by
  unfold State.noteErr
  repeat' first
    | with_reducible assumption
    | with_reducible apply keeps_poke
    | (with_reducible refine keeps_mk ?_ rfl rfl rfl rfl rfl rfl rfl; first | with_reducible assumption | with_reducible apply keeps_poke)
    | with_reducible apply Keeps.foldl
    | (intro _ _ _; try beta_reduce)
    | (intro _ _; try beta_reduce)
    | (extract_lets +onlyGivenNames x; refine Keeps.cut (a := a) (x := x) ?_ ?_; rotate_left; (intro hx; clear_value x); rotate_left; unfold x; clear x)
    | (extract_lets +onlyGivenNames x; clear_value x)
    | split

theorem keeps_setCeWin (h : Keeps a s) : Keeps a (State.setCeWin s page c) := by
  unfold State.setCeWin
  repeat' first
    | with_reducible assumption
    | (with_reducible refine keeps_mk ?_ rfl rfl rfl rfl rfl rfl rfl; first | with_reducible assumption)
    | with_reducible apply Keeps.foldl
    | (intro _ _ _; try beta_reduce)
    | (intro _ _; try beta_reduce)
    | (extract_lets +onlyGivenNames x; refine Keeps.cut (a := a) (x := x) ?_ ?_; rotate_left; (intro hx; clear_value x); rotate_left; unfold x; clear x)
    | (extract_lets +onlyGivenNames x; clear_value x)
    | split

theorem keeps_noteCe (h : Keeps a s) : Keeps a (State.noteCe s page) := by
  unfold State.noteCe
  repeat' first
    | with_reducible assumption
    | with_reducible apply keeps_setCeWin
    | with_reducible apply keeps_raise
    | with_reducible apply Keeps.count
    | (with_reducible refine keeps_mk ?_ rfl rfl rfl rfl rfl rfl rfl; first | with_reducible assumption | with_reducible apply keeps_setCeWin | with_reducible apply keeps_raise | with_reducible apply Keeps.count)
    | with_reducible apply Keeps.foldl
    | (intro _ _ _; try beta_reduce)
    | (intro _ _; try beta_reduce)
    | (extract_lets +onlyGivenNames x; refine Keeps.cut (a := a) (x := x) ?_ ?_; rotate_left; (intro hx; clear_value x); rotate_left; unfold x; clear x)
    | (extract_lets +onlyGivenNames x; clear_value x)
    | split

theorem keeps_queueRewrite (h : Keeps a s) : Keeps a (State.queueRewrite s d w) := by
  unfold State.queueRewrite
  repeat' first
    | with_reducible assumption
    | with_reducible apply keeps_setScrubber
    | with_reducible apply keeps_incSat
    | with_reducible apply Keeps.count
    | (with_reducible refine keeps_mk ?_ rfl rfl rfl rfl rfl rfl rfl; first | with_reducible assumption | with_reducible apply keeps_setScrubber | with_reducible apply keeps_incSat | with_reducible apply Keeps.count)
    | with_reducible apply Keeps.foldl
    | (intro _ _ _; try beta_reduce)
    | (intro _ _; try beta_reduce)
    | (extract_lets +onlyGivenNames x; refine Keeps.cut (a := a) (x := x) ?_ ?_; rotate_left; (intro hx; clear_value x); rotate_left; unfold x; clear x)
    | (extract_lets +onlyGivenNames x; clear_value x)
    | split

theorem keeps_noteCorrected (h : Keeps a s) : Keeps a (State.noteCorrected s k) := by
  unfold State.noteCorrected
  repeat' first
    | with_reducible assumption
    | with_reducible apply Keeps.count
    | (with_reducible refine keeps_mk ?_ rfl rfl rfl rfl rfl rfl rfl; first | with_reducible assumption | with_reducible apply Keeps.count)
    | with_reducible apply Keeps.foldl
    | (intro _ _ _; try beta_reduce)
    | (intro _ _; try beta_reduce)
    | (extract_lets +onlyGivenNames x; refine Keeps.cut (a := a) (x := x) ?_ ?_; rotate_left; (intro hx; clear_value x); rotate_left; unfold x; clear x)
    | (extract_lets +onlyGivenNames x; clear_value x)
    | split

theorem keeps_noteRead (h : Keeps a s) : Keeps a (State.noteRead s src w) := by
  unfold State.noteRead
  repeat' first
    | with_reducible assumption
    | with_reducible apply keeps_incSat
    | with_reducible apply keeps_noteCe
    | with_reducible apply keeps_noteErr
    | with_reducible apply keeps_noteCorrected
    | with_reducible apply keeps_queueRewrite
    | with_reducible apply Keeps.putWord
    | with_reducible apply keeps_raise
    | (with_reducible refine keeps_mk ?_ rfl rfl rfl rfl rfl rfl rfl; first | with_reducible assumption | with_reducible apply keeps_incSat | with_reducible apply keeps_noteCe | with_reducible apply keeps_noteErr | with_reducible apply keeps_noteCorrected | with_reducible apply keeps_queueRewrite | with_reducible apply Keeps.putWord | with_reducible apply keeps_raise)
    | with_reducible apply Keeps.foldl
    | (intro _ _ _; try beta_reduce)
    | (intro _ _; try beta_reduce)
    | (extract_lets +onlyGivenNames x; refine Keeps.cut (a := a) (x := x) ?_ ?_; rotate_left; (intro hx; clear_value x); rotate_left; unfold x; clear x)
    | (extract_lets +onlyGivenNames x; clear_value x)
    | split

theorem keeps_noteBytes (h : Keeps a s) : Keeps a (State.noteBytes s k rd n) := by
  unfold State.noteBytes
  repeat' first
    | with_reducible assumption
    | with_reducible apply Keeps.count
    | (with_reducible refine keeps_mk ?_ rfl rfl rfl rfl rfl rfl rfl; first | with_reducible assumption | with_reducible apply Keeps.count)
    | with_reducible apply Keeps.foldl
    | (intro _ _ _; try beta_reduce)
    | (intro _ _; try beta_reduce)
    | (extract_lets +onlyGivenNames x; refine Keeps.cut (a := a) (x := x) ?_ ?_; rotate_left; (intro hx; clear_value x); rotate_left; unfold x; clear x)
    | (extract_lets +onlyGivenNames x; clear_value x)
    | split

theorem keeps_noteReads (h : Keeps a s) : Keeps a (State.noteReads s src k n) := by
  unfold State.noteReads
  repeat' first
    | with_reducible assumption
    | with_reducible apply keeps_noteBytes
    | with_reducible apply keeps_noteRead
    | (with_reducible refine keeps_mk ?_ rfl rfl rfl rfl rfl rfl rfl; first | with_reducible assumption | with_reducible apply keeps_noteBytes | with_reducible apply keeps_noteRead)
    | with_reducible apply Keeps.foldl
    | (intro _ _ _; try beta_reduce)
    | (intro _ _; try beta_reduce)
    | (extract_lets +onlyGivenNames x; refine Keeps.cut (a := a) (x := x) ?_ ?_; rotate_left; (intro hx; clear_value x); rotate_left; unfold x; clear x)
    | (extract_lets +onlyGivenNames x; clear_value x)
    | split

theorem keeps_writeWords (h : Keeps a s) : Keeps a (State.writeWords s k l) := by
  unfold State.writeWords
  repeat' first
    | with_reducible assumption
    | with_reducible apply keeps_noteBytes
    | with_reducible apply Keeps.putWord
    | (with_reducible refine keeps_mk ?_ rfl rfl rfl rfl rfl rfl rfl; first | with_reducible assumption | with_reducible apply keeps_noteBytes | with_reducible apply Keeps.putWord)
    | with_reducible apply Keeps.foldl
    | (intro _ _ _; try beta_reduce)
    | (intro _ _; try beta_reduce)
    | (extract_lets +onlyGivenNames x; refine Keeps.cut (a := a) (x := x) ?_ ?_; rotate_left; (intro hx; clear_value x); rotate_left; unfold x; clear x)
    | (extract_lets +onlyGivenNames x; clear_value x)
    | split

theorem keeps_writePart (h : Keeps a s) : Keeps a (State.writePart s src w l) := by
  unfold State.writePart
  repeat' first
    | with_reducible assumption
    | with_reducible apply keeps_incSat
    | with_reducible apply keeps_noteRead
    | with_reducible apply Keeps.putWord
    | (with_reducible refine keeps_mk ?_ rfl rfl rfl rfl rfl rfl rfl; first | with_reducible assumption | with_reducible apply keeps_incSat | with_reducible apply keeps_noteRead | with_reducible apply Keeps.putWord)
    | with_reducible apply Keeps.foldl
    | (intro _ _ _; try beta_reduce)
    | (intro _ _; try beta_reduce)
    | (extract_lets +onlyGivenNames x; refine Keeps.cut (a := a) (x := x) ?_ ?_; rotate_left; (intro hx; clear_value x); rotate_left; unfold x; clear x)
    | (extract_lets +onlyGivenNames x; clear_value x)
    | split

theorem keeps_writeBytes (h : Keeps a s) : Keeps a (State.writeBytes s src k l) := by
  unfold State.writeBytes
  repeat' first
    | with_reducible assumption
    | with_reducible apply keeps_noteBytes
    | with_reducible apply Keeps.putWord
    | with_reducible apply keeps_writePart
    | (with_reducible refine keeps_mk ?_ rfl rfl rfl rfl rfl rfl rfl; first | with_reducible assumption | with_reducible apply keeps_noteBytes | with_reducible apply Keeps.putWord | with_reducible apply keeps_writePart)
    | with_reducible apply Keeps.foldl
    | (intro _ _ _; try beta_reduce)
    | (intro _ _; try beta_reduce)
    | (extract_lets +onlyGivenNames x; refine Keeps.cut (a := a) (x := x) ?_ ?_; rotate_left; (intro hx; clear_value x); rotate_left; unfold x; clear x)
    | (extract_lets +onlyGivenNames x; clear_value x)
    | split

end Sys2Proof.Machine
end

