-- ==== Sys2Proof/Laws/KeepStreams.lean ====
section
/-! SUPPORT. What the operations of Machine/Streams.lean keep (Laws/Keeps.lean). -/

namespace Sys2Proof.Machine

variable {a s : State}

theorem keeps_breach (h : Keeps a s) : Keeps a (State.breach s code d stall agent index) := by
  unfold State.breach
  repeat' first
    | with_reducible assumption
    | with_reducible apply Keeps.count
    | (with_reducible refine keeps_mk ?_ rfl rfl rfl rfl rfl rfl rfl; first | with_reducible assumption | with_reducible apply Keeps.count)
    | with_reducible apply Keeps.foldl
    | (intro _ _ _; try beta_reduce)
    | (intro _ _; try beta_reduce)
    | (extract_lets +onlyGivenNames x; refine Keeps.cut (a := a) (x := x) ?_ ?_; rotate_left; (intro hx; clear_value x); rotate_left; unfold x; clear x)
    | (extract_lets +onlyGivenNames x; clear_value x)
    | split

theorem keeps_setPool (h : Keeps a s) : Keeps a (State.setPool s d q i p) := by
  unfold State.setPool
  repeat' first
    | with_reducible assumption
    | with_reducible apply Keeps.ledIssue
    | with_reducible apply Keeps.ledReturn
    | with_reducible apply keeps_peak
    | (with_reducible refine keeps_mk ?_ rfl rfl rfl rfl rfl rfl rfl; first | with_reducible assumption | with_reducible apply Keeps.ledIssue | with_reducible apply Keeps.ledReturn | with_reducible apply keeps_peak)
    | with_reducible apply Keeps.foldl
    | (intro _ _ _; try beta_reduce)
    | (intro _ _; try beta_reduce)
    | (extract_lets +onlyGivenNames x; refine Keeps.cut (a := a) (x := x) ?_ ?_; rotate_left; (intro hx; clear_value x); rotate_left; unfold x; clear x)
    | (extract_lets +onlyGivenNames x; clear_value x)
    | split

theorem keeps_hold (h : Keeps a s) : Keeps a (State.hold s k len) := by
  unfold State.hold
  repeat' first
    | with_reducible assumption
    | with_reducible apply keeps_setPool
    | (with_reducible refine keeps_mk ?_ rfl rfl rfl rfl rfl rfl rfl; first | with_reducible assumption | with_reducible apply keeps_setPool)
    | with_reducible apply Keeps.foldl
    | (intro _ _ _; try beta_reduce)
    | (intro _ _; try beta_reduce)
    | (extract_lets +onlyGivenNames x; refine Keeps.cut (a := a) (x := x) ?_ ?_; rotate_left; (intro hx; clear_value x); rotate_left; unfold x; clear x)
    | (extract_lets +onlyGivenNames x; clear_value x)
    | split

theorem keeps_unhold (h : Keeps a s) : Keeps a (State.unhold s k len) := by
  unfold State.unhold
  repeat' first
    | with_reducible assumption
    | with_reducible apply keeps_setPool
    | (with_reducible refine keeps_mk ?_ rfl rfl rfl rfl rfl rfl rfl; first | with_reducible assumption | with_reducible apply keeps_setPool)
    | with_reducible apply Keeps.foldl
    | (intro _ _ _; try beta_reduce)
    | (intro _ _; try beta_reduce)
    | (extract_lets +onlyGivenNames x; refine Keeps.cut (a := a) (x := x) ?_ ?_; rotate_left; (intro hx; clear_value x); rotate_left; unfold x; clear x)
    | (extract_lets +onlyGivenNames x; clear_value x)
    | split

theorem keeps_setMark (h : Keeps a s) : Keeps a (State.setMark s d m n) := by
  unfold State.setMark
  repeat' first
    | with_reducible assumption
    | (with_reducible refine keeps_mk ?_ rfl rfl rfl rfl rfl rfl rfl; first | with_reducible assumption)
    | with_reducible apply Keeps.foldl
    | (intro _ _ _; try beta_reduce)
    | (intro _ _; try beta_reduce)
    | (extract_lets +onlyGivenNames x; refine Keeps.cut (a := a) (x := x) ?_ ?_; rotate_left; (intro hx; clear_value x); rotate_left; unfold x; clear x)
    | (extract_lets +onlyGivenNames x; clear_value x)
    | split

theorem keeps_setReqs (h : Keeps a s) : Keeps a (State.setReqs s d m l) := by
  unfold State.setReqs
  repeat' first
    | with_reducible assumption
    | (with_reducible refine keeps_mk ?_ rfl rfl rfl rfl rfl rfl rfl; first | with_reducible assumption)
    | with_reducible apply Keeps.foldl
    | (intro _ _ _; try beta_reduce)
    | (intro _ _; try beta_reduce)
    | (extract_lets +onlyGivenNames x; refine Keeps.cut (a := a) (x := x) ?_ ?_; rotate_left; (intro hx; clear_value x); rotate_left; unfold x; clear x)
    | (extract_lets +onlyGivenNames x; clear_value x)
    | split

theorem keeps_grant (h : Keeps a s) : Keeps a (State.grant s d k) := by
  unfold State.grant
  repeat' first
    | with_reducible assumption
    | with_reducible apply keeps_modStall
    | with_reducible apply keeps_setStream
    | with_reducible apply keeps_setRoundCtx
    | (with_reducible refine keeps_mk ?_ rfl rfl rfl rfl rfl rfl rfl; first | with_reducible assumption | with_reducible apply keeps_modStall | with_reducible apply keeps_setStream | with_reducible apply keeps_setRoundCtx)
    | with_reducible apply Keeps.foldl
    | (intro _ _ _; try beta_reduce)
    | (intro _ _; try beta_reduce)
    | (extract_lets +onlyGivenNames x; refine Keeps.cut (a := a) (x := x) ?_ ?_; rotate_left; (intro hx; clear_value x); rotate_left; unfold x; clear x)
    | (extract_lets +onlyGivenNames x; clear_value x)
    | split

theorem keeps_serveReqs (h : Keeps a s) : Keeps a (serveReqs s d m l) := by
  induction l generalizing s with
  | nil => exact keeps_setReqs h
  | cons e r ih =>
    obtain ⟨k, n⟩ := e
    simp only [serveReqs]
    split
    · exact ih (keeps_grant (keeps_setMark h))
    · exact keeps_setReqs h

theorem keeps_askMark (h : Keeps a s) : Keeps a (State.askMark s d m n k) := by
  unfold State.askMark
  repeat' first
    | with_reducible assumption
    | with_reducible apply keeps_serveReqs
    | (with_reducible refine keeps_mk ?_ rfl rfl rfl rfl rfl rfl rfl; first | with_reducible assumption | with_reducible apply keeps_serveReqs)
    | with_reducible apply Keeps.foldl
    | (intro _ _ _; try beta_reduce)
    | (intro _ _; try beta_reduce)
    | (extract_lets +onlyGivenNames x; refine Keeps.cut (a := a) (x := x) ?_ ?_; rotate_left; (intro hx; clear_value x); rotate_left; unfold x; clear x)
    | (extract_lets +onlyGivenNames x; clear_value x)
    | split

theorem keeps_postMark (h : Keeps a s) : Keeps a (State.postMark s d m n v4) := by
  unfold State.postMark
  repeat' first
    | with_reducible assumption
    | with_reducible apply keeps_breach
    | with_reducible apply keeps_setMark
    | with_reducible apply keeps_serveReqs
    | (with_reducible refine keeps_mk ?_ rfl rfl rfl rfl rfl rfl rfl; first | with_reducible assumption | with_reducible apply keeps_breach | with_reducible apply keeps_setMark | with_reducible apply keeps_serveReqs)
    | with_reducible apply Keeps.foldl
    | (intro _ _ _; try beta_reduce)
    | (intro _ _; try beta_reduce)
    | (extract_lets +onlyGivenNames x; refine Keeps.cut (a := a) (x := x) ?_ ?_; rotate_left; (intro hx; clear_value x); rotate_left; unfold x; clear x)
    | (extract_lets +onlyGivenNames x; clear_value x)
    | split

theorem keeps_takeGate (h : Keeps a s) : Keeps a (State.takeGate s d u st) := by
  unfold State.takeGate
  repeat' first
    | with_reducible assumption
    | with_reducible apply keeps_askMark
    | with_reducible apply keeps_setStream
    | (with_reducible refine keeps_mk ?_ rfl rfl rfl rfl rfl rfl rfl; first | with_reducible assumption | with_reducible apply keeps_askMark | with_reducible apply keeps_setStream)
    | with_reducible apply Keeps.foldl
    | (intro _ _ _; try beta_reduce)
    | (intro _ _; try beta_reduce)
    | (extract_lets +onlyGivenNames x; refine Keeps.cut (a := a) (x := x) ?_ ?_; rotate_left; (intro hx; clear_value x); rotate_left; unfold x; clear x)
    | (extract_lets +onlyGivenNames x; clear_value x)
    | split

theorem keeps_issueXfer (h : Keeps a s) : Keeps a (State.issueXfer s d u st ws) := by
  unfold State.issueXfer
  repeat' first
    | with_reducible assumption
    | with_reducible apply keeps_setStream
    | with_reducible apply Keeps.ledIssue
    | with_reducible apply keeps_poke
    | (with_reducible refine keeps_mk ?_ rfl rfl rfl rfl rfl rfl rfl; first | with_reducible assumption | with_reducible apply keeps_setStream | with_reducible apply Keeps.ledIssue | with_reducible apply keeps_poke)
    | with_reducible apply Keeps.foldl
    | (intro _ _ _; try beta_reduce)
    | (intro _ _; try beta_reduce)
    | (extract_lets +onlyGivenNames x; refine Keeps.cut (a := a) (x := x) ?_ ?_; rotate_left; (intro hx; clear_value x); rotate_left; unfold x; clear x)
    | (extract_lets +onlyGivenNames x; clear_value x)
    | split

theorem keeps_walkEnd (h : Keeps a s) : Keeps a (State.walkEnd s d u st) := by
  unfold State.walkEnd
  repeat' first
    | with_reducible assumption
    | with_reducible apply keeps_setStream
    | with_reducible apply Keeps.forEach
    | with_reducible apply keeps_postMark
    | (with_reducible refine keeps_mk ?_ rfl rfl rfl rfl rfl rfl rfl; first | with_reducible assumption | with_reducible apply keeps_setStream | with_reducible apply Keeps.forEach | with_reducible apply keeps_postMark)
    | with_reducible apply Keeps.foldl
    | (intro _ _ _; try beta_reduce)
    | (intro _ _; try beta_reduce)
    | (extract_lets +onlyGivenNames x; refine Keeps.cut (a := a) (x := x) ?_ ?_; rotate_left; (intro hx; clear_value x); rotate_left; unfold x; clear x)
    | (extract_lets +onlyGivenNames x; clear_value x)
    | split

theorem keeps_unlimit (h : Keeps a s) : Keeps a (State.unlimit s d u) := by
  unfold State.unlimit
  repeat' first
    | with_reducible assumption
    | (with_reducible refine keeps_mk ?_ rfl rfl rfl rfl rfl rfl rfl; first | with_reducible assumption)
    | with_reducible apply Keeps.foldl
    | (intro _ _ _; try beta_reduce)
    | (intro _ _; try beta_reduce)
    | (extract_lets +onlyGivenNames x; refine Keeps.cut (a := a) (x := x) ?_ ?_; rotate_left; (intro hx; clear_value x); rotate_left; unfold x; clear x)
    | (extract_lets +onlyGivenNames x; clear_value x)
    | split

theorem keeps_completeXfer (h : Keeps a s) : Keeps a (State.completeXfer s d u st t gone) := by
  unfold State.completeXfer
  repeat' first
    | with_reducible assumption
    | with_reducible apply keeps_setStream
    | with_reducible apply Keeps.ledWoff
    | with_reducible apply Keeps.ledReturn
    | with_reducible apply Keeps.count
    | with_reducible apply keeps_walkEnd
    | with_reducible apply keeps_unlimit
    | (with_reducible refine keeps_mk ?_ rfl rfl rfl rfl rfl rfl rfl; first | with_reducible assumption | with_reducible apply keeps_setStream | with_reducible apply Keeps.ledWoff | with_reducible apply Keeps.ledReturn | with_reducible apply Keeps.count | with_reducible apply keeps_walkEnd | with_reducible apply keeps_unlimit)
    | with_reducible apply Keeps.foldl
    | (intro _ _ _; try beta_reduce)
    | (intro _ _; try beta_reduce)
    | (extract_lets +onlyGivenNames x; refine Keeps.cut (a := a) (x := x) ?_ ?_; rotate_left; (intro hx; clear_value x); rotate_left; unfold x; clear x)
    | (extract_lets +onlyGivenNames x; clear_value x)
    | split

theorem keeps_storeWords (h : Keeps a s) : Keeps a (State.storeWords s k l) := by
  unfold State.storeWords
  repeat' first
    | with_reducible assumption
    | with_reducible apply keeps_writeWords
    | (with_reducible refine keeps_mk ?_ rfl rfl rfl rfl rfl rfl rfl; first | with_reducible assumption | with_reducible apply keeps_writeWords)
    | with_reducible apply Keeps.foldl
    | (intro _ _ _; try beta_reduce)
    | (intro _ _; try beta_reduce)
    | (extract_lets +onlyGivenNames x; refine Keeps.cut (a := a) (x := x) ?_ ?_; rotate_left; (intro hx; clear_value x); rotate_left; unfold x; clear x)
    | (extract_lets +onlyGivenNames x; clear_value x)
    | split

theorem keeps_storeBytes (h : Keeps a s) : Keeps a (State.storeBytes s src k l) := by
  unfold State.storeBytes
  repeat' first
    | with_reducible assumption
    | with_reducible apply keeps_writeBytes
    | (with_reducible refine keeps_mk ?_ rfl rfl rfl rfl rfl rfl rfl; first | with_reducible assumption | with_reducible apply keeps_writeBytes)
    | with_reducible apply Keeps.foldl
    | (intro _ _ _; try beta_reduce)
    | (intro _ _; try beta_reduce)
    | (extract_lets +onlyGivenNames x; refine Keeps.cut (a := a) (x := x) ?_ ?_; rotate_left; (intro hx; clear_value x); rotate_left; unfold x; clear x)
    | (extract_lets +onlyGivenNames x; clear_value x)
    | split

end Sys2Proof.Machine
end

