-- ==== Sys2Proof/Laws/KeepStatus.lean ====
section
/-! SUPPORT. What the operations of Machine/Status.lean keep (Laws/Keeps.lean). -/

namespace Sys2Proof.Machine

variable {a s : State}

theorem keeps_finish (h : Keeps a t) : Keeps a (State.finish s t) := h.update rfl rfl rfl rfl rfl rfl rfl

end Sys2Proof.Machine
end

