-- ==== Sys2Proof/Laws/KeepStallOps.lean ====
section
/-! SUPPORT. What the operations of Machine/StallOps.lean keep (Laws/Keeps.lean). -/

namespace Sys2Proof.Machine

variable {a s : State}

theorem keeps_flagIf (h : Keeps a s) : Keeps a (State.flagIf s d p f c) := by
  unfold State.flagIf
  repeat' first
    | with_reducible assumption
    | with_reducible apply keeps_setBits
    | (with_reducible refine keeps_mk ?_ rfl rfl rfl rfl rfl rfl rfl; first | with_reducible assumption | with_reducible apply keeps_setBits)
    | with_reducible apply Keeps.foldl
    | (intro _ _ _; try beta_reduce)
    | (intro _ _; try beta_reduce)
    | (extract_lets +onlyGivenNames x; refine Keeps.cut (a := a) (x := x) ?_ ?_; rotate_left; (intro hx; clear_value x); rotate_left; unfold x; clear x)
    | (extract_lets +onlyGivenNames x; clear_value x)
    | split

theorem keeps_countWork (h : Keeps a s) : Keeps a (State.countWork s d p n) := by
  unfold State.countWork
  repeat' first
    | with_reducible assumption
    | with_reducible apply Keeps.count
    | (with_reducible refine keeps_mk ?_ rfl rfl rfl rfl rfl rfl rfl; first | with_reducible assumption | with_reducible apply Keeps.count)
    | with_reducible apply Keeps.foldl
    | (intro _ _ _; try beta_reduce)
    | (intro _ _; try beta_reduce)
    | (extract_lets +onlyGivenNames x; refine Keeps.cut (a := a) (x := x) ?_ ?_; rotate_left; (intro hx; clear_value x); rotate_left; unfold x; clear x)
    | (extract_lets +onlyGivenNames x; clear_value x)
    | split

theorem keeps_countBallast (h : Keeps a s) : Keeps a (State.countBallast s d p cycles) := by
  unfold State.countBallast
  repeat' first
    | with_reducible assumption
    | with_reducible apply keeps_setSlot
    | with_reducible apply Keeps.count
    | (with_reducible refine keeps_mk ?_ rfl rfl rfl rfl rfl rfl rfl; first | with_reducible assumption | with_reducible apply keeps_setSlot | with_reducible apply Keeps.count)
    | with_reducible apply Keeps.foldl
    | (intro _ _ _; try beta_reduce)
    | (intro _ _; try beta_reduce)
    | (extract_lets +onlyGivenNames x; refine Keeps.cut (a := a) (x := x) ?_ ?_; rotate_left; (intro hx; clear_value x); rotate_left; unfold x; clear x)
    | (extract_lets +onlyGivenNames x; clear_value x)
    | split

theorem keeps_gapBallast (h : Keeps a s) : Keeps a (State.gapBallast s d p) := by
  unfold State.gapBallast
  repeat' first
    | with_reducible assumption
    | with_reducible apply keeps_freeNext
    | with_reducible apply keeps_countBallast
    | (with_reducible refine keeps_mk ?_ rfl rfl rfl rfl rfl rfl rfl; first | with_reducible assumption | with_reducible apply keeps_freeNext | with_reducible apply keeps_countBallast)
    | with_reducible apply Keeps.foldl
    | (intro _ _ _; try beta_reduce)
    | (intro _ _; try beta_reduce)
    | (extract_lets +onlyGivenNames x; refine Keeps.cut (a := a) (x := x) ?_ ?_; rotate_left; (intro hx; clear_value x); rotate_left; unfold x; clear x)
    | (extract_lets +onlyGivenNames x; clear_value x)
    | split

theorem keeps_stallWait (h : Keeps a s) : Keeps a (State.stallWait s d p k st counted) := by
  unfold State.stallWait
  repeat' first
    | with_reducible assumption
    | with_reducible apply keeps_setSlot
    | with_reducible apply keeps_pokePair
    | with_reducible apply keeps_countBallast
    | (with_reducible refine keeps_mk ?_ rfl rfl rfl rfl rfl rfl rfl; first | with_reducible assumption | with_reducible apply keeps_setSlot | with_reducible apply keeps_pokePair | with_reducible apply keeps_countBallast)
    | with_reducible apply Keeps.foldl
    | (intro _ _ _; try beta_reduce)
    | (intro _ _; try beta_reduce)
    | (extract_lets +onlyGivenNames x; refine Keeps.cut (a := a) (x := x) ?_ ?_; rotate_left; (intro hx; clear_value x); rotate_left; unfold x; clear x)
    | (extract_lets +onlyGivenNames x; clear_value x)
    | split

theorem keeps_eachMember (h : Keeps a s) : Keeps a (State.eachMember s d q v3 f) := by
  unfold State.eachMember
  repeat' first
    | with_reducible assumption
    | with_reducible apply Keeps.forEach
    | with_reducible apply keeps_setSlot
    | (with_reducible refine keeps_mk ?_ rfl rfl rfl rfl rfl rfl rfl; first | with_reducible assumption | with_reducible apply Keeps.forEach | with_reducible apply keeps_setSlot)
    | with_reducible apply Keeps.foldl
    | (intro _ _ _; try beta_reduce)
    | (intro _ _; try beta_reduce)
    | (extract_lets +onlyGivenNames x; refine Keeps.cut (a := a) (x := x) ?_ ?_; rotate_left; (intro hx; clear_value x); rotate_left; unfold x; clear x)
    | (extract_lets +onlyGivenNames x; clear_value x)
    | split

theorem keeps_takeSeed (h : Keeps a s) : Keeps a (State.takeSeed s d p) := by
  unfold State.takeSeed
  repeat' first
    | with_reducible assumption
    | with_reducible apply keeps_setSlot
    | (with_reducible refine keeps_mk ?_ rfl rfl rfl rfl rfl rfl rfl; first | with_reducible assumption | with_reducible apply keeps_setSlot)
    | with_reducible apply Keeps.foldl
    | (intro _ _ _; try beta_reduce)
    | (intro _ _; try beta_reduce)
    | (extract_lets +onlyGivenNames x; refine Keeps.cut (a := a) (x := x) ?_ ?_; rotate_left; (intro hx; clear_value x); rotate_left; unfold x; clear x)
    | (extract_lets +onlyGivenNames x; clear_value x)
    | split

theorem keeps_beginPass (h : Keeps a s) : Keeps a (State.beginPass s d p n) := by
  unfold State.beginPass
  repeat' first
    | with_reducible assumption
    | with_reducible apply keeps_takeSeed
    | with_reducible apply keeps_gapBallast
    | with_reducible apply keeps_setSlot
    | (with_reducible refine keeps_mk ?_ rfl rfl rfl rfl rfl rfl rfl; first | with_reducible assumption | with_reducible apply keeps_takeSeed | with_reducible apply keeps_gapBallast | with_reducible apply keeps_setSlot)
    | with_reducible apply Keeps.foldl
    | (intro _ _ _; try beta_reduce)
    | (intro _ _; try beta_reduce)
    | (extract_lets +onlyGivenNames x; refine Keeps.cut (a := a) (x := x) ?_ ?_; rotate_left; (intro hx; clear_value x); rotate_left; unfold x; clear x)
    | (extract_lets +onlyGivenNames x; clear_value x)
    | split

theorem keeps_runSteps (h : Keeps a s) : Keeps a (State.runSteps s d p b) := by
  unfold State.runSteps
  repeat' first
    | with_reducible assumption
    | with_reducible apply keeps_noteReads
    | with_reducible apply keeps_setSlot
    | with_reducible apply keeps_countWork
    | with_reducible apply keeps_flagIf
    | (with_reducible refine keeps_mk ?_ rfl rfl rfl rfl rfl rfl rfl; first | with_reducible assumption | with_reducible apply keeps_noteReads | with_reducible apply keeps_setSlot | with_reducible apply keeps_countWork | with_reducible apply keeps_flagIf)
    | with_reducible apply Keeps.foldl
    | (intro _ _ _; try beta_reduce)
    | (intro _ _; try beta_reduce)
    | (extract_lets +onlyGivenNames x; refine Keeps.cut (a := a) (x := x) ?_ ?_; rotate_left; (intro hx; clear_value x); rotate_left; unfold x; clear x)
    | (extract_lets +onlyGivenNames x; clear_value x)
    | split

theorem keeps_beginReplay (h : Keeps a s) : Keeps a (State.beginReplay s d l p t) := by
  unfold State.beginReplay
  repeat' first
    | with_reducible assumption
    | with_reducible apply keeps_setArc
    | with_reducible apply keeps_setSlot
    | with_reducible apply Keeps.count
    | (with_reducible refine keeps_mk ?_ rfl rfl rfl rfl rfl rfl rfl; first | with_reducible assumption | with_reducible apply keeps_setArc | with_reducible apply keeps_setSlot | with_reducible apply Keeps.count)
    | with_reducible apply Keeps.foldl
    | (intro _ _ _; try beta_reduce)
    | (intro _ _; try beta_reduce)
    | (extract_lets +onlyGivenNames x; refine Keeps.cut (a := a) (x := x) ?_ ?_; rotate_left; (intro hx; clear_value x); rotate_left; unfold x; clear x)
    | (extract_lets +onlyGivenNames x; clear_value x)
    | split

theorem keeps_abandonDie (h : Keeps a s) : Keeps a (State.abandonDie s d) := by
  unfold State.abandonDie
  repeat' first
    | with_reducible assumption
    | with_reducible apply Keeps.forEach
    | with_reducible apply keeps_setArc
    | (with_reducible refine keeps_mk ?_ rfl rfl rfl rfl rfl rfl rfl; first | with_reducible assumption | with_reducible apply Keeps.forEach | with_reducible apply keeps_setArc)
    | with_reducible apply Keeps.foldl
    | (intro _ _ _; try beta_reduce)
    | (intro _ _; try beta_reduce)
    | (extract_lets +onlyGivenNames x; refine Keeps.cut (a := a) (x := x) ?_ ?_; rotate_left; (intro hx; clear_value x); rotate_left; unfold x; clear x)
    | (extract_lets +onlyGivenNames x; clear_value x)
    | split

end Sys2Proof.Machine
end

