-- ==== Sys2Proof/Laws/KeepRoundOps.lean ====
section
/-! SUPPORT. What the operations of Machine/RoundOps.lean keep (Laws/Keeps.lean). -/

namespace Sys2Proof.Machine

variable {a s : State}

theorem keeps_waleTraffic (h : Keeps a s) : Keeps a (State.waleTraffic s w bytes) := by
  unfold State.waleTraffic
  repeat' first
    | with_reducible assumption
    | with_reducible apply keeps_freeNext
    | with_reducible apply Keeps.count
    | (with_reducible refine keeps_mk ?_ rfl rfl rfl rfl rfl rfl rfl; first | with_reducible assumption | with_reducible apply keeps_freeNext | with_reducible apply Keeps.count)
    | with_reducible apply Keeps.foldl
    | (intro _ _ _; try beta_reduce)
    | (intro _ _; try beta_reduce)
    | (extract_lets +onlyGivenNames x; refine Keeps.cut (a := a) (x := x) ?_ ?_; rotate_left; (intro hx; clear_value x); rotate_left; unfold x; clear x)
    | (extract_lets +onlyGivenNames x; clear_value x)
    | split

theorem keeps_hopTraffic (h : Keeps a s) : Keeps a (State.hopTraffic s i v1 b n) := by
  unfold State.hopTraffic
  repeat' first
    | with_reducible assumption
    | with_reducible apply keeps_waleTraffic
    | with_reducible apply Keeps.count
    | (with_reducible refine keeps_mk ?_ rfl rfl rfl rfl rfl rfl rfl; first | with_reducible assumption | with_reducible apply keeps_waleTraffic | with_reducible apply Keeps.count)
    | with_reducible apply Keeps.foldl
    | (intro _ _ _; try beta_reduce)
    | (intro _ _; try beta_reduce)
    | (extract_lets +onlyGivenNames x; refine Keeps.cut (a := a) (x := x) ?_ ?_; rotate_left; (intro hx; clear_value x); rotate_left; unfold x; clear x)
    | (extract_lets +onlyGivenNames x; clear_value x)
    | split

theorem keeps_freeRoundSlot (h : Keeps a s) : Keeps a (State.freeRoundSlot s d c i) := by
  unfold State.freeRoundSlot
  repeat' first
    | with_reducible assumption
    | with_reducible apply Keeps.forEach
    | with_reducible apply keeps_unhold
    | (with_reducible refine keeps_mk ?_ rfl rfl rfl rfl rfl rfl rfl; first | with_reducible assumption | with_reducible apply Keeps.forEach | with_reducible apply keeps_unhold)
    | with_reducible apply Keeps.foldl
    | (intro _ _ _; try beta_reduce)
    | (intro _ _; try beta_reduce)
    | (extract_lets +onlyGivenNames x; refine Keeps.cut (a := a) (x := x) ?_ ?_; rotate_left; (intro hx; clear_value x); rotate_left; unfold x; clear x)
    | (extract_lets +onlyGivenNames x; clear_value x)
    | split

theorem keeps_sendCredits (h : Keeps a s) : Keeps a (State.sendCredits s d c n) := by
  unfold State.sendCredits
  repeat' first
    | with_reducible assumption
    | with_reducible apply Keeps.ledIssue
    | with_reducible apply keeps_setRoundCtx
    | (with_reducible refine keeps_mk ?_ rfl rfl rfl rfl rfl rfl rfl; first | with_reducible assumption | with_reducible apply Keeps.ledIssue | with_reducible apply keeps_setRoundCtx)
    | with_reducible apply Keeps.foldl
    | (intro _ _ _; try beta_reduce)
    | (intro _ _; try beta_reduce)
    | (extract_lets +onlyGivenNames x; refine Keeps.cut (a := a) (x := x) ?_ ?_; rotate_left; (intro hx; clear_value x); rotate_left; unfold x; clear x)
    | (extract_lets +onlyGivenNames x; clear_value x)
    | split

theorem keeps_roundDone (h : Keeps a s) : Keeps a (State.roundDone s d c) := by
  unfold State.roundDone
  repeat' first
    | with_reducible assumption
    | with_reducible apply keeps_setRoundCtx
    | with_reducible apply keeps_setStream
    | (with_reducible refine keeps_mk ?_ rfl rfl rfl rfl rfl rfl rfl; first | with_reducible assumption | with_reducible apply keeps_setRoundCtx | with_reducible apply keeps_setStream)
    | with_reducible apply Keeps.foldl
    | (intro _ _ _; try beta_reduce)
    | (intro _ _; try beta_reduce)
    | (extract_lets +onlyGivenNames x; refine Keeps.cut (a := a) (x := x) ?_ ?_; rotate_left; (intro hx; clear_value x); rotate_left; unfold x; clear x)
    | (extract_lets +onlyGivenNames x; clear_value x)
    | split

theorem keeps_freeSlots (h : Keeps a s) : Keeps a (State.freeSlots s d c) := by
  unfold State.freeSlots
  repeat' first
    | with_reducible assumption
    | with_reducible apply Keeps.forEach
    | with_reducible apply keeps_freeRoundSlot
    | with_reducible apply keeps_setRoundCtx
    | with_reducible apply keeps_roundDone
    | with_reducible apply keeps_sendCredits
    | (with_reducible refine keeps_mk ?_ rfl rfl rfl rfl rfl rfl rfl; first | with_reducible assumption | with_reducible apply Keeps.forEach | with_reducible apply keeps_freeRoundSlot | with_reducible apply keeps_setRoundCtx | with_reducible apply keeps_roundDone | with_reducible apply keeps_sendCredits)
    | with_reducible apply Keeps.foldl
    | (intro _ _ _; try beta_reduce)
    | (intro _ _; try beta_reduce)
    | (extract_lets +onlyGivenNames x; refine Keeps.cut (a := a) (x := x) ?_ ?_; rotate_left; (intro hx; clear_value x); rotate_left; unfold x; clear x)
    | (extract_lets +onlyGivenNames x; clear_value x)
    | split

theorem keeps_roundStart (h : Keeps a s) : Keeps a (State.roundStart s d c) := by
  unfold State.roundStart
  repeat' first
    | with_reducible assumption
    | with_reducible apply Keeps.ledReturn
    | with_reducible apply keeps_setRoundCtx
    | with_reducible apply keeps_sendCredits
    | (with_reducible refine keeps_mk ?_ rfl rfl rfl rfl rfl rfl rfl; first | with_reducible assumption | with_reducible apply Keeps.ledReturn | with_reducible apply keeps_setRoundCtx | with_reducible apply keeps_sendCredits)
    | with_reducible apply Keeps.foldl
    | (intro _ _ _; try beta_reduce)
    | (intro _ _; try beta_reduce)
    | (extract_lets +onlyGivenNames x; refine Keeps.cut (a := a) (x := x) ?_ ?_; rotate_left; (intro hx; clear_value x); rotate_left; unfold x; clear x)
    | (extract_lets +onlyGivenNames x; clear_value x)
    | split

theorem keeps_dropXfers (h : Keeps a s) : Keeps a (State.dropXfers s d u st gone next) := by
  unfold State.dropXfers
  repeat' first
    | with_reducible assumption
    | with_reducible apply keeps_setStream
    | with_reducible apply Keeps.ledWoff
    | with_reducible apply Keeps.ledReturn
    | (with_reducible refine keeps_mk ?_ rfl rfl rfl rfl rfl rfl rfl; first | with_reducible assumption | with_reducible apply keeps_setStream | with_reducible apply Keeps.ledWoff | with_reducible apply Keeps.ledReturn)
    | with_reducible apply Keeps.foldl
    | (intro _ _ _; try beta_reduce)
    | (intro _ _; try beta_reduce)
    | (extract_lets +onlyGivenNames x; refine Keeps.cut (a := a) (x := x) ?_ ?_; rotate_left; (intro hx; clear_value x); rotate_left; unfold x; clear x)
    | (extract_lets +onlyGivenNames x; clear_value x)
    | split

theorem keeps_eachStream (hf : ∀ s x, Keeps a s → Keeps a (f s x)) (h : Keeps a s) :
    Keeps a (State.eachStream s d u f) := by
  unfold State.eachStream
  exact Keeps.forEach hf h

theorem keeps_ctxStop (h : Keeps a s) : Keeps a (State.ctxStop s gone d c) := by
  unfold State.ctxStop
  repeat' first
    | with_reducible assumption
    | with_reducible apply Keeps.ledWoff
    | with_reducible apply Keeps.ledReturn
    | with_reducible apply Keeps.forEach
    | with_reducible apply keeps_freeRoundSlot
    | with_reducible apply keeps_setRoundCtx
    | (with_reducible refine keeps_mk ?_ rfl rfl rfl rfl rfl rfl rfl; first | with_reducible assumption | with_reducible apply Keeps.ledWoff | with_reducible apply Keeps.ledReturn | with_reducible apply Keeps.forEach | with_reducible apply keeps_freeRoundSlot | with_reducible apply keeps_setRoundCtx)
    | with_reducible apply Keeps.foldl
    | (intro _ _ _; try beta_reduce)
    | (intro _ _; try beta_reduce)
    | (extract_lets +onlyGivenNames x; refine Keeps.cut (a := a) (x := x) ?_ ?_; rotate_left; (intro hx; clear_value x); rotate_left; unfold x; clear x)
    | (extract_lets +onlyGivenNames x; clear_value x)
    | split

theorem keeps_roundStop (h : Keeps a s) : Keeps a (State.roundStop s) := by
  unfold State.roundStop
  repeat' first
    | with_reducible assumption
    | with_reducible apply Keeps.forEach
    | with_reducible apply keeps_ctxStop
    | with_reducible apply keeps_eachStream
    | with_reducible apply keeps_dropXfers
    | (with_reducible refine keeps_mk ?_ rfl rfl rfl rfl rfl rfl rfl; first | with_reducible assumption | with_reducible apply Keeps.forEach | with_reducible apply keeps_ctxStop | with_reducible apply keeps_eachStream | with_reducible apply keeps_dropXfers)
    | with_reducible apply Keeps.foldl
    | (intro _ _ _; try beta_reduce)
    | (intro _ _; try beta_reduce)
    | (extract_lets +onlyGivenNames x; refine Keeps.cut (a := a) (x := x) ?_ ?_; rotate_left; (intro hx; clear_value x); rotate_left; unfold x; clear x)
    | (extract_lets +onlyGivenNames x; clear_value x)
    | split

theorem keeps_restartForward (h : Keeps a s) : Keeps a (State.restartForward s t) := by
  unfold State.restartForward
  repeat' first
    | with_reducible assumption
    | with_reducible apply keeps_dropXfers
    | with_reducible apply keeps_setStream
    | (with_reducible refine keeps_mk ?_ rfl rfl rfl rfl rfl rfl rfl; first | with_reducible assumption | with_reducible apply keeps_dropXfers | with_reducible apply keeps_setStream)
    | with_reducible apply Keeps.foldl
    | (intro _ _ _; try beta_reduce)
    | (intro _ _; try beta_reduce)
    | (extract_lets +onlyGivenNames x; refine Keeps.cut (a := a) (x := x) ?_ ?_; rotate_left; (intro hx; clear_value x); rotate_left; unfold x; clear x)
    | (extract_lets +onlyGivenNames x; clear_value x)
    | split

theorem keeps_repath (h : Keeps a s) : Keeps a (State.repath s) := by
  unfold State.repath
  repeat' first
    | with_reducible assumption
    | with_reducible apply keeps_roundStop
    | with_reducible apply Keeps.forEach
    | with_reducible apply keeps_restartForward
    | (with_reducible refine keeps_mk ?_ rfl rfl rfl rfl rfl rfl rfl; first | with_reducible assumption | with_reducible apply keeps_roundStop | with_reducible apply Keeps.forEach | with_reducible apply keeps_restartForward)
    | with_reducible apply Keeps.foldl
    | (intro _ _ _; try beta_reduce)
    | (intro _ _; try beta_reduce)
    | (extract_lets +onlyGivenNames x; refine Keeps.cut (a := a) (x := x) ?_ ?_; rotate_left; (intro hx; clear_value x); rotate_left; unfold x; clear x)
    | (extract_lets +onlyGivenNames x; clear_value x)
    | split

theorem keeps_startStream (h : Keeps a s) : Keeps a (State.startStream s d u st base) := by
  unfold State.startStream
  repeat' first
    | with_reducible assumption
    | with_reducible apply keeps_setStream
    | with_reducible apply keeps_roundStart
    | (with_reducible refine keeps_mk ?_ rfl rfl rfl rfl rfl rfl rfl; first | with_reducible assumption | with_reducible apply keeps_setStream | with_reducible apply keeps_roundStart)
    | with_reducible apply Keeps.foldl
    | (intro _ _ _; try beta_reduce)
    | (intro _ _; try beta_reduce)
    | (extract_lets +onlyGivenNames x; refine Keeps.cut (a := a) (x := x) ?_ ?_; rotate_left; (intro hx; clear_value x); rotate_left; unfold x; clear x)
    | (extract_lets +onlyGivenNames x; clear_value x)
    | split

theorem keeps_rearmApply (h : Keeps a s) : Keeps a (State.rearmApply s d p w) := by
  unfold State.rearmApply
  repeat' first
    | with_reducible assumption
    | with_reducible apply Keeps.forEach
    | with_reducible apply keeps_startStream
    | (with_reducible refine keeps_mk ?_ rfl rfl rfl rfl rfl rfl rfl; first | with_reducible assumption | with_reducible apply Keeps.forEach | with_reducible apply keeps_startStream)
    | with_reducible apply Keeps.foldl
    | (intro _ _ _; try beta_reduce)
    | (intro _ _; try beta_reduce)
    | (extract_lets +onlyGivenNames x; refine Keeps.cut (a := a) (x := x) ?_ ?_; rotate_left; (intro hx; clear_value x); rotate_left; unfold x; clear x)
    | (extract_lets +onlyGivenNames x; clear_value x)
    | split

end Sys2Proof.Machine
end

