-- ==== Sys2Proof/Laws/KeepReduceOps.lean ====
section
/-! SUPPORT. What the operations of Machine/ReduceOps.lean keep (Laws/Keeps.lean). -/

namespace Sys2Proof.Machine

variable {a s : State}

theorem keeps_freeUnits (h : Keeps a s) : Keeps a (State.freeUnits s d pool us) := by
  unfold State.freeUnits
  repeat' first
    | with_reducible assumption
    | with_reducible apply keeps_setPool
    | with_reducible apply keeps_stage
    | (with_reducible refine keeps_mk ?_ rfl rfl rfl rfl rfl rfl rfl; first | with_reducible assumption | with_reducible apply keeps_setPool | with_reducible apply keeps_stage)
    | with_reducible apply Keeps.foldl
    | (intro _ _ _; try beta_reduce)
    | (intro _ _; try beta_reduce)
    | (extract_lets +onlyGivenNames x; refine Keeps.cut (a := a) (x := x) ?_ ?_; rotate_left; (intro hx; clear_value x); rotate_left; unfold x; clear x)
    | (extract_lets +onlyGivenNames x; clear_value x)
    | split

theorem keeps_unstage (h : Keeps a s) : Keeps a (State.unstage s d b t) := by
  unfold State.unstage
  repeat' first
    | with_reducible assumption
    | with_reducible apply Keeps.ledReturn
    | with_reducible apply keeps_freeUnits
    | with_reducible apply keeps_stage
    | (with_reducible refine keeps_mk ?_ rfl rfl rfl rfl rfl rfl rfl; first | with_reducible assumption | with_reducible apply Keeps.ledReturn | with_reducible apply keeps_freeUnits | with_reducible apply keeps_stage)
    | with_reducible apply Keeps.foldl
    | (intro _ _ _; try beta_reduce)
    | (intro _ _; try beta_reduce)
    | (extract_lets +onlyGivenNames x; refine Keeps.cut (a := a) (x := x) ?_ ?_; rotate_left; (intro hx; clear_value x); rotate_left; unfold x; clear x)
    | (extract_lets +onlyGivenNames x; clear_value x)
    | split

theorem keeps_dropSum (h : Keeps a s) : Keeps a (State.dropSum s d b) := by
  unfold State.dropSum
  repeat' first
    | with_reducible assumption
    | with_reducible apply keeps_freeUnits
    | with_reducible apply keeps_setDieBasket
    | (with_reducible refine keeps_mk ?_ rfl rfl rfl rfl rfl rfl rfl; first | with_reducible assumption | with_reducible apply keeps_freeUnits | with_reducible apply keeps_setDieBasket)
    | with_reducible apply Keeps.foldl
    | (intro _ _ _; try beta_reduce)
    | (intro _ _; try beta_reduce)
    | (extract_lets +onlyGivenNames x; refine Keeps.cut (a := a) (x := x) ?_ ?_; rotate_left; (intro hx; clear_value x); rotate_left; unfold x; clear x)
    | (extract_lets +onlyGivenNames x; clear_value x)
    | split

theorem keeps_deliver (h : Keeps a s) : Keeps a (State.deliver s d b t) := by
  unfold State.deliver
  repeat' first
    | with_reducible assumption
    | with_reducible apply keeps_incSat
    | with_reducible apply keeps_unstage
    | with_reducible apply keeps_setDieBasket
    | with_reducible apply keeps_stage
    | (with_reducible refine keeps_mk ?_ rfl rfl rfl rfl rfl rfl rfl; first | with_reducible assumption | with_reducible apply keeps_incSat | with_reducible apply keeps_unstage | with_reducible apply keeps_setDieBasket | with_reducible apply keeps_stage)
    | with_reducible apply Keeps.foldl
    | (intro _ _ _; try beta_reduce)
    | (intro _ _; try beta_reduce)
    | (extract_lets +onlyGivenNames x; refine Keeps.cut (a := a) (x := x) ?_ ?_; rotate_left; (intro hx; clear_value x); rotate_left; unfold x; clear x)
    | (extract_lets +onlyGivenNames x; clear_value x)
    | split

theorem keeps_startPut (h : Keeps a s) : Keeps a (State.startPut s d l w prog) := by
  unfold State.startPut
  repeat' first
    | with_reducible assumption
    | with_reducible apply keeps_noteReads
    | with_reducible apply keeps_setPool
    | with_reducible apply Keeps.count
    | with_reducible apply Keeps.ledIssue
    | with_reducible apply keeps_setDieBasket
    | with_reducible apply keeps_deliver
    | with_reducible apply keeps_stage
    | with_reducible apply keeps_hold
    | (with_reducible refine keeps_mk ?_ rfl rfl rfl rfl rfl rfl rfl; first | with_reducible assumption | with_reducible apply keeps_noteReads | with_reducible apply keeps_setPool | with_reducible apply Keeps.count | with_reducible apply Keeps.ledIssue | with_reducible apply keeps_setDieBasket | with_reducible apply keeps_deliver | with_reducible apply keeps_stage | with_reducible apply keeps_hold)
    | with_reducible apply Keeps.foldl
    | (intro _ _ _; try beta_reduce)
    | (intro _ _; try beta_reduce)
    | (extract_lets +onlyGivenNames x; refine Keeps.cut (a := a) (x := x) ?_ ?_; rotate_left; (intro hx; clear_value x); rotate_left; unfold x; clear x)
    | (extract_lets +onlyGivenNames x; clear_value x)
    | split

theorem keeps_commitPuts (h : Keeps a s) : Keeps a (State.commitPuts s d n) := by
  unfold State.commitPuts
  repeat' first
    | with_reducible assumption
    | with_reducible apply Keeps.forEach
    | with_reducible apply keeps_deliver
    | with_reducible apply keeps_setDieBasket
    | with_reducible apply keeps_stage
    | (with_reducible refine keeps_mk ?_ rfl rfl rfl rfl rfl rfl rfl; first | with_reducible assumption | with_reducible apply Keeps.forEach | with_reducible apply keeps_deliver | with_reducible apply keeps_setDieBasket | with_reducible apply keeps_stage)
    | with_reducible apply Keeps.foldl
    | (intro _ _ _; try beta_reduce)
    | (intro _ _; try beta_reduce)
    | (extract_lets +onlyGivenNames x; refine Keeps.cut (a := a) (x := x) ?_ ?_; rotate_left; (intro hx; clear_value x); rotate_left; unfold x; clear x)
    | (extract_lets +onlyGivenNames x; clear_value x)
    | split

theorem keeps_discardPuts (h : Keeps a s) : Keeps a (State.discardPuts s d n) := by
  unfold State.discardPuts
  repeat' first
    | with_reducible assumption
    | with_reducible apply Keeps.forEach
    | with_reducible apply keeps_unstage
    | with_reducible apply keeps_setDieBasket
    | with_reducible apply keeps_stage
    | (with_reducible refine keeps_mk ?_ rfl rfl rfl rfl rfl rfl rfl; first | with_reducible assumption | with_reducible apply Keeps.forEach | with_reducible apply keeps_unstage | with_reducible apply keeps_setDieBasket | with_reducible apply keeps_stage)
    | with_reducible apply Keeps.foldl
    | (intro _ _ _; try beta_reduce)
    | (intro _ _; try beta_reduce)
    | (extract_lets +onlyGivenNames x; refine Keeps.cut (a := a) (x := x) ?_ ?_; rotate_left; (intro hx; clear_value x); rotate_left; unfold x; clear x)
    | (extract_lets +onlyGivenNames x; clear_value x)
    | split

theorem keeps_sumChunk (h : Keeps a s) : Keeps a (State.sumChunk s d b c) := by
  unfold State.sumChunk
  repeat' first
    | with_reducible assumption
    | with_reducible apply keeps_setDieBasket
    | with_reducible apply keeps_unstage
    | with_reducible apply keeps_incSat
    | with_reducible apply keeps_stage
    | (with_reducible refine keeps_mk ?_ rfl rfl rfl rfl rfl rfl rfl; first | with_reducible assumption | with_reducible apply keeps_setDieBasket | with_reducible apply keeps_unstage | with_reducible apply keeps_incSat | with_reducible apply keeps_stage)
    | with_reducible apply Keeps.foldl
    | (intro _ _ _; try beta_reduce)
    | (intro _ _; try beta_reduce)
    | (extract_lets +onlyGivenNames x; refine Keeps.cut (a := a) (x := x) ?_ ?_; rotate_left; (intro hx; clear_value x); rotate_left; unfold x; clear x)
    | (extract_lets +onlyGivenNames x; clear_value x)
    | split

theorem keeps_zeroRegion (h : Keeps a s) : Keeps a (State.zeroRegion s d b) := by
  unfold State.zeroRegion
  repeat' first
    | with_reducible assumption
    | with_reducible apply keeps_storeWords
    | (with_reducible refine keeps_mk ?_ rfl rfl rfl rfl rfl rfl rfl; first | with_reducible assumption | with_reducible apply keeps_storeWords)
    | with_reducible apply Keeps.foldl
    | (intro _ _ _; try beta_reduce)
    | (intro _ _; try beta_reduce)
    | (extract_lets +onlyGivenNames x; refine Keeps.cut (a := a) (x := x) ?_ ?_; rotate_left; (intro hx; clear_value x); rotate_left; unfold x; clear x)
    | (extract_lets +onlyGivenNames x; clear_value x)
    | split

theorem keeps_dieReady (h : Keeps a s) : Keeps a (State.dieReady s d b) := by
  unfold State.dieReady
  repeat' first
    | with_reducible assumption
    | with_reducible apply keeps_emit
    | with_reducible apply Keeps.ledIssue
    | with_reducible apply keeps_setDieBasket
    | with_reducible apply keeps_noteReads
    | with_reducible apply keeps_incSat
    | with_reducible apply keeps_storeWords
    | with_reducible apply keeps_dropSum
    | with_reducible apply keeps_hold
    | (with_reducible refine keeps_mk ?_ rfl rfl rfl rfl rfl rfl rfl; first | with_reducible assumption | with_reducible apply keeps_emit | with_reducible apply Keeps.ledIssue | with_reducible apply keeps_setDieBasket | with_reducible apply keeps_noteReads | with_reducible apply keeps_incSat | with_reducible apply keeps_storeWords | with_reducible apply keeps_dropSum | with_reducible apply keeps_hold)
    | with_reducible apply Keeps.foldl
    | (intro _ _ _; try beta_reduce)
    | (intro _ _; try beta_reduce)
    | (extract_lets +onlyGivenNames x; refine Keeps.cut (a := a) (x := x) ?_ ?_; rotate_left; (intro hx; clear_value x); rotate_left; unfold x; clear x)
    | (extract_lets +onlyGivenNames x; clear_value x)
    | split

theorem keeps_decideBasket (h : Keeps a s) : Keeps a (State.decideBasket s b byDead) := by
  unfold State.decideBasket
  repeat' first
    | with_reducible assumption
    | with_reducible apply Keeps.count
    | with_reducible apply keeps_setBasket
    | (with_reducible refine keeps_mk ?_ rfl rfl rfl rfl rfl rfl rfl; first | with_reducible assumption | with_reducible apply Keeps.count | with_reducible apply keeps_setBasket)
    | with_reducible apply Keeps.foldl
    | (intro _ _ _; try beta_reduce)
    | (intro _ _; try beta_reduce)
    | (extract_lets +onlyGivenNames x; refine Keeps.cut (a := a) (x := x) ?_ ?_; rotate_left; (intro hx; clear_value x); rotate_left; unfold x; clear x)
    | (extract_lets +onlyGivenNames x; clear_value x)
    | split

theorem keeps_lateHist (h : Keeps a s) : Keeps a (State.lateHist s d k) := by
  unfold State.lateHist
  repeat' first
    | with_reducible assumption
    | with_reducible apply keeps_incSat
    | (with_reducible refine keeps_mk ?_ rfl rfl rfl rfl rfl rfl rfl; first | with_reducible assumption | with_reducible apply keeps_incSat)
    | with_reducible apply Keeps.foldl
    | (intro _ _ _; try beta_reduce)
    | (intro _ _; try beta_reduce)
    | (extract_lets +onlyGivenNames x; refine Keeps.cut (a := a) (x := x) ?_ ?_; rotate_left; (intro hx; clear_value x); rotate_left; unfold x; clear x)
    | (extract_lets +onlyGivenNames x; clear_value x)
    | split

theorem keeps_lateDrop (h : Keeps a s) : Keeps a (State.lateDrop s d b) := by
  unfold State.lateDrop
  repeat' first
    | with_reducible assumption
    | with_reducible apply keeps_lateHist
    | with_reducible apply Keeps.count
    | with_reducible apply keeps_incSat
    | with_reducible apply keeps_unstage
    | with_reducible apply keeps_dropSum
    | with_reducible apply keeps_setDieBasket
    | with_reducible apply keeps_zeroRegion
    | with_reducible apply keeps_stage
    | (with_reducible refine keeps_mk ?_ rfl rfl rfl rfl rfl rfl rfl; first | with_reducible assumption | with_reducible apply keeps_lateHist | with_reducible apply Keeps.count | with_reducible apply keeps_incSat | with_reducible apply keeps_unstage | with_reducible apply keeps_dropSum | with_reducible apply keeps_setDieBasket | with_reducible apply keeps_zeroRegion | with_reducible apply keeps_stage)
    | with_reducible apply Keeps.foldl
    | (intro _ _ _; try beta_reduce)
    | (intro _ _; try beta_reduce)
    | (extract_lets +onlyGivenNames x; refine Keeps.cut (a := a) (x := x) ?_ ?_; rotate_left; (intro hx; clear_value x); rotate_left; unfold x; clear x)
    | (extract_lets +onlyGivenNames x; clear_value x)
    | split

theorem keeps_readyStamp (h : Keeps a s) : Keeps a (State.readyStamp s d b lateness) := by
  unfold State.readyStamp
  repeat' first
    | with_reducible assumption
    | with_reducible apply Keeps.ledReturn
    | with_reducible apply keeps_decideBasket
    | with_reducible apply keeps_lateDrop
    | with_reducible apply keeps_setBasket
    | with_reducible apply keeps_stage
    | (with_reducible refine keeps_mk ?_ rfl rfl rfl rfl rfl rfl rfl; first | with_reducible assumption | with_reducible apply Keeps.ledReturn | with_reducible apply keeps_decideBasket | with_reducible apply keeps_lateDrop | with_reducible apply keeps_setBasket | with_reducible apply keeps_stage)
    | with_reducible apply Keeps.foldl
    | (intro _ _ _; try beta_reduce)
    | (intro _ _; try beta_reduce)
    | (extract_lets +onlyGivenNames x; refine Keeps.cut (a := a) (x := x) ?_ ?_; rotate_left; (intro hx; clear_value x); rotate_left; unfold x; clear x)
    | (extract_lets +onlyGivenNames x; clear_value x)
    | split

theorem keeps_receiveIncluded (h : Keeps a s) : Keeps a (State.receiveIncluded s d b) := by
  unfold State.receiveIncluded
  repeat' first
    | with_reducible assumption
    | with_reducible apply keeps_setBasket
    | with_reducible apply keeps_poke
    | with_reducible apply keeps_lateHist
    | with_reducible apply keeps_setDieBasket
    | with_reducible apply keeps_zeroRegion
    | with_reducible apply keeps_stage
    | (with_reducible refine keeps_mk ?_ rfl rfl rfl rfl rfl rfl rfl; first | with_reducible assumption | with_reducible apply keeps_setBasket | with_reducible apply keeps_poke | with_reducible apply keeps_lateHist | with_reducible apply keeps_setDieBasket | with_reducible apply keeps_zeroRegion | with_reducible apply keeps_stage)
    | with_reducible apply Keeps.foldl
    | (intro _ _ _; try beta_reduce)
    | (intro _ _; try beta_reduce)
    | (extract_lets +onlyGivenNames x; refine Keeps.cut (a := a) (x := x) ?_ ?_; rotate_left; (intro hx; clear_value x); rotate_left; unfold x; clear x)
    | (extract_lets +onlyGivenNames x; clear_value x)
    | split

theorem keeps_levelBusy (h : Keeps a s) : Keeps a (State.levelBusy s d k) := by
  unfold State.levelBusy
  repeat' first
    | with_reducible assumption
    | with_reducible apply keeps_freeNext
    | with_reducible apply keeps_setLevel
    | with_reducible apply keeps_incSat
    | (with_reducible refine keeps_mk ?_ rfl rfl rfl rfl rfl rfl rfl; first | with_reducible assumption | with_reducible apply keeps_freeNext | with_reducible apply keeps_setLevel | with_reducible apply keeps_incSat)
    | with_reducible apply Keeps.foldl
    | (intro _ _ _; try beta_reduce)
    | (intro _ _; try beta_reduce)
    | (extract_lets +onlyGivenNames x; refine Keeps.cut (a := a) (x := x) ?_ ?_; rotate_left; (intro hx; clear_value x); rotate_left; unfold x; clear x)
    | (extract_lets +onlyGivenNames x; clear_value x)
    | split

theorem keeps_pipeCredit (h : Keeps a s) : Keeps a (State.pipeCredit s d k) := by
  unfold State.pipeCredit
  repeat' first
    | with_reducible assumption
    | with_reducible apply Keeps.ledIssue
    | with_reducible apply keeps_setLevel
    | (with_reducible refine keeps_mk ?_ rfl rfl rfl rfl rfl rfl rfl; first | with_reducible assumption | with_reducible apply Keeps.ledIssue | with_reducible apply keeps_setLevel)
    | with_reducible apply Keeps.foldl
    | (intro _ _ _; try beta_reduce)
    | (intro _ _; try beta_reduce)
    | (extract_lets +onlyGivenNames x; refine Keeps.cut (a := a) (x := x) ?_ ?_; rotate_left; (intro hx; clear_value x); rotate_left; unfold x; clear x)
    | (extract_lets +onlyGivenNames x; clear_value x)
    | split

theorem keeps_levelTake (h : Keeps a s) : Keeps a (State.levelTake s d k c) := by
  unfold State.levelTake
  repeat' first
    | with_reducible assumption
    | with_reducible apply keeps_setLevel
    | with_reducible apply keeps_stage
    | (with_reducible refine keeps_mk ?_ rfl rfl rfl rfl rfl rfl rfl; first | with_reducible assumption | with_reducible apply keeps_setLevel | with_reducible apply keeps_stage)
    | with_reducible apply Keeps.foldl
    | (intro _ _ _; try beta_reduce)
    | (intro _ _; try beta_reduce)
    | (extract_lets +onlyGivenNames x; refine Keeps.cut (a := a) (x := x) ?_ ?_; rotate_left; (intro hx; clear_value x); rotate_left; unfold x; clear x)
    | (extract_lets +onlyGivenNames x; clear_value x)
    | split

theorem keeps_stageBytes (h : Keeps a s) : Keeps a (State.stageBytes s d b tree rs).2 := by
  unfold State.stageBytes
  repeat' split
  all_goals first
    | exact h
    | exact keeps_freeNext h

theorem keeps_stageBytes_eq (h : Keeps a s) {n : Nat} {t : State} (e : State.stageBytes s d b tree rs = (n, t)) :
    Keeps a t := by
  have := keeps_stageBytes (d := d) (b := b) (tree := tree) (rs := rs) h
  rwa [e] at this

theorem keeps_stageTraffic (h : Keeps a s) : Keeps a (State.stageTraffic s b tree rs) := by
  unfold State.stageTraffic
  repeat' first
    | with_reducible assumption
    | with_reducible apply Keeps.forEach
    | with_reducible apply keeps_hopTraffic
    | with_reducible apply keeps_waleTraffic
    | with_reducible apply keeps_freeNext
    | with_reducible apply Keeps.count
    | with_reducible apply Keeps.foldl
    | (intro _ _ _; try beta_reduce)
    | (intro _ _; try beta_reduce)
    | (extract_lets +onlyGivenNames x; refine Keeps.cut (a := a) (x := x) ?_ ?_; rotate_left; (intro hx; clear_value x); rotate_left; unfold x; clear x)
    | (extract_lets +onlyGivenNames x; clear_value x)
    | split

theorem keeps_stageServer (h : Keeps a s) : Keeps a (State.stageServer s b) := by
  unfold State.stageServer
  repeat' first
    | with_reducible assumption
    | with_reducible apply Keeps.forEach
    | with_reducible apply keeps_stageBytes
    | with_reducible apply keeps_stageTraffic
    | with_reducible apply Keeps.count
    | with_reducible apply keeps_incSat
    | with_reducible apply keeps_dropSum
    | with_reducible apply keeps_setDieBasket
    | with_reducible refine keeps_stageBytes_eq ?_ (by assumption)
    | (with_reducible refine keeps_mk ?_ rfl rfl rfl rfl rfl rfl rfl; first | with_reducible assumption | with_reducible apply Keeps.forEach | with_reducible apply keeps_stageBytes | with_reducible apply Keeps.count | with_reducible apply keeps_incSat | with_reducible apply keeps_dropSum | with_reducible apply keeps_setDieBasket)
    | with_reducible apply Keeps.foldl
    | (intro _ _ _; try beta_reduce)
    | (intro _ _; try beta_reduce)
    | (extract_lets +onlyGivenNames x; refine Keeps.cut (a := a) (x := x) ?_ ?_; rotate_left; (intro hx; clear_value x); rotate_left; unfold x; clear x)
    | (extract_lets +onlyGivenNames x; clear_value x)
    | split

theorem keeps_doneMark (h : Keeps a s) : Keeps a (State.doneMark s d b) := by
  unfold State.doneMark
  repeat' first
    | with_reducible assumption
    | with_reducible apply keeps_freeNext
    | with_reducible apply keeps_postMark
    | with_reducible apply keeps_stage
    | (with_reducible refine keeps_mk ?_ rfl rfl rfl rfl rfl rfl rfl; first | with_reducible assumption | with_reducible apply keeps_freeNext | with_reducible apply keeps_postMark | with_reducible apply keeps_stage)
    | with_reducible apply Keeps.foldl
    | (intro _ _ _; try beta_reduce)
    | (intro _ _; try beta_reduce)
    | (extract_lets +onlyGivenNames x; refine Keeps.cut (a := a) (x := x) ?_ ?_; rotate_left; (intro hx; clear_value x); rotate_left; unfold x; clear x)
    | (extract_lets +onlyGivenNames x; clear_value x)
    | split

theorem keeps_stageOver (h : Keeps a s) : Keeps a (State.stageOver s b) := by
  unfold State.stageOver
  repeat' first
    | with_reducible assumption
    | with_reducible apply Keeps.forEach
    | with_reducible apply keeps_dropSum
    | with_reducible apply keeps_setDieBasket
    | with_reducible apply keeps_stage
    | (with_reducible refine keeps_mk ?_ rfl rfl rfl rfl rfl rfl rfl; first | with_reducible assumption | with_reducible apply Keeps.forEach | with_reducible apply keeps_dropSum | with_reducible apply keeps_setDieBasket | with_reducible apply keeps_stage)
    | with_reducible apply Keeps.foldl
    | (intro _ _ _; try beta_reduce)
    | (intro _ _; try beta_reduce)
    | (extract_lets +onlyGivenNames x; refine Keeps.cut (a := a) (x := x) ?_ ?_; rotate_left; (intro hx; clear_value x); rotate_left; unfold x; clear x)
    | (extract_lets +onlyGivenNames x; clear_value x)
    | split

theorem keeps_stageAll (h : Keeps a s) : Keeps a (State.stageAll s b) := by
  unfold State.stageAll
  repeat' first
    | with_reducible assumption
    | with_reducible apply Keeps.forEach
    | with_reducible apply keeps_stageBytes
    | with_reducible apply keeps_stageTraffic
    | with_reducible apply Keeps.count
    | with_reducible apply keeps_incSat
    | with_reducible apply keeps_doneMark
    | with_reducible apply keeps_storeWords
    | with_reducible apply keeps_stageOver
    | with_reducible refine keeps_stageBytes_eq ?_ (by assumption)
    | (with_reducible refine keeps_mk ?_ rfl rfl rfl rfl rfl rfl rfl; first | with_reducible assumption | with_reducible apply Keeps.forEach | with_reducible apply keeps_stageBytes | with_reducible apply Keeps.count | with_reducible apply keeps_incSat | with_reducible apply keeps_doneMark | with_reducible apply keeps_storeWords | with_reducible apply keeps_stageOver)
    | with_reducible apply Keeps.foldl
    | (intro _ _ _; try beta_reduce)
    | (intro _ _; try beta_reduce)
    | (extract_lets +onlyGivenNames x; refine Keeps.cut (a := a) (x := x) ?_ ?_; rotate_left; (intro hx; clear_value x); rotate_left; unfold x; clear x)
    | (extract_lets +onlyGivenNames x; clear_value x)
    | split

theorem keeps_stageExchange (h : Keeps a s) : Keeps a (State.stageExchange s b) := by
  unfold State.stageExchange
  repeat' first
    | with_reducible assumption
    | with_reducible apply Keeps.forEach
    | with_reducible apply keeps_storeWords
    | with_reducible apply keeps_doneMark
    | with_reducible apply keeps_incSat
    | with_reducible apply keeps_stageBytes
    | with_reducible apply keeps_stageTraffic
    | with_reducible apply keeps_unstage
    | with_reducible apply Keeps.count
    | with_reducible apply keeps_stageOver
    | with_reducible apply keepsO_ok
    | with_reducible apply keeps_stage
    | with_reducible refine keeps_stageBytes_eq ?_ (by assumption)
    | (with_reducible refine keeps_mk ?_ rfl rfl rfl rfl rfl rfl rfl; first | with_reducible assumption | with_reducible apply Keeps.forEach | with_reducible apply keeps_storeWords | with_reducible apply keeps_doneMark | with_reducible apply keeps_incSat | with_reducible apply keeps_stageBytes | with_reducible apply keeps_unstage | with_reducible apply Keeps.count | with_reducible apply keeps_stageOver | with_reducible apply keepsO_ok | with_reducible apply keeps_stage)
    | with_reducible apply Keeps.foldl
    | (intro _ _ _; try beta_reduce)
    | (intro _ _; try beta_reduce)
    | (extract_lets +onlyGivenNames x; refine Keeps.cut (a := a) (x := x) ?_ ?_; rotate_left; (intro hx; clear_value x); rotate_left; unfold x; clear x)
    | (extract_lets +onlyGivenNames x; clear_value x)
    | split

theorem keeps_engineStage (h : Keeps a s) : Keeps a (State.engineStage s b) := by
  unfold State.engineStage
  repeat' first
    | with_reducible assumption
    | with_reducible apply keeps_stageServer
    | with_reducible apply keeps_stageAll
    | with_reducible apply keeps_stageExchange
    | with_reducible apply keeps_stage
    | (with_reducible refine keeps_mk ?_ rfl rfl rfl rfl rfl rfl rfl; first | with_reducible assumption | with_reducible apply keeps_stageServer | with_reducible apply keeps_stageAll | with_reducible apply keeps_stageExchange | with_reducible apply keeps_stage)
    | with_reducible apply Keeps.foldl
    | (intro _ _ _; try beta_reduce)
    | (intro _ _; try beta_reduce)
    | (extract_lets +onlyGivenNames x; refine Keeps.cut (a := a) (x := x) ?_ ?_; rotate_left; (intro hx; clear_value x); rotate_left; unfold x; clear x)
    | (extract_lets +onlyGivenNames x; clear_value x)
    | split

theorem keeps_dropLevel4 (h : Keeps a s) : Keeps a (State.dropLevel4 s d b) := by
  unfold State.dropLevel4
  repeat' first
    | with_reducible assumption
    | with_reducible apply keeps_pipeCredit
    | with_reducible apply Keeps.ledWoff
    | with_reducible apply keeps_setLevel
    | with_reducible apply keeps_stage
    | (with_reducible refine keeps_mk ?_ rfl rfl rfl rfl rfl rfl rfl; first | with_reducible assumption | with_reducible apply keeps_pipeCredit | with_reducible apply Keeps.ledWoff | with_reducible apply keeps_setLevel | with_reducible apply keeps_stage)
    | with_reducible apply Keeps.foldl
    | (intro _ _ _; try beta_reduce)
    | (intro _ _; try beta_reduce)
    | (extract_lets +onlyGivenNames x; refine Keeps.cut (a := a) (x := x) ?_ ?_; rotate_left; (intro hx; clear_value x); rotate_left; unfold x; clear x)
    | (extract_lets +onlyGivenNames x; clear_value x)
    | split

theorem keeps_redecide (h : Keeps a s) : Keeps a (State.redecide s lost b) := by
  unfold State.redecide
  repeat' first
    | with_reducible assumption
    | with_reducible apply keeps_setBasket
    | with_reducible apply Keeps.forEach
    | with_reducible apply keeps_dropLevel4
    | with_reducible apply keeps_setDieBasket
    | with_reducible apply keeps_dropSum
    | with_reducible apply Keeps.count
    | with_reducible apply keeps_unstage
    | with_reducible apply keeps_stage
    | (with_reducible refine keeps_mk ?_ rfl rfl rfl rfl rfl rfl rfl; first | with_reducible assumption | with_reducible apply keeps_setBasket | with_reducible apply Keeps.forEach | with_reducible apply keeps_dropLevel4 | with_reducible apply keeps_setDieBasket | with_reducible apply keeps_dropSum | with_reducible apply Keeps.count | with_reducible apply keeps_unstage | with_reducible apply keeps_stage)
    | with_reducible apply Keeps.foldl
    | (intro _ _ _; try beta_reduce)
    | (intro _ _; try beta_reduce)
    | (extract_lets +onlyGivenNames x; refine Keeps.cut (a := a) (x := x) ?_ ?_; rotate_left; (intro hx; clear_value x); rotate_left; unfold x; clear x)
    | (extract_lets +onlyGivenNames x; clear_value x)
    | split

theorem keeps_collectLoss (h : Keeps a s) : Keeps a (State.collectLoss s d) := by
  unfold State.collectLoss
  repeat' first
    | with_reducible assumption
    | with_reducible apply Keeps.forEach
    | with_reducible apply keeps_redecide
    | with_reducible apply keeps_setBasket
    | with_reducible apply Keeps.ledIssue
    | with_reducible apply keeps_decideBasket
    | (with_reducible refine keeps_mk ?_ rfl rfl rfl rfl rfl rfl rfl; first | with_reducible assumption | with_reducible apply Keeps.forEach | with_reducible apply keeps_redecide | with_reducible apply keeps_setBasket | with_reducible apply Keeps.ledIssue | with_reducible apply keeps_decideBasket)
    | with_reducible apply Keeps.foldl
    | (intro _ _ _; try beta_reduce)
    | (intro _ _; try beta_reduce)
    | (extract_lets +onlyGivenNames x; refine Keeps.cut (a := a) (x := x) ?_ ?_; rotate_left; (intro hx; clear_value x); rotate_left; unfold x; clear x)
    | (extract_lets +onlyGivenNames x; clear_value x)
    | split

theorem keeps_dropUndecided (h : Keeps a s) : Keeps a (State.dropUndecided s) := by
  unfold State.dropUndecided
  repeat' first
    | with_reducible assumption
    | with_reducible apply Keeps.forEach
    | with_reducible apply keeps_setBasket
    | with_reducible apply keeps_dropSum
    | with_reducible apply keeps_setDieBasket
    | with_reducible apply keeps_unstage
    | with_reducible apply keeps_stage
    | (with_reducible refine keeps_mk ?_ rfl rfl rfl rfl rfl rfl rfl; first | with_reducible assumption | with_reducible apply Keeps.forEach | with_reducible apply keeps_setBasket | with_reducible apply keeps_dropSum | with_reducible apply keeps_setDieBasket | with_reducible apply keeps_unstage | with_reducible apply keeps_stage)
    | with_reducible apply Keeps.foldl
    | (intro _ _ _; try beta_reduce)
    | (intro _ _; try beta_reduce)
    | (extract_lets +onlyGivenNames x; refine Keeps.cut (a := a) (x := x) ?_ ?_; rotate_left; (intro hx; clear_value x); rotate_left; unfold x; clear x)
    | (extract_lets +onlyGivenNames x; clear_value x)
    | split

theorem keeps_basketsStep (h : Keeps a s) : Keeps a (State.basketsStep s) := by
  unfold State.basketsStep
  repeat' first
    | with_reducible assumption
    | with_reducible apply Keeps.forEach
    | with_reducible apply keeps_lateHist
    | with_reducible apply keeps_setBasket
    | with_reducible apply keeps_dropSum
    | with_reducible apply keeps_unstage
    | with_reducible apply keeps_setDieBasket
    | with_reducible apply keeps_stage
    | (with_reducible refine keeps_mk ?_ rfl rfl rfl rfl rfl rfl rfl; first | with_reducible assumption | with_reducible apply Keeps.forEach | with_reducible apply keeps_lateHist | with_reducible apply keeps_setBasket | with_reducible apply keeps_dropSum | with_reducible apply keeps_unstage | with_reducible apply keeps_setDieBasket | with_reducible apply keeps_stage)
    | with_reducible apply Keeps.foldl
    | (intro _ _ _; try beta_reduce)
    | (intro _ _; try beta_reduce)
    | (extract_lets +onlyGivenNames x; refine Keeps.cut (a := a) (x := x) ?_ ?_; rotate_left; (intro hx; clear_value x); rotate_left; unfold x; clear x)
    | (extract_lets +onlyGivenNames x; clear_value x)
    | split

theorem keeps_keepCursors (h : Keeps a s) : Keeps a (State.keepCursors s d) := by
  unfold State.keepCursors
  repeat' first
    | with_reducible assumption
    | with_reducible apply Keeps.forEach
    | with_reducible apply keeps_setDieBasket
    | (with_reducible refine keeps_mk ?_ rfl rfl rfl rfl rfl rfl rfl; first | with_reducible assumption | with_reducible apply Keeps.forEach | with_reducible apply keeps_setDieBasket)
    | with_reducible apply Keeps.foldl
    | (intro _ _ _; try beta_reduce)
    | (intro _ _; try beta_reduce)
    | (extract_lets +onlyGivenNames x; refine Keeps.cut (a := a) (x := x) ?_ ?_; rotate_left; (intro hx; clear_value x); rotate_left; unfold x; clear x)
    | (extract_lets +onlyGivenNames x; clear_value x)
    | split

theorem keeps_restoreCursors (h : Keeps a s) : Keeps a (State.restoreCursors s d) := by
  unfold State.restoreCursors
  repeat' first
    | with_reducible assumption
    | with_reducible apply Keeps.forEach
    | with_reducible apply keeps_setDieBasket
    | (with_reducible refine keeps_mk ?_ rfl rfl rfl rfl rfl rfl rfl; first | with_reducible assumption | with_reducible apply Keeps.forEach | with_reducible apply keeps_setDieBasket)
    | with_reducible apply Keeps.foldl
    | (intro _ _ _; try beta_reduce)
    | (intro _ _; try beta_reduce)
    | (extract_lets +onlyGivenNames x; refine Keeps.cut (a := a) (x := x) ?_ ?_; rotate_left; (intro hx; clear_value x); rotate_left; unfold x; clear x)
    | (extract_lets +onlyGivenNames x; clear_value x)
    | split

theorem keeps_meshServe (h : Keeps a s) : Keeps a (State.meshServe s d i n).1 := by
  unfold State.meshServe
  dsimp only
  split
  · split <;> exact h.update rfl rfl rfl rfl rfl rfl rfl
  · exact h.update rfl rfl rfl rfl rfl rfl rfl

end Sys2Proof.Machine
end

