-- ==== Sys2Proof/Laws/KeepFlowOps.lean ====
section
/-! SUPPORT. What the operations of Machine/FlowOps.lean keep (Laws/Keeps.lean). -/

namespace Sys2Proof.Machine

variable {a s : State}

theorem keeps_crossBuddy (h : Keeps a s) : Keeps a (State.crossBuddy s p v2 n) := by
  unfold State.crossBuddy
  repeat' first
    | with_reducible assumption
    | with_reducible apply keeps_waleTraffic
    | with_reducible apply Keeps.count
    | (with_reducible refine keeps_mk ?_ rfl rfl rfl rfl rfl rfl rfl; first | with_reducible assumption | with_reducible apply keeps_waleTraffic | with_reducible apply Keeps.count)
    | with_reducible apply Keeps.foldl
    | (intro _ _ _; try beta_reduce)
    | (intro _ _; try beta_reduce)
    | (extract_lets +onlyGivenNames x; refine Keeps.cut (a := a) (x := x) ?_ ?_; rotate_left; (intro hx; clear_value x); rotate_left; unfold x; clear x)
    | (extract_lets +onlyGivenNames x; clear_value x)
    | split

theorem keeps_putFrame (h : Keeps a s) : Keeps a (State.putFrame s f) := by
  unfold State.putFrame
  repeat' first
    | with_reducible assumption
    | with_reducible apply keeps_emit
    | with_reducible apply keeps_crossBuddy
    | (with_reducible refine keeps_mk ?_ rfl rfl rfl rfl rfl rfl rfl; first | with_reducible assumption | with_reducible apply keeps_emit | with_reducible apply keeps_crossBuddy)
    | with_reducible apply Keeps.foldl
    | (intro _ _ _; try beta_reduce)
    | (intro _ _; try beta_reduce)
    | (extract_lets +onlyGivenNames x; refine Keeps.cut (a := a) (x := x) ?_ ?_; rotate_left; (intro hx; clear_value x); rotate_left; unfold x; clear x)
    | (extract_lets +onlyGivenNames x; clear_value x)
    | split

theorem keeps_sendFrame (h : Keeps a s) : Keeps a (State.sendFrame s p v2 f) := by
  unfold State.sendFrame
  repeat' first
    | with_reducible assumption
    | with_reducible apply Keeps.count
    | with_reducible apply keeps_putFrame
    | (with_reducible refine keeps_mk ?_ rfl rfl rfl rfl rfl rfl rfl; first | with_reducible assumption | with_reducible apply Keeps.count | with_reducible apply keeps_putFrame)
    | with_reducible apply Keeps.foldl
    | (intro _ _ _; try beta_reduce)
    | (intro _ _; try beta_reduce)
    | (extract_lets +onlyGivenNames x; refine Keeps.cut (a := a) (x := x) ?_ ?_; rotate_left; (intro hx; clear_value x); rotate_left; unfold x; clear x)
    | (extract_lets +onlyGivenNames x; clear_value x)
    | split

theorem keeps_sendV0 (h : Keeps a s) : Keeps a (State.sendV0 s p f type body) := by
  unfold State.sendV0
  repeat' first
    | with_reducible assumption
    | with_reducible apply keeps_sendFrame
    | (with_reducible refine keeps_mk ?_ rfl rfl rfl rfl rfl rfl rfl; first | with_reducible assumption | with_reducible apply keeps_sendFrame)
    | with_reducible apply Keeps.foldl
    | (intro _ _ _; try beta_reduce)
    | (intro _ _; try beta_reduce)
    | (extract_lets +onlyGivenNames x; refine Keeps.cut (a := a) (x := x) ?_ ?_; rotate_left; (intro hx; clear_value x); rotate_left; unfold x; clear x)
    | (extract_lets +onlyGivenNames x; clear_value x)
    | split

theorem keeps_sendCredit (h : Keeps a s) : Keeps a (State.sendCredit s p f) := by
  unfold State.sendCredit
  repeat' first
    | with_reducible assumption
    | with_reducible apply keeps_sendV0
    | (with_reducible refine keeps_mk ?_ rfl rfl rfl rfl rfl rfl rfl; first | with_reducible assumption | with_reducible apply keeps_sendV0)
    | with_reducible apply Keeps.foldl
    | (intro _ _ _; try beta_reduce)
    | (intro _ _; try beta_reduce)
    | (extract_lets +onlyGivenNames x; refine Keeps.cut (a := a) (x := x) ?_ ?_; rotate_left; (intro hx; clear_value x); rotate_left; unfold x; clear x)
    | (extract_lets +onlyGivenNames x; clear_value x)
    | split

theorem keeps_sendClose (h : Keeps a s) : Keeps a (State.sendClose s p f reason) := by
  unfold State.sendClose
  repeat' first
    | with_reducible assumption
    | with_reducible apply keeps_sendV0
    | (with_reducible refine keeps_mk ?_ rfl rfl rfl rfl rfl rfl rfl; first | with_reducible assumption | with_reducible apply keeps_sendV0)
    | with_reducible apply Keeps.foldl
    | (intro _ _ _; try beta_reduce)
    | (intro _ _; try beta_reduce)
    | (extract_lets +onlyGivenNames x; refine Keeps.cut (a := a) (x := x) ?_ ?_; rotate_left; (intro hx; clear_value x); rotate_left; unfold x; clear x)
    | (extract_lets +onlyGivenNames x; clear_value x)
    | split

theorem keeps_sendOpen (h : Keeps a s) : Keeps a (State.sendOpen s p f) := by
  unfold State.sendOpen
  repeat' first
    | with_reducible assumption
    | with_reducible apply keeps_sendFrame
    | (with_reducible refine keeps_mk ?_ rfl rfl rfl rfl rfl rfl rfl; first | with_reducible assumption | with_reducible apply keeps_sendFrame)
    | with_reducible apply Keeps.foldl
    | (intro _ _ _; try beta_reduce)
    | (intro _ _; try beta_reduce)
    | (extract_lets +onlyGivenNames x; refine Keeps.cut (a := a) (x := x) ?_ ?_; rotate_left; (intro hx; clear_value x); rotate_left; unfold x; clear x)
    | (extract_lets +onlyGivenNames x; clear_value x)
    | split

theorem keeps_sendAccept (h : Keeps a s) : Keeps a (State.sendAccept s p f) := by
  unfold State.sendAccept
  repeat' first
    | with_reducible assumption
    | with_reducible apply keeps_sendV0
    | (with_reducible refine keeps_mk ?_ rfl rfl rfl rfl rfl rfl rfl; first | with_reducible assumption | with_reducible apply keeps_sendV0)
    | with_reducible apply Keeps.foldl
    | (intro _ _ _; try beta_reduce)
    | (intro _ _; try beta_reduce)
    | (extract_lets +onlyGivenNames x; refine Keeps.cut (a := a) (x := x) ?_ ?_; rotate_left; (intro hx; clear_value x); rotate_left; unfold x; clear x)
    | (extract_lets +onlyGivenNames x; clear_value x)
    | split

theorem keeps_sendKept (h : Keeps a s) : Keeps a (State.sendKept s p f k) := by
  unfold State.sendKept
  repeat' first
    | with_reducible assumption
    | with_reducible apply keeps_setFlow
    | with_reducible apply keeps_sendFrame
    | with_reducible apply keeps_setPort
    | with_reducible apply Keeps.count
    | (with_reducible refine keeps_mk ?_ rfl rfl rfl rfl rfl rfl rfl; first | with_reducible assumption | with_reducible apply keeps_setFlow | with_reducible apply keeps_sendFrame | with_reducible apply keeps_setPort | with_reducible apply Keeps.count)
    | with_reducible apply Keeps.foldl
    | (intro _ _ _; try beta_reduce)
    | (intro _ _; try beta_reduce)
    | (extract_lets +onlyGivenNames x; refine Keeps.cut (a := a) (x := x) ?_ ?_; rotate_left; (intro hx; clear_value x); rotate_left; unfold x; clear x)
    | (extract_lets +onlyGivenNames x; clear_value x)
    | split

theorem keeps_resend (h : Keeps a s) : Keeps a (State.resend s p f sel) := by
  unfold State.resend
  repeat' first
    | with_reducible assumption
    | with_reducible apply keeps_setFlow
    | with_reducible apply Keeps.count
    | with_reducible apply keeps_putFrame
    | (with_reducible refine keeps_mk ?_ rfl rfl rfl rfl rfl rfl rfl; first | with_reducible assumption | with_reducible apply keeps_setFlow | with_reducible apply Keeps.count | with_reducible apply keeps_putFrame)
    | with_reducible apply Keeps.foldl
    | (intro _ _ _; try beta_reduce)
    | (intro _ _; try beta_reduce)
    | (extract_lets +onlyGivenNames x; refine Keeps.cut (a := a) (x := x) ?_ ?_; rotate_left; (intro hx; clear_value x); rotate_left; unfold x; clear x)
    | (extract_lets +onlyGivenNames x; clear_value x)
    | split

theorem keeps_basketSent (h : Keeps a s) : Keeps a (State.basketSent s p) := by
  unfold State.basketSent
  repeat' first
    | with_reducible assumption
    | with_reducible apply Keeps.forEach
    | with_reducible apply keeps_freeNext
    | with_reducible apply keeps_peak
    | with_reducible apply keeps_poke
    | with_reducible apply keeps_setDieBasket
    | (with_reducible refine keeps_mk ?_ rfl rfl rfl rfl rfl rfl rfl; first | with_reducible assumption | with_reducible apply Keeps.forEach | with_reducible apply keeps_freeNext | with_reducible apply keeps_peak | with_reducible apply keeps_poke | with_reducible apply keeps_setDieBasket)
    | with_reducible apply Keeps.foldl
    | (intro _ _ _; try beta_reduce)
    | (intro _ _; try beta_reduce)
    | (extract_lets +onlyGivenNames x; refine Keeps.cut (a := a) (x := x) ?_ ?_; rotate_left; (intro hx; clear_value x); rotate_left; unfold x; clear x)
    | (extract_lets +onlyGivenNames x; clear_value x)
    | split

theorem keeps_streamsAcked (h : Keeps a s) : Keeps a (State.streamsAcked s p l) := by
  unfold State.streamsAcked
  repeat' first
    | with_reducible assumption
    | with_reducible apply Keeps.forEach
    | with_reducible apply keeps_completeXfer
    | (with_reducible refine keeps_mk ?_ rfl rfl rfl rfl rfl rfl rfl; first | with_reducible assumption | with_reducible apply Keeps.forEach | with_reducible apply keeps_completeXfer)
    | with_reducible apply Keeps.foldl
    | (intro _ _ _; try beta_reduce)
    | (intro _ _; try beta_reduce)
    | (extract_lets +onlyGivenNames x; refine Keeps.cut (a := a) (x := x) ?_ ?_; rotate_left; (intro hx; clear_value x); rotate_left; unfold x; clear x)
    | (extract_lets +onlyGivenNames x; clear_value x)
    | split

theorem keeps_dropKept (h : Keeps a s) : Keeps a (State.dropKept s p f gone rest) := by
  unfold State.dropKept
  repeat' first
    | with_reducible assumption
    | with_reducible apply keeps_setFlow
    | with_reducible apply keeps_setPort
    | (with_reducible refine keeps_mk ?_ rfl rfl rfl rfl rfl rfl rfl; first | with_reducible assumption | with_reducible apply keeps_setFlow | with_reducible apply keeps_setPort)
    | with_reducible apply Keeps.foldl
    | (intro _ _ _; try beta_reduce)
    | (intro _ _; try beta_reduce)
    | (extract_lets +onlyGivenNames x; refine Keeps.cut (a := a) (x := x) ?_ ?_; rotate_left; (intro hx; clear_value x); rotate_left; unfold x; clear x)
    | (extract_lets +onlyGivenNames x; clear_value x)
    | split

theorem keeps_takeAck (h : Keeps a s) : Keeps a (State.takeAck s p f v3) := by
  unfold State.takeAck
  repeat' first
    | with_reducible assumption
    | with_reducible apply Keeps.ledReturn
    | with_reducible apply keeps_dropKept
    | with_reducible apply keeps_setFlow
    | with_reducible apply keeps_basketSent
    | with_reducible apply keeps_streamsAcked
    | (with_reducible refine keeps_mk ?_ rfl rfl rfl rfl rfl rfl rfl; first | with_reducible assumption | with_reducible apply Keeps.ledReturn | with_reducible apply keeps_dropKept | with_reducible apply keeps_setFlow | with_reducible apply keeps_basketSent | with_reducible apply keeps_streamsAcked)
    | with_reducible apply Keeps.foldl
    | (intro _ _ _; try beta_reduce)
    | (intro _ _; try beta_reduce)
    | (extract_lets +onlyGivenNames x; refine Keeps.cut (a := a) (x := x) ?_ ?_; rotate_left; (intro hx; clear_value x); rotate_left; unfold x; clear x)
    | (extract_lets +onlyGivenNames x; clear_value x)
    | split

theorem keeps_takeLimit (h : Keeps a s) : Keeps a (State.takeLimit s p f l) := by
  unfold State.takeLimit
  repeat' first
    | with_reducible assumption
    | with_reducible apply Keeps.ledIssue
    | with_reducible apply keeps_setFlow
    | (with_reducible refine keeps_mk ?_ rfl rfl rfl rfl rfl rfl rfl; first | with_reducible assumption | with_reducible apply Keeps.ledIssue | with_reducible apply keeps_setFlow)
    | with_reducible apply Keeps.foldl
    | (intro _ _ _; try beta_reduce)
    | (intro _ _; try beta_reduce)
    | (extract_lets +onlyGivenNames x; refine Keeps.cut (a := a) (x := x) ?_ ?_; rotate_left; (intro hx; clear_value x); rotate_left; unfold x; clear x)
    | (extract_lets +onlyGivenNames x; clear_value x)
    | split

theorem keeps_grantFlow (h : Keeps a s) : Keeps a (State.grantFlow s p f n) := by
  unfold State.grantFlow
  repeat' first
    | with_reducible assumption
    | with_reducible apply Keeps.ledIssue
    | with_reducible apply keeps_setFlow
    | (with_reducible refine keeps_mk ?_ rfl rfl rfl rfl rfl rfl rfl; first | with_reducible assumption | with_reducible apply Keeps.ledIssue | with_reducible apply keeps_setFlow)
    | with_reducible apply Keeps.foldl
    | (intro _ _ _; try beta_reduce)
    | (intro _ _; try beta_reduce)
    | (extract_lets +onlyGivenNames x; refine Keeps.cut (a := a) (x := x) ?_ ?_; rotate_left; (intro hx; clear_value x); rotate_left; unfold x; clear x)
    | (extract_lets +onlyGivenNames x; clear_value x)
    | split

theorem keeps_rxAck (h : Keeps a s) : Keeps a (State.rxAck s p v2) := by
  unfold State.rxAck
  repeat' first
    | with_reducible assumption
    | with_reducible apply keeps_takeAck
    | (with_reducible refine keeps_mk ?_ rfl rfl rfl rfl rfl rfl rfl; first | with_reducible assumption | with_reducible apply keeps_takeAck)
    | with_reducible apply Keeps.foldl
    | (intro _ _ _; try beta_reduce)
    | (intro _ _; try beta_reduce)
    | (extract_lets +onlyGivenNames x; refine Keeps.cut (a := a) (x := x) ?_ ?_; rotate_left; (intro hx; clear_value x); rotate_left; unfold x; clear x)
    | (extract_lets +onlyGivenNames x; clear_value x)
    | split

theorem keeps_takeSeq (h : Keeps a s) : Keeps a (State.takeSeq s p f seq bytes) := by
  unfold State.takeSeq
  repeat' first
    | with_reducible assumption
    | with_reducible apply keeps_setFlow
    | with_reducible apply Keeps.ledReturn
    | (with_reducible refine keeps_mk ?_ rfl rfl rfl rfl rfl rfl rfl; first | with_reducible assumption | with_reducible apply keeps_setFlow | with_reducible apply Keeps.ledReturn)
    | with_reducible apply Keeps.foldl
    | (intro _ _ _; try beta_reduce)
    | (intro _ _; try beta_reduce)
    | (extract_lets +onlyGivenNames x; refine Keeps.cut (a := a) (x := x) ?_ ?_; rotate_left; (intro hx; clear_value x); rotate_left; unfold x; clear x)
    | (extract_lets +onlyGivenNames x; clear_value x)
    | split

theorem keeps_nackRanges (h : Keeps a s) : Keeps a (State.nackRanges s p f l) := by
  unfold State.nackRanges
  repeat' first
    | with_reducible assumption
    | with_reducible apply keeps_incSat
    | with_reducible apply keeps_sendV0
    | (with_reducible refine keeps_mk ?_ rfl rfl rfl rfl rfl rfl rfl; first | with_reducible assumption | with_reducible apply keeps_incSat | with_reducible apply keeps_sendV0)
    | with_reducible apply Keeps.foldl
    | (intro _ _ _; try beta_reduce)
    | (intro _ _; try beta_reduce)
    | (extract_lets +onlyGivenNames x; refine Keeps.cut (a := a) (x := x) ?_ ?_; rotate_left; (intro hx; clear_value x); rotate_left; unfold x; clear x)
    | (extract_lets +onlyGivenNames x; clear_value x)
    | split

theorem keeps_sendNack (h : Keeps a s) : Keeps a (State.sendNack s p f) := by
  unfold State.sendNack
  repeat' first
    | with_reducible assumption
    | with_reducible apply keeps_nackRanges
    | (with_reducible refine keeps_mk ?_ rfl rfl rfl rfl rfl rfl rfl; first | with_reducible assumption | with_reducible apply keeps_nackRanges)
    | with_reducible apply Keeps.foldl
    | (intro _ _ _; try beta_reduce)
    | (intro _ _; try beta_reduce)
    | (extract_lets +onlyGivenNames x; refine Keeps.cut (a := a) (x := x) ?_ ?_; rotate_left; (intro hx; clear_value x); rotate_left; unfold x; clear x)
    | (extract_lets +onlyGivenNames x; clear_value x)
    | split

theorem keeps_leaveFree (h : Keeps a s) : Keeps a (State.leaveFree s p f st peer ip udp pflow pgen) := by
  unfold State.leaveFree
  repeat' first
    | with_reducible assumption
    | with_reducible apply keeps_freeNext
    | with_reducible apply keeps_setFlow
    | (with_reducible refine keeps_mk ?_ rfl rfl rfl rfl rfl rfl rfl; first | with_reducible assumption | with_reducible apply keeps_freeNext | with_reducible apply keeps_setFlow)
    | with_reducible apply Keeps.foldl
    | (intro _ _ _; try beta_reduce)
    | (intro _ _; try beta_reduce)
    | (extract_lets +onlyGivenNames x; refine Keeps.cut (a := a) (x := x) ?_ ?_; rotate_left; (intro hx; clear_value x); rotate_left; unfold x; clear x)
    | (extract_lets +onlyGivenNames x; clear_value x)
    | split

theorem keeps_enterOpen (h : Keeps a s) : Keeps a (State.enterOpen s p f) := by
  unfold State.enterOpen
  repeat' first
    | with_reducible assumption
    | with_reducible apply Keeps.count
    | with_reducible apply keeps_setFlow
    | (with_reducible refine keeps_mk ?_ rfl rfl rfl rfl rfl rfl rfl; first | with_reducible assumption | with_reducible apply Keeps.count | with_reducible apply keeps_setFlow)
    | with_reducible apply Keeps.foldl
    | (intro _ _ _; try beta_reduce)
    | (intro _ _; try beta_reduce)
    | (extract_lets +onlyGivenNames x; refine Keeps.cut (a := a) (x := x) ?_ ?_; rotate_left; (intro hx; clear_value x); rotate_left; unfold x; clear x)
    | (extract_lets +onlyGivenNames x; clear_value x)
    | split

theorem keeps_openNow (h : Keeps a s) : Keeps a (State.openNow s p f) := by
  unfold State.openNow
  repeat' first
    | with_reducible assumption
    | with_reducible apply keeps_leaveFree
    | with_reducible apply keeps_setFlow
    | with_reducible apply keeps_sendOpen
    | (with_reducible refine keeps_mk ?_ rfl rfl rfl rfl rfl rfl rfl; first | with_reducible assumption | with_reducible apply keeps_leaveFree | with_reducible apply keeps_setFlow | with_reducible apply keeps_sendOpen)
    | with_reducible apply Keeps.foldl
    | (intro _ _ _; try beta_reduce)
    | (intro _ _; try beta_reduce)
    | (extract_lets +onlyGivenNames x; refine Keeps.cut (a := a) (x := x) ?_ ?_; rotate_left; (intro hx; clear_value x); rotate_left; unfold x; clear x)
    | (extract_lets +onlyGivenNames x; clear_value x)
    | split

theorem keeps_toFree (h : Keeps a s) : Keeps a (State.toFree s p f cause) := by
  unfold State.toFree
  repeat' first
    | with_reducible assumption
    | with_reducible apply keeps_dropKept
    | with_reducible apply keeps_setFlow
    | with_reducible apply keeps_reconcile
    | (with_reducible refine keeps_mk ?_ rfl rfl rfl rfl rfl rfl rfl; first | with_reducible assumption | with_reducible apply keeps_dropKept | with_reducible apply keeps_setFlow | with_reducible apply keeps_reconcile)
    | with_reducible apply Keeps.foldl
    | (intro _ _ _; try beta_reduce)
    | (intro _ _; try beta_reduce)
    | (extract_lets +onlyGivenNames x; refine Keeps.cut (a := a) (x := x) ?_ ?_; rotate_left; (intro hx; clear_value x); rotate_left; unfold x; clear x)
    | (extract_lets +onlyGivenNames x; clear_value x)
    | split

theorem keeps_reconcile (h : Keeps a s) : Keeps a (State.reconcile s p f) := by
  unfold State.reconcile
  repeat' first
    | with_reducible assumption
    | with_reducible apply keeps_takeLimit
    | with_reducible apply Keeps.ledReturn
    | with_reducible apply keeps_toFree
    | with_reducible apply Keeps.count
    | (with_reducible refine keeps_mk ?_ rfl rfl rfl rfl rfl rfl rfl; first | with_reducible assumption | with_reducible apply keeps_takeLimit | with_reducible apply Keeps.ledReturn | with_reducible apply keeps_toFree | with_reducible apply Keeps.count)
    | with_reducible apply Keeps.foldl
    | (intro _ _ _; try beta_reduce)
    | (intro _ _; try beta_reduce)
    | (extract_lets +onlyGivenNames x; refine Keeps.cut (a := a) (x := x) ?_ ?_; rotate_left; (intro hx; clear_value x); rotate_left; unfold x; clear x)
    | (extract_lets +onlyGivenNames x; clear_value x)
    | split

theorem keeps_closeSlot (h : Keeps a s) : Keeps a (State.closeSlot s p f reason cause) := by
  unfold State.closeSlot
  repeat' first
    | with_reducible assumption
    | with_reducible apply keeps_setFlow
    | with_reducible apply keeps_sendClose
    | (with_reducible refine keeps_mk ?_ rfl rfl rfl rfl rfl rfl rfl; first | with_reducible assumption | with_reducible apply keeps_setFlow | with_reducible apply keeps_sendClose)
    | with_reducible apply Keeps.foldl
    | (intro _ _ _; try beta_reduce)
    | (intro _ _; try beta_reduce)
    | (extract_lets +onlyGivenNames x; refine Keeps.cut (a := a) (x := x) ?_ ?_; rotate_left; (intro hx; clear_value x); rotate_left; unfold x; clear x)
    | (extract_lets +onlyGivenNames x; clear_value x)
    | split

theorem keeps_writeOff (h : Keeps a s) : Keeps a (State.writeOff s p f) := by
  unfold State.writeOff
  repeat' first
    | with_reducible assumption
    | with_reducible apply Keeps.ledWoff
    | with_reducible apply keeps_poke
    | with_reducible apply keeps_toFree
    | with_reducible apply Keeps.count
    | with_reducible apply keeps_raise
    | (with_reducible refine keeps_mk ?_ rfl rfl rfl rfl rfl rfl rfl; first | with_reducible assumption | with_reducible apply Keeps.ledWoff | with_reducible apply keeps_poke | with_reducible apply keeps_toFree | with_reducible apply Keeps.count | with_reducible apply keeps_raise)
    | with_reducible apply Keeps.foldl
    | (intro _ _ _; try beta_reduce)
    | (intro _ _; try beta_reduce)
    | (extract_lets +onlyGivenNames x; refine Keeps.cut (a := a) (x := x) ?_ ?_; rotate_left; (intro hx; clear_value x); rotate_left; unfold x; clear x)
    | (extract_lets +onlyGivenNames x; clear_value x)
    | split

end Sys2Proof.Machine
end

