-- ==== Sys2Proof/Laws/KeepFetchOps.lean ====
section
/-! SUPPORT. What the operations of Machine/FetchOps.lean keep (Laws/Keeps.lean). -/

namespace Sys2Proof.Machine

variable {a s : State}

theorem keeps_fetchBegin (h : Keeps a s) : Keeps a (State.fetchBegin s d e) := by
  unfold State.fetchBegin
  repeat' first
    | with_reducible assumption
    | with_reducible apply keeps_setFetch
    | with_reducible apply keeps_resume
    | (with_reducible refine keeps_mk ?_ rfl rfl rfl rfl rfl rfl rfl; first | with_reducible assumption | with_reducible apply keeps_setFetch | with_reducible apply keeps_resume)
    | with_reducible apply Keeps.foldl
    | (intro _ _ _; try beta_reduce)
    | (intro _ _; try beta_reduce)
    | (extract_lets +onlyGivenNames x; refine Keeps.cut (a := a) (x := x) ?_ ?_; rotate_left; (intro hx; clear_value x); rotate_left; unfold x; clear x)
    | (extract_lets +onlyGivenNames x; clear_value x)
    | split

theorem keeps_fetchGrant (h : Keeps a s) : Keeps a (State.fetchGrant s d e) := by
  unfold State.fetchGrant
  repeat' first
    | with_reducible assumption
    | with_reducible apply keeps_fetchBegin
    | with_reducible apply keeps_grantFlow
    | with_reducible apply keeps_setFetch
    | (with_reducible refine keeps_mk ?_ rfl rfl rfl rfl rfl rfl rfl; first | with_reducible assumption | with_reducible apply keeps_fetchBegin | with_reducible apply keeps_grantFlow | with_reducible apply keeps_setFetch)
    | with_reducible apply Keeps.foldl
    | (intro _ _ _; try beta_reduce)
    | (intro _ _; try beta_reduce)
    | (extract_lets +onlyGivenNames x; refine Keeps.cut (a := a) (x := x) ?_ ?_; rotate_left; (intro hx; clear_value x); rotate_left; unfold x; clear x)
    | (extract_lets +onlyGivenNames x; clear_value x)
    | split

theorem keeps_dropIngest (h : Keeps a s) : Keeps a (State.dropIngest s d e) := by
  unfold State.dropIngest
  repeat' first
    | with_reducible assumption
    | with_reducible apply keeps_setIngest
    | (with_reducible refine keeps_mk ?_ rfl rfl rfl rfl rfl rfl rfl; first | with_reducible assumption | with_reducible apply keeps_setIngest)
    | with_reducible apply Keeps.foldl
    | (intro _ _ _; try beta_reduce)
    | (intro _ _; try beta_reduce)
    | (extract_lets +onlyGivenNames x; refine Keeps.cut (a := a) (x := x) ?_ ?_; rotate_left; (intro hx; clear_value x); rotate_left; unfold x; clear x)
    | (extract_lets +onlyGivenNames x; clear_value x)
    | split

theorem keeps_noteFail (h : Keeps a s) : Keeps a (State.noteFail s d e cause off) := by
  unfold State.noteFail
  repeat' first
    | with_reducible assumption
    | with_reducible apply keeps_poke
    | with_reducible apply keeps_breach
    | (with_reducible refine keeps_mk ?_ rfl rfl rfl rfl rfl rfl rfl; first | with_reducible assumption | with_reducible apply keeps_poke | with_reducible apply keeps_breach)
    | with_reducible apply Keeps.foldl
    | (intro _ _ _; try beta_reduce)
    | (intro _ _; try beta_reduce)
    | (extract_lets +onlyGivenNames x; refine Keeps.cut (a := a) (x := x) ?_ ?_; rotate_left; (intro hx; clear_value x); rotate_left; unfold x; clear x)
    | (extract_lets +onlyGivenNames x; clear_value x)
    | split

theorem keeps_fetchLost (h : Keeps a s) : Keeps a (State.fetchLost s d e) := by
  unfold State.fetchLost
  repeat' first
    | with_reducible assumption
    | with_reducible apply keeps_dropIngest
    | with_reducible apply keeps_setFetch
    | with_reducible apply keeps_breach
    | (with_reducible refine keeps_mk ?_ rfl rfl rfl rfl rfl rfl rfl; first | with_reducible assumption | with_reducible apply keeps_dropIngest | with_reducible apply keeps_setFetch | with_reducible apply keeps_breach)
    | with_reducible apply Keeps.foldl
    | (intro _ _ _; try beta_reduce)
    | (intro _ _; try beta_reduce)
    | (extract_lets +onlyGivenNames x; refine Keeps.cut (a := a) (x := x) ?_ ?_; rotate_left; (intro hx; clear_value x); rotate_left; unfold x; clear x)
    | (extract_lets +onlyGivenNames x; clear_value x)
    | split

theorem keeps_fetchEnd (h : Keeps a s) : Keeps a (State.fetchEnd s d e) := by
  unfold State.fetchEnd
  repeat' first
    | with_reducible assumption
    | with_reducible apply keeps_setFetch
    | with_reducible apply keeps_resume
    | (with_reducible refine keeps_mk ?_ rfl rfl rfl rfl rfl rfl rfl; first | with_reducible assumption | with_reducible apply keeps_setFetch | with_reducible apply keeps_resume)
    | with_reducible apply Keeps.foldl
    | (intro _ _ _; try beta_reduce)
    | (intro _ _; try beta_reduce)
    | (extract_lets +onlyGivenNames x; refine Keeps.cut (a := a) (x := x) ?_ ?_; rotate_left; (intro hx; clear_value x); rotate_left; unfold x; clear x)
    | (extract_lets +onlyGivenNames x; clear_value x)
    | split

theorem keeps_fetchComplete (h : Keeps a s) : Keeps a (State.fetchComplete s d e ok) := by
  unfold State.fetchComplete
  repeat' first
    | with_reducible assumption
    | with_reducible apply keeps_fetchEnd
    | with_reducible apply keeps_completeXfer
    | with_reducible apply keepsO_ok
    | (with_reducible refine keeps_mk ?_ rfl rfl rfl rfl rfl rfl rfl; first | with_reducible assumption | with_reducible apply keeps_fetchEnd | with_reducible apply keeps_completeXfer | with_reducible apply keepsO_ok)
    | with_reducible apply Keeps.foldl
    | (intro _ _ _; try beta_reduce)
    | (intro _ _; try beta_reduce)
    | (extract_lets +onlyGivenNames x; refine Keeps.cut (a := a) (x := x) ?_ ?_; rotate_left; (intro hx; clear_value x); rotate_left; unfold x; clear x)
    | (extract_lets +onlyGivenNames x; clear_value x)
    | split

theorem keeps_fetchWrite (h : Keeps a s) : Keeps a (State.fetchWrite s d e o l) := by
  unfold State.fetchWrite
  repeat' first
    | with_reducible assumption
    | with_reducible apply keeps_storeWords
    | with_reducible apply keeps_fetchComplete
    | with_reducible apply keeps_setFetch
    | (with_reducible refine keeps_mk ?_ rfl rfl rfl rfl rfl rfl rfl; first | with_reducible assumption | with_reducible apply keeps_storeWords | with_reducible apply keeps_fetchComplete | with_reducible apply keeps_setFetch)
    | with_reducible apply Keeps.foldl
    | (intro _ _ _; try beta_reduce)
    | (intro _ _; try beta_reduce)
    | (extract_lets +onlyGivenNames x; refine Keeps.cut (a := a) (x := x) ?_ ?_; rotate_left; (intro hx; clear_value x); rotate_left; unfold x; clear x)
    | (extract_lets +onlyGivenNames x; clear_value x)
    | split

theorem keeps_fetchCopy (h : Keeps a s) : Keeps a (State.fetchCopy s d e n v4 o len) := by
  unfold State.fetchCopy
  repeat' first
    | with_reducible assumption
    | with_reducible apply keeps_noteReads
    | with_reducible apply keeps_waleTraffic
    | with_reducible apply keeps_incSat
    | with_reducible apply keeps_fetchWrite
    | with_reducible apply Keeps.count
    | (with_reducible refine keeps_mk ?_ rfl rfl rfl rfl rfl rfl rfl; first | with_reducible assumption | with_reducible apply keeps_noteReads | with_reducible apply keeps_waleTraffic | with_reducible apply keeps_incSat | with_reducible apply keeps_fetchWrite | with_reducible apply Keeps.count)
    | with_reducible apply Keeps.foldl
    | (intro _ _ _; try beta_reduce)
    | (intro _ _; try beta_reduce)
    | (extract_lets +onlyGivenNames x; refine Keeps.cut (a := a) (x := x) ?_ ?_; rotate_left; (intro hx; clear_value x); rotate_left; unfold x; clear x)
    | (extract_lets +onlyGivenNames x; clear_value x)
    | split

theorem keeps_failWalk (h : Keeps a s) : Keeps a (State.failWalk s d e cause o len) := by
  unfold State.failWalk
  repeat' first
    | with_reducible assumption
    | with_reducible apply keeps_setFetch
    | with_reducible apply keeps_noteFail
    | with_reducible apply keeps_fetchLost
    | with_reducible apply keeps_fetchCopy
    | with_reducible apply keeps_incSat
    | (with_reducible refine keeps_mk ?_ rfl rfl rfl rfl rfl rfl rfl; first | with_reducible assumption | with_reducible apply keeps_setFetch | with_reducible apply keeps_noteFail | with_reducible apply keeps_fetchLost | with_reducible apply keeps_fetchCopy | with_reducible apply keeps_incSat)
    | with_reducible apply Keeps.foldl
    | (intro _ _ _; try beta_reduce)
    | (intro _ _; try beta_reduce)
    | (extract_lets +onlyGivenNames x; refine Keeps.cut (a := a) (x := x) ?_ ?_; rotate_left; (intro hx; clear_value x); rotate_left; unfold x; clear x)
    | (extract_lets +onlyGivenNames x; clear_value x)
    | split

theorem keeps_failFlow (h : Keeps a s) : Keeps a (State.failFlow s d fl cause) := by
  unfold State.failFlow
  repeat' first
    | with_reducible assumption
    | with_reducible apply Keeps.forEach
    | with_reducible apply keeps_failWalk
    | (with_reducible refine keeps_mk ?_ rfl rfl rfl rfl rfl rfl rfl; first | with_reducible assumption | with_reducible apply Keeps.forEach | with_reducible apply keeps_failWalk)
    | with_reducible apply Keeps.foldl
    | (intro _ _ _; try beta_reduce)
    | (intro _ _; try beta_reduce)
    | (extract_lets +onlyGivenNames x; refine Keeps.cut (a := a) (x := x) ?_ ?_; rotate_left; (intro hx; clear_value x); rotate_left; unfold x; clear x)
    | (extract_lets +onlyGivenNames x; clear_value x)
    | split

theorem keeps_ingestBand (h : Keeps a s) : Keeps a (State.ingestBand s d e band) := by
  unfold State.ingestBand
  repeat' first
    | with_reducible assumption
    | with_reducible apply keeps_storeWords
    | with_reducible apply keeps_setFetch
    | with_reducible apply Keeps.count
    | with_reducible apply keeps_incSat
    | with_reducible apply keeps_fetchComplete
    | with_reducible apply keeps_poke
    | (with_reducible refine keeps_mk ?_ rfl rfl rfl rfl rfl rfl rfl; first | with_reducible assumption | with_reducible apply keeps_storeWords | with_reducible apply keeps_setFetch | with_reducible apply Keeps.count | with_reducible apply keeps_incSat | with_reducible apply keeps_fetchComplete | with_reducible apply keeps_poke)
    | with_reducible apply Keeps.foldl
    | (intro _ _ _; try beta_reduce)
    | (intro _ _; try beta_reduce)
    | (extract_lets +onlyGivenNames x; refine Keeps.cut (a := a) (x := x) ?_ ?_; rotate_left; (intro hx; clear_value x); rotate_left; unfold x; clear x)
    | (extract_lets +onlyGivenNames x; clear_value x)
    | split

theorem keeps_placeBand (h : Keeps a s) {t : State} (e : State.placeBand s d = some t) : Keeps a t := by
  unfold State.placeBand at e
  extract_lets g at e
  split at e
  · cases e
  · extract_lets n o at e
    clear_value n o
    split at e
    · cases e
      exact keeps_setIngest h
    · split at e
      · cases e
      · cases e
        exact keeps_setIngest h

theorem keeps_ingestPump (h : Keeps a s) : Keeps a (State.ingestPump s d fuel) := by
  induction fuel generalizing s with
  | zero => exact h
  | succ k ih =>
    simp only [State.ingestPump]
    split
    · exact ih (keeps_ingestBand (keeps_setIngest h))
    · split
      · rename_i t e
        exact ih (keeps_placeBand h e)
      · exact h

theorem keeps_ingestRun (h : Keeps a s) : Keeps a (State.ingestRun s d) := by
  unfold State.ingestRun
  repeat' first
    | with_reducible assumption
    | with_reducible apply keeps_ingestPump
    | (with_reducible refine keeps_mk ?_ rfl rfl rfl rfl rfl rfl rfl; first | with_reducible assumption | with_reducible apply keeps_ingestPump)
    | with_reducible apply Keeps.foldl
    | (intro _ _ _; try beta_reduce)
    | (intro _ _; try beta_reduce)
    | (extract_lets +onlyGivenNames x; refine Keeps.cut (a := a) (x := x) ?_ ?_; rotate_left; (intro hx; clear_value x); rotate_left; unfold x; clear x)
    | (extract_lets +onlyGivenNames x; clear_value x)
    | split

theorem keeps_feed (h : Keeps a s) : Keeps a (State.feed s d e l) := by
  unfold State.feed
  repeat' first
    | with_reducible assumption
    | with_reducible apply Keeps.count
    | with_reducible apply keeps_setFetch
    | with_reducible apply keeps_ingestRun
    | with_reducible apply keeps_setIngest
    | (with_reducible refine keeps_mk ?_ rfl rfl rfl rfl rfl rfl rfl; first | with_reducible assumption | with_reducible apply Keeps.count | with_reducible apply keeps_setFetch | with_reducible apply keeps_ingestRun | with_reducible apply keeps_setIngest)
    | with_reducible apply Keeps.foldl
    | (intro _ _ _; try beta_reduce)
    | (intro _ _; try beta_reduce)
    | (extract_lets +onlyGivenNames x; refine Keeps.cut (a := a) (x := x) ?_ ?_; rotate_left; (intro hx; clear_value x); rotate_left; unfold x; clear x)
    | (extract_lets +onlyGivenNames x; clear_value x)
    | split

theorem keeps_fetchIssue (h : Keeps a s) : Keeps a (State.fetchIssue s d e) := by
  unfold State.fetchIssue
  repeat' first
    | with_reducible assumption
    | with_reducible apply keeps_ingestRun
    | with_reducible apply keeps_fetchGrant
    | (with_reducible refine keeps_mk ?_ rfl rfl rfl rfl rfl rfl rfl; first | with_reducible assumption | with_reducible apply keeps_ingestRun | with_reducible apply keeps_fetchGrant)
    | with_reducible apply Keeps.foldl
    | (intro _ _ _; try beta_reduce)
    | (intro _ _; try beta_reduce)
    | (extract_lets +onlyGivenNames x; refine Keeps.cut (a := a) (x := x) ?_ ?_; rotate_left; (intro hx; clear_value x); rotate_left; unfold x; clear x)
    | (extract_lets +onlyGivenNames x; clear_value x)
    | split

theorem keeps_takePacked (h : Keeps a s) : Keeps a (State.takePacked s d e o enc l) := by
  unfold State.takePacked
  repeat' first
    | with_reducible assumption
    | with_reducible apply keeps_failWalk
    | with_reducible apply keeps_incSat
    | with_reducible apply keeps_setFetch
    | with_reducible apply keeps_feed
    | (with_reducible refine keeps_mk ?_ rfl rfl rfl rfl rfl rfl rfl; first | with_reducible assumption | with_reducible apply keeps_failWalk | with_reducible apply keeps_incSat | with_reducible apply keeps_setFetch | with_reducible apply keeps_feed)
    | with_reducible apply Keeps.foldl
    | (intro _ _ _; try beta_reduce)
    | (intro _ _; try beta_reduce)
    | (extract_lets +onlyGivenNames x; refine Keeps.cut (a := a) (x := x) ?_ ?_; rotate_left; (intro hx; clear_value x); rotate_left; unfold x; clear x)
    | (extract_lets +onlyGivenNames x; clear_value x)
    | split

theorem keeps_stale (h : Keeps a s) : Keeps a (State.stale s d) := by
  unfold State.stale
  repeat' first
    | with_reducible assumption
    | with_reducible apply Keeps.count
    | with_reducible apply keeps_incSat
    | (with_reducible refine keeps_mk ?_ rfl rfl rfl rfl rfl rfl rfl; first | with_reducible assumption | with_reducible apply Keeps.count | with_reducible apply keeps_incSat)
    | with_reducible apply Keeps.foldl
    | (intro _ _ _; try beta_reduce)
    | (intro _ _; try beta_reduce)
    | (extract_lets +onlyGivenNames x; refine Keeps.cut (a := a) (x := x) ?_ ?_; rotate_left; (intro hx; clear_value x); rotate_left; unfold x; clear x)
    | (extract_lets +onlyGivenNames x; clear_value x)
    | split

theorem keeps_takeWeight (h : Keeps a s) : Keeps a (State.takeWeight s d v2 w) := by
  unfold State.takeWeight
  repeat' first
    | with_reducible assumption
    | with_reducible apply keeps_stale
    | with_reducible apply keeps_failWalk
    | with_reducible apply keeps_incSat
    | with_reducible apply keeps_setFetch
    | with_reducible apply Keeps.count
    | with_reducible apply keeps_fetchWrite
    | with_reducible apply keeps_takePacked
    | with_reducible apply keeps_feed
    | (with_reducible refine keeps_mk ?_ rfl rfl rfl rfl rfl rfl rfl; first | with_reducible assumption | with_reducible apply keeps_stale | with_reducible apply keeps_failWalk | with_reducible apply keeps_incSat | with_reducible apply keeps_setFetch | with_reducible apply Keeps.count | with_reducible apply keeps_fetchWrite | with_reducible apply keeps_takePacked | with_reducible apply keeps_feed)
    | with_reducible apply Keeps.foldl
    | (intro _ _ _; try beta_reduce)
    | (intro _ _; try beta_reduce)
    | (extract_lets +onlyGivenNames x; refine Keeps.cut (a := a) (x := x) ?_ ?_; rotate_left; (intro hx; clear_value x); rotate_left; unfold x; clear x)
    | (extract_lets +onlyGivenNames x; clear_value x)
    | split

theorem keeps_fetchStep (h : Keeps a s) : Keeps a (State.fetchStep s d fresh) := by
  unfold State.fetchStep
  repeat' first
    | with_reducible assumption
    | with_reducible apply Keeps.forEach
    | with_reducible apply keeps_setIngest
    | with_reducible apply keeps_setFetch
    | (with_reducible refine keeps_mk ?_ rfl rfl rfl rfl rfl rfl rfl; first | with_reducible assumption | with_reducible apply Keeps.forEach | with_reducible apply keeps_setIngest | with_reducible apply keeps_setFetch)
    | with_reducible apply Keeps.foldl
    | (intro _ _ _; try beta_reduce)
    | (intro _ _; try beta_reduce)
    | (extract_lets +onlyGivenNames x; refine Keeps.cut (a := a) (x := x) ?_ ?_; rotate_left; (intro hx; clear_value x); rotate_left; unfold x; clear x)
    | (extract_lets +onlyGivenNames x; clear_value x)
    | split

theorem keeps_fetchAbandon (h : Keeps a s) : Keeps a (State.fetchAbandon s d asleep) := by
  unfold State.fetchAbandon
  repeat' first
    | with_reducible assumption
    | with_reducible apply Keeps.forEach
    | with_reducible apply keeps_setIngest
    | with_reducible apply keeps_setFetch
    | (with_reducible refine keeps_mk ?_ rfl rfl rfl rfl rfl rfl rfl; first | with_reducible assumption | with_reducible apply Keeps.forEach | with_reducible apply keeps_setIngest | with_reducible apply keeps_setFetch)
    | with_reducible apply Keeps.foldl
    | (intro _ _ _; try beta_reduce)
    | (intro _ _; try beta_reduce)
    | (extract_lets +onlyGivenNames x; refine Keeps.cut (a := a) (x := x) ?_ ?_; rotate_left; (intro hx; clear_value x); rotate_left; unfold x; clear x)
    | (extract_lets +onlyGivenNames x; clear_value x)
    | split

theorem keeps_fetchRestore (h : Keeps a s) : Keeps a (State.fetchRestore s d e n i) := by
  unfold State.fetchRestore
  repeat' first
    | with_reducible assumption
    | with_reducible apply keeps_setFetch
    | with_reducible apply keeps_resume
    | (with_reducible refine keeps_mk ?_ rfl rfl rfl rfl rfl rfl rfl; first | with_reducible assumption | with_reducible apply keeps_setFetch | with_reducible apply keeps_resume)
    | with_reducible apply Keeps.foldl
    | (intro _ _ _; try beta_reduce)
    | (intro _ _; try beta_reduce)
    | (extract_lets +onlyGivenNames x; refine Keeps.cut (a := a) (x := x) ?_ ?_; rotate_left; (intro hx; clear_value x); rotate_left; unfold x; clear x)
    | (extract_lets +onlyGivenNames x; clear_value x)
    | split

end Sys2Proof.Machine
end

