-- ==== Sys2Proof/Laws/KeepBundleOps.lean ====
section
/-! SUPPORT. What the operations of Machine/BundleOps.lean keep (Laws/Keeps.lean). -/

namespace Sys2Proof.Machine

variable {a s : State}

theorem keeps_stage (h : Keeps a s) : Keeps a (State.stage s w) := by
  unfold State.stage
  repeat' first
    | with_reducible assumption
    | with_reducible apply keeps_setBctx
    | with_reducible apply keeps_incSat
    | (with_reducible refine keeps_mk ?_ rfl rfl rfl rfl rfl rfl rfl; first | with_reducible assumption | with_reducible apply keeps_setBctx | with_reducible apply keeps_incSat)
    | with_reducible apply Keeps.foldl
    | (intro _ _ _; try beta_reduce)
    | (intro _ _; try beta_reduce)
    | (extract_lets +onlyGivenNames x; refine Keeps.cut (a := a) (x := x) ?_ ?_; rotate_left; (intro hx; clear_value x); rotate_left; unfold x; clear x)
    | (extract_lets +onlyGivenNames x; subst x)
    | split

theorem keeps_withPath (h : Keeps a s) : Keeps a (State.withPath s l) := by
  unfold State.withPath
  repeat' first
    | with_reducible assumption
    | with_reducible apply keeps_poke
    | (with_reducible refine keeps_mk ?_ rfl rfl rfl rfl rfl rfl rfl; first | with_reducible assumption | with_reducible apply keeps_poke)
    | with_reducible apply Keeps.foldl
    | (intro _ _ _; try beta_reduce)
    | (intro _ _; try beta_reduce)
    | (extract_lets +onlyGivenNames x; refine Keeps.cut (a := a) (x := x) ?_ ?_; rotate_left; (intro hx; clear_value x); rotate_left; unfold x; clear x)
    | (extract_lets +onlyGivenNames x; subst x)
    | split

theorem keeps_pathCommitted (h : Keeps a s) : Keeps a (State.pathCommitted s) := by
  unfold State.pathCommitted
  repeat' first
    | with_reducible assumption
    | (with_reducible refine keeps_mk ?_ rfl rfl rfl rfl rfl rfl rfl; first | with_reducible assumption)
    | with_reducible apply Keeps.foldl
    | (intro _ _ _; try beta_reduce)
    | (intro _ _; try beta_reduce)
    | (extract_lets +onlyGivenNames x; refine Keeps.cut (a := a) (x := x) ?_ ?_; rotate_left; (intro hx; clear_value x); rotate_left; unfold x; clear x)
    | (extract_lets +onlyGivenNames x; subst x)
    | split

theorem keeps_applyStaged (h : Keeps a s) : Keeps a (State.applyStaged s w) := by
  unfold State.applyStaged
  repeat' first
    | with_reducible assumption
    | with_reducible apply keeps_setFlow
    | with_reducible apply keeps_poke
    | with_reducible apply keeps_setSlot
    | (with_reducible refine keeps_mk ?_ rfl rfl rfl rfl rfl rfl rfl; first | with_reducible assumption | with_reducible apply keeps_setFlow | with_reducible apply keeps_poke | with_reducible apply keeps_setSlot)
    | with_reducible apply Keeps.foldl
    | (intro _ _ _; try beta_reduce)
    | (intro _ _; try beta_reduce)
    | (extract_lets +onlyGivenNames x; refine Keeps.cut (a := a) (x := x) ?_ ?_; rotate_left; (intro hx; clear_value x); rotate_left; unfold x; clear x)
    | (extract_lets +onlyGivenNames x; subst x)
    | split

theorem keeps_applyPart (h : Keeps a s) : Keeps a (State.applyPart s v1 p) := by
  unfold State.applyPart
  repeat' first
    | with_reducible assumption
    | with_reducible apply Keeps.count
    | with_reducible apply keeps_applyStaged
    | with_reducible apply keeps_hold
    | (with_reducible refine keeps_mk ?_ rfl rfl rfl rfl rfl rfl rfl; first | with_reducible assumption | with_reducible apply Keeps.count | with_reducible apply keeps_applyStaged | with_reducible apply keeps_hold)
    | with_reducible apply Keeps.foldl
    | (intro _ _ _; try beta_reduce)
    | (intro _ _; try beta_reduce)
    | (extract_lets +onlyGivenNames x; refine Keeps.cut (a := a) (x := x) ?_ ?_; rotate_left; (intro hx; clear_value x); rotate_left; unfold x; clear x)
    | (extract_lets +onlyGivenNames x; subst x)
    | split

theorem keeps_holdPeak (h : Keeps a s) : Keeps a (State.holdPeak s p held) := by
  unfold State.holdPeak
  repeat' first
    | with_reducible assumption
    | with_reducible apply keeps_freeNext
    | with_reducible apply keeps_peak
    | (with_reducible refine keeps_mk ?_ rfl rfl rfl rfl rfl rfl rfl; first | with_reducible assumption | with_reducible apply keeps_freeNext | with_reducible apply keeps_peak)
    | with_reducible apply Keeps.foldl
    | (intro _ _ _; try beta_reduce)
    | (intro _ _; try beta_reduce)
    | (extract_lets +onlyGivenNames x; refine Keeps.cut (a := a) (x := x) ?_ ?_; rotate_left; (intro hx; clear_value x); rotate_left; unfold x; clear x)
    | (extract_lets +onlyGivenNames x; subst x)
    | split

theorem keeps_setSlotState (h : Keeps a s) : Keeps a (State.setSlotState s d p v) := by
  unfold State.setSlotState
  repeat' first
    | with_reducible assumption
    | with_reducible apply keeps_setQuarter
    | with_reducible apply keeps_remap
    | (with_reducible refine keeps_mk ?_ rfl rfl rfl rfl rfl rfl rfl; first | with_reducible assumption | with_reducible apply keeps_setQuarter | with_reducible apply keeps_remap)
    | with_reducible apply Keeps.foldl
    | (intro _ _ _; try beta_reduce)
    | (intro _ _; try beta_reduce)
    | (extract_lets +onlyGivenNames x; refine Keeps.cut (a := a) (x := x) ?_ ?_; rotate_left; (intro hx; clear_value x); rotate_left; unfold x; clear x)
    | (extract_lets +onlyGivenNames x; subst x)
    | split

theorem keeps_copySlot (h : Keeps a s) : Keeps a (State.copySlot s d old new) := by
  unfold State.copySlot
  repeat' first
    | with_reducible assumption
    | with_reducible apply keeps_noteReads
    | with_reducible apply Keeps.putWord
    | with_reducible apply keeps_zeroSlot
    | (with_reducible refine keeps_mk ?_ rfl rfl rfl rfl rfl rfl rfl; first | with_reducible assumption | with_reducible apply keeps_noteReads | with_reducible apply Keeps.putWord | with_reducible apply keeps_zeroSlot)
    | with_reducible apply Keeps.foldl
    | (intro _ _ _; try beta_reduce)
    | (intro _ _; try beta_reduce)
    | (extract_lets +onlyGivenNames x; refine Keeps.cut (a := a) (x := x) ?_ ?_; rotate_left; (intro hx; clear_value x); rotate_left; unfold x; clear x)
    | (extract_lets +onlyGivenNames x; subst x)
    | split

theorem keeps_moveReqs (h : Keeps a s) : Keeps a (State.moveReqs s d old new) := by
  unfold State.moveReqs
  repeat' first
    | with_reducible assumption
    | (with_reducible refine keeps_mk ?_ rfl rfl rfl rfl rfl rfl rfl; first | with_reducible assumption)
    | with_reducible apply Keeps.foldl
    | (intro _ _ _; try beta_reduce)
    | (intro _ _; try beta_reduce)
    | (extract_lets +onlyGivenNames x; refine Keeps.cut (a := a) (x := x) ?_ ?_; rotate_left; (intro hx; clear_value x); rotate_left; unfold x; clear x)
    | (extract_lets +onlyGivenNames x; subst x)
    | split

theorem keeps_moveSlot (h : Keeps a s) : Keeps a (State.moveSlot s d l new left) := by
  unfold State.moveSlot
  repeat' first
    | with_reducible assumption
    | with_reducible apply keeps_copySlot
    | with_reducible apply keeps_poke
    | with_reducible apply keeps_setSlot
    | with_reducible apply Keeps.forEach
    | with_reducible apply keeps_setStream
    | with_reducible apply keeps_moveReqs
    | with_reducible apply keeps_setQuarter
    | with_reducible apply Keeps.count
    | (with_reducible refine keeps_mk ?_ rfl rfl rfl rfl rfl rfl rfl; first | with_reducible assumption | with_reducible apply keeps_copySlot | with_reducible apply keeps_poke | with_reducible apply keeps_setSlot | with_reducible apply Keeps.forEach | with_reducible apply keeps_setStream | with_reducible apply keeps_moveReqs | with_reducible apply keeps_setQuarter | with_reducible apply Keeps.count)
    | with_reducible apply Keeps.foldl
    | (intro _ _ _; try beta_reduce)
    | (intro _ _; try beta_reduce)
    | (extract_lets +onlyGivenNames x; refine Keeps.cut (a := a) (x := x) ?_ ?_; rotate_left; (intro hx; clear_value x); rotate_left; unfold x; clear x)
    | (extract_lets +onlyGivenNames x; subst x)
    | split

theorem keeps_hostRemap (h : Keeps a s) : Keeps a (State.hostRemap s c v) := by
  unfold State.hostRemap
  repeat' first
    | with_reducible assumption
    | with_reducible apply keeps_moveSlot
    | with_reducible apply keeps_setBctx
    | (with_reducible refine keeps_mk ?_ rfl rfl rfl rfl rfl rfl rfl; first | with_reducible assumption | with_reducible apply keeps_moveSlot | with_reducible apply keeps_setBctx)
    | with_reducible apply Keeps.foldl
    | (intro _ _ _; try beta_reduce)
    | (intro _ _; try beta_reduce)
    | (extract_lets +onlyGivenNames x; refine Keeps.cut (a := a) (x := x) ?_ ?_; rotate_left; (intro hx; clear_value x); rotate_left; unfold x; clear x)
    | (extract_lets +onlyGivenNames x; subst x)
    | split

theorem keeps_ctxCommitted (h : Keeps a s) : Keeps a (State.ctxCommitted s c) := by
  unfold State.ctxCommitted
  repeat' first
    | with_reducible assumption
    | with_reducible apply keeps_hostRemap
    | with_reducible apply keeps_poke
    | with_reducible apply Keeps.count
    | with_reducible apply keeps_freeNext
    | with_reducible apply keeps_peak
    | with_reducible apply keeps_setBctx
    | with_reducible apply keeps_repath
    | with_reducible apply keeps_pathCommitted
    | (with_reducible refine keeps_mk ?_ rfl rfl rfl rfl rfl rfl rfl; first | with_reducible assumption | with_reducible apply keeps_hostRemap | with_reducible apply keeps_poke | with_reducible apply Keeps.count | with_reducible apply keeps_freeNext | with_reducible apply keeps_peak | with_reducible apply keeps_setBctx | with_reducible apply keeps_repath | with_reducible apply keeps_pathCommitted)
    | with_reducible apply Keeps.foldl
    | (intro _ _ _; try beta_reduce)
    | (intro _ _; try beta_reduce)
    | (extract_lets +onlyGivenNames x; refine Keeps.cut (a := a) (x := x) ?_ ?_; rotate_left; (intro hx; clear_value x); rotate_left; unfold x; clear x)
    | (extract_lets +onlyGivenNames x; subst x)
    | split

theorem keeps_bellBack (h : Keeps a s) : Keeps a (State.bellBack s p) := by
  unfold State.bellBack
  repeat' first
    | with_reducible assumption
    | with_reducible apply Keeps.ledReturn
    | (with_reducible refine keeps_mk ?_ rfl rfl rfl rfl rfl rfl rfl; first | with_reducible assumption | with_reducible apply Keeps.ledReturn)
    | with_reducible apply Keeps.foldl
    | (intro _ _ _; try beta_reduce)
    | (intro _ _; try beta_reduce)
    | (extract_lets +onlyGivenNames x; refine Keeps.cut (a := a) (x := x) ?_ ?_; rotate_left; (intro hx; clear_value x); rotate_left; unfold x; clear x)
    | (extract_lets +onlyGivenNames x; subst x)
    | split

theorem keeps_bellJoin (h : Keeps a s) : Keeps a (State.bellJoin s p) := by
  unfold State.bellJoin
  repeat' first
    | with_reducible assumption
    | with_reducible apply Keeps.ledIssue
    | with_reducible apply keeps_remap
    | (with_reducible refine keeps_mk ?_ rfl rfl rfl rfl rfl rfl rfl; first | with_reducible assumption | with_reducible apply Keeps.ledIssue | with_reducible apply keeps_remap)
    | with_reducible apply Keeps.foldl
    | (intro _ _ _; try beta_reduce)
    | (intro _ _; try beta_reduce)
    | (extract_lets +onlyGivenNames x; refine Keeps.cut (a := a) (x := x) ?_ ?_; rotate_left; (intro hx; clear_value x); rotate_left; unfold x; clear x)
    | (extract_lets +onlyGivenNames x; subst x)
    | split

theorem keeps_ctxApply (h : Keeps a s) : Keeps a (State.ctxApply s c p) := by
  unfold State.ctxApply
  repeat' first
    | with_reducible assumption
    | with_reducible apply keeps_holdPeak
    | with_reducible apply keeps_bellBack
    | with_reducible apply keeps_applyPart
    | with_reducible apply keeps_setBctx
    | with_reducible apply keeps_ctxCommitted
    | (with_reducible refine keeps_mk ?_ rfl rfl rfl rfl rfl rfl rfl; first | with_reducible assumption | with_reducible apply keeps_holdPeak | with_reducible apply keeps_bellBack | with_reducible apply keeps_applyPart | with_reducible apply keeps_setBctx | with_reducible apply keeps_ctxCommitted)
    | with_reducible apply Keeps.foldl
    | (intro _ _ _; try beta_reduce)
    | (intro _ _; try beta_reduce)
    | (extract_lets +onlyGivenNames x; refine Keeps.cut (a := a) (x := x) ?_ ?_; rotate_left; (intro hx; clear_value x); rotate_left; unfold x; clear x)
    | (extract_lets +onlyGivenNames x; subst x)
    | split

theorem keeps_finishApply (h : Keeps a s) : Keeps a (State.finishApply s c) := by
  unfold State.finishApply
  repeat' first
    | with_reducible assumption
    | with_reducible apply keeps_ctxApply
    | with_reducible apply keeps_ctxCommitted
    | with_reducible apply keeps_hold
    | with_reducible apply keeps_raise
    | (with_reducible refine keeps_mk ?_ rfl rfl rfl rfl rfl rfl rfl; first | with_reducible assumption | with_reducible apply keeps_ctxApply | with_reducible apply keeps_ctxCommitted | with_reducible apply keeps_hold | with_reducible apply keeps_raise)
    | with_reducible apply Keeps.foldl
    | (intro _ _ _; try beta_reduce)
    | (intro _ _; try beta_reduce)
    | (extract_lets +onlyGivenNames x; refine Keeps.cut (a := a) (x := x) ?_ ?_; rotate_left; (intro hx; clear_value x); rotate_left; unfold x; clear x)
    | (extract_lets +onlyGivenNames x; subst x)
    | split

theorem keeps_ctxAbort (h : Keeps a s) : Keeps a (State.ctxAbort s c reason wher) := by
  unfold State.ctxAbort
  repeat' first
    | with_reducible assumption
    | with_reducible apply Keeps.count
    | with_reducible apply keeps_setBctx
    | with_reducible apply keeps_raise
    | (with_reducible refine keeps_mk ?_ rfl rfl rfl rfl rfl rfl rfl; first | with_reducible assumption | with_reducible apply Keeps.count | with_reducible apply keeps_setBctx | with_reducible apply keeps_raise)
    | with_reducible apply Keeps.foldl
    | (intro _ _ _; try beta_reduce)
    | (intro _ _; try beta_reduce)
    | (extract_lets +onlyGivenNames x; refine Keeps.cut (a := a) (x := x) ?_ ?_; rotate_left; (intro hx; clear_value x); rotate_left; unfold x; clear x)
    | (extract_lets +onlyGivenNames x; subst x)
    | split

theorem keeps_ctxAbortAt (h : Keeps a s) : Keeps a (State.ctxAbortAt s c p) := by
  unfold State.ctxAbortAt
  repeat' first
    | with_reducible assumption
    | with_reducible apply keeps_holdPeak
    | with_reducible apply keeps_bellBack
    | with_reducible apply keeps_setBctx
    | (with_reducible refine keeps_mk ?_ rfl rfl rfl rfl rfl rfl rfl; first | with_reducible assumption | with_reducible apply keeps_holdPeak | with_reducible apply keeps_bellBack | with_reducible apply keeps_setBctx)
    | with_reducible apply Keeps.foldl
    | (intro _ _ _; try beta_reduce)
    | (intro _ _; try beta_reduce)
    | (extract_lets +onlyGivenNames x; refine Keeps.cut (a := a) (x := x) ?_ ?_; rotate_left; (intro hx; clear_value x); rotate_left; unfold x; clear x)
    | (extract_lets +onlyGivenNames x; subst x)
    | split

theorem keeps_finishAbort (h : Keeps a s) : Keeps a (State.finishAbort s c) := by
  unfold State.finishAbort
  repeat' first
    | with_reducible assumption
    | with_reducible apply keeps_ctxAbortAt
    | with_reducible apply keeps_setBctx
    | (with_reducible refine keeps_mk ?_ rfl rfl rfl rfl rfl rfl rfl; first | with_reducible assumption | with_reducible apply keeps_ctxAbortAt | with_reducible apply keeps_setBctx)
    | with_reducible apply Keeps.foldl
    | (intro _ _ _; try beta_reduce)
    | (intro _ _; try beta_reduce)
    | (extract_lets +onlyGivenNames x; refine Keeps.cut (a := a) (x := x) ?_ ?_; rotate_left; (intro hx; clear_value x); rotate_left; unfold x; clear x)
    | (extract_lets +onlyGivenNames x; subst x)
    | split

theorem keeps_abortAll (h : Keeps a s) : Keeps a (State.abortAll s reason) := by
  unfold State.abortAll
  repeat' first
    | with_reducible assumption
    | with_reducible apply Keeps.forEach
    | with_reducible apply keeps_finishApply
    | with_reducible apply keeps_finishAbort
    | with_reducible apply keeps_ctxAbort
    | (with_reducible refine keeps_mk ?_ rfl rfl rfl rfl rfl rfl rfl; first | with_reducible assumption | with_reducible apply Keeps.forEach | with_reducible apply keeps_finishApply | with_reducible apply keeps_finishAbort | with_reducible apply keeps_ctxAbort)
    | with_reducible apply Keeps.foldl
    | (intro _ _ _; try beta_reduce)
    | (intro _ _; try beta_reduce)
    | (extract_lets +onlyGivenNames x; refine Keeps.cut (a := a) (x := x) ?_ ?_; rotate_left; (intro hx; clear_value x); rotate_left; unfold x; clear x)
    | (extract_lets +onlyGivenNames x; subst x)
    | split

theorem keeps_ctxDieLost (h : Keeps a s) : Keeps a (State.ctxDieLost s d) := by
  unfold State.ctxDieLost
  repeat' first
    | with_reducible assumption
    | with_reducible apply Keeps.forEach
    | with_reducible apply keeps_finishAbort
    | with_reducible apply keeps_ctxAbort
    | with_reducible apply keeps_setBctx
    | with_reducible apply keeps_ctxCommitted
    | (with_reducible refine keeps_mk ?_ rfl rfl rfl rfl rfl rfl rfl; first | with_reducible assumption | with_reducible apply Keeps.forEach | with_reducible apply keeps_finishAbort | with_reducible apply keeps_ctxAbort | with_reducible apply keeps_setBctx | with_reducible apply keeps_ctxCommitted)
    | with_reducible apply Keeps.foldl
    | (intro _ _ _; try beta_reduce)
    | (intro _ _; try beta_reduce)
    | (extract_lets +onlyGivenNames x; refine Keeps.cut (a := a) (x := x) ?_ ?_; rotate_left; (intro hx; clear_value x); rotate_left; unfold x; clear x)
    | (extract_lets +onlyGivenNames x; subst x)
    | split

theorem keeps_ctxOpen (h : Keeps a s) : Keeps a (State.ctxOpen s c engine scope) := by
  unfold State.ctxOpen
  repeat' first
    | with_reducible assumption
    | with_reducible apply keeps_finishAbort
    | with_reducible apply Keeps.count
    | with_reducible apply keeps_setBctx
    | with_reducible apply keeps_internal
    | (with_reducible refine keeps_mk ?_ rfl rfl rfl rfl rfl rfl rfl; first | with_reducible assumption | with_reducible apply keeps_finishAbort | with_reducible apply Keeps.count | with_reducible apply keeps_setBctx | with_reducible apply keeps_internal)
    | with_reducible apply Keeps.foldl
    | (intro _ _ _; try beta_reduce)
    | (intro _ _; try beta_reduce)
    | (extract_lets +onlyGivenNames x; refine Keeps.cut (a := a) (x := x) ?_ ?_; rotate_left; (intro hx; clear_value x); rotate_left; unfold x; clear x)
    | (extract_lets +onlyGivenNames x; subst x)
    | split

theorem keeps_makeWay (h : Keeps a s) : Keeps a (State.makeWay s engine scope) := by
  unfold State.makeWay
  repeat' first
    | with_reducible assumption
    | with_reducible apply Keeps.forEach
    | with_reducible apply keeps_finishApply
    | with_reducible apply keeps_finishAbort
    | with_reducible apply keeps_ctxAbort
    | (with_reducible refine keeps_mk ?_ rfl rfl rfl rfl rfl rfl rfl; first | with_reducible assumption | with_reducible apply Keeps.forEach | with_reducible apply keeps_finishApply | with_reducible apply keeps_finishAbort | with_reducible apply keeps_ctxAbort)
    | with_reducible apply Keeps.foldl
    | (intro _ _ _; try beta_reduce)
    | (intro _ _; try beta_reduce)
    | (extract_lets +onlyGivenNames x; refine Keeps.cut (a := a) (x := x) ?_ ?_; rotate_left; (intro hx; clear_value x); rotate_left; unfold x; clear x)
    | (extract_lets +onlyGivenNames x; subst x)
    | split

theorem keeps_internal (h : Keeps a s) : Keeps a (State.internal s c engine scope ws) := by
  unfold State.internal
  repeat' first
    | with_reducible assumption
    | with_reducible apply keeps_ctxOpen
    | with_reducible apply keeps_makeWay
    | with_reducible apply keeps_setBctx
    | with_reducible apply Keeps.count
    | with_reducible apply keeps_poke
    | with_reducible apply keeps_ctxCommitted
    | (with_reducible refine keeps_mk ?_ rfl rfl rfl rfl rfl rfl rfl; first | with_reducible assumption | with_reducible apply keeps_ctxOpen | with_reducible apply keeps_makeWay | with_reducible apply keeps_setBctx | with_reducible apply Keeps.count | with_reducible apply keeps_poke | with_reducible apply keeps_ctxCommitted)
    | with_reducible apply Keeps.foldl
    | (intro _ _ _; try beta_reduce)
    | (intro _ _; try beta_reduce)
    | (extract_lets +onlyGivenNames x; refine Keeps.cut (a := a) (x := x) ?_ ?_; rotate_left; (intro hx; clear_value x); rotate_left; unfold x; clear x)
    | (extract_lets +onlyGivenNames x; subst x)
    | split

theorem keeps_applyBracket (h : Keeps a s) : Keeps a (State.applyBracket s d l p phase) := by
  unfold State.applyBracket
  repeat' first
    | with_reducible assumption
    | with_reducible apply keeps_rearmApply
    | with_reducible apply keeps_postMark
    | (with_reducible refine keeps_mk ?_ rfl rfl rfl rfl rfl rfl rfl; first | with_reducible assumption | with_reducible apply keeps_rearmApply | with_reducible apply keeps_postMark)
    | with_reducible apply Keeps.foldl
    | (intro _ _ _; try beta_reduce)
    | (intro _ _; try beta_reduce)
    | (extract_lets +onlyGivenNames x; refine Keeps.cut (a := a) (x := x) ?_ ?_; rotate_left; (intro hx; clear_value x); rotate_left; unfold x; clear x)
    | (extract_lets +onlyGivenNames x; subst x)
    | split

theorem keeps_pbLeave (h : Keeps a s) : Keeps a (State.pbLeave s d n) := by
  unfold State.pbLeave
  repeat' first
    | with_reducible assumption
    | with_reducible apply Keeps.forEach
    | with_reducible apply keeps_modStall
    | (with_reducible refine keeps_mk ?_ rfl rfl rfl rfl rfl rfl rfl; first | with_reducible assumption | with_reducible apply Keeps.forEach | with_reducible apply keeps_modStall)
    | with_reducible apply Keeps.foldl
    | (intro _ _ _; try beta_reduce)
    | (intro _ _; try beta_reduce)
    | (extract_lets +onlyGivenNames x; refine Keeps.cut (a := a) (x := x) ?_ ?_; rotate_left; (intro hx; clear_value x); rotate_left; unfold x; clear x)
    | (extract_lets +onlyGivenNames x; subst x)
    | split

theorem keeps_pbNote (h : Keeps a s) : Keeps a (State.pbNote s d n) := by
  unfold State.pbNote
  repeat' first
    | with_reducible assumption
    | with_reducible apply keeps_pokeField
    | (with_reducible refine keeps_mk ?_ rfl rfl rfl rfl rfl rfl rfl; first | with_reducible assumption | with_reducible apply keeps_pokeField)
    | with_reducible apply Keeps.foldl
    | (intro _ _ _; try beta_reduce)
    | (intro _ _; try beta_reduce)
    | (extract_lets +onlyGivenNames x; refine Keeps.cut (a := a) (x := x) ?_ ?_; rotate_left; (intro hx; clear_value x); rotate_left; unfold x; clear x)
    | (extract_lets +onlyGivenNames x; subst x)
    | split

theorem keeps_pbApply (h : Keeps a s) : Keeps a (State.pbApply s d n) := by
  unfold State.pbApply
  repeat' first
    | with_reducible assumption
    | with_reducible apply keeps_applyBracket
    | with_reducible apply keeps_commitPuts
    | with_reducible apply Keeps.ledReturn
    | with_reducible apply keeps_pbNote
    | with_reducible apply Keeps.count
    | with_reducible apply keeps_pbLeave
    | with_reducible apply keeps_setPbundle
    | (with_reducible refine keeps_mk ?_ rfl rfl rfl rfl rfl rfl rfl; first | with_reducible assumption | with_reducible apply keeps_applyBracket | with_reducible apply keeps_commitPuts | with_reducible apply Keeps.ledReturn | with_reducible apply keeps_pbNote | with_reducible apply Keeps.count | with_reducible apply keeps_pbLeave | with_reducible apply keeps_setPbundle)
    | with_reducible apply Keeps.foldl
    | (intro _ _ _; try beta_reduce)
    | (intro _ _; try beta_reduce)
    | (extract_lets +onlyGivenNames x; refine Keeps.cut (a := a) (x := x) ?_ ?_; rotate_left; (intro hx; clear_value x); rotate_left; unfold x; clear x)
    | (extract_lets +onlyGivenNames x; subst x)
    | split

theorem keeps_pbAbort (h : Keeps a s) : Keeps a (State.pbAbort s n reason) := by
  unfold State.pbAbort
  repeat' first
    | with_reducible assumption
    | with_reducible apply Keeps.ledReturn
    | with_reducible apply Keeps.count
    | with_reducible apply keeps_discardPuts
    | with_reducible apply keeps_poke
    | with_reducible apply keeps_pbNote
    | with_reducible apply keeps_breach
    | with_reducible apply keeps_pbLeave
    | with_reducible apply keeps_setPbundle
    | with_reducible apply keeps_raise
    | (with_reducible refine keeps_mk ?_ rfl rfl rfl rfl rfl rfl rfl; first | with_reducible assumption | with_reducible apply Keeps.ledReturn | with_reducible apply Keeps.count | with_reducible apply keeps_discardPuts | with_reducible apply keeps_poke | with_reducible apply keeps_pbNote | with_reducible apply keeps_breach | with_reducible apply keeps_pbLeave | with_reducible apply keeps_setPbundle | with_reducible apply keeps_raise)
    | with_reducible apply Keeps.foldl
    | (intro _ _ _; try beta_reduce)
    | (intro _ _; try beta_reduce)
    | (extract_lets +onlyGivenNames x; refine Keeps.cut (a := a) (x := x) ?_ ?_; rotate_left; (intro hx; clear_value x); rotate_left; unfold x; clear x)
    | (extract_lets +onlyGivenNames x; subst x)
    | split

theorem keeps_pbAbortAll (h : Keeps a s) : Keeps a (State.pbAbortAll s reason) := by
  unfold State.pbAbortAll
  repeat' first
    | with_reducible assumption
    | with_reducible apply Keeps.forEach
    | with_reducible apply keeps_pbApply
    | with_reducible apply keeps_pbAbort
    | (with_reducible refine keeps_mk ?_ rfl rfl rfl rfl rfl rfl rfl; first | with_reducible assumption | with_reducible apply Keeps.forEach | with_reducible apply keeps_pbApply | with_reducible apply keeps_pbAbort)
    | with_reducible apply Keeps.foldl
    | (intro _ _ _; try beta_reduce)
    | (intro _ _; try beta_reduce)
    | (extract_lets +onlyGivenNames x; refine Keeps.cut (a := a) (x := x) ?_ ?_; rotate_left; (intro hx; clear_value x); rotate_left; unfold x; clear x)
    | (extract_lets +onlyGivenNames x; subst x)
    | split

theorem keeps_pbDark (h : Keeps a s) : Keeps a (State.pbDark s d q) := by
  unfold State.pbDark
  repeat' first
    | with_reducible assumption
    | with_reducible apply Keeps.forEach
    | with_reducible apply keeps_pbAbort
    | (with_reducible refine keeps_mk ?_ rfl rfl rfl rfl rfl rfl rfl; first | with_reducible assumption | with_reducible apply Keeps.forEach | with_reducible apply keeps_pbAbort)
    | with_reducible apply Keeps.foldl
    | (intro _ _ _; try beta_reduce)
    | (intro _ _; try beta_reduce)
    | (extract_lets +onlyGivenNames x; refine Keeps.cut (a := a) (x := x) ?_ ?_; rotate_left; (intro hx; clear_value x); rotate_left; unfold x; clear x)
    | (extract_lets +onlyGivenNames x; subst x)
    | split

end Sys2Proof.Machine
end

