-- ==== Sys2Proof/Laws/KeepProgOps.lean ====
section
/-! SUPPORT. What the operations of Machine/ProgOps.lean keep (Laws/Keeps.lean). -/

namespace Sys2Proof.Machine

variable {a s : State}

theorem keeps_reachHead (h : Keeps a s) : Keeps a (State.reachHead s d l p) := by
  unfold State.reachHead
  repeat' first
    | with_reducible assumption
    | with_reducible apply keeps_noteReads
    | with_reducible apply keeps_setSlot
    | (with_reducible refine keeps_mk ?_ rfl rfl rfl rfl rfl rfl rfl; first | with_reducible assumption | with_reducible apply keeps_noteReads | with_reducible apply keeps_setSlot)
    | with_reducible apply Keeps.foldl
    | (intro _ _ _; try beta_reduce)
    | (intro _ _; try beta_reduce)
    | (extract_lets +onlyGivenNames x; refine Keeps.cut (a := a) (x := x) ?_ ?_; rotate_left; (intro hx; clear_value x); rotate_left; unfold x; clear x)
    | (extract_lets +onlyGivenNames x; clear_value x)
    | split

theorem keeps_roundClear (h : Keeps a s) : Keeps a (State.roundClear s d c st) := by
  unfold State.roundClear
  repeat' first
    | with_reducible assumption
    | with_reducible apply Keeps.ledReturn
    | with_reducible apply keeps_setRoundCtx
    | (with_reducible refine keeps_mk ?_ rfl rfl rfl rfl rfl rfl rfl; first | with_reducible assumption | with_reducible apply Keeps.ledReturn | with_reducible apply keeps_setRoundCtx)
    | with_reducible apply Keeps.foldl
    | (intro _ _ _; try beta_reduce)
    | (intro _ _; try beta_reduce)
    | (extract_lets +onlyGivenNames x; refine Keeps.cut (a := a) (x := x) ?_ ?_; rotate_left; (intro hx; clear_value x); rotate_left; unfold x; clear x)
    | (extract_lets +onlyGivenNames x; clear_value x)
    | split

theorem keeps_tagsClear (h : Keeps a s) : Keeps a (State.tagsClear s d) := by
  unfold State.tagsClear
  repeat' first
    | with_reducible assumption
    | (with_reducible refine keeps_mk ?_ rfl rfl rfl rfl rfl rfl rfl; first | with_reducible assumption)
    | with_reducible apply Keeps.foldl
    | (intro _ _ _; try beta_reduce)
    | (intro _ _; try beta_reduce)
    | (extract_lets +onlyGivenNames x; refine Keeps.cut (a := a) (x := x) ?_ ?_; rotate_left; (intro hx; clear_value x); rotate_left; unfold x; clear x)
    | (extract_lets +onlyGivenNames x; clear_value x)
    | split

theorem keeps_dropStreams (h : Keeps a s) : Keeps a (State.dropStreams s d sel) := by
  unfold State.dropStreams
  repeat' first
    | with_reducible assumption
    | with_reducible apply Keeps.forEach
    | with_reducible apply keeps_dropXfers
    | (with_reducible refine keeps_mk ?_ rfl rfl rfl rfl rfl rfl rfl; first | with_reducible assumption | with_reducible apply Keeps.forEach | with_reducible apply keeps_dropXfers)
    | with_reducible apply Keeps.foldl
    | (intro _ _ _; try beta_reduce)
    | (intro _ _; try beta_reduce)
    | (extract_lets +onlyGivenNames x; refine Keeps.cut (a := a) (x := x) ?_ ?_; rotate_left; (intro hx; clear_value x); rotate_left; unfold x; clear x)
    | (extract_lets +onlyGivenNames x; clear_value x)
    | split

theorem keeps_loadStream (h : Keeps a s) : Keeps a (State.loadStream s d u st desc) := by
  unfold State.loadStream
  repeat' first
    | with_reducible assumption
    | with_reducible apply keeps_setStream
    | (with_reducible refine keeps_mk ?_ rfl rfl rfl rfl rfl rfl rfl; first | with_reducible assumption | with_reducible apply keeps_setStream)
    | with_reducible apply Keeps.foldl
    | (intro _ _ _; try beta_reduce)
    | (intro _ _; try beta_reduce)
    | (extract_lets +onlyGivenNames x; refine Keeps.cut (a := a) (x := x) ?_ ?_; rotate_left; (intro hx; clear_value x); rotate_left; unfold x; clear x)
    | (extract_lets +onlyGivenNames x; clear_value x)
    | split

theorem keeps_loadDie (h : Keeps a s) : Keeps a (State.loadDie s d) := by
  unfold State.loadDie
  repeat' first
    | with_reducible assumption
    | with_reducible apply keeps_abandonDie
    | with_reducible apply keeps_dropStreams
    | with_reducible apply Keeps.forEach
    | with_reducible apply keeps_loadStream
    | with_reducible apply keeps_setPool
    | with_reducible apply keeps_roundClear
    | with_reducible apply keeps_poke
    | with_reducible apply keeps_fetchStep
    | with_reducible apply keeps_tagsClear
    | (with_reducible refine keeps_mk ?_ rfl rfl rfl rfl rfl rfl rfl; first | with_reducible assumption | with_reducible apply keeps_abandonDie | with_reducible apply keeps_dropStreams | with_reducible apply Keeps.forEach | with_reducible apply keeps_loadStream | with_reducible apply keeps_setPool | with_reducible apply keeps_roundClear | with_reducible apply keeps_poke | with_reducible apply keeps_fetchStep | with_reducible apply keeps_tagsClear)
    | with_reducible apply Keeps.foldl
    | (intro _ _ _; try beta_reduce)
    | (intro _ _; try beta_reduce)
    | (extract_lets +onlyGivenNames x; refine Keeps.cut (a := a) (x := x) ?_ ?_; rotate_left; (intro hx; clear_value x); rotate_left; unfold x; clear x)
    | (extract_lets +onlyGivenNames x; clear_value x)
    | split

theorem keeps_rewind (h : Keeps a s) : Keeps a (State.rewind s d st) := by
  unfold State.rewind
  repeat' first
    | with_reducible assumption
    | with_reducible apply Keeps.forEach
    | with_reducible apply keeps_modStall
    | (with_reducible refine keeps_mk ?_ rfl rfl rfl rfl rfl rfl rfl; first | with_reducible assumption | with_reducible apply Keeps.forEach | with_reducible apply keeps_modStall)
    | with_reducible apply Keeps.foldl
    | (intro _ _ _; try beta_reduce)
    | (intro _ _; try beta_reduce)
    | (extract_lets +onlyGivenNames x; refine Keeps.cut (a := a) (x := x) ?_ ?_; rotate_left; (intro hx; clear_value x); rotate_left; unfold x; clear x)
    | (extract_lets +onlyGivenNames x; clear_value x)
    | split

theorem keeps_loadImage (h : Keeps a s) : Keeps a (State.loadImage s) := by
  unfold State.loadImage
  repeat' first
    | with_reducible assumption
    | with_reducible apply Keeps.forEach
    | with_reducible apply keeps_rewind
    | with_reducible apply keeps_loadDie
    | (with_reducible refine keeps_mk ?_ rfl rfl rfl rfl rfl rfl rfl; first | with_reducible assumption | with_reducible apply Keeps.forEach | with_reducible apply keeps_rewind | with_reducible apply keeps_loadDie)
    | with_reducible apply Keeps.foldl
    | (intro _ _ _; try beta_reduce)
    | (intro _ _; try beta_reduce)
    | (extract_lets +onlyGivenNames x; refine Keeps.cut (a := a) (x := x) ?_ ?_; rotate_left; (intro hx; clear_value x); rotate_left; unfold x; clear x)
    | (extract_lets +onlyGivenNames x; clear_value x)
    | split

theorem keeps_applyImage (h : Keeps a s) : Keeps a (State.applyImage s) := by
  unfold State.applyImage
  repeat' first
    | with_reducible assumption
    | with_reducible apply keeps_loadImage
    | with_reducible apply Keeps.forEach
    | with_reducible apply keeps_fetchStep
    | with_reducible apply keeps_remap
    | (with_reducible refine keeps_mk ?_ rfl rfl rfl rfl rfl rfl rfl; first | with_reducible assumption | with_reducible apply keeps_loadImage | with_reducible apply Keeps.forEach | with_reducible apply keeps_fetchStep | with_reducible apply keeps_remap)
    | with_reducible apply Keeps.foldl
    | (intro _ _ _; try beta_reduce)
    | (intro _ _; try beta_reduce)
    | (extract_lets +onlyGivenNames x; refine Keeps.cut (a := a) (x := x) ?_ ?_; rotate_left; (intro hx; clear_value x); rotate_left; unfold x; clear x)
    | (extract_lets +onlyGivenNames x; clear_value x)
    | split

theorem keeps_runStreams (h : Keeps a s) : Keeps a (State.runStreams s d) := by
  unfold State.runStreams
  repeat' first
    | with_reducible assumption
    | with_reducible apply Keeps.forEach
    | with_reducible apply keeps_setStream
    | with_reducible apply keeps_startStream
    | (with_reducible refine keeps_mk ?_ rfl rfl rfl rfl rfl rfl rfl; first | with_reducible assumption | with_reducible apply Keeps.forEach | with_reducible apply keeps_setStream | with_reducible apply keeps_startStream)
    | with_reducible apply Keeps.foldl
    | (intro _ _ _; try beta_reduce)
    | (intro _ _; try beta_reduce)
    | (extract_lets +onlyGivenNames x; refine Keeps.cut (a := a) (x := x) ?_ ?_; rotate_left; (intro hx; clear_value x); rotate_left; unfold x; clear x)
    | (extract_lets +onlyGivenNames x; clear_value x)
    | split

theorem keeps_startStep (h : Keeps a s) : Keeps a (State.startStep s) := by
  unfold State.startStep
  repeat' first
    | with_reducible assumption
    | with_reducible apply keeps_loadImage
    | with_reducible apply Keeps.forEach
    | with_reducible apply keeps_setDie
    | with_reducible apply keeps_rewind
    | with_reducible apply keeps_runStreams
    | with_reducible apply keeps_basketsStep
    | with_reducible apply keeps_remap
    | (with_reducible refine keeps_mk ?_ rfl rfl rfl rfl rfl rfl rfl; first | with_reducible assumption | with_reducible apply keeps_loadImage | with_reducible apply Keeps.forEach | with_reducible apply keeps_setDie | with_reducible apply keeps_rewind | with_reducible apply keeps_runStreams | with_reducible apply keeps_basketsStep | with_reducible apply keeps_remap)
    | with_reducible apply Keeps.foldl
    | (intro _ _ _; try beta_reduce)
    | (intro _ _; try beta_reduce)
    | (extract_lets +onlyGivenNames x; refine Keeps.cut (a := a) (x := x) ?_ ?_; rotate_left; (intro hx; clear_value x); rotate_left; unfold x; clear x)
    | (extract_lets +onlyGivenNames x; clear_value x)
    | split

theorem keeps_dropQueued (h : Keeps a s) : Keeps a (State.dropQueued s d) := by
  unfold State.dropQueued
  repeat' first
    | with_reducible assumption
    | (with_reducible refine keeps_mk ?_ rfl rfl rfl rfl rfl rfl rfl; first | with_reducible assumption)
    | with_reducible apply Keeps.foldl
    | (intro _ _ _; try beta_reduce)
    | (intro _ _; try beta_reduce)
    | (extract_lets +onlyGivenNames x; refine Keeps.cut (a := a) (x := x) ?_ ?_; rotate_left; (intro hx; clear_value x); rotate_left; unfold x; clear x)
    | (extract_lets +onlyGivenNames x; clear_value x)
    | split

theorem keeps_dropPortOut (h : Keeps a s) : Keeps a (State.dropPortOut s d) := by
  unfold State.dropPortOut
  repeat' first
    | with_reducible assumption
    | with_reducible apply Keeps.forEach
    | with_reducible apply keeps_setStream
    | with_reducible apply Keeps.ledReturn
    | with_reducible apply keeps_dropQueued
    | (with_reducible refine keeps_mk ?_ rfl rfl rfl rfl rfl rfl rfl; first | with_reducible assumption | with_reducible apply Keeps.forEach | with_reducible apply keeps_setStream | with_reducible apply Keeps.ledReturn | with_reducible apply keeps_dropQueued)
    | with_reducible apply Keeps.foldl
    | (intro _ _ _; try beta_reduce)
    | (intro _ _; try beta_reduce)
    | (extract_lets +onlyGivenNames x; refine Keeps.cut (a := a) (x := x) ?_ ?_; rotate_left; (intro hx; clear_value x); rotate_left; unfold x; clear x)
    | (extract_lets +onlyGivenNames x; clear_value x)
    | split

theorem keeps_clearGates (h : Keeps a s) : Keeps a (State.clearGates s d) := by
  unfold State.clearGates
  repeat' first
    | with_reducible assumption
    | (with_reducible refine keeps_mk ?_ rfl rfl rfl rfl rfl rfl rfl; first | with_reducible assumption)
    | with_reducible apply Keeps.foldl
    | (intro _ _ _; try beta_reduce)
    | (intro _ _; try beta_reduce)
    | (extract_lets +onlyGivenNames x; refine Keeps.cut (a := a) (x := x) ?_ ?_; rotate_left; (intro hx; clear_value x); rotate_left; unfold x; clear x)
    | (extract_lets +onlyGivenNames x; clear_value x)
    | split

theorem keeps_stopDie (h : Keeps a s) : Keeps a (State.stopDie s d) := by
  unfold State.stopDie
  repeat' first
    | with_reducible assumption
    | with_reducible apply keeps_dropPortOut
    | with_reducible apply keeps_dropStreams
    | with_reducible apply keeps_fetchAbandon
    | with_reducible apply keeps_clearGates
    | with_reducible apply keeps_abandonDie
    | (with_reducible refine keeps_mk ?_ rfl rfl rfl rfl rfl rfl rfl; first | with_reducible assumption | with_reducible apply keeps_dropPortOut | with_reducible apply keeps_dropStreams | with_reducible apply keeps_fetchAbandon | with_reducible apply keeps_clearGates | with_reducible apply keeps_abandonDie)
    | with_reducible apply Keeps.foldl
    | (intro _ _ _; try beta_reduce)
    | (intro _ _; try beta_reduce)
    | (extract_lets +onlyGivenNames x; refine Keeps.cut (a := a) (x := x) ?_ ?_; rotate_left; (intro hx; clear_value x); rotate_left; unfold x; clear x)
    | (extract_lets +onlyGivenNames x; clear_value x)
    | split

theorem keeps_dropBells (h : Keeps a s) : Keeps a (State.dropBells s) := by
  unfold State.dropBells
  repeat' first
    | with_reducible assumption
    | with_reducible apply Keeps.forEach
    | with_reducible apply Keeps.ledReturn
    | (with_reducible refine keeps_mk ?_ rfl rfl rfl rfl rfl rfl rfl; first | with_reducible assumption | with_reducible apply Keeps.forEach | with_reducible apply Keeps.ledReturn)
    | with_reducible apply Keeps.foldl
    | (intro _ _ _; try beta_reduce)
    | (intro _ _; try beta_reduce)
    | (extract_lets +onlyGivenNames x; refine Keeps.cut (a := a) (x := x) ?_ ?_; rotate_left; (intro hx; clear_value x); rotate_left; unfold x; clear x)
    | (extract_lets +onlyGivenNames x; clear_value x)
    | split

theorem keeps_stopWork (h : Keeps a s) : Keeps a (State.stopWork s reason) := by
  unfold State.stopWork
  repeat' first
    | with_reducible assumption
    | with_reducible apply keeps_dropBells
    | with_reducible apply keeps_pbAbortAll
    | with_reducible apply Keeps.forEach
    | with_reducible apply keeps_stopDie
    | (with_reducible refine keeps_mk ?_ rfl rfl rfl rfl rfl rfl rfl; first | with_reducible assumption | with_reducible apply keeps_dropBells | with_reducible apply keeps_pbAbortAll | with_reducible apply Keeps.forEach | with_reducible apply keeps_stopDie)
    | with_reducible apply Keeps.foldl
    | (intro _ _ _; try beta_reduce)
    | (intro _ _; try beta_reduce)
    | (extract_lets +onlyGivenNames x; refine Keeps.cut (a := a) (x := x) ?_ ?_; rotate_left; (intro hx; clear_value x); rotate_left; unfold x; clear x)
    | (extract_lets +onlyGivenNames x; clear_value x)
    | split

theorem keeps_abortProgram (h : Keeps a s) : Keeps a (State.abortProgram s) := by
  unfold State.abortProgram
  repeat' first
    | with_reducible assumption
    | with_reducible apply keeps_stopWork
    | with_reducible apply keeps_remap
    | with_reducible apply keeps_internal
    | (with_reducible refine keeps_mk ?_ rfl rfl rfl rfl rfl rfl rfl; first | with_reducible assumption | with_reducible apply keeps_stopWork | with_reducible apply keeps_remap | with_reducible apply keeps_internal)
    | with_reducible apply Keeps.foldl
    | (intro _ _ _; try beta_reduce)
    | (intro _ _; try beta_reduce)
    | (extract_lets +onlyGivenNames x; refine Keeps.cut (a := a) (x := x) ?_ ?_; rotate_left; (intro hx; clear_value x); rotate_left; unfold x; clear x)
    | (extract_lets +onlyGivenNames x; clear_value x)
    | split

theorem keeps_closeOut (h : Keeps a s) : Keeps a (State.closeOut s) := by
  unfold State.closeOut
  repeat' first
    | with_reducible assumption
    | with_reducible apply keeps_dropUndecided
    | with_reducible apply keeps_stopWork
    | with_reducible apply Keeps.forEach
    | with_reducible apply keeps_finishApply
    | with_reducible apply keeps_finishAbort
    | with_reducible apply keeps_ctxAbort
    | with_reducible apply keeps_remap
    | with_reducible apply keeps_breach
    | (with_reducible refine keeps_mk ?_ rfl rfl rfl rfl rfl rfl rfl; first | with_reducible assumption | with_reducible apply keeps_dropUndecided | with_reducible apply keeps_stopWork | with_reducible apply Keeps.forEach | with_reducible apply keeps_finishApply | with_reducible apply keeps_finishAbort | with_reducible apply keeps_ctxAbort | with_reducible apply keeps_remap | with_reducible apply keeps_breach)
    | with_reducible apply Keeps.foldl
    | (intro _ _ _; try beta_reduce)
    | (intro _ _; try beta_reduce)
    | (extract_lets +onlyGivenNames x; refine Keeps.cut (a := a) (x := x) ?_ ?_; rotate_left; (intro hx; clear_value x); rotate_left; unfold x; clear x)
    | (extract_lets +onlyGivenNames x; clear_value x)
    | split

theorem keeps_recordBreach (h : Keeps a s) : Keeps a (State.recordBreach s b) := by
  unfold State.recordBreach
  repeat' first
    | with_reducible assumption
    | with_reducible apply keeps_poke
    | with_reducible apply keeps_raise
    | with_reducible apply Keeps.count
    | (with_reducible refine keeps_mk ?_ rfl rfl rfl rfl rfl rfl rfl; first | with_reducible assumption | with_reducible apply keeps_poke | with_reducible apply keeps_raise | with_reducible apply Keeps.count)
    | with_reducible apply Keeps.foldl
    | (intro _ _ _; try beta_reduce)
    | (intro _ _; try beta_reduce)
    | (extract_lets +onlyGivenNames x; refine Keeps.cut (a := a) (x := x) ?_ ?_; rotate_left; (intro hx; clear_value x); rotate_left; unfold x; clear x)
    | (extract_lets +onlyGivenNames x; clear_value x)
    | split

theorem keeps_restoreStream (h : Keeps a s) : Keeps a (State.restoreStream s d u st v4) := by
  unfold State.restoreStream
  repeat' first
    | with_reducible assumption
    | with_reducible apply keeps_dropXfers
    | with_reducible apply keeps_setStream
    | with_reducible apply keeps_fetchRestore
    | (with_reducible refine keeps_mk ?_ rfl rfl rfl rfl rfl rfl rfl; first | with_reducible assumption | with_reducible apply keeps_dropXfers | with_reducible apply keeps_setStream | with_reducible apply keeps_fetchRestore)
    | with_reducible apply Keeps.foldl
    | (intro _ _ _; try beta_reduce)
    | (intro _ _; try beta_reduce)
    | (extract_lets +onlyGivenNames x; refine Keeps.cut (a := a) (x := x) ?_ ?_; rotate_left; (intro hx; clear_value x); rotate_left; unfold x; clear x)
    | (extract_lets +onlyGivenNames x; clear_value x)
    | split

theorem keeps_restoreDie (h : Keeps a s) : Keeps a (State.restoreDie s d p) := by
  unfold State.restoreDie
  repeat' first
    | with_reducible assumption
    | with_reducible apply keeps_noteReads
    | with_reducible apply Keeps.forEach
    | with_reducible apply keeps_freeRoundSlot
    | with_reducible apply keeps_roundClear
    | with_reducible apply keeps_restoreStream
    | with_reducible apply keeps_modStall
    | with_reducible apply keeps_restoreCursors
    | (with_reducible refine keeps_mk ?_ rfl rfl rfl rfl rfl rfl rfl; first | with_reducible assumption | with_reducible apply keeps_noteReads | with_reducible apply Keeps.forEach | with_reducible apply keeps_freeRoundSlot | with_reducible apply keeps_roundClear | with_reducible apply keeps_restoreStream | with_reducible apply keeps_modStall | with_reducible apply keeps_restoreCursors)
    | with_reducible apply Keeps.foldl
    | (intro _ _ _; try beta_reduce)
    | (intro _ _; try beta_reduce)
    | (extract_lets +onlyGivenNames x; refine Keeps.cut (a := a) (x := x) ?_ ?_; rotate_left; (intro hx; clear_value x); rotate_left; unfold x; clear x)
    | (extract_lets +onlyGivenNames x; clear_value x)
    | split

theorem keeps_restoreZero (h : Keeps a s) : Keeps a (State.restoreZero s d) := by
  unfold State.restoreZero
  repeat' first
    | with_reducible assumption
    | with_reducible apply keeps_rewind
    | with_reducible apply keeps_runStreams
    | with_reducible apply keeps_loadDie
    | with_reducible apply keeps_restoreCursors
    | (with_reducible refine keeps_mk ?_ rfl rfl rfl rfl rfl rfl rfl; first | with_reducible assumption | with_reducible apply keeps_rewind | with_reducible apply keeps_runStreams | with_reducible apply keeps_loadDie | with_reducible apply keeps_restoreCursors)
    | with_reducible apply Keeps.foldl
    | (intro _ _ _; try beta_reduce)
    | (intro _ _; try beta_reduce)
    | (extract_lets +onlyGivenNames x; refine Keeps.cut (a := a) (x := x) ?_ ?_; rotate_left; (intro hx; clear_value x); rotate_left; unfold x; clear x)
    | (extract_lets +onlyGivenNames x; clear_value x)
    | split

theorem keeps_restoreBrackets (h : Keeps a s) : Keeps a (State.restoreBrackets s) := by
  unfold State.restoreBrackets
  repeat' first
    | with_reducible assumption
    | with_reducible apply Keeps.forEach
    | with_reducible apply keeps_setPbundle
    | (with_reducible refine keeps_mk ?_ rfl rfl rfl rfl rfl rfl rfl; first | with_reducible assumption | with_reducible apply Keeps.forEach | with_reducible apply keeps_setPbundle)
    | with_reducible apply Keeps.foldl
    | (intro _ _ _; try beta_reduce)
    | (intro _ _; try beta_reduce)
    | (extract_lets +onlyGivenNames x; refine Keeps.cut (a := a) (x := x) ?_ ?_; rotate_left; (intro hx; clear_value x); rotate_left; unfold x; clear x)
    | (extract_lets +onlyGivenNames x; clear_value x)
    | split

theorem keeps_resume (h : Keeps a s) : Keeps a (State.resume s) := by
  unfold State.resume
  repeat' first
    | with_reducible assumption
    | with_reducible apply Keeps.forEach
    | with_reducible apply keeps_restoreZero
    | with_reducible apply keeps_restoreDie
    | with_reducible apply keeps_setFetch
    | with_reducible apply keeps_restoreBrackets
    | with_reducible apply keeps_remap
    | (with_reducible refine keeps_mk ?_ rfl rfl rfl rfl rfl rfl rfl; first | with_reducible assumption | with_reducible apply Keeps.forEach | with_reducible apply keeps_restoreZero | with_reducible apply keeps_restoreDie | with_reducible apply keeps_setFetch | with_reducible apply keeps_restoreBrackets | with_reducible apply keeps_remap)
    | with_reducible apply Keeps.foldl
    | (intro _ _ _; try beta_reduce)
    | (intro _ _; try beta_reduce)
    | (extract_lets +onlyGivenNames x; refine Keeps.cut (a := a) (x := x) ?_ ?_; rotate_left; (intro hx; clear_value x); rotate_left; unfold x; clear x)
    | (extract_lets +onlyGivenNames x; clear_value x)
    | split

end Sys2Proof.Machine
end

