-- ==== Sys2Proof/Laws/KeepRecoverOps.lean ====
section
/-! SUPPORT. What the operations of Machine/RecoverOps.lean keep (Laws/Keeps.lean). -/

namespace Sys2Proof.Machine

variable {a s : State}

theorem keeps_bellOperands (h : Keeps a s) : Keeps a (State.bellOperands s parts).1 := by
  unfold State.bellOperands
  suffices ∀ (l : List (Nat × Nat)) (x : State × List MWord), Keeps a x.1 → Keeps a (l.foldl _ x).1 from
    this parts (s, []) h
  intro l
  induction l with
  | nil => exact fun _ hx => hx
  | cons e r ih =>
    intro x hx
    refine ih _ ?_
    dsimp only
    split
    · exact keeps_noteReads hx
    · exact hx

theorem keeps_bellSum (h : Keeps a s) : Keeps a (State.bellSum s parts) := by
  unfold State.bellSum
  repeat' first
    | with_reducible assumption
    | with_reducible apply keeps_bellOperands
    | with_reducible apply keeps_writeWords
    | (with_reducible refine keeps_mk ?_ rfl rfl rfl rfl rfl rfl rfl; first | with_reducible assumption | with_reducible apply keeps_bellOperands | with_reducible apply keeps_writeWords)
    | with_reducible apply Keeps.foldl
    | (intro _ _ _; try beta_reduce)
    | (intro _ _; try beta_reduce)
    | (extract_lets +onlyGivenNames x; refine Keeps.cut (a := a) (x := x) ?_ ?_; rotate_left; (intro hx; clear_value x); rotate_left; unfold x; clear x)
    | (extract_lets +onlyGivenNames x; clear_value x)
    | split

theorem keeps_passPoint (h : Keeps a s) : Keeps a (State.passPoint s n) := by
  unfold State.passPoint
  repeat' first
    | with_reducible assumption
    | with_reducible apply Keeps.forEach
    | with_reducible apply keeps_keepCursors
    | (with_reducible refine keeps_mk ?_ rfl rfl rfl rfl rfl rfl rfl; first | with_reducible assumption | with_reducible apply Keeps.forEach | with_reducible apply keeps_keepCursors)
    | with_reducible apply Keeps.foldl
    | (intro _ _ _; try beta_reduce)
    | (intro _ _; try beta_reduce)
    | (extract_lets +onlyGivenNames x; refine Keeps.cut (a := a) (x := x) ?_ ?_; rotate_left; (intro hx; clear_value x); rotate_left; unfold x; clear x)
    | (extract_lets +onlyGivenNames x; clear_value x)
    | split

theorem keeps_bellFinish (h : Keeps a s) : Keeps a (State.bellFinish s parts w) := by
  unfold State.bellFinish
  repeat' first
    | with_reducible assumption
    | with_reducible apply keeps_bellSum
    | with_reducible apply keeps_modStall
    | with_reducible apply Keeps.ledReturn
    | with_reducible apply Keeps.count
    | with_reducible apply keeps_freeNext
    | with_reducible apply keeps_peak
    | with_reducible apply keeps_passPoint
    | (with_reducible refine keeps_mk ?_ rfl rfl rfl rfl rfl rfl rfl; first | with_reducible assumption | with_reducible apply keeps_bellSum | with_reducible apply keeps_modStall | with_reducible apply Keeps.ledReturn | with_reducible apply Keeps.count | with_reducible apply keeps_freeNext | with_reducible apply keeps_peak | with_reducible apply keeps_passPoint)
    | with_reducible apply Keeps.foldl
    | (intro _ _ _; try beta_reduce)
    | (intro _ _; try beta_reduce)
    | (extract_lets +onlyGivenNames x; refine Keeps.cut (a := a) (x := x) ?_ ?_; rotate_left; (intro hx; clear_value x); rotate_left; unfold x; clear x)
    | (extract_lets +onlyGivenNames x; clear_value x)
    | split

theorem keeps_bellTry (h : Keeps a s) : Keeps a (State.bellTry s d l) := by
  unfold State.bellTry
  repeat' first
    | with_reducible assumption
    | with_reducible apply keeps_bellFinish
    | (with_reducible refine keeps_mk ?_ rfl rfl rfl rfl rfl rfl rfl; first | with_reducible assumption | with_reducible apply keeps_bellFinish)
    | with_reducible apply Keeps.foldl
    | (intro _ _ _; try beta_reduce)
    | (intro _ _; try beta_reduce)
    | (extract_lets +onlyGivenNames x; refine Keeps.cut (a := a) (x := x) ?_ ?_; rotate_left; (intro hx; clear_value x); rotate_left; unfold x; clear x)
    | (extract_lets +onlyGivenNames x; clear_value x)
    | split

theorem keeps_bellRecheck (h : Keeps a s) : Keeps a (State.bellRecheck s) := by
  unfold State.bellRecheck
  repeat' first
    | with_reducible assumption
    | with_reducible apply Keeps.forEach
    | with_reducible apply keeps_bellTry
    | (with_reducible refine keeps_mk ?_ rfl rfl rfl rfl rfl rfl rfl; first | with_reducible assumption | with_reducible apply Keeps.forEach | with_reducible apply keeps_bellTry)
    | with_reducible apply Keeps.foldl
    | (intro _ _ _; try beta_reduce)
    | (intro _ _; try beta_reduce)
    | (extract_lets +onlyGivenNames x; refine Keeps.cut (a := a) (x := x) ?_ ?_; rotate_left; (intro hx; clear_value x); rotate_left; unfold x; clear x)
    | (extract_lets +onlyGivenNames x; clear_value x)
    | split

theorem keeps_stopUnit (h : Keeps a s) : Keeps a (State.stopUnit s d u dark) := by
  unfold State.stopUnit
  repeat' first
    | with_reducible assumption
    | with_reducible apply keeps_eachStream
    | with_reducible apply keeps_dropXfers
    | with_reducible apply keeps_setStream
    | (with_reducible refine keeps_mk ?_ rfl rfl rfl rfl rfl rfl rfl; first | with_reducible assumption | with_reducible apply keeps_eachStream | with_reducible apply keeps_dropXfers | with_reducible apply keeps_setStream)
    | with_reducible apply Keeps.foldl
    | (intro _ _ _; try beta_reduce)
    | (intro _ _; try beta_reduce)
    | (extract_lets +onlyGivenNames x; refine Keeps.cut (a := a) (x := x) ?_ ?_; rotate_left; (intro hx; clear_value x); rotate_left; unfold x; clear x)
    | (extract_lets +onlyGivenNames x; clear_value x)
    | split

theorem keeps_dropRelease (h : Keeps a s) : Keeps a (State.dropRelease s d c) := by
  unfold State.dropRelease
  repeat' first
    | with_reducible assumption
    | with_reducible apply keeps_serveReqs
    | (with_reducible refine keeps_mk ?_ rfl rfl rfl rfl rfl rfl rfl; first | with_reducible assumption | with_reducible apply keeps_serveReqs)
    | with_reducible apply Keeps.foldl
    | (intro _ _ _; try beta_reduce)
    | (intro _ _; try beta_reduce)
    | (extract_lets +onlyGivenNames x; refine Keeps.cut (a := a) (x := x) ?_ ?_; rotate_left; (intro hx; clear_value x); rotate_left; unfold x; clear x)
    | (extract_lets +onlyGivenNames x; clear_value x)
    | split

theorem keeps_relayDie (h : Keeps a s) : Keeps a (State.relayDie s d) := by
  unfold State.relayDie
  repeat' first
    | with_reducible assumption
    | with_reducible apply Keeps.forEach
    | with_reducible apply keeps_freeSlots
    | with_reducible apply keeps_dropRelease
    | with_reducible apply keeps_setRoundCtx
    | (with_reducible refine keeps_mk ?_ rfl rfl rfl rfl rfl rfl rfl; first | with_reducible assumption | with_reducible apply Keeps.forEach | with_reducible apply keeps_freeSlots | with_reducible apply keeps_dropRelease | with_reducible apply keeps_setRoundCtx)
    | with_reducible apply Keeps.foldl
    | (intro _ _ _; try beta_reduce)
    | (intro _ _; try beta_reduce)
    | (extract_lets +onlyGivenNames x; refine Keeps.cut (a := a) (x := x) ?_ ?_; rotate_left; (intro hx; clear_value x); rotate_left; unfold x; clear x)
    | (extract_lets +onlyGivenNames x; clear_value x)
    | split

theorem keeps_unqueue (h : Keeps a s) : Keeps a (State.unqueue s d st t) := by
  unfold State.unqueue
  repeat' first
    | with_reducible assumption
    | with_reducible apply Keeps.count
    | (with_reducible refine keeps_mk ?_ rfl rfl rfl rfl rfl rfl rfl; first | with_reducible assumption | with_reducible apply Keeps.count)
    | with_reducible apply Keeps.foldl
    | (intro _ _ _; try beta_reduce)
    | (intro _ _; try beta_reduce)
    | (extract_lets +onlyGivenNames x; refine Keeps.cut (a := a) (x := x) ?_ ?_; rotate_left; (intro hx; clear_value x); rotate_left; unfold x; clear x)
    | (extract_lets +onlyGivenNames x; clear_value x)
    | split

theorem keeps_darkPortOut (h : Keeps a s) : Keeps a (State.darkPortOut s d) := by
  unfold State.darkPortOut
  repeat' first
    | with_reducible assumption
    | with_reducible apply Keeps.forEach
    | with_reducible apply keeps_completeXfer
    | with_reducible apply keeps_unqueue
    | (with_reducible refine keeps_mk ?_ rfl rfl rfl rfl rfl rfl rfl; first | with_reducible assumption | with_reducible apply Keeps.forEach | with_reducible apply keeps_completeXfer | with_reducible apply keeps_unqueue)
    | with_reducible apply Keeps.foldl
    | (intro _ _ _; try beta_reduce)
    | (intro _ _; try beta_reduce)
    | (extract_lets +onlyGivenNames x; refine Keeps.cut (a := a) (x := x) ?_ ?_; rotate_left; (intro hx; clear_value x); rotate_left; unfold x; clear x)
    | (extract_lets +onlyGivenNames x; clear_value x)
    | split

theorem keeps_dropBaskets (h : Keeps a s) : Keeps a (State.dropBaskets s d) := by
  unfold State.dropBaskets
  repeat' first
    | with_reducible assumption
    | with_reducible apply Keeps.forEach
    | with_reducible apply keeps_dropSum
    | with_reducible apply keeps_setDieBasket
    | with_reducible apply keeps_unstage
    | with_reducible apply keeps_stage
    | (with_reducible refine keeps_mk ?_ rfl rfl rfl rfl rfl rfl rfl; first | with_reducible assumption | with_reducible apply Keeps.forEach | with_reducible apply keeps_setDieBasket | with_reducible apply keeps_unstage | with_reducible apply keeps_stage)
    | with_reducible apply Keeps.foldl
    | (intro _ _ _; try beta_reduce)
    | (intro _ _; try beta_reduce)
    | (extract_lets +onlyGivenNames x; refine Keeps.cut (a := a) (x := x) ?_ ?_; rotate_left; (intro hx; clear_value x); rotate_left; unfold x; clear x)
    | (extract_lets +onlyGivenNames x; clear_value x)
    | split

theorem keeps_leaveStep (h : Keeps a s) : Keeps a (State.leaveStep s d) := by
  unfold State.leaveStep
  repeat' first
    | with_reducible assumption
    | with_reducible apply Keeps.ledReturn
    | with_reducible apply keeps_dropStreams
    | with_reducible apply keeps_abandonDie
    | with_reducible apply Keeps.forEach
    | with_reducible apply keeps_stopUnit
    | with_reducible apply keeps_setDie
    | with_reducible apply keeps_dropBaskets
    | with_reducible apply keeps_bellRecheck
    | with_reducible apply keeps_collectLoss
    | with_reducible apply Keeps.count
    | with_reducible apply keeps_remap
    | (with_reducible refine keeps_mk ?_ rfl rfl rfl rfl rfl rfl rfl; first | with_reducible assumption | with_reducible apply Keeps.ledReturn | with_reducible apply keeps_dropStreams | with_reducible apply keeps_abandonDie | with_reducible apply Keeps.forEach | with_reducible apply keeps_stopUnit | with_reducible apply keeps_setDie | with_reducible apply keeps_dropBaskets | with_reducible apply keeps_bellRecheck | with_reducible apply keeps_collectLoss | with_reducible apply Keeps.count | with_reducible apply keeps_remap)
    | with_reducible apply Keeps.foldl
    | (intro _ _ _; try beta_reduce)
    | (intro _ _; try beta_reduce)
    | (extract_lets +onlyGivenNames x; refine Keeps.cut (a := a) (x := x) ?_ ?_; rotate_left; (intro hx; clear_value x); rotate_left; unfold x; clear x)
    | (extract_lets +onlyGivenNames x; clear_value x)
    | split

theorem keeps_darkQuarter (h : Keeps a s) : Keeps a (State.darkQuarter s d q st cause) := by
  unfold State.darkQuarter
  repeat' first
    | with_reducible assumption
    | with_reducible apply keeps_setQuarter
    | with_reducible apply keeps_pbDark
    | with_reducible apply keeps_darkPortOut
    | with_reducible apply Keeps.forEach
    | with_reducible apply keeps_stopUnit
    | with_reducible apply keeps_setSlot
    | with_reducible apply keeps_relayDie
    | with_reducible apply Keeps.count
    | with_reducible apply keeps_leaveStep
    | (with_reducible refine keeps_mk ?_ rfl rfl rfl rfl rfl rfl rfl; first | with_reducible assumption | with_reducible apply keeps_setQuarter | with_reducible apply keeps_pbDark | with_reducible apply keeps_darkPortOut | with_reducible apply Keeps.forEach | with_reducible apply keeps_stopUnit | with_reducible apply keeps_setSlot | with_reducible apply keeps_relayDie | with_reducible apply Keeps.count | with_reducible apply keeps_leaveStep)
    | with_reducible apply Keeps.foldl
    | (intro _ _ _; try beta_reduce)
    | (intro _ _; try beta_reduce)
    | (extract_lets +onlyGivenNames x; refine Keeps.cut (a := a) (x := x) ?_ ?_; rotate_left; (intro hx; clear_value x); rotate_left; unfold x; clear x)
    | (extract_lets +onlyGivenNames x; clear_value x)
    | split

theorem keeps_clearDie (h : Keeps a s) : Keeps a (State.clearDie s d) := by
  unfold State.clearDie
  repeat' first
    | with_reducible assumption
    | with_reducible apply Keeps.zeroRange
    | (with_reducible refine keeps_mk ?_ rfl rfl rfl rfl rfl rfl rfl; first | with_reducible assumption | with_reducible apply Keeps.zeroRange)
    | with_reducible apply Keeps.foldl
    | (intro _ _ _; try beta_reduce)
    | (intro _ _; try beta_reduce)
    | (extract_lets +onlyGivenNames x; refine Keeps.cut (a := a) (x := x) ?_ ?_; rotate_left; (intro hx; clear_value x); rotate_left; unfold x; clear x)
    | (extract_lets +onlyGivenNames x; clear_value x)
    | split

theorem keeps_writeOffDie (h : Keeps a s) : Keeps a (State.writeOffDie s d) := by
  unfold State.writeOffDie
  repeat' first
    | with_reducible assumption
    | with_reducible apply Keeps.forEach
    | with_reducible apply Keeps.ledReturn
    | with_reducible apply Keeps.ledWoff
    | (with_reducible refine keeps_mk ?_ rfl rfl rfl rfl rfl rfl rfl; first | with_reducible assumption | with_reducible apply Keeps.forEach | with_reducible apply Keeps.ledReturn | with_reducible apply Keeps.ledWoff)
    | with_reducible apply Keeps.foldl
    | (intro _ _ _; try beta_reduce)
    | (intro _ _; try beta_reduce)
    | (extract_lets +onlyGivenNames x; refine Keeps.cut (a := a) (x := x) ?_ ?_; rotate_left; (intro hx; clear_value x); rotate_left; unfold x; clear x)
    | (extract_lets +onlyGivenNames x; clear_value x)
    | split

theorem keeps_blockWales (h : Keeps a s) : Keeps a (State.blockWales s) := by
  unfold State.blockWales
  repeat' first
    | with_reducible assumption
    | with_reducible apply Keeps.forEach
    | with_reducible apply keeps_setWale
    | (with_reducible refine keeps_mk ?_ rfl rfl rfl rfl rfl rfl rfl; first | with_reducible assumption | with_reducible apply Keeps.forEach | with_reducible apply keeps_setWale)
    | with_reducible apply Keeps.foldl
    | (intro _ _ _; try beta_reduce)
    | (intro _ _; try beta_reduce)
    | (extract_lets +onlyGivenNames x; refine Keeps.cut (a := a) (x := x) ?_ ?_; rotate_left; (intro hx; clear_value x); rotate_left; unfold x; clear x)
    | (extract_lets +onlyGivenNames x; clear_value x)
    | split

theorem keeps_commitDieOut (h : Keeps a s) : Keeps a (State.commitDieOut s d) := by
  unfold State.commitDieOut
  repeat' first
    | with_reducible assumption
    | with_reducible apply keeps_internal
    | (with_reducible refine keeps_mk ?_ rfl rfl rfl rfl rfl rfl rfl; first | with_reducible assumption | with_reducible apply keeps_internal)
    | with_reducible apply Keeps.foldl
    | (intro _ _ _; try beta_reduce)
    | (intro _ _; try beta_reduce)
    | (extract_lets +onlyGivenNames x; refine Keeps.cut (a := a) (x := x) ?_ ?_; rotate_left; (intro hx; clear_value x); rotate_left; unfold x; clear x)
    | (extract_lets +onlyGivenNames x; clear_value x)
    | split

theorem keeps_dieGone (h : Keeps a s) : Keeps a (State.dieGone s d cause st) := by
  unfold State.dieGone
  repeat' first
    | with_reducible assumption
    | with_reducible apply keeps_closeOut
    | with_reducible apply keeps_setDie
    | with_reducible apply keeps_ctxDieLost
    | with_reducible apply Keeps.forEach
    | with_reducible apply keeps_setQuarter
    | with_reducible apply keeps_clearDie
    | with_reducible apply keeps_roundStop
    | with_reducible apply keeps_writeOffDie
    | with_reducible apply keeps_setPort
    | with_reducible apply keeps_collectLoss
    | with_reducible apply keeps_repath
    | with_reducible apply keeps_commitDieOut
    | with_reducible apply keeps_blockWales
    | with_reducible apply Keeps.count
    | (with_reducible refine keeps_mk ?_ rfl rfl rfl rfl rfl rfl rfl; first | with_reducible assumption | with_reducible apply keeps_closeOut | with_reducible apply keeps_setDie | with_reducible apply keeps_ctxDieLost | with_reducible apply Keeps.forEach | with_reducible apply keeps_setQuarter | with_reducible apply keeps_clearDie | with_reducible apply keeps_roundStop | with_reducible apply keeps_writeOffDie | with_reducible apply keeps_setPort | with_reducible apply keeps_collectLoss | with_reducible apply keeps_repath | with_reducible apply keeps_commitDieOut | with_reducible apply keeps_blockWales | with_reducible apply Keeps.count)
    | with_reducible apply Keeps.foldl
    | (intro _ _ _; try beta_reduce)
    | (intro _ _; try beta_reduce)
    | (extract_lets +onlyGivenNames x; refine Keeps.cut (a := a) (x := x) ?_ ?_; rotate_left; (intro hx; clear_value x); rotate_left; unfold x; clear x)
    | (extract_lets +onlyGivenNames x; clear_value x)
    | split

theorem keeps_takeDieOut (h : Keeps a s) : Keeps a (State.takeDieOut s d cause) := by
  unfold State.takeDieOut
  repeat' first
    | with_reducible assumption
    | with_reducible apply keeps_dieGone
    | with_reducible apply keeps_repair
    | (with_reducible refine keeps_mk ?_ rfl rfl rfl rfl rfl rfl rfl; first | with_reducible assumption | with_reducible apply keeps_dieGone | with_reducible apply keeps_repair)
    | with_reducible apply Keeps.foldl
    | (intro _ _ _; try beta_reduce)
    | (intro _ _; try beta_reduce)
    | (extract_lets +onlyGivenNames x; refine Keeps.cut (a := a) (x := x) ?_ ?_; rotate_left; (intro hx; clear_value x); rotate_left; unfold x; clear x)
    | (extract_lets +onlyGivenNames x; clear_value x)
    | split

theorem keeps_repair (h : Keeps a s) : Keeps a (State.repair s kind d u lane) := by
  unfold State.repair
  repeat' first
    | with_reducible assumption
    | (with_reducible refine keeps_mk ?_ rfl rfl rfl rfl rfl rfl rfl; first | with_reducible assumption)
    | with_reducible apply Keeps.foldl
    | (intro _ _ _; try beta_reduce)
    | (intro _ _; try beta_reduce)
    | (extract_lets +onlyGivenNames x; refine Keeps.cut (a := a) (x := x) ?_ ?_; rotate_left; (intro hx; clear_value x); rotate_left; unfold x; clear x)
    | (extract_lets +onlyGivenNames x; clear_value x)
    | split

theorem keeps_noSpare (h : Keeps a s) : Keeps a (State.noSpare s d q) := by
  unfold State.noSpare
  repeat' first
    | with_reducible assumption
    | with_reducible apply keeps_repair
    | with_reducible apply keeps_darkQuarter
    | with_reducible apply keeps_closeOut
    | with_reducible apply keeps_takeDieOut
    | with_reducible apply keeps_remap
    | (with_reducible refine keeps_mk ?_ rfl rfl rfl rfl rfl rfl rfl; first | with_reducible assumption | with_reducible apply keeps_repair | with_reducible apply keeps_darkQuarter | with_reducible apply keeps_closeOut | with_reducible apply keeps_takeDieOut | with_reducible apply keeps_remap)
    | with_reducible apply Keeps.foldl
    | (intro _ _ _; try beta_reduce)
    | (intro _ _; try beta_reduce)
    | (extract_lets +onlyGivenNames x; refine Keeps.cut (a := a) (x := x) ?_ ?_; rotate_left; (intro hx; clear_value x); rotate_left; unfold x; clear x)
    | (extract_lets +onlyGivenNames x; clear_value x)
    | split

theorem keeps_nextSpare (h : Keeps a s) : Keeps a (State.nextSpare s d q) := by
  unfold State.nextSpare
  repeat' first
    | with_reducible assumption
    | with_reducible apply keeps_setQuarter
    | with_reducible apply keeps_noSpare
    | with_reducible apply keeps_setSlotState
    | (with_reducible refine keeps_mk ?_ rfl rfl rfl rfl rfl rfl rfl; first | with_reducible assumption | with_reducible apply keeps_setQuarter | with_reducible apply keeps_noSpare | with_reducible apply keeps_setSlotState)
    | with_reducible apply Keeps.foldl
    | (intro _ _ _; try beta_reduce)
    | (intro _ _; try beta_reduce)
    | (extract_lets +onlyGivenNames x; refine Keeps.cut (a := a) (x := x) ?_ ?_; rotate_left; (intro hx; clear_value x); rotate_left; unfold x; clear x)
    | (extract_lets +onlyGivenNames x; clear_value x)
    | split

theorem keeps_stallFault (h : Keeps a s) : Keeps a (State.stallFault s d l) := by
  unfold State.stallFault
  repeat' first
    | with_reducible assumption
    | with_reducible apply keeps_repair
    | with_reducible apply keeps_setSlotState
    | with_reducible apply keeps_closeOut
    | with_reducible apply keeps_stopWork
    | with_reducible apply Keeps.count
    | with_reducible apply keeps_nextSpare
    | with_reducible apply keeps_remap
    | (with_reducible refine keeps_mk ?_ rfl rfl rfl rfl rfl rfl rfl; first | with_reducible assumption | with_reducible apply keeps_repair | with_reducible apply keeps_setSlotState | with_reducible apply keeps_closeOut | with_reducible apply keeps_stopWork | with_reducible apply Keeps.count | with_reducible apply keeps_nextSpare | with_reducible apply keeps_remap)
    | with_reducible apply Keeps.foldl
    | (intro _ _ _; try beta_reduce)
    | (intro _ _; try beta_reduce)
    | (extract_lets +onlyGivenNames x; refine Keeps.cut (a := a) (x := x) ?_ ?_; rotate_left; (intro hx; clear_value x); rotate_left; unfold x; clear x)
    | (extract_lets +onlyGivenNames x; clear_value x)
    | split

theorem keeps_remap (h : Keeps a s) : Keeps a (State.remap s d l new left) := by
  unfold State.remap
  repeat' first
    | with_reducible assumption
    | with_reducible apply keeps_ctxOpen
    | with_reducible apply keeps_makeWay
    | with_reducible apply keeps_setBctx
    | with_reducible apply keeps_ctxCommitted
    | with_reducible apply keeps_moveSlot
    | with_reducible apply Keeps.count
    | (with_reducible refine keeps_mk ?_ rfl rfl rfl rfl rfl rfl rfl; first | with_reducible assumption | with_reducible apply keeps_ctxOpen | with_reducible apply keeps_makeWay | with_reducible apply keeps_setBctx | with_reducible apply keeps_ctxCommitted | with_reducible apply keeps_moveSlot | with_reducible apply Keeps.count)
    | with_reducible apply Keeps.foldl
    | (intro _ _ _; try beta_reduce)
    | (intro _ _; try beta_reduce)
    | (extract_lets +onlyGivenNames x; refine Keeps.cut (a := a) (x := x) ?_ ?_; rotate_left; (intro hx; clear_value x); rotate_left; unfold x; clear x)
    | (extract_lets +onlyGivenNames x; clear_value x)
    | split

theorem keeps_portLost (h : Keeps a s) : Keeps a (State.portLost s p) := by
  unfold State.portLost
  repeat' first
    | with_reducible assumption
    | with_reducible apply keeps_takeDieOut
    | with_reducible apply keeps_internal
    | with_reducible apply keeps_emit
    | with_reducible apply Keeps.count
    | (with_reducible refine keeps_mk ?_ rfl rfl rfl rfl rfl rfl rfl; first | with_reducible assumption | with_reducible apply keeps_takeDieOut | with_reducible apply keeps_internal | with_reducible apply keeps_emit | with_reducible apply Keeps.count)
    | with_reducible apply Keeps.foldl
    | (intro _ _ _; try beta_reduce)
    | (intro _ _; try beta_reduce)
    | (extract_lets +onlyGivenNames x; refine Keeps.cut (a := a) (x := x) ?_ ?_; rotate_left; (intro hx; clear_value x); rotate_left; unfold x; clear x)
    | (extract_lets +onlyGivenNames x; clear_value x)
    | split

theorem keeps_noteAssume (h : Keeps a s) : Keeps a (State.noteAssume s) := by
  unfold State.noteAssume
  repeat' first
    | with_reducible assumption
    | with_reducible apply keeps_breach
    | (with_reducible refine keeps_mk ?_ rfl rfl rfl rfl rfl rfl rfl; first | with_reducible assumption | with_reducible apply keeps_breach)
    | with_reducible apply Keeps.foldl
    | (intro _ _ _; try beta_reduce)
    | (intro _ _; try beta_reduce)
    | (extract_lets +onlyGivenNames x; refine Keeps.cut (a := a) (x := x) ?_ ?_; rotate_left; (intro hx; clear_value x); rotate_left; unfold x; clear x)
    | (extract_lets +onlyGivenNames x; clear_value x)
    | split

theorem keeps_handleBreach (h : Keeps a s) : Keeps a (State.handleBreach s b) := by
  unfold State.handleBreach
  repeat' first
    | with_reducible assumption
    | with_reducible apply Keeps.count
    | with_reducible apply keeps_recordBreach
    | with_reducible apply keeps_closeOut
    | with_reducible apply keeps_raise
    | with_reducible apply keeps_stopWork
    | with_reducible apply keeps_remap
    | (with_reducible refine keeps_mk ?_ rfl rfl rfl rfl rfl rfl rfl; first | with_reducible assumption | with_reducible apply Keeps.count | with_reducible apply keeps_recordBreach | with_reducible apply keeps_closeOut | with_reducible apply keeps_raise | with_reducible apply keeps_stopWork | with_reducible apply keeps_remap)
    | with_reducible apply Keeps.foldl
    | (intro _ _ _; try beta_reduce)
    | (intro _ _; try beta_reduce)
    | (extract_lets +onlyGivenNames x; refine Keeps.cut (a := a) (x := x) ?_ ?_; rotate_left; (intro hx; clear_value x); rotate_left; unfold x; clear x)
    | (extract_lets +onlyGivenNames x; clear_value x)
    | split

theorem keeps_closeAll (h : Keeps a s) : Keeps a (State.closeAll s p reason cause) := by
  unfold State.closeAll
  repeat' first
    | with_reducible assumption
    | with_reducible apply Keeps.forEach
    | with_reducible apply keeps_closeSlot
    | (with_reducible refine keeps_mk ?_ rfl rfl rfl rfl rfl rfl rfl; first | with_reducible assumption | with_reducible apply Keeps.forEach | with_reducible apply keeps_closeSlot)
    | with_reducible apply Keeps.foldl
    | (intro _ _ _; try beta_reduce)
    | (intro _ _; try beta_reduce)
    | (extract_lets +onlyGivenNames x; refine Keeps.cut (a := a) (x := x) ?_ ?_; rotate_left; (intro hx; clear_value x); rotate_left; unfold x; clear x)
    | (extract_lets +onlyGivenNames x; clear_value x)
    | split

theorem keeps_hostClose (h : Keeps a s) : Keeps a (State.hostClose s p f reason cause) := by
  unfold State.hostClose
  repeat' first
    | with_reducible assumption
    | with_reducible apply keeps_failFlow
    | with_reducible apply keeps_closeSlot
    | (with_reducible refine keeps_mk ?_ rfl rfl rfl rfl rfl rfl rfl; first | with_reducible assumption | with_reducible apply keeps_failFlow | with_reducible apply keeps_closeSlot)
    | with_reducible apply Keeps.foldl
    | (intro _ _ _; try beta_reduce)
    | (intro _ _; try beta_reduce)
    | (extract_lets +onlyGivenNames x; refine Keeps.cut (a := a) (x := x) ?_ ?_; rotate_left; (intro hx; clear_value x); rotate_left; unfold x; clear x)
    | (extract_lets +onlyGivenNames x; clear_value x)
    | split

theorem keeps_withdraw (h : Keeps a s) : Keeps a (State.withdraw s) := by
  unfold State.withdraw
  repeat' first
    | with_reducible assumption
    | with_reducible apply keeps_abortAll
    | with_reducible apply keeps_raise
    | with_reducible apply keeps_stopWork
    | with_reducible apply Keeps.forEach
    | with_reducible apply keeps_closeAll
    | with_reducible apply keeps_freeNext
    | with_reducible apply keeps_remap
    | (with_reducible refine keeps_mk ?_ rfl rfl rfl rfl rfl rfl rfl; first | with_reducible assumption | with_reducible apply keeps_abortAll | with_reducible apply keeps_raise | with_reducible apply keeps_stopWork | with_reducible apply Keeps.forEach | with_reducible apply keeps_closeAll | with_reducible apply keeps_freeNext | with_reducible apply keeps_remap)
    | with_reducible apply Keeps.foldl
    | (intro _ _ _; try beta_reduce)
    | (intro _ _; try beta_reduce)
    | (extract_lets +onlyGivenNames x; refine Keeps.cut (a := a) (x := x) ?_ ?_; rotate_left; (intro hx; clear_value x); rotate_left; unfold x; clear x)
    | (extract_lets +onlyGivenNames x; clear_value x)
    | split

end Sys2Proof.Machine
end

