-- ==== Sys2Proof/Laws/KeepBringOps.lean ====
section
/-! SUPPORT. What the operations of Machine/BringOps.lean keep (Laws/Keeps.lean). -/

namespace Sys2Proof.Machine

variable {a s : State}

theorem keeps_powerOff (h : Keeps a s) : Keeps a (State.powerOff s) :=
  h.trans ⟨rfl, fun _ => rfl, fun _ d c i => by
    show Ledger.sum Ledger.reset = 0
    decide, Nat.le_refl _, Nat.le_refl _, fun _ => ⟨Nat.zero_le _, Nat.le_refl _⟩⟩

theorem keeps_trainWale (h : Keeps a s) : Keeps a (State.trainWale s w) := by
  unfold State.trainWale
  repeat' first
    | with_reducible assumption
    | with_reducible apply keeps_setWale
    | with_reducible apply keeps_hold
    | (with_reducible refine keeps_mk ?_ rfl rfl rfl rfl rfl rfl rfl; first | with_reducible assumption | with_reducible apply keeps_setWale | with_reducible apply keeps_hold)
    | with_reducible apply Keeps.foldl
    | (intro _ _ _; try beta_reduce)
    | (intro _ _; try beta_reduce)
    | (extract_lets +onlyGivenNames x; refine Keeps.cut (a := a) (x := x) ?_ ?_; rotate_left; (intro hx; clear_value x); rotate_left; unfold x; clear x)
    | (extract_lets +onlyGivenNames x; clear_value x)
    | split

theorem keeps_pwrCheck (h : Keeps a s) : Keeps a (State.pwrCheck s) := by
  unfold State.pwrCheck
  repeat' first
    | with_reducible assumption
    | (with_reducible refine keeps_mk ?_ rfl rfl rfl rfl rfl rfl rfl; first | with_reducible assumption)
    | with_reducible apply Keeps.foldl
    | (intro _ _ _; try beta_reduce)
    | (intro _ _; try beta_reduce)
    | (extract_lets +onlyGivenNames x; refine Keeps.cut (a := a) (x := x) ?_ ?_; rotate_left; (intro hx; clear_value x); rotate_left; unfold x; clear x)
    | (extract_lets +onlyGivenNames x; clear_value x)
    | split

theorem keeps_bootDie (h : Keeps a s) : Keeps a (State.bootDie s d) := by
  unfold State.bootDie
  repeat' first
    | with_reducible assumption
    | with_reducible apply Keeps.count
    | with_reducible apply keeps_setDie
    | with_reducible apply keeps_stage
    | (with_reducible refine keeps_mk ?_ rfl rfl rfl rfl rfl rfl rfl; first | with_reducible assumption | with_reducible apply Keeps.count | with_reducible apply keeps_setDie | with_reducible apply keeps_stage)
    | with_reducible apply Keeps.foldl
    | (intro _ _ _; try beta_reduce)
    | (intro _ _; try beta_reduce)
    | (extract_lets +onlyGivenNames x; refine Keeps.cut (a := a) (x := x) ?_ ?_; rotate_left; (intro hx; clear_value x); rotate_left; unfold x; clear x)
    | (extract_lets +onlyGivenNames x; clear_value x)
    | split

theorem keeps_zeroDie (h : Keeps a s) : Keeps a (State.zeroDie s d) := by
  unfold State.zeroDie
  repeat' first
    | with_reducible assumption
    | with_reducible apply Keeps.zeroRange
    | with_reducible apply keeps_hold
    | (with_reducible refine keeps_mk ?_ rfl rfl rfl rfl rfl rfl rfl; first | with_reducible assumption | with_reducible apply Keeps.zeroRange | with_reducible apply keeps_hold)
    | with_reducible apply Keeps.foldl
    | (intro _ _ _; try beta_reduce)
    | (intro _ _; try beta_reduce)
    | (extract_lets +onlyGivenNames x; refine Keeps.cut (a := a) (x := x) ?_ ?_; rotate_left; (intro hx; clear_value x); rotate_left; unfold x; clear x)
    | (extract_lets +onlyGivenNames x; clear_value x)
    | split

theorem keeps_pipeStart (h : Keeps a s) : Keeps a (State.pipeStart s d) := by
  unfold State.pipeStart
  repeat' first
    | with_reducible assumption
    | with_reducible apply Keeps.forEach
    | with_reducible apply Keeps.ledIssue
    | with_reducible apply keeps_setLevel
    | (with_reducible refine keeps_mk ?_ rfl rfl rfl rfl rfl rfl rfl; first | with_reducible assumption | with_reducible apply Keeps.forEach | with_reducible apply Keeps.ledIssue | with_reducible apply keeps_setLevel)
    | with_reducible apply Keeps.foldl
    | (intro _ _ _; try beta_reduce)
    | (intro _ _; try beta_reduce)
    | (extract_lets +onlyGivenNames x; refine Keeps.cut (a := a) (x := x) ?_ ?_; rotate_left; (intro hx; clear_value x); rotate_left; unfold x; clear x)
    | (extract_lets +onlyGivenNames x; clear_value x)
    | split

theorem keeps_bootDone (h : Keeps a s) : Keeps a (State.bootDone s d) := by
  unfold State.bootDone
  repeat' first
    | with_reducible assumption
    | with_reducible apply keeps_setDie
    | with_reducible apply keeps_zeroDie
    | with_reducible apply Keeps.count
    | with_reducible apply keeps_pipeStart
    | with_reducible apply keeps_stage
    | (with_reducible refine keeps_mk ?_ rfl rfl rfl rfl rfl rfl rfl; first | with_reducible assumption | with_reducible apply keeps_setDie | with_reducible apply keeps_zeroDie | with_reducible apply Keeps.count | with_reducible apply keeps_pipeStart | with_reducible apply keeps_stage)
    | with_reducible apply Keeps.foldl
    | (intro _ _ _; try beta_reduce)
    | (intro _ _; try beta_reduce)
    | (extract_lets +onlyGivenNames x; refine Keeps.cut (a := a) (x := x) ?_ ?_; rotate_left; (intro hx; clear_value x); rotate_left; unfold x; clear x)
    | (extract_lets +onlyGivenNames x; clear_value x)
    | split

theorem keeps_bootFail (h : Keeps a s) : Keeps a (State.bootFail s d err) := by
  unfold State.bootFail
  repeat' first
    | with_reducible assumption
    | with_reducible apply Keeps.count
    | with_reducible apply keeps_commitDieOut
    | with_reducible apply keeps_setDie
    | with_reducible apply keeps_dieGone
    | with_reducible apply keeps_stage
    | (with_reducible refine keeps_mk ?_ rfl rfl rfl rfl rfl rfl rfl; first | with_reducible assumption | with_reducible apply Keeps.count | with_reducible apply keeps_commitDieOut | with_reducible apply keeps_setDie | with_reducible apply keeps_dieGone | with_reducible apply keeps_stage)
    | with_reducible apply Keeps.foldl
    | (intro _ _ _; try beta_reduce)
    | (intro _ _; try beta_reduce)
    | (extract_lets +onlyGivenNames x; refine Keeps.cut (a := a) (x := x) ?_ ?_; rotate_left; (intro hx; clear_value x); rotate_left; unfold x; clear x)
    | (extract_lets +onlyGivenNames x; clear_value x)
    | split

theorem keeps_formQuarter (h : Keeps a s) : Keeps a (State.formQuarter s d q) := by
  unfold State.formQuarter
  repeat' first
    | with_reducible assumption
    | with_reducible apply keeps_setQuarter
    | (with_reducible refine keeps_mk ?_ rfl rfl rfl rfl rfl rfl rfl; first | with_reducible assumption | with_reducible apply keeps_setQuarter)
    | with_reducible apply Keeps.foldl
    | (intro _ _ _; try beta_reduce)
    | (intro _ _; try beta_reduce)
    | (extract_lets +onlyGivenNames x; refine Keeps.cut (a := a) (x := x) ?_ ?_; rotate_left; (intro hx; clear_value x); rotate_left; unfold x; clear x)
    | (extract_lets +onlyGivenNames x; clear_value x)
    | split

theorem keeps_formMaps (h : Keeps a s) : Keeps a (State.formMaps s ds) := by
  unfold State.formMaps
  repeat' first
    | with_reducible assumption
    | with_reducible apply keeps_ctxOpen
    | with_reducible apply keeps_makeWay
    | with_reducible apply keeps_setBctx
    | with_reducible apply keeps_ctxCommitted
    | with_reducible apply Keeps.forEach
    | with_reducible apply keeps_formQuarter
    | (with_reducible refine keeps_mk ?_ rfl rfl rfl rfl rfl rfl rfl; first | with_reducible assumption | with_reducible apply keeps_ctxOpen | with_reducible apply keeps_makeWay | with_reducible apply keeps_setBctx | with_reducible apply keeps_ctxCommitted | with_reducible apply Keeps.forEach | with_reducible apply keeps_formQuarter)
    | with_reducible apply Keeps.foldl
    | (intro _ _ _; try beta_reduce)
    | (intro _ _; try beta_reduce)
    | (extract_lets +onlyGivenNames x; refine Keeps.cut (a := a) (x := x) ?_ ?_; rotate_left; (intro hx; clear_value x); rotate_left; unfold x; clear x)
    | (extract_lets +onlyGivenNames x; clear_value x)
    | split

theorem keeps_startQuarter (h : Keeps a s) : Keeps a (State.startQuarter s d q) := by
  unfold State.startQuarter
  repeat' first
    | with_reducible assumption
    | with_reducible apply keeps_setQuarter
    | with_reducible apply keeps_remap
    | (with_reducible refine keeps_mk ?_ rfl rfl rfl rfl rfl rfl rfl; first | with_reducible assumption | with_reducible apply keeps_setQuarter | with_reducible apply keeps_remap)
    | with_reducible apply Keeps.foldl
    | (intro _ _ _; try beta_reduce)
    | (intro _ _; try beta_reduce)
    | (extract_lets +onlyGivenNames x; refine Keeps.cut (a := a) (x := x) ?_ ?_; rotate_left; (intro hx; clear_value x); rotate_left; unfold x; clear x)
    | (extract_lets +onlyGivenNames x; clear_value x)
    | split

theorem keeps_quarterUp (h : Keeps a s) : Keeps a (State.quarterUp s d q) := by
  unfold State.quarterUp
  repeat' first
    | with_reducible assumption
    | with_reducible apply Keeps.forEach
    | with_reducible apply keeps_zeroScratch
    | with_reducible apply keeps_setSlot
    | with_reducible apply keeps_setArc
    | with_reducible apply keeps_setQuarter
    | with_reducible apply keeps_nextSpare
    | with_reducible apply keeps_repair
    | (with_reducible refine keeps_mk ?_ rfl rfl rfl rfl rfl rfl rfl; first | with_reducible assumption | with_reducible apply Keeps.forEach | with_reducible apply keeps_zeroScratch | with_reducible apply keeps_setSlot | with_reducible apply keeps_setArc | with_reducible apply keeps_setQuarter | with_reducible apply keeps_nextSpare | with_reducible apply keeps_repair)
    | with_reducible apply Keeps.foldl
    | (intro _ _ _; try beta_reduce)
    | (intro _ _; try beta_reduce)
    | (extract_lets +onlyGivenNames x; refine Keeps.cut (a := a) (x := x) ?_ ?_; rotate_left; (intro hx; clear_value x); rotate_left; unfold x; clear x)
    | (extract_lets +onlyGivenNames x; clear_value x)
    | split

theorem keeps_bringDies (h : Keeps a s) : Keeps a (State.bringDies s) := by
  unfold State.bringDies
  repeat' first
    | with_reducible assumption
    | with_reducible apply Keeps.forEach
    | with_reducible apply keeps_trainWale
    | with_reducible apply keeps_setDie
    | with_reducible apply keeps_setPort
    | with_reducible apply keeps_bootDie
    | with_reducible apply keeps_raise
    | (with_reducible refine keeps_mk ?_ rfl rfl rfl rfl rfl rfl rfl; first | with_reducible assumption | with_reducible apply Keeps.forEach | with_reducible apply keeps_trainWale | with_reducible apply keeps_setDie | with_reducible apply keeps_setPort | with_reducible apply keeps_bootDie | with_reducible apply keeps_raise)
    | with_reducible apply Keeps.foldl
    | (intro _ _ _; try beta_reduce)
    | (intro _ _; try beta_reduce)
    | (extract_lets +onlyGivenNames x; refine Keeps.cut (a := a) (x := x) ?_ ?_; rotate_left; (intro hx; clear_value x); rotate_left; unfold x; clear x)
    | (extract_lets +onlyGivenNames x; clear_value x)
    | split

theorem keeps_upNow (h : Keeps a s) : Keeps a (State.upNow s) := by
  refine keeps_pwrCheck (h.trans ⟨rfl, id, id, Nat.le_refl _, ?_, id⟩)
  have go : ∀ (b : Byte) (f : FwImage),
      b.toNat ≤ (if f.raise && decide (b.toNat < f.svn.toNat) then f.svn else b).toNat := by
    intro b f
    split
    · rename_i hr
      simp only [Bool.and_eq_true, decide_eq_true_eq] at hr
      exact Nat.le_of_lt hr.2
    · exact Nat.le_refl _
  exact Nat.le_trans (go _ _) (go _ _)

theorem keeps_upCheck (h : Keeps a s) : Keeps a (State.upCheck s) := by
  unfold State.upCheck
  repeat' first
    | with_reducible assumption
    | with_reducible apply keeps_upNow
    | (with_reducible refine keeps_mk ?_ rfl rfl rfl rfl rfl rfl rfl; first | with_reducible assumption | with_reducible apply keeps_upNow)
    | with_reducible apply Keeps.foldl
    | (intro _ _ _; try beta_reduce)
    | (intro _ _; try beta_reduce)
    | (extract_lets +onlyGivenNames x; refine Keeps.cut (a := a) (x := x) ?_ ?_; rotate_left; (intro hx; clear_value x); rotate_left; unfold x; clear x)
    | (extract_lets +onlyGivenNames x; clear_value x)
    | split

theorem keeps_formGrid (h : Keeps a s) : Keeps a (State.formGrid s) := by
  unfold State.formGrid
  repeat' first
    | with_reducible assumption
    | with_reducible apply keeps_formMaps
    | with_reducible apply Keeps.forEach
    | with_reducible apply keeps_commitDieOut
    | with_reducible apply keeps_takeDieOut
    | with_reducible apply keeps_repath
    | with_reducible apply keeps_blockWales
    | with_reducible apply keeps_startQuarter
    | (with_reducible refine keeps_mk ?_ rfl rfl rfl rfl rfl rfl rfl; first | with_reducible assumption | with_reducible apply keeps_formMaps | with_reducible apply Keeps.forEach | with_reducible apply keeps_commitDieOut | with_reducible apply keeps_takeDieOut | with_reducible apply keeps_repath | with_reducible apply keeps_blockWales | with_reducible apply keeps_startQuarter)
    | with_reducible apply Keeps.foldl
    | (intro _ _ _; try beta_reduce)
    | (intro _ _; try beta_reduce)
    | (extract_lets +onlyGivenNames x; refine Keeps.cut (a := a) (x := x) ?_ ?_; rotate_left; (intro hx; clear_value x); rotate_left; unfold x; clear x)
    | (extract_lets +onlyGivenNames x; clear_value x)
    | split

theorem keeps_bringCheck (h : Keeps a s) : Keeps a (State.bringCheck s) := by
  unfold State.bringCheck
  repeat' first
    | with_reducible assumption
    | with_reducible apply keeps_upCheck
    | with_reducible apply keeps_formGrid
    | (with_reducible refine keeps_mk ?_ rfl rfl rfl rfl rfl rfl rfl; first | with_reducible assumption | with_reducible apply keeps_upCheck | with_reducible apply keeps_formGrid)
    | with_reducible apply Keeps.foldl
    | (intro _ _ _; try beta_reduce)
    | (intro _ _; try beta_reduce)
    | (extract_lets +onlyGivenNames x; refine Keeps.cut (a := a) (x := x) ?_ ?_; rotate_left; (intro hx; clear_value x); rotate_left; unfold x; clear x)
    | (extract_lets +onlyGivenNames x; clear_value x)
    | split

end Sys2Proof.Machine
end

