-- ==== Sys2Proof/Laws/KeepKeeperOps.lean ====
section
/-! SUPPORT. What the operations of Machine/KeeperOps.lean keep (Laws/Keeps.lean). -/

namespace Sys2Proof.Machine

variable {a s : State}

theorem keeps_logEvent (h : Keeps a s) : Keeps a (State.logEvent s code page) := by
  unfold State.logEvent
  repeat' first
    | with_reducible assumption
    | with_reducible apply Keeps.count
    | (with_reducible refine keeps_mk ?_ rfl rfl rfl rfl rfl rfl rfl; first | with_reducible assumption | with_reducible apply Keeps.count)
    | with_reducible apply Keeps.foldl
    | (intro _ _ _; try beta_reduce)
    | (intro _ _; try beta_reduce)
    | (extract_lets +onlyGivenNames x; refine Keeps.cut (a := a) (x := x) ?_ ?_; rotate_left; (intro hx; clear_value x); rotate_left; unfold x; clear x)
    | (extract_lets +onlyGivenNames x; clear_value x)
    | split

theorem keeps_logOther (h : Keeps a s) : Keeps a (State.logOther s page) := by
  unfold State.logOther
  repeat' first
    | with_reducible assumption
    | with_reducible apply keeps_logEvent
    | with_reducible apply keeps_freeNext
    | (with_reducible refine keeps_mk ?_ rfl rfl rfl rfl rfl rfl rfl; first | with_reducible assumption | with_reducible apply keeps_logEvent | with_reducible apply keeps_freeNext)
    | with_reducible apply Keeps.foldl
    | (intro _ _ _; try beta_reduce)
    | (intro _ _; try beta_reduce)
    | (extract_lets +onlyGivenNames x; refine Keeps.cut (a := a) (x := x) ?_ ?_; rotate_left; (intro hx; clear_value x); rotate_left; unfold x; clear x)
    | (extract_lets +onlyGivenNames x; clear_value x)
    | split

theorem keeps_eraseAllKeys (h : Keeps a s) : Keeps a (State.eraseAllKeys s) := by
  unfold State.eraseAllKeys
  repeat' first
    | with_reducible assumption
    | (with_reducible refine keeps_mk ?_ rfl rfl rfl rfl rfl rfl rfl; first | with_reducible assumption)
    | with_reducible apply Keeps.foldl
    | (intro _ _ _; try beta_reduce)
    | (intro _ _; try beta_reduce)
    | (extract_lets +onlyGivenNames x; refine Keeps.cut (a := a) (x := x) ?_ ?_; rotate_left; (intro hx; clear_value x); rotate_left; unfold x; clear x)
    | (extract_lets +onlyGivenNames x; clear_value x)
    | split

theorem keeps_retarget (h : Keeps a s) : Keeps a (State.retarget s) := by
  unfold State.retarget
  repeat' first
    | with_reducible assumption
    | with_reducible apply keeps_hold
    | (with_reducible refine keeps_mk ?_ rfl rfl rfl rfl rfl rfl rfl; first | with_reducible assumption | with_reducible apply keeps_hold)
    | with_reducible apply Keeps.foldl
    | (intro _ _ _; try beta_reduce)
    | (intro _ _; try beta_reduce)
    | (extract_lets +onlyGivenNames x; refine Keeps.cut (a := a) (x := x) ?_ ?_; rotate_left; (intro hx; clear_value x); rotate_left; unfold x; clear x)
    | (extract_lets +onlyGivenNames x; clear_value x)
    | split

theorem keeps_setLatch (h : Keeps a s) : Keeps a (State.setLatch s b) := by
  unfold State.setLatch
  repeat' first
    | with_reducible assumption
    | with_reducible apply keeps_retarget
    | (with_reducible refine keeps_mk ?_ rfl rfl rfl rfl rfl rfl rfl; first | with_reducible assumption | with_reducible apply keeps_retarget)
    | with_reducible apply Keeps.foldl
    | (intro _ _ _; try beta_reduce)
    | (intro _ _; try beta_reduce)
    | (extract_lets +onlyGivenNames x; refine Keeps.cut (a := a) (x := x) ?_ ?_; rotate_left; (intro hx; clear_value x); rotate_left; unfold x; clear x)
    | (extract_lets +onlyGivenNames x; clear_value x)
    | split

theorem keeps_wakeBlock (h : Keeps a s) : Keeps a (State.wakeBlock s) := by
  unfold State.wakeBlock
  repeat' first
    | with_reducible assumption
    | (with_reducible refine keeps_mk ?_ rfl rfl rfl rfl rfl rfl rfl; first | with_reducible assumption)
    | with_reducible apply Keeps.foldl
    | (intro _ _ _; try beta_reduce)
    | (intro _ _; try beta_reduce)
    | (extract_lets +onlyGivenNames x; refine Keeps.cut (a := a) (x := x) ?_ ?_; rotate_left; (intro hx; clear_value x); rotate_left; unfold x; clear x)
    | (extract_lets +onlyGivenNames x; clear_value x)
    | split

theorem keeps_sendFinal (h : Keeps a s) : Keeps a (State.sendFinal s withdrawal) := by
  unfold State.sendFinal
  repeat' first
    | with_reducible assumption
    | with_reducible apply keeps_emit
    | (with_reducible refine keeps_mk ?_ rfl rfl rfl rfl rfl rfl rfl; first | with_reducible assumption | with_reducible apply keeps_emit)
    | with_reducible apply Keeps.foldl
    | (intro _ _ _; try beta_reduce)
    | (intro _ _; try beta_reduce)
    | (extract_lets +onlyGivenNames x; refine Keeps.cut (a := a) (x := x) ?_ ?_; rotate_left; (intro hx; clear_value x); rotate_left; unfold x; clear x)
    | (extract_lets +onlyGivenNames x; clear_value x)
    | split

theorem keeps_checkGo (h : Keeps a s) : Keeps a (State.checkGo s) := by
  unfold State.checkGo
  repeat' first
    | with_reducible assumption
    | (with_reducible refine keeps_mk ?_ rfl rfl rfl rfl rfl rfl rfl; first | with_reducible assumption)
    | with_reducible apply Keeps.foldl
    | (intro _ _ _; try beta_reduce)
    | (intro _ _; try beta_reduce)
    | (extract_lets +onlyGivenNames x; refine Keeps.cut (a := a) (x := x) ?_ ?_; rotate_left; (intro hx; clear_value x); rotate_left; unfold x; clear x)
    | (extract_lets +onlyGivenNames x; clear_value x)
    | split

theorem keeps_adoptEnd (h : Keeps a s) : Keeps a (State.adoptEnd s v1 cause) := by
  unfold State.adoptEnd
  repeat' first
    | with_reducible assumption
    | with_reducible apply Keeps.count
    | with_reducible apply keeps_setLatch
    | (with_reducible refine keeps_mk ?_ rfl rfl rfl rfl rfl rfl rfl; first | with_reducible assumption | with_reducible apply Keeps.count | with_reducible apply keeps_setLatch)
    | with_reducible apply Keeps.foldl
    | (intro _ _ _; try beta_reduce)
    | (intro _ _; try beta_reduce)
    | (extract_lets +onlyGivenNames x; refine Keeps.cut (a := a) (x := x) ?_ ?_; rotate_left; (intro hx; clear_value x); rotate_left; unfold x; clear x)
    | (extract_lets +onlyGivenNames x; clear_value x)
    | split

theorem keeps_adoptFail (h : Keeps a s) : Keeps a (State.adoptFail s cause) := by
  unfold State.adoptFail
  repeat' first
    | with_reducible assumption
    | with_reducible apply keeps_adoptEnd
    | (with_reducible refine keeps_mk ?_ rfl rfl rfl rfl rfl rfl rfl; first | with_reducible assumption | with_reducible apply keeps_adoptEnd)
    | with_reducible apply Keeps.foldl
    | (intro _ _ _; try beta_reduce)
    | (intro _ _; try beta_reduce)
    | (extract_lets +onlyGivenNames x; refine Keeps.cut (a := a) (x := x) ?_ ?_; rotate_left; (intro hx; clear_value x); rotate_left; unfold x; clear x)
    | (extract_lets +onlyGivenNames x; clear_value x)
    | split

theorem keeps_adoptLeidCommit (h : Keeps a s) : Keeps a (State.adoptLeidCommit s leid) := by
  unfold State.adoptLeidCommit
  repeat' first
    | with_reducible assumption
    | with_reducible apply keeps_adoptFail
    | with_reducible apply keeps_internal
    | with_reducible apply keeps_checkGo
    | with_reducible apply keeps_pokePair
    | with_reducible apply keeps_adoptEnd
    | (with_reducible refine keeps_mk ?_ rfl rfl rfl rfl rfl rfl rfl; first | with_reducible assumption | with_reducible apply keeps_adoptFail | with_reducible apply keeps_internal | with_reducible apply keeps_checkGo | with_reducible apply keeps_pokePair | with_reducible apply keeps_adoptEnd)
    | with_reducible apply Keeps.foldl
    | (intro _ _ _; try beta_reduce)
    | (intro _ _; try beta_reduce)
    | (extract_lets +onlyGivenNames x; refine Keeps.cut (a := a) (x := x) ?_ ?_; rotate_left; (intro hx; clear_value x); rotate_left; unfold x; clear x)
    | (extract_lets +onlyGivenNames x; clear_value x)
    | split

theorem keeps_adoptLoad (h : Keeps a s) : Keeps a (State.adoptLoad s) := by
  unfold State.adoptLoad
  repeat' first
    | with_reducible assumption
    | with_reducible apply keeps_adoptFail
    | with_reducible apply keeps_internal
    | (with_reducible refine keeps_mk ?_ rfl rfl rfl rfl rfl rfl rfl; first | with_reducible assumption | with_reducible apply keeps_adoptFail | with_reducible apply keeps_internal)
    | with_reducible apply Keeps.foldl
    | (intro _ _ _; try beta_reduce)
    | (intro _ _; try beta_reduce)
    | (extract_lets +onlyGivenNames x; refine Keeps.cut (a := a) (x := x) ?_ ?_; rotate_left; (intro hx; clear_value x); rotate_left; unfold x; clear x)
    | (extract_lets +onlyGivenNames x; clear_value x)
    | split

theorem keeps_adoptGo (h : Keeps a s) : Keeps a (State.adoptGo s) := by
  unfold State.adoptGo
  repeat' first
    | with_reducible assumption
    | with_reducible apply keeps_adoptFail
    | with_reducible apply keeps_adoptLeidCommit
    | with_reducible apply keeps_adoptLoad
    | with_reducible apply keeps_adoptEnd
    | (with_reducible refine keeps_mk ?_ rfl rfl rfl rfl rfl rfl rfl; first | with_reducible assumption | with_reducible apply keeps_adoptFail | with_reducible apply keeps_adoptLeidCommit | with_reducible apply keeps_adoptLoad | with_reducible apply keeps_adoptEnd)
    | with_reducible apply Keeps.foldl
    | (intro _ _ _; try beta_reduce)
    | (intro _ _; try beta_reduce)
    | (extract_lets +onlyGivenNames x; refine Keeps.cut (a := a) (x := x) ?_ ?_; rotate_left; (intro hx; clear_value x); rotate_left; unfold x; clear x)
    | (extract_lets +onlyGivenNames x; clear_value x)
    | split

theorem keeps_withdrawAll (h : Keeps a s) : Keeps a (State.withdrawAll s) := by
  unfold State.withdrawAll
  repeat' first
    | with_reducible assumption
    | with_reducible apply keeps_sendFinal
    | with_reducible apply keeps_eraseAllKeys
    | with_reducible apply keeps_logEvent
    | with_reducible apply keeps_withdraw
    | with_reducible apply keeps_adoptFail
    | (with_reducible refine keeps_mk ?_ rfl rfl rfl rfl rfl rfl rfl; first | with_reducible assumption | with_reducible apply keeps_sendFinal | with_reducible apply keeps_eraseAllKeys | with_reducible apply keeps_logEvent | with_reducible apply keeps_withdraw | with_reducible apply keeps_adoptFail)
    | with_reducible apply Keeps.foldl
    | (intro _ _ _; try beta_reduce)
    | (intro _ _; try beta_reduce)
    | (extract_lets +onlyGivenNames x; refine Keeps.cut (a := a) (x := x) ?_ ?_; rotate_left; (intro hx; clear_value x); rotate_left; unfold x; clear x)
    | (extract_lets +onlyGivenNames x; clear_value x)
    | split

end Sys2Proof.Machine
end

