-- ==== Sys2Proof/Laws/KeepStallFam.lean ====
section
/-! SUPPORT. What the operations of Machine/StallFam.lean keep (Laws/Keeps.lean). -/

namespace Sys2Proof.Machine

variable {a s : State}

theorem keeps_passIssue (h : Keeps a s) : Keeps a (State.passIssue s d p w) := by
  unfold State.passIssue
  repeat' first
    | with_reducible assumption
    | with_reducible apply keeps_flagIf
    | with_reducible apply keeps_setSlot
    | (with_reducible refine keeps_mk ?_ rfl rfl rfl rfl rfl rfl rfl; first | with_reducible assumption | with_reducible apply keeps_flagIf | with_reducible apply keeps_setSlot)
    | with_reducible apply Keeps.foldl
    | (intro _ _ _; try beta_reduce)
    | (intro _ _; try beta_reduce)
    | (extract_lets +onlyGivenNames x; refine Keeps.cut (a := a) (x := x) ?_ ?_; rotate_left; (intro hx; clear_value x); rotate_left; unfold x; clear x)
    | (extract_lets +onlyGivenNames x; clear_value x)
    | split

theorem keeps_execPass (h : Keeps a s) : KeepsO a (execPass d l w s) := by
  unfold execPass
  repeat' first
    | with_reducible assumption
    | with_reducible apply keepsO_ok
    | with_reducible apply KeepsO.next
    | with_reducible apply keeps_reachHead
    | with_reducible apply keepsO_ok
    | with_reducible apply keeps_stallWait
    | with_reducible apply keeps_passIssue
    | (with_reducible refine keeps_mk ?_ rfl rfl rfl rfl rfl rfl rfl; first | with_reducible assumption | with_reducible apply keeps_reachHead | with_reducible apply keepsO_ok | with_reducible apply keeps_stallWait | with_reducible apply keeps_passIssue)
    | with_reducible apply Keeps.foldl
    | (intro _ _ _; try beta_reduce)
    | (intro _ _; try beta_reduce)
    | (extract_lets +onlyGivenNames x; refine Keeps.cut (a := a) (x := x) ?_ ?_; rotate_left; (intro hx; clear_value x); rotate_left; unfold x; clear x)
    | (extract_lets +onlyGivenNames x; clear_value x)
    | split

theorem keeps_execPreloadDone (h : Keeps a s) : KeepsO a (execPreloadDone d l t s) := by
  unfold execPreloadDone
  repeat' first
    | with_reducible assumption
    | with_reducible apply keepsO_ok
    | with_reducible apply KeepsO.next
    | with_reducible apply keeps_noteReads
    | with_reducible apply keeps_setSlot
    | with_reducible apply keepsO_ok
    | with_reducible apply keeps_flagIf
    | (with_reducible refine keeps_mk ?_ rfl rfl rfl rfl rfl rfl rfl; first | with_reducible assumption | with_reducible apply keeps_noteReads | with_reducible apply keeps_setSlot | with_reducible apply keepsO_ok | with_reducible apply keeps_flagIf)
    | with_reducible apply Keeps.foldl
    | (intro _ _ _; try beta_reduce)
    | (intro _ _; try beta_reduce)
    | (extract_lets +onlyGivenNames x; refine Keeps.cut (a := a) (x := x) ?_ ?_; rotate_left; (intro hx; clear_value x); rotate_left; unfold x; clear x)
    | (extract_lets +onlyGivenNames x; clear_value x)
    | split

theorem keeps_execPassRunEnd (h : Keeps a s) : KeepsO a (execPassRunEnd d l t s) := by
  unfold execPassRunEnd
  repeat' first
    | with_reducible assumption
    | with_reducible apply keepsO_ok
    | with_reducible apply KeepsO.next
    | with_reducible apply keepsO_ok
    | with_reducible apply keeps_setSlot
    | (with_reducible refine keeps_mk ?_ rfl rfl rfl rfl rfl rfl rfl; first | with_reducible assumption | with_reducible apply keepsO_ok | with_reducible apply keeps_setSlot)
    | with_reducible apply Keeps.foldl
    | (intro _ _ _; try beta_reduce)
    | (intro _ _; try beta_reduce)
    | (extract_lets +onlyGivenNames x; refine Keeps.cut (a := a) (x := x) ?_ ?_; rotate_left; (intro hx; clear_value x); rotate_left; unfold x; clear x)
    | (extract_lets +onlyGivenNames x; clear_value x)
    | split

theorem keeps_checkPassed (h : Keeps a s) : Keeps a (State.checkPassed s d p t w) := by
  unfold State.checkPassed
  repeat' first
    | with_reducible assumption
    | with_reducible apply Keeps.count
    | with_reducible apply keeps_setSlot
    | (with_reducible refine keeps_mk ?_ rfl rfl rfl rfl rfl rfl rfl; first | with_reducible assumption | with_reducible apply Keeps.count | with_reducible apply keeps_setSlot)
    | with_reducible apply Keeps.foldl
    | (intro _ _ _; try beta_reduce)
    | (intro _ _; try beta_reduce)
    | (extract_lets +onlyGivenNames x; refine Keeps.cut (a := a) (x := x) ?_ ?_; rotate_left; (intro hx; clear_value x); rotate_left; unfold x; clear x)
    | (extract_lets +onlyGivenNames x; clear_value x)
    | split

theorem keeps_styRepeat (h : Keeps a s) : Keeps a (State.styRepeat s d l p) := by
  unfold State.styRepeat
  repeat' first
    | with_reducible assumption
    | with_reducible apply keeps_raise
    | with_reducible apply keeps_setBits
    | with_reducible apply keeps_stallFault
    | with_reducible apply keeps_setArc
    | (with_reducible refine keeps_mk ?_ rfl rfl rfl rfl rfl rfl rfl; first | with_reducible assumption | with_reducible apply keeps_raise | with_reducible apply keeps_setBits | with_reducible apply keeps_stallFault | with_reducible apply keeps_setArc)
    | with_reducible apply Keeps.foldl
    | (intro _ _ _; try beta_reduce)
    | (intro _ _; try beta_reduce)
    | (extract_lets +onlyGivenNames x; refine Keeps.cut (a := a) (x := x) ?_ ?_; rotate_left; (intro hx; clear_value x); rotate_left; unfold x; clear x)
    | (extract_lets +onlyGivenNames x; clear_value x)
    | split

theorem keeps_styTransient (h : Keeps a s) : Keeps a (State.styTransient s d l p t) := by
  unfold State.styTransient
  repeat' first
    | with_reducible assumption
    | with_reducible apply keeps_incSat
    | with_reducible apply keeps_setBits
    | with_reducible apply keeps_raise
    | with_reducible apply keeps_setSlot
    | with_reducible apply keeps_styRepeat
    | with_reducible apply keeps_beginReplay
    | (with_reducible refine keeps_mk ?_ rfl rfl rfl rfl rfl rfl rfl; first | with_reducible assumption | with_reducible apply keeps_incSat | with_reducible apply keeps_setBits | with_reducible apply keeps_raise | with_reducible apply keeps_setSlot | with_reducible apply keeps_styRepeat | with_reducible apply keeps_beginReplay)
    | with_reducible apply Keeps.foldl
    | (intro _ _ _; try beta_reduce)
    | (intro _ _; try beta_reduce)
    | (extract_lets +onlyGivenNames x; refine Keeps.cut (a := a) (x := x) ?_ ?_; rotate_left; (intro hx; clear_value x); rotate_left; unfold x; clear x)
    | (extract_lets +onlyGivenNames x; clear_value x)
    | split

theorem keeps_checkTile (h : Keeps a s) : Keeps a (State.checkTile s d l p t w err) := by
  unfold State.checkTile
  repeat' first
    | with_reducible assumption
    | with_reducible apply keeps_setSlot
    | with_reducible apply keeps_incSat
    | with_reducible apply keeps_checkPassed
    | with_reducible apply keeps_poke
    | with_reducible apply keeps_styRepeat
    | with_reducible apply keeps_styTransient
    | (with_reducible refine keeps_mk ?_ rfl rfl rfl rfl rfl rfl rfl; first | with_reducible assumption | with_reducible apply keeps_setSlot | with_reducible apply keeps_incSat | with_reducible apply keeps_checkPassed | with_reducible apply keeps_poke | with_reducible apply keeps_styRepeat | with_reducible apply keeps_styTransient)
    | with_reducible apply Keeps.foldl
    | (intro _ _ _; try beta_reduce)
    | (intro _ _; try beta_reduce)
    | (extract_lets +onlyGivenNames x; refine Keeps.cut (a := a) (x := x) ?_ ?_; rotate_left; (intro hx; clear_value x); rotate_left; unfold x; clear x)
    | (extract_lets +onlyGivenNames x; clear_value x)
    | split

theorem keeps_execSteelyardCheck (h : Keeps a s) : KeepsO a (execSteelyardCheck d l t err s) := by
  unfold execSteelyardCheck
  repeat' first
    | with_reducible assumption
    | with_reducible apply keepsO_ok
    | with_reducible apply KeepsO.next
    | with_reducible apply keepsO_ok
    | with_reducible apply keeps_checkTile
    | (with_reducible refine keeps_mk ?_ rfl rfl rfl rfl rfl rfl rfl; first | with_reducible assumption | with_reducible apply keepsO_ok | with_reducible apply keeps_checkTile)
    | with_reducible apply Keeps.foldl
    | (intro _ _ _; try beta_reduce)
    | (intro _ _; try beta_reduce)
    | (extract_lets +onlyGivenNames x; refine Keeps.cut (a := a) (x := x) ?_ ?_; rotate_left; (intro hx; clear_value x); rotate_left; unfold x; clear x)
    | (extract_lets +onlyGivenNames x; clear_value x)
    | split

theorem keeps_execReplayedPassCheck (h : Keeps a s) : KeepsO a (execReplayedPassCheck d l t err s) := by
  unfold execReplayedPassCheck
  repeat' first
    | with_reducible assumption
    | with_reducible apply keepsO_ok
    | with_reducible apply KeepsO.next
    | with_reducible apply keepsO_ok
    | with_reducible apply keeps_checkTile
    | (with_reducible refine keeps_mk ?_ rfl rfl rfl rfl rfl rfl rfl; first | with_reducible assumption | with_reducible apply keepsO_ok | with_reducible apply keeps_checkTile)
    | with_reducible apply Keeps.foldl
    | (intro _ _ _; try beta_reduce)
    | (intro _ _; try beta_reduce)
    | (extract_lets +onlyGivenNames x; refine Keeps.cut (a := a) (x := x) ?_ ?_; rotate_left; (intro hx; clear_value x); rotate_left; unfold x; clear x)
    | (extract_lets +onlyGivenNames x; clear_value x)
    | split

theorem keeps_execStyWindowExpiry (h : Keeps a s) : KeepsO a (execStyWindowExpiry d l s) := by
  unfold execStyWindowExpiry
  repeat' first
    | with_reducible assumption
    | with_reducible apply keepsO_ok
    | with_reducible apply KeepsO.next
    | with_reducible apply keepsO_ok
    | with_reducible apply keeps_setSlot
    | (with_reducible refine keeps_mk ?_ rfl rfl rfl rfl rfl rfl rfl; first | with_reducible assumption | with_reducible apply keepsO_ok | with_reducible apply keeps_setSlot)
    | with_reducible apply Keeps.foldl
    | (intro _ _ _; try beta_reduce)
    | (intro _ _; try beta_reduce)
    | (extract_lets +onlyGivenNames x; refine Keeps.cut (a := a) (x := x) ?_ ?_; rotate_left; (intro hx; clear_value x); rotate_left; unfold x; clear x)
    | (extract_lets +onlyGivenNames x; clear_value x)
    | split

theorem keeps_bcastNext (h : Keeps a s) : Keeps a (State.bcastNext s d q v3 b) := by
  unfold State.bcastNext
  repeat' first
    | with_reducible assumption
    | with_reducible apply keeps_issueXfer
    | with_reducible apply keeps_noteReads
    | with_reducible apply keeps_eachMember
    | with_reducible apply keeps_setArc
    | (with_reducible refine keeps_mk ?_ rfl rfl rfl rfl rfl rfl rfl; first | with_reducible assumption | with_reducible apply keeps_issueXfer | with_reducible apply keeps_noteReads | with_reducible apply keeps_eachMember | with_reducible apply keeps_setArc)
    | with_reducible apply Keeps.foldl
    | (intro _ _ _; try beta_reduce)
    | (intro _ _; try beta_reduce)
    | (extract_lets +onlyGivenNames x; refine Keeps.cut (a := a) (x := x) ?_ ?_; rotate_left; (intro hx; clear_value x); rotate_left; unfold x; clear x)
    | (extract_lets +onlyGivenNames x; clear_value x)
    | split

theorem keeps_bcastAgain (h : Keeps a s) : Keeps a (State.bcastAgain s d q v3 b e) := by
  unfold State.bcastAgain
  repeat' first
    | with_reducible assumption
    | with_reducible apply keeps_setArc
    | with_reducible apply keeps_setSlot
    | with_reducible apply keeps_noteReads
    | (with_reducible refine keeps_mk ?_ rfl rfl rfl rfl rfl rfl rfl; first | with_reducible assumption | with_reducible apply keeps_setArc | with_reducible apply keeps_setSlot | with_reducible apply keeps_noteReads)
    | with_reducible apply Keeps.foldl
    | (intro _ _ _; try beta_reduce)
    | (intro _ _; try beta_reduce)
    | (extract_lets +onlyGivenNames x; refine Keeps.cut (a := a) (x := x) ?_ ?_; rotate_left; (intro hx; clear_value x); rotate_left; unfold x; clear x)
    | (extract_lets +onlyGivenNames x; clear_value x)
    | split

theorem keeps_execBroadcastStart (h : Keeps a s) : KeepsO a (execBroadcastStart d q v2 b s) := by
  unfold execBroadcastStart
  repeat' first
    | with_reducible assumption
    | with_reducible apply keepsO_ok
    | with_reducible apply KeepsO.next
    | with_reducible apply keepsO_ok
    | with_reducible apply keeps_bcastAgain
    | with_reducible apply keeps_takeGate
    | with_reducible apply keeps_setStream
    | with_reducible apply keeps_bcastNext
    | (with_reducible refine keeps_mk ?_ rfl rfl rfl rfl rfl rfl rfl; first | with_reducible assumption | with_reducible apply keepsO_ok | with_reducible apply keeps_bcastAgain | with_reducible apply keeps_takeGate | with_reducible apply keeps_setStream | with_reducible apply keeps_bcastNext)
    | with_reducible apply Keeps.foldl
    | (intro _ _ _; try beta_reduce)
    | (intro _ _; try beta_reduce)
    | (extract_lets +onlyGivenNames x; refine Keeps.cut (a := a) (x := x) ?_ ?_; rotate_left; (intro hx; clear_value x); rotate_left; unfold x; clear x)
    | (extract_lets +onlyGivenNames x; clear_value x)
    | split

theorem keeps_execBankFull (h : Keeps a s) : KeepsO a (execBankFull d q v2 b s) := by
  unfold execBankFull
  repeat' first
    | with_reducible assumption
    | with_reducible apply keepsO_ok
    | with_reducible apply KeepsO.next
    | with_reducible apply keeps_eachMember
    | with_reducible apply keepsO_ok
    | with_reducible apply keeps_completeXfer
    | with_reducible apply keeps_setSlot
    | with_reducible apply keeps_setArc
    | (with_reducible refine keeps_mk ?_ rfl rfl rfl rfl rfl rfl rfl; first | with_reducible assumption | with_reducible apply keeps_eachMember | with_reducible apply keepsO_ok | with_reducible apply keeps_completeXfer | with_reducible apply keeps_setSlot | with_reducible apply keeps_setArc)
    | with_reducible apply Keeps.foldl
    | (intro _ _ _; try beta_reduce)
    | (intro _ _; try beta_reduce)
    | (extract_lets +onlyGivenNames x; refine Keeps.cut (a := a) (x := x) ?_ ?_; rotate_left; (intro hx; clear_value x); rotate_left; unfold x; clear x)
    | (extract_lets +onlyGivenNames x; clear_value x)
    | split

theorem keeps_execTileWindowOpen (h : Keeps a s) : KeepsO a (execTileWindowOpen d q v2 b priv s) := by
  unfold execTileWindowOpen
  repeat' first
    | with_reducible assumption
    | with_reducible apply keepsO_ok
    | with_reducible apply KeepsO.next
    | with_reducible apply keepsO_ok
    | with_reducible apply keeps_beginPass
    | with_reducible apply keeps_setSlot
    | with_reducible apply Keeps.forEach
    | with_reducible apply keeps_setArc
    | (with_reducible refine keeps_mk ?_ rfl rfl rfl rfl rfl rfl rfl; first | with_reducible assumption | with_reducible apply keepsO_ok | with_reducible apply keeps_beginPass | with_reducible apply keeps_setSlot | with_reducible apply Keeps.forEach | with_reducible apply keeps_setArc)
    | with_reducible apply Keeps.foldl
    | (intro _ _ _; try beta_reduce)
    | (intro _ _; try beta_reduce)
    | (extract_lets +onlyGivenNames x; refine Keeps.cut (a := a) (x := x) ?_ ?_; rotate_left; (intro hx; clear_value x); rotate_left; unfold x; clear x)
    | (extract_lets +onlyGivenNames x; clear_value x)
    | split

theorem keeps_closeShared (h : Keeps a s) : Keeps a (State.closeShared s d q v3 b) := by
  unfold State.closeShared
  repeat' first
    | with_reducible assumption
    | with_reducible apply Keeps.forEach
    | with_reducible apply keeps_runSteps
    | with_reducible apply keeps_countBallast
    | with_reducible apply keeps_setSlot
    | with_reducible apply keeps_setArc
    | (with_reducible refine keeps_mk ?_ rfl rfl rfl rfl rfl rfl rfl; first | with_reducible assumption | with_reducible apply Keeps.forEach | with_reducible apply keeps_runSteps | with_reducible apply keeps_countBallast | with_reducible apply keeps_setSlot | with_reducible apply keeps_setArc)
    | with_reducible apply Keeps.foldl
    | (intro _ _ _; try beta_reduce)
    | (intro _ _; try beta_reduce)
    | (extract_lets +onlyGivenNames x; refine Keeps.cut (a := a) (x := x) ?_ ?_; rotate_left; (intro hx; clear_value x); rotate_left; unfold x; clear x)
    | (extract_lets +onlyGivenNames x; clear_value x)
    | split

theorem keeps_execTileWindowClose (h : Keeps a s) : KeepsO a (execTileWindowClose d q v2 b priv s) := by
  unfold execTileWindowClose
  repeat' first
    | with_reducible assumption
    | with_reducible apply keepsO_ok
    | with_reducible apply KeepsO.next
    | with_reducible apply keeps_runSteps
    | with_reducible apply keepsO_ok
    | with_reducible apply keeps_setSlot
    | with_reducible apply keeps_closeShared
    | (with_reducible refine keeps_mk ?_ rfl rfl rfl rfl rfl rfl rfl; first | with_reducible assumption | with_reducible apply keeps_runSteps | with_reducible apply keepsO_ok | with_reducible apply keeps_setSlot | with_reducible apply keeps_closeShared)
    | with_reducible apply Keeps.foldl
    | (intro _ _ _; try beta_reduce)
    | (intro _ _; try beta_reduce)
    | (extract_lets +onlyGivenNames x; refine Keeps.cut (a := a) (x := x) ?_ ?_; rotate_left; (intro hx; clear_value x); rotate_left; unfold x; clear x)
    | (extract_lets +onlyGivenNames x; clear_value x)
    | split

theorem keeps_execBcastSlotRelease (h : Keeps a s) : KeepsO a (execBcastSlotRelease d q v2 n s) := by
  unfold execBcastSlotRelease
  repeat' first
    | with_reducible assumption
    | with_reducible apply keepsO_ok
    | with_reducible apply KeepsO.next
    | with_reducible apply keepsO_ok
    | with_reducible apply keeps_unhold
    | with_reducible apply keeps_setArc
    | (with_reducible refine keeps_mk ?_ rfl rfl rfl rfl rfl rfl rfl; first | with_reducible assumption | with_reducible apply keepsO_ok | with_reducible apply keeps_unhold | with_reducible apply keeps_setArc)
    | with_reducible apply Keeps.foldl
    | (intro _ _ _; try beta_reduce)
    | (intro _ _; try beta_reduce)
    | (extract_lets +onlyGivenNames x; refine Keeps.cut (a := a) (x := x) ?_ ?_; rotate_left; (intro hx; clear_value x); rotate_left; unfold x; clear x)
    | (extract_lets +onlyGivenNames x; clear_value x)
    | split

theorem keeps_execWritebackStart (h : Keeps a s) : KeepsO a (execWritebackStart d l t s) := by
  unfold execWritebackStart
  repeat' first
    | with_reducible assumption
    | with_reducible apply keepsO_ok
    | with_reducible apply KeepsO.next
    | with_reducible apply keepsO_ok
    | with_reducible apply keeps_setSlot
    | with_reducible apply Keeps.count
    | (with_reducible refine keeps_mk ?_ rfl rfl rfl rfl rfl rfl rfl; first | with_reducible assumption | with_reducible apply keepsO_ok | with_reducible apply keeps_setSlot | with_reducible apply Keeps.count)
    | with_reducible apply Keeps.foldl
    | (intro _ _ _; try beta_reduce)
    | (intro _ _; try beta_reduce)
    | (extract_lets +onlyGivenNames x; refine Keeps.cut (a := a) (x := x) ?_ ?_; rotate_left; (intro hx; clear_value x); rotate_left; unfold x; clear x)
    | (extract_lets +onlyGivenNames x; clear_value x)
    | split

theorem keeps_execWritebackDone (h : Keeps a s) : KeepsO a (execWritebackDone d l t s) := by
  unfold execWritebackDone
  repeat' first
    | with_reducible assumption
    | with_reducible apply keepsO_ok
    | with_reducible apply KeepsO.next
    | with_reducible apply keeps_storeWords
    | with_reducible apply keeps_setSlot
    | with_reducible apply keeps_freeNext
    | with_reducible apply keepsO_ok
    | with_reducible apply keeps_flagIf
    | (with_reducible refine keeps_mk ?_ rfl rfl rfl rfl rfl rfl rfl; first | with_reducible assumption | with_reducible apply keeps_storeWords | with_reducible apply keeps_setSlot | with_reducible apply keeps_freeNext | with_reducible apply keepsO_ok | with_reducible apply keeps_flagIf)
    | with_reducible apply Keeps.foldl
    | (intro _ _ _; try beta_reduce)
    | (intro _ _; try beta_reduce)
    | (extract_lets +onlyGivenNames x; refine Keeps.cut (a := a) (x := x) ?_ ?_; rotate_left; (intro hx; clear_value x); rotate_left; unfold x; clear x)
    | (extract_lets +onlyGivenNames x; clear_value x)
    | split

theorem keeps_execDrain (h : Keeps a s) : KeepsO a (execDrain d l w s) := by
  unfold execDrain
  repeat' first
    | with_reducible assumption
    | with_reducible apply keepsO_ok
    | with_reducible apply KeepsO.next
    | with_reducible apply keeps_reachHead
    | with_reducible apply keepsO_ok
    | with_reducible apply keeps_stallWait
    | with_reducible apply keeps_setSlot
    | with_reducible apply keeps_hold
    | (with_reducible refine keeps_mk ?_ rfl rfl rfl rfl rfl rfl rfl; first | with_reducible assumption | with_reducible apply keeps_reachHead | with_reducible apply keepsO_ok | with_reducible apply keeps_stallWait | with_reducible apply keeps_setSlot | with_reducible apply keeps_hold)
    | with_reducible apply Keeps.foldl
    | (intro _ _ _; try beta_reduce)
    | (intro _ _; try beta_reduce)
    | (extract_lets +onlyGivenNames x; refine Keeps.cut (a := a) (x := x) ?_ ?_; rotate_left; (intro hx; clear_value x); rotate_left; unfold x; clear x)
    | (extract_lets +onlyGivenNames x; clear_value x)
    | split

theorem keeps_drainGo (h : Keeps a s) : Keeps a (State.drainGo s d p c j r) := by
  unfold State.drainGo
  repeat' first
    | with_reducible assumption
    | with_reducible apply keeps_noteReads
    | with_reducible apply keeps_setSlot
    | with_reducible apply keeps_flagIf
    | (with_reducible refine keeps_mk ?_ rfl rfl rfl rfl rfl rfl rfl; first | with_reducible assumption | with_reducible apply keeps_noteReads | with_reducible apply keeps_setSlot | with_reducible apply keeps_flagIf)
    | with_reducible apply Keeps.foldl
    | (intro _ _ _; try beta_reduce)
    | (intro _ _; try beta_reduce)
    | (extract_lets +onlyGivenNames x; refine Keeps.cut (a := a) (x := x) ?_ ?_; rotate_left; (intro hx; clear_value x); rotate_left; unfold x; clear x)
    | (extract_lets +onlyGivenNames x; clear_value x)
    | split

theorem keeps_execDrainStart (h : Keeps a s) : KeepsO a (execDrainStart d l s) := by
  unfold execDrainStart
  repeat' first
    | with_reducible assumption
    | with_reducible apply keepsO_ok
    | with_reducible apply KeepsO.next
    | with_reducible apply keepsO_ok
    | with_reducible apply keeps_drainGo
    | (with_reducible refine keeps_mk ?_ rfl rfl rfl rfl rfl rfl rfl; first | with_reducible assumption | with_reducible apply keepsO_ok | with_reducible apply keeps_drainGo)
    | with_reducible apply Keeps.foldl
    | (intro _ _ _; try beta_reduce)
    | (intro _ _; try beta_reduce)
    | (extract_lets +onlyGivenNames x; refine Keeps.cut (a := a) (x := x) ?_ ?_; rotate_left; (intro hx; clear_value x); rotate_left; unfold x; clear x)
    | (extract_lets +onlyGivenNames x; clear_value x)
    | split

theorem keeps_drainOut (h : Keeps a s) : Keeps a (State.drainOut s d p c j r) := by
  unfold State.drainOut
  repeat' first
    | with_reducible assumption
    | with_reducible apply keeps_writeBytes
    | with_reducible apply keeps_flagIf
    | with_reducible apply keeps_setSlot
    | (with_reducible refine keeps_mk ?_ rfl rfl rfl rfl rfl rfl rfl; first | with_reducible assumption | with_reducible apply keeps_writeBytes | with_reducible apply keeps_flagIf | with_reducible apply keeps_setSlot)
    | with_reducible apply Keeps.foldl
    | (intro _ _ _; try beta_reduce)
    | (intro _ _; try beta_reduce)
    | (extract_lets +onlyGivenNames x; refine Keeps.cut (a := a) (x := x) ?_ ?_; rotate_left; (intro hx; clear_value x); rotate_left; unfold x; clear x)
    | (extract_lets +onlyGivenNames x; clear_value x)
    | split

theorem keeps_execDrainDone (h : Keeps a s) : KeepsO a (execDrainDone d l s) := by
  unfold execDrainDone
  repeat' first
    | with_reducible assumption
    | with_reducible apply keepsO_ok
    | with_reducible apply KeepsO.next
    | with_reducible apply keeps_drainGo
    | with_reducible apply keepsO_ok
    | with_reducible apply keeps_drainOut
    | with_reducible apply keeps_setSlot
    | (with_reducible refine keeps_mk ?_ rfl rfl rfl rfl rfl rfl rfl; first | with_reducible assumption | with_reducible apply keeps_drainGo | with_reducible apply keepsO_ok | with_reducible apply keeps_drainOut | with_reducible apply keeps_setSlot)
    | with_reducible apply Keeps.foldl
    | (intro _ _ _; try beta_reduce)
    | (intro _ _; try beta_reduce)
    | (extract_lets +onlyGivenNames x; refine Keeps.cut (a := a) (x := x) ?_ ?_; rotate_left; (intro hx; clear_value x); rotate_left; unfold x; clear x)
    | (extract_lets +onlyGivenNames x; clear_value x)
    | split

theorem keeps_execLoadw (h : Keeps a s) : KeepsO a (execLoadw d l w s) := by
  unfold execLoadw
  repeat' first
    | with_reducible assumption
    | with_reducible apply keepsO_ok
    | with_reducible apply KeepsO.next
    | with_reducible apply keeps_reachHead
    | with_reducible apply keepsO_ok
    | with_reducible apply keeps_setSlot
    | with_reducible apply keeps_stallWait
    | (with_reducible refine keeps_mk ?_ rfl rfl rfl rfl rfl rfl rfl; first | with_reducible assumption | with_reducible apply keeps_reachHead | with_reducible apply keepsO_ok | with_reducible apply keeps_setSlot | with_reducible apply keeps_stallWait)
    | with_reducible apply Keeps.foldl
    | (intro _ _ _; try beta_reduce)
    | (intro _ _; try beta_reduce)
    | (extract_lets +onlyGivenNames x; refine Keeps.cut (a := a) (x := x) ?_ ?_; rotate_left; (intro hx; clear_value x); rotate_left; unfold x; clear x)
    | (extract_lets +onlyGivenNames x; clear_value x)
    | split

theorem keeps_execPrivateRecordLoaded (h : Keeps a s) : KeepsO a (execPrivateRecordLoaded d l b s) := by
  unfold execPrivateRecordLoaded
  repeat' first
    | with_reducible assumption
    | with_reducible apply keepsO_ok
    | with_reducible apply KeepsO.next
    | with_reducible apply keeps_setSlot
    | with_reducible apply keeps_noteReads
    | with_reducible apply keepsO_ok
    | with_reducible apply keeps_setArc
    | (with_reducible refine keeps_mk ?_ rfl rfl rfl rfl rfl rfl rfl; first | with_reducible assumption | with_reducible apply keeps_setSlot | with_reducible apply keeps_noteReads | with_reducible apply keepsO_ok | with_reducible apply keeps_setArc)
    | with_reducible apply Keeps.foldl
    | (intro _ _ _; try beta_reduce)
    | (intro _ _; try beta_reduce)
    | (extract_lets +onlyGivenNames x; refine Keeps.cut (a := a) (x := x) ?_ ?_; rotate_left; (intro hx; clear_value x); rotate_left; unfold x; clear x)
    | (extract_lets +onlyGivenNames x; clear_value x)
    | split

theorem keeps_execMarkPost (h : Keeps a s) : KeepsO a (execMarkPost d l w s) := by
  unfold execMarkPost
  repeat' first
    | with_reducible assumption
    | with_reducible apply keepsO_ok
    | with_reducible apply KeepsO.next
    | with_reducible apply keeps_reachHead
    | with_reducible apply keepsO_ok
    | with_reducible apply keeps_setSlot
    | with_reducible apply keeps_postMark
    | with_reducible apply keeps_stallWait
    | (with_reducible refine keeps_mk ?_ rfl rfl rfl rfl rfl rfl rfl; first | with_reducible assumption | with_reducible apply keeps_reachHead | with_reducible apply keepsO_ok | with_reducible apply keeps_setSlot | with_reducible apply keeps_postMark | with_reducible apply keeps_stallWait)
    | with_reducible apply Keeps.foldl
    | (intro _ _ _; try beta_reduce)
    | (intro _ _; try beta_reduce)
    | (extract_lets +onlyGivenNames x; refine Keeps.cut (a := a) (x := x) ?_ ?_; rotate_left; (intro hx; clear_value x); rotate_left; unfold x; clear x)
    | (extract_lets +onlyGivenNames x; clear_value x)
    | split

theorem keeps_execMarkWait (h : Keeps a s) : KeepsO a (execMarkWait d l w s) := by
  unfold execMarkWait
  repeat' first
    | with_reducible assumption
    | with_reducible apply keepsO_ok
    | with_reducible apply KeepsO.next
    | with_reducible apply keeps_reachHead
    | with_reducible apply keepsO_ok
    | with_reducible apply keeps_stallWait
    | with_reducible apply keeps_askMark
    | with_reducible apply keeps_setSlot
    | (with_reducible refine keeps_mk ?_ rfl rfl rfl rfl rfl rfl rfl; first | with_reducible assumption | with_reducible apply keeps_reachHead | with_reducible apply keepsO_ok | with_reducible apply keeps_stallWait | with_reducible apply keeps_askMark | with_reducible apply keeps_setSlot)
    | with_reducible apply Keeps.foldl
    | (intro _ _ _; try beta_reduce)
    | (intro _ _; try beta_reduce)
    | (extract_lets +onlyGivenNames x; refine Keeps.cut (a := a) (x := x) ?_ ?_; rotate_left; (intro hx; clear_value x); rotate_left; unfold x; clear x)
    | (extract_lets +onlyGivenNames x; clear_value x)
    | split

theorem keeps_execRearm (h : Keeps a s) : KeepsO a (execRearm d l w s) := by
  unfold execRearm
  repeat' first
    | with_reducible assumption
    | with_reducible apply keepsO_ok
    | with_reducible apply KeepsO.next
    | with_reducible apply keeps_reachHead
    | with_reducible apply keepsO_ok
    | with_reducible apply keeps_setSlot
    | with_reducible apply keeps_rearmApply
    | with_reducible apply keeps_stallWait
    | with_reducible apply Keeps.count
    | (with_reducible refine keeps_mk ?_ rfl rfl rfl rfl rfl rfl rfl; first | with_reducible assumption | with_reducible apply keeps_reachHead | with_reducible apply keepsO_ok | with_reducible apply keeps_setSlot | with_reducible apply keeps_rearmApply | with_reducible apply keeps_stallWait | with_reducible apply Keeps.count)
    | with_reducible apply Keeps.foldl
    | (intro _ _ _; try beta_reduce)
    | (intro _ _; try beta_reduce)
    | (extract_lets +onlyGivenNames x; refine Keeps.cut (a := a) (x := x) ?_ ?_; rotate_left; (intro hx; clear_value x); rotate_left; unfold x; clear x)
    | (extract_lets +onlyGivenNames x; clear_value x)
    | split

theorem keeps_execBundleOpen (h : Keeps a s) : KeepsO a (execBundleOpen d l n s) := by
  unfold execBundleOpen
  repeat' first
    | with_reducible assumption
    | with_reducible apply keepsO_ok
    | with_reducible apply KeepsO.next
    | with_reducible apply keeps_reachHead
    | with_reducible apply keepsO_ok
    | with_reducible apply keeps_setSlot
    | with_reducible apply Keeps.count
    | (with_reducible refine keeps_mk ?_ rfl rfl rfl rfl rfl rfl rfl; first | with_reducible assumption | with_reducible apply keeps_reachHead | with_reducible apply keepsO_ok | with_reducible apply keeps_setSlot | with_reducible apply Keeps.count)
    | with_reducible apply Keeps.foldl
    | (intro _ _ _; try beta_reduce)
    | (intro _ _; try beta_reduce)
    | (extract_lets +onlyGivenNames x; refine Keeps.cut (a := a) (x := x) ?_ ?_; rotate_left; (intro hx; clear_value x); rotate_left; unfold x; clear x)
    | (extract_lets +onlyGivenNames x; clear_value x)
    | split

theorem keeps_execBundleClose (h : Keeps a s) : KeepsO a (execBundleClose d l n s) := by
  unfold execBundleClose
  repeat' first
    | with_reducible assumption
    | with_reducible apply keepsO_ok
    | with_reducible apply KeepsO.next
    | with_reducible apply keeps_reachHead
    | with_reducible apply keepsO_ok
    | with_reducible apply keeps_setPbundle
    | with_reducible apply keeps_setSlot
    | with_reducible apply keeps_stallWait
    | (with_reducible refine keeps_mk ?_ rfl rfl rfl rfl rfl rfl rfl; first | with_reducible assumption | with_reducible apply keeps_reachHead | with_reducible apply keepsO_ok | with_reducible apply keeps_setPbundle | with_reducible apply keeps_setSlot | with_reducible apply keeps_stallWait)
    | with_reducible apply Keeps.foldl
    | (intro _ _ _; try beta_reduce)
    | (intro _ _; try beta_reduce)
    | (extract_lets +onlyGivenNames x; refine Keeps.cut (a := a) (x := x) ?_ ?_; rotate_left; (intro hx; clear_value x); rotate_left; unfold x; clear x)
    | (extract_lets +onlyGivenNames x; clear_value x)
    | split

theorem keeps_execBellWait (h : Keeps a s) : KeepsO a (execBellWait d l w s) := by
  unfold execBellWait
  repeat' first
    | with_reducible assumption
    | with_reducible apply keepsO_ok
    | with_reducible apply KeepsO.next
    | with_reducible apply keeps_reachHead
    | with_reducible apply keeps_setSlot
    | with_reducible apply Keeps.ledIssue
    | with_reducible apply keepsO_ok
    | with_reducible apply keeps_bellTry
    | (with_reducible refine keeps_mk ?_ rfl rfl rfl rfl rfl rfl rfl; first | with_reducible assumption | with_reducible apply keeps_reachHead | with_reducible apply keeps_setSlot | with_reducible apply Keeps.ledIssue | with_reducible apply keepsO_ok | with_reducible apply keeps_bellTry)
    | with_reducible apply Keeps.foldl
    | (intro _ _ _; try beta_reduce)
    | (intro _ _; try beta_reduce)
    | (extract_lets +onlyGivenNames x; refine Keeps.cut (a := a) (x := x) ?_ ?_; rotate_left; (intro hx; clear_value x); rotate_left; unfold x; clear x)
    | (extract_lets +onlyGivenNames x; clear_value x)
    | split

theorem keeps_execBasketPut (h : Keeps a s) : KeepsO a (execBasketPut d l w s) := by
  unfold execBasketPut
  repeat' first
    | with_reducible assumption
    | with_reducible apply keepsO_ok
    | with_reducible apply KeepsO.next
    | with_reducible apply keeps_reachHead
    | with_reducible apply keepsO_ok
    | with_reducible apply keeps_setSlot
    | with_reducible apply keeps_stallWait
    | with_reducible apply keeps_incSat
    | with_reducible apply keeps_startPut
    | (with_reducible refine keeps_mk ?_ rfl rfl rfl rfl rfl rfl rfl; first | with_reducible assumption | with_reducible apply keeps_reachHead | with_reducible apply keepsO_ok | with_reducible apply keeps_setSlot | with_reducible apply keeps_stallWait | with_reducible apply keeps_incSat | with_reducible apply keeps_startPut)
    | with_reducible apply Keeps.foldl
    | (intro _ _ _; try beta_reduce)
    | (intro _ _; try beta_reduce)
    | (extract_lets +onlyGivenNames x; refine Keeps.cut (a := a) (x := x) ?_ ?_; rotate_left; (intro hx; clear_value x); rotate_left; unfold x; clear x)
    | (extract_lets +onlyGivenNames x; clear_value x)
    | split

theorem keeps_execBallast (h : Keeps a s) : KeepsO a (execBallast d l cycles s) := by
  unfold execBallast
  repeat' first
    | with_reducible assumption
    | with_reducible apply keepsO_ok
    | with_reducible apply KeepsO.next
    | with_reducible apply keeps_reachHead
    | with_reducible apply keeps_setSlot
    | with_reducible apply keepsO_ok
    | with_reducible apply keeps_countBallast
    | (with_reducible refine keeps_mk ?_ rfl rfl rfl rfl rfl rfl rfl; first | with_reducible assumption | with_reducible apply keeps_reachHead | with_reducible apply keeps_setSlot | with_reducible apply keepsO_ok | with_reducible apply keeps_countBallast)
    | with_reducible apply Keeps.foldl
    | (intro _ _ _; try beta_reduce)
    | (intro _ _; try beta_reduce)
    | (extract_lets +onlyGivenNames x; refine Keeps.cut (a := a) (x := x) ?_ ?_; rotate_left; (intro hx; clear_value x); rotate_left; unfold x; clear x)
    | (extract_lets +onlyGivenNames x; clear_value x)
    | split

theorem keeps_execHalt (h : Keeps a s) : KeepsO a (execHalt d l restart s) := by
  unfold execHalt
  repeat' first
    | with_reducible assumption
    | with_reducible apply keepsO_ok
    | with_reducible apply KeepsO.next
    | with_reducible apply keeps_reachHead
    | with_reducible apply keepsO_ok
    | with_reducible apply keeps_setSlot
    | (with_reducible refine keeps_mk ?_ rfl rfl rfl rfl rfl rfl rfl; first | with_reducible assumption | with_reducible apply keeps_reachHead | with_reducible apply keepsO_ok | with_reducible apply keeps_setSlot)
    | with_reducible apply Keeps.foldl
    | (intro _ _ _; try beta_reduce)
    | (intro _ _; try beta_reduce)
    | (extract_lets +onlyGivenNames x; refine Keeps.cut (a := a) (x := x) ?_ ?_; rotate_left; (intro hx; clear_value x); rotate_left; unfold x; clear x)
    | (extract_lets +onlyGivenNames x; clear_value x)
    | split

theorem keeps_execDutyHoldExpiry (h : Keeps a s) : KeepsO a (execDutyHoldExpiry d l s) := by
  unfold execDutyHoldExpiry
  repeat' first
    | with_reducible assumption
    | with_reducible apply keepsO_ok
    | with_reducible apply KeepsO.next
    | with_reducible apply keepsO_ok
    | with_reducible apply keeps_setSlot
    | (with_reducible refine keeps_mk ?_ rfl rfl rfl rfl rfl rfl rfl; first | with_reducible assumption | with_reducible apply keepsO_ok | with_reducible apply keeps_setSlot)
    | with_reducible apply Keeps.foldl
    | (intro _ _ _; try beta_reduce)
    | (intro _ _; try beta_reduce)
    | (extract_lets +onlyGivenNames x; refine Keeps.cut (a := a) (x := x) ?_ ?_; rotate_left; (intro hx; clear_value x); rotate_left; unfold x; clear x)
    | (extract_lets +onlyGivenNames x; clear_value x)
    | split

theorem keeps_execDutyStepDown (h : Keeps a s) : KeepsO a (execDutyStepDown d l s) := by
  unfold execDutyStepDown
  repeat' first
    | with_reducible assumption
    | with_reducible apply keepsO_ok
    | with_reducible apply KeepsO.next
    | with_reducible apply keeps_gapBallast
    | with_reducible apply keepsO_ok
    | with_reducible apply keeps_setSlot
    | (with_reducible refine keeps_mk ?_ rfl rfl rfl rfl rfl rfl rfl; first | with_reducible assumption | with_reducible apply keeps_gapBallast | with_reducible apply keepsO_ok | with_reducible apply keeps_setSlot)
    | with_reducible apply Keeps.foldl
    | (intro _ _ _; try beta_reduce)
    | (intro _ _; try beta_reduce)
    | (extract_lets +onlyGivenNames x; refine Keeps.cut (a := a) (x := x) ?_ ?_; rotate_left; (intro hx; clear_value x); rotate_left; unfold x; clear x)
    | (extract_lets +onlyGivenNames x; clear_value x)
    | split

theorem keeps_execDutyStepUp (h : Keeps a s) : KeepsO a (execDutyStepUp d l s) := by
  unfold execDutyStepUp
  repeat' first
    | with_reducible assumption
    | with_reducible apply keepsO_ok
    | with_reducible apply KeepsO.next
    | with_reducible apply keeps_gapBallast
    | with_reducible apply keepsO_ok
    | with_reducible apply keeps_setSlot
    | (with_reducible refine keeps_mk ?_ rfl rfl rfl rfl rfl rfl rfl; first | with_reducible assumption | with_reducible apply keeps_gapBallast | with_reducible apply keepsO_ok | with_reducible apply keeps_setSlot)
    | with_reducible apply Keeps.foldl
    | (intro _ _ _; try beta_reduce)
    | (intro _ _; try beta_reduce)
    | (extract_lets +onlyGivenNames x; refine Keeps.cut (a := a) (x := x) ?_ ?_; rotate_left; (intro hx; clear_value x); rotate_left; unfold x; clear x)
    | (extract_lets +onlyGivenNames x; clear_value x)
    | split

end Sys2Proof.Machine
end

