-- ==== Sys2Proof/Laws/KeepStreamFam.lean ====
section
/-! SUPPORT. What the operations of Machine/StreamFam.lean keep (Laws/Keeps.lean). -/

namespace Sys2Proof.Machine

variable {a s : State}

theorem keeps_noteSource (h : Keeps a s) : Keeps a (State.noteSource s v1 n) := by
  unfold State.noteSource
  repeat' first
    | with_reducible assumption
    | with_reducible apply keeps_noteReads
    | (with_reducible refine keeps_mk ?_ rfl rfl rfl rfl rfl rfl rfl; first | with_reducible assumption | with_reducible apply keeps_noteReads)
    | with_reducible apply Keeps.foldl
    | (intro _ _ _; try beta_reduce)
    | (intro _ _; try beta_reduce)
    | (extract_lets +onlyGivenNames x; refine Keeps.cut (a := a) (x := x) ?_ ?_; rotate_left; (intro hx; clear_value x); rotate_left; unfold x; clear x)
    | (extract_lets +onlyGivenNames x; clear_value x)
    | split

theorem keeps_holdAt' (h : Keeps a s) : Keeps a (State.holdAt' s v1 n) := by
  unfold State.holdAt'
  repeat' first
    | with_reducible assumption
    | with_reducible apply keeps_hold
    | (with_reducible refine keeps_mk ?_ rfl rfl rfl rfl rfl rfl rfl; first | with_reducible assumption | with_reducible apply keeps_hold)
    | with_reducible apply Keeps.foldl
    | (intro _ _ _; try beta_reduce)
    | (intro _ _; try beta_reduce)
    | (extract_lets +onlyGivenNames x; refine Keeps.cut (a := a) (x := x) ?_ ?_; rotate_left; (intro hx; clear_value x); rotate_left; unfold x; clear x)
    | (extract_lets +onlyGivenNames x; clear_value x)
    | split

theorem keeps_queueOut (h : Keeps a s) : Keeps a (State.queueOut s d st t ws) := by
  unfold State.queueOut
  repeat' first
    | with_reducible assumption
    | with_reducible apply keeps_setFlow
    | (with_reducible refine keeps_mk ?_ rfl rfl rfl rfl rfl rfl rfl; first | with_reducible assumption | with_reducible apply keeps_setFlow)
    | with_reducible apply Keeps.foldl
    | (intro _ _ _; try beta_reduce)
    | (intro _ _; try beta_reduce)
    | (extract_lets +onlyGivenNames x; refine Keeps.cut (a := a) (x := x) ?_ ?_; rotate_left; (intro hx; clear_value x); rotate_left; unfold x; clear x)
    | (extract_lets +onlyGivenNames x; clear_value x)
    | split

theorem keeps_issueRound (h : Keeps a s) : Keeps a (State.issueRound s d st t) := by
  unfold State.issueRound
  repeat' first
    | with_reducible assumption
    | with_reducible apply keeps_hold
    | with_reducible apply keeps_noteReads
    | with_reducible apply keeps_issueXfer
    | (with_reducible refine keeps_mk ?_ rfl rfl rfl rfl rfl rfl rfl; first | with_reducible assumption | with_reducible apply keeps_hold | with_reducible apply keeps_noteReads | with_reducible apply keeps_issueXfer)
    | with_reducible apply Keeps.foldl
    | (intro _ _ _; try beta_reduce)
    | (intro _ _; try beta_reduce)
    | (extract_lets +onlyGivenNames x; refine Keeps.cut (a := a) (x := x) ?_ ?_; rotate_left; (intro hx; clear_value x); rotate_left; unfold x; clear x)
    | (extract_lets +onlyGivenNames x; clear_value x)
    | split

theorem keeps_issueByRole (h : Keeps a s) : Keeps a (State.issueByRole s d u st) := by
  unfold State.issueByRole
  repeat' first
    | with_reducible assumption
    | with_reducible apply keeps_issueXfer
    | with_reducible apply keeps_hold
    | with_reducible apply keeps_unhold
    | with_reducible apply keeps_noteSource
    | with_reducible apply keeps_holdAt'
    | with_reducible apply keeps_noteReads
    | with_reducible apply keeps_setSlot
    | with_reducible apply keeps_issueRound
    | with_reducible apply keeps_fetchIssue
    | with_reducible apply keeps_completeXfer
    | with_reducible apply keeps_queueOut
    | (with_reducible refine keeps_mk ?_ rfl rfl rfl rfl rfl rfl rfl; first | with_reducible assumption | with_reducible apply keeps_issueXfer | with_reducible apply keeps_hold | with_reducible apply keeps_unhold | with_reducible apply keeps_noteSource | with_reducible apply keeps_holdAt' | with_reducible apply keeps_noteReads | with_reducible apply keeps_setSlot | with_reducible apply keeps_issueRound | with_reducible apply keeps_fetchIssue | with_reducible apply keeps_completeXfer | with_reducible apply keeps_queueOut)
    | with_reducible apply Keeps.foldl
    | (intro _ _ _; try beta_reduce)
    | (intro _ _; try beta_reduce)
    | (extract_lets +onlyGivenNames x; refine Keeps.cut (a := a) (x := x) ?_ ?_; rotate_left; (intro hx; clear_value x); rotate_left; unfold x; clear x)
    | (extract_lets +onlyGivenNames x; clear_value x)
    | split

theorem keeps_passTurn (h : Keeps a s) : Keeps a (State.passTurn s d u st) := by
  unfold State.passTurn
  repeat' first
    | with_reducible assumption
    | (with_reducible refine keeps_mk ?_ rfl rfl rfl rfl rfl rfl rfl; first | with_reducible assumption)
    | with_reducible apply Keeps.foldl
    | (intro _ _ _; try beta_reduce)
    | (intro _ _; try beta_reduce)
    | (extract_lets +onlyGivenNames x; refine Keeps.cut (a := a) (x := x) ?_ ?_; rotate_left; (intro hx; clear_value x); rotate_left; unfold x; clear x)
    | (extract_lets +onlyGivenNames x; clear_value x)
    | split

theorem keeps_execTransferIssue (h : Keeps a s) : KeepsO a (execTransferIssue d u st s) := by
  unfold execTransferIssue
  repeat' first
    | with_reducible assumption
    | with_reducible apply keepsO_ok
    | with_reducible apply KeepsO.next
    | with_reducible apply keeps_takeGate
    | with_reducible apply keepsO_ok
    | with_reducible apply keeps_setStream
    | with_reducible apply keeps_issueByRole
    | with_reducible apply keeps_passTurn
    | (with_reducible refine keeps_mk ?_ rfl rfl rfl rfl rfl rfl rfl; first | with_reducible assumption | with_reducible apply keeps_takeGate | with_reducible apply keepsO_ok | with_reducible apply keeps_setStream | with_reducible apply keeps_issueByRole | with_reducible apply keeps_passTurn)
    | with_reducible apply Keeps.foldl
    | (intro _ _ _; try beta_reduce)
    | (intro _ _; try beta_reduce)
    | (extract_lets +onlyGivenNames x; refine Keeps.cut (a := a) (x := x) ?_ ?_; rotate_left; (intro hx; clear_value x); rotate_left; unfold x; clear x)
    | (extract_lets +onlyGivenNames x; clear_value x)
    | split

theorem keeps_finishXfer (h : Keeps a s) : Keeps a (State.finishXfer s d u st v4) := by
  unfold State.finishXfer
  repeat' first
    | with_reducible assumption
    | with_reducible apply keeps_storeWords
    | with_reducible apply keeps_unhold
    | with_reducible apply keeps_completeXfer
    | (with_reducible refine keeps_mk ?_ rfl rfl rfl rfl rfl rfl rfl; first | with_reducible assumption | with_reducible apply keeps_storeWords | with_reducible apply keeps_unhold | with_reducible apply keeps_completeXfer)
    | with_reducible apply Keeps.foldl
    | (intro _ _ _; try beta_reduce)
    | (intro _ _; try beta_reduce)
    | (extract_lets +onlyGivenNames x; refine Keeps.cut (a := a) (x := x) ?_ ?_; rotate_left; (intro hx; clear_value x); rotate_left; unfold x; clear x)
    | (extract_lets +onlyGivenNames x; clear_value x)
    | split

theorem keeps_finishRound (h : Keeps a s) : Keeps a (State.finishRound s d st it v4) := by
  unfold State.finishRound
  repeat' first
    | with_reducible assumption
    | with_reducible apply keeps_storeWords
    | with_reducible apply Keeps.count
    | with_reducible apply keeps_completeXfer
    | with_reducible apply keeps_hopTraffic
    | (with_reducible refine keeps_mk ?_ rfl rfl rfl rfl rfl rfl rfl; first | with_reducible assumption | with_reducible apply keeps_storeWords | with_reducible apply Keeps.count | with_reducible apply keeps_completeXfer | with_reducible apply keeps_hopTraffic)
    | with_reducible apply Keeps.foldl
    | (intro _ _ _; try beta_reduce)
    | (intro _ _; try beta_reduce)
    | (extract_lets +onlyGivenNames x; refine Keeps.cut (a := a) (x := x) ?_ ?_; rotate_left; (intro hx; clear_value x); rotate_left; unfold x; clear x)
    | (extract_lets +onlyGivenNames x; clear_value x)
    | split

theorem keeps_execTransferComplete (h : Keeps a s) : KeepsO a (execTransferComplete d u st t s) := by
  unfold execTransferComplete
  extract_lets y
  clear_value y
  split
  · exact KeepsO.next h
  · split
    · refine keepsO_ok ?_
      split
      · exact keeps_finishXfer (keeps_meshServe h)
      · exact keeps_meshServe h
    · split
      · exact KeepsO.next h
      · split
        · refine keepsO_ok ?_
          split
          · exact keeps_finishRound (keeps_meshServe h)
          · exact keeps_meshServe h
        · exact KeepsO.next h

theorem keeps_postArrive (h : Keeps a s) : Keeps a (State.postArrive s d c) := by
  unfold State.postArrive
  repeat' first
    | with_reducible assumption
    | with_reducible apply keeps_postMark
    | (with_reducible refine keeps_mk ?_ rfl rfl rfl rfl rfl rfl rfl; first | with_reducible assumption | with_reducible apply keeps_postMark)
    | with_reducible apply Keeps.foldl
    | (intro _ _ _; try beta_reduce)
    | (intro _ _; try beta_reduce)
    | (extract_lets +onlyGivenNames x; refine Keeps.cut (a := a) (x := x) ?_ ?_; rotate_left; (intro hx; clear_value x); rotate_left; unfold x; clear x)
    | (extract_lets +onlyGivenNames x; clear_value x)
    | split

theorem keeps_execRoundItemTake (h : Keeps a s) : KeepsO a (execRoundItemTake d c s) := by
  unfold execRoundItemTake
  repeat' first
    | with_reducible assumption
    | with_reducible apply keepsO_ok
    | with_reducible apply KeepsO.next
    | with_reducible apply keeps_askMark
    | with_reducible apply keeps_setRoundCtx
    | with_reducible apply keepsO_ok
    | with_reducible apply keeps_freeSlots
    | with_reducible apply keeps_postArrive
    | (with_reducible refine keeps_mk ?_ rfl rfl rfl rfl rfl rfl rfl; first | with_reducible assumption | with_reducible apply keeps_askMark | with_reducible apply keeps_setRoundCtx | with_reducible apply keepsO_ok | with_reducible apply keeps_freeSlots | with_reducible apply keeps_postArrive)
    | with_reducible apply Keeps.foldl
    | (intro _ _ _; try beta_reduce)
    | (intro _ _; try beta_reduce)
    | (extract_lets +onlyGivenNames x; refine Keeps.cut (a := a) (x := x) ?_ ?_; rotate_left; (intro hx; clear_value x); rotate_left; unfold x; clear x)
    | (extract_lets +onlyGivenNames x; clear_value x)
    | split

theorem keeps_forwardItem (h : Keeps a s) : Keeps a (State.forwardItem s d c) := by
  unfold State.forwardItem
  repeat' first
    | with_reducible assumption
    | with_reducible apply keeps_setRoundCtx
    | with_reducible apply keeps_setStream
    | (with_reducible refine keeps_mk ?_ rfl rfl rfl rfl rfl rfl rfl; first | with_reducible assumption | with_reducible apply keeps_setRoundCtx | with_reducible apply keeps_setStream)
    | with_reducible apply Keeps.foldl
    | (intro _ _ _; try beta_reduce)
    | (intro _ _; try beta_reduce)
    | (extract_lets +onlyGivenNames x; refine Keeps.cut (a := a) (x := x) ?_ ?_; rotate_left; (intro hx; clear_value x); rotate_left; unfold x; clear x)
    | (extract_lets +onlyGivenNames x; clear_value x)
    | split

theorem keeps_execRoundItemForward (h : Keeps a s) : KeepsO a (execRoundItemForward d c s) := by
  unfold execRoundItemForward
  repeat' first
    | with_reducible assumption
    | with_reducible apply keepsO_ok
    | with_reducible apply KeepsO.next
    | with_reducible apply keepsO_ok
    | with_reducible apply keeps_forwardItem
    | with_reducible apply keeps_setStream
    | (with_reducible refine keeps_mk ?_ rfl rfl rfl rfl rfl rfl rfl; first | with_reducible assumption | with_reducible apply keepsO_ok | with_reducible apply keeps_forwardItem | with_reducible apply keeps_setStream)
    | with_reducible apply Keeps.foldl
    | (intro _ _ _; try beta_reduce)
    | (intro _ _; try beta_reduce)
    | (extract_lets +onlyGivenNames x; refine Keeps.cut (a := a) (x := x) ?_ ?_; rotate_left; (intro hx; clear_value x); rotate_left; unfold x; clear x)
    | (extract_lets +onlyGivenNames x; clear_value x)
    | split

theorem keeps_tagItem (h : Keeps a s) : Keeps a (State.tagItem s t) := by
  unfold State.tagItem
  repeat' first
    | with_reducible assumption
    | with_reducible apply Keeps.forEach
    | (with_reducible refine keeps_mk ?_ rfl rfl rfl rfl rfl rfl rfl; first | with_reducible assumption | with_reducible apply Keeps.forEach)
    | with_reducible apply Keeps.foldl
    | (intro _ _ _; try beta_reduce)
    | (intro _ _; try beta_reduce)
    | (extract_lets +onlyGivenNames x; refine Keeps.cut (a := a) (x := x) ?_ ?_; rotate_left; (intro hx; clear_value x); rotate_left; unfold x; clear x)
    | (extract_lets +onlyGivenNames x; clear_value x)
    | split

theorem keeps_execRoundItemArrival (h : Keeps a s) : KeepsO a (execRoundItemArrival d c s) := by
  unfold execRoundItemArrival
  repeat' first
    | with_reducible assumption
    | with_reducible apply keepsO_ok
    | with_reducible apply KeepsO.next
    | with_reducible apply keeps_tagItem
    | with_reducible apply Keeps.ledReturn
    | with_reducible apply keeps_setRoundCtx
    | with_reducible apply keeps_postArrive
    | with_reducible apply Keeps.count
    | with_reducible apply keepsO_ok
    | with_reducible apply keeps_freeSlots
    | (with_reducible refine keeps_mk ?_ rfl rfl rfl rfl rfl rfl rfl; first | with_reducible assumption | with_reducible apply keeps_tagItem | with_reducible apply Keeps.ledReturn | with_reducible apply keeps_setRoundCtx | with_reducible apply keeps_postArrive | with_reducible apply Keeps.count | with_reducible apply keepsO_ok | with_reducible apply keeps_freeSlots)
    | with_reducible apply Keeps.foldl
    | (intro _ _ _; try beta_reduce)
    | (intro _ _; try beta_reduce)
    | (extract_lets +onlyGivenNames x; refine Keeps.cut (a := a) (x := x) ?_ ?_; rotate_left; (intro hx; clear_value x); rotate_left; unfold x; clear x)
    | (extract_lets +onlyGivenNames x; clear_value x)
    | split

theorem keeps_execRoundRelease (h : Keeps a s) : KeepsO a (execRoundRelease d c s) := by
  unfold execRoundRelease
  repeat' first
    | with_reducible assumption
    | with_reducible apply keepsO_ok
    | with_reducible apply KeepsO.next
    | with_reducible apply keeps_askMark
    | with_reducible apply keeps_setRoundCtx
    | with_reducible apply keepsO_ok
    | with_reducible apply keeps_freeSlots
    | (with_reducible refine keeps_mk ?_ rfl rfl rfl rfl rfl rfl rfl; first | with_reducible assumption | with_reducible apply keeps_askMark | with_reducible apply keeps_setRoundCtx | with_reducible apply keepsO_ok | with_reducible apply keeps_freeSlots)
    | with_reducible apply Keeps.foldl
    | (intro _ _ _; try beta_reduce)
    | (intro _ _; try beta_reduce)
    | (extract_lets +onlyGivenNames x; refine Keeps.cut (a := a) (x := x) ?_ ?_; rotate_left; (intro hx; clear_value x); rotate_left; unfold x; clear x)
    | (extract_lets +onlyGivenNames x; clear_value x)
    | split

theorem keeps_execRoundCredit (h : Keeps a s) : KeepsO a (execRoundCredit d c s) := by
  unfold execRoundCredit
  repeat' first
    | with_reducible assumption
    | with_reducible apply keepsO_ok
    | with_reducible apply KeepsO.next
    | with_reducible apply keepsO_ok
    | with_reducible apply Keeps.ledReturn
    | with_reducible apply keeps_setRoundCtx
    | (with_reducible refine keeps_mk ?_ rfl rfl rfl rfl rfl rfl rfl; first | with_reducible assumption | with_reducible apply keepsO_ok | with_reducible apply Keeps.ledReturn | with_reducible apply keeps_setRoundCtx)
    | with_reducible apply Keeps.foldl
    | (intro _ _ _; try beta_reduce)
    | (intro _ _; try beta_reduce)
    | (extract_lets +onlyGivenNames x; refine Keeps.cut (a := a) (x := x) ?_ ?_; rotate_left; (intro hx; clear_value x); rotate_left; unfold x; clear x)
    | (extract_lets +onlyGivenNames x; clear_value x)
    | split

end Sys2Proof.Machine
end

