-- ==== Sys2Proof/Laws/KeepReduceFam.lean ====
section
/-! SUPPORT. What the operations of Machine/ReduceFam.lean keep (Laws/Keeps.lean). -/

namespace Sys2Proof.Machine

variable {a s : State}

theorem keeps_execDieReady (h : Keeps a s) : KeepsO a (execDieReady d b s) := by
  unfold execDieReady
  repeat' first
    | with_reducible assumption
    | with_reducible apply keepsO_ok
    | with_reducible apply KeepsO.next
    | with_reducible apply keepsO_ok
    | with_reducible apply keeps_dieReady
    | (with_reducible refine keeps_mk ?_ rfl rfl rfl rfl rfl rfl rfl; first | with_reducible assumption | with_reducible apply keepsO_ok | with_reducible apply keeps_dieReady)
    | with_reducible apply Keeps.foldl
    | (intro _ _ _; try beta_reduce)
    | (intro _ _; try beta_reduce)
    | (extract_lets +onlyGivenNames x; refine Keeps.cut (a := a) (x := x) ?_ ?_; rotate_left; (intro hx; clear_value x); rotate_left; unfold x; clear x)
    | (extract_lets +onlyGivenNames x; clear_value x)
    | split

theorem keeps_execReadyStamp (h : Keeps a s) : KeepsO a (execReadyStamp d b lateness s) := by
  unfold execReadyStamp
  repeat' first
    | with_reducible assumption
    | with_reducible apply keepsO_ok
    | with_reducible apply KeepsO.next
    | with_reducible apply keepsO_ok
    | with_reducible apply keeps_readyStamp
    | (with_reducible refine keeps_mk ?_ rfl rfl rfl rfl rfl rfl rfl; first | with_reducible assumption | with_reducible apply keepsO_ok | with_reducible apply keeps_readyStamp)
    | with_reducible apply Keeps.foldl
    | (intro _ _ _; try beta_reduce)
    | (intro _ _; try beta_reduce)
    | (extract_lets +onlyGivenNames x; refine Keeps.cut (a := a) (x := x) ?_ ?_; rotate_left; (intro hx; clear_value x); rotate_left; unfold x; clear x)
    | (extract_lets +onlyGivenNames x; clear_value x)
    | split

theorem keeps_execDeadlineExpiry (h : Keeps a s) : KeepsO a (execDeadlineExpiry b s) := by
  unfold execDeadlineExpiry
  repeat' first
    | with_reducible assumption
    | with_reducible apply keepsO_ok
    | with_reducible apply KeepsO.next
    | with_reducible apply keepsO_ok
    | with_reducible apply keeps_decideBasket
    | (with_reducible refine keeps_mk ?_ rfl rfl rfl rfl rfl rfl rfl; first | with_reducible assumption | with_reducible apply keepsO_ok | with_reducible apply keeps_decideBasket)
    | with_reducible apply Keeps.foldl
    | (intro _ _ _; try beta_reduce)
    | (intro _ _; try beta_reduce)
    | (extract_lets +onlyGivenNames x; refine Keeps.cut (a := a) (x := x) ?_ ?_; rotate_left; (intro hx; clear_value x); rotate_left; unfold x; clear x)
    | (extract_lets +onlyGivenNames x; clear_value x)
    | split

theorem keeps_execIncludedReceive (h : Keeps a s) : KeepsO a (execIncludedReceive d b s) := by
  unfold execIncludedReceive
  repeat' first
    | with_reducible assumption
    | with_reducible apply keepsO_ok
    | with_reducible apply KeepsO.next
    | with_reducible apply keepsO_ok
    | with_reducible apply keeps_receiveIncluded
    | (with_reducible refine keeps_mk ?_ rfl rfl rfl rfl rfl rfl rfl; first | with_reducible assumption | with_reducible apply keepsO_ok | with_reducible apply keeps_receiveIncluded)
    | with_reducible apply Keeps.foldl
    | (intro _ _ _; try beta_reduce)
    | (intro _ _; try beta_reduce)
    | (extract_lets +onlyGivenNames x; refine Keeps.cut (a := a) (x := x) ?_ ?_; rotate_left; (intro hx; clear_value x); rotate_left; unfold x; clear x)
    | (extract_lets +onlyGivenNames x; clear_value x)
    | split

theorem keeps_sendChunk (h : Keeps a s) : Keeps a (State.sendChunk s d b) := by
  unfold State.sendChunk
  repeat' first
    | with_reducible assumption
    | with_reducible apply keeps_setDieBasket
    | with_reducible apply keeps_setFlow
    | with_reducible apply keeps_incSat
    | (with_reducible refine keeps_mk ?_ rfl rfl rfl rfl rfl rfl rfl; first | with_reducible assumption | with_reducible apply keeps_setDieBasket | with_reducible apply keeps_setFlow | with_reducible apply keeps_incSat)
    | with_reducible apply Keeps.foldl
    | (intro _ _ _; try beta_reduce)
    | (intro _ _; try beta_reduce)
    | (extract_lets +onlyGivenNames x; refine Keeps.cut (a := a) (x := x) ?_ ?_; rotate_left; (intro hx; clear_value x); rotate_left; unfold x; clear x)
    | (extract_lets +onlyGivenNames x; clear_value x)
    | split

theorem keeps_startChunk (h : Keeps a s) : Keeps a (State.startChunk s d k b c) := by
  unfold State.startChunk
  repeat' first
    | with_reducible assumption
    | with_reducible apply keeps_levelTake
    | with_reducible apply keeps_setDieBasket
    | with_reducible apply keeps_sendChunk
    | (with_reducible refine keeps_mk ?_ rfl rfl rfl rfl rfl rfl rfl; first | with_reducible assumption | with_reducible apply keeps_levelTake | with_reducible apply keeps_setDieBasket | with_reducible apply keeps_sendChunk)
    | with_reducible apply Keeps.foldl
    | (intro _ _ _; try beta_reduce)
    | (intro _ _; try beta_reduce)
    | (extract_lets +onlyGivenNames x; refine Keeps.cut (a := a) (x := x) ?_ ?_; rotate_left; (intro hx; clear_value x); rotate_left; unfold x; clear x)
    | (extract_lets +onlyGivenNames x; clear_value x)
    | split

theorem keeps_execChunkLevelStart (h : Keeps a s) : KeepsO a (execChunkLevelStart d k b s) := by
  unfold execChunkLevelStart
  repeat' first
    | with_reducible assumption
    | with_reducible apply keepsO_ok
    | with_reducible apply KeepsO.next
    | with_reducible apply keeps_meshServe
    | with_reducible apply keepsO_ok
    | with_reducible apply keeps_startChunk
    | (with_reducible refine keeps_mk ?_ rfl rfl rfl rfl rfl rfl rfl; first | with_reducible assumption | with_reducible apply keeps_meshServe | with_reducible apply keepsO_ok | with_reducible apply keeps_startChunk)
    | with_reducible apply Keeps.foldl
    | (intro _ _ _; try beta_reduce)
    | (intro _ _; try beta_reduce)
    | (extract_lets +onlyGivenNames x; refine Keeps.cut (a := a) (x := x) ?_ ?_; rotate_left; (intro hx; clear_value x); rotate_left; unfold x; clear x)
    | (extract_lets +onlyGivenNames x; clear_value x)
    | split

theorem keeps_chunkArrives (h : Keeps a s) : Keeps a (State.chunkArrives s d k) := by
  unfold State.chunkArrives
  repeat' first
    | with_reducible assumption
    | with_reducible apply Keeps.ledReturn
    | (with_reducible refine keeps_mk ?_ rfl rfl rfl rfl rfl rfl rfl; first | with_reducible assumption | with_reducible apply Keeps.ledReturn)
    | with_reducible apply Keeps.foldl
    | (intro _ _ _; try beta_reduce)
    | (intro _ _; try beta_reduce)
    | (extract_lets +onlyGivenNames x; refine Keeps.cut (a := a) (x := x) ?_ ?_; rotate_left; (intro hx; clear_value x); rotate_left; unfold x; clear x)
    | (extract_lets +onlyGivenNames x; clear_value x)
    | split

theorem keeps_levelDone (h : Keeps a s) : Keeps a (State.levelDone s d k c) := by
  unfold State.levelDone
  repeat' first
    | with_reducible assumption
    | with_reducible apply keeps_setLevel
    | with_reducible apply keeps_chunkArrives
    | with_reducible apply keeps_pipeCredit
    | with_reducible apply keeps_sumChunk
    | with_reducible apply keeps_setDieBasket
    | with_reducible apply Keeps.count
    | (with_reducible refine keeps_mk ?_ rfl rfl rfl rfl rfl rfl rfl; first | with_reducible assumption | with_reducible apply keeps_setLevel | with_reducible apply keeps_chunkArrives | with_reducible apply keeps_pipeCredit | with_reducible apply keeps_sumChunk | with_reducible apply keeps_setDieBasket | with_reducible apply Keeps.count)
    | with_reducible apply Keeps.foldl
    | (intro _ _ _; try beta_reduce)
    | (intro _ _; try beta_reduce)
    | (extract_lets +onlyGivenNames x; refine Keeps.cut (a := a) (x := x) ?_ ?_; rotate_left; (intro hx; clear_value x); rotate_left; unfold x; clear x)
    | (extract_lets +onlyGivenNames x; clear_value x)
    | split

theorem keeps_endLevel (h : Keeps a s) : Keeps a (State.endLevel s d k c) := by
  unfold State.endLevel
  repeat' first
    | with_reducible assumption
    | with_reducible apply keeps_levelDone
    | with_reducible apply keeps_setLevel
    | (with_reducible refine keeps_mk ?_ rfl rfl rfl rfl rfl rfl rfl; first | with_reducible assumption | with_reducible apply keeps_levelDone | with_reducible apply keeps_setLevel)
    | with_reducible apply Keeps.foldl
    | (intro _ _ _; try beta_reduce)
    | (intro _ _; try beta_reduce)
    | (extract_lets +onlyGivenNames x; refine Keeps.cut (a := a) (x := x) ?_ ?_; rotate_left; (intro hx; clear_value x); rotate_left; unfold x; clear x)
    | (extract_lets +onlyGivenNames x; clear_value x)
    | split

theorem keeps_execChunkLevelDone (h : Keeps a s) : KeepsO a (execChunkLevelDone d k b s) := by
  unfold execChunkLevelDone
  repeat' first
    | with_reducible assumption
    | with_reducible apply keepsO_ok
    | with_reducible apply KeepsO.next
    | with_reducible apply keepsO_ok
    | with_reducible apply keeps_endLevel
    | with_reducible apply keeps_levelBusy
    | (with_reducible refine keeps_mk ?_ rfl rfl rfl rfl rfl rfl rfl; first | with_reducible assumption | with_reducible apply keepsO_ok | with_reducible apply keeps_endLevel | with_reducible apply keeps_levelBusy)
    | with_reducible apply Keeps.foldl
    | (intro _ _ _; try beta_reduce)
    | (intro _ _; try beta_reduce)
    | (extract_lets +onlyGivenNames x; refine Keeps.cut (a := a) (x := x) ?_ ?_; rotate_left; (intro hx; clear_value x); rotate_left; unfold x; clear x)
    | (extract_lets +onlyGivenNames x; clear_value x)
    | split

theorem keeps_execEngineStageDone (h : Keeps a s) : KeepsO a (execEngineStageDone b s) := by
  unfold execEngineStageDone
  repeat' first
    | with_reducible assumption
    | with_reducible apply keepsO_ok
    | with_reducible apply KeepsO.next
    | with_reducible apply keepsO_ok
    | with_reducible apply keeps_engineStage
    | (with_reducible refine keeps_mk ?_ rfl rfl rfl rfl rfl rfl rfl; first | with_reducible assumption | with_reducible apply keepsO_ok | with_reducible apply keeps_engineStage)
    | with_reducible apply Keeps.foldl
    | (intro _ _ _; try beta_reduce)
    | (intro _ _; try beta_reduce)
    | (extract_lets +onlyGivenNames x; refine Keeps.cut (a := a) (x := x) ?_ ?_; rotate_left; (intro hx; clear_value x); rotate_left; unfold x; clear x)
    | (extract_lets +onlyGivenNames x; clear_value x)
    | split

theorem keeps_execLevelSatWindow (h : Keeps a s) : KeepsO a (execLevelSatWindow d s) := by
  unfold execLevelSatWindow
  repeat' first
    | with_reducible assumption
    | with_reducible apply keepsO_ok
    | with_reducible apply KeepsO.next
    | with_reducible apply keeps_poke
    | with_reducible apply keepsO_ok
    | with_reducible apply Keeps.forEach
    | with_reducible apply keeps_setLevel
    | (with_reducible refine keeps_mk ?_ rfl rfl rfl rfl rfl rfl rfl; first | with_reducible assumption | with_reducible apply keeps_poke | with_reducible apply keepsO_ok | with_reducible apply Keeps.forEach | with_reducible apply keeps_setLevel)
    | with_reducible apply Keeps.foldl
    | (intro _ _ _; try beta_reduce)
    | (intro _ _; try beta_reduce)
    | (extract_lets +onlyGivenNames x; refine Keeps.cut (a := a) (x := x) ?_ ?_; rotate_left; (intro hx; clear_value x); rotate_left; unfold x; clear x)
    | (extract_lets +onlyGivenNames x; clear_value x)
    | split

end Sys2Proof.Machine
end

