-- ==== Sys2Proof/Laws/KeepFetchFam.lean ====
section
/-! SUPPORT. What the operations of Machine/FetchFam.lean keep (Laws/Keeps.lean). -/

namespace Sys2Proof.Machine

variable {a s : State}

theorem keeps_execFetchSend (h : Keeps a s) : KeepsO a (execFetchSend d e s) := by
  unfold execFetchSend
  repeat' first
    | with_reducible assumption
    | with_reducible apply keepsO_ok
    | with_reducible apply KeepsO.next
    | with_reducible apply keepsO_ok
    | with_reducible apply keeps_incSat
    | with_reducible apply keeps_setFetch
    | with_reducible apply keeps_failWalk
    | with_reducible apply keeps_grantFlow
    | with_reducible apply keeps_sendKept
    | (with_reducible refine keeps_mk ?_ rfl rfl rfl rfl rfl rfl rfl; first | with_reducible assumption | with_reducible apply keepsO_ok | with_reducible apply keeps_incSat | with_reducible apply keeps_setFetch | with_reducible apply keeps_failWalk | with_reducible apply keeps_grantFlow | with_reducible apply keeps_sendKept)
    | with_reducible apply Keeps.foldl
    | (intro _ _ _; try beta_reduce)
    | (intro _ _; try beta_reduce)
    | (extract_lets +onlyGivenNames x; refine Keeps.cut (a := a) (x := x) ?_ ?_; rotate_left; (intro hx; clear_value x); rotate_left; unfold x; clear x)
    | (extract_lets +onlyGivenNames x; clear_value x)
    | split

theorem keeps_windowDrop (h : Keeps a s) : Keeps a (State.windowDrop s p v2) := by
  unfold State.windowDrop
  repeat' first
    | with_reducible assumption
    | with_reducible apply keeps_incSat
    | with_reducible apply keeps_sendCredit
    | with_reducible apply keeps_nackRanges
    | (with_reducible refine keeps_mk ?_ rfl rfl rfl rfl rfl rfl rfl; first | with_reducible assumption | with_reducible apply keeps_incSat | with_reducible apply keeps_sendCredit | with_reducible apply keeps_nackRanges)
    | with_reducible apply Keeps.foldl
    | (intro _ _ _; try beta_reduce)
    | (intro _ _; try beta_reduce)
    | (extract_lets +onlyGivenNames x; refine Keeps.cut (a := a) (x := x) ?_ ?_; rotate_left; (intro hx; clear_value x); rotate_left; unfold x; clear x)
    | (extract_lets +onlyGivenNames x; clear_value x)
    | split

theorem keeps_rxClosing (h : Keeps a s) : Keeps a (State.rxClosing s p v2) := by
  unfold State.rxClosing
  repeat' first
    | with_reducible assumption
    | with_reducible apply keeps_reconcile
    | with_reducible apply keeps_takeSeq
    | with_reducible apply keepsO_ok
    | with_reducible apply keeps_stale
    | (with_reducible refine keeps_mk ?_ rfl rfl rfl rfl rfl rfl rfl; first | with_reducible assumption | with_reducible apply keeps_reconcile | with_reducible apply keeps_takeSeq | with_reducible apply keepsO_ok | with_reducible apply keeps_stale)
    | with_reducible apply Keeps.foldl
    | (intro _ _ _; try beta_reduce)
    | (intro _ _; try beta_reduce)
    | (extract_lets +onlyGivenNames x; refine Keeps.cut (a := a) (x := x) ?_ ?_; rotate_left; (intro hx; clear_value x); rotate_left; unfold x; clear x)
    | (extract_lets +onlyGivenNames x; clear_value x)
    | split

theorem keeps_rxSequenced (h : Keeps a s) : Keeps a (State.rxSequenced s p k) := by
  unfold State.rxSequenced
  repeat' first
    | with_reducible assumption
    | with_reducible apply keeps_windowDrop
    | with_reducible apply keeps_rxAck
    | with_reducible apply Keeps.count
    | with_reducible apply keeps_rxClosing
    | with_reducible apply keeps_stale
    | with_reducible apply keeps_takeSeq
    | with_reducible apply keeps_takeWeight
    | with_reducible apply keeps_breach
    | (with_reducible refine keeps_mk ?_ rfl rfl rfl rfl rfl rfl rfl; first | with_reducible assumption | with_reducible apply keeps_windowDrop | with_reducible apply keeps_rxAck | with_reducible apply Keeps.count | with_reducible apply keeps_rxClosing | with_reducible apply keeps_stale | with_reducible apply keeps_takeSeq | with_reducible apply keeps_takeWeight | with_reducible apply keeps_breach)
    | with_reducible apply Keeps.foldl
    | (intro _ _ _; try beta_reduce)
    | (intro _ _; try beta_reduce)
    | (extract_lets +onlyGivenNames x; refine Keeps.cut (a := a) (x := x) ?_ ?_; rotate_left; (intro hx; clear_value x); rotate_left; unfold x; clear x)
    | (extract_lets +onlyGivenNames x; clear_value x)
    | split

theorem keeps_execArriveUsExpiry (h : Keeps a s) : KeepsO a (execArriveUsExpiry d e s) := by
  unfold execArriveUsExpiry
  repeat' first
    | with_reducible assumption
    | with_reducible apply keepsO_ok
    | with_reducible apply KeepsO.next
    | with_reducible apply keepsO_ok
    | with_reducible apply keeps_fetchLost
    | with_reducible apply keeps_noteFail
    | (with_reducible refine keeps_mk ?_ rfl rfl rfl rfl rfl rfl rfl; first | with_reducible assumption | with_reducible apply keepsO_ok | with_reducible apply keeps_fetchLost | with_reducible apply keeps_noteFail)
    | with_reducible apply Keeps.foldl
    | (intro _ _ _; try beta_reduce)
    | (intro _ _; try beta_reduce)
    | (extract_lets +onlyGivenNames x; refine Keeps.cut (a := a) (x := x) ?_ ?_; rotate_left; (intro hx; clear_value x); rotate_left; unfold x; clear x)
    | (extract_lets +onlyGivenNames x; clear_value x)
    | split

theorem keeps_eraseKeys (h : Keeps a s) : Keeps a (State.eraseKeys s d mask) := by
  unfold State.eraseKeys
  repeat' first
    | with_reducible assumption
    | with_reducible apply Keeps.forEach
    | with_reducible apply keeps_setKeySlot
    | (with_reducible refine keeps_mk ?_ rfl rfl rfl rfl rfl rfl rfl; first | with_reducible assumption | with_reducible apply Keeps.forEach | with_reducible apply keeps_setKeySlot)
    | with_reducible apply Keeps.foldl
    | (intro _ _ _; try beta_reduce)
    | (intro _ _; try beta_reduce)
    | (extract_lets +onlyGivenNames x; refine Keeps.cut (a := a) (x := x) ?_ ?_; rotate_left; (intro hx; clear_value x); rotate_left; unfold x; clear x)
    | (extract_lets +onlyGivenNames x; clear_value x)
    | split

theorem keeps_execKeyErase (h : Keeps a s) : KeepsO a (execKeyErase d mask s) := by
  unfold execKeyErase
  repeat' first
    | with_reducible assumption
    | with_reducible apply keepsO_ok
    | with_reducible apply KeepsO.next
    | with_reducible apply keepsO_ok
    | with_reducible apply keeps_eraseKeys
    | (with_reducible refine keeps_mk ?_ rfl rfl rfl rfl rfl rfl rfl; first | with_reducible assumption | with_reducible apply keepsO_ok | with_reducible apply keeps_eraseKeys)
    | with_reducible apply Keeps.foldl
    | (intro _ _ _; try beta_reduce)
    | (intro _ _; try beta_reduce)
    | (extract_lets +onlyGivenNames x; refine Keeps.cut (a := a) (x := x) ?_ ?_; rotate_left; (intro hx; clear_value x); rotate_left; unfold x; clear x)
    | (extract_lets +onlyGivenNames x; clear_value x)
    | split

theorem keeps_execKeyEraseApply (h : Keeps a s) : KeepsO a (execKeyEraseApply d s) := by
  unfold execKeyEraseApply
  repeat' first
    | with_reducible assumption
    | with_reducible apply keepsO_ok
    | with_reducible apply KeepsO.next
    | with_reducible apply keepsO_ok
    | with_reducible apply Keeps.forEach
    | with_reducible apply keeps_setKeySlot
    | (with_reducible refine keeps_mk ?_ rfl rfl rfl rfl rfl rfl rfl; first | with_reducible assumption | with_reducible apply keepsO_ok | with_reducible apply Keeps.forEach | with_reducible apply keeps_setKeySlot)
    | with_reducible apply Keeps.foldl
    | (intro _ _ _; try beta_reduce)
    | (intro _ _; try beta_reduce)
    | (extract_lets +onlyGivenNames x; refine Keeps.cut (a := a) (x := x) ?_ ?_; rotate_left; (intro hx; clear_value x); rotate_left; unfold x; clear x)
    | (extract_lets +onlyGivenNames x; clear_value x)
    | split

end Sys2Proof.Machine
end

