-- ==== Sys2Proof/Laws/KeepFlowFam.lean ====
section
/-! SUPPORT. What the operations of Machine/FlowFam.lean keep (Laws/Keeps.lean). -/

namespace Sys2Proof.Machine

variable {a s : State}

theorem keeps_execNonSloubPacket (h : Keeps a s) : KeepsO a (execNonSloubPacket p s) := by
  unfold execNonSloubPacket
  repeat' first
    | with_reducible assumption
    | with_reducible apply keepsO_ok
    | with_reducible apply KeepsO.next
    | with_reducible apply keepsO_ok
    | with_reducible apply keeps_incSat
    | (with_reducible refine keeps_mk ?_ rfl rfl rfl rfl rfl rfl rfl; first | with_reducible assumption | with_reducible apply keepsO_ok | with_reducible apply keeps_incSat)
    | with_reducible apply Keeps.foldl
    | (intro _ _ _; try beta_reduce)
    | (intro _ _; try beta_reduce)
    | (extract_lets +onlyGivenNames x; refine Keeps.cut (a := a) (x := x) ?_ ?_; rotate_left; (intro hx; clear_value x); rotate_left; unfold x; clear x)
    | (extract_lets +onlyGivenNames x; clear_value x)
    | split

theorem keeps_execNeighborSolicitation (h : Keeps a s) : KeepsO a (execNeighborSolicitation p target s) := by
  unfold execNeighborSolicitation
  repeat' first
    | with_reducible assumption
    | with_reducible apply keepsO_ok
    | with_reducible apply KeepsO.next
    | with_reducible apply keepsO_ok
    | with_reducible apply keeps_emit
    | (with_reducible refine keeps_mk ?_ rfl rfl rfl rfl rfl rfl rfl; first | with_reducible assumption | with_reducible apply keepsO_ok | with_reducible apply keeps_emit)
    | with_reducible apply Keeps.foldl
    | (intro _ _ _; try beta_reduce)
    | (intro _ _; try beta_reduce)
    | (extract_lets +onlyGivenNames x; refine Keeps.cut (a := a) (x := x) ?_ ?_; rotate_left; (intro hx; clear_value x); rotate_left; unfold x; clear x)
    | (extract_lets +onlyGivenNames x; clear_value x)
    | split

theorem keeps_execPauseFrame (h : Keeps a s) : KeepsO a (execPauseFrame p s) := by
  unfold execPauseFrame
  repeat' first
    | with_reducible assumption
    | with_reducible apply keepsO_ok
    | with_reducible apply KeepsO.next
    | with_reducible apply keepsO_ok
    | with_reducible apply keeps_incSat
    | (with_reducible refine keeps_mk ?_ rfl rfl rfl rfl rfl rfl rfl; first | with_reducible assumption | with_reducible apply keepsO_ok | with_reducible apply keeps_incSat)
    | with_reducible apply Keeps.foldl
    | (intro _ _ _; try beta_reduce)
    | (intro _ _; try beta_reduce)
    | (extract_lets +onlyGivenNames x; refine Keeps.cut (a := a) (x := x) ?_ ?_; rotate_left; (intro hx; clear_value x); rotate_left; unfold x; clear x)
    | (extract_lets +onlyGivenNames x; clear_value x)
    | split

theorem keeps_actOpen (h : Keeps a s) : Keeps a (State.actOpen s p f) := by
  unfold State.actOpen
  repeat' first
    | with_reducible assumption
    | with_reducible apply keeps_setFlow
    | with_reducible apply keeps_openNow
    | (with_reducible refine keeps_mk ?_ rfl rfl rfl rfl rfl rfl rfl; first | with_reducible assumption | with_reducible apply keeps_setFlow | with_reducible apply keeps_openNow)
    | with_reducible apply Keeps.foldl
    | (intro _ _ _; try beta_reduce)
    | (intro _ _; try beta_reduce)
    | (extract_lets +onlyGivenNames x; refine Keeps.cut (a := a) (x := x) ?_ ?_; rotate_left; (intro hx; clear_value x); rotate_left; unfold x; clear x)
    | (extract_lets +onlyGivenNames x; clear_value x)
    | split

theorem keeps_execOpenReq (h : Keeps a s) : KeepsO a (execOpenReq p f s) := by
  unfold execOpenReq
  repeat' first
    | with_reducible assumption
    | with_reducible apply keepsO_ok
    | with_reducible apply KeepsO.next
    | with_reducible apply keepsO_ok
    | with_reducible apply keeps_actOpen
    | (with_reducible refine keeps_mk ?_ rfl rfl rfl rfl rfl rfl rfl; first | with_reducible assumption | with_reducible apply keepsO_ok | with_reducible apply keeps_actOpen)
    | with_reducible apply Keeps.foldl
    | (intro _ _ _; try beta_reduce)
    | (intro _ _; try beta_reduce)
    | (extract_lets +onlyGivenNames x; refine Keeps.cut (a := a) (x := x) ?_ ?_; rotate_left; (intro hx; clear_value x); rotate_left; unfold x; clear x)
    | (extract_lets +onlyGivenNames x; clear_value x)
    | split

theorem keeps_execSlotEligible (h : Keeps a s) : KeepsO a (execSlotEligible p f s) := by
  unfold execSlotEligible
  repeat' first
    | with_reducible assumption
    | with_reducible apply keepsO_ok
    | with_reducible apply KeepsO.next
    | with_reducible apply keeps_setFlow
    | with_reducible apply keepsO_ok
    | with_reducible apply keeps_openNow
    | (with_reducible refine keeps_mk ?_ rfl rfl rfl rfl rfl rfl rfl; first | with_reducible assumption | with_reducible apply keeps_setFlow | with_reducible apply keepsO_ok | with_reducible apply keeps_openNow)
    | with_reducible apply Keeps.foldl
    | (intro _ _ _; try beta_reduce)
    | (intro _ _; try beta_reduce)
    | (extract_lets +onlyGivenNames x; refine Keeps.cut (a := a) (x := x) ?_ ?_; rotate_left; (intro hx; clear_value x); rotate_left; unfold x; clear x)
    | (extract_lets +onlyGivenNames x; clear_value x)
    | split

theorem keeps_refuse (h : Keeps a s) : Keeps a (State.refuse s p v2 b f reason us) := by
  unfold State.refuse
  repeat' first
    | with_reducible assumption
    | with_reducible apply keeps_incSat
    | with_reducible apply Keeps.count
    | with_reducible apply keeps_putFrame
    | (with_reducible refine keeps_mk ?_ rfl rfl rfl rfl rfl rfl rfl; first | with_reducible assumption | with_reducible apply keeps_incSat | with_reducible apply Keeps.count | with_reducible apply keeps_putFrame)
    | with_reducible apply Keeps.foldl
    | (intro _ _ _; try beta_reduce)
    | (intro _ _; try beta_reduce)
    | (extract_lets +onlyGivenNames x; refine Keeps.cut (a := a) (x := x) ?_ ?_; rotate_left; (intro hx; clear_value x); rotate_left; unfold x; clear x)
    | (extract_lets +onlyGivenNames x; clear_value x)
    | split

theorem keeps_refuseLater (h : Keeps a s) : Keeps a (State.refuseLater s p v2 b f reason) := by
  unfold State.refuseLater
  repeat' first
    | with_reducible assumption
    | with_reducible apply keeps_freeNext
    | with_reducible apply keeps_refuse
    | (with_reducible refine keeps_mk ?_ rfl rfl rfl rfl rfl rfl rfl; first | with_reducible assumption | with_reducible apply keeps_freeNext | with_reducible apply keeps_refuse)
    | with_reducible apply Keeps.foldl
    | (intro _ _ _; try beta_reduce)
    | (intro _ _; try beta_reduce)
    | (extract_lets +onlyGivenNames x; refine Keeps.cut (a := a) (x := x) ?_ ?_; rotate_left; (intro hx; clear_value x); rotate_left; unfold x; clear x)
    | (extract_lets +onlyGivenNames x; clear_value x)
    | split

theorem keeps_acceptOpen (h : Keeps a s) : Keeps a (State.acceptOpen s p f v3 b) := by
  unfold State.acceptOpen
  repeat' first
    | with_reducible assumption
    | with_reducible apply keeps_leaveFree
    | with_reducible apply keeps_takeLimit
    | with_reducible apply keeps_setFlow
    | with_reducible apply keeps_sendAccept
    | with_reducible apply keeps_enterOpen
    | (with_reducible refine keeps_mk ?_ rfl rfl rfl rfl rfl rfl rfl; first | with_reducible assumption | with_reducible apply keeps_leaveFree | with_reducible apply keeps_takeLimit | with_reducible apply keeps_setFlow | with_reducible apply keeps_sendAccept | with_reducible apply keeps_enterOpen)
    | with_reducible apply Keeps.foldl
    | (intro _ _ _; try beta_reduce)
    | (intro _ _; try beta_reduce)
    | (extract_lets +onlyGivenNames x; refine Keeps.cut (a := a) (x := x) ?_ ?_; rotate_left; (intro hx; clear_value x); rotate_left; unfold x; clear x)
    | (extract_lets +onlyGivenNames x; clear_value x)
    | split

theorem keeps_openAnswered (h : Keeps a s) : Keeps a (State.openAnswered s p f b) := by
  unfold State.openAnswered
  repeat' first
    | with_reducible assumption
    | with_reducible apply keeps_setFlow
    | with_reducible apply keeps_enterOpen
    | with_reducible apply keeps_takeLimit
    | (with_reducible refine keeps_mk ?_ rfl rfl rfl rfl rfl rfl rfl; first | with_reducible assumption | with_reducible apply keeps_setFlow | with_reducible apply keeps_enterOpen | with_reducible apply keeps_takeLimit)
    | with_reducible apply Keeps.foldl
    | (intro _ _ _; try beta_reduce)
    | (intro _ _; try beta_reduce)
    | (extract_lets +onlyGivenNames x; refine Keeps.cut (a := a) (x := x) ?_ ?_; rotate_left; (intro hx; clear_value x); rotate_left; unfold x; clear x)
    | (extract_lets +onlyGivenNames x; clear_value x)
    | split

theorem keeps_requestOpen (h : Keeps a s) : Keeps a (State.requestOpen s p v2 b) := by
  unfold State.requestOpen
  repeat' first
    | with_reducible assumption
    | with_reducible apply keeps_refuseLater
    | with_reducible apply keeps_acceptOpen
    | with_reducible apply keeps_refuse
    | with_reducible apply keeps_actOpen
    | with_reducible apply keeps_openAnswered
    | (with_reducible refine keeps_mk ?_ rfl rfl rfl rfl rfl rfl rfl; first | with_reducible assumption | with_reducible apply keeps_refuseLater | with_reducible apply keeps_acceptOpen | with_reducible apply keeps_refuse | with_reducible apply keeps_actOpen | with_reducible apply keeps_openAnswered)
    | with_reducible apply Keeps.foldl
    | (intro _ _ _; try beta_reduce)
    | (intro _ _; try beta_reduce)
    | (extract_lets +onlyGivenNames x; refine Keeps.cut (a := a) (x := x) ?_ ?_; rotate_left; (intro hx; clear_value x); rotate_left; unfold x; clear x)
    | (extract_lets +onlyGivenNames x; clear_value x)
    | split

theorem keeps_execCloseReq (h : Keeps a s) : KeepsO a (execCloseReq p f s) := by
  unfold execCloseReq
  repeat' first
    | with_reducible assumption
    | with_reducible apply keepsO_ok
    | with_reducible apply KeepsO.next
    | with_reducible apply keeps_actOpen
    | with_reducible apply keepsO_ok
    | with_reducible apply keeps_hostClose
    | with_reducible apply keeps_setFlow
    | (with_reducible refine keeps_mk ?_ rfl rfl rfl rfl rfl rfl rfl; first | with_reducible assumption | with_reducible apply keeps_actOpen | with_reducible apply keepsO_ok | with_reducible apply keeps_hostClose | with_reducible apply keeps_setFlow)
    | with_reducible apply Keeps.foldl
    | (intro _ _ _; try beta_reduce)
    | (intro _ _; try beta_reduce)
    | (extract_lets +onlyGivenNames x; refine Keeps.cut (a := a) (x := x) ?_ ?_; rotate_left; (intro hx; clear_value x); rotate_left; unfold x; clear x)
    | (extract_lets +onlyGivenNames x; clear_value x)
    | split

theorem keeps_peerClose (h : Keeps a s) : Keeps a (State.peerClose s p f b) := by
  unfold State.peerClose
  repeat' first
    | with_reducible assumption
    | with_reducible apply keeps_failFlow
    | with_reducible apply keeps_closeSlot
    | with_reducible apply keeps_reconcile
    | with_reducible apply keeps_setFlow
    | (with_reducible refine keeps_mk ?_ rfl rfl rfl rfl rfl rfl rfl; first | with_reducible assumption | with_reducible apply keeps_failFlow | with_reducible apply keeps_closeSlot | with_reducible apply keeps_reconcile | with_reducible apply keeps_setFlow)
    | with_reducible apply Keeps.foldl
    | (intro _ _ _; try beta_reduce)
    | (intro _ _; try beta_reduce)
    | (extract_lets +onlyGivenNames x; refine Keeps.cut (a := a) (x := x) ?_ ?_; rotate_left; (intro hx; clear_value x); rotate_left; unfold x; clear x)
    | (extract_lets +onlyGivenNames x; clear_value x)
    | split

theorem keeps_takeRefuse (h : Keeps a s) : Keeps a (State.takeRefuse s p f) := by
  unfold State.takeRefuse
  repeat' first
    | with_reducible assumption
    | with_reducible apply keeps_toFree
    | with_reducible apply keeps_failFlow
    | (with_reducible refine keeps_mk ?_ rfl rfl rfl rfl rfl rfl rfl; first | with_reducible assumption | with_reducible apply keeps_toFree | with_reducible apply keeps_failFlow)
    | with_reducible apply Keeps.foldl
    | (intro _ _ _; try beta_reduce)
    | (intro _ _; try beta_reduce)
    | (extract_lets +onlyGivenNames x; refine Keeps.cut (a := a) (x := x) ?_ ?_; rotate_left; (intro hx; clear_value x); rotate_left; unfold x; clear x)
    | (extract_lets +onlyGivenNames x; clear_value x)
    | split

theorem keeps_execWriteOffExpiry (h : Keeps a s) : KeepsO a (execWriteOffExpiry p f s) := by
  unfold execWriteOffExpiry
  repeat' first
    | with_reducible assumption
    | with_reducible apply keepsO_ok
    | with_reducible apply KeepsO.next
    | with_reducible apply keepsO_ok
    | with_reducible apply keeps_writeOff
    | (with_reducible refine keeps_mk ?_ rfl rfl rfl rfl rfl rfl rfl; first | with_reducible assumption | with_reducible apply keepsO_ok | with_reducible apply keeps_writeOff)
    | with_reducible apply Keeps.foldl
    | (intro _ _ _; try beta_reduce)
    | (intro _ _; try beta_reduce)
    | (extract_lets +onlyGivenNames x; refine Keeps.cut (a := a) (x := x) ?_ ?_; rotate_left; (intro hx; clear_value x); rotate_left; unfold x; clear x)
    | (extract_lets +onlyGivenNames x; clear_value x)
    | split

theorem keeps_nackMissing (h : Keeps a s) : Keeps a (State.nackMissing s p f l) := by
  unfold State.nackMissing
  repeat' first
    | with_reducible assumption
    | with_reducible apply keeps_resend
    | (with_reducible refine keeps_mk ?_ rfl rfl rfl rfl rfl rfl rfl; first | with_reducible assumption | with_reducible apply keeps_resend)
    | with_reducible apply Keeps.foldl
    | (intro _ _ _; try beta_reduce)
    | (intro _ _; try beta_reduce)
    | (extract_lets +onlyGivenNames x; refine Keeps.cut (a := a) (x := x) ?_ ?_; rotate_left; (intro hx; clear_value x); rotate_left; unfold x; clear x)
    | (extract_lets +onlyGivenNames x; clear_value x)
    | split

theorem keeps_takeNack (h : Keeps a s) : Keeps a (State.takeNack s p f b) := by
  unfold State.takeNack
  repeat' first
    | with_reducible assumption
    | with_reducible apply keeps_incSat
    | with_reducible apply keeps_nackMissing
    | with_reducible apply keeps_failWalk
    | (with_reducible refine keeps_mk ?_ rfl rfl rfl rfl rfl rfl rfl; first | with_reducible assumption | with_reducible apply keeps_incSat | with_reducible apply keeps_nackMissing | with_reducible apply keeps_failWalk)
    | with_reducible apply Keeps.foldl
    | (intro _ _ _; try beta_reduce)
    | (intro _ _; try beta_reduce)
    | (extract_lets +onlyGivenNames x; refine Keeps.cut (a := a) (x := x) ?_ ?_; rotate_left; (intro hx; clear_value x); rotate_left; unfold x; clear x)
    | (extract_lets +onlyGivenNames x; clear_value x)
    | split

theorem keeps_takeCredit (h : Keeps a s) : Keeps a (State.takeCredit s p f limit) := by
  unfold State.takeCredit
  repeat' first
    | with_reducible assumption
    | with_reducible apply keeps_reconcile
    | with_reducible apply keeps_takeLimit
    | (with_reducible refine keeps_mk ?_ rfl rfl rfl rfl rfl rfl rfl; first | with_reducible assumption | with_reducible apply keeps_reconcile | with_reducible apply keeps_takeLimit)
    | with_reducible apply Keeps.foldl
    | (intro _ _ _; try beta_reduce)
    | (intro _ _; try beta_reduce)
    | (extract_lets +onlyGivenNames x; refine Keeps.cut (a := a) (x := x) ?_ ?_; rotate_left; (intro hx; clear_value x); rotate_left; unfold x; clear x)
    | (extract_lets +onlyGivenNames x; clear_value x)
    | split

theorem keeps_rxV0 (h : Keeps a s) : Keeps a (State.rxV0 s p k) := by
  unfold State.rxV0
  repeat' first
    | with_reducible assumption
    | with_reducible apply Keeps.count
    | with_reducible apply keeps_takeCredit
    | with_reducible apply keeps_rxAck
    | with_reducible apply keeps_openAnswered
    | with_reducible apply keeps_peerClose
    | with_reducible apply keeps_takeRefuse
    | with_reducible apply keeps_reconcile
    | with_reducible apply keeps_takeNack
    | (with_reducible refine keeps_mk ?_ rfl rfl rfl rfl rfl rfl rfl; first | with_reducible assumption | with_reducible apply Keeps.count | with_reducible apply keeps_takeCredit | with_reducible apply keeps_rxAck | with_reducible apply keeps_openAnswered | with_reducible apply keeps_peerClose | with_reducible apply keeps_takeRefuse | with_reducible apply keeps_reconcile | with_reducible apply keeps_takeNack)
    | with_reducible apply Keeps.foldl
    | (intro _ _ _; try beta_reduce)
    | (intro _ _; try beta_reduce)
    | (extract_lets +onlyGivenNames x; refine Keeps.cut (a := a) (x := x) ?_ ?_; rotate_left; (intro hx; clear_value x); rotate_left; unfold x; clear x)
    | (extract_lets +onlyGivenNames x; clear_value x)
    | split

theorem keeps_receive (h : Keeps a s) : Keeps a (State.receive s p k) := by
  unfold State.receive
  repeat' first
    | with_reducible assumption
    | with_reducible apply keeps_incSat
    | with_reducible apply keeps_crossBuddy
    | with_reducible apply keeps_requestOpen
    | with_reducible apply Keeps.count
    | with_reducible apply keeps_rxSequenced
    | with_reducible apply keeps_rxV0
    | (with_reducible refine keeps_mk ?_ rfl rfl rfl rfl rfl rfl rfl; first | with_reducible assumption | with_reducible apply keeps_incSat | with_reducible apply keeps_crossBuddy | with_reducible apply keeps_requestOpen | with_reducible apply Keeps.count | with_reducible apply keeps_rxSequenced | with_reducible apply keeps_rxV0)
    | with_reducible apply Keeps.foldl
    | (intro _ _ _; try beta_reduce)
    | (intro _ _; try beta_reduce)
    | (extract_lets +onlyGivenNames x; refine Keeps.cut (a := a) (x := x) ?_ ?_; rotate_left; (intro hx; clear_value x); rotate_left; unfold x; clear x)
    | (extract_lets +onlyGivenNames x; clear_value x)
    | split

theorem keeps_execWeightFrame (h : Keeps a s) : KeepsO a (execWeightFrame p hd udp s) := by
  unfold execWeightFrame
  repeat' first
    | with_reducible assumption
    | with_reducible apply keepsO_ok
    | with_reducible apply KeepsO.next
    | with_reducible apply keepsO_ok
    | with_reducible apply keeps_receive
    | (with_reducible refine keeps_mk ?_ rfl rfl rfl rfl rfl rfl rfl; first | with_reducible assumption | with_reducible apply keepsO_ok | with_reducible apply keeps_receive)
    | with_reducible apply Keeps.foldl
    | (intro _ _ _; try beta_reduce)
    | (intro _ _; try beta_reduce)
    | (extract_lets +onlyGivenNames x; refine Keeps.cut (a := a) (x := x) ?_ ?_; rotate_left; (intro hx; clear_value x); rotate_left; unfold x; clear x)
    | (extract_lets +onlyGivenNames x; clear_value x)
    | split

theorem keeps_execOpenRequestFrame (h : Keeps a s) : KeepsO a (execOpenRequestFrame p hd udp s) := by
  unfold execOpenRequestFrame
  repeat' first
    | with_reducible assumption
    | with_reducible apply keepsO_ok
    | with_reducible apply KeepsO.next
    | with_reducible apply keepsO_ok
    | with_reducible apply keeps_receive
    | (with_reducible refine keeps_mk ?_ rfl rfl rfl rfl rfl rfl rfl; first | with_reducible assumption | with_reducible apply keepsO_ok | with_reducible apply keeps_receive)
    | with_reducible apply Keeps.foldl
    | (intro _ _ _; try beta_reduce)
    | (intro _ _; try beta_reduce)
    | (extract_lets +onlyGivenNames x; refine Keeps.cut (a := a) (x := x) ?_ ?_; rotate_left; (intro hx; clear_value x); rotate_left; unfold x; clear x)
    | (extract_lets +onlyGivenNames x; clear_value x)
    | split

theorem keeps_execOpenAcceptFrame (h : Keeps a s) : KeepsO a (execOpenAcceptFrame p hd udp s) := by
  unfold execOpenAcceptFrame
  repeat' first
    | with_reducible assumption
    | with_reducible apply keepsO_ok
    | with_reducible apply KeepsO.next
    | with_reducible apply keepsO_ok
    | with_reducible apply keeps_receive
    | (with_reducible refine keeps_mk ?_ rfl rfl rfl rfl rfl rfl rfl; first | with_reducible assumption | with_reducible apply keepsO_ok | with_reducible apply keeps_receive)
    | with_reducible apply Keeps.foldl
    | (intro _ _ _; try beta_reduce)
    | (intro _ _; try beta_reduce)
    | (extract_lets +onlyGivenNames x; refine Keeps.cut (a := a) (x := x) ?_ ?_; rotate_left; (intro hx; clear_value x); rotate_left; unfold x; clear x)
    | (extract_lets +onlyGivenNames x; clear_value x)
    | split

theorem keeps_execCloseFrame (h : Keeps a s) : KeepsO a (execCloseFrame p hd udp s) := by
  unfold execCloseFrame
  repeat' first
    | with_reducible assumption
    | with_reducible apply keepsO_ok
    | with_reducible apply KeepsO.next
    | with_reducible apply keepsO_ok
    | with_reducible apply keeps_receive
    | (with_reducible refine keeps_mk ?_ rfl rfl rfl rfl rfl rfl rfl; first | with_reducible assumption | with_reducible apply keepsO_ok | with_reducible apply keeps_receive)
    | with_reducible apply Keeps.foldl
    | (intro _ _ _; try beta_reduce)
    | (intro _ _; try beta_reduce)
    | (extract_lets +onlyGivenNames x; refine Keeps.cut (a := a) (x := x) ?_ ?_; rotate_left; (intro hx; clear_value x); rotate_left; unfold x; clear x)
    | (extract_lets +onlyGivenNames x; clear_value x)
    | split

theorem keeps_execRefuseFrame (h : Keeps a s) : KeepsO a (execRefuseFrame p hd udp s) := by
  unfold execRefuseFrame
  repeat' first
    | with_reducible assumption
    | with_reducible apply keepsO_ok
    | with_reducible apply KeepsO.next
    | with_reducible apply keepsO_ok
    | with_reducible apply keeps_receive
    | (with_reducible refine keeps_mk ?_ rfl rfl rfl rfl rfl rfl rfl; first | with_reducible assumption | with_reducible apply keepsO_ok | with_reducible apply keeps_receive)
    | with_reducible apply Keeps.foldl
    | (intro _ _ _; try beta_reduce)
    | (intro _ _; try beta_reduce)
    | (extract_lets +onlyGivenNames x; refine Keeps.cut (a := a) (x := x) ?_ ?_; rotate_left; (intro hx; clear_value x); rotate_left; unfold x; clear x)
    | (extract_lets +onlyGivenNames x; clear_value x)
    | split

theorem keeps_execNackFrame (h : Keeps a s) : KeepsO a (execNackFrame p hd udp s) := by
  unfold execNackFrame
  repeat' first
    | with_reducible assumption
    | with_reducible apply keepsO_ok
    | with_reducible apply KeepsO.next
    | with_reducible apply keepsO_ok
    | with_reducible apply keeps_receive
    | (with_reducible refine keeps_mk ?_ rfl rfl rfl rfl rfl rfl rfl; first | with_reducible assumption | with_reducible apply keepsO_ok | with_reducible apply keeps_receive)
    | with_reducible apply Keeps.foldl
    | (intro _ _ _; try beta_reduce)
    | (intro _ _; try beta_reduce)
    | (extract_lets +onlyGivenNames x; refine Keeps.cut (a := a) (x := x) ?_ ?_; rotate_left; (intro hx; clear_value x); rotate_left; unfold x; clear x)
    | (extract_lets +onlyGivenNames x; clear_value x)
    | split

theorem keeps_execCreditFrame (h : Keeps a s) : KeepsO a (execCreditFrame p hd udp s) := by
  unfold execCreditFrame
  repeat' first
    | with_reducible assumption
    | with_reducible apply keepsO_ok
    | with_reducible apply KeepsO.next
    | with_reducible apply keepsO_ok
    | with_reducible apply keeps_receive
    | with_reducible apply keeps_hold
    | (with_reducible refine keeps_mk ?_ rfl rfl rfl rfl rfl rfl rfl; first | with_reducible assumption | with_reducible apply keepsO_ok | with_reducible apply keeps_receive | with_reducible apply keeps_hold)
    | with_reducible apply Keeps.foldl
    | (intro _ _ _; try beta_reduce)
    | (intro _ _; try beta_reduce)
    | (extract_lets +onlyGivenNames x; refine Keeps.cut (a := a) (x := x) ?_ ?_; rotate_left; (intro hx; clear_value x); rotate_left; unfold x; clear x)
    | (extract_lets +onlyGivenNames x; clear_value x)
    | split

theorem keeps_execFrameEgress (h : Keeps a s) : KeepsO a (execFrameEgress p f s) := by
  unfold execFrameEgress
  repeat' first
    | with_reducible assumption
    | with_reducible apply keepsO_ok
    | with_reducible apply KeepsO.next
    | with_reducible apply keepsO_ok
    | with_reducible apply keeps_incSat
    | with_reducible apply keeps_setPort
    | with_reducible apply keeps_sendKept
    | with_reducible apply keeps_setFlow
    | (with_reducible refine keeps_mk ?_ rfl rfl rfl rfl rfl rfl rfl; first | with_reducible assumption | with_reducible apply keepsO_ok | with_reducible apply keeps_incSat | with_reducible apply keeps_setPort | with_reducible apply keeps_sendKept | with_reducible apply keeps_setFlow)
    | with_reducible apply Keeps.foldl
    | (intro _ _ _; try beta_reduce)
    | (intro _ _; try beta_reduce)
    | (extract_lets +onlyGivenNames x; refine Keeps.cut (a := a) (x := x) ?_ ?_; rotate_left; (intro hx; clear_value x); rotate_left; unfold x; clear x)
    | (extract_lets +onlyGivenNames x; clear_value x)
    | split

theorem keeps_flowLost (h : Keeps a s) : Keeps a (State.flowLost s p f) := by
  unfold State.flowLost
  repeat' first
    | with_reducible assumption
    | with_reducible apply keeps_raise
    | with_reducible apply keeps_failFlow
    | with_reducible apply keeps_toFree
    | with_reducible apply keeps_closeSlot
    | with_reducible apply keeps_setFlow
    | (with_reducible refine keeps_mk ?_ rfl rfl rfl rfl rfl rfl rfl; first | with_reducible assumption | with_reducible apply keeps_raise | with_reducible apply keeps_failFlow | with_reducible apply keeps_toFree | with_reducible apply keeps_closeSlot | with_reducible apply keeps_setFlow)
    | with_reducible apply Keeps.foldl
    | (intro _ _ _; try beta_reduce)
    | (intro _ _; try beta_reduce)
    | (extract_lets +onlyGivenNames x; refine Keeps.cut (a := a) (x := x) ?_ ?_; rotate_left; (intro hx; clear_value x); rotate_left; unfold x; clear x)
    | (extract_lets +onlyGivenNames x; clear_value x)
    | split

theorem keeps_execRtoExpiry (h : Keeps a s) : KeepsO a (execRtoExpiry p f s) := by
  unfold execRtoExpiry
  repeat' first
    | with_reducible assumption
    | with_reducible apply keepsO_ok
    | with_reducible apply KeepsO.next
    | with_reducible apply keepsO_ok
    | with_reducible apply keeps_flowLost
    | with_reducible apply keeps_sendOpen
    | with_reducible apply keeps_setFlow
    | with_reducible apply keeps_resend
    | (with_reducible refine keeps_mk ?_ rfl rfl rfl rfl rfl rfl rfl; first | with_reducible assumption | with_reducible apply keepsO_ok | with_reducible apply keeps_flowLost | with_reducible apply keeps_sendOpen | with_reducible apply keeps_setFlow | with_reducible apply keeps_resend)
    | with_reducible apply Keeps.foldl
    | (intro _ _ _; try beta_reduce)
    | (intro _ _; try beta_reduce)
    | (extract_lets +onlyGivenNames x; refine Keeps.cut (a := a) (x := x) ?_ ?_; rotate_left; (intro hx; clear_value x); rotate_left; unfold x; clear x)
    | (extract_lets +onlyGivenNames x; clear_value x)
    | split

theorem keeps_execAckDelayExpiry (h : Keeps a s) : KeepsO a (execAckDelayExpiry p f s) := by
  unfold execAckDelayExpiry
  repeat' first
    | with_reducible assumption
    | with_reducible apply keepsO_ok
    | with_reducible apply KeepsO.next
    | with_reducible apply keeps_sendCredit
    | with_reducible apply keepsO_ok
    | with_reducible apply keeps_sendNack
    | (with_reducible refine keeps_mk ?_ rfl rfl rfl rfl rfl rfl rfl; first | with_reducible assumption | with_reducible apply keeps_sendCredit | with_reducible apply keepsO_ok | with_reducible apply keeps_sendNack)
    | with_reducible apply Keeps.foldl
    | (intro _ _ _; try beta_reduce)
    | (intro _ _; try beta_reduce)
    | (extract_lets +onlyGivenNames x; refine Keeps.cut (a := a) (x := x) ?_ ?_; rotate_left; (intro hx; clear_value x); rotate_left; unfold x; clear x)
    | (extract_lets +onlyGivenNames x; clear_value x)
    | split

theorem keeps_purge (h : Keeps a s) : Keeps a (State.purge s p f) := by
  unfold State.purge
  repeat' first
    | with_reducible assumption
    | with_reducible apply keeps_dropKept
    | with_reducible apply keeps_setFlow
    | with_reducible apply Keeps.forEach
    | with_reducible apply keeps_setDieBasket
    | with_reducible apply keeps_incSat
    | with_reducible apply keeps_basketSent
    | with_reducible apply keeps_streamsAcked
    | (with_reducible refine keeps_mk ?_ rfl rfl rfl rfl rfl rfl rfl; first | with_reducible assumption | with_reducible apply keeps_dropKept | with_reducible apply keeps_setFlow | with_reducible apply Keeps.forEach | with_reducible apply keeps_setDieBasket | with_reducible apply keeps_incSat | with_reducible apply keeps_basketSent | with_reducible apply keeps_streamsAcked)
    | with_reducible apply Keeps.foldl
    | (intro _ _ _; try beta_reduce)
    | (intro _ _; try beta_reduce)
    | (extract_lets +onlyGivenNames x; refine Keeps.cut (a := a) (x := x) ?_ ?_; rotate_left; (intro hx; clear_value x); rotate_left; unfold x; clear x)
    | (extract_lets +onlyGivenNames x; clear_value x)
    | split

theorem keeps_purgeSel (h : Keeps a s) : Keeps a (State.purgeSel s) := by
  unfold State.purgeSel
  repeat' first
    | with_reducible assumption
    | with_reducible apply keeps_purge
    | (with_reducible refine keeps_mk ?_ rfl rfl rfl rfl rfl rfl rfl; first | with_reducible assumption | with_reducible apply keeps_purge)
    | with_reducible apply Keeps.foldl
    | (intro _ _ _; try beta_reduce)
    | (intro _ _; try beta_reduce)
    | (extract_lets +onlyGivenNames x; refine Keeps.cut (a := a) (x := x) ?_ ?_; rotate_left; (intro hx; clear_value x); rotate_left; unfold x; clear x)
    | (extract_lets +onlyGivenNames x; clear_value x)
    | split

theorem keeps_execPurge (h : Keeps a s) : KeepsO a (execPurge s) := by
  unfold execPurge
  repeat' first
    | with_reducible assumption
    | with_reducible apply keepsO_ok
    | with_reducible apply KeepsO.next
    | with_reducible apply keepsO_ok
    | with_reducible apply keeps_purgeSel
    | (with_reducible refine keeps_mk ?_ rfl rfl rfl rfl rfl rfl rfl; first | with_reducible assumption | with_reducible apply keepsO_ok | with_reducible apply keeps_purgeSel)
    | with_reducible apply Keeps.foldl
    | (intro _ _ _; try beta_reduce)
    | (intro _ _; try beta_reduce)
    | (extract_lets +onlyGivenNames x; refine Keeps.cut (a := a) (x := x) ?_ ?_; rotate_left; (intro hx; clear_value x); rotate_left; unfold x; clear x)
    | (extract_lets +onlyGivenNames x; clear_value x)
    | split

theorem keeps_execShutterCreditTick (h : Keeps a s) : KeepsO a (execShutterCreditTick p s) := by
  unfold execShutterCreditTick
  repeat' first
    | with_reducible assumption
    | with_reducible apply keepsO_ok
    | with_reducible apply KeepsO.next
    | with_reducible apply keepsO_ok
    | with_reducible apply Keeps.forEach
    | with_reducible apply keeps_sendCredit
    | (with_reducible refine keeps_mk ?_ rfl rfl rfl rfl rfl rfl rfl; first | with_reducible assumption | with_reducible apply keepsO_ok | with_reducible apply Keeps.forEach | with_reducible apply keeps_sendCredit)
    | with_reducible apply Keeps.foldl
    | (intro _ _ _; try beta_reduce)
    | (intro _ _; try beta_reduce)
    | (extract_lets +onlyGivenNames x; refine Keeps.cut (a := a) (x := x) ?_ ?_; rotate_left; (intro hx; clear_value x); rotate_left; unfold x; clear x)
    | (extract_lets +onlyGivenNames x; clear_value x)
    | split

theorem keeps_execLinkDown (h : Keeps a s) : KeepsO a (execLinkDown p s) := by
  unfold execLinkDown
  repeat' first
    | with_reducible assumption
    | with_reducible apply keepsO_ok
    | with_reducible apply KeepsO.next
    | with_reducible apply keepsO_ok
    | with_reducible apply keeps_raise
    | with_reducible apply Keeps.count
    | with_reducible apply keeps_setPort
    | (with_reducible refine keeps_mk ?_ rfl rfl rfl rfl rfl rfl rfl; first | with_reducible assumption | with_reducible apply keepsO_ok | with_reducible apply keeps_raise | with_reducible apply Keeps.count | with_reducible apply keeps_setPort)
    | with_reducible apply Keeps.foldl
    | (intro _ _ _; try beta_reduce)
    | (intro _ _; try beta_reduce)
    | (extract_lets +onlyGivenNames x; refine Keeps.cut (a := a) (x := x) ?_ ?_; rotate_left; (intro hx; clear_value x); rotate_left; unfold x; clear x)
    | (extract_lets +onlyGivenNames x; clear_value x)
    | split

theorem keeps_portUpNow (h : Keeps a s) : Keeps a (State.portUpNow s p) := by
  unfold State.portUpNow
  repeat' first
    | with_reducible assumption
    | with_reducible apply keeps_setPort
    | (with_reducible refine keeps_mk ?_ rfl rfl rfl rfl rfl rfl rfl; first | with_reducible assumption | with_reducible apply keeps_setPort)
    | with_reducible apply Keeps.foldl
    | (intro _ _ _; try beta_reduce)
    | (intro _ _; try beta_reduce)
    | (extract_lets +onlyGivenNames x; refine Keeps.cut (a := a) (x := x) ?_ ?_; rotate_left; (intro hx; clear_value x); rotate_left; unfold x; clear x)
    | (extract_lets +onlyGivenNames x; clear_value x)
    | split

theorem keeps_execLinkUp (h : Keeps a s) : KeepsO a (execLinkUp p s) := by
  unfold execLinkUp
  repeat' first
    | with_reducible assumption
    | with_reducible apply keepsO_ok
    | with_reducible apply KeepsO.next
    | with_reducible apply keepsO_ok
    | with_reducible apply keeps_portUpNow
    | (with_reducible refine keeps_mk ?_ rfl rfl rfl rfl rfl rfl rfl; first | with_reducible assumption | with_reducible apply keepsO_ok | with_reducible apply keeps_portUpNow)
    | with_reducible apply Keeps.foldl
    | (intro _ _ _; try beta_reduce)
    | (intro _ _; try beta_reduce)
    | (extract_lets +onlyGivenNames x; refine Keeps.cut (a := a) (x := x) ?_ ?_; rotate_left; (intro hx; clear_value x); rotate_left; unfold x; clear x)
    | (extract_lets +onlyGivenNames x; clear_value x)
    | split

theorem keeps_execPortHoldExpiry (h : Keeps a s) : KeepsO a (execPortHoldExpiry p s) := by
  unfold execPortHoldExpiry
  repeat' first
    | with_reducible assumption
    | with_reducible apply keepsO_ok
    | with_reducible apply KeepsO.next
    | with_reducible apply keepsO_ok
    | with_reducible apply keeps_portLost
    | (with_reducible refine keeps_mk ?_ rfl rfl rfl rfl rfl rfl rfl; first | with_reducible assumption | with_reducible apply keepsO_ok | with_reducible apply keeps_portLost)
    | with_reducible apply Keeps.foldl
    | (intro _ _ _; try beta_reduce)
    | (intro _ _; try beta_reduce)
    | (extract_lets +onlyGivenNames x; refine Keeps.cut (a := a) (x := x) ?_ ?_; rotate_left; (intro hx; clear_value x); rotate_left; unfold x; clear x)
    | (extract_lets +onlyGivenNames x; clear_value x)
    | split

end Sys2Proof.Machine
end

