-- ==== Sys2Proof/Laws/KeepPowerFam.lean ====
section
/-! SUPPORT. What the operations of Machine/PowerFam.lean keep (Laws/Keeps.lean). -/

namespace Sys2Proof.Machine

variable {a s : State}

theorem keeps_execVinOutOfRange (h : Keeps a s) : KeepsO a (execVinOutOfRange mv s) := by
  unfold execVinOutOfRange
  repeat' first
    | with_reducible assumption
    | with_reducible apply keepsO_ok
    | with_reducible apply KeepsO.next
    | with_reducible apply keeps_raise
    | with_reducible apply keeps_pokeField
    | with_reducible apply keepsO_ok
    | with_reducible apply keeps_pwrCheck
    | (with_reducible refine keeps_mk ?_ rfl rfl rfl rfl rfl rfl rfl; first | with_reducible assumption | with_reducible apply keeps_raise | with_reducible apply keeps_pokeField | with_reducible apply keepsO_ok | with_reducible apply keeps_pwrCheck)
    | with_reducible apply Keeps.foldl
    | (intro _ _ _; try beta_reduce)
    | (intro _ _; try beta_reduce)
    | (extract_lets +onlyGivenNames x; refine Keeps.cut (a := a) (x := x) ?_ ?_; rotate_left; (intro hx; clear_value x); rotate_left; unfold x; clear x)
    | (extract_lets +onlyGivenNames x; subst x)
    | split

theorem keeps_execVinRecover (h : Keeps a s) : KeepsO a (execVinRecover mv s) := by
  unfold execVinRecover
  repeat' first
    | with_reducible assumption
    | with_reducible apply keepsO_ok
    | with_reducible apply KeepsO.next
    | with_reducible apply keeps_pokeField
    | with_reducible apply keepsO_ok
    | with_reducible apply keeps_pwrCheck
    | with_reducible apply keeps_hold
    | (with_reducible refine keeps_mk ?_ rfl rfl rfl rfl rfl rfl rfl; first | with_reducible assumption | with_reducible apply keeps_pokeField | with_reducible apply keepsO_ok | with_reducible apply keeps_pwrCheck | with_reducible apply keeps_hold)
    | with_reducible apply Keeps.foldl
    | (intro _ _ _; try beta_reduce)
    | (intro _ _; try beta_reduce)
    | (extract_lets +onlyGivenNames x; refine Keeps.cut (a := a) (x := x) ?_ ?_; rotate_left; (intro hx; clear_value x); rotate_left; unfold x; clear x)
    | (extract_lets +onlyGivenNames x; subst x)
    | split

theorem keeps_execVinLoss (h : Keeps a s) : KeepsO a (execVinLoss s) := by
  unfold execVinLoss
  repeat' first
    | with_reducible assumption
    | with_reducible apply keepsO_ok
    | with_reducible apply KeepsO.next
    | with_reducible apply keeps_sendFinal
    | with_reducible apply keepsO_ok
    | with_reducible apply keeps_powerOff
    | (with_reducible refine keeps_mk ?_ rfl rfl rfl rfl rfl rfl rfl; first | with_reducible assumption | with_reducible apply keeps_sendFinal | with_reducible apply keepsO_ok | with_reducible apply keeps_powerOff)
    | with_reducible apply Keeps.foldl
    | (intro _ _ _; try beta_reduce)
    | (intro _ _; try beta_reduce)
    | (extract_lets +onlyGivenNames x; refine Keeps.cut (a := a) (x := x) ?_ ?_; rotate_left; (intro hx; clear_value x); rotate_left; unfold x; clear x)
    | (extract_lets +onlyGivenNames x; subst x)
    | split

theorem keeps_stepDown (h : Keeps a s) : Keeps a (State.stepDown s) := by
  unfold State.stepDown
  split
  · exact h.update rfl rfl rfl rfl rfl rfl rfl
  · exact Keeps.count _ _ _ (h.trans ⟨rfl, id, id, Nat.le_refl _, Nat.le_refl _,
      fun w => ⟨Nat.le_trans (Nat.sub_le _ _) w.1, w.2⟩⟩)

theorem keeps_stepUp (hlt : s.pwr.step < s.pwr.ceil) (h : Keeps a s) : Keeps a (State.stepUp s) :=
  Keeps.count _ _ _ (h.trans ⟨rfl, id, id, Nat.le_refl _, Nat.le_refl _, fun w => ⟨hlt, w.2⟩⟩)

theorem keeps_execStepLower (h : Keeps a s) : KeepsO a (execStepLower s) := by
  unfold execStepLower
  repeat' first
    | with_reducible assumption
    | with_reducible apply keepsO_ok
    | with_reducible apply KeepsO.next
    | with_reducible apply keepsO_ok
    | with_reducible apply keeps_stepDown
    | (with_reducible refine keeps_mk ?_ rfl rfl rfl rfl rfl rfl rfl; first | with_reducible assumption | with_reducible apply keepsO_ok | with_reducible apply keeps_stepDown)
    | with_reducible apply Keeps.foldl
    | (intro _ _ _; try beta_reduce)
    | (intro _ _; try beta_reduce)
    | (extract_lets +onlyGivenNames x; refine Keeps.cut (a := a) (x := x) ?_ ?_; rotate_left; (intro hx; clear_value x); rotate_left; unfold x; clear x)
    | (extract_lets +onlyGivenNames x; subst x)
    | split

theorem keeps_catchupEnd (h : Keeps a s) : Keeps a (State.catchupEnd s n t) := by
  unfold State.catchupEnd
  repeat' first
    | with_reducible assumption
    | with_reducible apply Keeps.count
    | with_reducible apply keeps_poke
    | with_reducible apply keeps_incSat
    | with_reducible apply keeps_freeNext
    | (with_reducible refine keeps_mk ?_ rfl rfl rfl rfl rfl rfl rfl; first | with_reducible assumption | with_reducible apply Keeps.count | with_reducible apply keeps_poke | with_reducible apply keeps_incSat | with_reducible apply keeps_freeNext)
    | with_reducible apply Keeps.foldl
    | (intro _ _ _; try beta_reduce)
    | (intro _ _; try beta_reduce)
    | (extract_lets +onlyGivenNames x; refine Keeps.cut (a := a) (x := x) ?_ ?_; rotate_left; (intro hx; clear_value x); rotate_left; unfold x; clear x)
    | (extract_lets +onlyGivenNames x; subst x)
    | split

theorem keeps_catchup (h : Keeps a s) : Keeps a (State.catchup s w c) := by
  unfold State.catchup
  repeat' first
    | with_reducible assumption
    | with_reducible apply keeps_raise
    | with_reducible apply keeps_catchupEnd
    | with_reducible apply keeps_energy
    | (with_reducible refine keeps_mk ?_ rfl rfl rfl rfl rfl rfl rfl; first | with_reducible assumption | with_reducible apply keeps_raise | with_reducible apply keeps_catchupEnd | with_reducible apply keeps_energy)
    | with_reducible apply Keeps.foldl
    | (intro _ _ _; try beta_reduce)
    | (intro _ _; try beta_reduce)
    | (extract_lets +onlyGivenNames x; refine Keeps.cut (a := a) (x := x) ?_ ?_; rotate_left; (intro hx; clear_value x); rotate_left; unfold x; clear x)
    | (extract_lets +onlyGivenNames x; subst x)
    | split

theorem keeps_energy (h : Keeps a s) : Keeps a (State.energy s w) := by
  unfold State.energy
  repeat' first
    | with_reducible assumption
    | with_reducible apply Keeps.count
    | (with_reducible refine keeps_mk ?_ rfl rfl rfl rfl rfl rfl rfl; first | with_reducible assumption | with_reducible apply Keeps.count)
    | with_reducible apply Keeps.foldl
    | (intro _ _ _; try beta_reduce)
    | (intro _ _; try beta_reduce)
    | (extract_lets +onlyGivenNames x; refine Keeps.cut (a := a) (x := x) ?_ ?_; rotate_left; (intro hx; clear_value x); rotate_left; unfold x; clear x)
    | (extract_lets +onlyGivenNames x; subst x)
    | split

theorem keeps_control (h : Keeps a s) : Keeps a (State.control s w c) := by
  unfold State.control
  split
  · exact h.update rfl rfl rfl rfl rfl rfl rfl
  · dsimp only
    split
    · rename_i hlt
      simp only [Bool.and_eq_true, decide_eq_true_eq] at hlt
      exact keeps_stepUp (Nat.lt_of_lt_of_le hlt.2 (Nat.min_le_right _ _)) (h.update rfl rfl rfl rfl rfl rfl rfl)
    · exact h.update rfl rfl rfl rfl rfl rfl rfl

theorem keeps_execCapWindowEnd (h : Keeps a s) : KeepsO a (execCapWindowEnd avgW mv da s) := by
  unfold execCapWindowEnd
  repeat' first
    | with_reducible assumption
    | with_reducible apply keepsO_ok
    | with_reducible apply KeepsO.next
    | with_reducible apply keeps_poke
    | with_reducible apply keepsO_ok
    | with_reducible apply keeps_control
    | with_reducible apply keeps_catchup
    | with_reducible apply keeps_energy
    | (with_reducible refine keeps_mk ?_ rfl rfl rfl rfl rfl rfl rfl; first | with_reducible assumption | with_reducible apply keeps_poke | with_reducible apply keepsO_ok | with_reducible apply keeps_control | with_reducible apply keeps_catchup | with_reducible apply keeps_energy)
    | with_reducible apply Keeps.foldl
    | (intro _ _ _; try beta_reduce)
    | (intro _ _; try beta_reduce)
    | (extract_lets +onlyGivenNames x; refine Keeps.cut (a := a) (x := x) ?_ ?_; rotate_left; (intro hx; clear_value x); rotate_left; unfold x; clear x)
    | (extract_lets +onlyGivenNames x; subst x)
    | split

theorem keeps_execCapdownAssert (h : Keeps a s) : KeepsO a (execCapdownAssert s) := by
  unfold execCapdownAssert
  repeat' first
    | with_reducible assumption
    | with_reducible apply keepsO_ok
    | with_reducible apply KeepsO.next
    | with_reducible apply keepsO_ok
    | with_reducible apply Keeps.count
    | (with_reducible refine keeps_mk ?_ rfl rfl rfl rfl rfl rfl rfl; first | with_reducible assumption | with_reducible apply keepsO_ok | with_reducible apply Keeps.count)
    | with_reducible apply Keeps.foldl
    | (intro _ _ _; try beta_reduce)
    | (intro _ _; try beta_reduce)
    | (extract_lets +onlyGivenNames x; refine Keeps.cut (a := a) (x := x) ?_ ?_; rotate_left; (intro hx; clear_value x); rotate_left; unfold x; clear x)
    | (extract_lets +onlyGivenNames x; subst x)
    | split

theorem keeps_execCapdownRelease (h : Keeps a s) : KeepsO a (execCapdownRelease s) := by
  unfold execCapdownRelease
  repeat' first
    | with_reducible assumption
    | with_reducible apply keepsO_ok
    | with_reducible apply KeepsO.next
    | with_reducible apply keepsO_ok
    | (with_reducible refine keeps_mk ?_ rfl rfl rfl rfl rfl rfl rfl; first | with_reducible assumption | with_reducible apply keepsO_ok)
    | with_reducible apply Keeps.foldl
    | (intro _ _ _; try beta_reduce)
    | (intro _ _; try beta_reduce)
    | (extract_lets +onlyGivenNames x; refine Keeps.cut (a := a) (x := x) ?_ ?_; rotate_left; (intro hx; clear_value x); rotate_left; unfold x; clear x)
    | (extract_lets +onlyGivenNames x; subst x)
    | split

theorem keeps_divideGroup (h : Keeps a s) : Keeps a (State.divideGroup s j b) := by
  unfold State.divideGroup
  repeat' first
    | with_reducible assumption
    | with_reducible apply Keeps.forEach
    | with_reducible apply keeps_setQuarter
    | (with_reducible refine keeps_mk ?_ rfl rfl rfl rfl rfl rfl rfl; first | with_reducible assumption | with_reducible apply Keeps.forEach | with_reducible apply keeps_setQuarter)
    | with_reducible apply Keeps.foldl
    | (intro _ _ _; try beta_reduce)
    | (intro _ _; try beta_reduce)
    | (extract_lets +onlyGivenNames x; refine Keeps.cut (a := a) (x := x) ?_ ?_; rotate_left; (intro hx; clear_value x); rotate_left; unfold x; clear x)
    | (extract_lets +onlyGivenNames x; subst x)
    | split

theorem keeps_execCapdownGroupStep (h : Keeps a s) : KeepsO a (execCapdownGroupStep s) := by
  unfold execCapdownGroupStep
  repeat' first
    | with_reducible assumption
    | with_reducible apply keepsO_ok
    | with_reducible apply KeepsO.next
    | with_reducible apply keepsO_ok
    | with_reducible apply keeps_divideGroup
    | (with_reducible refine keeps_mk ?_ rfl rfl rfl rfl rfl rfl rfl; first | with_reducible assumption | with_reducible apply keepsO_ok | with_reducible apply keeps_divideGroup)
    | with_reducible apply Keeps.foldl
    | (intro _ _ _; try beta_reduce)
    | (intro _ _; try beta_reduce)
    | (extract_lets +onlyGivenNames x; refine Keeps.cut (a := a) (x := x) ?_ ?_; rotate_left; (intro hx; clear_value x); rotate_left; unfold x; clear x)
    | (extract_lets +onlyGivenNames x; subst x)
    | split

theorem keeps_execSlewInterval (h : Keeps a s) : KeepsO a (execSlewInterval avgDa s) := by
  unfold execSlewInterval
  repeat' first
    | with_reducible assumption
    | with_reducible apply keepsO_ok
    | with_reducible apply KeepsO.next
    | with_reducible apply keeps_peak
    | with_reducible apply keepsO_ok
    | (with_reducible refine keeps_mk ?_ rfl rfl rfl rfl rfl rfl rfl; first | with_reducible assumption | with_reducible apply keeps_peak | with_reducible apply keepsO_ok)
    | with_reducible apply Keeps.foldl
    | (intro _ _ _; try beta_reduce)
    | (intro _ _; try beta_reduce)
    | (extract_lets +onlyGivenNames x; refine Keeps.cut (a := a) (x := x) ?_ ?_; rotate_left; (intro hx; clear_value x); rotate_left; unfold x; clear x)
    | (extract_lets +onlyGivenNames x; subst x)
    | split

end Sys2Proof.Machine
end

