-- ==== Sys2Proof/Laws/KeepThermalFam.lean ====
section
/-! SUPPORT. What the operations of Machine/ThermalFam.lean keep (Laws/Keeps.lean). -/

namespace Sys2Proof.Machine

variable {a s : State}

theorem keeps_execTempSample (h : Keeps a s) : KeepsO a (execTempSample d q qc s) := by
  unfold execTempSample
  repeat' first
    | with_reducible assumption
    | with_reducible apply keepsO_ok
    | with_reducible apply KeepsO.next
    | with_reducible apply keeps_setQuarter
    | with_reducible apply keepsO_ok
    | with_reducible apply Keeps.count
    | with_reducible apply keeps_raise
    | (with_reducible refine keeps_mk ?_ rfl rfl rfl rfl rfl rfl rfl; first | with_reducible assumption | with_reducible apply keeps_setQuarter | with_reducible apply keepsO_ok | with_reducible apply Keeps.count | with_reducible apply keeps_raise)
    | with_reducible apply Keeps.foldl
    | (intro _ _ _; try beta_reduce)
    | (intro _ _; try beta_reduce)
    | (extract_lets +onlyGivenNames x; refine Keeps.cut (a := a) (x := x) ?_ ?_; rotate_left; (intro hx; clear_value x); rotate_left; unfold x; clear x)
    | (extract_lets +onlyGivenNames x; clear_value x)
    | split

theorem keeps_heatOff (h : Keeps a s) : Keeps a (State.heatOff s d q) := by
  unfold State.heatOff
  repeat' first
    | with_reducible assumption
    | with_reducible apply keeps_darkQuarter
    | with_reducible apply keeps_setQuarter
    | with_reducible apply Keeps.count
    | with_reducible apply keeps_raise
    | (with_reducible refine keeps_mk ?_ rfl rfl rfl rfl rfl rfl rfl; first | with_reducible assumption | with_reducible apply keeps_darkQuarter | with_reducible apply keeps_setQuarter | with_reducible apply Keeps.count | with_reducible apply keeps_raise)
    | with_reducible apply Keeps.foldl
    | (intro _ _ _; try beta_reduce)
    | (intro _ _; try beta_reduce)
    | (extract_lets +onlyGivenNames x; refine Keeps.cut (a := a) (x := x) ?_ ?_; rotate_left; (intro hx; clear_value x); rotate_left; unfold x; clear x)
    | (extract_lets +onlyGivenNames x; clear_value x)
    | split

theorem keeps_execThermalTrip (h : Keeps a s) : KeepsO a (execThermalTrip d q s) := by
  unfold execThermalTrip
  repeat' first
    | with_reducible assumption
    | with_reducible apply keepsO_ok
    | with_reducible apply KeepsO.next
    | with_reducible apply keepsO_ok
    | with_reducible apply keeps_heatOff
    | (with_reducible refine keeps_mk ?_ rfl rfl rfl rfl rfl rfl rfl; first | with_reducible assumption | with_reducible apply keepsO_ok | with_reducible apply keeps_heatOff)
    | with_reducible apply Keeps.foldl
    | (intro _ _ _; try beta_reduce)
    | (intro _ _; try beta_reduce)
    | (extract_lets +onlyGivenNames x; refine Keeps.cut (a := a) (x := x) ?_ ?_; rotate_left; (intro hx; clear_value x); rotate_left; unfold x; clear x)
    | (extract_lets +onlyGivenNames x; clear_value x)
    | split

theorem keeps_execCeilingStep (h : Keeps a s) : KeepsO a (execCeilingStep s) := by
  unfold execCeilingStep
  split
  · exact KeepsO.next h
  · extract_lets hot c s1
    have hc : s.pwr.step ≤ s.pwr.ceil ∧ s.pwr.ceil ≤ 72 → s.pwr.step - 1 ≤ c ∧ c ≤ 72 := by
      intro w
      simp only [c]
      split
      · omega
      · split <;> omega
    clear_value c
    refine keepsO_ok ?_
    split
    · unfold State.stepDown
      split
      · rename_i hlt h0
        exact absurd (show s.pwr.step = 0 from h0) (by omega)
      · exact Keeps.count _ _ _ (h.trans ⟨rfl, id, id, Nat.le_refl _, Nat.le_refl _, hc⟩)
    · rename_i hlt
      exact h.trans ⟨rfl, id, id, Nat.le_refl _, Nat.le_refl _, fun w => ⟨Nat.le_of_not_lt hlt, (hc w).2⟩⟩

theorem keeps_execDramTempThreshold (h : Keeps a s) : KeepsO a (execDramTempThreshold d c s) := by
  unfold execDramTempThreshold
  repeat' first
    | with_reducible assumption
    | with_reducible apply keepsO_ok
    | with_reducible apply KeepsO.next
    | with_reducible apply keeps_setDie
    | with_reducible apply keeps_raise
    | with_reducible apply keepsO_ok
    | with_reducible apply Keeps.forEach
    | with_reducible apply keeps_heatOff
    | (with_reducible refine keeps_mk ?_ rfl rfl rfl rfl rfl rfl rfl; first | with_reducible assumption | with_reducible apply keeps_setDie | with_reducible apply keeps_raise | with_reducible apply keepsO_ok | with_reducible apply Keeps.forEach | with_reducible apply keeps_heatOff)
    | with_reducible apply Keeps.foldl
    | (intro _ _ _; try beta_reduce)
    | (intro _ _; try beta_reduce)
    | (extract_lets +onlyGivenNames x; refine Keeps.cut (a := a) (x := x) ?_ ?_; rotate_left; (intro hx; clear_value x); rotate_left; unfold x; clear x)
    | (extract_lets +onlyGivenNames x; clear_value x)
    | split

theorem keeps_rearmClear (h : Keeps a s) : Keeps a (State.rearmClear s g) := by
  unfold State.rearmClear
  repeat' first
    | with_reducible assumption
    | with_reducible apply keeps_pokeField
    | (with_reducible refine keeps_mk ?_ rfl rfl rfl rfl rfl rfl rfl; first | with_reducible assumption | with_reducible apply keeps_pokeField)
    | with_reducible apply Keeps.foldl
    | (intro _ _ _; try beta_reduce)
    | (intro _ _; try beta_reduce)
    | (extract_lets +onlyGivenNames x; refine Keeps.cut (a := a) (x := x) ?_ ?_; rotate_left; (intro hx; clear_value x); rotate_left; unfold x; clear x)
    | (extract_lets +onlyGivenNames x; clear_value x)
    | split

theorem keeps_execTripRearm (h : Keeps a s) : KeepsO a (execTripRearm d q s) := by
  unfold execTripRearm
  repeat' first
    | with_reducible assumption
    | with_reducible apply keepsO_ok
    | with_reducible apply KeepsO.next
    | with_reducible apply keepsO_ok
    | with_reducible apply keeps_rearmClear
    | with_reducible apply Keeps.count
    | with_reducible apply keeps_setQuarter
    | (with_reducible refine keeps_mk ?_ rfl rfl rfl rfl rfl rfl rfl; first | with_reducible assumption | with_reducible apply keepsO_ok | with_reducible apply keeps_rearmClear | with_reducible apply Keeps.count | with_reducible apply keeps_setQuarter)
    | with_reducible apply Keeps.foldl
    | (intro _ _ _; try beta_reduce)
    | (intro _ _; try beta_reduce)
    | (extract_lets +onlyGivenNames x; refine Keeps.cut (a := a) (x := x) ?_ ?_; rotate_left; (intro hx; clear_value x); rotate_left; unfold x; clear x)
    | (extract_lets +onlyGivenNames x; clear_value x)
    | split

theorem keeps_execQuarterStartDone (h : Keeps a s) : KeepsO a (execQuarterStartDone d q s) := by
  unfold execQuarterStartDone
  repeat' first
    | with_reducible assumption
    | with_reducible apply keepsO_ok
    | with_reducible apply KeepsO.next
    | with_reducible apply keepsO_ok
    | with_reducible apply keeps_upCheck
    | with_reducible apply keeps_rearmClear
    | with_reducible apply keeps_quarterUp
    | (with_reducible refine keeps_mk ?_ rfl rfl rfl rfl rfl rfl rfl; first | with_reducible assumption | with_reducible apply keepsO_ok | with_reducible apply keeps_upCheck | with_reducible apply keeps_rearmClear | with_reducible apply keeps_quarterUp)
    | with_reducible apply Keeps.foldl
    | (intro _ _ _; try beta_reduce)
    | (intro _ _; try beta_reduce)
    | (extract_lets +onlyGivenNames x; refine Keeps.cut (a := a) (x := x) ?_ ?_; rotate_left; (intro hx; clear_value x); rotate_left; unfold x; clear x)
    | (extract_lets +onlyGivenNames x; clear_value x)
    | split

end Sys2Proof.Machine
end

