-- ==== Sys2Proof/Laws/KeepShutterFam.lean ====
section
/-! SUPPORT. What the operations of Machine/ShutterFam.lean keep (Laws/Keeps.lean). -/

namespace Sys2Proof.Machine

variable {a s : State}

theorem keeps_holdCap (h : Keeps a s) : Keeps a (State.holdCap s c) := by
  unfold State.holdCap
  exact keeps_mk h rfl rfl rfl rfl rfl rfl rfl

theorem keeps_execShutterReqNChange (h : Keeps a s) : KeepsO a (execShutterReqNChange asserted s) := by
  unfold execShutterReqNChange
  repeat' first
    | with_reducible assumption
    | with_reducible apply keepsO_ok
    | with_reducible apply KeepsO.next
    | with_reducible apply keepsO_ok
    | with_reducible apply keeps_retarget
    | (with_reducible refine keeps_mk ?_ rfl rfl rfl rfl rfl rfl rfl; first | with_reducible assumption | with_reducible apply keepsO_ok | with_reducible apply keeps_retarget)
    | with_reducible apply Keeps.foldl
    | (intro _ _ _; try beta_reduce)
    | (intro _ _; try beta_reduce)
    | (extract_lets +onlyGivenNames x; refine Keeps.cut (a := a) (x := x) ?_ ?_; rotate_left; (intro hx; clear_value x); rotate_left; unfold x; clear x)
    | (extract_lets +onlyGivenNames x; clear_value x)
    | split

theorem keeps_execShutter (h : Keeps a s) : KeepsO a (execShutter s) := by
  unfold execShutter
  repeat' first
    | with_reducible assumption
    | with_reducible apply keepsO_ok
    | with_reducible apply KeepsO.next
    | with_reducible apply keepsO_ok
    | with_reducible apply keeps_setLatch
    | (with_reducible refine keeps_mk ?_ rfl rfl rfl rfl rfl rfl rfl; first | with_reducible assumption | with_reducible apply keepsO_ok | with_reducible apply keeps_setLatch)
    | with_reducible apply Keeps.foldl
    | (intro _ _ _; try beta_reduce)
    | (intro _ _; try beta_reduce)
    | (extract_lets +onlyGivenNames x; refine Keeps.cut (a := a) (x := x) ?_ ?_; rotate_left; (intro hx; clear_value x); rotate_left; unfold x; clear x)
    | (extract_lets +onlyGivenNames x; clear_value x)
    | split

theorem keeps_execWake (h : Keeps a s) : KeepsO a (execWake s) := by
  unfold execWake
  repeat' first
    | with_reducible assumption
    | with_reducible apply keepsO_ok
    | with_reducible apply KeepsO.next
    | with_reducible apply keepsO_ok
    | with_reducible apply keeps_setLatch
    | (with_reducible refine keeps_mk ?_ rfl rfl rfl rfl rfl rfl rfl; first | with_reducible assumption | with_reducible apply keepsO_ok | with_reducible apply keeps_setLatch)
    | with_reducible apply Keeps.foldl
    | (intro _ _ _; try beta_reduce)
    | (intro _ _; try beta_reduce)
    | (extract_lets +onlyGivenNames x; refine Keeps.cut (a := a) (x := x) ?_ ?_; rotate_left; (intro hx; clear_value x); rotate_left; unfold x; clear x)
    | (extract_lets +onlyGivenNames x; clear_value x)
    | split

theorem keeps_quarterSleep (h : Keeps a s) : Keeps a (State.quarterSleep s d q) := by
  unfold State.quarterSleep
  repeat' first
    | with_reducible assumption
    | with_reducible apply Keeps.count
    | with_reducible apply keeps_holdCap
    | with_reducible apply keeps_setQuarter
    | (with_reducible refine keeps_mk ?_ rfl rfl rfl rfl rfl rfl rfl; first | with_reducible assumption | with_reducible apply Keeps.count | with_reducible apply keeps_setQuarter)
    | with_reducible apply Keeps.foldl
    | (intro _ _ _; try beta_reduce)
    | (intro _ _; try beta_reduce)
    | (extract_lets +onlyGivenNames x; refine Keeps.cut (a := a) (x := x) ?_ ?_; rotate_left; (intro hx; clear_value x); rotate_left; unfold x; clear x)
    | (extract_lets +onlyGivenNames x; clear_value x)
    | split

theorem keeps_dieSleep (h : Keeps a s) : Keeps a (State.dieSleep s d) := by
  unfold State.dieSleep
  repeat' first
    | with_reducible assumption
    | with_reducible apply keeps_fetchAbandon
    | with_reducible apply keeps_abandonDie
    | with_reducible apply keeps_dropStreams
    | with_reducible apply Keeps.forEach
    | with_reducible apply keeps_roundClear
    | with_reducible apply keeps_setPool
    | with_reducible apply keeps_pokeField
    | with_reducible apply keeps_tagsClear
    | with_reducible apply keeps_setScrubber
    | with_reducible apply keeps_setDie
    | with_reducible apply keeps_quarterSleep
    | (with_reducible refine keeps_mk ?_ rfl rfl rfl rfl rfl rfl rfl; first | with_reducible assumption | with_reducible apply keeps_fetchAbandon | with_reducible apply keeps_abandonDie | with_reducible apply keeps_dropStreams | with_reducible apply Keeps.forEach | with_reducible apply keeps_roundClear | with_reducible apply keeps_setPool | with_reducible apply keeps_pokeField | with_reducible apply keeps_tagsClear | with_reducible apply keeps_setScrubber | with_reducible apply keeps_setDie | with_reducible apply keeps_quarterSleep)
    | with_reducible apply Keeps.foldl
    | (intro _ _ _; try beta_reduce)
    | (intro _ _; try beta_reduce)
    | (extract_lets +onlyGivenNames x; refine Keeps.cut (a := a) (x := x) ?_ ?_; rotate_left; (intro hx; clear_value x); rotate_left; unfold x; clear x)
    | (extract_lets +onlyGivenNames x; clear_value x)
    | split

theorem keeps_programLost (h : Keeps a s) : Keeps a (State.programLost s) := by
  unfold State.programLost
  repeat' first
    | with_reducible assumption
    | with_reducible apply keeps_hold
    | with_reducible apply keeps_remap
    | (with_reducible refine keeps_mk ?_ rfl rfl rfl rfl rfl rfl rfl; first | with_reducible assumption | with_reducible apply keeps_hold | with_reducible apply keeps_remap)
    | with_reducible apply Keeps.foldl
    | (intro _ _ _; try beta_reduce)
    | (intro _ _; try beta_reduce)
    | (extract_lets +onlyGivenNames x; refine Keeps.cut (a := a) (x := x) ?_ ?_; rotate_left; (intro hx; clear_value x); rotate_left; unfold x; clear x)
    | (extract_lets +onlyGivenNames x; clear_value x)
    | split

theorem keeps_execShutterEntry (h : Keeps a s) : KeepsO a (execShutterEntry s) := by
  unfold execShutterEntry
  repeat' first
    | with_reducible assumption
    | with_reducible apply keepsO_ok
    | with_reducible apply KeepsO.next
    | with_reducible apply keeps_abortAll
    | with_reducible apply keeps_programLost
    | with_reducible apply Keeps.forEach
    | with_reducible apply keeps_dieSleep
    | with_reducible apply keepsO_ok
    | with_reducible apply Keeps.count
    | with_reducible apply keeps_holdCap
    | (with_reducible refine keeps_mk ?_ rfl rfl rfl rfl rfl rfl rfl; first | with_reducible assumption | with_reducible apply keeps_abortAll | with_reducible apply keeps_programLost | with_reducible apply Keeps.forEach | with_reducible apply keeps_dieSleep | with_reducible apply keepsO_ok | with_reducible apply Keeps.count)
    | with_reducible apply Keeps.foldl
    | (intro _ _ _; try beta_reduce)
    | (intro _ _; try beta_reduce)
    | (extract_lets +onlyGivenNames x; refine Keeps.cut (a := a) (x := x) ?_ ?_; rotate_left; (intro hx; clear_value x); rotate_left; unfold x; clear x)
    | (extract_lets +onlyGivenNames x; clear_value x)
    | split

theorem keeps_execShutterWaitExpiry (h : Keeps a s) : KeepsO a (execShutterWaitExpiry s) := by
  unfold execShutterWaitExpiry
  repeat' first
    | with_reducible assumption
    | with_reducible apply keepsO_ok
    | with_reducible apply KeepsO.next
    | with_reducible apply keepsO_ok
    | with_reducible apply keeps_adoptGo
    | with_reducible apply keeps_abortProgram
    | (with_reducible refine keeps_mk ?_ rfl rfl rfl rfl rfl rfl rfl; first | with_reducible assumption | with_reducible apply keepsO_ok | with_reducible apply keeps_adoptGo | with_reducible apply keeps_abortProgram)
    | with_reducible apply Keeps.foldl
    | (intro _ _ _; try beta_reduce)
    | (intro _ _; try beta_reduce)
    | (extract_lets +onlyGivenNames x; refine Keeps.cut (a := a) (x := x) ?_ ?_; rotate_left; (intro hx; clear_value x); rotate_left; unfold x; clear x)
    | (extract_lets +onlyGivenNames x; clear_value x)
    | split

theorem keeps_quarterRise (h : Keeps a s) : Keeps a (State.quarterRise s d q) := by
  unfold State.quarterRise
  repeat' first
    | with_reducible assumption
    | with_reducible apply keeps_setQuarter
    | (with_reducible refine keeps_mk ?_ rfl rfl rfl rfl rfl rfl rfl; first | with_reducible assumption | with_reducible apply keeps_setQuarter)
    | with_reducible apply Keeps.foldl
    | (intro _ _ _; try beta_reduce)
    | (intro _ _; try beta_reduce)
    | (extract_lets +onlyGivenNames x; refine Keeps.cut (a := a) (x := x) ?_ ?_; rotate_left; (intro hx; clear_value x); rotate_left; unfold x; clear x)
    | (extract_lets +onlyGivenNames x; clear_value x)
    | split

theorem keeps_execShutterWake (h : Keeps a s) : KeepsO a (execShutterWake s) := by
  unfold execShutterWake
  repeat' first
    | with_reducible assumption
    | with_reducible apply keepsO_ok
    | with_reducible apply KeepsO.next
    | with_reducible apply Keeps.forEach
    | with_reducible apply keeps_quarterRise
    | with_reducible apply keeps_freeNext
    | with_reducible apply Keeps.count
    | with_reducible apply keeps_holdCap
    | with_reducible apply keepsO_ok
    | (with_reducible refine keeps_mk ?_ rfl rfl rfl rfl rfl rfl rfl; first | with_reducible assumption | with_reducible apply Keeps.forEach | with_reducible apply keeps_quarterRise | with_reducible apply keeps_freeNext | with_reducible apply Keeps.count | with_reducible apply keepsO_ok)
    | with_reducible apply Keeps.foldl
    | (intro _ _ _; try beta_reduce)
    | (intro _ _; try beta_reduce)
    | (extract_lets +onlyGivenNames x; refine Keeps.cut (a := a) (x := x) ?_ ?_; rotate_left; (intro hx; clear_value x); rotate_left; unfold x; clear x)
    | (extract_lets +onlyGivenNames x; clear_value x)
    | split

theorem keeps_dieWake (h : Keeps a s) : Keeps a (State.dieWake s d) := by
  unfold State.dieWake
  repeat' first
    | with_reducible assumption
    | with_reducible apply keeps_zeroQbuf
    | with_reducible apply keeps_setDie
    | with_reducible apply keeps_setScrubber
    | with_reducible apply keeps_quarterUp
    | (with_reducible refine keeps_mk ?_ rfl rfl rfl rfl rfl rfl rfl; first | with_reducible assumption | with_reducible apply keeps_zeroQbuf | with_reducible apply keeps_setDie | with_reducible apply keeps_setScrubber | with_reducible apply keeps_quarterUp)
    | with_reducible apply Keeps.foldl
    | (intro _ _ _; try beta_reduce)
    | (intro _ _; try beta_reduce)
    | (extract_lets +onlyGivenNames x; refine Keeps.cut (a := a) (x := x) ?_ ?_; rotate_left; (intro hx; clear_value x); rotate_left; unfold x; clear x)
    | (extract_lets +onlyGivenNames x; clear_value x)
    | split

theorem keeps_execWakeComplete (h : Keeps a s) : KeepsO a (execWakeComplete late s) := by
  unfold execWakeComplete
  repeat' first
    | with_reducible assumption
    | with_reducible apply keepsO_ok
    | with_reducible apply KeepsO.next
    | with_reducible apply Keeps.forEach
    | with_reducible apply keeps_takeDieOut
    | with_reducible apply keeps_dieWake
    | with_reducible apply keepsO_ok
    | with_reducible apply keeps_adoptGo
    | (with_reducible refine keeps_mk ?_ rfl rfl rfl rfl rfl rfl rfl; first | with_reducible assumption | with_reducible apply Keeps.forEach | with_reducible apply keeps_takeDieOut | with_reducible apply keeps_dieWake | with_reducible apply keepsO_ok | with_reducible apply keeps_adoptGo)
    | with_reducible apply Keeps.foldl
    | (intro _ _ _; try beta_reduce)
    | (intro _ _; try beta_reduce)
    | (extract_lets +onlyGivenNames x; refine Keeps.cut (a := a) (x := x) ?_ ?_; rotate_left; (intro hx; clear_value x); rotate_left; unfold x; clear x)
    | (extract_lets +onlyGivenNames x; clear_value x)
    | split

end Sys2Proof.Machine
end

