-- ==== Sys2Proof/Laws/State.lean ====
section
/-! SUPPORT. One lemma per field and update of the state: what an update leaves alone, and what a part reads
as after it is written. -/

namespace Sys2Proof.Machine

variable (s t : State)

/-! ### setDie -/

@[simp] theorem setDie_pending : (s.setDie d x).pending = s.pending := rfl
@[simp] theorem setDie_out : (s.setDie d x).out = s.out := rfl
@[simp] theorem setDie_free : (s.setDie d x).free = s.free := rfl
@[simp] theorem setDie_regs : (s.setDie d x).regs = s.regs := rfl
@[simp] theorem setDie_cnt : (s.setDie d x).cnt = s.cnt := rfl
@[simp] theorem setDie_host : (s.setDie d x).host = s.host := rfl
@[simp] theorem setDie_mem : (s.setDie d x).mem = s.mem := rfl
@[simp] theorem setDie_scrub : (s.setDie d x).scrub = s.scrub := rfl
@[simp] theorem setDie_quarters : (s.setDie d x).quarters = s.quarters := rfl
@[simp] theorem setDie_stalls : (s.setDie d x).stalls = s.stalls := rfl
@[simp] theorem setDie_arcs : (s.setDie d x).arcs = s.arcs := rfl
@[simp] theorem setDie_streams : (s.setDie d x).streams = s.streams := rfl
@[simp] theorem setDie_stores : (s.setDie d x).stores = s.stores := rfl
@[simp] theorem setDie_rounds : (s.setDie d x).rounds = s.rounds := rfl
@[simp] theorem setDie_prog : (s.setDie d x).prog = s.prog := rfl
@[simp] theorem setDie_weights : (s.setDie d x).weights = s.weights := rfl
@[simp] theorem setDie_red : (s.setDie d x).red = s.red := rfl
@[simp] theorem setDie_ports : (s.setDie d x).ports = s.ports := rfl
@[simp] theorem setDie_flows : (s.setDie d x).flows = s.flows := rfl
@[simp] theorem setDie_bnd : (s.setDie d x).bnd = s.bnd := rfl
@[simp] theorem setDie_ledgers : (s.setDie d x).ledgers = s.ledgers := rfl
@[simp] theorem setDie_wales : (s.setDie d x).wales = s.wales := rfl
@[simp] theorem setDie_pwr : (s.setDie d x).pwr = s.pwr := rfl
@[simp] theorem setDie_shut : (s.setDie d x).shut = s.shut := rfl
@[simp] theorem setDie_keeper : (s.setDie d x).keeper = s.keeper := rfl
@[simp] theorem setDie_sec : (s.setDie d x).sec = s.sec := rfl
@[simp] theorem setDie_meter : (s.setDie d x).meter = s.meter := rfl
@[simp] theorem setDie_pins : (s.setDie d x).pins = s.pins := rfl

/-- What is written is read. -/
@[simp] theorem setDie_die_same : (s.setDie d x).die d = x := SMap.get_set_same _ _ _ _

/-! ### setQuarter -/

@[simp] theorem setQuarter_pending : (s.setQuarter d q x).pending = s.pending := rfl
@[simp] theorem setQuarter_out : (s.setQuarter d q x).out = s.out := rfl
@[simp] theorem setQuarter_free : (s.setQuarter d q x).free = s.free := rfl
@[simp] theorem setQuarter_regs : (s.setQuarter d q x).regs = s.regs := rfl
@[simp] theorem setQuarter_cnt : (s.setQuarter d q x).cnt = s.cnt := rfl
@[simp] theorem setQuarter_host : (s.setQuarter d q x).host = s.host := rfl
@[simp] theorem setQuarter_mem : (s.setQuarter d q x).mem = s.mem := rfl
@[simp] theorem setQuarter_scrub : (s.setQuarter d q x).scrub = s.scrub := rfl
@[simp] theorem setQuarter_dies : (s.setQuarter d q x).dies = s.dies := rfl
@[simp] theorem setQuarter_stalls : (s.setQuarter d q x).stalls = s.stalls := rfl
@[simp] theorem setQuarter_arcs : (s.setQuarter d q x).arcs = s.arcs := rfl
@[simp] theorem setQuarter_streams : (s.setQuarter d q x).streams = s.streams := rfl
@[simp] theorem setQuarter_stores : (s.setQuarter d q x).stores = s.stores := rfl
@[simp] theorem setQuarter_rounds : (s.setQuarter d q x).rounds = s.rounds := rfl
@[simp] theorem setQuarter_prog : (s.setQuarter d q x).prog = s.prog := rfl
@[simp] theorem setQuarter_weights : (s.setQuarter d q x).weights = s.weights := rfl
@[simp] theorem setQuarter_red : (s.setQuarter d q x).red = s.red := rfl
@[simp] theorem setQuarter_ports : (s.setQuarter d q x).ports = s.ports := rfl
@[simp] theorem setQuarter_flows : (s.setQuarter d q x).flows = s.flows := rfl
@[simp] theorem setQuarter_bnd : (s.setQuarter d q x).bnd = s.bnd := rfl
@[simp] theorem setQuarter_ledgers : (s.setQuarter d q x).ledgers = s.ledgers := rfl
@[simp] theorem setQuarter_wales : (s.setQuarter d q x).wales = s.wales := rfl
@[simp] theorem setQuarter_pwr : (s.setQuarter d q x).pwr = s.pwr := rfl
@[simp] theorem setQuarter_shut : (s.setQuarter d q x).shut = s.shut := rfl
@[simp] theorem setQuarter_keeper : (s.setQuarter d q x).keeper = s.keeper := rfl
@[simp] theorem setQuarter_sec : (s.setQuarter d q x).sec = s.sec := rfl
@[simp] theorem setQuarter_meter : (s.setQuarter d q x).meter = s.meter := rfl
@[simp] theorem setQuarter_pins : (s.setQuarter d q x).pins = s.pins := rfl

/-- What is written is read. -/
@[simp] theorem setQuarter_quarter_same : (s.setQuarter d q x).quarter d q = x := SMap.get_set_same _ _ _ _

/-! ### setSlot -/

@[simp] theorem setSlot_pending : (s.setSlot d p x).pending = s.pending := rfl
@[simp] theorem setSlot_out : (s.setSlot d p x).out = s.out := rfl
@[simp] theorem setSlot_free : (s.setSlot d p x).free = s.free := rfl
@[simp] theorem setSlot_regs : (s.setSlot d p x).regs = s.regs := rfl
@[simp] theorem setSlot_cnt : (s.setSlot d p x).cnt = s.cnt := rfl
@[simp] theorem setSlot_host : (s.setSlot d p x).host = s.host := rfl
@[simp] theorem setSlot_mem : (s.setSlot d p x).mem = s.mem := rfl
@[simp] theorem setSlot_scrub : (s.setSlot d p x).scrub = s.scrub := rfl
@[simp] theorem setSlot_dies : (s.setSlot d p x).dies = s.dies := rfl
@[simp] theorem setSlot_quarters : (s.setSlot d p x).quarters = s.quarters := rfl
@[simp] theorem setSlot_arcs : (s.setSlot d p x).arcs = s.arcs := rfl
@[simp] theorem setSlot_streams : (s.setSlot d p x).streams = s.streams := rfl
@[simp] theorem setSlot_stores : (s.setSlot d p x).stores = s.stores := rfl
@[simp] theorem setSlot_rounds : (s.setSlot d p x).rounds = s.rounds := rfl
@[simp] theorem setSlot_prog : (s.setSlot d p x).prog = s.prog := rfl
@[simp] theorem setSlot_weights : (s.setSlot d p x).weights = s.weights := rfl
@[simp] theorem setSlot_red : (s.setSlot d p x).red = s.red := rfl
@[simp] theorem setSlot_ports : (s.setSlot d p x).ports = s.ports := rfl
@[simp] theorem setSlot_flows : (s.setSlot d p x).flows = s.flows := rfl
@[simp] theorem setSlot_bnd : (s.setSlot d p x).bnd = s.bnd := rfl
@[simp] theorem setSlot_ledgers : (s.setSlot d p x).ledgers = s.ledgers := rfl
@[simp] theorem setSlot_wales : (s.setSlot d p x).wales = s.wales := rfl
@[simp] theorem setSlot_pwr : (s.setSlot d p x).pwr = s.pwr := rfl
@[simp] theorem setSlot_shut : (s.setSlot d p x).shut = s.shut := rfl
@[simp] theorem setSlot_keeper : (s.setSlot d p x).keeper = s.keeper := rfl
@[simp] theorem setSlot_sec : (s.setSlot d p x).sec = s.sec := rfl
@[simp] theorem setSlot_meter : (s.setSlot d p x).meter = s.meter := rfl
@[simp] theorem setSlot_pins : (s.setSlot d p x).pins = s.pins := rfl

/-- What is written is read. -/
@[simp] theorem setSlot_slot_same : (s.setSlot d p x).slot d p = x := SMap.get_set_same _ _ _ _

/-! ### setArc -/

@[simp] theorem setArc_pending : (s.setArc d q b x).pending = s.pending := rfl
@[simp] theorem setArc_out : (s.setArc d q b x).out = s.out := rfl
@[simp] theorem setArc_free : (s.setArc d q b x).free = s.free := rfl
@[simp] theorem setArc_regs : (s.setArc d q b x).regs = s.regs := rfl
@[simp] theorem setArc_cnt : (s.setArc d q b x).cnt = s.cnt := rfl
@[simp] theorem setArc_host : (s.setArc d q b x).host = s.host := rfl
@[simp] theorem setArc_mem : (s.setArc d q b x).mem = s.mem := rfl
@[simp] theorem setArc_scrub : (s.setArc d q b x).scrub = s.scrub := rfl
@[simp] theorem setArc_dies : (s.setArc d q b x).dies = s.dies := rfl
@[simp] theorem setArc_quarters : (s.setArc d q b x).quarters = s.quarters := rfl
@[simp] theorem setArc_stalls : (s.setArc d q b x).stalls = s.stalls := rfl
@[simp] theorem setArc_streams : (s.setArc d q b x).streams = s.streams := rfl
@[simp] theorem setArc_stores : (s.setArc d q b x).stores = s.stores := rfl
@[simp] theorem setArc_rounds : (s.setArc d q b x).rounds = s.rounds := rfl
@[simp] theorem setArc_prog : (s.setArc d q b x).prog = s.prog := rfl
@[simp] theorem setArc_weights : (s.setArc d q b x).weights = s.weights := rfl
@[simp] theorem setArc_red : (s.setArc d q b x).red = s.red := rfl
@[simp] theorem setArc_ports : (s.setArc d q b x).ports = s.ports := rfl
@[simp] theorem setArc_flows : (s.setArc d q b x).flows = s.flows := rfl
@[simp] theorem setArc_bnd : (s.setArc d q b x).bnd = s.bnd := rfl
@[simp] theorem setArc_ledgers : (s.setArc d q b x).ledgers = s.ledgers := rfl
@[simp] theorem setArc_wales : (s.setArc d q b x).wales = s.wales := rfl
@[simp] theorem setArc_pwr : (s.setArc d q b x).pwr = s.pwr := rfl
@[simp] theorem setArc_shut : (s.setArc d q b x).shut = s.shut := rfl
@[simp] theorem setArc_keeper : (s.setArc d q b x).keeper = s.keeper := rfl
@[simp] theorem setArc_sec : (s.setArc d q b x).sec = s.sec := rfl
@[simp] theorem setArc_meter : (s.setArc d q b x).meter = s.meter := rfl
@[simp] theorem setArc_pins : (s.setArc d q b x).pins = s.pins := rfl

/-- What is written is read. -/
@[simp] theorem setArc_arc_same : (s.setArc d q b x).arc d q b = x := SMap.get_set_same _ _ _ _

/-! ### setStream -/

@[simp] theorem setStream_pending : (s.setStream d u st x).pending = s.pending := rfl
@[simp] theorem setStream_out : (s.setStream d u st x).out = s.out := rfl
@[simp] theorem setStream_free : (s.setStream d u st x).free = s.free := rfl
@[simp] theorem setStream_regs : (s.setStream d u st x).regs = s.regs := rfl
@[simp] theorem setStream_cnt : (s.setStream d u st x).cnt = s.cnt := rfl
@[simp] theorem setStream_host : (s.setStream d u st x).host = s.host := rfl
@[simp] theorem setStream_mem : (s.setStream d u st x).mem = s.mem := rfl
@[simp] theorem setStream_scrub : (s.setStream d u st x).scrub = s.scrub := rfl
@[simp] theorem setStream_dies : (s.setStream d u st x).dies = s.dies := rfl
@[simp] theorem setStream_quarters : (s.setStream d u st x).quarters = s.quarters := rfl
@[simp] theorem setStream_stalls : (s.setStream d u st x).stalls = s.stalls := rfl
@[simp] theorem setStream_arcs : (s.setStream d u st x).arcs = s.arcs := rfl
@[simp] theorem setStream_stores : (s.setStream d u st x).stores = s.stores := rfl
@[simp] theorem setStream_rounds : (s.setStream d u st x).rounds = s.rounds := rfl
@[simp] theorem setStream_prog : (s.setStream d u st x).prog = s.prog := rfl
@[simp] theorem setStream_weights : (s.setStream d u st x).weights = s.weights := rfl
@[simp] theorem setStream_red : (s.setStream d u st x).red = s.red := rfl
@[simp] theorem setStream_ports : (s.setStream d u st x).ports = s.ports := rfl
@[simp] theorem setStream_flows : (s.setStream d u st x).flows = s.flows := rfl
@[simp] theorem setStream_bnd : (s.setStream d u st x).bnd = s.bnd := rfl
@[simp] theorem setStream_ledgers : (s.setStream d u st x).ledgers = s.ledgers := rfl
@[simp] theorem setStream_wales : (s.setStream d u st x).wales = s.wales := rfl
@[simp] theorem setStream_pwr : (s.setStream d u st x).pwr = s.pwr := rfl
@[simp] theorem setStream_shut : (s.setStream d u st x).shut = s.shut := rfl
@[simp] theorem setStream_keeper : (s.setStream d u st x).keeper = s.keeper := rfl
@[simp] theorem setStream_sec : (s.setStream d u st x).sec = s.sec := rfl
@[simp] theorem setStream_meter : (s.setStream d u st x).meter = s.meter := rfl
@[simp] theorem setStream_pins : (s.setStream d u st x).pins = s.pins := rfl

/-- What is written is read. -/
@[simp] theorem setStream_stream_same : (s.setStream d u st x).stream d u st = x := SMap.get_set_same _ _ _ _

/-! ### setRoundCtx -/

@[simp] theorem setRoundCtx_pending : (s.setRoundCtx d c x).pending = s.pending := rfl
@[simp] theorem setRoundCtx_out : (s.setRoundCtx d c x).out = s.out := rfl
@[simp] theorem setRoundCtx_free : (s.setRoundCtx d c x).free = s.free := rfl
@[simp] theorem setRoundCtx_regs : (s.setRoundCtx d c x).regs = s.regs := rfl
@[simp] theorem setRoundCtx_cnt : (s.setRoundCtx d c x).cnt = s.cnt := rfl
@[simp] theorem setRoundCtx_host : (s.setRoundCtx d c x).host = s.host := rfl
@[simp] theorem setRoundCtx_mem : (s.setRoundCtx d c x).mem = s.mem := rfl
@[simp] theorem setRoundCtx_scrub : (s.setRoundCtx d c x).scrub = s.scrub := rfl
@[simp] theorem setRoundCtx_dies : (s.setRoundCtx d c x).dies = s.dies := rfl
@[simp] theorem setRoundCtx_quarters : (s.setRoundCtx d c x).quarters = s.quarters := rfl
@[simp] theorem setRoundCtx_stalls : (s.setRoundCtx d c x).stalls = s.stalls := rfl
@[simp] theorem setRoundCtx_arcs : (s.setRoundCtx d c x).arcs = s.arcs := rfl
@[simp] theorem setRoundCtx_streams : (s.setRoundCtx d c x).streams = s.streams := rfl
@[simp] theorem setRoundCtx_stores : (s.setRoundCtx d c x).stores = s.stores := rfl
@[simp] theorem setRoundCtx_prog : (s.setRoundCtx d c x).prog = s.prog := rfl
@[simp] theorem setRoundCtx_weights : (s.setRoundCtx d c x).weights = s.weights := rfl
@[simp] theorem setRoundCtx_red : (s.setRoundCtx d c x).red = s.red := rfl
@[simp] theorem setRoundCtx_ports : (s.setRoundCtx d c x).ports = s.ports := rfl
@[simp] theorem setRoundCtx_flows : (s.setRoundCtx d c x).flows = s.flows := rfl
@[simp] theorem setRoundCtx_bnd : (s.setRoundCtx d c x).bnd = s.bnd := rfl
@[simp] theorem setRoundCtx_ledgers : (s.setRoundCtx d c x).ledgers = s.ledgers := rfl
@[simp] theorem setRoundCtx_wales : (s.setRoundCtx d c x).wales = s.wales := rfl
@[simp] theorem setRoundCtx_pwr : (s.setRoundCtx d c x).pwr = s.pwr := rfl
@[simp] theorem setRoundCtx_shut : (s.setRoundCtx d c x).shut = s.shut := rfl
@[simp] theorem setRoundCtx_keeper : (s.setRoundCtx d c x).keeper = s.keeper := rfl
@[simp] theorem setRoundCtx_sec : (s.setRoundCtx d c x).sec = s.sec := rfl
@[simp] theorem setRoundCtx_meter : (s.setRoundCtx d c x).meter = s.meter := rfl
@[simp] theorem setRoundCtx_pins : (s.setRoundCtx d c x).pins = s.pins := rfl

/-- What is written is read. -/
@[simp] theorem setRoundCtx_roundCtx_same : (s.setRoundCtx d c x).roundCtx d c = x := SMap.get_set_same _ _ _ _

/-! ### setFetch -/

@[simp] theorem setFetch_pending : (s.setFetch d e x).pending = s.pending := rfl
@[simp] theorem setFetch_out : (s.setFetch d e x).out = s.out := rfl
@[simp] theorem setFetch_free : (s.setFetch d e x).free = s.free := rfl
@[simp] theorem setFetch_regs : (s.setFetch d e x).regs = s.regs := rfl
@[simp] theorem setFetch_cnt : (s.setFetch d e x).cnt = s.cnt := rfl
@[simp] theorem setFetch_host : (s.setFetch d e x).host = s.host := rfl
@[simp] theorem setFetch_mem : (s.setFetch d e x).mem = s.mem := rfl
@[simp] theorem setFetch_scrub : (s.setFetch d e x).scrub = s.scrub := rfl
@[simp] theorem setFetch_dies : (s.setFetch d e x).dies = s.dies := rfl
@[simp] theorem setFetch_quarters : (s.setFetch d e x).quarters = s.quarters := rfl
@[simp] theorem setFetch_stalls : (s.setFetch d e x).stalls = s.stalls := rfl
@[simp] theorem setFetch_arcs : (s.setFetch d e x).arcs = s.arcs := rfl
@[simp] theorem setFetch_streams : (s.setFetch d e x).streams = s.streams := rfl
@[simp] theorem setFetch_stores : (s.setFetch d e x).stores = s.stores := rfl
@[simp] theorem setFetch_rounds : (s.setFetch d e x).rounds = s.rounds := rfl
@[simp] theorem setFetch_prog : (s.setFetch d e x).prog = s.prog := rfl
@[simp] theorem setFetch_red : (s.setFetch d e x).red = s.red := rfl
@[simp] theorem setFetch_ports : (s.setFetch d e x).ports = s.ports := rfl
@[simp] theorem setFetch_flows : (s.setFetch d e x).flows = s.flows := rfl
@[simp] theorem setFetch_bnd : (s.setFetch d e x).bnd = s.bnd := rfl
@[simp] theorem setFetch_ledgers : (s.setFetch d e x).ledgers = s.ledgers := rfl
@[simp] theorem setFetch_wales : (s.setFetch d e x).wales = s.wales := rfl
@[simp] theorem setFetch_pwr : (s.setFetch d e x).pwr = s.pwr := rfl
@[simp] theorem setFetch_shut : (s.setFetch d e x).shut = s.shut := rfl
@[simp] theorem setFetch_keeper : (s.setFetch d e x).keeper = s.keeper := rfl
@[simp] theorem setFetch_sec : (s.setFetch d e x).sec = s.sec := rfl
@[simp] theorem setFetch_meter : (s.setFetch d e x).meter = s.meter := rfl
@[simp] theorem setFetch_pins : (s.setFetch d e x).pins = s.pins := rfl

/-- What is written is read. -/
@[simp] theorem setFetch_fetch_same : (s.setFetch d e x).fetch d e = x := SMap.get_set_same _ _ _ _

/-! ### setIngest -/

@[simp] theorem setIngest_pending : (s.setIngest d x).pending = s.pending := rfl
@[simp] theorem setIngest_out : (s.setIngest d x).out = s.out := rfl
@[simp] theorem setIngest_free : (s.setIngest d x).free = s.free := rfl
@[simp] theorem setIngest_regs : (s.setIngest d x).regs = s.regs := rfl
@[simp] theorem setIngest_cnt : (s.setIngest d x).cnt = s.cnt := rfl
@[simp] theorem setIngest_host : (s.setIngest d x).host = s.host := rfl
@[simp] theorem setIngest_mem : (s.setIngest d x).mem = s.mem := rfl
@[simp] theorem setIngest_scrub : (s.setIngest d x).scrub = s.scrub := rfl
@[simp] theorem setIngest_dies : (s.setIngest d x).dies = s.dies := rfl
@[simp] theorem setIngest_quarters : (s.setIngest d x).quarters = s.quarters := rfl
@[simp] theorem setIngest_stalls : (s.setIngest d x).stalls = s.stalls := rfl
@[simp] theorem setIngest_arcs : (s.setIngest d x).arcs = s.arcs := rfl
@[simp] theorem setIngest_streams : (s.setIngest d x).streams = s.streams := rfl
@[simp] theorem setIngest_stores : (s.setIngest d x).stores = s.stores := rfl
@[simp] theorem setIngest_rounds : (s.setIngest d x).rounds = s.rounds := rfl
@[simp] theorem setIngest_prog : (s.setIngest d x).prog = s.prog := rfl
@[simp] theorem setIngest_red : (s.setIngest d x).red = s.red := rfl
@[simp] theorem setIngest_ports : (s.setIngest d x).ports = s.ports := rfl
@[simp] theorem setIngest_flows : (s.setIngest d x).flows = s.flows := rfl
@[simp] theorem setIngest_bnd : (s.setIngest d x).bnd = s.bnd := rfl
@[simp] theorem setIngest_ledgers : (s.setIngest d x).ledgers = s.ledgers := rfl
@[simp] theorem setIngest_wales : (s.setIngest d x).wales = s.wales := rfl
@[simp] theorem setIngest_pwr : (s.setIngest d x).pwr = s.pwr := rfl
@[simp] theorem setIngest_shut : (s.setIngest d x).shut = s.shut := rfl
@[simp] theorem setIngest_keeper : (s.setIngest d x).keeper = s.keeper := rfl
@[simp] theorem setIngest_sec : (s.setIngest d x).sec = s.sec := rfl
@[simp] theorem setIngest_meter : (s.setIngest d x).meter = s.meter := rfl
@[simp] theorem setIngest_pins : (s.setIngest d x).pins = s.pins := rfl

/-- What is written is read. -/
@[simp] theorem setIngest_ingest_same : (s.setIngest d x).ingest d = x := SMap.get_set_same _ _ _ _

/-! ### setKeySlot -/

@[simp] theorem setKeySlot_pending : (s.setKeySlot d k x).pending = s.pending := rfl
@[simp] theorem setKeySlot_out : (s.setKeySlot d k x).out = s.out := rfl
@[simp] theorem setKeySlot_free : (s.setKeySlot d k x).free = s.free := rfl
@[simp] theorem setKeySlot_regs : (s.setKeySlot d k x).regs = s.regs := rfl
@[simp] theorem setKeySlot_cnt : (s.setKeySlot d k x).cnt = s.cnt := rfl
@[simp] theorem setKeySlot_host : (s.setKeySlot d k x).host = s.host := rfl
@[simp] theorem setKeySlot_mem : (s.setKeySlot d k x).mem = s.mem := rfl
@[simp] theorem setKeySlot_scrub : (s.setKeySlot d k x).scrub = s.scrub := rfl
@[simp] theorem setKeySlot_dies : (s.setKeySlot d k x).dies = s.dies := rfl
@[simp] theorem setKeySlot_quarters : (s.setKeySlot d k x).quarters = s.quarters := rfl
@[simp] theorem setKeySlot_stalls : (s.setKeySlot d k x).stalls = s.stalls := rfl
@[simp] theorem setKeySlot_arcs : (s.setKeySlot d k x).arcs = s.arcs := rfl
@[simp] theorem setKeySlot_streams : (s.setKeySlot d k x).streams = s.streams := rfl
@[simp] theorem setKeySlot_stores : (s.setKeySlot d k x).stores = s.stores := rfl
@[simp] theorem setKeySlot_rounds : (s.setKeySlot d k x).rounds = s.rounds := rfl
@[simp] theorem setKeySlot_prog : (s.setKeySlot d k x).prog = s.prog := rfl
@[simp] theorem setKeySlot_red : (s.setKeySlot d k x).red = s.red := rfl
@[simp] theorem setKeySlot_ports : (s.setKeySlot d k x).ports = s.ports := rfl
@[simp] theorem setKeySlot_flows : (s.setKeySlot d k x).flows = s.flows := rfl
@[simp] theorem setKeySlot_bnd : (s.setKeySlot d k x).bnd = s.bnd := rfl
@[simp] theorem setKeySlot_ledgers : (s.setKeySlot d k x).ledgers = s.ledgers := rfl
@[simp] theorem setKeySlot_wales : (s.setKeySlot d k x).wales = s.wales := rfl
@[simp] theorem setKeySlot_pwr : (s.setKeySlot d k x).pwr = s.pwr := rfl
@[simp] theorem setKeySlot_shut : (s.setKeySlot d k x).shut = s.shut := rfl
@[simp] theorem setKeySlot_keeper : (s.setKeySlot d k x).keeper = s.keeper := rfl
@[simp] theorem setKeySlot_sec : (s.setKeySlot d k x).sec = s.sec := rfl
@[simp] theorem setKeySlot_meter : (s.setKeySlot d k x).meter = s.meter := rfl
@[simp] theorem setKeySlot_pins : (s.setKeySlot d k x).pins = s.pins := rfl

/-- What is written is read. -/
@[simp] theorem setKeySlot_keySlot_same : (s.setKeySlot d k x).keySlot d k = x := SMap.get_set_same _ _ _ _

/-! ### setDieBasket -/

@[simp] theorem setDieBasket_pending : (s.setDieBasket d b x).pending = s.pending := rfl
@[simp] theorem setDieBasket_out : (s.setDieBasket d b x).out = s.out := rfl
@[simp] theorem setDieBasket_free : (s.setDieBasket d b x).free = s.free := rfl
@[simp] theorem setDieBasket_regs : (s.setDieBasket d b x).regs = s.regs := rfl
@[simp] theorem setDieBasket_cnt : (s.setDieBasket d b x).cnt = s.cnt := rfl
@[simp] theorem setDieBasket_host : (s.setDieBasket d b x).host = s.host := rfl
@[simp] theorem setDieBasket_mem : (s.setDieBasket d b x).mem = s.mem := rfl
@[simp] theorem setDieBasket_scrub : (s.setDieBasket d b x).scrub = s.scrub := rfl
@[simp] theorem setDieBasket_dies : (s.setDieBasket d b x).dies = s.dies := rfl
@[simp] theorem setDieBasket_quarters : (s.setDieBasket d b x).quarters = s.quarters := rfl
@[simp] theorem setDieBasket_stalls : (s.setDieBasket d b x).stalls = s.stalls := rfl
@[simp] theorem setDieBasket_arcs : (s.setDieBasket d b x).arcs = s.arcs := rfl
@[simp] theorem setDieBasket_streams : (s.setDieBasket d b x).streams = s.streams := rfl
@[simp] theorem setDieBasket_stores : (s.setDieBasket d b x).stores = s.stores := rfl
@[simp] theorem setDieBasket_rounds : (s.setDieBasket d b x).rounds = s.rounds := rfl
@[simp] theorem setDieBasket_prog : (s.setDieBasket d b x).prog = s.prog := rfl
@[simp] theorem setDieBasket_weights : (s.setDieBasket d b x).weights = s.weights := rfl
@[simp] theorem setDieBasket_ports : (s.setDieBasket d b x).ports = s.ports := rfl
@[simp] theorem setDieBasket_flows : (s.setDieBasket d b x).flows = s.flows := rfl
@[simp] theorem setDieBasket_bnd : (s.setDieBasket d b x).bnd = s.bnd := rfl
@[simp] theorem setDieBasket_ledgers : (s.setDieBasket d b x).ledgers = s.ledgers := rfl
@[simp] theorem setDieBasket_wales : (s.setDieBasket d b x).wales = s.wales := rfl
@[simp] theorem setDieBasket_pwr : (s.setDieBasket d b x).pwr = s.pwr := rfl
@[simp] theorem setDieBasket_shut : (s.setDieBasket d b x).shut = s.shut := rfl
@[simp] theorem setDieBasket_keeper : (s.setDieBasket d b x).keeper = s.keeper := rfl
@[simp] theorem setDieBasket_sec : (s.setDieBasket d b x).sec = s.sec := rfl
@[simp] theorem setDieBasket_meter : (s.setDieBasket d b x).meter = s.meter := rfl
@[simp] theorem setDieBasket_pins : (s.setDieBasket d b x).pins = s.pins := rfl

/-- What is written is read. -/
@[simp] theorem setDieBasket_dieBasket_same : (s.setDieBasket d b x).dieBasket d b = x := SMap.get_set_same _ _ _ _

/-! ### setBasket -/

@[simp] theorem setBasket_pending : (s.setBasket b x).pending = s.pending := rfl
@[simp] theorem setBasket_out : (s.setBasket b x).out = s.out := rfl
@[simp] theorem setBasket_free : (s.setBasket b x).free = s.free := rfl
@[simp] theorem setBasket_regs : (s.setBasket b x).regs = s.regs := rfl
@[simp] theorem setBasket_cnt : (s.setBasket b x).cnt = s.cnt := rfl
@[simp] theorem setBasket_host : (s.setBasket b x).host = s.host := rfl
@[simp] theorem setBasket_mem : (s.setBasket b x).mem = s.mem := rfl
@[simp] theorem setBasket_scrub : (s.setBasket b x).scrub = s.scrub := rfl
@[simp] theorem setBasket_dies : (s.setBasket b x).dies = s.dies := rfl
@[simp] theorem setBasket_quarters : (s.setBasket b x).quarters = s.quarters := rfl
@[simp] theorem setBasket_stalls : (s.setBasket b x).stalls = s.stalls := rfl
@[simp] theorem setBasket_arcs : (s.setBasket b x).arcs = s.arcs := rfl
@[simp] theorem setBasket_streams : (s.setBasket b x).streams = s.streams := rfl
@[simp] theorem setBasket_stores : (s.setBasket b x).stores = s.stores := rfl
@[simp] theorem setBasket_rounds : (s.setBasket b x).rounds = s.rounds := rfl
@[simp] theorem setBasket_prog : (s.setBasket b x).prog = s.prog := rfl
@[simp] theorem setBasket_weights : (s.setBasket b x).weights = s.weights := rfl
@[simp] theorem setBasket_ports : (s.setBasket b x).ports = s.ports := rfl
@[simp] theorem setBasket_flows : (s.setBasket b x).flows = s.flows := rfl
@[simp] theorem setBasket_bnd : (s.setBasket b x).bnd = s.bnd := rfl
@[simp] theorem setBasket_ledgers : (s.setBasket b x).ledgers = s.ledgers := rfl
@[simp] theorem setBasket_wales : (s.setBasket b x).wales = s.wales := rfl
@[simp] theorem setBasket_pwr : (s.setBasket b x).pwr = s.pwr := rfl
@[simp] theorem setBasket_shut : (s.setBasket b x).shut = s.shut := rfl
@[simp] theorem setBasket_keeper : (s.setBasket b x).keeper = s.keeper := rfl
@[simp] theorem setBasket_sec : (s.setBasket b x).sec = s.sec := rfl
@[simp] theorem setBasket_meter : (s.setBasket b x).meter = s.meter := rfl
@[simp] theorem setBasket_pins : (s.setBasket b x).pins = s.pins := rfl

/-- What is written is read. -/
@[simp] theorem setBasket_basket_same : (s.setBasket b x).basket b = x := SMap.get_set_same _ _ _ _

/-! ### setLevel -/

@[simp] theorem setLevel_pending : (s.setLevel d k x).pending = s.pending := rfl
@[simp] theorem setLevel_out : (s.setLevel d k x).out = s.out := rfl
@[simp] theorem setLevel_free : (s.setLevel d k x).free = s.free := rfl
@[simp] theorem setLevel_regs : (s.setLevel d k x).regs = s.regs := rfl
@[simp] theorem setLevel_cnt : (s.setLevel d k x).cnt = s.cnt := rfl
@[simp] theorem setLevel_host : (s.setLevel d k x).host = s.host := rfl
@[simp] theorem setLevel_mem : (s.setLevel d k x).mem = s.mem := rfl
@[simp] theorem setLevel_scrub : (s.setLevel d k x).scrub = s.scrub := rfl
@[simp] theorem setLevel_dies : (s.setLevel d k x).dies = s.dies := rfl
@[simp] theorem setLevel_quarters : (s.setLevel d k x).quarters = s.quarters := rfl
@[simp] theorem setLevel_stalls : (s.setLevel d k x).stalls = s.stalls := rfl
@[simp] theorem setLevel_arcs : (s.setLevel d k x).arcs = s.arcs := rfl
@[simp] theorem setLevel_streams : (s.setLevel d k x).streams = s.streams := rfl
@[simp] theorem setLevel_stores : (s.setLevel d k x).stores = s.stores := rfl
@[simp] theorem setLevel_rounds : (s.setLevel d k x).rounds = s.rounds := rfl
@[simp] theorem setLevel_prog : (s.setLevel d k x).prog = s.prog := rfl
@[simp] theorem setLevel_weights : (s.setLevel d k x).weights = s.weights := rfl
@[simp] theorem setLevel_ports : (s.setLevel d k x).ports = s.ports := rfl
@[simp] theorem setLevel_flows : (s.setLevel d k x).flows = s.flows := rfl
@[simp] theorem setLevel_bnd : (s.setLevel d k x).bnd = s.bnd := rfl
@[simp] theorem setLevel_ledgers : (s.setLevel d k x).ledgers = s.ledgers := rfl
@[simp] theorem setLevel_wales : (s.setLevel d k x).wales = s.wales := rfl
@[simp] theorem setLevel_pwr : (s.setLevel d k x).pwr = s.pwr := rfl
@[simp] theorem setLevel_shut : (s.setLevel d k x).shut = s.shut := rfl
@[simp] theorem setLevel_keeper : (s.setLevel d k x).keeper = s.keeper := rfl
@[simp] theorem setLevel_sec : (s.setLevel d k x).sec = s.sec := rfl
@[simp] theorem setLevel_meter : (s.setLevel d k x).meter = s.meter := rfl
@[simp] theorem setLevel_pins : (s.setLevel d k x).pins = s.pins := rfl

/-- What is written is read. -/
@[simp] theorem setLevel_level_same : (s.setLevel d k x).level d k = x := SMap.get_set_same _ _ _ _

/-! ### setPort -/

@[simp] theorem setPort_pending : (s.setPort p x).pending = s.pending := rfl
@[simp] theorem setPort_out : (s.setPort p x).out = s.out := rfl
@[simp] theorem setPort_free : (s.setPort p x).free = s.free := rfl
@[simp] theorem setPort_regs : (s.setPort p x).regs = s.regs := rfl
@[simp] theorem setPort_cnt : (s.setPort p x).cnt = s.cnt := rfl
@[simp] theorem setPort_host : (s.setPort p x).host = s.host := rfl
@[simp] theorem setPort_mem : (s.setPort p x).mem = s.mem := rfl
@[simp] theorem setPort_scrub : (s.setPort p x).scrub = s.scrub := rfl
@[simp] theorem setPort_dies : (s.setPort p x).dies = s.dies := rfl
@[simp] theorem setPort_quarters : (s.setPort p x).quarters = s.quarters := rfl
@[simp] theorem setPort_stalls : (s.setPort p x).stalls = s.stalls := rfl
@[simp] theorem setPort_arcs : (s.setPort p x).arcs = s.arcs := rfl
@[simp] theorem setPort_streams : (s.setPort p x).streams = s.streams := rfl
@[simp] theorem setPort_stores : (s.setPort p x).stores = s.stores := rfl
@[simp] theorem setPort_rounds : (s.setPort p x).rounds = s.rounds := rfl
@[simp] theorem setPort_prog : (s.setPort p x).prog = s.prog := rfl
@[simp] theorem setPort_weights : (s.setPort p x).weights = s.weights := rfl
@[simp] theorem setPort_red : (s.setPort p x).red = s.red := rfl
@[simp] theorem setPort_flows : (s.setPort p x).flows = s.flows := rfl
@[simp] theorem setPort_bnd : (s.setPort p x).bnd = s.bnd := rfl
@[simp] theorem setPort_ledgers : (s.setPort p x).ledgers = s.ledgers := rfl
@[simp] theorem setPort_wales : (s.setPort p x).wales = s.wales := rfl
@[simp] theorem setPort_pwr : (s.setPort p x).pwr = s.pwr := rfl
@[simp] theorem setPort_shut : (s.setPort p x).shut = s.shut := rfl
@[simp] theorem setPort_keeper : (s.setPort p x).keeper = s.keeper := rfl
@[simp] theorem setPort_sec : (s.setPort p x).sec = s.sec := rfl
@[simp] theorem setPort_meter : (s.setPort p x).meter = s.meter := rfl
@[simp] theorem setPort_pins : (s.setPort p x).pins = s.pins := rfl

/-- What is written is read. -/
@[simp] theorem setPort_port_same : (s.setPort p x).port p = x := SMap.get_set_same _ _ _ _

/-! ### setFlow -/

@[simp] theorem setFlow_pending : (s.setFlow p f x).pending = s.pending := rfl
@[simp] theorem setFlow_out : (s.setFlow p f x).out = s.out := rfl
@[simp] theorem setFlow_free : (s.setFlow p f x).free = s.free := rfl
@[simp] theorem setFlow_regs : (s.setFlow p f x).regs = s.regs := rfl
@[simp] theorem setFlow_cnt : (s.setFlow p f x).cnt = s.cnt := rfl
@[simp] theorem setFlow_host : (s.setFlow p f x).host = s.host := rfl
@[simp] theorem setFlow_mem : (s.setFlow p f x).mem = s.mem := rfl
@[simp] theorem setFlow_scrub : (s.setFlow p f x).scrub = s.scrub := rfl
@[simp] theorem setFlow_dies : (s.setFlow p f x).dies = s.dies := rfl
@[simp] theorem setFlow_quarters : (s.setFlow p f x).quarters = s.quarters := rfl
@[simp] theorem setFlow_stalls : (s.setFlow p f x).stalls = s.stalls := rfl
@[simp] theorem setFlow_arcs : (s.setFlow p f x).arcs = s.arcs := rfl
@[simp] theorem setFlow_streams : (s.setFlow p f x).streams = s.streams := rfl
@[simp] theorem setFlow_stores : (s.setFlow p f x).stores = s.stores := rfl
@[simp] theorem setFlow_rounds : (s.setFlow p f x).rounds = s.rounds := rfl
@[simp] theorem setFlow_prog : (s.setFlow p f x).prog = s.prog := rfl
@[simp] theorem setFlow_weights : (s.setFlow p f x).weights = s.weights := rfl
@[simp] theorem setFlow_red : (s.setFlow p f x).red = s.red := rfl
@[simp] theorem setFlow_ports : (s.setFlow p f x).ports = s.ports := rfl
@[simp] theorem setFlow_bnd : (s.setFlow p f x).bnd = s.bnd := rfl
@[simp] theorem setFlow_ledgers : (s.setFlow p f x).ledgers = s.ledgers := rfl
@[simp] theorem setFlow_wales : (s.setFlow p f x).wales = s.wales := rfl
@[simp] theorem setFlow_pwr : (s.setFlow p f x).pwr = s.pwr := rfl
@[simp] theorem setFlow_shut : (s.setFlow p f x).shut = s.shut := rfl
@[simp] theorem setFlow_keeper : (s.setFlow p f x).keeper = s.keeper := rfl
@[simp] theorem setFlow_sec : (s.setFlow p f x).sec = s.sec := rfl
@[simp] theorem setFlow_meter : (s.setFlow p f x).meter = s.meter := rfl
@[simp] theorem setFlow_pins : (s.setFlow p f x).pins = s.pins := rfl

/-- What is written is read. -/
@[simp] theorem setFlow_flow_same : (s.setFlow p f x).flow p f = x := SMap.get_set_same _ _ _ _

/-! ### setBctx -/

@[simp] theorem setBctx_pending : (s.setBctx c x).pending = s.pending := rfl
@[simp] theorem setBctx_out : (s.setBctx c x).out = s.out := rfl
@[simp] theorem setBctx_free : (s.setBctx c x).free = s.free := rfl
@[simp] theorem setBctx_regs : (s.setBctx c x).regs = s.regs := rfl
@[simp] theorem setBctx_cnt : (s.setBctx c x).cnt = s.cnt := rfl
@[simp] theorem setBctx_host : (s.setBctx c x).host = s.host := rfl
@[simp] theorem setBctx_mem : (s.setBctx c x).mem = s.mem := rfl
@[simp] theorem setBctx_scrub : (s.setBctx c x).scrub = s.scrub := rfl
@[simp] theorem setBctx_dies : (s.setBctx c x).dies = s.dies := rfl
@[simp] theorem setBctx_quarters : (s.setBctx c x).quarters = s.quarters := rfl
@[simp] theorem setBctx_stalls : (s.setBctx c x).stalls = s.stalls := rfl
@[simp] theorem setBctx_arcs : (s.setBctx c x).arcs = s.arcs := rfl
@[simp] theorem setBctx_streams : (s.setBctx c x).streams = s.streams := rfl
@[simp] theorem setBctx_stores : (s.setBctx c x).stores = s.stores := rfl
@[simp] theorem setBctx_rounds : (s.setBctx c x).rounds = s.rounds := rfl
@[simp] theorem setBctx_prog : (s.setBctx c x).prog = s.prog := rfl
@[simp] theorem setBctx_weights : (s.setBctx c x).weights = s.weights := rfl
@[simp] theorem setBctx_red : (s.setBctx c x).red = s.red := rfl
@[simp] theorem setBctx_ports : (s.setBctx c x).ports = s.ports := rfl
@[simp] theorem setBctx_flows : (s.setBctx c x).flows = s.flows := rfl
@[simp] theorem setBctx_ledgers : (s.setBctx c x).ledgers = s.ledgers := rfl
@[simp] theorem setBctx_wales : (s.setBctx c x).wales = s.wales := rfl
@[simp] theorem setBctx_pwr : (s.setBctx c x).pwr = s.pwr := rfl
@[simp] theorem setBctx_shut : (s.setBctx c x).shut = s.shut := rfl
@[simp] theorem setBctx_keeper : (s.setBctx c x).keeper = s.keeper := rfl
@[simp] theorem setBctx_sec : (s.setBctx c x).sec = s.sec := rfl
@[simp] theorem setBctx_meter : (s.setBctx c x).meter = s.meter := rfl
@[simp] theorem setBctx_pins : (s.setBctx c x).pins = s.pins := rfl

/-- What is written is read. -/
@[simp] theorem setBctx_bctx_same : (s.setBctx c x).bctx c = x := SMap.get_set_same _ _ _ _

/-! ### setPbundle -/

@[simp] theorem setPbundle_pending : (s.setPbundle n x).pending = s.pending := rfl
@[simp] theorem setPbundle_out : (s.setPbundle n x).out = s.out := rfl
@[simp] theorem setPbundle_free : (s.setPbundle n x).free = s.free := rfl
@[simp] theorem setPbundle_regs : (s.setPbundle n x).regs = s.regs := rfl
@[simp] theorem setPbundle_cnt : (s.setPbundle n x).cnt = s.cnt := rfl
@[simp] theorem setPbundle_host : (s.setPbundle n x).host = s.host := rfl
@[simp] theorem setPbundle_mem : (s.setPbundle n x).mem = s.mem := rfl
@[simp] theorem setPbundle_scrub : (s.setPbundle n x).scrub = s.scrub := rfl
@[simp] theorem setPbundle_dies : (s.setPbundle n x).dies = s.dies := rfl
@[simp] theorem setPbundle_quarters : (s.setPbundle n x).quarters = s.quarters := rfl
@[simp] theorem setPbundle_stalls : (s.setPbundle n x).stalls = s.stalls := rfl
@[simp] theorem setPbundle_arcs : (s.setPbundle n x).arcs = s.arcs := rfl
@[simp] theorem setPbundle_streams : (s.setPbundle n x).streams = s.streams := rfl
@[simp] theorem setPbundle_stores : (s.setPbundle n x).stores = s.stores := rfl
@[simp] theorem setPbundle_rounds : (s.setPbundle n x).rounds = s.rounds := rfl
@[simp] theorem setPbundle_prog : (s.setPbundle n x).prog = s.prog := rfl
@[simp] theorem setPbundle_weights : (s.setPbundle n x).weights = s.weights := rfl
@[simp] theorem setPbundle_red : (s.setPbundle n x).red = s.red := rfl
@[simp] theorem setPbundle_ports : (s.setPbundle n x).ports = s.ports := rfl
@[simp] theorem setPbundle_flows : (s.setPbundle n x).flows = s.flows := rfl
@[simp] theorem setPbundle_ledgers : (s.setPbundle n x).ledgers = s.ledgers := rfl
@[simp] theorem setPbundle_wales : (s.setPbundle n x).wales = s.wales := rfl
@[simp] theorem setPbundle_pwr : (s.setPbundle n x).pwr = s.pwr := rfl
@[simp] theorem setPbundle_shut : (s.setPbundle n x).shut = s.shut := rfl
@[simp] theorem setPbundle_keeper : (s.setPbundle n x).keeper = s.keeper := rfl
@[simp] theorem setPbundle_sec : (s.setPbundle n x).sec = s.sec := rfl
@[simp] theorem setPbundle_meter : (s.setPbundle n x).meter = s.meter := rfl
@[simp] theorem setPbundle_pins : (s.setPbundle n x).pins = s.pins := rfl

/-- What is written is read. -/
@[simp] theorem setPbundle_pbundle_same : (s.setPbundle n x).pbundle n = x := SMap.get_set_same _ _ _ _

/-! ### setLedger -/

@[simp] theorem setLedger_pending : (s.setLedger d c i x).pending = s.pending := rfl
@[simp] theorem setLedger_out : (s.setLedger d c i x).out = s.out := rfl
@[simp] theorem setLedger_free : (s.setLedger d c i x).free = s.free := rfl
@[simp] theorem setLedger_regs : (s.setLedger d c i x).regs = s.regs := rfl
@[simp] theorem setLedger_cnt : (s.setLedger d c i x).cnt = s.cnt := rfl
@[simp] theorem setLedger_host : (s.setLedger d c i x).host = s.host := rfl
@[simp] theorem setLedger_mem : (s.setLedger d c i x).mem = s.mem := rfl
@[simp] theorem setLedger_scrub : (s.setLedger d c i x).scrub = s.scrub := rfl
@[simp] theorem setLedger_dies : (s.setLedger d c i x).dies = s.dies := rfl
@[simp] theorem setLedger_quarters : (s.setLedger d c i x).quarters = s.quarters := rfl
@[simp] theorem setLedger_stalls : (s.setLedger d c i x).stalls = s.stalls := rfl
@[simp] theorem setLedger_arcs : (s.setLedger d c i x).arcs = s.arcs := rfl
@[simp] theorem setLedger_streams : (s.setLedger d c i x).streams = s.streams := rfl
@[simp] theorem setLedger_stores : (s.setLedger d c i x).stores = s.stores := rfl
@[simp] theorem setLedger_rounds : (s.setLedger d c i x).rounds = s.rounds := rfl
@[simp] theorem setLedger_prog : (s.setLedger d c i x).prog = s.prog := rfl
@[simp] theorem setLedger_weights : (s.setLedger d c i x).weights = s.weights := rfl
@[simp] theorem setLedger_red : (s.setLedger d c i x).red = s.red := rfl
@[simp] theorem setLedger_ports : (s.setLedger d c i x).ports = s.ports := rfl
@[simp] theorem setLedger_flows : (s.setLedger d c i x).flows = s.flows := rfl
@[simp] theorem setLedger_bnd : (s.setLedger d c i x).bnd = s.bnd := rfl
@[simp] theorem setLedger_wales : (s.setLedger d c i x).wales = s.wales := rfl
@[simp] theorem setLedger_pwr : (s.setLedger d c i x).pwr = s.pwr := rfl
@[simp] theorem setLedger_shut : (s.setLedger d c i x).shut = s.shut := rfl
@[simp] theorem setLedger_keeper : (s.setLedger d c i x).keeper = s.keeper := rfl
@[simp] theorem setLedger_sec : (s.setLedger d c i x).sec = s.sec := rfl
@[simp] theorem setLedger_meter : (s.setLedger d c i x).meter = s.meter := rfl
@[simp] theorem setLedger_pins : (s.setLedger d c i x).pins = s.pins := rfl

/-- What is written is read. -/
@[simp] theorem setLedger_ledger_same : (s.setLedger d c i x).ledger d c i = x := SMap.get_set_same _ _ _ _

/-! ### setWale -/

@[simp] theorem setWale_pending : (s.setWale w x).pending = s.pending := rfl
@[simp] theorem setWale_out : (s.setWale w x).out = s.out := rfl
@[simp] theorem setWale_free : (s.setWale w x).free = s.free := rfl
@[simp] theorem setWale_regs : (s.setWale w x).regs = s.regs := rfl
@[simp] theorem setWale_cnt : (s.setWale w x).cnt = s.cnt := rfl
@[simp] theorem setWale_host : (s.setWale w x).host = s.host := rfl
@[simp] theorem setWale_mem : (s.setWale w x).mem = s.mem := rfl
@[simp] theorem setWale_scrub : (s.setWale w x).scrub = s.scrub := rfl
@[simp] theorem setWale_dies : (s.setWale w x).dies = s.dies := rfl
@[simp] theorem setWale_quarters : (s.setWale w x).quarters = s.quarters := rfl
@[simp] theorem setWale_stalls : (s.setWale w x).stalls = s.stalls := rfl
@[simp] theorem setWale_arcs : (s.setWale w x).arcs = s.arcs := rfl
@[simp] theorem setWale_streams : (s.setWale w x).streams = s.streams := rfl
@[simp] theorem setWale_stores : (s.setWale w x).stores = s.stores := rfl
@[simp] theorem setWale_rounds : (s.setWale w x).rounds = s.rounds := rfl
@[simp] theorem setWale_prog : (s.setWale w x).prog = s.prog := rfl
@[simp] theorem setWale_weights : (s.setWale w x).weights = s.weights := rfl
@[simp] theorem setWale_red : (s.setWale w x).red = s.red := rfl
@[simp] theorem setWale_ports : (s.setWale w x).ports = s.ports := rfl
@[simp] theorem setWale_flows : (s.setWale w x).flows = s.flows := rfl
@[simp] theorem setWale_bnd : (s.setWale w x).bnd = s.bnd := rfl
@[simp] theorem setWale_ledgers : (s.setWale w x).ledgers = s.ledgers := rfl
@[simp] theorem setWale_pwr : (s.setWale w x).pwr = s.pwr := rfl
@[simp] theorem setWale_shut : (s.setWale w x).shut = s.shut := rfl
@[simp] theorem setWale_keeper : (s.setWale w x).keeper = s.keeper := rfl
@[simp] theorem setWale_sec : (s.setWale w x).sec = s.sec := rfl
@[simp] theorem setWale_meter : (s.setWale w x).meter = s.meter := rfl
@[simp] theorem setWale_pins : (s.setWale w x).pins = s.pins := rfl

/-- What is written is read. -/
@[simp] theorem setWale_wale_same : (s.setWale w x).wale w = x := SMap.get_set_same _ _ _ _

/-! ### setScrubber -/

@[simp] theorem setScrubber_pending : (s.setScrubber d x).pending = s.pending := rfl
@[simp] theorem setScrubber_out : (s.setScrubber d x).out = s.out := rfl
@[simp] theorem setScrubber_free : (s.setScrubber d x).free = s.free := rfl
@[simp] theorem setScrubber_regs : (s.setScrubber d x).regs = s.regs := rfl
@[simp] theorem setScrubber_cnt : (s.setScrubber d x).cnt = s.cnt := rfl
@[simp] theorem setScrubber_host : (s.setScrubber d x).host = s.host := rfl
@[simp] theorem setScrubber_mem : (s.setScrubber d x).mem = s.mem := rfl
@[simp] theorem setScrubber_dies : (s.setScrubber d x).dies = s.dies := rfl
@[simp] theorem setScrubber_quarters : (s.setScrubber d x).quarters = s.quarters := rfl
@[simp] theorem setScrubber_stalls : (s.setScrubber d x).stalls = s.stalls := rfl
@[simp] theorem setScrubber_arcs : (s.setScrubber d x).arcs = s.arcs := rfl
@[simp] theorem setScrubber_streams : (s.setScrubber d x).streams = s.streams := rfl
@[simp] theorem setScrubber_stores : (s.setScrubber d x).stores = s.stores := rfl
@[simp] theorem setScrubber_rounds : (s.setScrubber d x).rounds = s.rounds := rfl
@[simp] theorem setScrubber_prog : (s.setScrubber d x).prog = s.prog := rfl
@[simp] theorem setScrubber_weights : (s.setScrubber d x).weights = s.weights := rfl
@[simp] theorem setScrubber_red : (s.setScrubber d x).red = s.red := rfl
@[simp] theorem setScrubber_ports : (s.setScrubber d x).ports = s.ports := rfl
@[simp] theorem setScrubber_flows : (s.setScrubber d x).flows = s.flows := rfl
@[simp] theorem setScrubber_bnd : (s.setScrubber d x).bnd = s.bnd := rfl
@[simp] theorem setScrubber_ledgers : (s.setScrubber d x).ledgers = s.ledgers := rfl
@[simp] theorem setScrubber_wales : (s.setScrubber d x).wales = s.wales := rfl
@[simp] theorem setScrubber_pwr : (s.setScrubber d x).pwr = s.pwr := rfl
@[simp] theorem setScrubber_shut : (s.setScrubber d x).shut = s.shut := rfl
@[simp] theorem setScrubber_keeper : (s.setScrubber d x).keeper = s.keeper := rfl
@[simp] theorem setScrubber_sec : (s.setScrubber d x).sec = s.sec := rfl
@[simp] theorem setScrubber_meter : (s.setScrubber d x).meter = s.meter := rfl
@[simp] theorem setScrubber_pins : (s.setScrubber d x).pins = s.pins := rfl

/-- What is written is read. -/
@[simp] theorem setScrubber_scrubber_same : (s.setScrubber d x).scrubber d = x := SMap.get_set_same _ _ _ _

/-! ### poke -/

@[simp] theorem poke_pending : (s.poke p o v).pending = s.pending := rfl
@[simp] theorem poke_out : (s.poke p o v).out = s.out := rfl
@[simp] theorem poke_free : (s.poke p o v).free = s.free := rfl
@[simp] theorem poke_cnt : (s.poke p o v).cnt = s.cnt := rfl
@[simp] theorem poke_host : (s.poke p o v).host = s.host := rfl
@[simp] theorem poke_mem : (s.poke p o v).mem = s.mem := rfl
@[simp] theorem poke_scrub : (s.poke p o v).scrub = s.scrub := rfl
@[simp] theorem poke_dies : (s.poke p o v).dies = s.dies := rfl
@[simp] theorem poke_quarters : (s.poke p o v).quarters = s.quarters := rfl
@[simp] theorem poke_stalls : (s.poke p o v).stalls = s.stalls := rfl
@[simp] theorem poke_arcs : (s.poke p o v).arcs = s.arcs := rfl
@[simp] theorem poke_streams : (s.poke p o v).streams = s.streams := rfl
@[simp] theorem poke_stores : (s.poke p o v).stores = s.stores := rfl
@[simp] theorem poke_rounds : (s.poke p o v).rounds = s.rounds := rfl
@[simp] theorem poke_prog : (s.poke p o v).prog = s.prog := rfl
@[simp] theorem poke_weights : (s.poke p o v).weights = s.weights := rfl
@[simp] theorem poke_red : (s.poke p o v).red = s.red := rfl
@[simp] theorem poke_ports : (s.poke p o v).ports = s.ports := rfl
@[simp] theorem poke_flows : (s.poke p o v).flows = s.flows := rfl
@[simp] theorem poke_bnd : (s.poke p o v).bnd = s.bnd := rfl
@[simp] theorem poke_ledgers : (s.poke p o v).ledgers = s.ledgers := rfl
@[simp] theorem poke_wales : (s.poke p o v).wales = s.wales := rfl
@[simp] theorem poke_pwr : (s.poke p o v).pwr = s.pwr := rfl
@[simp] theorem poke_shut : (s.poke p o v).shut = s.shut := rfl
@[simp] theorem poke_keeper : (s.poke p o v).keeper = s.keeper := rfl
@[simp] theorem poke_sec : (s.poke p o v).sec = s.sec := rfl
@[simp] theorem poke_meter : (s.poke p o v).meter = s.meter := rfl
@[simp] theorem poke_pins : (s.poke p o v).pins = s.pins := rfl

/-! ### count -/

@[simp] theorem count_pending : (s.count p i n).pending = s.pending := rfl
@[simp] theorem count_out : (s.count p i n).out = s.out := rfl
@[simp] theorem count_free : (s.count p i n).free = s.free := rfl
@[simp] theorem count_regs : (s.count p i n).regs = s.regs := rfl
@[simp] theorem count_host : (s.count p i n).host = s.host := rfl
@[simp] theorem count_mem : (s.count p i n).mem = s.mem := rfl
@[simp] theorem count_scrub : (s.count p i n).scrub = s.scrub := rfl
@[simp] theorem count_dies : (s.count p i n).dies = s.dies := rfl
@[simp] theorem count_quarters : (s.count p i n).quarters = s.quarters := rfl
@[simp] theorem count_stalls : (s.count p i n).stalls = s.stalls := rfl
@[simp] theorem count_arcs : (s.count p i n).arcs = s.arcs := rfl
@[simp] theorem count_streams : (s.count p i n).streams = s.streams := rfl
@[simp] theorem count_stores : (s.count p i n).stores = s.stores := rfl
@[simp] theorem count_rounds : (s.count p i n).rounds = s.rounds := rfl
@[simp] theorem count_prog : (s.count p i n).prog = s.prog := rfl
@[simp] theorem count_weights : (s.count p i n).weights = s.weights := rfl
@[simp] theorem count_red : (s.count p i n).red = s.red := rfl
@[simp] theorem count_ports : (s.count p i n).ports = s.ports := rfl
@[simp] theorem count_flows : (s.count p i n).flows = s.flows := rfl
@[simp] theorem count_bnd : (s.count p i n).bnd = s.bnd := rfl
@[simp] theorem count_ledgers : (s.count p i n).ledgers = s.ledgers := rfl
@[simp] theorem count_wales : (s.count p i n).wales = s.wales := rfl
@[simp] theorem count_pwr : (s.count p i n).pwr = s.pwr := rfl
@[simp] theorem count_shut : (s.count p i n).shut = s.shut := rfl
@[simp] theorem count_keeper : (s.count p i n).keeper = s.keeper := rfl
@[simp] theorem count_sec : (s.count p i n).sec = s.sec := rfl
@[simp] theorem count_meter : (s.count p i n).meter = s.meter := rfl
@[simp] theorem count_pins : (s.count p i n).pins = s.pins := rfl

/-! ### emit -/

@[simp] theorem emit_pending : (s.emit m).pending = s.pending := rfl
@[simp] theorem emit_free : (s.emit m).free = s.free := rfl
@[simp] theorem emit_regs : (s.emit m).regs = s.regs := rfl
@[simp] theorem emit_cnt : (s.emit m).cnt = s.cnt := rfl
@[simp] theorem emit_host : (s.emit m).host = s.host := rfl
@[simp] theorem emit_mem : (s.emit m).mem = s.mem := rfl
@[simp] theorem emit_scrub : (s.emit m).scrub = s.scrub := rfl
@[simp] theorem emit_dies : (s.emit m).dies = s.dies := rfl
@[simp] theorem emit_quarters : (s.emit m).quarters = s.quarters := rfl
@[simp] theorem emit_stalls : (s.emit m).stalls = s.stalls := rfl
@[simp] theorem emit_arcs : (s.emit m).arcs = s.arcs := rfl
@[simp] theorem emit_streams : (s.emit m).streams = s.streams := rfl
@[simp] theorem emit_stores : (s.emit m).stores = s.stores := rfl
@[simp] theorem emit_rounds : (s.emit m).rounds = s.rounds := rfl
@[simp] theorem emit_prog : (s.emit m).prog = s.prog := rfl
@[simp] theorem emit_weights : (s.emit m).weights = s.weights := rfl
@[simp] theorem emit_red : (s.emit m).red = s.red := rfl
@[simp] theorem emit_ports : (s.emit m).ports = s.ports := rfl
@[simp] theorem emit_flows : (s.emit m).flows = s.flows := rfl
@[simp] theorem emit_bnd : (s.emit m).bnd = s.bnd := rfl
@[simp] theorem emit_ledgers : (s.emit m).ledgers = s.ledgers := rfl
@[simp] theorem emit_wales : (s.emit m).wales = s.wales := rfl
@[simp] theorem emit_pwr : (s.emit m).pwr = s.pwr := rfl
@[simp] theorem emit_shut : (s.emit m).shut = s.shut := rfl
@[simp] theorem emit_keeper : (s.emit m).keeper = s.keeper := rfl
@[simp] theorem emit_sec : (s.emit m).sec = s.sec := rfl
@[simp] theorem emit_meter : (s.emit m).meter = s.meter := rfl
@[simp] theorem emit_pins : (s.emit m).pins = s.pins := rfl

/-! ### freeNext -/

@[simp] theorem freeNext_pending : (s.freeNext).pending = s.pending := rfl
@[simp] theorem freeNext_out : (s.freeNext).out = s.out := rfl
@[simp] theorem freeNext_regs : (s.freeNext).regs = s.regs := rfl
@[simp] theorem freeNext_cnt : (s.freeNext).cnt = s.cnt := rfl
@[simp] theorem freeNext_host : (s.freeNext).host = s.host := rfl
@[simp] theorem freeNext_mem : (s.freeNext).mem = s.mem := rfl
@[simp] theorem freeNext_scrub : (s.freeNext).scrub = s.scrub := rfl
@[simp] theorem freeNext_dies : (s.freeNext).dies = s.dies := rfl
@[simp] theorem freeNext_quarters : (s.freeNext).quarters = s.quarters := rfl
@[simp] theorem freeNext_stalls : (s.freeNext).stalls = s.stalls := rfl
@[simp] theorem freeNext_arcs : (s.freeNext).arcs = s.arcs := rfl
@[simp] theorem freeNext_streams : (s.freeNext).streams = s.streams := rfl
@[simp] theorem freeNext_stores : (s.freeNext).stores = s.stores := rfl
@[simp] theorem freeNext_rounds : (s.freeNext).rounds = s.rounds := rfl
@[simp] theorem freeNext_prog : (s.freeNext).prog = s.prog := rfl
@[simp] theorem freeNext_weights : (s.freeNext).weights = s.weights := rfl
@[simp] theorem freeNext_red : (s.freeNext).red = s.red := rfl
@[simp] theorem freeNext_ports : (s.freeNext).ports = s.ports := rfl
@[simp] theorem freeNext_flows : (s.freeNext).flows = s.flows := rfl
@[simp] theorem freeNext_bnd : (s.freeNext).bnd = s.bnd := rfl
@[simp] theorem freeNext_ledgers : (s.freeNext).ledgers = s.ledgers := rfl
@[simp] theorem freeNext_wales : (s.freeNext).wales = s.wales := rfl
@[simp] theorem freeNext_pwr : (s.freeNext).pwr = s.pwr := rfl
@[simp] theorem freeNext_shut : (s.freeNext).shut = s.shut := rfl
@[simp] theorem freeNext_keeper : (s.freeNext).keeper = s.keeper := rfl
@[simp] theorem freeNext_sec : (s.freeNext).sec = s.sec := rfl
@[simp] theorem freeNext_meter : (s.freeNext).meter = s.meter := rfl
@[simp] theorem freeNext_pins : (s.freeNext).pins = s.pins := rfl

/-! ### putWord -/

@[simp] theorem putWord_pending : (s.putWord w v).pending = s.pending := rfl
@[simp] theorem putWord_out : (s.putWord w v).out = s.out := rfl
@[simp] theorem putWord_free : (s.putWord w v).free = s.free := rfl
@[simp] theorem putWord_regs : (s.putWord w v).regs = s.regs := rfl
@[simp] theorem putWord_cnt : (s.putWord w v).cnt = s.cnt := rfl
@[simp] theorem putWord_host : (s.putWord w v).host = s.host := rfl
@[simp] theorem putWord_scrub : (s.putWord w v).scrub = s.scrub := rfl
@[simp] theorem putWord_dies : (s.putWord w v).dies = s.dies := rfl
@[simp] theorem putWord_quarters : (s.putWord w v).quarters = s.quarters := rfl
@[simp] theorem putWord_stalls : (s.putWord w v).stalls = s.stalls := rfl
@[simp] theorem putWord_arcs : (s.putWord w v).arcs = s.arcs := rfl
@[simp] theorem putWord_streams : (s.putWord w v).streams = s.streams := rfl
@[simp] theorem putWord_stores : (s.putWord w v).stores = s.stores := rfl
@[simp] theorem putWord_rounds : (s.putWord w v).rounds = s.rounds := rfl
@[simp] theorem putWord_prog : (s.putWord w v).prog = s.prog := rfl
@[simp] theorem putWord_weights : (s.putWord w v).weights = s.weights := rfl
@[simp] theorem putWord_red : (s.putWord w v).red = s.red := rfl
@[simp] theorem putWord_ports : (s.putWord w v).ports = s.ports := rfl
@[simp] theorem putWord_flows : (s.putWord w v).flows = s.flows := rfl
@[simp] theorem putWord_bnd : (s.putWord w v).bnd = s.bnd := rfl
@[simp] theorem putWord_ledgers : (s.putWord w v).ledgers = s.ledgers := rfl
@[simp] theorem putWord_wales : (s.putWord w v).wales = s.wales := rfl
@[simp] theorem putWord_pwr : (s.putWord w v).pwr = s.pwr := rfl
@[simp] theorem putWord_shut : (s.putWord w v).shut = s.shut := rfl
@[simp] theorem putWord_keeper : (s.putWord w v).keeper = s.keeper := rfl
@[simp] theorem putWord_sec : (s.putWord w v).sec = s.sec := rfl
@[simp] theorem putWord_meter : (s.putWord w v).meter = s.meter := rfl
@[simp] theorem putWord_pins : (s.putWord w v).pins = s.pins := rfl

/-! ### zeroRange -/

@[simp] theorem zeroRange_pending : (s.zeroRange lo hi).pending = s.pending := rfl
@[simp] theorem zeroRange_out : (s.zeroRange lo hi).out = s.out := rfl
@[simp] theorem zeroRange_free : (s.zeroRange lo hi).free = s.free := rfl
@[simp] theorem zeroRange_regs : (s.zeroRange lo hi).regs = s.regs := rfl
@[simp] theorem zeroRange_cnt : (s.zeroRange lo hi).cnt = s.cnt := rfl
@[simp] theorem zeroRange_host : (s.zeroRange lo hi).host = s.host := rfl
@[simp] theorem zeroRange_scrub : (s.zeroRange lo hi).scrub = s.scrub := rfl
@[simp] theorem zeroRange_dies : (s.zeroRange lo hi).dies = s.dies := rfl
@[simp] theorem zeroRange_quarters : (s.zeroRange lo hi).quarters = s.quarters := rfl
@[simp] theorem zeroRange_stalls : (s.zeroRange lo hi).stalls = s.stalls := rfl
@[simp] theorem zeroRange_arcs : (s.zeroRange lo hi).arcs = s.arcs := rfl
@[simp] theorem zeroRange_streams : (s.zeroRange lo hi).streams = s.streams := rfl
@[simp] theorem zeroRange_stores : (s.zeroRange lo hi).stores = s.stores := rfl
@[simp] theorem zeroRange_rounds : (s.zeroRange lo hi).rounds = s.rounds := rfl
@[simp] theorem zeroRange_prog : (s.zeroRange lo hi).prog = s.prog := rfl
@[simp] theorem zeroRange_weights : (s.zeroRange lo hi).weights = s.weights := rfl
@[simp] theorem zeroRange_red : (s.zeroRange lo hi).red = s.red := rfl
@[simp] theorem zeroRange_ports : (s.zeroRange lo hi).ports = s.ports := rfl
@[simp] theorem zeroRange_flows : (s.zeroRange lo hi).flows = s.flows := rfl
@[simp] theorem zeroRange_bnd : (s.zeroRange lo hi).bnd = s.bnd := rfl
@[simp] theorem zeroRange_ledgers : (s.zeroRange lo hi).ledgers = s.ledgers := rfl
@[simp] theorem zeroRange_wales : (s.zeroRange lo hi).wales = s.wales := rfl
@[simp] theorem zeroRange_pwr : (s.zeroRange lo hi).pwr = s.pwr := rfl
@[simp] theorem zeroRange_shut : (s.zeroRange lo hi).shut = s.shut := rfl
@[simp] theorem zeroRange_keeper : (s.zeroRange lo hi).keeper = s.keeper := rfl
@[simp] theorem zeroRange_sec : (s.zeroRange lo hi).sec = s.sec := rfl
@[simp] theorem zeroRange_meter : (s.zeroRange lo hi).meter = s.meter := rfl
@[simp] theorem zeroRange_pins : (s.zeroRange lo hi).pins = s.pins := rfl

/-! ### The end of a command -/

@[simp] theorem finish_pending : (s.finish t).pending = t.pending := rfl
@[simp] theorem finish_out : (s.finish t).out = t.out := rfl
@[simp] theorem finish_free : (s.finish t).free = t.free := rfl
@[simp] theorem finish_regs : (s.finish t).regs = t.regs := rfl
@[simp] theorem finish_cnt : (s.finish t).cnt = t.cnt := rfl
@[simp] theorem finish_mem : (s.finish t).mem = t.mem := rfl
@[simp] theorem finish_scrub : (s.finish t).scrub = t.scrub := rfl
@[simp] theorem finish_dies : (s.finish t).dies = t.dies := rfl
@[simp] theorem finish_quarters : (s.finish t).quarters = t.quarters := rfl
@[simp] theorem finish_stalls : (s.finish t).stalls = t.stalls := rfl
@[simp] theorem finish_arcs : (s.finish t).arcs = t.arcs := rfl
@[simp] theorem finish_streams : (s.finish t).streams = t.streams := rfl
@[simp] theorem finish_stores : (s.finish t).stores = t.stores := rfl
@[simp] theorem finish_rounds : (s.finish t).rounds = t.rounds := rfl
@[simp] theorem finish_prog : (s.finish t).prog = t.prog := rfl
@[simp] theorem finish_weights : (s.finish t).weights = t.weights := rfl
@[simp] theorem finish_red : (s.finish t).red = t.red := rfl
@[simp] theorem finish_ports : (s.finish t).ports = t.ports := rfl
@[simp] theorem finish_flows : (s.finish t).flows = t.flows := rfl
@[simp] theorem finish_bnd : (s.finish t).bnd = t.bnd := rfl
@[simp] theorem finish_ledgers : (s.finish t).ledgers = t.ledgers := rfl
@[simp] theorem finish_wales : (s.finish t).wales = t.wales := rfl
@[simp] theorem finish_pwr : (s.finish t).pwr = t.pwr := rfl
@[simp] theorem finish_shut : (s.finish t).shut = t.shut := rfl
@[simp] theorem finish_keeper : (s.finish t).keeper = t.keeper := rfl
@[simp] theorem finish_sec : (s.finish t).sec = t.sec := rfl
@[simp] theorem finish_meter : (s.finish t).meter = t.meter := rfl
@[simp] theorem finish_pins : (s.finish t).pins = t.pins := rfl

/-- A command that has its effect answers a next state. -/
theorem ok_next : s.ok t = .next (s.finish t) := rfl

/-! ### Other keys -/

theorem setDie_die_other (h : e ≠ d) : (s.setDie d x).die e = s.die e :=
  SMap.get_set_other _ _ _ h

theorem setIngest_ingest_other (h : e ≠ d) : (s.setIngest d x).ingest e = s.ingest e :=
  SMap.get_set_other _ _ _ h

theorem setBasket_basket_other (h : e ≠ b) : (s.setBasket b x).basket e = s.basket e :=
  SMap.get_set_other _ _ _ h

theorem setPort_port_other (h : e ≠ p) : (s.setPort p x).port e = s.port e :=
  SMap.get_set_other _ _ _ h

theorem setBctx_bctx_other (h : e ≠ c) : (s.setBctx c x).bctx e = s.bctx e :=
  SMap.get_set_other _ _ _ h

theorem setPbundle_pbundle_other (h : e ≠ n) : (s.setPbundle n x).pbundle e = s.pbundle e :=
  SMap.get_set_other _ _ _ h

theorem setWale_wale_other (h : e ≠ w) : (s.setWale w x).wale e = s.wale e :=
  SMap.get_set_other _ _ _ h

theorem setScrubber_scrubber_other (h : e ≠ d) : (s.setScrubber d x).scrubber e = s.scrubber e :=
  SMap.get_set_other _ _ _ h

/-- Counters: what is counted, and that no other counter moves. -/
@[simp] theorem count_counter_same : (s.count p i n).counter p i = s.counter p i + BitVec.ofNat 64 n :=
  SMap.get_set_same _ _ _ _

theorem count_counter_other (h : 4 * q + j ≠ 4 * p + i) : (s.count p i n).counter q j = s.counter q j :=
  SMap.get_set_other _ _ _ h

/-- A register reads as it was set. -/
@[simp] theorem poke_reg_same : (s.poke p o v).reg p o = v := by
  unfold State.reg State.poke
  simp only [SMap.get_set_same]
  split
  · rename_i w h
    split at h
    · cases h
    · exact (Option.some.inj h).symm
  · rename_i h
    split at h
    · rename_i e; exact e.symm
    · cases h

theorem poke_reg_other (h : regKey q r ≠ regKey p o) : (s.poke p o v).reg q r = s.reg q r := by
  unfold State.reg State.poke
  simp only [SMap.get_set_other _ _ _ h]

end Sys2Proof.Machine
end

