-- ==== Sys2Proof/Tests/Slice0.lean ====
section
/-! SUPPORT. Small tests: states and operands that meet the hypotheses of every statement, clause by clause; ill-formed
commands; the spec's worked examples. -/

open Sys2Proof Sys2Proof.Machine

namespace Sys2Proof.Tests

-- one theorem at a time: each kernel evaluation would hold a thread of its own
set_option Elab.async false

/-- A live die with its four quarters, its port and its program running. -/
def up : State :=
  { State.reset with
    dies := [(0, { DieSt.reset with st := .on, trained := true, bell := true })]
    quarters := [(0, { QuarterSt.reset with st := .on, clock := true })]
    ports := [(0, { Port.reset with st := .on, link := 3 })]
    keeper := { Keeper.reset with bring := 8, fwOk := true, phase := 2, locValid := true }
    pwr := { Pwr.reset with input := true, vinOk := true }, host := { HostIf.reset with linkUp := true }
    prog := { Prog.reset with pst := .running, applied := true }
    meter := { Meter.reset with present := true, started := true } }

/-- `up` with a command waiting. -/
def busy : State := { up with pending := [.capdownAssert] }

/-- The state after a step. -/
def after (s : State) : State := match step s with | .next t => t | _ => s

/-- `up` with slot 0 of die 0 as given. -/
def slot0 (x : Stall) : State := up.setSlot 0 0 x

/-- `up` with a word at the head of the stream of slot 0 and the slot as given. -/
def word0 (lo hi : DWord) (x : Stall) : State :=
  (((slot0 { x with cmdIndex := 4 }).putWord 8 ⟨lo, false⟩).putWord 9 ⟨hi, false⟩)

/-- A row of the register tables. -/
def row (k : PageKind) (off : Nat) : RegRow := (regRow k off).getD ⟨0, 0, 0, 0, 0, 0, 0, 0, 0, 0, false⟩

/-- A state with pool 0 of die 0 of 16 free units. -/
def pool0 (s : State) : State :=
  { s with stores := { s.stores with pools := [(0, { first := 0, units := 16, held := [] })] } }

/-- A stream with word 2 of its descriptor, its state and its walk. -/
def strm (w2 : Word) (st : StreamSt) (issued walk : Nat) : Stream :=
  { Stream.reset with desc := [0, 0, w2], st := st, issued := issued, walk := walk }

/-- A wale in service. -/
def waleOn : WaleSt := { WaleSt.reset with st := .on, groupAB := 0xFFFFFFFF, groupBA := 0xFFFFFFFF }

/-- `up` with all 16 mapped stalls of its quarter at HALT. -/
def halt16 (r : Bool) : State :=
  { up with stalls := (List.range 16).map fun i => (i, { Stall.reset with halted := some r }) }

/-- `up` with the other three quarters in service and the other dies out of the grid. -/
def allOn : State :=
  { up with
    dies := (0, { DieSt.reset with st := .on, trained := true, bell := true }) ::
      (List.range 63).map fun i => (i + 1, { DieSt.reset with service := 2 })
    quarters := (List.range 4).map fun q => (q, { QuarterSt.reset with st := .on, clock := true }) }

/-- `up` with LEID 5 and flow 0 of port 0 as given. -/
def net (x : Flow) : State := (up.poke pgAddress 0x044 5).setFlow 0 0 x

/-- A frame of a type for slot `flow` of port 0 from the first peer, with a right checksum. -/
def pkt (type flow length : Nat) (body : List Byte) : Packet :=
  let u := [BitVec.ofNat 8 (16 * type + 1), 0] ++ leBytes 2 flow ++ [0, 0, 0, 0x50, 0, 0, 0, 0] ++
    List.replicate 16 0 ++ leBytes 2 length ++ [0, 0] ++ body
  { srcIp := 0, dstIp := 0, extHdr := false, udpSrc := 0xC5B0, udpDst := 0xC5B0, csum := udpSum 0 0 0xC5B0 0xC5B0 u, udp := u }

/-- A kept STREAM frame of flow 0 of port 0, sent so often, of so many credited bytes. -/
def kept0 (sends bytes : Nat) : Kept :=
  { frame := { port := 0, carrier := 0, sport := 0xC5B0, dstIp := 0, dport := 0xC5B0, dscp := 0, type := 0, flags := 0,
               flow := 0, gen := 0, src := 5, dst := 0, vc := 0, seq := 0, ack := 0, id := 0, offset := 0, length := 64,
               body := .streamB [0, 0, 0, 0, 0, 0, 0, 0] 0 }
    sends := sends, bytes := bytes, xfer := none }

/-- The state after a command. -/
def ran (c : Instr) (s : State) : State := match exec c s with | .next t => t | _ => s

/-- A firmware image of an SVN. -/
def fw (n : Byte) : FwImage := { version := 1, svn := n, raise := false, sigOk := true }

/-- A state with SVN fuse 1 and every firmware bank of SVN `n`. -/
def fused (s : State) (n : Byte) : State :=
  { s with sec := { s.sec with svnFuse := 1 }
           keeper := { s.keeper with banks := [(0, fw n), (1, fw n), (2, fw n), (3, fw n)] } }

/-- `up` whose die 0 boots. -/
def booting (readmit : Bool) : State :=
  { up with dies := [(0, { DieSt.reset with st := .starting, stage := 2, readmit := readmit })] }

/-- An open key offer. -/
def offer0 : Offer := { num := 1, keyId := 2, slot := 15, mask := 1, meas5 := [], meas6 := [], data := [] }

/-- A record of the meter. -/
def rec0 : Record :=
  { flags := 0, seq := 7, startMs := 0, durMs := 0, powerOns := 1, energy := 5, total := 9, power := (1, 1),
    volts := (1, 1), work := 0, ballast := 0, report := none, fw := 0, interval := 60, prev := [], sig := [] }

/-- A work report for SNAP 3. -/
def rep0 (ok : Bool) : WorkReport :=
  { snapSeq := 3, leid := 5, workTotal := 9, ballastTotal := 8, workRem := 0, ballastRem := 0, imageId := 0, serial := 0,
    uptimeMs := 7, phase := 2, pstate := 2, sigOk := ok, sig := [] }

/-! ### The hypotheses of the statements can be met -/

theorem test_witness_EmptyQueueIdles :
    (let s : State := up
    s.pending = []) := by
  decide +kernel

theorem test_witness_QueueTakenInOrder :
    (let s : State := busy
    let t : State := after busy
    step s = .next t) := by
  rfl

theorem test_witness_LedgersStayBalanced :
    (let s : State := busy
    let t : State := after busy
    s.balanced ∧ step s = .next t) := by
  exact ⟨fun _ _ _ => by show Ledger.reset.sum = 0; decide, rfl⟩

theorem test_witness_MemoryStaysCanonical :
    (let s : State := busy
    let t : State := after busy
    s.mem.wf = true ∧ step s = .next t) := by
  exact ⟨by decide +kernel, rfl⟩

theorem test_witness_EnergyTotalNeverFalls :
    (let s : State := busy
    let t : State := after busy
    step s = .next t) := by
  rfl

theorem test_witness_FusesNeverFall :
    (let s : State := busy
    let t : State := after busy
    step s = .next t) := by
  rfl

theorem test_witness_StepNeverAboveCeiling :
    (let s : State := busy
    let t : State := after busy
    s.pwr.within ∧ step s = .next t) := by
  exact ⟨by unfold Pwr.within; decide +kernel, rfl⟩

theorem test_witness_ResetRegisters :
    (let d : Nat := 63
    let p : Nat := 71
    d < 64 ∧ p < 72) ∧
    (let d : Nat := 63
    d < 64) ∧
    (let p : Nat := 63
    p < 64) := by
  refine ⟨?_, ?_, ?_⟩ <;> decide +kernel

theorem test_witness_RegisterWriteTakesRwBits :
    (let s : State := up
    let a : BitVec 26 := 0x7044
    let k : PageKind := .shutter
    let page : Nat := 7
    let off : Nat := 0x44
    let r : RegRow := row .shutter 0x44
    s.reaches a page off ∧ s.plainWrite k page off r ∧ r.rs = 0 ∧ r.w1c = 0 ∧ r.pair = false ∧ regIsHi k off = false ∧ page ≠ pgBundle ∧ page ≠ pgMailbox ∧ k ≠ .scrub) := by
  unfold State.plainWrite State.reaches; decide +kernel

theorem test_witness_PairWritesApplyTogether :
    (let s : State := up
    let a : BitVec 26 := 0xA04C
    let k : PageKind := .program
    let page : Nat := 10
    let off : Nat := 0x4C
    let r : RegRow := row .program 0x4C
    s.reaches a page off ∧ s.plainWrite k page off r ∧ regIsHi k off = true ∧ r.rw ||| r.rs ≠ 0) ∧
    (let s : State := { up with host := { up.host with held := [(0xA04C, some 5)] } }
    let a : BitVec 26 := 0xA048
    let w : Word := 5
    let k : PageKind := .program
    let page : Nat := 10
    let off : Nat := 0x48
    let r : RegRow := row .program 0x48
    let h : RegRow := row .program 0x4C
    s.reaches a page off ∧ s.plainWrite k page off r ∧ r.pair = true ∧ regIsHi k off = false ∧ regRow k (off + 4) = some h ∧ r.rs = 0 ∧ r.w1c = 0 ∧ h.rs = 0 ∧ h.w1c = 0 ∧ h.wo = 0 ∧ page ≠ pgBundle ∧ page ≠ pgMailbox ∧ k ≠ .scrub ∧ SMap.get none s.host.held (regKey page (off + 4)) = some w) := by
  unfold State.plainWrite State.reaches; refine ⟨?_, ?_⟩ <;> decide +kernel

theorem test_witness_W1cWriteClears :
    (let s : State := up
    let a : BitVec 26 := 0x4010
    let k : PageKind := .power
    let page : Nat := 4
    let off : Nat := 0x10
    let r : RegRow := row .power 0x10
    s.reaches a page off ∧ s.plainWrite k page off r ∧ r.w1c ≠ 0 ∧ r.rs = 0 ∧ r.rw = 0 ∧ r.pair = false ∧ regIsHi k off = false) ∧
    (let s : State := up
    let a : BitVec 26 := 0x3064
    let k : PageKind := .ledger
    let page : Nat := 3
    let off : Nat := 0x64
    let r : RegRow := row .ledger 0x64
    s.reaches a page off ∧ s.plainWrite k page off r ∧ r.w1c ≠ 0 ∧ r.rs = 0 ∧ r.rw = 0 ∧ r.pair = false ∧ regIsHi k off = false) := by
  unfold State.plainWrite State.reaches; refine ⟨?_, ?_⟩ <;> decide +kernel

theorem test_witness_RsWriteOnlyStages :
    (let s : State := up.setBctx 0 { BndCtx.reset with st := .open, inEngine := true }
    let a : BitVec 26 := 0x4040
    let k : PageKind := .power
    let page : Nat := 4
    let off : Nat := 0x40
    let r : RegRow := row .power 0x40
    s.reaches a page off ∧ s.plainWrite k page off r ∧ r.rs ≠ 0 ∧ r.rw = 0 ∧ r.w1c = 0 ∧ r.pair = false ∧ regIsHi k off = false ∧ page ≠ pgFlows ∧ (s.bctx 0).st = .open ∧ (s.bctx 0).covers page = true ∧ (s.bctx 0).staged.length < 4096 ∧ (s.bctx 0).staged.all (fun w => !(w.page == page && w.off == off)) = true) ∧
    (let s : State := up
    let a : BitVec 26 := 0x4040
    let k : PageKind := .power
    let page : Nat := 4
    let off : Nat := 0x40
    let r : RegRow := row .power 0x40
    s.reaches a page off ∧ s.plainWrite k page off r ∧ r.rs ≠ 0 ∧ r.rw = 0 ∧ r.w1c = 0 ∧ r.pair = false ∧ regIsHi k off = false ∧ ((∀ c, (s.bctx c).st ≠ .open))) := by
  refine ⟨?_, ?_⟩
  · unfold State.plainWrite State.reaches; decide +kernel
  · exact ⟨by unfold State.reaches; decide +kernel, by unfold State.plainWrite; decide +kernel, by decide +kernel,
      by decide +kernel, by decide +kernel, by decide +kernel, by decide +kernel, fun _ => by show BndCtx.reset.st ≠ .open; decide⟩

theorem test_witness_LoReadLatchesHi :
    (let s : State := up
    let a : BitVec 26 := 0x44
    let k : PageKind := .engineId
    let page : Nat := 0
    let off : Nat := 0x44
    s.reaches a page off ∧ s.readsPage page = true ∧ pageKind page = some k ∧ regIsHi k (off + 4) = true ∧ regIsHi k off = false ∧ ledgerPage page = false ∧ rcBits page off = 0) ∧
    (let s : State := up
    let a : BitVec 26 := 0x48
    let page : Nat := 0
    let off : Nat := 0x48
    s.reaches a page off ∧ s.readsPage page = true ∧ latched page off = true ∧ latched page (off + 4) = false ∧ rcBits page off = 0 ∧ (pageKind page).any (fun k => regIsHi k (off + 4)) = false) := by
  unfold State.reaches; refine ⟨?_, ?_⟩ <;> decide +kernel

theorem test_witness_RcReadClears :
    (let s : State := up
    let a : BitVec 26 := 0x8048
    let k : PageKind := .bell
    let page : Nat := 8
    let off : Nat := 0x48
    s.reaches a page off ∧ s.readsPage page = true ∧ pageKind page = some k ∧ rcBits page off ≠ 0 ∧ regIsHi k off = false ∧ regIsHi k (off + 4) = false ∧ ledgerPage page = false ∧ errPage page = false) := by
  unfold State.reaches; decide +kernel

theorem test_witness_LedgerReadSamples :
    (let s : State := up
    let a : BitVec 26 := 0x3044
    let page : Nat := 3
    s.reaches a page 0x044 ∧ s.readsPage page = true ∧ ledgerPage page = true) := by
  unfold State.reaches; decide +kernel

theorem test_witness_IrregularAccesses :
    (let s : State := { up with host := { up.host with d3hot := true } }
    s.host.linkUp = true ∧ s.host.d3hot = true) ∧
    (let s : State := { up with host := { up.host with d3hot := true } }
    s.host.linkUp = true ∧ s.host.d3hot = true) ∧
    (let s : State := up
    let a : BitVec 26 := 0x7046
    let n : Fin 9 := 2
    s.host.linkUp = true ∧ s.host.d3hot = false ∧ ¬(n = 4 ∧ a.toNat % 4 = 0)) := by
  refine ⟨?_, ?_, ?_⟩ <;> decide +kernel

theorem test_witness_HostReadsFrame :
    (let s : State := { up with host := { up.host with d3hot := true } }
    let t : State := { up with host := { up.host with d3hot := true }, out := [.unsupported 68] }
    let a : BitVec 26 := 0x44
    let n : Fin 9 := 4
    let c : Instr := .loRead 0x44 4
    (c = .loRead a n ∨ c = .rcRead a n ∨ c = .ledgerSampleRead a n) ∧ exec c s = .next t) := by
  exact ⟨Or.inl rfl, rfl⟩

theorem test_witness_PassesIssueInTurn :
    (let s : State := word0 (1 + 2 ^ 30) 0 Stall.reset
    let d : Die := 0
    let l : Stl := 0
    let w : PassWord := passOf (1 + 2 ^ 30)
    let p : Nat := 0
    let u := s.reachHead d l p
    s.headSlot d l (.pass w) = some p ∧ passOk w = true ∧ u.passWaits d p w = false) ∧
    (let s : State := word0 (1 + 2 ^ 30) 0 { Stall.reset with acc0 := { Acc.reset with st := .held } }
    let d : Die := 0
    let l : Stl := 0
    let w : PassWord := passOf (1 + 2 ^ 30)
    let p : Nat := 0
    let u := s.reachHead d l p
    s.headSlot d l (.pass w) = some p ∧ passOk w = true ∧ u.passWaits d p w = true) := by
  refine ⟨?_, ?_⟩ <;> decide +kernel

theorem test_witness_PassCountsSums :
    (let s : State := word0 (1 + 2 ^ 30) 0 { Stall.reset with sums := [9, 0, 0, 0] }
    let d : Die := 0
    let l : Stl := 0
    let w : PassWord := passOf (1 + 2 ^ 30)
    let p : Nat := 0
    let n : Nat := 9
    let u := s.reachHead d l p
    s.headSlot d l (.pass w) = some p ∧ passOk w = true ∧ u.passWaits d p w = false ∧ (u.slot d p).sums[w.sumId.toNat]? = some n ∧ w.sumStart = true) ∧
    (let s : State := word0 1 0 { Stall.reset with sums := [4095, 0, 0, 0] }
    let d : Die := 0
    let l : Stl := 0
    let w : PassWord := passOf 1
    let p : Nat := 0
    let n : Nat := 4095
    let u := s.reachHead d l p
    s.headSlot d l (.pass w) = some p ∧ passOk w = true ∧ u.passWaits d p w = false ∧ (u.slot d p).sums[w.sumId.toNat]? = some n ∧ w.sumStart = false ∧ n < 4096) ∧
    (let s : State := word0 1 0 { Stall.reset with sums := [4096, 0, 0, 0] }
    let d : Die := 0
    let l : Stl := 0
    let w : PassWord := passOf 1
    let p : Nat := 0
    let n : Nat := 4096
    let u := s.reachHead d l p
    s.headSlot d l (.pass w) = some p ∧ passOk w = true ∧ u.passWaits d p w = false ∧ (u.slot d p).sums[w.sumId.toNat]? = some n ∧ w.sumStart = false ∧ n = 4096) := by
  refine ⟨?_, ?_, ?_⟩ <;> decide +kernel

theorem test_witness_StreamWordsIssue :
    (let s : State := word0 2 0 Stall.reset
    let d : Die := 0
    let l : Stl := 0
    let w : DrainWord := { tile := 0, slot := 0 }
    let p : Nat := 0
    let u := s.reachHead d l p
    s.headSlot d l (.drain w) = some p ∧ (u.slot d p).drains.length < 2) ∧
    (let s : State := word0 (3 + 2 ^ 40) 0 Stall.reset
    let d : Die := 0
    let l : Stl := 0
    let w : LoadwWord := { tiles := 1, kind := 0, addr := 0 }
    let p : Nat := 0
    let u := s.reachHead d l p
    s.headSlot d l (.loadw w) = some p ∧ (u.slot d p).priv = none ∧ ((u.slot d p).bank0.st = .free ∨ (u.slot d p).bank1.st = .free)) ∧
    (let s : State := word0 0x107 0 Stall.reset
    let d : Die := 0
    let l : Stl := 0
    let n : Fin 4096 := 1
    let p : Nat := 0
    s.headSlot d l (.bopen n) = some p) ∧
    (let s : State := word0 (11 + 2 ^ 32) 0 { Stall.reset with duty := 16 }
    let d : Die := 0
    let l : Stl := 0
    let n : Word := 1
    let p : Nat := 0
    let u := s.reachHead d l p
    s.headSlot d l (.ballast n.toNat) = some p ∧ u.inWindow d p = false) ∧
    (let s : State := word0 0x10C 0 Stall.reset
    let d : Die := 0
    let l : Stl := 0
    let r : Bool := true
    let p : Nat := 0
    s.headSlot d l (.halt r) = some p) ∧
    (let s : State := word0 0x00C 0 Stall.reset
    let d : Die := 0
    let l : Stl := 0
    let r : Bool := false
    let p : Nat := 0
    s.headSlot d l (.halt r) = some p) := by
  refine ⟨?_, ?_, ?_, ?_, ?_, ?_⟩ <;> decide +kernel

theorem test_witness_SequencedWordsAct :
    (let s : State := word0 0x104 0 Stall.reset
    let d : Die := 0
    let l : Stl := 0
    let w : MarkWord := { countM1 := 0, mark := 1 }
    let p : Nat := 0
    let u := s.reachHead d l p
    s.headSlot d l (.post w) = some p ∧ (u.slot d p).bracket = none ∧ (u.slot d p).written (u.padDrain d p) = true ∧ u.markReqs d w.mark.toNat = [] ∧ u.mark d w.mark.toNat + (w.countM1.toNat + 1) ≤ 65535) ∧
    (let s : State := { word0 0x105 0 Stall.reset with stores := { Stores.reset with marks := [(1, 1)] } }
    let d : Die := 0
    let l : Stl := 0
    let w : MarkWord := { countM1 := 0, mark := 1 }
    let p : Nat := 0
    let u := s.reachHead d l p
    s.headSlot d l (.wait w) = some p ∧ (u.slot d p).waiting.any (·.1 == (u.slot d p).cmdIndex) = false ∧ u.markReqs d w.mark.toNat = [] ∧ w.countM1.toNat + 1 ≤ u.mark d w.mark.toNat ∧ u.slotOf d l = some p) ∧
    (let s : State := word0 0x105 0 Stall.reset
    let d : Die := 0
    let l : Stl := 0
    let w : MarkWord := { countM1 := 0, mark := 1 }
    let p : Nat := 0
    let u := s.reachHead d l p
    s.headSlot d l (.wait w) = some p ∧ (u.slot d p).waiting.any (·.1 == (u.slot d p).cmdIndex) = false ∧ u.markReqs d w.mark.toNat = [] ∧ u.mark d w.mark.toNat < w.countM1.toNat + 1) ∧
    (let s : State := (word0 6 0 Stall.reset).setStream 0 0 0 { Stream.reset with st := .parked }
    let d : Die := 0
    let l : Stl := 0
    let w : RearmWord := { countM1 := 0, first := 0 }
    let p : Nat := 0
    let u := s.reachHead d l p
    s.headSlot d l (.rearm w) = some p ∧ (u.slot d p).bracket = none ∧ u.rearmReady d p w = true) ∧
    (let s : State := (word0 6 0 Stall.reset).setStream 0 0 0 { Stream.reset with st := .parked }
    let d : Die := 0
    let l : Stl := 0
    let w : RearmWord := { countM1 := 0, first := 0 }
    let p : Nat := 0
    let a : Nat := 0
    let b : BitVec 48 := 0
    let u := s.reachHead d l p
    s.headSlot d l (.rearm w) = some p ∧ (u.slot d p).bracket = none ∧ u.rearmReady d p w = true ∧ u.rearmList d p w = [(p, a, b)] ∧ p < 72) ∧
    (let s : State := word0 0x104 0 { Stall.reset with bracket := some { num := 1, void := false, staged := [], ready := false } }
    let d : Die := 0
    let l : Stl := 0
    let c : StagedCmd := .post { countM1 := 0, mark := 1 }
    let i : Instr := .markPost 0 0 { countM1 := 0, mark := 1 }
    let p : Nat := 0
    let b : Bracket := { num := 1, void := false, staged := [], ready := false }
    let u := s.reachHead d l p
    ((∃ w, c = .post w ∧ i = .markPost d l w ∧ s.headSlot d l (.post w) = some p) ∨ (∃ w, c = .rearm w ∧ i = .rearm d l w ∧ s.headSlot d l (.rearm w) = some p)) ∧ (u.slot d p).bracket = some b ∧ b.void = false) ∧
    (let s : State := word0 6 0 { Stall.reset with bracket := some { num := 1, void := false, staged := [], ready := false } }
    let d : Die := 0
    let l : Stl := 0
    let c : StagedCmd := .rearm { countM1 := 0, first := 0 }
    let i : Instr := .rearm 0 0 { countM1 := 0, first := 0 }
    let p : Nat := 0
    let b : Bracket := { num := 1, void := false, staged := [], ready := false }
    let u := s.reachHead d l p
    ((∃ w, c = .post w ∧ i = .markPost d l w ∧ s.headSlot d l (.post w) = some p) ∨ (∃ w, c = .rearm w ∧ i = .rearm d l w ∧ s.headSlot d l (.rearm w) = some p)) ∧ (u.slot d p).bracket = some b ∧ b.void = false) ∧
    (let s : State := word0 0x108 0 { Stall.reset with bracket := some { num := 1, void := false, staged := [], ready := false } }
    let d : Die := 0
    let l : Stl := 0
    let n : Fin 4096 := 1
    let p : Nat := 0
    let b : Bracket := { num := 1, void := false, staged := [], ready := false }
    let u := s.reachHead d l p
    s.headSlot d l (.bclose n) = some p ∧ (u.slot d p).bracket = some b ∧ b.void = false ∧ (b.staged.any StagedCmd.isPost = false ∨ (u.slot d p).written (u.padDrain d p) = true)) ∧
    (let s : State := word0 0x309 0 Stall.reset
    let d : Die := 0
    let l : Stl := 0
    let w : BellWord := { dstAddr := 0, srcAddr := 0, point := 0, op := 0, group := 3 }
    let p : Nat := 0
    let u := s.reachHead d l p
    let v := u.setSlot d p { (u.slot d p).wait .bell with bell := some w, seq := (u.slot d p).seqNow }
    let parts := v.groupOf d l w.group.toNat
    s.headSlot d l (.bell w) = some p ∧ w.group ≠ 0 ∧ u.slotOf d l = some p ∧ parts.all (fun e => v.atBell e w.group) = false) ∧
    (let s : State := ((((word0 0x309 0 Stall.reset).setSlot 0 1 { Stall.reset with bell := some { dstAddr := 0, srcAddr := 0, point := 0, op := 0, group := 3 } }).setSlot 0 2 { Stall.reset with bell := some { dstAddr := 0, srcAddr := 0, point := 0, op := 0, group := 3 } }).setSlot 0 3 { Stall.reset with bell := some { dstAddr := 0, srcAddr := 0, point := 0, op := 0, group := 3 } })
    let d : Die := 0
    let l : Stl := 0
    let w : BellWord := { dstAddr := 0, srcAddr := 0, point := 0, op := 0, group := 3 }
    let p : Nat := 0
    let u := s.reachHead d l p
    let v := u.setSlot d p { (u.slot d p).wait .bell with bell := some w, seq := (u.slot d p).seqNow }
    let parts := v.groupOf d l w.group.toNat
    s.headSlot d l (.bell w) = some p ∧ w.group ≠ 0 ∧ u.slotOf d l = some p ∧ parts.contains (d.val, l.val) = true ∧ parts.all (fun e => v.atBell e w.group) = true ∧ w.op ≠ 1) ∧
    (let s : State := pool0 ((((word0 (10 + 2 ^ 32) 0x100000000 Stall.reset).poke pgReduce 0x400 0x80000000).poke pgReduce 0x404 0x400000).poke pgReduce 0x40C 0x1000)
    let d : Die := 0
    let l : Stl := 0
    let w : PutWord := { kind := 1, addr := 0, tiles := 1, last := false, basket := 0 }
    let p : Nat := 0
    let u := s.reachHead d l p
    s.headSlot d l (.put w) = some p ∧ (u.slot d p).bracket = none ∧ (u.slot d p).refused = false ∧ u.putRefused d l w = false ∧ u.putWaits d w = false) ∧
    (let s : State := pool0 ((((word0 (10 + 2 ^ 32) 0x100000000 { Stall.reset with bracket := some { num := 1, void := false, staged := [], ready := false } }).poke pgReduce 0x400 0x80000000).poke pgReduce 0x404 0x400000).poke pgReduce 0x40C 0x1000)
    let d : Die := 0
    let l : Stl := 0
    let w : PutWord := { kind := 1, addr := 0, tiles := 1, last := false, basket := 0 }
    let p : Nat := 0
    let b : Bracket := { num := 1, void := false, staged := [], ready := false }
    let u := s.reachHead d l p
    s.headSlot d l (.put w) = some p ∧ (u.slot d p).bracket = some b ∧ b.void = false ∧ (u.slot d p).refused = false ∧ u.putRefused d l w = false ∧ u.putWaits d w = false) := by
  refine ⟨?_, ?_, ?_, ?_, ?_, ?_, ?_, ?_, ?_, ?_, ?_, ?_⟩
  · decide +kernel
  · decide +kernel
  · decide +kernel
  · decide +kernel
  · decide +kernel
  · exact ⟨Or.inl ⟨{ countM1 := 0, mark := 1 }, rfl, rfl, by decide +kernel⟩, by decide +kernel, rfl⟩
  · exact ⟨Or.inr ⟨{ countM1 := 0, first := 0 }, rfl, rfl, by decide +kernel⟩, by decide +kernel, rfl⟩
  · decide +kernel
  · decide +kernel
  · decide +kernel
  · decide +kernel
  · decide +kernel

theorem test_witness_TilesAndDutyMove :
    (let s : State := slot0 { Stall.reset with acc0 := { Acc.reset with st := .preload, word := some (passOf (1 + 2 ^ 27)) }, passes := [0] }
    let d : Die := 0
    let l : Stl := 0
    let i : Fin 2 := 0
    let p : Nat := 0
    let w : PassWord := passOf (1 + 2 ^ 27)
    s.onSlot d l = some p ∧ ((s.slot d p).acc i).word = some w ∧ (((s.slot d p).acc i).st = .preload ∨ ((s.slot d p).acc i).st = .replay) ∧ ((s.slot d p).acc i).cells = [] ∧ w.preload ≠ 0) ∧
    (let s : State := slot0 { Stall.reset with acc0 := { Acc.reset with st := .run, word := some (passOf 1), kdone := 1 }, passes := [0] }
    let d : Die := 0
    let l : Stl := 0
    let i : Fin 2 := 0
    let p : Nat := 0
    let w : PassWord := passOf 1
    s.onSlot d l = some p ∧ ((s.slot d p).acc i).word = some w ∧ (((s.slot d p).acc i).st = .run ∨ ((s.slot d p).acc i).st = .replay) ∧ ((s.slot d p).acc i).kdone = w.kp ∧ (s.slot d p).passes.head? = some i) ∧
    (let s : State := slot0 { Stall.reset with acc0 := { Acc.reset with st := .writeback, word := some (passOf 1), wbPend := true } }
    let d : Die := 0
    let l : Stl := 0
    let i : Fin 2 := 0
    let p : Nat := 0
    s.onSlot d l = some p ∧ (s.slot d p).wbReady i = true ∧ ((s.slot d p).acc (other i)).wbRun = false ∧ (((s.slot d p).wbReady (other i) = true → ((s.slot d p).acc i).order ≤ ((s.slot d p).acc (other i)).order))) ∧
    (let s : State := slot0 { Stall.reset with acc0 := { Acc.reset with st := .writeback, word := some (passOf 1), wbPend := true, wbRun := true, cells := zeroCells } }
    let d : Die := 0
    let l : Stl := 0
    let i : Fin 2 := 0
    let p : Nat := 0
    let w : PassWord := passOf 1
    s.onSlot d l = some p ∧ ((s.slot d p).acc i).word = some w ∧ ((s.slot d p).acc i).wbRun = true) ∧
    (let s : State := slot0 { Stall.reset with acc0 := { Acc.reset with st := .held, word := some (passOf 1), cells := zeroCells }, drains := [{ word := { tile := 0, slot := 0 }, started := false, gen := 0, draws := false, at' := 0, shared := false, reads := [], whole := false, left := false, rows := [], counts := [] }] }
    let d : Die := 0
    let l : Stl := 0
    let p : Nat := 0
    let j : DrainJob := { word := { tile := 0, slot := 0 }, started := false, gen := 0, draws := false, at' := 0, shared := false, reads := [], whole := false, left := false, rows := [], counts := [] }
    let r : List DrainJob := []
    s.onSlot d l = some p ∧ (s.slot d p).drains = j :: r ∧ s.drainMay d p (s.chain d p j.word.slot) j = true ∧ j.reads = [] ∧ (s.slot d p).drainNow (s.chain d p j.word.slot) j = drainReads (s.chain d p j.word.slot)) ∧
    (let s : State := slot0 { Stall.reset with acc0 := { Acc.reset with st := .drain, word := some (passOf 1), cells := zeroCells }, drains := [{ word := { tile := 0, slot := 0 }, started := true, gen := 0, draws := false, at' := 0, shared := false, reads := [], whole := true, left := false, rows := [], counts := [] }] }
    let d : Die := 0
    let l : Stl := 0
    let p : Nat := 0
    let j : DrainJob := { word := { tile := 0, slot := 0 }, started := true, gen := 0, draws := false, at' := 0, shared := false, reads := [], whole := true, left := false, rows := [], counts := [] }
    let r : List DrainJob := []
    s.onSlot d l = some p ∧ (s.slot d p).drains = j :: r ∧ j.started = true ∧ j.whole = true ∧ (s.slot d p).drainFree (s.chain d p j.word.slot) = true) ∧
    (let s : State := slot0 { Stall.reset with acc0 := { Acc.reset with st := .replay, word := some (passOf (1 + 2 ^ 27)) }, drains := [{ word := { tile := 0, slot := 0 }, started := true, gen := 0, draws := false, at' := 0, shared := false, reads := [], whole := true, left := false, rows := [], counts := [] }] }
    let d : Die := 0
    let l : Stl := 0
    let p : Nat := 0
    let j : DrainJob := { word := { tile := 0, slot := 0 }, started := true, gen := 0, draws := false, at' := 0, shared := false, reads := [], whole := true, left := false, rows := [], counts := [] }
    let r : List DrainJob := []
    s.onSlot d l = some p ∧ (s.slot d p).drains = j :: r ∧ j.started = true ∧ j.whole = true ∧ (s.slot d p).drainFree (s.chain d p j.word.slot) = false) ∧
    (let s : State := slot0 { Stall.reset with priv := some { addr := 0, kind := 0, tiles := 1, consumed := 0, again := [] } }
    let d : Die := 0
    let l : Stl := 0
    let b : Fin 2 := 0
    let p : Nat := 0
    let n : Nat := 0
    let k : Byte := 0
    let q : PrivSeq := { addr := 0, kind := 0, tiles := 1, consumed := 0, again := [] }
    s.onSlot d l = some p ∧ (s.slot d p).priv = some q ∧ q.todo[(if (s.slot d p).bank0.priv then 1 else 0) + (if (s.slot d p).bank1.priv then 1 else 0)]? = some (n, k) ∧ (s.slot d p).privBank q b = true ∧ (s.slot d p).replaysShared = false) ∧
    (let s : State := slot0 { Stall.reset with gap := true, duty := 16 }
    let d : Die := 0
    let l : Stl := 0
    let p : Nat := 0
    let x := s.slot d p
    s.onSlot d l = some p ∧ x.gap = true ∧ x.dutySt ≠ .falling) ∧
    (let s : State := slot0 { Stall.reset with gap := true, duty := 1, dutySt := .falling }
    let d : Die := 0
    let l : Stl := 0
    let p : Nat := 0
    let x := s.slot d p
    s.onSlot d l = some p ∧ x.gap = true ∧ x.dutySt = .falling ∧ 0 < x.duty) ∧
    (let s : State := slot0 { Stall.reset with duty := 15, dutySt := .rising }
    let d : Die := 0
    let l : Stl := 0
    let p : Nat := 0
    let x := s.slot d p
    s.onSlot d l = some p ∧ x.dutySt = .rising ∧ x.duty < 16) := by
  refine ⟨?_, ?_, ?_, ?_, ?_, ?_, ?_, ?_, ?_, ?_, ?_⟩ <;> decide +kernel

theorem test_witness_SteelyardChecksDecide :
    (let s : State := (slot0 { Stall.reset with acc0 := { Acc.reset with st := .check, word := some (passOf 1), cells := zeroCells, lanes := zeroLanes } }).poke (pgStall 0 0) rStyCtl 0x80141214
    let d : Die := 0
    let l : Stl := 0
    let i : Fin 2 := 0
    let err : List CellErr := []
    let p : Nat := 0
    let w : PassWord := passOf 1
    let c : Instr := .steelyardCheck 0 0 0 []
    s.onSlot d l = some p ∧ ((s.slot d p).acc i).word = some w ∧ ((s.slot d p).acc i).st = .check ∧ c = (if ((s.slot d p).acc i).failed then .replayedPassCheck d l i err else .steelyardCheck d l i err) ∧ ((err.foldl Acc.withErr ((s.slot d p).acc i)).firstFail (s.reg (pgStall d p) rStyCtl) w) = none) ∧
    (let s : State := slot0 { Stall.reset with acc0 := { Acc.reset with st := .check, word := some (passOf 1), cells := zeroCells, lanes := zeroLanes } }
    let d : Die := 0
    let l : Stl := 0
    let i : Fin 2 := 0
    let err : List CellErr := [{ row := 0, col := 64, val := 0x3F80000000 }]
    let p : Nat := 0
    let w : PassWord := passOf 1
    let f : Bool × Nat := (false, 0)
    s.onSlot d l = some p ∧ ((s.slot d p).acc i).word = some w ∧ ((s.slot d p).acc i).st = .check ∧ ((s.slot d p).acc i).failed = false ∧ ((err.foldl Acc.withErr ((s.slot d p).acc i)).firstFail (s.reg (pgStall d p) rStyCtl) w) = some f ∧ (s.slot d p).strikes + 1 ≤ s.regField (pgStall d p) rStyLimit 7 0) ∧
    (let s : State := slot0 { Stall.reset with acc0 := { Acc.reset with st := .check, word := some (passOf 1), cells := zeroCells, lanes := zeroLanes }, winOpen := true, strikes := 3 }
    let d : Die := 0
    let l : Stl := 0
    let i : Fin 2 := 0
    let err : List CellErr := [{ row := 0, col := 64, val := 0x3F80000000 }]
    let p : Nat := 0
    let w : PassWord := passOf 1
    let f : Bool × Nat := (false, 0)
    s.onSlot d l = some p ∧ ((s.slot d p).acc i).word = some w ∧ ((s.slot d p).acc i).st = .check ∧ ((s.slot d p).acc i).failed = false ∧ ((err.foldl Acc.withErr ((s.slot d p).acc i)).firstFail (s.reg (pgStall d p) rStyCtl) w) = some f ∧ (s.slot d p).strikes + 1 ≤ s.regField (pgStall d p) rStyLimit 7 0) ∧
    (let s : State := slot0 { Stall.reset with acc0 := { Acc.reset with st := .check, word := some (passOf 1), cells := zeroCells, lanes := zeroLanes, failed := true } }
    let d : Die := 0
    let l : Stl := 0
    let i : Fin 2 := 0
    let err : List CellErr := [{ row := 0, col := 64, val := 0x3F80000000 }]
    let p : Nat := 0
    let w : PassWord := passOf 1
    let f : Bool × Nat := (false, 0)
    let c : Instr := .replayedPassCheck 0 0 0 [{ row := 0, col := 64, val := 0x3F80000000 }]
    s.onSlot d l = some p ∧ ((s.slot d p).acc i).word = some w ∧ ((s.slot d p).acc i).st = .check ∧ ((err.foldl Acc.withErr ((s.slot d p).acc i)).firstFail (s.reg (pgStall d p) rStyCtl) w) = some f ∧ ((((s.slot d p).acc i).failed = true ∧ c = .replayedPassCheck d l i err) ∨ (((s.slot d p).acc i).failed = false ∧ c = .steelyardCheck d l i err ∧ s.regField (pgStall d p) rStyLimit 7 0 < (s.slot d p).strikes + 1))) ∧
    (let s : State := slot0 { Stall.reset with acc0 := { Acc.reset with st := .check, word := some (passOf 1), cells := zeroCells, lanes := zeroLanes }, winOpen := true, strikes := 4 }
    let d : Die := 0
    let l : Stl := 0
    let i : Fin 2 := 0
    let err : List CellErr := [{ row := 0, col := 64, val := 0x3F80000000 }]
    let p : Nat := 0
    let w : PassWord := passOf 1
    let f : Bool × Nat := (false, 0)
    let c : Instr := .steelyardCheck 0 0 0 [{ row := 0, col := 64, val := 0x3F80000000 }]
    s.onSlot d l = some p ∧ ((s.slot d p).acc i).word = some w ∧ ((s.slot d p).acc i).st = .check ∧ ((err.foldl Acc.withErr ((s.slot d p).acc i)).firstFail (s.reg (pgStall d p) rStyCtl) w) = some f ∧ ((((s.slot d p).acc i).failed = true ∧ c = .replayedPassCheck d l i err) ∨ (((s.slot d p).acc i).failed = false ∧ c = .steelyardCheck d l i err ∧ s.regField (pgStall d p) rStyLimit 7 0 < (s.slot d p).strikes + 1))) ∧
    (let s : State := slot0 { Stall.reset with winOpen := true, strikes := 2 }
    let d : Die := 0
    let l : Stl := 0
    let p : Nat := 0
    s.slotOf d l = some p ∧ (s.slot d p).winOpen = true) := by
  refine ⟨?_, ?_, ?_, ?_, ?_, ?_⟩ <;> decide +kernel

theorem test_witness_ArcadeTilesMove :
    (let s : State := up.setStream 0 72 0 (strm 0x3000000 .run 0 1)
    let d : Die := 0
    let q : Qtr := 0
    let a : Qtr := 0
    let b : Fin 2 := 0
    (s.arc d q a).replay = [] ∧ s.inStep d = true ∧ s.bcastFree d q a b = true ∧ (s.stream d 72 (arcStream q a)).role = roleBcast ∧ s.mayIssue d 72 (arcStream q a) = true ∧ (s.stream d 72 (arcStream q a)).atGate = false ∧ s.atLimit d 72 (arcStream q a) = false) ∧
    (let s : State := ((((up).setSlot 0 0 { Stall.reset with bank0 := { Bank.reset with st := .filling } }).setSlot 0 1 { Stall.reset with bank0 := { Bank.reset with st := .filling } }).setSlot 0 2 { Stall.reset with bank0 := { Bank.reset with st := .filling } }).setSlot 0 3 { Stall.reset with bank0 := { Bank.reset with st := .filling } }
    let d : Die := 0
    let q : Qtr := 0
    let a : Qtr := 0
    let b : Fin 2 := 0
    s.membersOn d q a = true ∧ ((∀ e ∈ s.members d q a, ((s.slot d e.2).bank b).st = .filling))) ∧
    (let s : State := ((((up).setSlot 0 0 { Stall.reset with bank0 := { Bank.reset with st := .full }, acc0 := { Acc.reset with st := .run, word := some (passOf 1), cells := zeroCells }, passes := [0] }).setSlot 0 1 { Stall.reset with bank0 := { Bank.reset with st := .full }, acc0 := { Acc.reset with st := .run, word := some (passOf 1), cells := zeroCells }, passes := [0] }).setSlot 0 2 { Stall.reset with bank0 := { Bank.reset with st := .full }, acc0 := { Acc.reset with st := .run, word := some (passOf 1), cells := zeroCells }, passes := [0] }).setSlot 0 3 { Stall.reset with bank0 := { Bank.reset with st := .full }, acc0 := { Acc.reset with st := .run, word := some (passOf 1), cells := zeroCells }, passes := [0] }
    let d : Die := 0
    let q : Qtr := 0
    let a : Qtr := 0
    let b : Fin 2 := 0
    let n : Nat := 0
    let rs : List Nat := [0, 1, 2, 3]
    (s.arc d q a).replay = [] ∧ s.windowFor d q a b = some (n, rs)) ∧
    (let s : State := (((((up).setSlot 0 0 { Stall.reset with bank0 := { Bank.reset with st := .inUse } }).setSlot 0 1 { Stall.reset with bank0 := { Bank.reset with st := .inUse } }).setSlot 0 2 { Stall.reset with bank0 := { Bank.reset with st := .inUse } }).setSlot 0 3 { Stall.reset with bank0 := { Bank.reset with st := .inUse } }).setArc 0 0 0 { Arcade.reset with window := some 0, next := 1 }
    let d : Die := 0
    let q : Qtr := 0
    let a : Qtr := 0
    let b : Fin 2 := 0
    s.membersOn d q a = true ∧ (s.arc d q a).window = some b ∧ (s.arc d q a).winAgain = false) ∧
    (let s : State := slot0 { Stall.reset with bank0 := { Bank.reset with st := .inUse, priv := true } }
    let d : Die := 0
    let q : Qtr := 0
    let a : Qtr := 0
    let m : Fin 4 := 0
    let b : Fin 2 := 0
    let p : Nat := 0
    s.onSlot d (16 * q + 4 * a + m) = some p ∧ ((s.slot d p).bank b).st = .inUse ∧ ((s.slot d p).bank b).priv = true) ∧
    (let s : State := up.setArc 0 0 0 { Arcade.reset with held := [{ num := 0, addr := 2 ^ 40, done := true }], consumed := 1, next := 1 }
    let d : Die := 0
    let q : Qtr := 0
    let a : Qtr := 0
    let n : Nat := 0
    let h : HeldTile := { num := 0, addr := 2 ^ 40, done := true }
    (s.arc d q a).held.find? (·.num == n) = some h ∧ h.done = true ∧ s.dieLive d = true ∧ ((∀ e ∈ s.members d q a, (s.slot d e.2).needsTile n = false))) := by
  refine ⟨?_, ?_, ?_, ?_, ?_, ?_⟩ <;> decide +kernel

theorem test_witness_StallFrames :
    (let c : Instr := .styWindowExpiry 0 0
    let s : State := slot0 { Stall.reset with winOpen := true }
    let t : State := slot0 Stall.reset
    stallOnly c = true ∧ exec c s = .next t) ∧
    (let c : Instr := .preloadDone 0 0 0
    let s : State := slot0 { Stall.reset with acc0 := { Acc.reset with st := .preload, word := some (passOf (1 + 2 ^ 27)) }, passes := [0] }
    let t : State := ran (.preloadDone 0 0 0) (slot0 { Stall.reset with acc0 := { Acc.reset with st := .preload, word := some (passOf (1 + 2 ^ 27)) }, passes := [0] })
    stallData c = true ∧ exec c s = .next t) ∧
    (let s : State := slot0 { Stall.reset with fetched := true }
    let d : Nat := 0
    let p : Nat := 0
    (s.slot d p).fetched = true) := by
  refine ⟨?_, ?_, ?_⟩
  · exact ⟨rfl, rfl⟩
  · exact ⟨rfl, rfl⟩
  · decide +kernel

theorem test_witness_TransfersAndRounds :
    (let s : State := up.setStream 0 72 0 (strm 0 .run 0 1)
    let d : Die := 0
    let u : Fin 73 := 72
    let st : Fin 256 := 0
    s.mayIssue d u st = true ∧ ((s.stream d u st).role = roleLoad ∨ (s.stream d u st).role = roleStore) ∧ (s.stream d u st).atGate = false ∧ s.atLimit d u st = false ∧ s.hasTurn d u st = true) ∧
    (let s : State := up.setStream 0 72 0 (strm 0x1000000 .limited 0 1)
    let d : Die := 0
    let u : Fin 73 := 72
    let st : Fin 256 := 0
    s.mayIssue d u st = true ∧ ((s.stream d u st).role = roleLoad ∨ (s.stream d u st).role = roleStore) ∧ (s.stream d u st).atGate = false ∧ s.atLimit d u st = false ∧ s.hasTurn d u st = true) ∧
    (let s : State := up.setStream 0 0 0 { strm 0 .run 32 33 with out := List.replicate 32 { t := 0, words := [] } }
    let d : Die := 0
    let u : Fin 73 := 0
    let st : Fin 256 := 0
    s.mayIssue d u st = true ∧ s.roleReady d u st = true ∧ (s.stream d u st).atGate = false ∧ s.atLimit d u st = true) ∧
    (let s : State := up.setStream 0 72 0 { strm 0 .run 1 1 with out := [{ t := 0, words := [{ val := 1, poison := false }] }] }
    let d : Die := 0
    let u : Fin 73 := 72
    let st : Fin 256 := 0
    let n : Nat := 0
    let k : Nat := 0
    let x : Xfer := { t := 0, words := [{ val := 1, poison := false }] }
    (s.stream d u st).out.find? (·.t == n) = some x ∧ s.dieLive d = true ∧ (s.stream d u st).role = roleLoad ∧ s.resolve ((s.stream d u st).far n) = some k ∧ s.lostKey (some k) = false ∧ s.lostKey (some ((s.stream d u st).ring d u n)) = false) ∧
    (let s : State := (up.poke (pgRound 0) 0x060 0x01000100).setRoundCtx 0 0 { RoundCtx.reset with st := .running, ready := .granted }
    let d : Die := 0
    let c : Qtr := 0
    s.roundMay d c = true ∧ (s.roundCtx d c).taken < s.ownItems d c ∧ (s.roundCtx d c).ready = .granted) ∧
    (let s : State := (((State.poke { (up.poke (pgRound 0) 0x060 0x01000100) with rounds := { Rounds.reset with path := [0, 1] } } (pgRound 1) 0x060 0x100).setWale 0 waleOn).setRoundCtx 0 0 { RoundCtx.reset with st := .running, taken := 1, credits := [(0, 1)] }).setRoundCtx 1 0 { RoundCtx.reset with st := .running, rnd := 0 }
    let d : Die := 0
    let c : Qtr := 0
    s.roundMay d c = true ∧ (s.roundCtx d c).busy = false ∧ (s.roundCtx d c).fwd < s.arrived d c ∧ (s.roundCtx d c).fwd < s.itemsForward d c ∧ s.hopUp d (s.pathSucc d) = true ∧ s.credited d c = true) ∧
    (let s : State := State.setWale { up with rounds := { Rounds.reset with path := [0, 1], transit := [{ src := 1, dst := 0, ctx := 0, k := 0, tag := none }] } } 0 waleOn
    let d : Die := 0
    let c : Qtr := 0
    let x : Transit := { src := 1, dst := 0, ctx := 0, k := 0, tag := none }
    s.rounds.transit.find? (fun t => t.dst == d.val && t.ctx == c.val) = some x ∧ s.itemHere x = true ∧ s.dieLive d = true) ∧
    (let s : State := (up.poke (pgRound 0) 0x060 0x01000100).setRoundCtx 0 0 { RoundCtx.reset with st := .running, taken := 1, release := .granted }
    let d : Die := 0
    let c : Qtr := 0
    s.atWork = true ∧ s.dieLive d = true ∧ (s.roundCtx d c).st = .running ∧ (s.roundCtx d c).released < s.arrived d c ∧ (s.roundCtx d c).release = .granted) ∧
    (let s : State := up.setRoundCtx 0 0 { RoundCtx.reset with st := .running, coming := [(0, 1)] }
    let d : Die := 0
    let c : Qtr := 0
    let r : Nat := 0
    let n : Nat := 1
    let m : SMap Nat := []
    (s.roundCtx d c).coming = (r, n) :: m ∧ (s.roundCtx d c).rnd ≤ r) := by
  refine ⟨?_, ?_, ?_, ?_, ?_, ?_, ?_, ?_, ?_⟩ <;> decide +kernel

theorem test_witness_StreamRoundFrame :
    (let c : Instr := .transferIssue 0 72 0
    let s : State := up.setStream 0 72 0 (strm 0 .run 0 1)
    let t : State := ran (.transferIssue 0 72 0) (up.setStream 0 72 0 (strm 0 .run 0 1))
    streamRound c = true ∧ exec c s = .next t) := by
  exact ⟨rfl, rfl⟩

theorem test_witness_ProgramsCheckAndRun :
    (let s : State := up
    s.prog.check ≠ .busy ∧ s.takesWrites pgProgram = true) ∧
    (let s : State := { up with dies := [], prog := { up.prog with check := .busy } }
    s.prog.check = .busy ∧ s.asleep = false ∧ s.noAdoption ∧ ((∀ d : Nat, d < 64 → s.checkDie s.prog.checkDir.toNat d = none))) ∧
    (let s : State := { up with prog := { up.prog with check := .busy } }
    let d : Die := 0
    let f : Found := { code := 2, stall := 0xFF, sect := 0xF, index := 0 }
    s.prog.check = .busy ∧ s.asleep = false ∧ s.noAdoption ∧ s.checkDie s.prog.checkDir.toNat d = some f) ∧
    (let s : State := { up with prog := { up.prog with loadReq := true } }
    s.prog.loadReq = true ∧ s.asleep = false ∧ s.noAdoption) ∧
    (let s : State := State.poke { allOn with prog := { allOn.prog with runReq := true, pst := .ready } } pgProgram 0x040 1
    s.prog.runReq = true ∧ s.prog.loadReq = false ∧ s.remapping = false ∧ (s.reg pgProgram 0x040).getLsbD 0 = true ∧ (s.prog.pst = .ready ∨ s.prog.pst = .stepHold) ∧ s.allQuartersOn = true) ∧
    (let s : State := State.poke { allOn with prog := { allOn.prog with runReq := true, pst := .stepHold } } pgProgram 0x040 1
    s.prog.runReq = true ∧ s.prog.loadReq = false ∧ s.remapping = false ∧ (s.reg pgProgram 0x040).getLsbD 0 = true ∧ (s.prog.pst = .ready ∨ s.prog.pst = .stepHold) ∧ s.allQuartersOn = true) ∧
    (let s : State := { up with prog := { up.prog with runReq := true, pst := .ready } }
    s.prog.runReq = true ∧ s.prog.loadReq = false ∧ s.remapping = false ∧ s.allQuartersOn = false) ∧
    (let s : State := up
    s.takesWrites pgProgram = true ∧ s.noAdoption) ∧
    (let s : State := halt16 true
    s.prog.pst = .running ∧ s.prog.breaches = [] ∧ s.allAtHalt true = true ∧ s.settled = true ∧ s.leftDies = [] ∧ s.noAdoption) ∧
    (let s : State := State.poke { allOn with stalls := (List.range 64).map fun i => (i, { Stall.reset with halted := some true }) } pgProgram 0x040 1
    s.prog.pst = .running ∧ s.prog.breaches = [] ∧ s.allAtHalt true = true ∧ s.settled = true ∧ s.leftDies = [] ∧ s.noAdoption) ∧
    (let s : State := halt16 false
    s.prog.pst = .running ∧ s.prog.breaches = [] ∧ s.allAtHalt false = true ∧ s.noAdoption) := by
  unfold State.noAdoption; refine ⟨?_, ?_, ?_, ?_, ?_, ?_, ?_, ?_, ?_, ?_, ?_⟩ <;> decide +kernel

theorem test_witness_BreachesReplay :
    (let s : State := slot0 { Stall.reset with waiting := [(0, .pass)] }
    let d : Die := 0
    let l : Stl := 0
    s.prog.pst = .running ∧ s.stallOn d l = true ∧ s.inBudget d l ≠ []) ∧
    (let s : State := { up with prog := { up.prog with breaches := [{ code := 0x0302, die := 0, stall := 0, agent := 0, index := 0 }], replays := 1 } }
    let b : Breach := { code := 0x0302, die := 0, stall := 0, agent := 0, index := 0 }
    let r : List Breach := []
    s.prog.breaches = b :: r ∧ s.prog.pst = .running ∧ s.mayNotReplay = false) ∧
    (let s : State := { up with prog := { up.prog with breaches := [{ code := 0x0302, die := 63, stall := 63, agent := 0, index := 0 }, { code := 0x0302, die := 0, stall := 1, agent := 0, index := 0 }, { code := 0x0302, die := 0, stall := 0, agent := 0, index := 0 }], replays := 2 } }
    let b : Breach := { code := 0x0302, die := 63, stall := 63, agent := 0, index := 0 }
    let r : List Breach := [{ code := 0x0302, die := 0, stall := 1, agent := 0, index := 0 }, { code := 0x0302, die := 0, stall := 0, agent := 0, index := 0 }]
    s.prog.breaches = b :: r ∧ s.prog.pst = .running ∧ s.mayNotReplay = false) ∧
    (let s : State := { up with prog := { up.prog with breaches := [{ code := 0x0302, die := 0, stall := 0, agent := 0, index := 0 }], noReplay := true } }
    s.prog.breaches ≠ [] ∧ s.prog.pst = .running ∧ s.mayNotReplay = true) ∧
    (let s : State := { up with prog := { up.prog with breaches := [{ code := 0x0302, die := 63, stall := 63, agent := 0, index := 0 }, { code := 0x0302, die := 0, stall := 0, agent := 0, index := 0 }], pst := .halted } }
    let b : Breach := { code := 0x0302, die := 63, stall := 63, agent := 0, index := 0 }
    let r : List Breach := [{ code := 0x0302, die := 0, stall := 0, agent := 0, index := 0 }]
    s.prog.breaches = b :: r ∧ s.prog.pst = .halted) ∧
    (let s : State := { up with prog := { up.prog with pst := .replay, replaying := true } }
    s.prog.pst = .replay ∧ s.prog.replaying = true ∧ s.quiet = true ∧ s.mayNotReplay = false ∧ s.remapsDone = true) ∧
    (let s : State := { up with prog := { up.prog with pst := .replay, replaying := true, remap := true } }
    s.prog.pst = .replay ∧ s.prog.replaying = true ∧ s.quiet = true ∧ s.mayNotReplay = false ∧ s.remapsDone = true) := by
  refine ⟨?_, ?_, ?_, ?_, ?_, ?_, ?_⟩ <;> decide +kernel

theorem test_witness_WalksFetchAndKeysErase :
    (let s : State := (State.setFetch ((net { Flow.reset with st := .open }).poke (pgDecrypt 0) 0x100 0x80000000) 0 0 { Fetch.reset with st := .fetching, due := true, reqLen := 64 }).setKeySlot 0 0 { KeySlot.reset with valid := true }
    let d : Die := 0
    let e : Fin 32 := 0
    s.fetchReady d e = true ∧ (s.feKeySlot d e).valid = true ∧ (s.port d).kept + 72 ≤ retryBytes) ∧
    (let s : State := State.setPort (State.setFetch ((net { Flow.reset with st := .open }).poke (pgDecrypt 0) 0x100 0x80000000) 0 0 { Fetch.reset with st := .fetching, due := true, reqLen := 64 }) 0 { up.port 0 with kept := retryBytes }
    let d : Die := 0
    let e : Fin 32 := 0
    s.fetchReady d e = true ∧ retryBytes < (s.port d).kept + 72) ∧
    (let s : State := State.setFetch ((net { Flow.reset with st := .open }).poke (pgDecrypt 0) 0x100 0x80000000) 0 0 { Fetch.reset with st := .fetching, due := true, reqLen := 64 }
    let d : Die := 0
    let e : Fin 32 := 0
    s.fetchReady d e = true ∧ (s.feKeySlot d e).valid = false ∧ (s.port d).kept + 72 ≤ retryBytes) ∧
    (let s : State := State.setFetch ((net { Flow.reset with st := .open }).poke (pgDecrypt 0) 0x100 0x80000000) 0 0 { Fetch.reset with st := .fetching, due := true, reqLen := 64, fails := 1 }
    let d : Die := 0
    let e : Fin 32 := 0
    s.fetchReady d e = true ∧ (s.feKeySlot d e).valid = false ∧ (s.port d).kept + 72 ≤ retryBytes) ∧
    (let s : State := up.setFetch 0 0 { Fetch.reset with st := .refetch, sent := true }
    let d : Die := 0
    let e : Fin 32 := 0
    (s.fetch d e).sent = true ∧ ((s.fetch d e).st = .fetching ∨ (s.fetch d e).st = .refetch) ∧ s.budgetBroken = false ∧ s.prog.pst = .running) ∧
    (let s : State := up.setFetch 63 31 { Fetch.reset with st := .fetching, sent := true }
    let d : Die := 63
    let e : Fin 32 := 31
    (s.fetch d e).sent = true ∧ ((s.fetch d e).st = .fetching ∨ (s.fetch d e).st = .refetch) ∧ s.budgetBroken = false ∧ s.prog.pst = .running) ∧
    (let s : State := (up.setKeySlot 0 0 { KeySlot.reset with valid := true }).setKeySlot 0 15 { KeySlot.reset with valid := true }
    let d : Die := 0
    s.takesWrites (pgDecrypt d) = true) ∧
    (let s : State := State.setKeySlot { up with prog := Prog.reset } 0 15 { KeySlot.reset with valid := true, pending := true }
    s.running = false) := by
  refine ⟨?_, ?_, ?_, ?_, ?_, ?_, ?_, ?_⟩ <;> decide +kernel

theorem test_witness_WeightFrameReachesWalk :
    (let s : State := net { Flow.reset with st := .open, limitIn := 64 }
    let p : Die := 0
    let k : Packet := pkt 0 0 64 (List.replicate 96 0)
    s.takesV0 p k 0 ∧ s.rxWindow p k.hdr k.hdr.length.toNat = true ∧ (s.flow p k.hdr.flow.toNat).st = .open ∧ (s.flow p k.hdr.flow.toNat).got.contains k.hdr.seq = false) ∧
    (let s : State := net { Flow.reset with st := .open, limitIn := 64 }
    let p : Die := 0
    let k : Packet := pkt 0 0 64 (List.replicate 96 0)
    let h := k.hdr
    let u := ((s.crossBuddy p (s.carrier p) k.udp.length).count (pgPort p) 1).takeSeq p h.flow.toNat h.seq h.length.toNat
    s.takesV0 p k 0 ∧ s.rxWindow p k.hdr k.hdr.length.toNat = true ∧ (s.flow p k.hdr.flow.toNat).st = .open ∧ (s.flow p k.hdr.flow.toNat).got.contains k.hdr.seq = false ∧ u.fetchOf p h.flow.toNat k.weightB.fetchTag = none) ∧
    (let s : State := net { Flow.reset with st := .open, limitIn := 64, got := [0] }
    let p : Die := 0
    let k : Packet := pkt 0 0 64 (List.replicate 96 0)
    s.takesV0 p k 0 ∧ s.rxWindow p k.hdr k.hdr.length.toNat = true ∧ (s.flow p k.hdr.flow.toNat).st = .open ∧ (s.flow p k.hdr.flow.toNat).got.contains k.hdr.seq = true) := by
  unfold State.takesV0; refine ⟨?_, ?_, ?_⟩ <;> decide +kernel

theorem test_witness_BasketsReduce :
    (let s : State := (halt16 true).poke pgReduce 0x400 0x80000000
    let d : Die := 0
    let b : Fin 128 := 0
    s.collectMay d = true ∧ s.dieIsReady d b = true ∧ (s.bkDest b ≠ 0 ∨ s.bkLocal b = 0)) ∧
    (let s : State := (up.poke pgReduce 0x04C 0).setDieBasket 0 0 { DieBasket.reset with st := .ready }
    let d : Die := 0
    let b : Fin 128 := 0
    let n : Nat := 7
    s.readyComing d b = true ∧ s.held pgReduce = false ∧ (s.basket b).decided = false ∧ (s.reg pgReduce 0x04C = 0 ∨ n < (s.reg pgReduce 0x04C).toNat)) ∧
    (let s : State := up.setDieBasket 0 0 { DieBasket.reset with st := .ready }
    let d : Die := 0
    let b : Fin 128 := 0
    let n : Nat := 179999
    s.readyComing d b = true ∧ s.held pgReduce = false ∧ (s.basket b).decided = false ∧ (s.reg pgReduce 0x04C = 0 ∨ n < (s.reg pgReduce 0x04C).toNat)) ∧
    (let s : State := up.setBasket 0 { EngBasket.reset with window := true, arrived := [(0, 0)] }
    let b : Fin 128 := 0
    (s.basket b).window = true ∧ (s.basket b).decided = false ∧ s.held pgReduce = false) ∧
    (let s : State := up.setBasket 0 { EngBasket.reset with decided := true, included := 1 }
    let d : Die := 0
    let b : Fin 128 := 0
    (s.basket b).decided = true ∧ (s.basket b).received.contains d.val = false ∧ s.collectMay d = true) ∧
    (let s : State := up.setBasket 0 { EngBasket.reset with decided := true, included := 2 }
    let d : Die := 0
    let b : Fin 128 := 0
    (s.basket b).decided = true ∧ (s.basket b).received.contains d.val = false ∧ s.collectMay d = true) ∧
    (let s : State := up.setLevel 0 1 { Level.reset with chunks := [(0, 0)], credits := 1 }
    let d : Die := 0
    let k : Fin 6 := 1
    let b : Fin 128 := 0
    let c : Nat × Nat := (0, 0)
    s.collectMay d = true ∧ s.levelChunk d k b = some c ∧ (s.meshServe d 2 (s.chunkBytes c.1 c.2)).2 = true) ∧
    (let s : State := up.setDieBasket 0 0 { DieBasket.reset with st := .sending, owned := [(0, 0, [], false)] }
    let d : Die := 0
    let k : Fin 6 := 5
    let b : Fin 128 := 0
    let c : Nat × Nat := (0, 0)
    s.collectMay d = true ∧ s.levelChunk d k b = some c ∧ (s.meshServe d 2 (s.chunkBytes c.1 c.2)).2 = true) ∧
    (let s : State := up.setLevel 0 0 { Level.reset with busy := some (0, 0) }
    let d : Die := 0
    let k : Fin 6 := 0
    let b : Fin 128 := 0
    let c : Nat × Nat := (0, 0)
    (s.level d k).busy = some c ∧ c.1 = b.val ∧ s.dieLive d = true) ∧
    (let s : State := up.setLevel 0 5 { Level.reset with busy := some (0, 0) }
    let d : Die := 0
    let k : Fin 6 := 5
    let b : Fin 128 := 0
    let c : Nat × Nat := (0, 0)
    (s.level d k).busy = some c ∧ c.1 = b.val ∧ s.dieLive d = true) ∧
    (let s : State := up.setLevel 0 2 { Level.reset with busy := some (0, 0) }
    let d : Die := 0
    let k : Fin 6 := 2
    let b : Fin 128 := 0
    let c : Nat × Nat := (0, 0)
    (s.level d k).busy = some c ∧ c.1 = b.val ∧ s.dieLive d = true) ∧
    (let s : State := (((up.poke pgReduce 0x400 0x80000000).poke pgReduce 0x404 0x400000).setBasket 0 { EngBasket.reset with decided := true, included := 1 }).setDieBasket 0 0 { DieBasket.reset with st := .reducing, engStart := 2, engDone := 2 }
    let b : Fin 128 := 0
    s.stageReady b = true ∧ s.held pgReduce = false ∧ ((∀ d ∈ bitsOf (s.basket b).included, s.held (pgCollect d) = false))) ∧
    (let s : State := (up.setLevel 0 3 { Level.reset with rose := 4 })
    let d : Die := 0
    s.dieLive d = true) := by
  refine ⟨?_, ?_, ?_, ?_, ?_, ?_, ?_, ?_, ?_, ?_, ?_, ?_, ?_⟩ <;> decide +kernel

theorem test_witness_PortsCountAndMove :
    (let s : State := up
    let p : Die := 0
    s.portTakes p = true) ∧
    (let s : State := up
    let p : Die := 0
    s.linkOn p = true) ∧
    (let s : State := up
    let p : Die := 0
    s.linkOn p = true ∧ s.carrier p = p.val) ∧
    (let s : State := ((up.setDie 1 { DieSt.reset with st := .on }).poke pgSpareMap 0x04C 2).poke (pgPort 1) 0x044 7
    let p : Die := 0
    s.linkOn p = true ∧ s.carrier (p.val ^^^ 1) = p.val ∧ s.dieOut (p.val ^^^ 1) = false ∧ s.portIp p ≠ s.portIp (p.val ^^^ 1)) ∧
    (let s : State := up
    let p : Die := 0
    s.linkOn p = true) ∧
    (let s : State := up.setPort 0 { Port.reset with st := .starting }
    let p : Die := 0
    ((s.port p).st = .on ∨ (s.port p).st = .starting ∨ (s.port p).st = .draining) ∧ s.dieOut p = false ∧ (s.port p).link ≠ 3) ∧
    (let s : State := up.setPort 0 { Port.reset with st := .on }
    let p : Die := 0
    ((s.port p).st = .on ∨ (s.port p).st = .starting ∨ (s.port p).st = .draining) ∧ s.dieOut p = false ∧ (s.port p).link ≠ 3) ∧
    (let s : State := up.setPort 0 { Port.reset with st := .draining }
    let p : Die := 0
    ((s.port p).st = .on ∨ (s.port p).st = .starting ∨ (s.port p).st = .draining) ∧ s.dieOut p = false ∧ (s.port p).link ≠ 3) ∧
    (let s : State := ((up.setDie 1 { DieSt.reset with st := .on }).setPort 0 { Port.reset with st := .on }).setPort 1 { Port.reset with st := .on, link := 3 }
    let p : Die := 0
    (s.port p).st = .on ∧ s.dieOut p = false ∧ (s.port p).link ≠ 3 ∧ s.carrier p = p.val ∧ (s.regPair pgSpareMap 0x04C).getLsbD (p.val ^^^ 1) = false ∧ s.dieOut (p.val ^^^ 1) = false ∧ (s.port (p.val ^^^ 1)).link = 3 ∧ (s.port (p.val ^^^ 1)).st = .on ∧ ((∀ c, (s.bctx c).live = false))) := by
  refine ⟨?_, ?_, ?_, ?_, ?_, ?_, ?_, ?_, ?_⟩
  · decide +kernel
  · decide +kernel
  · decide +kernel
  · decide +kernel
  · decide +kernel
  · decide +kernel
  · decide +kernel
  · decide +kernel
  · exact ⟨by decide +kernel, by decide +kernel, by decide +kernel, by decide +kernel, by decide +kernel, by decide +kernel, by decide +kernel, by decide +kernel, fun _ => rfl⟩

theorem test_witness_FlowsOpenAndClose :
    (let s : State := net Flow.reset
    let p : Die := 0
    let k : Packet := pkt 4 0xFFFF 0 ([3, 0, 1, 0, 9, 0, 0, 0, 64] ++ List.replicate 23 0)
    let f : Nat := 0
    s.rxMay p k.hdr = true ∧ s.rxOuter p k.hdr = none ∧ k.hdr.type = 4 ∧ k.mode = 0 ∧ k.hdr.flow = 0xFFFF ∧ s.shuttered = false ∧ s.freeSlot p = some f) ∧
    (let s : State := net { Flow.reset with st := .opening }
    let p : Die := 0
    let k : Packet := pkt 4 0 0 ([3, 0, 1, 1, 9, 0, 0, 0, 64] ++ List.replicate 23 0)
    s.takesV0 p k 4 ∧ k.mode ≠ 0 ∧ (s.flow p k.hdr.flow.toNat).st = .opening) ∧
    (let s : State := net { Flow.reset with st := .opening }
    let p : Die := 0
    let k : Packet := pkt 6 0 0 (1 :: List.replicate 7 0)
    s.takesV0 p k 6 ∧ (s.flow p k.hdr.flow.toNat).st = .opening) ∧
    (let s : State := net { Flow.reset with st := .open }
    let p : Die := 0
    let k : Packet := pkt 5 0 0 (1 :: List.replicate 31 0)
    s.takesV0 p k 5 ∧ (s.flow p k.hdr.flow.toNat).st = .open) ∧
    (let s : State := net { Flow.reset with st := .open, kept := [kept0 1 64] }
    let p : Die := 0
    let k : Packet := pkt 5 0 0 ([0, 0, 0, 0, 5] ++ List.replicate 27 0)
    s.takesV0 p k 5 ∧ (s.flow p k.hdr.flow.toNat).st = .open) ∧
    (let s : State := net { Flow.reset with st := .open, limitOut := 64 }
    let p : Die := 0
    let k : Packet := pkt 3 0 0 (65 :: List.replicate 15 0)
    s.takesV0 p k 3 ∧ (s.flow p k.hdr.flow.toNat).st = .open ∧ (s.flow p k.hdr.flow.toNat).limitOut.toNat < k.limit.toNat) ∧
    (let s : State := net { Flow.reset with st := .open, kept := [kept0 1 64] }
    let p : Die := 0
    let k : Packet := pkt 7 0 0 ([0, 1, 0, 0, 0, 0, 0, 0, 0, 0, 0, 0, 1, 0, 0, 0])
    s.takesV0 p k 7 ∧ (s.flow p k.hdr.flow.toNat).st = .open ∧ (s.flow p k.hdr.flow.toNat).lost = false ∧ k.nackB.reason = 0) := by
  unfold State.takesV0; refine ⟨?_, ?_, ?_, ?_, ?_, ?_, ?_⟩ <;> decide +kernel

theorem test_witness_FlowsSendAndTime :
    (let s : State := net { Flow.reset with openReq := true }
    let p : Die := 0
    let f : Fin 1024 := 0
    (s.flow p f).openReq = true ∧ s.keeper.leidReq = false ∧ (s.flow p f).st = .free ∧ (s.flow p f).eligible = true) ∧
    (let s : State := net { Flow.reset with eligible := false }
    let p : Die := 0
    let f : Fin 1024 := 0
    (s.flow p f).eligible = false ∧ (s.flow p f).openWait = false) ∧
    (let s : State := net { Flow.reset with st := .open, closeReq := true }
    let p : Die := 0
    let f : Fin 1024 := 0
    (s.flow p f).closeReq = true ∧ (s.flow p f).openReq = false ∧ (s.flow p f).st = .open) ∧
    (let s : State := net { Flow.reset with st := .open, queue := [kept0 0 64], limitOut := 64 }
    let p : Die := 0
    let f : Fin 1024 := 0
    let k : Kept := kept0 0 64
    let r : List Kept := []
    let d : Drr := (((net { Flow.reset with st := .open, queue := [kept0 0 64], limitOut := 64 }).egressPick 0 0 (frameBytes (kept0 0 64).frame)).getD (0, Drr.reset)).2
    let i := k.frame.egressClass (s.carrier p == p.val)
    (s.flow p f).queue = k :: r ∧ s.egressMay p f = true ∧ s.egressFits p f k = true ∧ s.egressPick (s.carrier p) i (frameBytes k.frame) = some (i, d)) ∧
    (let s : State := net { Flow.reset with st := .open, queue := [kept0 0 65], limitOut := 64 }
    let p : Die := 0
    let f : Fin 1024 := 0
    let k : Kept := kept0 0 65
    let r : List Kept := []
    (s.flow p f).queue = k :: r ∧ s.egressMay p f = true ∧ s.egressFits p f k = false) ∧
    (let s : State := net { Flow.reset with kept := [kept0 1 64], queue := [kept0 0 64] }
    let p : Nat := 0
    let f : Nat := 0
    s.takesWrites pgFlows = true ∧ p = s.regField pgFlows 0x040 15 10 ∧ f = s.regField pgFlows 0x040 9 0 ∧ (s.flow p f).st = .free) ∧
    (let s : State := net { Flow.reset with st := .opening, openSends := 9 }
    let p : Die := 0
    let f : Fin 1024 := 0
    s.timersRun p = true ∧ (s.flow p f).st = .opening ∧ s.retryMax p < (s.flow p f).openSends) ∧
    (let s : State := net { Flow.reset with st := .opening, openSends := 8 }
    let p : Die := 0
    let f : Fin 1024 := 0
    s.timersRun p = true ∧ (s.flow p f).st = .opening ∧ (s.flow p f).openSends ≤ s.retryMax p) ∧
    (let s : State := net { Flow.reset with st := .open, kept := [kept0 9 64] }
    let p : Die := 0
    let f : Fin 1024 := 0
    let k : Kept := kept0 9 64
    let r : List Kept := []
    s.timersRun p = true ∧ (s.flow p f).st = .open ∧ (s.flow p f).lost = false ∧ (s.flow p f).kept = k :: r ∧ s.retryMax p < k.sends) ∧
    (let s : State := net { Flow.reset with st := .open, kept := [kept0 8 64] }
    let p : Die := 0
    let f : Fin 1024 := 0
    let k : Kept := kept0 8 64
    let r : List Kept := []
    s.timersRun p = true ∧ (s.flow p f).st = .open ∧ (s.flow p f).lost = false ∧ (s.flow p f).kept = k :: r ∧ k.sends ≤ s.retryMax p) ∧
    (let s : State := net { Flow.reset with st := .open }
    let p : Die := 0
    let f : Fin 1024 := 0
    ((s.flow p f).st = .open ∨ (s.flow p f).st = .closing) ∧ s.portUp p = true) ∧
    (let s : State := net { Flow.reset with st := .closing, got := [5] }
    let p : Die := 0
    let f : Fin 1024 := 0
    ((s.flow p f).st = .open ∨ (s.flow p f).st = .closing) ∧ s.portUp p = true) ∧
    (let s : State := net { Flow.reset with st := .closing, limitIn := 64 }
    let p : Die := 0
    let f : Fin 1024 := 0
    (s.flow p f).st = .closing) ∧
    (let s : State := { net { Flow.reset with st := .open } with shut := { Shut.reset with st := .shuttered } }
    let p : Die := 0
    s.shuttered = true ∧ s.portUp p = true ∧ s.leid ≠ 0 ∧ s.keeper.withdrawn = false) := by
  refine ⟨?_, ?_, ?_, ?_, ?_, ?_, ?_, ?_, ?_, ?_, ?_, ?_, ?_, ?_⟩ <;> decide +kernel

theorem test_witness_HostBundleCommands :
    (let s : State := up
    let e : Bool := true
    s.takesWrites pgBundle = true ∧ s.bndSel < 4 ∧ ((∀ c, (s.bctx c).live = false)) ∧ (e = true ∨ (∃ d ∈ s.liveDies, (s.bctx s.bndSel).scope.getLsbD d = true))) ∧
    (let s : State := up.setBctx 0 { BndCtx.reset with scope := 1 }
    let e : Bool := false
    s.takesWrites pgBundle = true ∧ s.bndSel < 4 ∧ ((∀ c, (s.bctx c).live = false)) ∧ (e = true ∨ (∃ d ∈ s.liveDies, (s.bctx s.bndSel).scope.getLsbD d = true))) ∧
    (let s : State := up.setBctx 0 { BndCtx.reset with st := .open }
    s.takesWrites pgBundle = true ∧ s.bndSel < 4 ∧ (s.bctx s.bndSel).st = .open) ∧
    (let s : State := up.setBctx 0 { BndCtx.reset with st := .open, mark := 3 }
    s.takesWrites pgBundle = true ∧ s.bndSel < 4 ∧ (s.bctx s.bndSel).st = .open) ∧
    (let s : State := up.setBctx 0 { BndCtx.reset with st := .open, staged := [{ page := 4, off := 0x40, val := 9000, slot := 0 }] }
    s.takesWrites pgBundle = true ∧ s.bndSel < 4 ∧ (s.bctx s.bndSel).live = true ∧ (s.bctx s.bndSel).applySent = false) ∧
    (let s : State := up.setBctx 0 { BndCtx.reset with st := .preparing }
    s.takesWrites pgBundle = true ∧ s.bndSel < 4 ∧ (s.bctx s.bndSel).live = true ∧ (s.bctx s.bndSel).applySent = false) := by
  refine ⟨?_, ?_, ?_, ?_, ?_, ?_⟩
  · exact ⟨by decide +kernel, by decide +kernel, fun _ => rfl, Or.inl rfl⟩
  · exact ⟨by decide +kernel, by decide +kernel, fun c => by cases c <;> rfl, by decide +kernel⟩
  · decide +kernel
  · decide +kernel
  · decide +kernel
  · decide +kernel

theorem test_witness_CommitsArePhased :
    (let s : State := up.setBctx 0 { BndCtx.reset with st := .preparing, inScope := 1 }
    let c : Fin 6 := 0
    let p : Fin 65 := 0
    s.prepares c p = true) ∧
    (let s : State := up.setBctx 0 { BndCtx.reset with st := .preparing, inEngine := true, staged := [{ page := 4, off := 0x40, val := 9000, slot := 0 }] }
    let c : Fin 6 := 0
    let p : Fin 65 := 64
    s.prepares c p = true) ∧
    (let s : State := up.setBctx 0 { BndCtx.reset with st := .preparing, inEngine := true, parts := [(64, .prepared)], staged := [{ page := 4, off := 0x40, val := 9000, slot := 0 }] }
    let c : Fin 6 := 0
    let p : Fin 65 := 64
    let g : Fin 16384 := 4
    (s.bctx c).st = .preparing ∧ (s.bctx c).part p = .prepared ∧ (s.partPages (s.bctx c) p).contains g.val = true ∧ (s.bctx c).blocks.contains g.val = false ∧ s.atHoldPoint (s.bctx c) g = true) ∧
    (let s : State := up.setBctx 0 { BndCtx.reset with st := .preparing, inEngine := true, parts := [(64, .prepared)], blocks := [4], staged := [{ page := 4, off := 0x40, val := 9000, slot := 0 }] }
    let c : Fin 6 := 0
    let p : Fin 65 := 64
    (s.bctx c).st = .preparing ∧ (s.bctx c).applySent = false ∧ (s.bctx c).part p = .prepared ∧ ((∀ g ∈ s.partPages (s.bctx c) p, g ∈ (s.bctx c).blocks ∧ g ∉ (s.bctx c).faults))) ∧
    (let s : State := up.setBctx 0 { BndCtx.reset with st := .preparing, inEngine := true, parts := [(0, .ready), (64, .prepared)], blocks := [4], staged := [{ page := 4, off := 0x40, val := 9000, slot := 0 }] }
    let c : Fin 6 := 0
    let p : Fin 65 := 64
    (s.bctx c).st = .preparing ∧ (s.bctx c).applySent = false ∧ (s.bctx c).part p = .prepared ∧ ((∀ g ∈ s.partPages (s.bctx c) p, g ∈ (s.bctx c).blocks ∧ g ∉ (s.bctx c).faults))) ∧
    (let s : State := up.setBctx 0 { BndCtx.reset with st := .preparing, inScope := 1, reason := 1, parts := [(0, .nak)] }
    let c : Fin 6 := 0
    let p : Fin 65 := 0
    (s.bctx c).st = .preparing ∧ (s.bctx c).applySent = false ∧ (s.bctx c).part p = .nak) ∧
    (let s : State := up.setBctx 0 { BndCtx.reset with st := .preparing, inScope := 1, applySent := true, parts := [(0, .ready)] }
    let c : Fin 6 := 0
    let p : Fin 65 := 0
    (s.bctx c).applySent = true ∧ (s.bctx c).part p = .ready) ∧
    (let s : State := up.setBctx 0 { BndCtx.reset with st := .preparing, inEngine := true, applySent := true, parts := [(0, .ready), (64, .ready)], blocks := [4], staged := [{ page := 4, off := 0x40, val := 9000, slot := 0 }] }
    let c : Fin 6 := 0
    let p : Fin 65 := 64
    (s.bctx c).applySent = true ∧ (s.bctx c).part p = .ready) ∧
    (let s : State := up.setBctx 0 { BndCtx.reset with st := .aborted, inScope := 1, parts := [(0, .ready)] }
    let c : Fin 6 := 0
    let p : Fin 65 := 0
    (s.bctx c).st = .aborted ∧ (s.bctx c).part p ≠ .none ∧ (s.bctx c).part p ≠ .dropped) ∧
    (let s : State := up.setBctx 0 { BndCtx.reset with st := .preparing, inScope := 1 }
    let c : Fin 6 := 0
    (s.bctx c).st = .preparing ∧ (s.bctx c).applySent = false) ∧
    (let s : State := ((slot0 { Stall.reset with bracket := some { num := 2, void := false, staged := [], ready := true } }).putWord 4 ⟨1, false⟩).putWord 5 ⟨1, false⟩
    let n : Fin 4096 := 2
    let p : Fin 65 := 0
    s.pbDieReady n p = true) ∧
    (let s : State := up.setPbundle 2 { PBundle.reset with applySent := true, dies := [0] }
    let n : Fin 4096 := 2
    let p : Fin 65 := 0
    (s.pbundle n).applySent = true ∧ (s.pbundle n).dies.contains p.val = true ∧ (s.pbundle n).applied.contains p.val = false ∧ s.dieLive p = true ∧ s.pbParked p n = true) ∧
    (let s : State := up.setPbundle 2 { PBundle.reset with window := true, dies := [0] }
    let n : Fin 4096 := 2
    (s.pbundle n).window = true ∧ (s.pbundle n).applySent = false) := by
  refine ⟨?_, ?_, ?_, ?_, ?_, ?_, ?_, ?_, ?_, ?_, ?_, ?_, ?_⟩ <;> decide +kernel

theorem test_witness_LedgerChecksHold :
    (let s : State := up
    let d : Die := 0
    let l : LedgerRef := { cls := 7, idx := 63 }
    l.idx.val < ledgerCount l.cls.val ∧ (l.cls.val = 7 ∨ s.dieLive d = true) ∧ (s.ledger (if l.cls.val = 7 then 0 else d.val) l.cls.val l.idx.val).sum = 0) ∧
    (let s : State := up
    let d : Die := 0
    let l : LedgerRef := { cls := 6, idx := 73 }
    l.idx.val < ledgerCount l.cls.val ∧ (l.cls.val = 7 ∨ s.dieLive d = true) ∧ (s.ledger (if l.cls.val = 7 then 0 else d.val) l.cls.val l.idx.val).sum = 0) ∧
    (let s : State := up
    let d : Die := 0
    let l : LedgerRef := { cls := 0, idx := 3 }
    l.idx.val < ledgerCount l.cls.val ∧ (l.cls.val = 7 ∨ s.dieLive d = true) ∧ (s.ledger (if l.cls.val = 7 then 0 else d.val) l.cls.val l.idx.val).sum = 0) ∧
    (let s : State := up.setLedger 0 7 63 { Ledger.reset with issued := 1 }
    let l : LedgerRef := { cls := 7, idx := 63 }
    l.cls.val = 7 ∧ l.idx.val < 64 ∧ (s.ledger 0 7 l.idx.val).sum ≠ 0) := by
  refine ⟨?_, ?_, ?_, ?_⟩ <;> decide +kernel

theorem test_witness_PoisonedWordWrites :
    (let s : State := { up with mem := { up.mem with poison := [(0, true)] } }
    let w : Nat := 0
    let i : Nat := 0
    let l : List Byte := [1, 2, 3, 4, 5, 6, 7, 8]
    s.wordPoison w = true ∧ 0 < l.length ∧ i + l.length ≤ 8 ∧ l.length = 8) ∧
    (let s : State := { up with mem := { up.mem with poison := [(0, true)] } }
    let w : Nat := 0
    let i : Nat := 1
    let l : List Byte := [1, 2, 3, 4, 5, 6, 7]
    s.wordPoison w = true ∧ 0 < l.length ∧ i + l.length ≤ 8 ∧ l.length < 8) := by
  refine ⟨?_, ?_⟩ <;> decide +kernel

theorem test_witness_FaultsAreRecorded :
    (let s : State := up
    let page : Nat := pgPower
    let code : Nat := 0x0702
    256 ≤ code ∧ code < 2816 ∧ ((isDiePage page = true → s.dieOut (pageDie page) = false ∨ page = pgDieHealth (pageDie page)))) ∧
    (let s : State := up.poke (pgDieHealth 0) rFault 0x01010002
    let page : Nat := pgDieHealth 0
    let code : Nat := 2815
    256 ≤ code ∧ code < 2816 ∧ ((isDiePage page = true → s.dieOut (pageDie page) = false ∨ page = pgDieHealth (pageDie page)))) ∧
    (let s : State := up.poke pgPower rFault 0x07020080
    let a : BitVec 26 := 0x4010
    let k : PageKind := .power
    let page : Nat := 4
    s.reaches a page rFault ∧ s.takesWrites page = true ∧ pageKind page = some k) ∧
    (let s : State := up.poke pgPower rFault 0x07020082
    let a : BitVec 26 := 0x4010
    let k : PageKind := .power
    let page : Nat := 4
    s.reaches a page rFault ∧ s.takesWrites page = true ∧ pageKind page = some k) := by
  unfold State.reaches; refine ⟨?_, ?_, ?_, ?_⟩ <;> decide +kernel

theorem test_witness_DiesGoAndReturn :
    (let s : State := { up with dies := [(0, { DieSt.reset with st := .on, bell := true, missed := 6 })] }
    let m : DWord := 0
    5 ≤ s.keeper.bring ∧ ((∀ d, d < 64 → (s.die d).bell = true → m.getLsbD d = false → (s.die d).missed < 7))) ∧
    (let s : State := { up with dies := [(0, { DieSt.reset with st := .on, bell := true, missed := 7 })] }
    let m : DWord := 1
    5 ≤ s.keeper.bring ∧ ((∀ d, d < 64 → (s.die d).bell = true → m.getLsbD d = false → (s.die d).missed < 7))) ∧
    (let s : State := { up with dies := [(0, { DieSt.reset with st := .on, bell := true, missed := 7 })] }
    let m : DWord := 0
    let d : Die := 0
    5 ≤ s.keeper.bring ∧ (s.die d).bell = true ∧ m.getLsbD d = false ∧ (s.die d).missed = 7) ∧
    (let s : State := up.setQuarter 0 0 { QuarterSt.reset with st := .on, clock := true, remapOf := some 0, slots := List.replicate 16 .mapped ++ [.testing, .spare] }
    let d : Die := 0
    let p : Slot := 64
    let l : Nat := 0
    s.slotState d p = .testing ∧ (s.quarter d (slotQuarter p)).remapOf = some l ∧ s.spareOf d (slotQuarter p) ≠ none) ∧
    (let s : State := up.setQuarter 0 0 { QuarterSt.reset with st := .on, clock := true, remapOf := some 0, slots := (.faulted :: List.replicate 15 .mapped) ++ [.testing, .spare] }
    let d : Die := 0
    let p : Slot := 64
    let l : Nat := 0
    let old : Nat := 0
    s.slotState d p = .testing ∧ (s.quarter d (slotQuarter p)).remapOf = some l ∧ s.slotOf d l = some old ∧ s.slotState d old = .faulted ∧ s.unitOut d old = 0 ∧ (s.slot d old).noReplay = true) ∧
    (let s : State := ({ up with prog := Prog.reset }).setBctx 0 { BndCtx.reset with st := .preparing, inEngine := true, applySent := true, staged := [{ page := pgSpareMap, off := 0x54, val := 0x80000040, slot := 0 }], parts := [(0, .applied), (64, .applied)] }
    let c : Nat := 0
    let d : Nat := 0
    let l : Nat := 0
    let p : Nat := 64
    let old : Nat := 0
    let v : Word := 0x80000040
    s.remapCtx = some c ∧ (s.bctx c).remaps = some v ∧ s.running = false ∧ d = fieldOf v 21 16 ∧ l = fieldOf v 13 8 ∧ p = fieldOf v 6 0 ∧ s.dieLive d = true ∧ s.slotOf d l = some old ∧ s.slotState d p = .spare ∧ slotQuarter p = l / 16) ∧
    (let s : State := { up with keeper := { up.keeper with outReq := 1 } }
    let d : Die := 0
    s.keeper.outReq.getLsbD d = true ∧ s.dieOut d = false) ∧
    (let s : State := { up with keeper := { up.keeper with inReq := 1 }, prog := Prog.reset, dies := [(0, { DieSt.reset with st := .faulted, service := 2 })] }
    let d : Die := 0
    s.keeper.inReq.getLsbD d = true ∧ s.dieOut d = true ∧ (s.die d).st ≠ .starting ∧ s.running = false) ∧
    (let s : State := { up with keeper := { up.keeper with moveReq := 1 } }
    let p : Die := 0
    s.keeper.moveReq.getLsbD p = true) := by
  refine ⟨?_, ?_, ?_, ?_, ?_, ?_, ?_, ?_, ?_⟩ <;> decide +kernel

theorem test_witness_WaleLanesAreRepaired :
    (let s : State := up.setWale 0 waleOn
    let w : WaleIx := 0
    let b : Dir := false
    let g : Fin 32 := 0
    s.groupOn w b g = true ∧ (s.wale w).hold.contains (b, g.val) = false) ∧
    (let s : State := up.setWale 0 { waleOn with hold := [(false, 0)] }
    let w : WaleIx := 0
    let b : Dir := false
    let g : Fin 32 := 0
    (s.wale w).hold.contains (b, g.val) = true) ∧
    (let s : State := (up.setWale 0 waleOn).setLane (laneKey 0 false 0 31) 63
    let w : WaleIx := 0
    let b : Dir := false
    let g : Fin 32 := 0
    let x : Fin 33 := 31
    let k := laneKey w b g x
    s.groupOn w b g = true ∧ (x.val < 32 ∨ ((s.wale w).spares b).getLsbD g = true) ∧ (s.keeper.repairs.any fun r => r.kind == 3 && r.unit == w.val && r.lane == laneCode b g x) = false ∧ SMap.get 0 s.wales.lane k + 1 ≤ s.regField (pgWale w) 0x058 15 0) ∧
    (let s : State := (up.setWale 0 waleOn).setLane (laneKey 0 false 0 31) 64
    let w : WaleIx := 0
    let b : Dir := false
    let g : Fin 32 := 0
    let x : Fin 33 := 31
    let k := laneKey w b g x
    s.groupOn w b g = true ∧ (x.val < 32 ∨ ((s.wale w).spares b).getLsbD g = true) ∧ (s.keeper.repairs.any fun r => r.kind == 3 && r.unit == w.val && r.lane == laneCode b g x) = false ∧ s.regField (pgWale w) 0x058 15 0 < SMap.get 0 s.wales.lane k + 1 ∧ ((s.wale w).spares b).getLsbD g = false) ∧
    (let s : State := (up.setWale 0 { waleOn with spareAB := 1 }).setLane (laneKey 0 false 0 31) 64
    let w : WaleIx := 0
    let b : Dir := false
    let g : Fin 32 := 0
    let x : Fin 33 := 31
    let k := laneKey w b g x
    s.groupOn w b g = true ∧ (x.val < 32 ∨ ((s.wale w).spares b).getLsbD g = true) ∧ (s.keeper.repairs.any fun r => r.kind == 3 && r.unit == w.val && r.lane == laneCode b g x) = false ∧ s.regField (pgWale w) 0x058 15 0 < SMap.get 0 s.wales.lane k + 1 ∧ ((s.wale w).spares b).getLsbD g = true) ∧
    (let s : State := (up.setWale 0 { waleOn with spareAB := 1, groupAB := 1 }).setLane (laneKey 0 false 0 31) 64
    let w : WaleIx := 0
    let b : Dir := false
    let g : Fin 32 := 0
    let x : Fin 33 := 31
    let k := laneKey w b g x
    s.groupOn w b g = true ∧ (x.val < 32 ∨ ((s.wale w).spares b).getLsbD g = true) ∧ (s.keeper.repairs.any fun r => r.kind == 3 && r.unit == w.val && r.lane == laneCode b g x) = false ∧ s.regField (pgWale w) 0x058 15 0 < SMap.get 0 s.wales.lane k + 1 ∧ ((s.wale w).spares b).getLsbD g = true) ∧
    (let s : State := up.setWale 0 { waleOn with hold := [(false, 0)], spareAB := 1 }
    let w : WaleIx := 0
    let b : Dir := false
    let g : Fin 32 := 0
    (s.wale w).hold.contains (b, g.val) = true ∧ ((s.wale w).spares b).getLsbD g = true) ∧
    (let s : State := { up with wales := { wale := (List.range 210).map fun i => (i, waleOn), lane := [], relayDue := true } }
    s.wales.relayDue = true) ∧
    (let s : State := { up with wales := { wale := [], lane := [], relayDue := true }, dies := [(1, { DieSt.reset with st := .faulted }), (2, { DieSt.reset with st := .absent })] }
    s.wales.relayDue = true) := by
  refine ⟨?_, ?_, ?_, ?_, ?_, ?_, ?_, ?_, ?_⟩ <;> decide +kernel

theorem test_witness_ShortsAndWithdrawal :
    (let s : State := up
    let d : Die := 0
    let q : Qtr := 3
    s.dieLive d = true ∧ (s.quarter d q).iso = false) ∧
    (let s : State := up
    let d : Die := 0
    ((s.die d).st = .on ∨ (s.die d).st = .starting) ∧ (s.die d).service ≠ 2 ∧ s.keeper.bring ≠ 5) ∧
    (let s : State := { up with dies := [(0, { DieSt.reset with st := .starting })] }
    let d : Die := 0
    ((s.die d).st = .on ∨ (s.die d).st = .starting) ∧ (s.die d).service ≠ 2 ∧ s.keeper.bring ≠ 5) ∧
    (let s : State := { up with pins := { up.pins with prsnt := true } }
    s.pins.prsnt = true ∧ s.pwr.input = true ∧ s.keeper.prsntHold = false ∧ s.keeper.withdrawn = false) ∧
    (let s : State := { State.reset with pins := { Pins.reset with prsnt := true } }
    s.pins.prsnt = true ∧ (s.pwr.input = false ∨ s.keeper.prsntHold = true)) ∧
    (let s : State := up
    s.pins.prsnt = false ∧ s.keeper.prsntHold = false) ∧
    (let s : State := { up with keeper := { up.keeper with prsntHold := true, bring := 4 } }
    s.keeper.prsntHold = true) := by
  refine ⟨?_, ?_, ?_, ?_, ?_, ?_, ?_⟩ <;> decide +kernel

theorem test_witness_PowerFollowsCap :
    (let s : State := up
    let mv : BitVec 16 := 39999
    s.pwr.input = true ∧ s.pwr.vinOk = true ∧ vinGood mv = false) ∧
    (let s : State := up
    let mv : BitVec 16 := 45001
    s.pwr.input = true ∧ s.pwr.vinOk = true ∧ vinGood mv = false) ∧
    (let s : State := { up with pwr := { up.pwr with vinOk := false, vinCap := true } }
    let mv : BitVec 16 := 40000
    s.pwr.input = true ∧ s.pwr.vinOk = false ∧ vinGood mv = true) ∧
    (let s : State := { up with pwr := { up.pwr with vinOk := false, vinCap := true } }
    let mv : BitVec 16 := 45000
    s.pwr.input = true ∧ s.pwr.vinOk = false ∧ vinGood mv = true) ∧
    (let s : State := up
    s.pwr.input = true) ∧
    (let s : State := { up with pwr := { up.pwr with step := 3 } }
    let avg : BitVec 16 := 21001
    s.pwr.input = true ∧ s.capInForce < avg.toNat) ∧
    (let s : State := { up with pwr := { up.pwr with step := 3, run := some (2, 5) } }
    let avg : BitVec 16 := 20751
    s.pwr.input = true ∧ avg.toNat ≤ s.capInForce ∧ s.capInForce < avg.toNat + 250) ∧
    (let s : State := { up with pwr := { up.pwr with step := 71 } }
    let avg : BitVec 16 := 20750
    s.pwr.input = true ∧ avg.toNat + 250 ≤ s.capInForce ∧ s.pwr.step < s.stepTop) ∧
    (let s : State := { up with pwr := { up.pwr with step := 1, lowering := true } }
    s.pwr.lowering = true ∧ 0 < s.pwr.step) ∧
    (let s : State := { up with pwr := { up.pwr with lastDa := some 9 } }
    let p : Nat := 9
    s.pwr.input = true ∧ s.pwr.lastDa = some p ∧ p < 65536) := by
  refine ⟨?_, ?_, ?_, ?_, ?_, ?_, ?_, ?_, ?_, ?_⟩ <;> decide +kernel

theorem test_witness_CapdownDividesGroups :
    (let s : State := { up with pwr := { up.pwr with step := 1 } }
    s.pwr.capdown = false) ∧
    (let s : State := { up with pwr := { up.pwr with capdown := true } }
    s.pwr.capdown = true) ∧
    (let s : State := { up with pwr := { up.pwr with capdown := true } }
    let j : Nat := 0
    s.pwr.capdown = true ∧ j < 32 ∧ s.pwr.divided.getLsbD j = false ∧ ((∀ i, i < j → s.pwr.divided.getLsbD i = true))) ∧
    (let s : State := { up with pwr := { up.pwr with capdown := true, divided := 0x7FFFFFFF } }
    let j : Nat := 31
    s.pwr.capdown = true ∧ j < 32 ∧ s.pwr.divided.getLsbD j = false ∧ ((∀ i, i < j → s.pwr.divided.getLsbD i = true))) ∧
    (let s : State := { up with pwr := { up.pwr with divided := 1 }, quarters := [(0, { QuarterSt.reset with st := .on, clock := true, div4 := true })] }
    let j : Nat := 0
    s.pwr.capdown = false ∧ s.pwr.step = 0 ∧ j < 32 ∧ s.pwr.divided.getLsbD j = true ∧ ((∀ i, i < j → s.pwr.divided.getLsbD i = false))) ∧
    (let s : State := { up with pwr := { up.pwr with divided := 0x80000000 } }
    let j : Nat := 31
    s.pwr.capdown = false ∧ s.pwr.step = 0 ∧ j < 32 ∧ s.pwr.divided.getLsbD j = true ∧ ((∀ i, i < j → s.pwr.divided.getLsbD i = false))) := by
  refine ⟨?_, ?_, ?_, ?_, ?_, ?_⟩ <;> decide +kernel

theorem test_witness_ShutterEntersAndWakes :
    (let s : State := up
    let c : Instr := .shutterReqNChange true
    let pin : Bool := true
    let latch : Bool := false
    ((c = .shutterReqNChange pin ∧ pin ≠ s.shut.pin ∧ latch = s.shut.latch) ∨ (c = .shutter ∧ s.takesWrites pgShutter = true ∧ pin = s.shut.pin ∧ latch = true) ∨ (c = .wake ∧ s.takesWrites pgShutter = true ∧ pin = s.shut.pin ∧ latch = false))) ∧
    (let s : State := { up with shut := { Shut.reset with st := .waiting, pin := true } }
    let c : Instr := .shutterReqNChange false
    let pin : Bool := false
    let latch : Bool := false
    ((c = .shutterReqNChange pin ∧ pin ≠ s.shut.pin ∧ latch = s.shut.latch) ∨ (c = .shutter ∧ s.takesWrites pgShutter = true ∧ pin = s.shut.pin ∧ latch = true) ∨ (c = .wake ∧ s.takesWrites pgShutter = true ∧ pin = s.shut.pin ∧ latch = false))) ∧
    (let s : State := up
    let c : Instr := .shutter
    let pin : Bool := false
    let latch : Bool := true
    ((c = .shutterReqNChange pin ∧ pin ≠ s.shut.pin ∧ latch = s.shut.latch) ∨ (c = .shutter ∧ s.takesWrites pgShutter = true ∧ pin = s.shut.pin ∧ latch = true) ∨ (c = .wake ∧ s.takesWrites pgShutter = true ∧ pin = s.shut.pin ∧ latch = false))) ∧
    (let s : State := { up with shut := { Shut.reset with latch := true } }
    let c : Instr := .wake
    let pin : Bool := false
    let latch : Bool := false
    ((c = .shutterReqNChange pin ∧ pin ≠ s.shut.pin ∧ latch = s.shut.latch) ∨ (c = .shutter ∧ s.takesWrites pgShutter = true ∧ pin = s.shut.pin ∧ latch = true) ∨ (c = .wake ∧ s.takesWrites pgShutter = true ∧ pin = s.shut.pin ∧ latch = false))) ∧
    (let s : State := { up with shut := { Shut.reset with latch := true }, prog := { up.prog with pst := .halted } }
    (s.shut.st = .awake ∨ s.shut.st = .waiting) ∧ s.shutTarget = true ∧ s.running = false ∧ 7 ≤ s.keeper.bring ∧ s.keeper.withdrawn = false) ∧
    (let s : State := { up with shut := { Shut.reset with st := .waiting, pin := true }, prog := Prog.reset }
    (s.shut.st = .awake ∨ s.shut.st = .waiting) ∧ s.shutTarget = true ∧ s.running = false ∧ 7 ≤ s.keeper.bring ∧ s.keeper.withdrawn = false) ∧
    (let s : State := { up with shut := { Shut.reset with st := .waiting, latch := true } }
    s.shut.st = .waiting ∧ s.running = true ∧ s.noAdoption) ∧
    (let s : State := { up with shut := { Shut.reset with st := .shuttered }, quarters := [(0, { QuarterSt.reset with st := .shuttered, gated := true })] }
    s.shut.st = .shuttered ∧ s.shutTarget = false ∧ s.shut.blocked = false) ∧
    (let s : State := { up with shut := { Shut.reset with st := .waking }, quarters := [(0, { QuarterSt.reset with st := .starting, gated := true })] }
    let late : DWord := 0xFFFFFFFFFFFFFFFE
    s.shut.st = .waking ∧ s.noAdoption ∧ ((∀ d ∈ s.liveDies, late.getLsbD d = false)) ∧ ((∀ d ∈ s.liveDies, ∀ q, q < 4 → s.brokenStall d q = none ∨ s.spareOf d q ≠ none))) ∧
    (let s : State := { up with shut := { Shut.reset with st := .waking }, quarters := [(0, { QuarterSt.reset with st := .starting, gated := true })] }
    let late : DWord := 1
    let d : Nat := 0
    s.shut.st = .waking ∧ s.noAdoption ∧ d ∈ s.liveDies ∧ late.getLsbD d = true) := by
  unfold State.noAdoption; refine ⟨?_, ?_, ?_, ?_, ?_, ?_, ?_, ?_, ?_, ?_⟩ <;> decide +kernel

theorem test_witness_TemperatureActs :
    (let s : State := up.setQuarter 0 0 { QuarterSt.reset with st := .on, clock := true, tst := .normal }
    s.pwr.input = true) ∧
    (let s : State := up.setQuarter 0 0 { QuarterSt.reset with st := .on, clock := true, tst := .normal }
    s.pwr.input = true) ∧
    (let s : State := up.setQuarter 0 0 { QuarterSt.reset with st := .on, clock := true, tst := .warn }
    s.pwr.input = true) ∧
    (let s : State := up.setQuarter 0 0 { QuarterSt.reset with st := .on, clock := true, tst := .warn }
    s.pwr.input = true) ∧
    (let s : State := up.setQuarter 0 0 { QuarterSt.reset with st := .on, clock := true, tst := .tripped }
    s.pwr.input = true) ∧
    (let s : State := up.setQuarter 0 0 { QuarterSt.reset with st := .on, clock := true, tst := .tripped }
    s.pwr.input = true) ∧
    (let s : State := up.setQuarter 0 0 { QuarterSt.reset with st := .on, clock := true, tst := .cool }
    s.pwr.input = true) ∧
    (let s : State := up.setQuarter 0 0 { QuarterSt.reset with st := .on, clock := true, tst := .warn }
    let d : Die := 0
    let q : Qtr := 0
    s.dieLive d = true ∧ ((s.quarter d q).tst = .normal ∨ (s.quarter d q).tst = .warn) ∧ (s.quarter d q).st ≠ .faulted) ∧
    (let s : State := { up with pwr := { up.pwr with step := 72 } }
    s.pwr.input = true) ∧
    (let s : State := { up with pwr := { up.pwr with step := 72 }, quarters := [(0, { QuarterSt.reset with tst := .warn })] }
    s.pwr.input = true) ∧
    (let s : State := State.poke { up with pwr := { up.pwr with ceil := 9 } } pgThermal 0x040 0
    s.pwr.input = true) ∧
    (let s : State := up
    let d : Die := 0
    let c : Byte := 94
    s.dieLive d = true ∧ c.toNat < 95) ∧
    (let s : State := up
    let d : Die := 0
    let c : Byte := 95
    s.dieLive d = true ∧ (s.die d).dramTemp.toNat < 95 ∧ 95 ≤ c.toNat ∧ c.toNat < 105) ∧
    (let s : State := up.setDie 0 { up.die 0 with dramTemp := 94 }
    let d : Die := 0
    let c : Byte := 104
    s.dieLive d = true ∧ (s.die d).dramTemp.toNat < 95 ∧ 95 ≤ c.toNat ∧ c.toNat < 105) ∧
    (let s : State := up.setDie 0 { up.die 0 with dramTemp := 104 }
    let d : Die := 0
    let c : Byte := 105
    s.dieLive d = true ∧ (s.die d).dramTemp.toNat < 105 ∧ 105 ≤ c.toNat) ∧
    (let s : State := { up with quarters := [], keeper := { up.keeper with trips := [3] } }
    let d : Die := 0
    let q : Qtr := 3
    (4 * d.val + q.val) ∈ s.keeper.trips ∧ (s.quarter d q).iso = false ∧ (s.quarter d q).st = .off ∧ s.dieLive d = true) ∧
    (let s : State := up.setQuarter 0 3 { QuarterSt.reset with st := .starting }
    let d : Die := 0
    let q : Qtr := 3
    s.dieLive d = true ∧ s.asleep = false ∧ (s.quarter d q).st = .starting ∧ (s.brokenStall d q = none ∨ s.spareOf d q ≠ none)) := by
  refine ⟨?_, ?_, ?_, ?_, ?_, ?_, ?_, ?_, ?_, ?_, ?_, ?_, ?_, ?_, ?_, ?_, ?_⟩ <;> decide +kernel

theorem test_witness_ScrubberAndAperture :
    (let s : State := up
    let d : Die := 0
    s.scrubs d = true ∧ (s.scrubber d).queue = [] ∧ s.regField (pgScrub d) 0x040 31 16 ≠ 0) ∧
    (let s : State := State.setScrubber { up with mem := { up.mem with upsets := [(2 ^ 33 - 1, 2)] } } 0 { Scrub.reset with dramPos := 2 ^ 33 - 1 }
    let d : Die := 0
    s.scrubs d = true ∧ (s.scrubber d).queue = [] ∧ s.regField (pgScrub d) 0x040 31 16 ≠ 0) ∧
    (let s : State := up
    let d : Die := 0
    s.scrubs d = true ∧ (s.scrubber d).queue = [] ∧ s.regField (pgScrub d) 0x040 15 0 ≠ 0 ∧ s.scrubCovers d (s.scrubber d).sramUnit = true) ∧
    (let s : State := up.setScrubber 0 { Scrub.reset with burst := some (0, 0, 2 ^ 33 - 2) }
    let d : Die := 0
    let u : Nat := 0
    let p : Nat := 2 ^ 33 - 2
    s.scrubs d = true ∧ (s.scrubber d).queue = [] ∧ s.regField (pgScrub d) 0x044 15 0 ≠ 0 ∧ (s.scrubber d).burst = some (0, u, p) ∧ p + 1 < 2 ^ 33) ∧
    (let s : State := State.setScrubber { up with mem := { up.mem with upsets := [(7, 1)] } } 0 { Scrub.reset with queue := [7] }
    let d : Die := 0
    let w : Nat := 7
    let r : List Nat := []
    (s.scrubber d).queue = w :: r ∧ s.scrubs d = true ∧ s.lostKey (some (8 * w)) = false ∧ s.wordPoison w = false ∧ (s.eccClass w = 1 ∨ s.eccClass w = 2)) ∧
    (let s : State := State.setScrubber (up.setQuarter 0 0 { QuarterSt.reset with st := .off, gated := true }) 0 { Scrub.reset with queue := [3 * 2 ^ 37] }
    let d : Die := 0
    let w : Nat := 3 * 2 ^ 37
    let r : List Nat := []
    (s.scrubber d).queue = w :: r ∧ s.scrubs d = true ∧ s.lostKey (some (8 * w)) = true) ∧
    (let s : State := up
    let d : Die := 0
    s.takesWrites (pgScrub d) = true ∧ (s.reg (pgScrub d) 0x008).getLsbD 2 = false) ∧
    (let s : State := up.setCeWin 4 { CeWin.reset with isOpen := true, count := 3 }
    let g : Fin 16384 := 4
    (s.ceWin g).isOpen = true) ∧
    (let s : State := up
    let o : BitVec 36 := 0
    let n : Nat := 8
    let a := s.aperAddr o.toNat
    let guarded := addrKind a = 1 ∧ (s.reg (pgDecrypt (addrDie a)) 0x040).getLsbD 0 = true
    s.host.linkUp = true ∧ s.host.d3hot = false ∧ ¬ guarded ∧ s.aperRange a n = true) ∧
    (let s : State := (up.poke pgAperture 0x040 0x10).poke (pgDecrypt 0) 0x040 1
    let o : BitVec 36 := 0
    let n : Nat := 8
    let a := s.aperAddr o.toNat
    let guarded := addrKind a = 1 ∧ (s.reg (pgDecrypt (addrDie a)) 0x040).getLsbD 0 = true
    s.host.linkUp = true ∧ s.host.d3hot = false ∧ (guarded ∨ s.aperRange a n = false)) ∧
    (let s : State := up.poke pgAperture 0x040 0xFF0
    let o : BitVec 36 := 0
    let n : Nat := 8
    let a := s.aperAddr o.toNat
    let guarded := addrKind a = 1 ∧ (s.reg (pgDecrypt (addrDie a)) 0x040).getLsbD 0 = true
    s.host.linkUp = true ∧ s.host.d3hot = false ∧ (guarded ∨ s.aperRange a n = false)) ∧
    (let s : State := up.poke pgAperture 0x040 0xFF0
    let o : BitVec 36 := 0
    let l : List Byte := [1]
    let a := s.aperAddr o.toNat
    s.host.linkUp = true ∧ s.host.d3hot = false ∧ s.aperRange a l.length = false) ∧
    (let s : State := { up with prog := Prog.reset }
    let o : BitVec 36 := 8
    let l : List Byte := [1, 2, 3, 4, 5, 6, 7, 8]
    let k : Nat := 8
    let a := s.aperAddr o.toNat
    s.host.linkUp = true ∧ s.host.d3hot = false ∧ s.aperRange a l.length = true ∧ l.length = 8 ∧ a % 8 = 0 ∧ s.resolve a = some k ∧ s.prog.applied = false) := by
  refine ⟨?_, ?_, ?_, ?_, ?_, ?_, ?_, ?_, ?_, ?_, ?_, ?_, ?_⟩ <;> decide +kernel

theorem test_witness_BlocksSwitch :
    (let s : State := up
    let g : Fin 16384 := 0x1010
    let d : Die := 0
    let q : Qtr := 0
    g.val = pgQuarter d q ∧ s.takesWrites g = true ∧ s.shut.st ≠ .shuttered) ∧
    (let s : State := up.setQuarter 0 0 { QuarterSt.reset with st := .draining }
    let g : Fin 16384 := 0x1010
    let d : Die := 0
    let q : Qtr := 0
    g.val = pgQuarter d q ∧ s.takesWrites g = true ∧ s.shut.st ≠ .shuttered) ∧
    (let s : State := { up with quarters := [] }
    let g : Fin 16384 := 0x1010
    let d : Die := 0
    let q : Qtr := 0
    g.val = pgQuarter d q ∧ s.takesWrites g = true ∧ s.shut.st ≠ .shuttered) ∧
    (let s : State := up
    let g : Fin 16384 := 0x40
    let p : Die := 0
    g.val = pgPort p ∧ s.takesWrites g = true) ∧
    (let s : State := up.setPort 0 { Port.reset with st := .draining }
    let g : Fin 16384 := 0x40
    let p : Die := 0
    g.val = pgPort p ∧ s.takesWrites g = true) ∧
    (let s : State := { up with ports := [] }
    let g : Fin 16384 := 0x40
    let p : Die := 0
    g.val = pgPort p ∧ s.takesWrites g = true) ∧
    (let s : State := up.setWale 209 waleOn
    let g : Fin 16384 := 0x1D1
    let w : WaleIx := 209
    g.val = pgWale w ∧ s.takesWrites g = true) ∧
    (let s : State := up.setWale 209 { WaleSt.reset with st := .draining }
    let g : Fin 16384 := 0x1D1
    let w : WaleIx := 209
    g.val = pgWale w ∧ s.takesWrites g = true) ∧
    (let s : State := up
    let g : Fin 16384 := 0x1D1
    let w : WaleIx := 209
    g.val = pgWale w ∧ s.takesWrites g = true) ∧
    (let s : State := up.setQuarter 0 0 { QuarterSt.reset with st := .draining, drain := false }
    let g : Fin 16384 := 0x1010
    let d : Die := 0
    let q : Qtr := 0
    g.val = pgQuarter d q ∧ s.dieLive d = true ∧ (s.quarter d q).st = .draining ∧ s.quarterDrained d q = true ∧ (s.quarter d q).rearm = false) ∧
    (let s : State := up.setQuarter 0 0 { QuarterSt.reset with st := .draining, drain := false, rearm := true }
    let g : Fin 16384 := 0x1010
    let d : Die := 0
    let q : Qtr := 0
    g.val = pgQuarter d q ∧ s.dieLive d = true ∧ (s.quarter d q).st = .draining ∧ s.quarterDrained d q = true ∧ (s.quarter d q).rearm = true ∧ (s.quarter d q).iso = false ∧ (s.quarter d q).tst = .normal) ∧
    (let s : State := up.setQuarter 0 0 { QuarterSt.reset with st := .starting }
    let g : Fin 16384 := 0x1010
    let d : Die := 0
    let q : Qtr := 0
    g.val = pgQuarter d q ∧ s.dieLive d = true ∧ (s.quarter d q).st = .starting ∧ s.asleep = false ∧ (s.brokenStall d q = none ∨ s.spareOf d q ≠ none)) ∧
    (let s : State := State.setFlow (up.setPort 0 { Port.reset with st := .draining, drain := false }) 0 0 { Flow.reset with st := .open, limitIn := 64 }
    let g : Fin 16384 := 0x40
    let p : Die := 0
    g.val = pgPort p ∧ (s.port p).st = .draining ∧ (s.port p).drain = false) ∧
    (let s : State := up.setPort 0 { Port.reset with st := .draining, drain := false, rearm := true }
    let g : Fin 16384 := 0x40
    let p : Die := 0
    g.val = pgPort p ∧ (s.port p).st = .draining ∧ (s.port p).drain = false) ∧
    (let s : State := up.setPort 0 { Port.reset with st := .starting }
    let g : Fin 16384 := 0x40
    let p : Die := 0
    g.val = pgPort p ∧ (s.port p).st = .starting ∧ s.dieOut p = false) ∧
    (let s : State := up.setWale 209 { WaleSt.reset with st := .draining, rearm := true }
    let g : Fin 16384 := 0x1D1
    let w : WaleIx := 209
    g.val = pgWale w ∧ (s.wale w).st = .draining) ∧
    (let s : State := up.setWale 209 { WaleSt.reset with st := .draining }
    let g : Fin 16384 := 0x1D1
    let w : WaleIx := 209
    g.val = pgWale w ∧ (s.wale w).st = .draining) ∧
    (let s : State := up.setWale 209 { WaleSt.reset with st := .starting }
    let g : Fin 16384 := 0x1D1
    let w : WaleIx := 209
    g.val = pgWale w ∧ (s.wale w).st = .starting) ∧
    (let s : State := up.setBctx 3 { BndCtx.reset with st := .open }
    s.host.linkUp = true) ∧
    (let s : State := up
    s.host.linkUp = true) := by
  refine ⟨?_, ?_, ?_, ?_, ?_, ?_, ?_, ?_, ?_, ?_, ?_, ?_, ?_, ?_, ?_, ?_, ?_, ?_, ?_, ?_⟩ <;> decide +kernel

theorem test_witness_PowerOnAndBoot :
    (let s : State := fused State.reset 1
    s.pwr.input = false ∧ s.meter.low = false ∧ s.meter.fin = none) ∧
    (let s : State := fused State.reset 1
    s.pwr.input = false ∧ s.meter.low = false ∧ s.meter.fin = none) ∧
    (let s : State := fused State.reset 1
    s.pwr.input = false ∧ s.meter.low = false ∧ s.meter.fin = none) ∧
    (let s : State := fused (booting false) 1
    let d : Die := 0
    (s.die d).st = .starting ∧ (s.die d).stage = 2 ∧ (s.die d).readmit = false ∧ s.sec.svnFuse.toNat ≤ (s.fwBank (bankNum true s.keeper.ubank)).svn.toNat ∧ s.keeper.bring ≠ 5) ∧
    (let s : State := fused (booting true) 1
    let d : Die := 0
    (s.die d).st = .starting ∧ (s.die d).stage = 2 ∧ (s.die d).readmit = true ∧ s.sec.svnFuse.toNat ≤ (s.fwBank (bankNum true s.keeper.ubank)).svn.toNat) ∧
    (let s : State := fused (booting false) 0
    let d : Die := 0
    let u : Bool := true
    let l : BitVec 4 := 15
    let c : Instr := .dieBootDone 0 true 15
    let e : Byte := 1
    (s.die d).st = .starting ∧ (s.die d).stage = 2 ∧ ((c = .dieBootDone d u l ∧ e = 1 ∧ (u = false ∨ (s.fwBank (bankNum true s.keeper.ubank)).svn.toNat < s.sec.svnFuse.toNat)) ∨ (c = .dieBootDone d u l ∧ e = 2 ∧ u = true ∧ l ≠ 15 ∧ s.sec.svnFuse.toNat ≤ (s.fwBank (bankNum true s.keeper.ubank)).svn.toNat) ∨ (c = .bootTimeout d ∧ e = 4)) ∧ s.keeper.bring ≠ 5) ∧
    (let s : State := fused (booting false) 1
    let d : Die := 0
    let u : Bool := true
    let l : BitVec 4 := 14
    let c : Instr := .dieBootDone 0 true 14
    let e : Byte := 2
    (s.die d).st = .starting ∧ (s.die d).stage = 2 ∧ ((c = .dieBootDone d u l ∧ e = 1 ∧ (u = false ∨ (s.fwBank (bankNum true s.keeper.ubank)).svn.toNat < s.sec.svnFuse.toNat)) ∨ (c = .dieBootDone d u l ∧ e = 2 ∧ u = true ∧ l ≠ 15 ∧ s.sec.svnFuse.toNat ≤ (s.fwBank (bankNum true s.keeper.ubank)).svn.toNat) ∨ (c = .bootTimeout d ∧ e = 4)) ∧ s.keeper.bring ≠ 5) ∧
    (let s : State := fused (booting true) 1
    let d : Die := 0
    let u : Bool := false
    let l : BitVec 4 := 15
    let c : Instr := .bootTimeout 0
    let e : Byte := 4
    (s.die d).st = .starting ∧ (s.die d).stage = 2 ∧ ((c = .dieBootDone d u l ∧ e = 1 ∧ (u = false ∨ (s.fwBank (bankNum true s.keeper.ubank)).svn.toNat < s.sec.svnFuse.toNat)) ∨ (c = .dieBootDone d u l ∧ e = 2 ∧ u = true ∧ l ≠ 15 ∧ s.sec.svnFuse.toNat ≤ (s.fwBank (bankNum true s.keeper.ubank)).svn.toNat) ∨ (c = .bootTimeout d ∧ e = 4)) ∧ s.keeper.bring ≠ 5) ∧
    (let s : State := { up with host := HostIf.reset }
    s.pwr.input = true ∧ s.host.linkUp = false) ∧
    (let s : State := up
    s.host.linkUp = true) := by
  refine ⟨?_, ?_, ?_, ?_, ?_, ?_, ?_, ?_, ?_, ?_⟩ <;> decide +kernel

theorem test_witness_TreeCommandsAct :
    (let s : State := up
    s.pwr.input = true) ∧
    (let s : State := up
    s.pwr.input = true) ∧
    (let s : State := { net { Flow.reset with st := .open } with keeper := { up.keeper with leidReq := true } }
    s.keeper.leidReq = true) ∧
    (let s : State := up
    s.keeperUp = true ∧ s.keeper.withdrawn = false ∧ s.keeper.adopting = false) ∧
    (let s : State := { up with keeper := { up.keeper with ast := .checking } }
    s.keeperUp = true ∧ s.keeper.withdrawn = false ∧ s.keeper.adopting = true) ∧
    (let s : State := { up with keeper := { up.keeper with adopt := some 5, held := true } }
    s.keeperUp = true ∧ s.keeper.withdrawn = false) ∧
    (let s : State := { up with shut := { Shut.reset with latch := true } }
    s.keeperUp = true ∧ s.keeper.withdrawn = false) ∧
    (let s : State := { up with keeper := { up.keeper with withdrawn := true } }
    let c : Instr := .keeperDrain
    s.keeperUp = true ∧ s.keeper.withdrawn = true ∧ (c = .keeperShutter ∨ c = .keeperWake ∨ c = .keeperDrain ∨ (∃ l h r k, c = .adoptLeid l h r k))) ∧
    (let s : State := { up with keeper := { up.keeper with withdrawn := true } }
    let c : Instr := .adoptLeid 5 0 0 0
    s.keeperUp = true ∧ s.keeper.withdrawn = true ∧ (c = .keeperShutter ∨ c = .keeperWake ∨ c = .keeperDrain ∨ (∃ l h r k, c = .adoptLeid l h r k))) ∧
    (let s : State := up
    s.keeperUp = true) ∧
    (let s : State := { up with keeper := { up.keeper with bring := 6 } }
    s.keeperUp = true) ∧
    (let s : State := up.poke pgProgram 0x040 1
    s.keeperUp = true ∧ s.keeper.withdrawn = false ∧ ((∀ c, (s.bctx c).live = false))) ∧
    (let s : State := up
    s.keeperUp = true) ∧
    (let s : State := up
    s.keeperUp = true) ∧
    (let s : State := { up with pins := { up.pins with idLed := true } }
    s.pins.idLed = true) ∧
    (let s : State := up
    let l : BitVec 20 := 5
    s.keeperUp = true ∧ s.keeper.withdrawn = false ∧ s.keeper.locValid = true ∧ s.keeper.adopting = false ∧ leidOk l = true ∧ s.shut.st = .awake ∧ s.running = true) ∧
    (let s : State := { up with prog := Prog.reset }
    let l : BitVec 20 := 5
    s.keeperUp = true ∧ s.keeper.withdrawn = false ∧ s.keeper.locValid = true ∧ s.keeper.adopting = false ∧ leidOk l = true ∧ s.shut.st = .awake ∧ s.running = false ∧ ((∀ c, (s.bctx c).live = false)) ∧ s.regField pgAddress 0x04C 0 0 = 0) ∧
    (let s : State := { up with keeper := { up.keeper with adopt := some 5, ast := .waking } }
    s.keeper.adopting = true) := by
  refine ⟨?_, ?_, ?_, ?_, ?_, ?_, ?_, ?_, ?_, ?_, ?_, ?_, ?_, ?_, ?_, ?_, ?_, ?_⟩
  · decide +kernel
  · decide +kernel
  · decide +kernel
  · decide +kernel
  · decide +kernel
  · decide +kernel
  · decide +kernel
  · exact ⟨by decide +kernel, by decide +kernel, Or.inr (Or.inr (Or.inl rfl))⟩
  · exact ⟨by decide +kernel, by decide +kernel, Or.inr (Or.inr (Or.inr ⟨5, 0, 0, 0, rfl⟩))⟩
  · decide +kernel
  · decide +kernel
  · exact ⟨by decide +kernel, by decide +kernel, fun _ => rfl⟩
  · decide +kernel
  · decide +kernel
  · decide +kernel
  · decide +kernel
  · exact ⟨by decide +kernel, by decide +kernel, by decide +kernel, by decide +kernel, by decide +kernel, by decide +kernel, by decide +kernel, fun _ => rfl, by decide +kernel⟩
  · decide +kernel

theorem test_witness_KeeperAnswersAndUpdates :
    (let s : State := up
    s.pwr.input = true ∧ s.noAdoption ∧ s.keeper.bring ≠ 7) ∧
    (let s : State := { up with keeper := { up.keeper with bring := 7 } }
    s.pwr.input = true ∧ s.noAdoption ∧ s.keeper.bring = 7 ∧ s.keeper.fwOk = true) ∧
    (let s : State := up
    s.pwr.input = true) ∧
    (let s : State := up
    let c : Instr := .readHealth
    let n : Byte := 1
    let i : BitVec 16 := 0
    s.mbReach = true ∧ ((c = .readHealth ∧ n = 1 ∧ i = 0) ∨ (c = .mailboxIdentify ∧ n = 2 ∧ i = 0) ∨ (c = .readLog i ∧ n = 3) ∨ (c = .readRepair i ∧ n = 4))) ∧
    (let s : State := up
    let c : Instr := .mailboxIdentify
    let n : Byte := 2
    let i : BitVec 16 := 0
    s.mbReach = true ∧ ((c = .readHealth ∧ n = 1 ∧ i = 0) ∨ (c = .mailboxIdentify ∧ n = 2 ∧ i = 0) ∨ (c = .readLog i ∧ n = 3) ∨ (c = .readRepair i ∧ n = 4))) ∧
    (let s : State := up
    let c : Instr := .readLog 65535
    let n : Byte := 3
    let i : BitVec 16 := 65535
    s.mbReach = true ∧ ((c = .readHealth ∧ n = 1 ∧ i = 0) ∨ (c = .mailboxIdentify ∧ n = 2 ∧ i = 0) ∨ (c = .readLog i ∧ n = 3) ∨ (c = .readRepair i ∧ n = 4))) ∧
    (let s : State := up
    let c : Instr := .readRepair 9
    let n : Byte := 4
    let i : BitVec 16 := 9
    s.mbReach = true ∧ ((c = .readHealth ∧ n = 1 ∧ i = 0) ∨ (c = .mailboxIdentify ∧ n = 2 ∧ i = 0) ∨ (c = .readLog i ∧ n = 3) ∨ (c = .readRepair i ∧ n = 4))) ∧
    (let s : State := { up with keeper := { up.keeper with mbBusy := true, mbOp := 1, record := [1, 2, 3, 4, 5] } }
    let l := [1, 2, 3, 4, 5]
    s.keeper.mbBusy = true ∧ s.pwr.input = true ∧ s.mbAnswer = some l ∧ l.length < 65536) ∧
    (let s : State := { up with keeper := { up.keeper with mbBusy := true, mbOp := 9 } }
    s.keeper.mbBusy = true ∧ s.pwr.input = true ∧ s.mbAnswer = none) ∧
    (let s : State := fused up 0
    let f : FwImage := fw 1
    s.pwr.input = true ∧ f.sigOk = true ∧ s.sec.svnFuse.toNat ≤ f.svn.toNat) ∧
    (let s : State := fused up 0
    let f : FwImage := fw 255
    s.pwr.input = true ∧ f.sigOk = true ∧ s.sec.svnFuse.toNat ≤ f.svn.toNat) ∧
    (let s : State := fused up 1
    let f : FwImage := fw 0
    s.pwr.input = true ∧ (f.sigOk = false ∨ f.svn.toNat < s.sec.svnFuse.toNat)) ∧
    (let s : State := fused up 1
    let f : FwImage := { fw 9 with sigOk := false }
    s.pwr.input = true ∧ (f.sigOk = false ∨ f.svn.toNat < s.sec.svnFuse.toNat)) ∧
    (let s : State := { up with keeper := { up.keeper with verK := true } }
    s.pwr.input = true ∧ (s.keeper.verK = true ∨ s.keeper.verU = true)) ∧
    (let s : State := { up with keeper := { up.keeper with verU := true } }
    s.pwr.input = true ∧ (s.keeper.verK = true ∨ s.keeper.verU = true)) ∧
    (let s : State := up
    s.pwr.input = true ∧ s.keeper.verK = false ∧ s.keeper.verU = false) ∧
    (let s : State := up
    s.keeperUp = true) := by
  unfold State.noAdoption; refine ⟨?_, ?_, ?_, ?_, ?_, ?_, ?_, ?_, ?_, ?_, ?_, ?_, ?_, ?_, ?_, ?_, ?_⟩ <;> decide +kernel

theorem test_witness_SpdmAndKeys :
    (let s : State := up
    s.keeperUp = true) ∧
    (let s : State := up
    s.keeperUp = true) ∧
    (let s : State := up
    s.keeperUp = true) ∧
    (let s : State := up
    let n : Byte := 1
    s.keeperUp = true ∧ n ≠ 0) ∧
    (let s : State := up
    let c : Instr := .getCapabilities
    let n : Byte := 0x61
    s.keeperUp = true ∧ ((c = .getCapabilities ∧ n = 0x61) ∨ (c = .negotiateAlgorithms ∧ n = 0x63))) ∧
    (let s : State := up
    let c : Instr := .negotiateAlgorithms
    let n : Byte := 0x63
    s.keeperUp = true ∧ ((c = .getCapabilities ∧ n = 0x61) ∨ (c = .negotiateAlgorithms ∧ n = 0x63))) ∧
    (let s : State := up
    let c : Instr := .challenge (List.replicate 32 0)
    let n : Byte := 0x03
    let i : Byte := 0xFF
    let r : List Byte := List.replicate 32 0
    s.keeperUp = true ∧ ((c = .challenge r ∧ n = 0x03 ∧ i = 0xFF) ∨ (c = .getMeasurements i r ∧ n = 0x60))) ∧
    (let s : State := up
    let c : Instr := .getMeasurements 7 (List.replicate 32 0)
    let n : Byte := 0x60
    let i : Byte := 7
    let r : List Byte := List.replicate 32 0
    s.keeperUp = true ∧ ((c = .challenge r ∧ n = 0x03 ∧ i = 0xFF) ∨ (c = .getMeasurements i r ∧ n = 0x60))) ∧
    (let s : State := { up with sec := { up.sec with offers := List.replicate 3 offer0 } }
    s.keeperUp = true ∧ s.sec.offers.length < 4) ∧
    (let s : State := { up with sec := { up.sec with offers := List.replicate 4 offer0 } }
    s.keeperUp = true ∧ 4 ≤ s.sec.offers.length) ∧
    (let s : State := { up with sec := { up.sec with offers := List.replicate 1 offer0 } }
    let n : Word := 2
    s.keeperUp = true ∧ s.sec.offers.find? (fun o => o.num == n) = none) ∧
    (let s : State := { up with sec := { up.sec with offers := List.replicate 1 offer0 } }
    let n : Word := 1
    let o : Offer := offer0
    s.keeperUp = true ∧ o.slot < 16 ∧ s.sec.offers.find? (fun o => o.num == n) = some o) ∧
    (let s : State := { up with sec := { up.sec with offers := List.replicate 1 offer0 } }
    let n : Word := 1
    (s.sec.offers.any fun o => o.num == n) = true) := by
  refine ⟨?_, ?_, ?_, ?_, ?_, ?_, ?_, ?_, ?_, ?_, ?_, ?_, ?_⟩ <;> decide +kernel

theorem test_witness_MeterWindowsAndReports :
    (let s : State := up
    s.meter.started = true) ∧
    (let s : State := { up with meter := { up.meter with energy := 5, total := 9 } }
    let c : Instr := .meterWindowEnd
    let f : BitVec 16 := 0
    s.meter.started = true ∧ s.meter.waiting = none ∧ ((c = .meterWindowEnd ∧ f = 0) ∨ (c = .earlyClose ∧ 16000 ≤ s.meter.since ∧ f = rfPartial) ∨ (∃ n, c = .setInterval n ∧ s.portSealed = false ∧ 10 ≤ n.toNat ∧ n.toNat ≤ 900 ∧ f = rfPartial ||| rfInterval))) ∧
    (let s : State := { up with meter := { up.meter with energy := 5, since := 16000 } }
    let c : Instr := .earlyClose
    let f : BitVec 16 := rfPartial
    s.meter.started = true ∧ s.meter.waiting = none ∧ ((c = .meterWindowEnd ∧ f = 0) ∨ (c = .earlyClose ∧ 16000 ≤ s.meter.since ∧ f = rfPartial) ∨ (∃ n, c = .setInterval n ∧ s.portSealed = false ∧ 10 ≤ n.toNat ∧ n.toNat ≤ 900 ∧ f = rfPartial ||| rfInterval))) ∧
    (let s : State := { up with meter := { up.meter with sealOk := false } }
    let c : Instr := .setInterval 900
    let f : BitVec 16 := rfPartial ||| rfInterval
    s.meter.started = true ∧ s.meter.waiting = none ∧ ((c = .meterWindowEnd ∧ f = 0) ∨ (c = .earlyClose ∧ 16000 ≤ s.meter.since ∧ f = rfPartial) ∨ (∃ n, c = .setInterval n ∧ s.portSealed = false ∧ 10 ≤ n.toNat ∧ n.toNat ≤ 900 ∧ f = rfPartial ||| rfInterval))) ∧
    (let s : State := { up with meter := { up.meter with sealOk := false } }
    let n : BitVec 16 := 10
    s.portSealed = false ∧ 10 ≤ n.toNat ∧ n.toNat ≤ 900) ∧
    (let s : State := { up with meter := { Meter.reset with sealOk := false } }
    let n : BitVec 16 := 900
    s.portSealed = false ∧ 10 ≤ n.toNat ∧ n.toNat ≤ 900) ∧
    (let s : State := { up with meter := { up.meter with snapOut := true, snap := 3 } }
    s.meter.snapOut = true ∧ s.pwr.input = true ∧ s.keeper.withdrawn = false ∧ s.keeper.fwOk = true) ∧
    (let s : State := { up with meter := { up.meter with snap := 3, waiting := some rec0, base := some { rep0 true with workTotal := 4 } } }
    let x : Record := rec0
    let r : WorkReport := rep0 true
    s.meter.present = true ∧ s.meter.waiting = some x ∧ r.snapSeq = s.meter.snap ∧ r.sigOk = true) ∧
    (let s : State := { up with meter := { up.meter with snap := 3, waiting := some rec0 } }
    let x : Record := rec0
    let r : WorkReport := rep0 false
    s.meter.present = true ∧ s.meter.waiting = some x ∧ r.snapSeq = s.meter.snap ∧ r.sigOk = false) ∧
    (let s : State := { up with meter := { up.meter with snap := 4, waiting := some rec0 } }
    let r : WorkReport := rep0 true
    s.meter.present = true ∧ (s.meter.waiting = none ∨ r.snapSeq ≠ s.meter.snap)) ∧
    (let s : State := up
    let r : WorkReport := rep0 true
    s.meter.present = true ∧ (s.meter.waiting = none ∨ r.snapSeq ≠ s.meter.snap)) ∧
    (let s : State := { up with meter := { up.meter with waiting := some rec0 } }
    let x : Record := rec0
    s.meter.waiting = some x ∧ s.pwr.input = true ∧ s.meter.present = true) ∧
    (let s : State := { up with meter := { up.meter with waiting := some rec0, badRep := true } }
    let x : Record := rec0
    s.meter.waiting = some x ∧ s.pwr.input = true ∧ s.meter.present = true) := by
  refine ⟨?_, ?_, ?_, ?_, ?_, ?_, ?_, ?_, ?_, ?_, ?_, ?_, ?_⟩
  · decide +kernel
  · exact ⟨by decide +kernel, by decide +kernel, Or.inl ⟨rfl, rfl⟩⟩
  · exact ⟨by decide +kernel, by decide +kernel, Or.inr (Or.inl ⟨rfl, by decide +kernel, rfl⟩)⟩
  · exact ⟨by decide +kernel, by decide +kernel, Or.inr (Or.inr ⟨900, rfl, by decide +kernel, by decide, by decide, rfl⟩)⟩
  · decide +kernel
  · decide +kernel
  · decide +kernel
  · decide +kernel
  · decide +kernel
  · decide +kernel
  · decide +kernel
  · decide +kernel
  · decide +kernel

theorem test_witness_MeterRecordsAndStatus :
    (let s : State := { up with meter := { up.meter with fin := some true, energy := 5 } }
    let b : Bool := true
    s.meter.fin = some b ∧ s.meter.waiting = none) ∧
    (let s : State := { up with meter := { up.meter with fin := some false }, pwr := { up.pwr with input := false } }
    let b : Bool := false
    s.meter.fin = some b ∧ s.meter.waiting = none) ∧
    (let s : State := { up with meter := { up.meter with low := true } }
    s.meter.low = true ∧ s.meter.waiting = none) ∧
    (let s : State := { up with meter := { up.meter with closing := [rec0], records := [rec0] } }
    let r : Record := rec0
    let l : List Record := []
    s.meter.closing = r :: l) ∧
    (let s : State := { State.reset with meter := { Meter.reset with closing := [rec0] } }
    let r : Record := rec0
    let l : List Record := []
    s.meter.closing = r :: l) ∧
    (let s : State := { up with meter := { up.meter with working := true } }
    s.meter.present = true ∧ s.pwr.input = true) ∧
    (let s : State := { up with meter := { up.meter with fresh := true, working := true } }
    s.meter.fresh = true) ∧
    (let s : State := up
    s.meter.present = true) ∧
    (let s : State := { up with meter := { up.meter with present := false } }
    s.meter.present = false ∧ s.meter.low = false) ∧
    (let s : State := { up with meter := { up.meter with sealOk := false } }
    let f : FwImage := fw 0
    s.portSealed = false ∧ f.sigOk = true) ∧
    (let f : FwImage := { fw 0 with sigOk := false }
    f.sigOk = false) := by
  refine ⟨?_, ?_, ?_, ?_, ?_, ?_, ?_, ?_, ?_, ?_, ?_⟩ <;> decide +kernel

theorem test_witness_FamilyFrames :
    (let c : Instr := .meterSample 42000 10 5
    let s : State := up
    let t : State := ran (.meterSample 42000 10 5) up
    meterOnly c = true ∧ exec c s = .next t) ∧
    (let c : Instr := .identify 1
    let s : State := up
    let t : State := ran (.identify 1) up
    keeperTalk c = true ∧ exec c s = .next t) ∧
    (let c : Instr := .stepLower
    let s : State := { up with pwr := { up.pwr with step := 1, lowering := true } }
    let t : State := ran (.stepLower) { up with pwr := { up.pwr with step := 1, lowering := true } }
    powerStep c = true ∧ exec c s = .next t) ∧
    (let c : Instr := .flitResendFail 0 false 0
    let s : State := (up.setWale 0 waleOn)
    let t : State := ran (.flitResendFail 0 false 0) (up.setWale 0 waleOn)
    waleLane c = true ∧ exec c s = .next t) ∧
    (let c : Instr := .scrubNow 0
    let s : State := up
    let t : State := ran (.scrubNow 0) up
    memoryWork c = true ∧ exec c s = .next t) ∧
    (let c : Instr := .ackDelayExpiry 0 0
    let s : State := (net { Flow.reset with st := .open })
    let t : State := ran (.ackDelayExpiry 0 0) (net { Flow.reset with st := .open })
    dataWork c = true ∧ exec c s = .next t) := by
  refine ⟨?_, ?_, ?_, ?_, ?_, ?_⟩
  · exact ⟨rfl, rfl⟩
  · exact ⟨rfl, rfl⟩
  · exact ⟨rfl, rfl⟩
  · exact ⟨rfl, rfl⟩
  · exact ⟨rfl, rfl⟩
  · exact ⟨rfl, rfl⟩

/-! ### Ill-formed commands are refused, one for each check -/

theorem test_wf_access :
    (Instr.loRead 0x44 0).wf = false ∧ (Instr.hiWrite 0x3FFFFFE 4 0).wf = false ∧ (Instr.loRead 0x44 4).wf = true := by
  decide +kernel
theorem test_wf_pages :
    (Instr.ceWindowExpiry 16383).wf = false ∧ (Instr.blockHoldReady (.ctx 0) 0 16383).wf = false ∧
    (Instr.ctlWrite 4 0).wf = false ∧ (Instr.ctlWrite 4112 0).wf = true := by decide +kernel
theorem test_wf_cells :
    (Instr.steelyardCheck 0 0 0 [⟨0, 0, 1⟩, ⟨0, 0, 2⟩]).wf = false ∧
    (Instr.steelyardCheck 0 0 0 [⟨0, 0, 1⟩, ⟨1, 0, 2⟩]).wf = true := by decide +kernel
theorem test_wf_participants :
    (Instr.bundlePrepare (.prog 0) 64).wf = false ∧ (Instr.bundlePrepare (.ctx 0) 64).wf = true := by decide +kernel
theorem test_wf_ledgers :
    (Instr.ledgerCheck 0 ⟨0, 4⟩).wf = false ∧ (Instr.ledgerCheck 0 ⟨6, 73⟩).wf = true := by decide +kernel
theorem test_wf_pass :
    (Instr.pass 0 0 { passOf (1 + 2 ^ 30) with aKind := 0x14 }).wf = false ∧
    (Instr.pass 0 0 (passOf (1 + 2 ^ 30))).wf = true := by decide +kernel
theorem test_wf_words :
    (Instr.loadw 0 0 ⟨0, 0, 0⟩).wf = false ∧ (Instr.rearm 0 0 ⟨1, 1023⟩).wf = false ∧
    (Instr.bellWait 0 0 ⟨0, 1, 0, 0, 0⟩).wf = false ∧ (Instr.basketPut 1 0 ⟨1, 0, 1, false, 0⟩).wf = false ∧
    (Instr.ballast 0 0 0).wf = false ∧ (Instr.basketPut 0 0 ⟨1, 0, 1, false, 0⟩).wf = true := by decide +kernel
theorem test_wf_aperture :
    (Instr.apertureRead 0xFFFFFFFFF 2).wf = false ∧ (Instr.apertureWrite 0 []).wf = false := by decide +kernel
theorem test_wf_nonces :
    (Instr.challenge []).wf = false ∧ (Instr.getMeasurements 0 [0]).wf = false ∧
    (Instr.keyRequest [] 0 0 0).wf = false := by decide +kernel

/-- No row of the operation table has bits. -/
theorem test_table_words_spell_nothing : decodeTableWord 32 7 = none ∧ up.withFetchWord 32 7 = up :=
  ⟨rfl, rfl⟩

/-! ### The spec's worked examples and tables -/

/-- L8 product 0x5D × 0xC6 with block scales -2 and 3: sign 1, E = 132, the 24 bits of T8[3], seven zeros. -/
theorem test_l8_product :
    a40Of (product .l8 .l8 (some (0x5D, -2)) (some (0xC6, 3))) = (a40Code true 132 ((21757357 - 2 ^ 24) * 128), false) := by
  decide +kernel
/-- Table 2.7: 300, about -0.01 and about 0.001 packed into L8 under the scale 1. -/
theorem test_pack_l8 :
    encode .l8 1 none (.num false 300 0) = (0x7A, false) ∧ encode .l8 1 none (.num true 10737418 (-30)) = (0x83, false) ∧
    encode .l8 1 none (.num false 1073742 (-30)) = (0, false) := by decide +kernel
/-- INVALID in the stored formats (R44). -/
theorem test_invalid_codes :
    [Fmt.l8, .l16, .e4m3, .e5m2, .bf16, .s32].map (fun f => (encode f 0 none .invalid).1) =
      [0x80, 0x8000, 0x7F, 0x7E, 0x7FC0, 0x7FC00000] := by decide +kernel
/-- Location code of hall 1, row 12, rack 40 and GA 0x13 (chapter 17). -/
theorem test_location_code :
    ({ State.reset with keeper := { Keeper.reset with ga := 0x13, locValid := true, place := (1 : BitVec 2) ++ (12 : BitVec 6) ++ (40 : BitVec 6) } } : State).locCode
      = 0x26513 := by decide +kernel
/-- DEST and FLOW of a frame where Table 12.1 puts them. -/
theorem test_frame_fields :
    (pkt 3 9 0 (65 :: List.replicate 15 0)).hdr.dst = 5 ∧ (pkt 3 9 0 (65 :: List.replicate 15 0)).hdr.flow = 9 ∧
    (pkt 3 9 0 (65 :: List.replicate 15 0)).limit = 65 ∧ (pkt 3 9 0 (65 :: List.replicate 15 0)).hdr.csumOk = true := by
  decide +kernel
/-- A frame that is altered on its way fails its checksum. -/
theorem test_frame_checksum :
    ({ pkt 3 9 0 (65 :: List.replicate 15 0) with udp := [0] } : Packet).hdr.csumOk = false := by decide +kernel

end Sys2Proof.Tests
end

section
/-! SUPPORT. What a PASS does to its pass counter (R68): the rules for the parts of a stall that a PASS writes,
and the statement they settle. -/

namespace Sys2Proof.Machine

/-! ### Slots and registers after an update -/

@[simp] theorem finish_slot (s t : State) (d p : Nat) : (s.finish t).slot d p = t.slot d p := rfl

@[simp] theorem finish_reg (s t : State) (page off : Nat) : (s.finish t).reg page off = t.reg page off := rfl

@[simp] theorem setSlot_reg (s : State) (d p page off : Nat) (x : Stall) :
    (s.setSlot d p x).reg page off = s.reg page off := rfl

@[simp] theorem setBits_slot (s : State) (page off d p : Nat) (m : Word) :
    (s.setBits page off m).slot d p = s.slot d p := rfl

@[simp] theorem setBits_reg_same (s : State) (page off : Nat) (m : Word) :
    (s.setBits page off m).reg page off = s.reg page off ||| m := poke_reg_same s

@[simp] theorem flagIf_slot (s : State) (d p e r : Nat) (f : Word) (c : Bool) :
    (s.flagIf d p f c).slot e r = s.slot e r := by
  cases c <;> rfl

theorem flagIf_true_reg_flags (s : State) (d p : Nat) (f : Word) :
    (s.flagIf d p f true).reg (pgStall d p) rFlags = s.reg (pgStall d p) rFlags ||| f :=
  setBits_reg_same s _ _ f

theorem flagIf_false (s : State) (d p : Nat) (f : Word) : s.flagIf d p f false = s := rfl

/-! ### Pass counters and the order of passes in a stall -/

@[simp] theorem setAcc_sums (x : Stall) (t : Fin 2) (a : Acc) : (x.setAcc t a).sums = x.sums := by
  unfold Stall.setAcc; split <;> rfl

@[simp] theorem setAcc_passes (x : Stall) (t : Fin 2) (a : Acc) : (x.setAcc t a).passes = x.passes := by
  unfold Stall.setAcc; split <;> rfl

/-- Only a tile's state changes where the pass at the front enters RUN. -/
theorem enterRun_eq_self_or_setAcc (x : Stall) : x.enterRun = x ∨ ∃ t a, x.enterRun = x.setAcc t a := by
  unfold Stall.enterRun
  split
  · dsimp only
    split
    · exact .inr ⟨_, _, rfl⟩
    · exact .inl rfl
  · exact .inl rfl

@[simp] theorem enterRun_sums (x : Stall) : x.enterRun.sums = x.sums := by
  obtain h | ⟨t, a, h⟩ := enterRun_eq_self_or_setAcc x <;> simp [h]

@[simp] theorem enterRun_passes (x : Stall) : x.enterRun.passes = x.passes := by
  obtain h | ⟨t, a, h⟩ := enterRun_eq_self_or_setAcc x <;> simp [h]

@[simp] theorem wait_sums (x : Stall) (k : CmdKind) : (x.wait k).sums = x.sums := by
  unfold Stall.wait; split <;> rfl

@[simp] theorem wait_passes (x : Stall) (k : CmdKind) : (x.wait k).passes = x.passes := by
  unfold Stall.wait; split <;> rfl

@[simp] theorem issue_unstarted_sums (x : Stall) (k : CmdKind) (st : SeqSt) :
    (x.issue k st false).sums = x.sums := wait_sums x k

@[simp] theorem issue_unstarted_passes (x : Stall) (k : CmdKind) (st : SeqSt) :
    (x.issue k st false).passes = x.passes := wait_passes x k

/-! ### The count of a PASS -/

@[simp] theorem countPass_passes (x : Stall) (w : PassWord) : (x.countPass w).1.passes = x.passes := rfl

theorem countPass_sums_same {x : Stall} {w : PassWord} {n : Nat} (hn : x.sums[w.sumId.toNat]? = some n) :
    (x.countPass w).1.sums[w.sumId.toNat]? = some (if w.sumStart then 1 else min 4096 (n + 1)) := by
  obtain ⟨hlt, rfl⟩ := List.getElem?_eq_some_iff.mp hn
  simp [Stall.countPass, hlt]

theorem countPass_sums_other (x : Stall) {w : PassWord} {j : Nat} (hj : j ≠ w.sumId.toNat) :
    (x.countPass w).1.sums[j]? = x.sums[j]? :=
  List.getElem?_set_ne hj.symm

/-- The count is long where a PASS that does not start a sum finds its counter at 4,096 (R68, R93). -/
theorem countPass_long {x : Stall} {w : PassWord} {n : Nat} (hn : x.sums[w.sumId.toNat]? = some n) :
    (x.countPass w).2 = (!w.sumStart && n == 4096) := by
  simp [Stall.countPass, hn]

/-! ### A PASS that issues -/

theorem passIssue_sums (s : State) (d p : Nat) (w : PassWord) :
    ((s.passIssue d p w).slot d p).sums = ((s.slot d p).countPass w).1.sums := by
  simp [State.passIssue]

theorem passIssue_passes (s : State) (d p : Nat) (w : PassWord) :
    ((s.passIssue d p w).slot d p).passes = (s.slot d p).passes ++ [w.acc] := by
  simp [State.passIssue]

/-- FLAGS after a PASS issues: LONG_SUM is set where the count is long, and nothing else changes. -/
theorem passIssue_reg_flags (s : State) (d p : Nat) (w : PassWord) :
    (s.passIssue d p w).reg (pgStall d p) rFlags =
      if ((s.slot d p).countPass w).2 then s.reg (pgStall d p) rFlags ||| flagLong
      else s.reg (pgStall d p) rFlags := by
  cases h : ((s.slot d p).countPass w).2
  · simp [State.passIssue, h, flagIf_false]
  · simp [State.passIssue, h, flagIf_true_reg_flags]

/-- A PASS at the head that may issue issues, in the state where the engine has read its word. -/
theorem exec_pass_issues {s : State} {d : Die} {l : Stl} {w : PassWord} {p : Nat}
    (hhead : s.headSlot d l (.pass w) = some p) (hok : passOk w = true)
    (hgo : (s.reachHead d l p).passWaits d p w = false) :
    exec (.pass d l w) s = .next (s.finish ((s.reachHead d l p).passIssue d p w)) := by
  change execPass d l w s = _
  simp [execPass, hhead, hok, hgo, ok_next]

/-- Settles O23, from what a PASS that issues leaves in its counters, its list of passes and FLAGS. -/
theorem passCountsSums : Obligations.PassCountsSums := by
  intro s d l w p n u hhead hok hgo hn
  have hsame := countPass_sums_same hn
  have hlong := countPass_long hn
  refine ⟨_, exec_pass_issues hhead hok hgo, ?_⟩
  simp only [finish_slot, finish_reg, passIssue_sums, passIssue_passes, passIssue_reg_flags]
  refine ⟨fun hstart => ?starts, fun hstart hlt => ?counts, fun hstart heq => ?stays,
    fun j hj => countPass_sums_other _ hj, rfl⟩
  case starts => simp [u, hsame, hlong, hstart]
  case counts =>
    have hmin : min 4096 (n + 1) = n + 1 := by omega
    have hne : n ≠ 4096 := by omega
    simp [u, hsame, hlong, hstart, hmin, hne]
  case stays => simp [u, hsame, hlong, hstart, heq, flagLong]

end Sys2Proof.Machine
end

section
/-! SUPPORT. What a write of bytes does to one word of memory (R132, R137): the words it touches, the bytes of
each, a word's data byte by byte, and the statement they settle. -/

namespace Sys2Proof.Machine

/-! ### Counts leave memory as it was -/

/-- The count of bytes changes nothing but the header counters (R152). -/
theorem noteBytes_only_cnt (s : State) (k : Nat) (rd : Bool) (n : Nat) :
    ∃ c, s.noteBytes k rd n = { s with cnt := c } := by
  unfold State.noteBytes
  split
  · exact ⟨_, rfl⟩
  · exact ⟨s.cnt, rfl⟩

@[simp] theorem noteBytes_mem (s : State) (k : Nat) (rd : Bool) (n : Nat) : (s.noteBytes k rd n).mem = s.mem := by
  obtain ⟨c, h⟩ := noteBytes_only_cnt s k rd n
  simp [h]

@[simp] theorem noteBytes_reg (s : State) (k : Nat) (rd : Bool) (n page off : Nat) :
    (s.noteBytes k rd n).reg page off = s.reg page off := by
  obtain ⟨c, h⟩ := noteBytes_only_cnt s k rd n
  rw [h]; rfl

@[simp] theorem noteBytes_wordPoison (s : State) (k : Nat) (rd : Bool) (n w : Nat) :
    (s.noteBytes k rd n).wordPoison w = s.wordPoison w := by
  obtain ⟨c, h⟩ := noteBytes_only_cnt s k rd n
  rw [h]; rfl

@[simp] theorem noteBytes_eccClass (s : State) (k : Nat) (rd : Bool) (n w : Nat) :
    (s.noteBytes k rd n).eccClass w = s.eccClass w := by
  obtain ⟨c, h⟩ := noteBytes_only_cnt s k rd n
  rw [h]; rfl

@[simp] theorem noteBytes_readByte (s : State) (k : Nat) (rd : Bool) (n a : Nat) :
    (s.noteBytes k rd n).readByte a = s.readByte a := by
  obtain ⟨c, h⟩ := noteBytes_only_cnt s k rd n
  rw [h]; rfl

@[simp] theorem incSat_mem (s : State) (page off n : Nat) : (s.incSat page off n).mem = s.mem := poke_mem s

theorem incSat_reg_same_toNat (s : State) (page off n : Nat) :
    ((s.incSat page off n).reg page off).toNat = min 0xFFFFFFFF ((s.reg page off).toNat + n) := by
  rw [State.incSat, poke_reg_same, BitVec.toNat_ofNat]
  omega

/-! ### The data of a word, byte by byte -/

theorem wordData_byte (s : State) (w : Nat) {j : Nat} (hj : j < 8) :
    (s.wordData w).extractLsb' (8 * j) 8 = SMap.get 0 s.mem.bytes (8 * w + j) := by
  let l := (List.range 8).map fun i => (SMap.get 0 s.mem.bytes (8 * w + i)).toNat
  have hdata : s.wordData w = BitVec.ofNat 64 (Nat.ofDigits 256 l) := by
    rw [Nat.ofDigits_eq_foldr, List.foldr_map]; rfl
  have hdigit : ∀ x ∈ l, x < 256 := by
    simp only [l, List.forall_mem_map]
    exact fun i _ => BitVec.isLt _
  have hfits : Nat.ofDigits 256 l < 2 ^ 64 := by
    simpa [l] using Nat.ofDigits_lt_base_pow_length (by decide) hdigit
  have hdrop : l.drop j = l[j]'(by simpa [l] using hj) :: l.drop (j + 1) := List.drop_eq_getElem_cons _
  apply BitVec.eq_of_toNat_eq
  rw [hdata, BitVec.extractLsb'_toNat, BitVec.toNat_ofNat, Nat.mod_eq_of_lt hfits, Nat.shiftRight_eq_div_pow,
    Nat.pow_mul, Nat.ofDigits_div_pow_eq_ofDigits_drop j (by decide) l hdigit, hdrop, Nat.ofDigits_cons]
  simp [l]
  omega

/-- A byte shifted to position `i` of a word stands in that position alone. -/
theorem getLsbD_shifted_byte {n : Nat} (hn : n < 2 ^ 8) (i : Nat) {j t : Nat} (hj : j < 8) (ht : t < 8) :
    (BitVec.ofNat 64 (n * 2 ^ (8 * i))).getLsbD (8 * j + t) = (decide (j = i) && n.testBit t) := by
  have hin : 8 * j + t < 64 := by omega
  rw [BitVec.getLsbD_ofNat, Nat.testBit_mul_two_pow, decide_eq_true hin, Bool.true_and]
  obtain hlt | rfl | hgt := Nat.lt_trichotomy j i
  · have hbelow : ¬ 8 * i ≤ 8 * j + t := by omega
    simp [hbelow, hlt.ne]
  · simp
  · have hnext : 8 ≤ 8 * j + t - 8 * i := by omega
    have habove : n < 2 ^ (8 * j + t - 8 * i) := hn.trans_le (Nat.pow_le_pow_right (by decide) hnext)
    simp [Nat.testBit_lt_two_pow habove, hgt.ne']

theorem putByte_byte (v : DWord) (i : Nat) (b : Byte) {j : Nat} (hj : j < 8) :
    (putByte v i b).extractLsb' (8 * j) 8 = if j = i then b else v.extractLsb' (8 * j) 8 := by
  ext t ht
  have hin : 8 * j + t < 64 := by omega
  have hmask : (0xFF : Nat).testBit t = true := by
    rw [show 0xFF = 2 ^ 8 - 1 from rfl, Nat.testBit_two_pow_sub_one, decide_eq_true ht]
  simp only [BitVec.getElem_extractLsb', putByte, BitVec.getLsbD_or, BitVec.getLsbD_and, BitVec.getLsbD_not,
    getLsbD_shifted_byte (n := 0xFF) (by decide) i hj ht, getLsbD_shifted_byte b.isLt i hj ht, hmask]
  by_cases hi : j = i
  · simp [hi, BitVec.testBit_toNat, BitVec.getLsbD_eq_getElem ht]
  · simp [hi, hin]

/-- Bytes put in a word one after the other: position `j` reads `b` where some byte goes there and every such byte
is `b`. -/
theorem foldl_putByte_byte {p : List (Nat × Byte)} {j : Nat} {b : Byte} (hj : j < 8)
    (hsame : ∀ b', (j, b') ∈ p → b' = b) (v : DWord)
    (hput : (j, b) ∈ p ∨ v.extractLsb' (8 * j) 8 = b) :
    (p.foldl (fun v e => putByte v e.1 e.2) v).extractLsb' (8 * j) 8 = b := by
  induction p generalizing v with
  | nil => simpa using hput
  | cons e r ih =>
    obtain ⟨i, c⟩ := e
    refine ih (fun b' hb' => hsame b' (List.mem_cons_of_mem _ hb')) _ ?_
    rw [putByte_byte v i c hj]
    by_cases hi : j = i
    · subst hi
      exact .inr (by simpa using hsame c List.mem_cons_self)
    · simpa [hi] using hput

/-! ### A word after it is written whole -/

theorem putWord_wordPoison (s : State) (w : Nat) (v : MWord) : (s.putWord w v).wordPoison w = v.poison :=
  SMap.get_set_same _ _ _ _

theorem putWord_wordUpsets (s : State) (w : Nat) (v : MWord) : (s.putWord w v).wordUpsets w = 0 :=
  SMap.get_set_same 0 s.mem.upsets w 0

theorem putWord_eccClass (s : State) (w : Nat) (v : MWord) : (s.putWord w v).eccClass w = 0 := by
  simp [State.eccClass, putWord_wordUpsets]

/-- A list of keys set one after the other: each reads as it was set. -/
theorem SMap.get_foldl_set {α : Type} [DecidableEq α] (d : α) (f : Nat → α) (k : Nat) {l : List Nat} {j : Nat}
    (m : SMap α) (hput : j ∈ l ∨ SMap.get d m (k + j) = f j) :
    SMap.get d (l.foldl (fun b i => SMap.set d b (k + i) (f i)) m) (k + j) = f j := by
  induction l generalizing m with
  | nil => simpa using hput
  | cons i r ih =>
    apply ih
    by_cases hi : j = i
    · exact .inr (by rw [hi, SMap.get_set_same])
    · rw [SMap.get_set_other d m (f i) (by omega)]
      simpa [hi] using hput

theorem putWord_wordData_byte (s : State) (w : Nat) (v : MWord) {j : Nat} (hj : j < 8) :
    ((s.putWord w v).wordData w).extractLsb' (8 * j) 8 = v.val.extractLsb' (8 * j) 8 := by
  rw [wordData_byte _ w hj]
  exact SMap.get_foldl_set 0 (fun i => v.val.extractLsb' (8 * i) 8) (8 * w) s.mem.bytes
    (.inl (List.mem_range.mpr hj))

theorem putWord_readByte (s : State) (w : Nat) (v : DWord) {j : Nat} (hj : j < 8) :
    (s.putWord w { val := v, poison := false }).readByte (8 * w + j) = (v.extractLsb' (8 * j) 8, false) := by
  have hdiv : (8 * w + j) / 8 = w := by omega
  have hmod : (8 * w + j) % 8 = j := by omega
  simp [State.readByte, State.peek, hdiv, hmod, putWord_wordPoison, putWord_wordUpsets, putWord_eccClass,
    putWord_wordData_byte s w _ hj]

/-! ### The words and bytes of a write -/

/-- A range of bytes inside one word touches that word alone. -/
theorem wordsOf_within_word {w i n : Nat} (hn : 0 < n) (hfit : i + n ≤ 8) : wordsOf (8 * w + i) n = [w] := by
  have hfirst : (8 * w + i) / 8 = w := by omega
  have hlast : (8 * w + i + n - 1) / 8 = w := by omega
  have hone : w + 1 - w = 1 := by omega
  simp [wordsOf, hn.ne', hfirst, hlast, hone]

theorem mem_bytesIn {k w j : Nat} {l : List Byte} {b : Byte} :
    (j, b) ∈ bytesIn k l w ↔ j < 8 ∧ k ≤ 8 * w + j ∧ l[8 * w + j - k]? = some b := by
  simp only [bytesIn, List.mem_filterMap, List.mem_range]
  constructor
  · rintro ⟨i, hi, he⟩
    split at he
    · cases he
    · obtain ⟨c, hc, he⟩ := Option.map_eq_some_iff.mp he
      cases he
      exact ⟨hi, by omega, hc⟩
  · rintro ⟨hj, hk, hb⟩
    exact ⟨j, hj, by simp [hk, hb]⟩

/-- All eight bytes of a word are in a write exactly where it covers the word. -/
theorem bytesIn_length_eq_eight {k w : Nat} {l : List Byte} :
    (bytesIn k l w).length = 8 ↔ k ≤ 8 * w ∧ 8 * w + 8 ≤ k + l.length := by
  have hall : (bytesIn k l w).length = 8 ↔ ∀ i, i < 8 → k ≤ 8 * w + i ∧ 8 * w + i - k < l.length := by
    refine List.filterMap_length_eq_length (l := List.range 8).trans ?_
    simp only [List.mem_range]
    refine forall₂_congr fun i _ => ?_
    split
    · simp; omega
    · simp; omega
  rw [hall]
  constructor
  · intro h
    obtain ⟨hfirst, -⟩ := h 0 (by decide)
    obtain ⟨-, hlast⟩ := h 7 (by decide)
    omega
  · intro h i hi
    omega

/-- A write inside one word is that word's write alone, and the count of its bytes. -/
theorem writeBytes_within_word (s : State) (src : Nat) {w i : Nat} {l : List Byte} (hl : 0 < l.length)
    (hfit : i + l.length ≤ 8) :
    s.writeBytes src (8 * w + i) l =
      (if (bytesIn (8 * w + i) l w).length = 8 then
        s.putWord w { val := (bytesIn (8 * w + i) l w).foldl (fun v e => putByte v e.1 e.2) 0, poison := false }
      else s.writePart src w (bytesIn (8 * w + i) l w)).noteBytes (8 * w + i) false l.length := by
  simp [State.writeBytes, wordsOf_within_word hl hfit]

theorem writePart_of_poison {s : State} {w : Nat} (h : s.wordPoison w = true) (src : Nat) (l : List (Nat × Byte)) :
    s.writePart src w l = s.incSat (keyPage (8 * w)) rPoisonRead := by
  simp [State.writePart, h]

/-! ### A write that covers a word, and one that does not -/

/-- A write of eight bytes at a word replaces the word by one without poison. -/
theorem writeBytes_whole_word (s : State) (src w : Nat) {l : List Byte} (hl : l.length = 8) :
    ∃ v : DWord, (∀ j, ∀ h : j < l.length, v.extractLsb' (8 * j) 8 = l[j]) ∧
      s.writeBytes src (8 * w) l = (s.putWord w { val := v, poison := false }).noteBytes (8 * w) false 8 := by
  refine ⟨(bytesIn (8 * w) l w).foldl (fun v e => putByte v e.1 e.2) 0, fun j hj => ?_, ?_⟩
  · have hmem : ∀ b, (j, b) ∈ bytesIn (8 * w) l w ↔ l[j] = b := by
      intro b
      have hj8 : j < 8 := hl ▸ hj
      simp [mem_bytesIn, hj8, hj]
    exact foldl_putByte_byte (hl ▸ hj) (fun b hb => ((hmem b).mp hb).symm) 0 (.inl ((hmem _).mpr rfl))
  · have hcover : (bytesIn (8 * w) l w).length = 8 := bytesIn_length_eq_eight.mpr (by omega)
    have hwrite := writeBytes_within_word s src (w := w) (i := 0) (l := l) (by omega) (by omega)
    simpa [hcover, hl] using hwrite

/-- A shorter write in a poisoned word is discarded and counted. -/
theorem writeBytes_part_of_poison {s : State} {w : Nat} (hp : s.wordPoison w = true) (src : Nat) {i : Nat}
    {l : List Byte} (hl : 0 < l.length) (hfit : i + l.length ≤ 8) (hshort : l.length < 8) :
    s.writeBytes src (8 * w + i) l =
      (s.incSat (keyPage (8 * w)) rPoisonRead).noteBytes (8 * w + i) false l.length := by
  have hpart : (bytesIn (8 * w + i) l w).length ≠ 8 := by
    rw [Ne, bytesIn_length_eq_eight]; omega
  rw [writeBytes_within_word s src hl hfit, if_neg hpart, writePart_of_poison hp]

/-- Settles O43: a write of eight bytes puts the word with valid check bits, and a shorter one is only counted. -/
theorem poisonedWordWrites : Obligations.PoisonedWordWrites := by
  intro s src w i l hp hl hfit t
  refine ⟨fun hwhole => ?covers, fun hshort => ?short⟩
  case covers =>
    obtain rfl : i = 0 := by omega
    obtain ⟨v, hv, hwrite⟩ := writeBytes_whole_word s src w hwhole
    have ht : t = (s.putWord w { val := v, poison := false }).noteBytes (8 * w) false 8 := hwrite
    rw [ht]
    refine ⟨?_, ?_, fun j hj => ?_⟩
    · rw [noteBytes_wordPoison, putWord_wordPoison]
    · rw [noteBytes_eccClass, putWord_eccClass]
    · rw [noteBytes_readByte, putWord_readByte s w v (hwhole ▸ hj), hv j hj]
  case short =>
    have ht : t = (s.incSat (keyPage (8 * w)) rPoisonRead).noteBytes (8 * w + i) false l.length :=
      writeBytes_part_of_poison hp src hl hfit hshort
    rw [ht]
    refine ⟨?_, ?_⟩
    · rw [noteBytes_mem, incSat_mem]
    · rw [noteBytes_reg, incSat_reg_same_toNat]

end Sys2Proof.Machine
end

section
/-! SUPPORT. How a fault is recorded in a page's header and how a host write clears it (R402): the fields of FAULT,
what `State.raise` leaves in the header, what a W1C write of FAULT does, and the statement they settle. -/

namespace Sys2Proof.Machine

/-! ### The fields of FAULT -/

theorem withField_lastCode_toNat (w : Word) {code : Nat} (hcode : code < 2 ^ 16) :
    (withField w 31 16 code).toNat = 2 ^ 16 * code + w.toNat % 2 ^ 16 := by
  have hw := w.isLt
  simp only [withField, fieldOf, BitVec.toNat_ofNat]
  omega

theorem fieldOf_withField_lastCode (w : Word) {code : Nat} (hcode : code < 2 ^ 16) :
    fieldOf (withField w 31 16 code) 31 16 = code := by
  rw [fieldOf, withField_lastCode_toNat w hcode]
  omega

/-- LAST_CODE stands above the class bits, which keep their values. -/
theorem withField_lastCode_getLsbD (w : Word) {code i : Nat} (hcode : code < 2 ^ 16) (hi : i < 16) :
    (withField w 31 16 code).getLsbD i = w.getLsbD i := by
  simp only [BitVec.getLsbD, withField_lastCode_toNat w hcode]
  rw [Nat.testBit_two_pow_mul_add _ (Nat.mod_lt _ (by decide)), if_pos hi, Nat.testBit_mod_two_pow, decide_eq_true hi,
    Bool.true_and]

/-! ### The registers of a page -/

theorem regKey_ne_of_off_ne {page page' off off' : Nat} (hoff : off < 4096) (hoff' : off' < 4096) (h : off ≠ off') :
    regKey page off ≠ regKey page' off' := by
  unfold regKey; omega

@[simp] theorem count_reg (s : State) (page i n q off : Nat) : (s.count page i n).reg q off = s.reg q off := rfl

/-! ### A fault that is recorded -/

/-- FAULT after a fault is recorded over its old value: the class bit is set, and LAST_CODE is the code (R402). -/
def faultWord (old : Word) (code : Nat) : Word :=
  withField (old ||| BitVec.ofNat 32 (2 ^ (code / 256))) 31 16 code

/-- The header of a page after a fault: FAULT, and FAULT_FIRST where CLASS was all zero (R402). -/
def State.recordFault (s : State) (page code : Nat) : State :=
  if fieldOf (s.reg page rFault) 10 1 = 0 then
    (s.poke page rFault (faultWord (s.reg page rFault) code)).poke page rFaultFirst (BitVec.ofNat 32 code)
  else s.poke page rFault (faultWord (s.reg page rFault) code)

theorem fieldOf_faultWord_lastCode (old : Word) {code : Nat} (hcode : code < 2 ^ 16) :
    fieldOf (faultWord old code) 31 16 = code := fieldOf_withField_lastCode _ hcode

theorem faultWord_getLsbD_class (old : Word) {code i : Nat} (hcode : code < 2 ^ 16) (hi : i < 16) :
    (faultWord old code).getLsbD i = (old.getLsbD i || decide (code / 256 = i)) := by
  rw [faultWord, withField_lastCode_getLsbD _ hcode hi, BitVec.getLsbD_or, BitVec.getLsbD_ofNat, Nat.testBit_two_pow,
    decide_eq_true (by omega : i < 32), Bool.true_and]

theorem recordFault_reg_fault (s : State) (page code : Nat) :
    (s.recordFault page code).reg page rFault = faultWord (s.reg page rFault) code := by
  have hkey : regKey page rFault ≠ regKey page rFaultFirst :=
    regKey_ne_of_off_ne (by decide) (by decide) (by decide)
  unfold State.recordFault
  split
  · rw [poke_reg_other _ hkey, poke_reg_same]
  · rw [poke_reg_same]

theorem recordFault_reg_faultFirst (s : State) (page code : Nat) :
    (s.recordFault page code).reg page rFaultFirst =
      if fieldOf (s.reg page rFault) 10 1 = 0 then BitVec.ofNat 32 code else s.reg page rFaultFirst := by
  have hkey : regKey page rFaultFirst ≠ regKey page rFault :=
    regKey_ne_of_off_ne (by decide) (by decide) (by decide)
  unfold State.recordFault
  split
  · rw [poke_reg_same]
  · rw [poke_reg_other _ hkey]

/-- A fault in a die page is also the die's LAST_FAULT, and counted in DIE_HEALTH (R333). -/
def State.recordLastFault (s : State) (page code : Nat) : State :=
  if isDiePage page then
    (s.poke (pgDieHealth (pageDie page)) 0x044 (BitVec.ofNat 32 (code * 65536 + pageOff page))).count
      (pgDieHealth (pageDie page)) 0
  else s

/-- The keeper, the contexts and the page's open bracket take note of a fault (R318, R324, R333). -/
def State.tellFault (s : State) (page code : Nat) : State :=
  let t : State := { s with
    keeper := { s.keeper with lastFault := BitVec.ofNat 16 code }
    bnd := { s.bnd with ctx := s.bnd.ctx.map fun e => (e.1, e.2.noteFault page) } }
  match t.openBracket page with
  | some n => t.setPbundle n { t.pbundle n with fault := true }
  | none => t

/-- What a fault does in a page that does not keep its values since its die went out (R344). -/
theorem raise_eq (s : State) {page : Nat} (code : Nat)
    (hin : isDiePage page = true → s.dieOut (pageDie page) = false ∨ page = pgDieHealth (pageDie page)) :
    s.raise page code = ((s.recordFault page code).recordLastFault page code).tellFault page code := by
  have hrecords : ¬ (isDiePage page && s.dieOut (pageDie page) && page != pgDieHealth (pageDie page)) = true := by
    simpa [imp_iff_not_or, or_assoc] using hin
  rw [State.raise, if_neg hrecords]
  rfl

@[simp] theorem tellFault_reg (s : State) (page code q off : Nat) :
    (s.tellFault page code).reg q off = s.reg q off := by
  unfold State.tellFault
  dsimp only
  split <;> rfl

/-- LAST_FAULT stands above the header of every page. -/
theorem recordLastFault_reg_header (s : State) (page code q : Nat) {off : Nat} (hoff : off < 0x044) :
    (s.recordLastFault page code).reg q off = s.reg q off := by
  unfold State.recordLastFault
  split
  · rw [count_reg, poke_reg_other s (regKey_ne_of_off_ne (by omega) (by decide) (by omega))]
  · rfl

theorem raise_reg_header (s : State) {page off : Nat} (code : Nat)
    (hin : isDiePage page = true → s.dieOut (pageDie page) = false ∨ page = pgDieHealth (pageDie page))
    (hoff : off < 0x044) : (s.raise page code).reg page off = (s.recordFault page code).reg page off := by
  rw [raise_eq s code hin, tellFault_reg, recordLastFault_reg_header _ _ _ _ hoff]

/-- A fault recorded sets its class bit and LAST_CODE, and FAULT_FIRST if no class was set: the first clause of
R402. -/
theorem raise_records (s : State) {page code : Nat} (hlt : code < 2816)
    (hin : isDiePage page = true → s.dieOut (pageDie page) = false ∨ page = pgDieHealth (pageDie page)) :
    let t := s.raise page code
    (t.reg page rFault).getLsbD (code / 256) = true ∧ fieldOf (t.reg page rFault) 31 16 = code ∧
    (∀ i, i < 16 → i ≠ code / 256 → (t.reg page rFault).getLsbD i = (s.reg page rFault).getLsbD i) ∧
    t.reg page rFaultFirst =
      if fieldOf (s.reg page rFault) 10 1 = 0 then BitVec.ofNat 32 code else s.reg page rFaultFirst := by
  have hcode : code < 2 ^ 16 := by omega
  have hclass : code / 256 < 16 := by omega
  intro t
  rw [raise_reg_header s code hin (by decide), raise_reg_header s code hin (by decide), recordFault_reg_fault,
    recordFault_reg_faultFirst]
  refine ⟨?_, fieldOf_faultWord_lastCode _ hcode, fun i hi hne => ?_, rfl⟩
  · simp [faultWord_getLsbD_class _ hcode hclass]
  · simp [faultWord_getLsbD_class _ hcode hi, hne.symm]

/-! ### A host write of FAULT -/

theorem count_only_cnt {s t : State} (h : ∃ c, t = { s with cnt := c }) (page i : Nat) :
    ∃ c, t.count page i = { s with cnt := c } := by
  obtain ⟨c, rfl⟩ := h
  exact ⟨_, rfl⟩

/-- An access changes nothing but the header counters. -/
theorem noteAccess_only_cnt (s : State) (i addr : Nat) (regular : Bool) :
    ∃ c, s.noteAccess i addr regular = { s with cnt := c } := by
  have hfirst : ∃ c, s.count pgEngineId i = { s with cnt := c } := ⟨_, rfl⟩
  have hsecond : ∃ c, (if regular then s.count pgEngineId i else (s.count pgEngineId i).count pgSummary 1) =
      { s with cnt := c } := by
    split
    · exact hfirst
    · exact count_only_cnt hfirst _ _
  unfold State.noteAccess
  dsimp only
  split
  · exact count_only_cnt hsecond _ _
  · exact hsecond

/-- A W1C write that reaches the endpoint is counted and then written to its register. -/
theorem exec_w1cWrite_reaches {s : State} {a : BitVec 26} {page off : Nat} (h : s.reaches a page off)
    (v sets : Word) :
    ∃ c, exec (.w1cWrite a 4 v sets) s =
      .next (s.finish (({ s with cnt := c } : State).writeReg page off v sets)) := by
  obtain ⟨hlink, hawake, haddr, hoff, halign⟩ := h
  have hpage : a.toNat / 4096 = page := by omega
  have hreg : a.toNat % 4096 = off := by omega
  have hregular : a.toNat % 4 = 0 := by omega
  obtain ⟨c, hc⟩ := noteAccess_only_cnt s 2 a.toNat true
  refine ⟨c, ?_⟩
  change s.barWrite a 4 v sets = _
  simp [State.barWrite, State.hostWrite, ok_next, hlink, hawake, hpage, hreg, hregular, hc]

/-- FAULT of a page of any kind is written by its W1C bits alone (Table 16.4). -/
theorem writeReg_fault {s : State} {page : Nat} {k : PageKind} (htakes : s.takesWrites page = true)
    (hkind : pageKind page = some k) (v sets : Word) :
    s.writeReg page rFault v sets = s.writeW1c page rFault 0x7FE v sets := by
  have hrow : regRow k rFault = some ⟨0x10, 0, 1, 0xFFFF0000, 0, 0, 0x7FE, 0, 0, 0, false⟩ := rfl
  have hlo : regIsHi k rFault = false := rfl
  have hctl : rFault ≠ 8 := by decide
  simp [State.writeReg, State.writeOne, htakes, hkind, hrow, hlo, hctl]

/-- The two outcomes of a write that clears bits of FAULT: CLASS is left all zero, or not (R402). -/
theorem writeW1c_fault (s : State) (page : Nat) (v : Word) :
    s.writeW1c page rFault 0x7FE v 0 =
      if fieldOf (s.reg page rFault &&& ~~~(v &&& 0x7FE)) 10 1 = 0 then
        (s.poke page rFault 0).poke page rFaultFirst 0
      else s.poke page rFault (s.reg page rFault &&& ~~~(v &&& 0x7FE)) := by
  have hmask : v &&& 0x7FE &&& ~~~0 = v &&& 0x7FE := BitVec.and_allOnes
  rw [State.writeW1c, if_pos rfl, hmask]

/-- The header after a write that clears bits of FAULT, and what the write leaves unchanged. -/
theorem writeW1c_fault_clears (s : State) (page : Nat) (v : Word) :
    let t := s.writeW1c page rFault 0x7FE v 0
    let new := s.reg page rFault &&& ~~~(v &&& 0x7FE)
    (if fieldOf new 10 1 = 0 then t.reg page rFault = 0 ∧ t.reg page rFaultFirst = 0
      else t.reg page rFault = new ∧ t.reg page rFaultFirst = s.reg page rFaultFirst) ∧
    (∀ p o, regKey p o ≠ regKey page rFault → regKey p o ≠ regKey page rFaultFirst → t.reg p o = s.reg p o) ∧
    t = { s with regs := t.regs } := by
  intro t new
  have hkey : regKey page rFault ≠ regKey page rFaultFirst :=
    regKey_ne_of_off_ne (by decide) (by decide) (by decide)
  have ht : t = if fieldOf new 10 1 = 0 then (s.poke page rFault 0).poke page rFaultFirst 0
      else s.poke page rFault new := writeW1c_fault s page v
  by_cases hclear : fieldOf new 10 1 = 0
  case pos =>
    rw [ht, if_pos hclear, if_pos hclear]
    refine ⟨⟨?_, poke_reg_same _⟩, fun p o hfault hfirst => ?_, rfl⟩
    · rw [poke_reg_other _ hkey, poke_reg_same]
    · rw [poke_reg_other _ hfirst, poke_reg_other _ hfault]
  case neg =>
    rw [ht, if_neg hclear, if_neg hclear]
    exact ⟨⟨poke_reg_same _, poke_reg_other _ hkey.symm⟩, fun p o hfault _ => poke_reg_other _ hfault, rfl⟩

/-- Settles O44, from the header that a fault leaves and the two outcomes of a write of FAULT. -/
theorem faultsAreRecorded : Obligations.FaultsAreRecorded := by
  refine ⟨fun s page code _ hlt hin => raise_records s hlt hin, fun s a v k page hreach htakes hkind => ?_⟩
  obtain ⟨c, hexec⟩ := exec_w1cWrite_reaches hreach v 0
  let u : State := { s with cnt := c }
  have htakesU : u.takesWrites page = true := htakes
  obtain ⟨hheader, hother, hframe⟩ := writeW1c_fault_clears u page v
  rw [writeReg_fault htakesU hkind] at hexec
  refine ⟨_, hexec, hheader, hother, ?_⟩
  rw [hframe]
  rfl

end Sys2Proof.Machine
end

section
/-! SUPPORT. What a step can do, said once: it takes the front command, which has an effect that `Keeps` allows
(Laws/Keeps.lean). The invariants of the machine are its parts. -/

namespace Sys2Proof.Machine

/-! ### Every command keeps what `Keeps` speaks of -/

theorem keepsO_exec (c : Instr) {a s : State} (h : Keeps a s) : KeepsO a (exec c s) := by
  cases c with
  | loRead _ _ => exact keeps_execLoRead h
  | hiWrite _ _ _ => exact keeps_execHiWrite h
  | loWrite _ _ _ => exact keeps_execLoWrite h
  | w1cWrite _ _ _ _ => exact keeps_execW1cWrite h
  | rcRead _ _ => exact keeps_execRcRead h
  | rsWrite _ _ _ => exact keeps_execRsWrite h
  | registerWrite _ _ _ => exact keeps_execRegisterWrite h
  | ledgerSampleRead _ _ => exact keeps_execLedgerSampleRead h
  | pass _ _ _ => exact keeps_execPass h
  | preloadDone _ _ _ => exact keeps_execPreloadDone h
  | passRunEnd _ _ _ => exact keeps_execPassRunEnd h
  | steelyardCheck _ _ _ _ => exact keeps_execSteelyardCheck h
  | styWindowExpiry _ _ => exact keeps_execStyWindowExpiry h
  | replayedPassCheck _ _ _ _ => exact keeps_execReplayedPassCheck h
  | broadcastStart _ _ _ _ => exact keeps_execBroadcastStart h
  | bankFull _ _ _ _ => exact keeps_execBankFull h
  | tileWindowOpen _ _ _ _ _ => exact keeps_execTileWindowOpen h
  | tileWindowClose _ _ _ _ _ => exact keeps_execTileWindowClose h
  | bcastSlotRelease _ _ _ _ => exact keeps_execBcastSlotRelease h
  | writebackStart _ _ _ => exact keeps_execWritebackStart h
  | writebackDone _ _ _ => exact keeps_execWritebackDone h
  | drain _ _ _ => exact keeps_execDrain h
  | drainStart _ _ => exact keeps_execDrainStart h
  | drainDone _ _ => exact keeps_execDrainDone h
  | loadw _ _ _ => exact keeps_execLoadw h
  | privateRecordLoaded _ _ _ => exact keeps_execPrivateRecordLoaded h
  | markPost _ _ _ => exact keeps_execMarkPost h
  | markWait _ _ _ => exact keeps_execMarkWait h
  | rearm _ _ _ => exact keeps_execRearm h
  | bundleOpen _ _ _ => exact keeps_execBundleOpen h
  | bundleClose _ _ _ => exact keeps_execBundleClose h
  | bellWait _ _ _ => exact keeps_execBellWait h
  | basketPut _ _ _ => exact keeps_execBasketPut h
  | ballast _ _ _ => exact keeps_execBallast h
  | halt _ _ _ => exact keeps_execHalt h
  | dutyHoldExpiry _ _ => exact keeps_execDutyHoldExpiry h
  | dutyStepDown _ _ => exact keeps_execDutyStepDown h
  | dutyStepUp _ _ => exact keeps_execDutyStepUp h
  | transferIssue _ _ _ => exact keeps_execTransferIssue h
  | transferComplete _ _ _ _ => exact keeps_execTransferComplete h
  | roundItemTake _ _ => exact keeps_execRoundItemTake h
  | roundItemArrival _ _ => exact keeps_execRoundItemArrival h
  | roundItemForward _ _ => exact keeps_execRoundItemForward h
  | roundRelease _ _ => exact keeps_execRoundRelease h
  | roundCredit _ _ => exact keeps_execRoundCredit h
  | checkGo => exact keeps_execCheckGo h
  | imageCheckDone _ => exact keeps_execImageCheckDone h
  | abort => exact keeps_execAbort h
  | load => exact keeps_execLoad h
  | run => exact keeps_execRun h
  | budgetExpiry _ _ => exact keeps_execBudgetExpiry h
  | breachStamp => exact keeps_execBreachStamp h
  | replayResume => exact keeps_execReplayResume h
  | stepBarrier => exact keeps_execStepBarrier h
  | programHalted => exact keeps_execProgramHalted h
  | fetchSend _ _ => exact keeps_execFetchSend h
  | weightFrame _ _ _ => exact keeps_execWeightFrame h
  | arriveUsExpiry _ _ => exact keeps_execArriveUsExpiry h
  | keyErase _ _ => exact keeps_execKeyErase h
  | keyEraseApply _ => exact keeps_execKeyEraseApply h
  | dieReady _ _ => exact keeps_execDieReady h
  | readyStamp _ _ _ => exact keeps_execReadyStamp h
  | deadlineExpiry _ => exact keeps_execDeadlineExpiry h
  | includedReceive _ _ => exact keeps_execIncludedReceive h
  | chunkLevelStart _ _ _ => exact keeps_execChunkLevelStart h
  | chunkLevelDone _ _ _ => exact keeps_execChunkLevelDone h
  | engineStageDone _ => exact keeps_execEngineStageDone h
  | levelSatWindow _ => exact keeps_execLevelSatWindow h
  | nonSloubPacket _ => exact keeps_execNonSloubPacket h
  | neighborSolicitation _ _ => exact keeps_execNeighborSolicitation h
  | pauseFrame _ => exact keeps_execPauseFrame h
  | openRequestFrame _ _ _ => exact keeps_execOpenRequestFrame h
  | openAcceptFrame _ _ _ => exact keeps_execOpenAcceptFrame h
  | closeFrame _ _ _ => exact keeps_execCloseFrame h
  | refuseFrame _ _ _ => exact keeps_execRefuseFrame h
  | nackFrame _ _ _ => exact keeps_execNackFrame h
  | creditFrame _ _ _ => exact keeps_execCreditFrame h
  | frameEgress _ _ => exact keeps_execFrameEgress h
  | openReq _ _ => exact keeps_execOpenReq h
  | slotEligible _ _ => exact keeps_execSlotEligible h
  | closeReq _ _ => exact keeps_execCloseReq h
  | purge => exact keeps_execPurge h
  | rtoExpiry _ _ => exact keeps_execRtoExpiry h
  | ackDelayExpiry _ _ => exact keeps_execAckDelayExpiry h
  | writeOffExpiry _ _ => exact keeps_execWriteOffExpiry h
  | shutterCreditTick _ => exact keeps_execShutterCreditTick h
  | linkDown _ => exact keeps_execLinkDown h
  | linkUp _ => exact keeps_execLinkUp h
  | portHoldExpiry _ => exact keeps_execPortHoldExpiry h
  | bndOpen _ => exact keeps_execBndOpen h
  | bndCommit _ => exact keeps_execBndCommit h
  | bndAbort _ => exact keeps_execBndAbort h
  | bundlePrepare _ _ => exact keeps_execBundlePrepare h
  | blockHoldReady _ _ _ => exact keeps_execBlockHoldReady h
  | bundleReady _ _ => exact keeps_execBundleReady h
  | bundleNak _ _ => exact keeps_execBundleNak h
  | bundleApply _ _ => exact keeps_execBundleApply h
  | bundleAbortReceive _ _ => exact keeps_execBundleAbortReceive h
  | commitWindowExpiry _ => exact keeps_execCommitWindowExpiry h
  | ledgerCheck _ _ => exact keeps_execLedgerCheck h
  | heartbeat _ => exact keeps_execHeartbeat h
  | selfTestDone _ _ _ => exact keeps_execSelfTestDone h
  | remapReq => exact keeps_execRemapReq h
  | dieOutSet _ => exact keeps_execDieOutSet h
  | dieReadmit _ => exact keeps_execDieReadmit h
  | portMoveClear _ => exact keeps_execPortMoveClear h
  | flitResendFail _ _ _ => exact keeps_execFlitResendFail h
  | retrainDone _ _ _ => exact keeps_execRetrainDone h
  | laneError _ _ _ _ => exact keeps_execLaneError h
  | laneWindowExpiry _ _ _ _ => exact keeps_execLaneWindowExpiry h
  | laneSwapDone _ _ _ => exact keeps_execLaneSwapDone h
  | waleRelayDone => exact keeps_execWaleRelayDone h
  | quarterRailShort _ _ => exact keeps_execQuarterRailShort h
  | spineRailShort _ => exact keeps_execSpineRailShort h
  | prsntNRelease => exact keeps_execPrsntNRelease h
  | prsntNAssert => exact keeps_execPrsntNAssert h
  | vinOutOfRange _ => exact keeps_execVinOutOfRange h
  | vinRecover _ => exact keeps_execVinRecover h
  | vinLoss => exact keeps_execVinLoss h
  | capWindowEnd _ _ _ => exact keeps_execCapWindowEnd h
  | stepLower => exact keeps_execStepLower h
  | capdownAssert => exact keeps_execCapdownAssert h
  | capdownRelease => exact keeps_execCapdownRelease h
  | capdownGroupStep => exact keeps_execCapdownGroupStep h
  | slewInterval _ => exact keeps_execSlewInterval h
  | shutterReqNChange _ => exact keeps_execShutterReqNChange h
  | shutter => exact keeps_execShutter h
  | wake => exact keeps_execWake h
  | shutterEntry => exact keeps_execShutterEntry h
  | shutterWaitExpiry => exact keeps_execShutterWaitExpiry h
  | shutterWake => exact keeps_execShutterWake h
  | wakeComplete _ => exact keeps_execWakeComplete h
  | tempSample _ _ _ => exact keeps_execTempSample h
  | thermalTrip _ _ => exact keeps_execThermalTrip h
  | ceilingStep => exact keeps_execCeilingStep h
  | dramTempThreshold _ _ => exact keeps_execDramTempThreshold h
  | tripRearm _ _ => exact keeps_execTripRearm h
  | quarterStartDone _ _ => exact keeps_execQuarterStartDone h
  | scrubWalkStep _ _ => exact keeps_execScrubWalkStep h
  | scrubRewrite _ => exact keeps_execScrubRewrite h
  | scrubNow _ => exact keeps_execScrubNow h
  | ceWindowExpiry _ => exact keeps_execCeWindowExpiry h
  | apertureRead _ _ => exact keeps_execApertureRead h
  | apertureWrite _ _ => exact keeps_execApertureWrite h
  | ctlWrite _ _ => exact keeps_execCtlWrite h
  | blockDrainDone _ => exact keeps_execBlockDrainDone h
  | blockStartDone _ => exact keeps_execBlockStartDone h
  | endpointReset _ => exact keeps_execEndpointReset h
  | powerApplied _ _ _ _ => exact keeps_execPowerApplied h
  | dieBootDone _ _ _ => exact keeps_execDieBootDone h
  | bootTimeout _ => exact keeps_execBootTimeout h
  | gaSample _ => exact keeps_execGaSample h
  | leidCommit => exact keeps_execLeidCommit h
  | keeperShutter => exact keeps_execKeeperShutter h
  | keeperWake => exact keeps_execKeeperWake h
  | cap _ => exact keeps_execCap h
  | keeperDrain => exact keeps_execKeeperDrain h
  | identify _ => exact keeps_execIdentify h
  | adoptLeid _ _ _ _ => exact keeps_execAdoptLeid h
  | adoptTimeExpiry => exact keeps_execAdoptTimeExpiry h
  | healthRecordRefresh => exact keeps_execHealthRecordRefresh h
  | healthRecordRequest => exact keeps_execHealthRecordRequest h
  | readHealth => exact keeps_execReadHealth h
  | mailboxIdentify => exact keeps_execMailboxIdentify h
  | readLog _ => exact keeps_execReadLog h
  | readRepair _ => exact keeps_execReadRepair h
  | mailboxDone => exact keeps_execMailboxDone h
  | pldmFwUpdate _ _ => exact keeps_execPldmFwUpdate h
  | activateFirmware => exact keeps_execActivateFirmware h
  | getSensorReading _ => exact keeps_execGetSensorReading h
  | getVersion => exact keeps_execGetVersion h
  | getCapabilities => exact keeps_execGetCapabilities h
  | negotiateAlgorithms => exact keeps_execNegotiateAlgorithms h
  | getDigests => exact keeps_execGetDigests h
  | getCertificate _ => exact keeps_execGetCertificate h
  | challenge _ => exact keeps_execChallenge h
  | getMeasurements _ _ => exact keeps_execGetMeasurements h
  | keyRequest _ _ _ _ => exact keeps_execKeyRequest h
  | keyDeliver _ _ _ => exact keeps_execKeyDeliver h
  | offerLapse _ => exact keeps_execOfferLapse h
  | meterSample _ da _ => exact keeps_execMeterSample (da := da) h
  | meterWindowEnd => exact keeps_execMeterWindowEnd h
  | snap => exact keeps_execSnap h
  | workReport _ => exact keeps_execWorkReport h
  | reportTimeout => exact keeps_execReportTimeout h
  | earlyClose => exact keeps_execEarlyClose h
  | final => exact keeps_execFinal h
  | finalTimeout => exact keeps_execFinalTimeout h
  | recordStored => exact keeps_execRecordStored h
  | meterStatus _ => exact keeps_execMeterStatus h
  | meterStatusTimeout => exact keeps_execMeterStatusTimeout h
  | meterPrsntChange _ => exact keeps_execMeterPrsntChange h
  | sealOpened => exact keeps_execSealOpened h
  | readStatus => exact keeps_execReadStatus h
  | readRecord _ => exact keeps_execReadRecord h
  | readCert _ => exact keeps_execReadCert h
  | setInterval _ => exact keeps_execSetInterval h
  | updateFw _ => exact keeps_execUpdateFw h
  | identifyIndicatorExpiry => exact keeps_execIdentifyIndicatorExpiry h
  | pcieLinkUp => exact keeps_execPcieLinkUp h
  | powerStateChange _ => exact keeps_execPowerStateChange h

/-- A step is the state itself, or the effect of the front command on the state with the queue's rest. -/
theorem step_eq_next_iff {s t : State} :
    step s = .next t ↔ (s.pending = [] ∧ s = t) ∨ ∃ c r, s.pending = c :: r ∧ exec c { s with pending := r } = .next t := by
  unfold step
  split
  · next h => simp [h]
  · next h => simp [h]

/-- A step keeps all that `Keeps` speaks of, with the front of the queue taken off. -/
theorem step_keeps {s t : State} (h : step s = .next t) : Keeps { s with pending := s.pending.tail } t := by
  obtain ⟨hnil, rfl⟩ | ⟨c, r, hcons, hexec⟩ := step_eq_next_iff.mp h
  · exact (Keeps.refl _).update (by simp [hnil]) rfl rfl rfl rfl rfl rfl
  · have hrest : ({ s with pending := s.pending.tail } : State) = { s with pending := r } := by simp [hcons]
    rw [hrest]
    exact (keepsO_exec c (Keeps.refl _)).keeps t hexec

/-- Settles O4. -/
theorem queueTakenInOrder : Obligations.QueueTakenInOrder := fun _ _ h => (step_keeps h).queue

/-- Settles O5. -/
theorem ledgersStayBalanced : Obligations.LedgersStayBalanced := fun _ _ hb h => (step_keeps h).led hb

/-- Settles O6. -/
theorem memoryStaysCanonical : Obligations.MemoryStaysCanonical := fun _ _ hm h => (step_keeps h).mem hm

/-- Settles O7. -/
theorem energyTotalNeverFalls : Obligations.EnergyTotalNeverFalls := fun _ _ h => (step_keeps h).energy

/-- Settles O8. -/
theorem fusesNeverFall : Obligations.FusesNeverFall := fun _ _ h => (step_keeps h).fuse

/-- Settles O9. -/
theorem stepNeverAboveCeiling : Obligations.StepNeverAboveCeiling := fun _ _ hw h => (step_keeps h).ceil hw

/-! ### Every command proceeds -/

@[simp] theorem proceeds_next (t : State) : Proceeds (.next t) := ⟨t, rfl⟩

@[simp] theorem proceeds_ok (s t : State) : Proceeds (s.ok t) := ⟨s.finish t, rfl⟩

@[simp] theorem proceeds_barRead (s : State) (a : BitVec 26) (n : Fin 9) : Proceeds (s.barRead a n) := by
  unfold State.barRead
  split
  · exact proceeds_ok _ _
  · exact proceeds_next _

@[simp] theorem proceeds_barWrite (s : State) (a : BitVec 26) (n : Fin 9) (v sets : Word) :
    Proceeds (s.barWrite a n v sets) := by
  unfold State.barWrite
  split
  · exact proceeds_ok _ _
  · exact proceeds_next _
/-- Every branch of every meaning answers a next state: none faults and none is refused. -/
theorem exec_proceeds (c : Instr) (s : State) : Proceeds (exec c s) := by
  cases c
  all_goals
    dsimp only [exec, execLoRead, execHiWrite, execLoWrite, execW1cWrite, execRcRead, execRsWrite, execRegisterWrite,
      execLedgerSampleRead, execPass, execPreloadDone, execPassRunEnd, execSteelyardCheck, execStyWindowExpiry,
      execReplayedPassCheck, execBroadcastStart, execBankFull, execTileWindowOpen, execTileWindowClose,
      execBcastSlotRelease, execWritebackStart, execWritebackDone, execDrain, execDrainStart, execDrainDone,
      execLoadw, execPrivateRecordLoaded, execMarkPost, execMarkWait, execRearm, execBundleOpen, execBundleClose,
      execBellWait, execBasketPut, execBallast, execHalt, execDutyHoldExpiry, execDutyStepDown, execDutyStepUp,
      execTransferIssue, execTransferComplete, execRoundItemTake, execRoundItemArrival, execRoundItemForward,
      execRoundRelease, execRoundCredit, execCheckGo, execImageCheckDone, execAbort, execLoad, execRun,
      execBudgetExpiry, execBreachStamp, execReplayResume, execStepBarrier, execProgramHalted, execFetchSend,
      execWeightFrame, execArriveUsExpiry, execKeyErase, execKeyEraseApply, execDieReady, execReadyStamp,
      execDeadlineExpiry, execIncludedReceive, execChunkLevelStart, execChunkLevelDone, execEngineStageDone,
      execLevelSatWindow, execNonSloubPacket, execNeighborSolicitation, execPauseFrame, execOpenRequestFrame,
      execOpenAcceptFrame, execCloseFrame, execRefuseFrame, execNackFrame, execCreditFrame, execFrameEgress,
      execOpenReq, execSlotEligible, execCloseReq, execPurge, execRtoExpiry, execAckDelayExpiry, execWriteOffExpiry,
      execShutterCreditTick, execLinkDown, execLinkUp, execPortHoldExpiry, execBndOpen, execBndCommit, execBndAbort,
      execBundlePrepare, execBlockHoldReady, execBundleReady, execBundleNak, execBundleApply,
      execBundleAbortReceive, execCommitWindowExpiry, execLedgerCheck, execHeartbeat, execSelfTestDone,
      execRemapReq, execDieOutSet, execDieReadmit, execPortMoveClear, execFlitResendFail, execRetrainDone,
      execLaneError, execLaneWindowExpiry, execLaneSwapDone, execWaleRelayDone, execQuarterRailShort,
      execSpineRailShort, execPrsntNRelease, execPrsntNAssert, execVinOutOfRange, execVinRecover, execVinLoss,
      execCapWindowEnd, execStepLower, execCapdownAssert, execCapdownRelease, execCapdownGroupStep,
      execSlewInterval, execShutterReqNChange, execShutter, execWake, execShutterEntry, execShutterWaitExpiry,
      execShutterWake, execWakeComplete, execTempSample, execThermalTrip, execCeilingStep, execDramTempThreshold,
      execTripRearm, execQuarterStartDone, execScrubWalkStep, execScrubRewrite, execScrubNow, execCeWindowExpiry,
      execApertureRead, execApertureWrite, execCtlWrite, execBlockDrainDone, execBlockStartDone, execEndpointReset,
      execPowerApplied, execDieBootDone, execBootTimeout, execGaSample, execLeidCommit, execKeeperShutter,
      execKeeperWake, execCap, execKeeperDrain, execIdentify, execAdoptLeid, execAdoptTimeExpiry,
      execHealthRecordRefresh, execHealthRecordRequest, execReadHealth, execMailboxIdentify, execReadLog,
      execReadRepair, execMailboxDone, execPldmFwUpdate, execActivateFirmware, execGetSensorReading, execGetVersion,
      execGetCapabilities, execNegotiateAlgorithms, execGetDigests, execGetCertificate, execChallenge,
      execGetMeasurements, execKeyRequest, execKeyDeliver, execOfferLapse, execMeterSample, execMeterWindowEnd,
      execSnap, execWorkReport, execReportTimeout, execEarlyClose, execFinal, execFinalTimeout, execRecordStored,
      execMeterStatus, execMeterStatusTimeout, execMeterPrsntChange, execSealOpened, execReadStatus, execReadRecord,
      execReadCert, execSetInterval, execUpdateFw, execIdentifyIndicatorExpiry, execPcieLinkUp, execPowerStateChange]
    repeat' split
    all_goals simp only [proceeds_next, proceeds_ok, proceeds_barRead, proceeds_barWrite]

/-- Settles O3. -/
theorem everyStepProceeds : Obligations.EveryStepProceeds := by
  intro s
  unfold step
  split
  · exact proceeds_next s
  · exact exec_proceeds _ _

/-! ### One step, and the state after reset -/

/-- Settles O1. -/
theorem stepRunsFrontCommand : Obligations.StepRunsFrontCommand := fun _ _ _ => rfl

/-- Settles O2. -/
theorem emptyQueueIdles : Obligations.EmptyQueueIdles := fun _ h => step_eq_next_iff.mpr (.inl ⟨h, rfl⟩)

/-- Settles O10. -/
theorem resetMeetsInvariants : Obligations.ResetMeetsInvariants := by
  refine ⟨fun d cls i => ?_, rfl, ⟨?_, ?_⟩, rfl⟩
  · have hreset : State.reset.ledger d cls i = Ledger.reset := rfl
    rw [hreset]
    decide
  · exact Nat.zero_le _
  · exact Nat.le_refl _

end Sys2Proof.Machine
end

section
/-! SUPPORT. Reset values of registers by page, and what a host write and a host read of one register do (R6 to R8,
R315, R331, R395 to R397), with the statements they settle. -/

namespace Sys2Proof.Machine

/-! ### The kinds of pages -/

theorem isDiePage_pgDie {d o : Nat} (hd : d < 64) (ho : o < 0x80) : isDiePage (pgDie d o) = true :=
  decide_eq_true (by unfold pgDie; omega)

theorem pageDie_pgDie (d : Nat) {o : Nat} (ho : o < 0x80) : pageDie (pgDie d o) = d := by
  unfold pageDie pgDie; omega

theorem pageOff_pgDie (d : Nat) {o : Nat} (ho : o < 0x80) : pageOff (pgDie d o) = o := by
  unfold pageOff pgDie; omega

theorem pageKind_pgDie {d o : Nat} (hd : d < 64) (ho : o < 0x80) : pageKind (pgDie d o) = diePageKind o := by
  unfold pageKind
  rw [if_pos (isDiePage_pgDie hd ho), pageOff_pgDie d ho]

theorem pageKind_pgStall {d p : Nat} (hd : d < 64) (hp : p < 72) : pageKind (pgStall d p) = some .stall := by
  have hrange : (decide (0x20 ≤ 0x20 + p) && decide (0x20 + p < 0x68)) = true := by
    simp only [Bool.and_eq_true, decide_eq_true_eq]; omega
  unfold pgStall
  rw [pageKind_pgDie hd (by omega)]
  unfold diePageKind
  rw [if_pos hrange]

theorem pageKind_pgPort {p : Nat} (hp : p < 64) : pageKind (pgPort p) = some .sloubPort := by
  have hdie : isDiePage (pgPort p) = false := decide_eq_false (by unfold pgPort; omega)
  have hrange : (decide (0x40 ≤ pgPort p) && decide (pgPort p < 0x80)) = true := by
    rw [Bool.and_eq_true, decide_eq_true_eq, decide_eq_true_eq]
    unfold pgPort
    omega
  unfold pageKind
  rw [hdie, if_neg Bool.false_ne_true, if_pos hrange]

/-! ### Reset values -/

theorem reset_reg (page off : Nat) : State.reset.reg page off = regReset page off := rfl

theorem regReset_of_kind {page off : Nat} {k : PageKind} (hk : pageKind page = some k) (hoff : off ≠ 8) :
    regReset page off = (regRow k off).elim 0 RegRow.reset := by
  simp only [regReset, hk, hoff, decide_false, Bool.false_and, Bool.false_eq_true, if_false]
  cases regRow k off <;> rfl

/-- The reset value of a register is the one its table's row gives. -/
theorem reset_reg_of_row {page off : Nat} {k : PageKind} (hk : pageKind page = some k) (hoff : off ≠ 8) {w : Word}
    (hrow : (regRow k off).elim 0 RegRow.reset = w) : State.reset.reg page off = w := by
  rw [reset_reg, regReset_of_kind hk hoff, hrow]

/-- Settles O11. -/
theorem resetRegisters : Obligations.ResetRegisters := by
  refine ⟨fun d p hd hp => ?stall, fun d hd => ?die, fun p hp => ?port, rfl, rfl, rfl, rfl, rfl, rfl⟩
  case stall =>
    have hk := pageKind_pgStall hd hp
    exact ⟨reset_reg_of_row hk (by decide) rfl, reset_reg_of_row hk (by decide) rfl,
      reset_reg_of_row hk (by decide) rfl, reset_reg_of_row hk (by decide) rfl⟩
  case die =>
    have hdram : pageKind (pgDram d) = some .dram := pageKind_pgDie hd (by decide)
    have hscrub : pageKind (pgScrub d) = some .scrub := pageKind_pgDie hd (by decide)
    exact ⟨reset_reg_of_row hdram (by decide) rfl, reset_reg_of_row hscrub (by decide) rfl,
      reset_reg_of_row hscrub (by decide) rfl⟩
  case port =>
    have hk := pageKind_pgPort hp
    exact ⟨reset_reg_of_row hk (by decide) rfl, reset_reg_of_row hk (by decide) rfl⟩

/-! ### A word of memory -/

theorem BitVec.eq_of_bytes {v w : DWord} (h : ∀ j, j < 8 → v.extractLsb' (8 * j) 8 = w.extractLsb' (8 * j) 8) :
    v = w := by
  apply BitVec.eq_of_getLsbD_eq
  intro i hi
  have hbit := congrArg (·.getLsbD (i % 8)) (h (i / 8) (by omega))
  simpa [Nat.mod_lt, Nat.div_add_mod] using hbit

theorem putWord_wordData (s : State) (w : Nat) (v : MWord) : (s.putWord w v).wordData w = v.val :=
  BitVec.eq_of_bytes fun _ hj => putWord_wordData_byte s w v hj

/-- A key that is none of those set reads as before. -/
theorem SMap.get_foldl_set_other {α : Type} [DecidableEq α] (d : α) (f : Nat → α) {k j : Nat} {l : List Nat}
    (m : SMap α) (hj : ∀ i ∈ l, j ≠ k + i) :
    SMap.get d (l.foldl (fun b i => SMap.set d b (k + i) (f i)) m) j = SMap.get d m j := by
  induction l generalizing m with
  | nil => rfl
  | cons i r ih =>
    rw [List.foldl_cons, ih _ fun i' hi' => hj i' (List.mem_cons_of_mem _ hi'),
      SMap.get_set_other d m _ (hj i List.mem_cons_self)]

theorem putWord_byte_other (s : State) {w a : Nat} (v : MWord) (ha : a / 8 ≠ w) :
    SMap.get 0 (s.putWord w v).mem.bytes a = SMap.get 0 s.mem.bytes a := by
  refine SMap.get_foldl_set_other 0 (fun i => v.val.extractLsb' (8 * i) 8) s.mem.bytes fun i hi => ?_
  have := List.mem_range.mp hi
  omega

theorem putWord_wordData_other (s : State) {w u : Nat} (v : MWord) (h : u ≠ w) :
    (s.putWord w v).wordData u = s.wordData u := by
  refine BitVec.eq_of_bytes fun j hj => ?_
  rw [wordData_byte _ u hj, wordData_byte _ u hj, putWord_byte_other s v (by omega)]

theorem putWord_wordPoison_other (s : State) {w u : Nat} (v : MWord) (h : u ≠ w) :
    (s.putWord w v).wordPoison u = s.wordPoison u := SMap.get_set_other false s.mem.poison v.poison h

theorem putWord_wordUpsets_other (s : State) {w u : Nat} (v : MWord) (h : u ≠ w) :
    (s.putWord w v).wordUpsets u = s.wordUpsets u := SMap.get_set_other 0 s.mem.upsets 0 h

theorem putWord_peek_same (s : State) (w : Nat) (v : MWord) : (s.putWord w v).peek w = v := by
  obtain ⟨x, p⟩ := v
  cases p <;> simp [State.peek, putWord_wordPoison, putWord_wordUpsets, putWord_eccClass, putWord_wordData]

theorem putWord_peek_other (s : State) {w u : Nat} (v : MWord) (h : u ≠ w) : (s.putWord w v).peek u = s.peek u := by
  simp only [State.peek, State.eccClass, putWord_wordPoison_other s v h, putWord_wordUpsets_other s v h,
    putWord_wordData_other s v h]

/-- Settles O12. -/
theorem memoryReadAfterWrite : Obligations.MemoryReadAfterWrite :=
  fun s w _ v => ⟨putWord_peek_same s w v, putWord_peek_other s v⟩

/-! ### The end of a host access -/

@[simp] theorem finish_held (s t : State) : (s.finish t).host.held = t.host.held := rfl
@[simp] theorem finish_latch (s t : State) : (s.finish t).host.latch = t.host.latch := rfl
@[simp] theorem finish_sample (s t : State) : (s.finish t).host.sample = t.host.sample := rfl
@[simp] theorem finish_linkUp (s t : State) : (s.finish t).host.linkUp = t.host.linkUp := rfl
@[simp] theorem finish_d3hot (s t : State) : (s.finish t).host.d3hot = t.host.d3hot := rfl

/-! ### A host write of one register -/

/-- A write that reaches the endpoint is counted and then written to its register. -/
theorem barWrite_reaches {s : State} {a : BitVec 26} {page off : Nat} (h : s.reaches a page off) (v sets : Word) :
    ∃ c, s.barWrite a 4 v sets = .next (s.finish (({ s with cnt := c } : State).writeReg page off v sets)) :=
  exec_w1cWrite_reaches h v sets

/-- A register that is no part of a pair is written alone. -/
theorem writeReg_single {s : State} {k : PageKind} {page off : Nat} {r : RegRow} (h : s.plainWrite k page off r)
    (hpair : r.pair = false) (hhi : regIsHi k off = false) (v sets : Word) :
    s.writeReg page off v sets = s.writeOne page off r v sets := by
  obtain ⟨htakes, hkind, hrow, hoff, -⟩ := h
  simp [State.writeReg, htakes, hkind, hrow, hoff, hhi, hpair]

/-- A write of the HI of a pair is held. -/
theorem writeReg_hi {s : State} {k : PageKind} {page off : Nat} {r : RegRow} (h : s.plainWrite k page off r)
    (hhi : regIsHi k off = true) (hbits : r.rw ||| r.rs ≠ 0) (v sets : Word) :
    s.writeReg page off v sets = s.holdHi page off (some v) := by
  obtain ⟨htakes, hkind, hrow, hoff, -⟩ := h
  simp only [State.writeReg, htakes, hkind, hrow, hoff, hhi, hbits, Bool.not_true, Bool.false_eq_true, if_false,
    if_true]

/-- A write of the LO of a pair whose HI is held applies both. -/
theorem writeReg_lo {s : State} {k : PageKind} {page off : Nat} {r h : RegRow} {w : Word}
    (hplain : s.plainWrite k page off r) (hpair : r.pair = true) (hhi : regIsHi k off = false)
    (hrow : regRow k (off + 4) = some h) (hheld : SMap.get none s.host.held (regKey page (off + 4)) = some w)
    (v sets : Word) :
    s.writeReg page off v sets =
      ((s.writeOne page off r v sets).writeOne page (off + 4) h w 0).holdHi page (off + 4) none := by
  obtain ⟨htakes, hkind, hrow', hoff, -⟩ := hplain
  simp [State.writeReg, htakes, hkind, hrow', hoff, hhi, hpair, hrow, hheld]

/-- On a page whose RW registers only hold a value, a write takes the RW bits. -/
theorem writeOne_rw {s : State} {page : Nat} (off : Nat) {r : RegRow} (hrs : r.rs = 0) (hw1c : r.w1c = 0) (hwo : r.wo = 0)
    (hbundle : page ≠ pgBundle) (hmail : page ≠ pgMailbox) (hscrub : pageKind page ≠ some .scrub) (v sets : Word) :
    s.writeOne page off r v sets =
      if r.rw = 0 then s else s.poke page off ((s.reg page off &&& ~~~r.rw) ||| (v &&& r.rw)) := by
  simp [State.writeOne, State.writeRw, hrs, hw1c, hwo, hbundle, hmail, hscrub]

/-- What a write of RW bits leaves: the register, every other register, and the rest of the state. -/
theorem writeOne_rw_reg {s : State} {page : Nat} (off : Nat) {r : RegRow} (hrs : r.rs = 0) (hw1c : r.w1c = 0)
    (hwo : r.wo = 0) (hbundle : page ≠ pgBundle) (hmail : page ≠ pgMailbox) (hscrub : pageKind page ≠ some .scrub)
    (v sets : Word) :
    let t := s.writeOne page off r v sets
    t.reg page off = (s.reg page off &&& ~~~r.rw) ||| (v &&& r.rw) ∧
    (∀ p o, regKey p o ≠ regKey page off → t.reg p o = s.reg p o) ∧ t = { s with regs := t.regs } := by
  rw [writeOne_rw off hrs hw1c hwo hbundle hmail hscrub]
  by_cases hrw : r.rw = 0
  · have hkept : s.reg page off &&& ~~~(0 : Word) ||| v &&& 0 = s.reg page off :=
      (congrArg₂ (· ||| ·) BitVec.and_allOnes BitVec.and_zero).trans BitVec.or_zero
    rw [if_pos hrw, hrw]
    exact ⟨hkept.symm, fun _ _ _ => rfl, rfl⟩
  · rw [if_neg hrw]
    exact ⟨poke_reg_same s, fun p o h => poke_reg_other s h, rfl⟩

/-- Settles O13. -/
theorem registerWriteTakesRwBits : Obligations.RegisterWriteTakesRwBits := by
  intro s a v k page off r hreach hplain hrs hw1c hpair hhi hbundle hmail hscrub
  obtain ⟨c, hexec⟩ := barWrite_reaches hreach v 0
  have hwo := hplain.2.2.2.2
  have hkind : pageKind page ≠ some .scrub := by simpa [hplain.2.1] using hscrub
  rw [writeReg_single (s := { s with cnt := c }) hplain hpair hhi] at hexec
  obtain ⟨hreg, hother, hframe⟩ := writeOne_rw_reg (s := { s with cnt := c }) off hrs hw1c hwo hbundle hmail hkind v 0
  refine ⟨_, hexec, hreg, hother, ?_⟩
  rw [hframe]
  rfl

/-! ### Pairs -/

theorem holdHi_held_same (s : State) (page off : Nat) (v : Option Word) :
    SMap.get none (s.holdHi page off v).host.held (regKey page off) = v := SMap.get_set_same _ _ _ _

theorem regKey_succ4_ne (page off : Nat) : regKey page (off + 4) ≠ regKey page off := by
  unfold regKey; omega

/-- Settles O14. -/
theorem pairWritesApplyTogether : Obligations.PairWritesApplyTogether := by
  refine ⟨fun s a v k page off r hreach hplain hhi hbits => ?hi,
    fun s a v w k page off r h hreach hplain hpair hhi hrow hrs hw1c hrs' hw1c' hwo' hbundle hmail hscrub hheld => ?lo⟩
  case hi =>
    obtain ⟨c, hexec⟩ := barWrite_reaches hreach v 0
    rw [writeReg_hi (s := { s with cnt := c }) hplain hhi hbits] at hexec
    exact ⟨_, hexec, holdHi_held_same { s with cnt := c } page off (some v), rfl⟩
  case lo =>
    obtain ⟨c, hexec⟩ := barWrite_reaches hreach v 0
    have hwo := hplain.2.2.2.2
    have hkind : pageKind page ≠ some .scrub := by simpa [hplain.2.1] using hscrub
    rw [writeReg_lo (s := { s with cnt := c }) hplain hpair hhi hrow hheld] at hexec
    obtain ⟨hreg, hother, -⟩ := writeOne_rw_reg (s := { s with cnt := c }) off hrs hw1c hwo hbundle hmail hkind v 0
    obtain ⟨hreg', hother', -⟩ := writeOne_rw_reg (s := ({ s with cnt := c } : State).writeOne page off r v 0)
      (off + 4) hrs' hw1c' hwo' hbundle hmail hkind w 0
    refine ⟨_, hexec, ?_, ?_, ?_⟩
    · exact (hother' _ _ (regKey_succ4_ne page off).symm).trans hreg
    · refine hreg'.trans ?_
      rw [hother _ _ (regKey_succ4_ne page off)]
      rfl
    · rw [finish_held, holdHi_held_same]

/-! ### W1C and RS registers -/

theorem writeOne_w1c {s : State} {page off : Nat} {r : RegRow} (hw1c : r.w1c ≠ 0) (hrs : r.rs = 0) (hrw : r.rw = 0)
    (hwo : r.wo = 0) (v sets : Word) :
    s.writeOne page off r v sets = s.writeW1c page off r.w1c v sets := by
  rw [State.writeOne, if_neg hw1c]
  simp [hrs, hrw, hwo]

/-- A W1C register other than FAULT keeps the bits that the write does not clear. -/
theorem writeW1c_reg (s : State) (page : Nat) {off : Nat} (hoff : off ≠ rFault) (m v sets : Word) :
    (s.writeW1c page off m v sets).reg page off = s.reg page off &&& ~~~(v &&& m &&& ~~~sets) := by
  simp only [State.writeW1c, hoff, if_false]
  split
  · exact poke_reg_same s
  · exact poke_reg_same s

/-- Settles O15. -/
theorem w1cWriteClears : Obligations.W1cWriteClears := by
  intro s a v sets k page off r hreach hplain hw1c hrs hrw hpair hhi
  obtain ⟨c, hexec⟩ := exec_w1cWrite_reaches hreach v sets
  rw [writeReg_single (s := { s with cnt := c }) hplain hpair hhi,
    writeOne_w1c hw1c hrs hrw hplain.2.2.2.2] at hexec
  refine ⟨_, hexec, ?_⟩
  let u : State := { s with cnt := c }
  change let new := u.reg page off &&& ~~~(v &&& r.w1c &&& ~~~sets)
    if off = rFault ∧ fieldOf new 10 1 = 0 then (u.writeW1c page off r.w1c v sets).reg page off = 0 ∧
      (u.writeW1c page off r.w1c v sets).reg page rFaultFirst = 0
    else (u.writeW1c page off r.w1c v sets).reg page off = new
  intro new
  by_cases hoff : off = rFault
  case neg => rw [if_neg (by simp [hoff])]; exact writeW1c_reg u page hoff _ v sets
  case pos =>
    subst hoff
    have hkey : regKey page rFault ≠ regKey page rFaultFirst :=
      regKey_ne_of_off_ne (by decide) (by decide) (by decide)
    by_cases hclear : fieldOf new 10 1 = 0
    · have hwrite : u.writeW1c page rFault r.w1c v sets = (u.poke page rFault 0).poke page rFaultFirst 0 := by
        rw [State.writeW1c, if_pos rfl]; exact if_pos hclear
      rw [if_pos ⟨rfl, hclear⟩, hwrite]
      exact ⟨by rw [poke_reg_other _ hkey, poke_reg_same], poke_reg_same _⟩
    · have hwrite : u.writeW1c page rFault r.w1c v sets = u.poke page rFault new := by
        rw [State.writeW1c, if_pos rfl]; exact if_neg hclear
      rw [if_neg (by simp [hclear]), hwrite]
      exact poke_reg_same _

theorem writeOne_rs {s : State} {page off : Nat} {r : RegRow} (hrs : r.rs ≠ 0) (hrw : r.rw = 0) (hw1c : r.w1c = 0)
    (hwo : r.wo = 0) (v sets : Word) :
    s.writeOne page off r v sets =
      s.stage { page := page, off := off, val := v &&& r.rs, slot := if page = pgFlows then s.flowSel else 0 } := by
  simp only [State.writeOne, hw1c, hrw, hwo, if_true]
  rw [if_neg hrs]

/-- A value new to context 0, which covers its page and has room, is staged there. -/
theorem stage_ctx0 {s : State} {w : Staged} (hopen : (s.bctx 0).st = .open) (hcov : (s.bctx 0).covers w.page = true)
    (hroom : (s.bctx 0).staged.length < 4096) (hnew : (s.bctx 0).staged.any (·.same w) = false) :
    s.stage w = s.setBctx 0 { s.bctx 0 with staged := w :: (s.bctx 0).staged } := by
  have hfind : ctxList.find? (fun c => (s.bctx c).st == .open && (s.bctx c).covers w.page) = some 0 := by
    simp [ctxList, List.range_succ_eq_map, hopen, hcov]
  simp only [State.stage, hfind, hnew, Bool.false_eq_true, if_false, Nat.not_le.mpr hroom]

/-- With no bundle open a staged write is discarded and counted. -/
theorem stage_none_open {s : State} (h : ∀ c, (s.bctx c).st ≠ .open) (w : Staged) :
    s.stage w = s.incSat pgBundle 0x060 := by
  have hfind : ∀ f : Nat → Bool, ctxList.find? (fun c => (s.bctx c).st == .open && f c) = none := by
    intro f
    simp [List.find?_eq_none, h]
  simp only [State.stage, hfind]

/-- Settles O16. -/
theorem rsWriteOnlyStages : Obligations.RsWriteOnlyStages := by
  refine ⟨fun s a v k page off r hreach hplain hrs hrw hw1c hpair hhi hpage hopen hcov hroom hnew => ?staged,
    fun s a v k page off r hreach hplain hrs hrw hw1c hpair hhi hnone => ?discarded⟩
  case staged =>
    obtain ⟨c, hexec⟩ := barWrite_reaches hreach v 0
    have hfresh : (s.bctx 0).staged.any
        (·.same { page := page, off := off, val := v &&& r.rs, slot := 0 }) = false := by
      rw [List.all_eq_true] at hnew
      rw [List.any_eq_false]
      intro w hw hsame
      have := hnew w hw
      simp_all [Staged.same]
    rw [writeReg_single (s := { s with cnt := c }) hplain hpair hhi, writeOne_rs hrs hrw hw1c hplain.2.2.2.2,
      if_neg hpage, stage_ctx0 (s := { s with cnt := c })
        (w := { page := page, off := off, val := v &&& r.rs, slot := 0 }) hopen hcov hroom hfresh] at hexec
    refine ⟨_, hexec, ?_, rfl⟩
    exact congrArg BndCtx.staged (SMap.get_set_same _ _ _ _)
  case discarded =>
    obtain ⟨c, hexec⟩ := barWrite_reaches hreach v 0
    rw [writeReg_single (s := { s with cnt := c }) hplain hpair hhi, writeOne_rs hrs hrw hw1c hplain.2.2.2.2,
      stage_none_open (s := { s with cnt := c }) hnone] at hexec
    exact ⟨_, hexec, incSat_reg_same_toNat { s with cnt := c } pgBundle 0x060 1, rfl⟩

/-! ### A host read of one register -/

theorem ofBytes_leBytes {n v : Nat} (hv : v < 2 ^ (8 * n)) : ofBytes (leBytes n v) = v := by
  induction n generalizing v with
  | zero => simp [ofBytes, leBytes]; omega
  | succ n ih =>
    have hsplit : leBytes (n + 1) v = BitVec.ofNat 8 v :: leBytes n (v / 256) := by
      simp only [leBytes, List.range_succ_eq_map, List.map_cons, List.map_map]
      congr 1
      · simp
      · refine List.map_congr_left fun i _ => ?_
        simp only [Function.comp_apply, Nat.div_div_eq_div_mul]
        congr 2
        rw [show 8 * i.succ = 8 + 8 * i by omega, Nat.pow_add]
    have hrest : v / 256 < 2 ^ (8 * n) := by
      rw [Nat.div_lt_iff_lt_mul (by decide)]
      calc v < 2 ^ (8 * (n + 1)) := hv
        _ = 2 ^ (8 * n) * 256 := by rw [Nat.mul_add, Nat.pow_add]
    have hcons : ofBytes (BitVec.ofNat 8 v :: leBytes n (v / 256)) = v % 256 + 256 * ofBytes (leBytes n (v / 256)) := by
      simp [ofBytes]
    rw [hsplit, hcons, ih hrest]
    omega

theorem ofBytes_word (w : Word) : ofBytes ((leBytes 4 w.toNat).take 4) = w.toNat := by
  have hlen : (leBytes 4 w.toNat).length = 4 := rfl
  rw [List.take_of_length_le hlen.le]
  exact ofBytes_leBytes w.isLt

theorem coveredRegs_word {addr : Nat} (h : addr % 4 = 0) : coveredRegs addr 4 = [addr] := by
  have haddr : addr / 4 * 4 = addr := by omega
  simp [coveredRegs, h, haddr]

/-- A read of four bytes that reaches the endpoint is counted, and then reads its register. -/
theorem barRead_reaches {s : State} {a : BitVec 26} {page off : Nat} (h : s.reaches a page off) :
    let u := (s.noteAccess 1 a.toNat true).readBefore page off
    s.barRead a 4 = .next (s.finish ((u.readAfter page off).emit
      (.readData a.toNat 4 (BitVec.ofNat 64 (u.readVal page off).toNat)))) := by
  obtain ⟨hlink, hawake, haddr, hoff, halign⟩ := h
  have hpage : a.toNat / 4096 = page := by omega
  have hreg : a.toNat % 4096 = off := by omega
  have hword : a.toNat % 4 = 0 := by omega
  intro u
  simp [State.barRead, State.hostRead, hlink, hawake, coveredRegs_word hword, regularRead, hword, State.readReg, hpage,
    hreg, ofBytes_word, ok_next, u]

/-- An access changes nothing but counters, so pages are read as before. -/
theorem noteAccess_readsPage (s : State) (i addr : Nat) (regular : Bool) (page : Nat) :
    (s.noteAccess i addr regular).readsPage page = s.readsPage page := by
  obtain ⟨c, h⟩ := noteAccess_only_cnt s i addr regular
  rw [h]; rfl

theorem readBefore_of_not_sampled {s : State} {page off : Nat} (h : ledgerPage page = false ∨ off ≠ 0x044) :
    s.readBefore page off = s := by
  have hno : ¬ ((s.readsPage page && ledgerPage page && off == 0x044) = true) := by
    obtain h | h := h <;> simp [h]
  rw [State.readBefore, if_neg hno]

/-- A register that reads from no latch shows its view. -/
theorem readVal_of_not_latched {s : State} {page off : Nat} (h : latched page off = false) :
    s.readVal page off = s.view page off := by
  simp [State.readVal, h]

theorem readVal_of_latched {s : State} {page off : Nat} (hreads : s.readsPage page = true)
    (h : latched page off = true) : s.readVal page off = SMap.get 0 s.host.latch (regKey page off) := by
  simp [State.readVal, h, hreads]

/-! ### What a read leaves behind -/

/-- The HI of a pair is latched. -/
def State.latchHi (s : State) (page off : Nat) : State :=
  if (pageKind page).any (fun k => regIsHi k (off + 4)) then s.latchReg page (off + 4) else s

/-- A read of LAST_ERR_LO latches the syndrome and re-arms the error record (R140). -/
def State.rearmErr (s : State) (page off : Nat) : State :=
  if errPage page && off == rLastErrLo then
    let t := s.latchReg page rLastSyndrome
    { t with host := { t.host with errNew := SMap.set false t.host.errNew page false } }
  else s

/-- The RC bits of a register are cleared. -/
def State.clearRc (s : State) (page off : Nat) : State :=
  if rcBits page off = 0 then s else s.poke page off (s.reg page off &&& ~~~(rcBits page off))

theorem readAfter_eq {s : State} {page : Nat} (h : s.readsPage page = true) (off : Nat) :
    s.readAfter page off = (((s.latchHi page off).rearmErr page off).clearRc page off).freeNext := by
  rw [State.readAfter, if_neg (by simp [h]), State.latchHi]
  cases pageKind page <;> rfl

/-- Of the state, a read's latches change the host's side alone: nothing that the host wrote and no link state. -/
theorem latchHi_only_latch (s : State) (page off : Nat) :
    ∃ m, s.latchHi page off = { s with host := { s.host with latch := m } } := by
  unfold State.latchHi
  split
  · exact ⟨_, rfl⟩
  · exact ⟨s.host.latch, rfl⟩

theorem rearmErr_only_latch (s : State) (page off : Nat) :
    ∃ m e, s.rearmErr page off = { s with host := { s.host with latch := m, errNew := e } } := by
  unfold State.rearmErr
  split
  · exact ⟨_, _, rfl⟩
  · exact ⟨s.host.latch, s.host.errNew, rfl⟩

theorem clearRc_of_none {s : State} {page off : Nat} (h : rcBits page off = 0) : s.clearRc page off = s := if_pos h

@[simp] theorem latchHi_regs (s : State) (page off : Nat) : (s.latchHi page off).regs = s.regs := by
  obtain ⟨m, h⟩ := latchHi_only_latch s page off
  rw [h]

@[simp] theorem rearmErr_regs (s : State) (page off : Nat) : (s.rearmErr page off).regs = s.regs := by
  obtain ⟨m, e, h⟩ := rearmErr_only_latch s page off
  rw [h]

theorem latchHi_of_single {s : State} {page off : Nat} (h : (pageKind page).any (fun k => regIsHi k (off + 4)) = false) :
    s.latchHi page off = s := by
  simp [State.latchHi, h]

theorem latchHi_of_pair {s : State} {page off : Nat} (h : (pageKind page).any (fun k => regIsHi k (off + 4)) = true) :
    s.latchHi page off = s.latchReg page (off + 4) := if_pos h

theorem rearmErr_of_no_errPage {s : State} {page : Nat} (h : errPage page = false) (off : Nat) :
    s.rearmErr page off = s := by
  simp [State.rearmErr, h]

theorem latchReg_latch_same (s : State) (page off : Nat) :
    SMap.get 0 (s.latchReg page off).host.latch (regKey page off) = s.view page off := SMap.get_set_same _ _ _ _

/-- The error record's latch is no HI of a pair. -/
theorem rearmErr_latch_hi (s : State) (page off : Nat) :
    SMap.get 0 (s.rearmErr page off).host.latch (regKey page (off + 4)) =
      SMap.get 0 s.host.latch (regKey page (off + 4)) := by
  unfold State.rearmErr
  split
  · next h =>
    obtain ⟨-, hoff⟩ := (Bool.and_eq_true _ _).mp h
    obtain rfl := eq_of_beq hoff
    exact SMap.get_set_other 0 s.host.latch _ (by simp [regKey, rLastErrLo, rLastSyndrome])
  · rfl

@[simp] theorem latchHi_out (s : State) (page off : Nat) : (s.latchHi page off).out = s.out := by
  obtain ⟨m, h⟩ := latchHi_only_latch s page off
  rw [h]

@[simp] theorem rearmErr_out (s : State) (page off : Nat) : (s.rearmErr page off).out = s.out := by
  obtain ⟨m, e, h⟩ := rearmErr_only_latch s page off
  rw [h]

@[simp] theorem clearRc_out (s : State) (page off : Nat) : (s.clearRc page off).out = s.out := by
  unfold State.clearRc
  split <;> rfl

@[simp] theorem noteAccess_out (s : State) (i addr : Nat) (regular : Bool) :
    (s.noteAccess i addr regular).out = s.out := by
  obtain ⟨c, h⟩ := noteAccess_only_cnt s i addr regular
  rw [h]

@[simp] theorem noteAccess_regs (s : State) (i addr : Nat) (regular : Bool) :
    (s.noteAccess i addr regular).regs = s.regs := by
  obtain ⟨c, h⟩ := noteAccess_only_cnt s i addr regular
  rw [h]

@[simp] theorem noteAccess_host (s : State) (i addr : Nat) (regular : Bool) :
    (s.noteAccess i addr regular).host = s.host := by
  obtain ⟨c, h⟩ := noteAccess_only_cnt s i addr regular
  rw [h]

@[simp] theorem noteAccess_ledgers (s : State) (i addr : Nat) (regular : Bool) :
    (s.noteAccess i addr regular).ledgers = s.ledgers := by
  obtain ⟨c, h⟩ := noteAccess_only_cnt s i addr regular
  rw [h]

@[simp] theorem latchReg_out (s : State) (page off : Nat) : (s.latchReg page off).out = s.out := rfl
@[simp] theorem latchReg_regs (s : State) (page off : Nat) : (s.latchReg page off).regs = s.regs := rfl
@[simp] theorem sampleLedger_regs (s : State) (page : Nat) : (s.sampleLedger page).regs = s.regs := rfl
@[simp] theorem emit_out (s : State) (m : OutMsg) : (s.emit m).out = s.out ++ [m] := rfl

/-! ### The statements about reads -/

/-- LAST_SYNDROME is no part of a pair. -/
theorem regIsHi_after_lastSyndrome {page : Nat} {k : PageKind} (hk : pageKind page = some k) (herr : errPage page = true) :
    regIsHi k (rLastSyndrome + 4) = false := by
  have hcases : k = .dram ∨ k = .qbuf ∨ k = .scrub := by simpa [errPage, hk, or_assoc] using herr
  obtain rfl | rfl | rfl := hcases <;> rfl

/-- The LO of a pair reads from no latch. -/
theorem latched_lo {page off : Nat} {k : PageKind} (hk : pageKind page = some k) (hlo : regIsHi k off = false)
    (hhi : regIsHi k (off + 4) = true) : latched page off = false := by
  simp only [latched, hk, hlo, Bool.false_and, Bool.false_or, Bool.and_eq_false_iff, beq_eq_false_iff_ne]
  by_cases herr : errPage page = true
  · refine .inr ?_
    rintro rfl
    simp [regIsHi_after_lastSyndrome hk herr] at hhi
  · exact .inl (by simpa using herr)

theorem ledgerPage_iff {page : Nat} :
    ledgerPage page = true ↔ pageKind page = some .ledger ∨ pageKind page = some .dieLedger := by
  simp [ledgerPage]

/-- ISSUED_LO is read from no latch, clears nothing, and belongs to no error record. -/
theorem issued_lo_not_latched {page : Nat} (h : ledgerPage page = true) : latched page 0x044 = false := by
  obtain hk | hk := ledgerPage_iff.mp h <;> simp [latched, errPage, hk, regIsHi, regRow, regRows, rowsLedger,
    RegRow.has]

theorem issued_lo_rcBits {page : Nat} (h : ledgerPage page = true) : rcBits page 0x044 = 0 := by
  obtain hk | hk := ledgerPage_iff.mp h <;> simp [rcBits, hk, regRow, regRows, rowsLedger, RegRow.has]

theorem errPage_of_ledgerPage {page : Nat} (h : ledgerPage page = true) : errPage page = false := by
  obtain hk | hk := ledgerPage_iff.mp h <;> simp [errPage, hk]

/-- Settles O17. -/
theorem loReadLatchesHi : Obligations.LoReadLatchesHi := by
  refine ⟨fun s a k page off hreach hreads hk hhi hlo hledger hrc => ?lo,
    fun s a page off hreach hreads hlatched hnext hrc hsingle => ?hi⟩
  case lo =>
    have hready := (noteAccess_readsPage s 1 a.toNat true page).trans hreads
    have hexec := barRead_reaches hreach
    dsimp only at hexec
    rw [readBefore_of_not_sampled (.inl hledger), readVal_of_not_latched (latched_lo hk hlo hhi), readAfter_eq hready,
      clearRc_of_none hrc, latchHi_of_pair (by simp [hk, hhi])] at hexec
    refine ⟨_, hexec, by simp, ?_, by simp⟩
    simp only [finish_latch, emit_host, freeNext_host, rearmErr_latch_hi]
    exact latchReg_latch_same _ page (off + 4)
  case hi =>
    have hready := (noteAccess_readsPage s 1 a.toNat true page).trans hreads
    have hunsampled : ledgerPage page = false ∨ off ≠ 0x044 := by
      by_contra hno
      obtain ⟨hledger, rfl⟩ : ledgerPage page = true ∧ off = 0x044 := by simpa using hno
      rw [issued_lo_not_latched hledger] at hlatched
      cases hlatched
    have hexec := barRead_reaches hreach
    dsimp only at hexec
    rw [readBefore_of_not_sampled hunsampled, readVal_of_latched hready hlatched, readAfter_eq hready,
      clearRc_of_none hrc, latchHi_of_single hsingle] at hexec
    exact ⟨_, hexec, by simp, by simp⟩

/-- Settles O18. -/
theorem rcReadClears : Obligations.RcReadClears := by
  intro s a k page off hreach hreads hk hrc hlo hhi hledger herr
  have hready := (noteAccess_readsPage s 1 a.toNat true page).trans hreads
  have hlatched : latched page off = false := by simp [latched, hk, hlo, herr]
  have hexec := barRead_reaches hreach
  dsimp only at hexec
  rw [readBefore_of_not_sampled (.inl hledger), readVal_of_not_latched hlatched, readAfter_eq hready,
    latchHi_of_single (by simp [hk, hhi]), rearmErr_of_no_errPage herr, State.clearRc, if_neg hrc] at hexec
  have hreg : ∀ p o, (s.noteAccess 1 a.toNat true).reg p o = s.reg p o := by simp [State.reg]
  rw [hreg] at hexec
  refine ⟨_, hexec, by simp, ?_, fun p o hne => ?_⟩
  · exact poke_reg_same (s.noteAccess 1 a.toNat true)
  · exact (poke_reg_other (s.noteAccess 1 a.toNat true) hne).trans (hreg p o)

/-- After a sample the four counts of the selected ledger are what the host reads (R331). -/
theorem sampleLedger_sample (s : State) (page : Nat) :
    let t := s.sampleLedger page
    let l := s.selLedger page
    SMap.get 0 t.host.sample (4 * page) = l.issued ∧ SMap.get 0 t.host.sample (4 * page + 1) = l.returned ∧
    SMap.get 0 t.host.sample (4 * page + 2) = l.held ∧ SMap.get 0 t.host.sample (4 * page + 3) = l.woff := by
  simp [State.sampleLedger, SMap.get_set]

theorem readBefore_samples {s : State} {page : Nat} (hreads : s.readsPage page = true)
    (hledger : ledgerPage page = true) : s.readBefore page 0x044 = s.sampleLedger page := by
  simp [State.readBefore, hreads, hledger]

@[simp] theorem latchHi_sample (s : State) (page off : Nat) : (s.latchHi page off).host.sample = s.host.sample := by
  obtain ⟨m, h⟩ := latchHi_only_latch s page off
  rw [h]

@[simp] theorem latchHi_ledgers (s : State) (page off : Nat) : (s.latchHi page off).ledgers = s.ledgers := by
  obtain ⟨m, h⟩ := latchHi_only_latch s page off
  rw [h]

@[simp] theorem sampleLedger_ledgers (s : State) (page : Nat) : (s.sampleLedger page).ledgers = s.ledgers := rfl

/-- Settles O19. -/
theorem ledgerReadSamples : Obligations.LedgerReadSamples := by
  intro s a page hreach hreads hledger
  have hready := (noteAccess_readsPage s 1 a.toNat true page).trans hreads
  have hsampled : ((s.noteAccess 1 a.toNat true).sampleLedger page).readsPage page = true := hready
  have hexec := barRead_reaches hreach
  dsimp only at hexec
  rw [readBefore_samples hready hledger, readAfter_eq hsampled, rearmErr_of_no_errPage (errPage_of_ledgerPage hledger),
    clearRc_of_none (issued_lo_rcBits hledger)] at hexec
  refine ⟨_, hexec, ?_⟩
  obtain ⟨hissued, hreturned, hheld, hwoff⟩ := sampleLedger_sample (s.noteAccess 1 a.toNat true) page
  simp only [finish_sample, emit_host, freeNext_host, latchHi_sample, finish_regs, emit_regs, freeNext_regs,
    latchHi_regs, sampleLedger_regs, noteAccess_regs, finish_ledgers, emit_ledgers, freeNext_ledgers, latchHi_ledgers,
    sampleLedger_ledgers, noteAccess_ledgers]
  exact ⟨hissued, hreturned, hheld, hwoff, trivial, trivial⟩

/-! ### Accesses in D3hot, and of odd size or alignment -/

theorem hostWrite_d3hot {s : State} (h : s.host.d3hot = true) (addr len : Nat) (v sets : Word) :
    s.hostWrite addr len v sets = s := if_pos h

theorem hostRead_d3hot {s : State} (h : s.host.d3hot = true) (addr len : Nat) :
    s.hostRead addr len = s.emit (.unsupported addr) := if_pos h

theorem hostWrite_odd {s : State} (hawake : s.host.d3hot = false) {addr len : Nat} (hodd : ¬(len = 4 ∧ addr % 4 = 0))
    (v sets : Word) : s.hostWrite addr len v sets = s.noteAccess 2 addr false := by
  have hregular : (len == 4 && addr % 4 == 0) = false := by simpa using hodd
  simp [State.hostWrite, hawake, hregular]

theorem noteAccess_odd_counter (s : State) {i : Nat} (hi : i < 4) (addr : Nat) :
    (s.noteAccess i addr false).counter pgSummary 1 = s.counter pgSummary 1 + 1 := by
  have hfirst : ((s.count pgEngineId i).count pgSummary 1).counter pgSummary 1 = s.counter pgSummary 1 + 1 := by
    rw [count_counter_same, count_counter_other _ (by simp [pgSummary, pgEngineId]; omega)]
    rfl
  simp only [State.noteAccess, Bool.false_eq_true, if_false]
  split
  · rw [count_counter_other _ (by decide), hfirst]
  · exact hfirst

theorem barWrite_of_link {s : State} (h : s.host.linkUp = true) (a : BitVec 26) (n : Fin 9) (v sets : Word) :
    s.barWrite a n v sets = .next (s.finish (s.hostWrite a.toNat n v sets)) := if_pos h

theorem barRead_of_link {s : State} (h : s.host.linkUp = true) (a : BitVec 26) (n : Fin 9) :
    s.barRead a n = .next (s.finish (s.hostRead a.toNat n)) := if_pos h

/-- Settles O20. -/
theorem irregularAccesses : Obligations.IrregularAccesses := by
  refine ⟨fun s a n v hlink hcold => ⟨?write, ?read⟩, fun s a n v hlink hawake hodd => ?odd,
    fun s a => (noteAccess_odd_counter s (by decide) a.toNat).symm⟩
  case write => exact (barWrite_of_link hlink a n v 0).trans (by rw [hostWrite_d3hot hcold])
  case read => exact (barRead_of_link hlink a n).trans (by rw [hostRead_d3hot hcold])
  case odd =>
    refine (barWrite_of_link hlink a n v 0).trans ?_
    rw [hostWrite_odd hawake]
    rwa [Fin.ext_iff] at hodd

/-! ### What a host read leaves alone -/

/-- A read may change messages, free values, registers, counters and the host's latches and samples. -/
def State.readFrame (s t : State) : Prop :=
  t = { s with out := t.out, free := t.free, regs := t.regs, cnt := t.cnt, host := t.host } ∧
  t.host.held = s.host.held ∧ t.host.linkUp = s.host.linkUp ∧ t.host.d3hot = s.host.d3hot

theorem State.readFrame.refl (s : State) : s.readFrame s := ⟨rfl, rfl, rfl, rfl⟩

theorem State.readFrame.trans {s t u : State} (h : s.readFrame t) (k : t.readFrame u) : s.readFrame u := by
  obtain ⟨ht, hheld, hlink, hcold⟩ := h
  obtain ⟨hu, hheld', hlink', hcold'⟩ := k
  refine ⟨?_, hheld'.trans hheld, hlink'.trans hlink, hcold'.trans hcold⟩
  rw [hu, ht]

theorem readFrame_noteAccess (s : State) (i addr : Nat) (regular : Bool) :
    s.readFrame (s.noteAccess i addr regular) := by
  obtain ⟨c, h⟩ := noteAccess_only_cnt s i addr regular
  rw [h]
  exact ⟨rfl, rfl, rfl, rfl⟩

theorem readFrame_readBefore (s : State) (page off : Nat) : s.readFrame (s.readBefore page off) := by
  unfold State.readBefore
  split
  · exact ⟨rfl, rfl, rfl, rfl⟩
  · exact .refl s

theorem readFrame_clearRc (s : State) (page off : Nat) : s.readFrame (s.clearRc page off) := by
  unfold State.clearRc
  split
  · exact .refl s
  · exact ⟨rfl, rfl, rfl, rfl⟩

theorem readFrame_latches (s : State) (page off : Nat) : s.readFrame ((s.latchHi page off).rearmErr page off) := by
  obtain ⟨m, hm⟩ := latchHi_only_latch s page off
  obtain ⟨m', e, he⟩ := rearmErr_only_latch (s.latchHi page off) page off
  rw [he, hm]
  exact ⟨rfl, rfl, rfl, rfl⟩

theorem readFrame_readAfter (s : State) (page off : Nat) : s.readFrame (s.readAfter page off) := by
  by_cases h : s.readsPage page = true
  · rw [readAfter_eq h]
    exact ((readFrame_latches s page off).trans (readFrame_clearRc _ page off)).trans ⟨rfl, rfl, rfl, rfl⟩
  · have hnone : s.readAfter page off = s := if_pos (by simpa using h)
    rw [hnone]
    exact .refl s

theorem readFrame_foldl_readReg (l : List Nat) (a : State × List Byte) :
    a.1.readFrame (l.foldl State.readReg a).1 := by
  induction l generalizing a with
  | nil => exact .refl _
  | cons addr r ih =>
    exact ((readFrame_readBefore a.1 _ _).trans (readFrame_readAfter _ _ _)).trans (ih (State.readReg a addr))

theorem readFrame_hostRead (s : State) (addr len : Nat) : s.readFrame (s.hostRead addr len) := by
  unfold State.hostRead
  split
  · exact ⟨rfl, rfl, rfl, rfl⟩
  · exact ((readFrame_noteAccess s 1 addr _).trans (readFrame_foldl_readReg _ _)).trans ⟨rfl, rfl, rfl, rfl⟩

theorem readFrame_barRead {s t : State} {a : BitVec 26} {n : Fin 9} (h : s.barRead a n = .next t) : s.readFrame t := by
  unfold State.barRead at h
  split at h
  · cases h
    exact (readFrame_hostRead s a.toNat n).trans ⟨rfl, rfl, rfl, rfl⟩
  · cases h
    exact .refl s

/-- Settles O21. -/
theorem hostReadsFrame : Obligations.HostReadsFrame := by
  rintro s t a n c (rfl | rfl | rfl) h
  · exact readFrame_barRead h
  · exact readFrame_barRead h
  · exact readFrame_barRead h

end Sys2Proof.Machine
end

section
/-! SUPPORT. What operations leave alone. `State.mask M` blanks the parts of a state that `M` lists; an operation that
changes only parts in `M` leaves the masked state as it was. One lemma per operation says which parts it may change, in
a form that `simp` chains; the frames of whole families follow. -/

namespace Sys2Proof.Machine

/-- The parts of the state that the frames of operations speak of; `…Rest` is what remains of a record. -/
inductive Part where
  | pending | out | free | regs | cnt | changes | errNotes | hostRest | mem | scrub | dies | quarters | stalls | arcs
  | streams | stores | rounds | roundsRest | breaches | assume | check | progRest | keys | weights | red | ports | flows
  | bnd | ledgers | wales | pwr | keeperCap | pwrRest | shut | lastFault | repairs | talk | keeperRest | offers
  | secRest
  | tally | meter | pwrOk | idLed | prsnt
  deriving DecidableEq

/-- A value, or a blank where its part is listed. -/
def blank {α : Type} (c : Bool) (d v : α) : α := if c then d else v

theorem blank_true {α : Type} {c : Bool} (h : c = true) (d v : α) : blank c d v = d := if_pos h

def HostIf.mask (M : Part → Bool) (h : HostIf) : HostIf :=
  { latch := blank (M .hostRest) [] h.latch, held := blank (M .hostRest) [] h.held
    sample := blank (M .hostRest) [] h.sample, errNew := blank (M .errNotes) [] h.errNew
    ce := blank (M .errNotes) [] h.ce, linkUp := blank (M .hostRest) false h.linkUp
    d3hot := blank (M .hostRest) false h.d3hot, changes := blank (M .changes) 0 h.changes }

def Rounds.mask (M : Part → Bool) (r : Rounds) : Rounds :=
  if M .roundsRest then
    { Rounds.reset with
      ctx := blank (M .rounds) [] r.ctx, transit := blank (M .rounds) [] r.transit }
  else
    { r with
      ctx := blank (M .rounds) [] r.ctx, transit := blank (M .rounds) [] r.transit }

def Prog.mask (M : Part → Bool) (p : Prog) : Prog :=
  if M .progRest then
    { Prog.reset with
      breaches := blank (M .breaches) [] p.breaches, capBelow := blank (M .assume) false p.capBelow
      scrubAbv := blank (M .assume) false p.scrubAbv, check := blank (M .check) .idle p.check }
  else
    { p with
      breaches := blank (M .breaches) [] p.breaches, capBelow := blank (M .assume) false p.capBelow
      scrubAbv := blank (M .assume) false p.scrubAbv, check := blank (M .check) .idle p.check }

def Weights.mask (M : Part → Bool) (w : Weights) : Weights :=
  { keys := blank (M .keys) [] w.keys, fetch := blank (M .weights) [] w.fetch
    ingest := blank (M .weights) [] w.ingest, tags := blank (M .weights) [] w.tags }

def Pwr.mask (M : Part → Bool) (p : Pwr) : Pwr :=
  if M .pwr then
    { Pwr.reset with
      keeperCap := blank (M .keeperCap) 0 p.keeperCap, input := blank (M .pwrRest) false p.input
      capHeld := blank (M .pwrRest) none p.capHeld }
  else
    { p with
      keeperCap := blank (M .keeperCap) 0 p.keeperCap, input := blank (M .pwrRest) false p.input
      capHeld := blank (M .pwrRest) none p.capHeld }

def Keeper.mask (M : Part → Bool) (k : Keeper) : Keeper :=
  if M .keeperRest then
    { Keeper.reset with
      lastFault := blank (M .lastFault) 0 k.lastFault, repairs := blank (M .repairs) [] k.repairs
      active := blank (M .talk) false k.active, afail := blank (M .talk) 0 k.afail
      banks := blank (M .talk) [] k.banks, capPend := blank (M .talk) none k.capPend, ga := blank (M .talk) 0 k.ga
      locValid := blank (M .talk) false k.locValid, log := blank (M .talk) [] k.log
      mbBusy := blank (M .talk) false k.mbBusy, mbIndex := blank (M .talk) 0 k.mbIndex
      mbOp := blank (M .talk) 0 k.mbOp, moveReq := blank (M .talk) 0 k.moveReq
      uactive := blank (M .talk) false k.uactive, verK := blank (M .talk) false k.verK
      verU := blank (M .talk) false k.verU }
  else
    { k with
      lastFault := blank (M .lastFault) 0 k.lastFault, repairs := blank (M .repairs) [] k.repairs
      active := blank (M .talk) false k.active, afail := blank (M .talk) 0 k.afail
      banks := blank (M .talk) [] k.banks, capPend := blank (M .talk) none k.capPend, ga := blank (M .talk) 0 k.ga
      locValid := blank (M .talk) false k.locValid, log := blank (M .talk) [] k.log
      mbBusy := blank (M .talk) false k.mbBusy, mbIndex := blank (M .talk) 0 k.mbIndex
      mbOp := blank (M .talk) 0 k.mbOp, moveReq := blank (M .talk) 0 k.moveReq
      uactive := blank (M .talk) false k.uactive, verK := blank (M .talk) false k.verK
      verU := blank (M .talk) false k.verU }

def Sec.mask (M : Part → Bool) (x : Sec) : Sec :=
  if M .secRest then
    { Sec.reset with
      offers := blank (M .offers) [] x.offers, nextOffer := blank (M .offers) 0 x.nextOffer }
  else
    { x with
      offers := blank (M .offers) [] x.offers, nextOffer := blank (M .offers) 0 x.nextOffer }

def Meter.mask (M : Part → Bool) (m : Meter) : Meter :=
  if M .meter then
    { Meter.reset with
      tally := blank (M .tally) Tally.reset m.tally }
  else
    { m with
      tally := blank (M .tally) Tally.reset m.tally }

def Pins.mask (M : Part → Bool) (p : Pins) : Pins :=
  { prsnt := blank (M .prsnt) false p.prsnt, pwrOk := blank (M .pwrOk) false p.pwrOk
    idLed := blank (M .idLed) false p.idLed }

/-- The state with the parts that `M` lists blanked. -/
def State.mask (M : Part → Bool) (s : State) : State :=
  { pending := blank (M .pending) [] s.pending, out := blank (M .out) [] s.out, free := blank (M .free) 0 s.free
    regs := blank (M .regs) [] s.regs, cnt := blank (M .cnt) [] s.cnt, host := s.host.mask M
    mem := blank (M .mem) { bytes := [], poison := [], upsets := [] } s.mem, scrub := blank (M .scrub) [] s.scrub
    dies := blank (M .dies) [] s.dies, quarters := blank (M .quarters) [] s.quarters
    stalls := blank (M .stalls) [] s.stalls, arcs := blank (M .arcs) [] s.arcs
    streams := blank (M .streams) [] s.streams, stores := blank (M .stores) Stores.reset s.stores
    rounds := s.rounds.mask M, prog := s.prog.mask M, weights := s.weights.mask M
    red := blank (M .red) { die := [], eng := [], level := [], lead := 0 } s.red
    ports := blank (M .ports) [] s.ports, flows := blank (M .flows) [] s.flows
    bnd := blank (M .bnd) { ctx := [], tag := 0, progs := [] } s.bnd
    ledgers := blank (M .ledgers) [] s.ledgers
    wales := blank (M .wales) { wale := [], lane := [], relayDue := false } s.wales
    pwr := s.pwr.mask M, shut := blank (M .shut) Shut.reset s.shut, keeper := s.keeper.mask M
    sec := s.sec.mask M, meter := s.meter.mask M, pins := s.pins.mask M }

/-- Every part of a list may change. -/
def Allows (M : Part → Bool) (l : List Part) : Prop := ∀ p ∈ l, M p = true

@[simp] theorem allows_nil (M : Part → Bool) : Allows M [] ↔ True := by simp [Allows]
@[simp] theorem allows_cons (M : Part → Bool) (p : Part) (l : List Part) :
    Allows M (p :: l) ↔ M p = true ∧ Allows M l := by simp [Allows]

variable {M : Part → Bool}

/-! ### Branches and folds -/

@[simp] theorem mask_ite (c : Prop) [Decidable c] (s t : State) :
    (if c then s else t).mask M = if c then s.mask M else t.mask M := apply_ite _ c s t

@[simp] theorem mask_foldl {α : Type} {f : State → α → State} (hf : ∀ s x, (f s x).mask M = s.mask M) (l : List α)
    (s : State) :
    (l.foldl f s).mask M = s.mask M := by
  induction l generalizing s with
  | nil => rfl
  | cons x r ih => exact (ih (f s x)).trans (hf s x)

@[simp] theorem mask_forEach {α : Type} {f : State → α → State} (hf : ∀ s x, (f s x).mask M = s.mask M) (l : List α)
    (s : State) : (s.forEach l f).mask M = s.mask M := mask_foldl hf l s

/-! ### Updates of one field -/

@[simp] theorem mask_with_free (h : Allows M [.free]) (s : State) (n : Nat) :
    ({ s with free := n } : State).mask M = s.mask M := by
  simp at h
  simp [State.mask, blank, h]

@[simp] theorem mask_with_stores (h : Allows M [.stores]) (s : State) (x : Stores) :
    ({ s with stores := x } : State).mask M = s.mask M := by
  simp at h
  simp [State.mask, blank, h]

@[simp] theorem mask_with_bnd (h : Allows M [.bnd]) (s : State) (x : Bnd) :
    ({ s with bnd := x } : State).mask M = s.mask M := by
  simp at h
  simp [State.mask, blank, h]

@[simp] theorem mask_with_wales (h : Allows M [.wales]) (s : State) (x : Wales) :
    ({ s with wales := x } : State).mask M = s.mask M := by
  simp at h
  simp [State.mask, blank, h]

@[simp] theorem mask_with_host {s : State} {x : HostIf} (h : x.mask M = s.host.mask M) :
    ({ s with host := x } : State).mask M = s.mask M := by
  simp [State.mask, h]

@[simp] theorem mask_with_rounds {s : State} {x : Rounds} (h : x.mask M = s.rounds.mask M) :
    ({ s with rounds := x } : State).mask M = s.mask M := by
  simp [State.mask, h]

@[simp] theorem mask_with_prog {s : State} {x : Prog} (h : x.mask M = s.prog.mask M) :
    ({ s with prog := x } : State).mask M = s.mask M := by
  simp [State.mask, h]

@[simp] theorem mask_with_weights {s : State} {x : Weights} (h : x.mask M = s.weights.mask M) :
    ({ s with weights := x } : State).mask M = s.mask M := by
  simp [State.mask, h]

@[simp] theorem mask_with_pwr {s : State} {x : Pwr} (h : x.mask M = s.pwr.mask M) :
    ({ s with pwr := x } : State).mask M = s.mask M := by
  simp [State.mask, h]

@[simp] theorem mask_with_keeper {s : State} {x : Keeper} (h : x.mask M = s.keeper.mask M) :
    ({ s with keeper := x } : State).mask M = s.mask M := by
  simp [State.mask, h]

@[simp] theorem mask_with_sec {s : State} {x : Sec} (h : x.mask M = s.sec.mask M) :
    ({ s with sec := x } : State).mask M = s.mask M := by
  simp [State.mask, h]

@[simp] theorem mask_with_meter {s : State} {x : Meter} (h : x.mask M = s.meter.mask M) :
    ({ s with meter := x } : State).mask M = s.mask M := by
  simp [State.mask, h]

@[simp] theorem mask_with_pins {s : State} {x : Pins} (h : x.mask M = s.pins.mask M) :
    ({ s with pins := x } : State).mask M = s.mask M := by
  simp [State.mask, h]

/-- Of the meter, the tally is a part of its own. -/
theorem Meter.mask_eq_of_tally (h : Allows M [.meter]) {x y : Meter} (ht : x.tally = y.tally) : x.mask M = y.mask M := by
  simp at h
  simp [Meter.mask, h, ht]

/-! ### The operations -/

@[simp] theorem mask_setQuarter (hM : Allows M [.quarters]) (s : State) (d q : Nat) (x : QuarterSt) :
    (s.setQuarter d q x).mask M = s.mask M := by
  simp at hM
  simp [State.setQuarter, State.mask, HostIf.mask, Rounds.mask, Prog.mask, Weights.mask,
    Pwr.mask, Keeper.mask, Sec.mask, Meter.mask, Pins.mask, blank, hM]

@[simp] theorem mask_setSlot (hM : Allows M [.stalls]) (s : State) (d p : Nat) (x : Stall) :
    (s.setSlot d p x).mask M = s.mask M := by
  simp at hM
  simp [State.setSlot, State.mask, HostIf.mask, Rounds.mask, Prog.mask, Weights.mask,
    Pwr.mask, Keeper.mask, Sec.mask, Meter.mask, Pins.mask, blank, hM]

@[simp] theorem mask_setArc (hM : Allows M [.arcs]) (s : State) (d q a : Nat) (x : Arcade) :
    (s.setArc d q a x).mask M = s.mask M := by
  simp at hM
  simp [State.setArc, State.mask, HostIf.mask, Rounds.mask, Prog.mask, Weights.mask,
    Pwr.mask, Keeper.mask, Sec.mask, Meter.mask, Pins.mask, blank, hM]

@[simp] theorem mask_setStream (hM : Allows M [.streams]) (s : State) (d u st : Nat) (x : Stream) :
    (s.setStream d u st x).mask M = s.mask M := by
  simp at hM
  simp [State.setStream, State.mask, HostIf.mask, Rounds.mask, Prog.mask, Weights.mask,
    Pwr.mask, Keeper.mask, Sec.mask, Meter.mask, Pins.mask, blank, hM]

@[simp] theorem mask_setRoundCtx (hM : Allows M [.rounds]) (s : State) (d c : Nat) (x : RoundCtx) :
    (s.setRoundCtx d c x).mask M = s.mask M := by
  simp at hM
  simp [State.setRoundCtx, Rounds.mask, blank, hM]

@[simp] theorem mask_setFetch (hM : Allows M [.weights]) (s : State) (d e : Nat) (x : Fetch) :
    (s.setFetch d e x).mask M = s.mask M := by
  simp at hM
  simp [State.setFetch, State.mask, HostIf.mask, Rounds.mask, Prog.mask, Weights.mask,
    Pwr.mask, Keeper.mask, Sec.mask, Meter.mask, Pins.mask, blank, hM]

@[simp] theorem mask_setIngest (hM : Allows M [.weights]) (s : State) (d : Nat) (x : Ingest) :
    (s.setIngest d x).mask M = s.mask M := by
  simp at hM
  simp [State.setIngest, State.mask, HostIf.mask, Rounds.mask, Prog.mask, Weights.mask,
    Pwr.mask, Keeper.mask, Sec.mask, Meter.mask, Pins.mask, blank, hM]

@[simp] theorem mask_setDieBasket (hM : Allows M [.red]) (s : State) (d b : Nat) (x : DieBasket) :
    (s.setDieBasket d b x).mask M = s.mask M := by
  simp at hM
  simp [State.setDieBasket, State.mask, HostIf.mask, Rounds.mask, Prog.mask, Weights.mask,
    Pwr.mask, Keeper.mask, Sec.mask, Meter.mask, Pins.mask, blank, hM]

@[simp] theorem mask_setBasket (hM : Allows M [.red]) (s : State) (b : Nat) (x : EngBasket) :
    (s.setBasket b x).mask M = s.mask M := by
  simp at hM
  simp [State.setBasket, State.mask, HostIf.mask, Rounds.mask, Prog.mask, Weights.mask,
    Pwr.mask, Keeper.mask, Sec.mask, Meter.mask, Pins.mask, blank, hM]

@[simp] theorem mask_setLevel (hM : Allows M [.red]) (s : State) (d k : Nat) (x : Level) :
    (s.setLevel d k x).mask M = s.mask M := by
  simp at hM
  simp [State.setLevel, State.mask, HostIf.mask, Rounds.mask, Prog.mask, Weights.mask,
    Pwr.mask, Keeper.mask, Sec.mask, Meter.mask, Pins.mask, blank, hM]

@[simp] theorem mask_setPort (hM : Allows M [.ports]) (s : State) (p : Nat) (x : Port) :
    (s.setPort p x).mask M = s.mask M := by
  simp at hM
  simp [State.setPort, State.mask, HostIf.mask, Rounds.mask, Prog.mask, Weights.mask,
    Pwr.mask, Keeper.mask, Sec.mask, Meter.mask, Pins.mask, blank, hM]

@[simp] theorem mask_setFlow (hM : Allows M [.flows]) (s : State) (p f : Nat) (x : Flow) :
    (s.setFlow p f x).mask M = s.mask M := by
  simp at hM
  simp [State.setFlow, State.mask, HostIf.mask, Rounds.mask, Prog.mask, Weights.mask,
    Pwr.mask, Keeper.mask, Sec.mask, Meter.mask, Pins.mask, blank, hM]

@[simp] theorem mask_setBctx (hM : Allows M [.bnd]) (s : State) (c : Nat) (x : BndCtx) :
    (s.setBctx c x).mask M = s.mask M := by
  simp at hM
  simp [State.setBctx, State.mask, HostIf.mask, Rounds.mask, Prog.mask, Weights.mask,
    Pwr.mask, Keeper.mask, Sec.mask, Meter.mask, Pins.mask, blank, hM]

@[simp] theorem mask_setPbundle (hM : Allows M [.bnd]) (s : State) (n : Nat) (x : PBundle) :
    (s.setPbundle n x).mask M = s.mask M := by
  simp at hM
  simp [State.setPbundle, State.mask, HostIf.mask, Rounds.mask, Prog.mask, Weights.mask,
    Pwr.mask, Keeper.mask, Sec.mask, Meter.mask, Pins.mask, blank, hM]

@[simp] theorem mask_setLedger (hM : Allows M [.ledgers]) (s : State) (d cls i : Nat) (x : Ledger) :
    (s.setLedger d cls i x).mask M = s.mask M := by
  simp at hM
  simp [State.setLedger, State.mask, HostIf.mask, Rounds.mask, Prog.mask, Weights.mask,
    Pwr.mask, Keeper.mask, Sec.mask, Meter.mask, Pins.mask, blank, hM]

@[simp] theorem mask_setWale (hM : Allows M [.wales]) (s : State) (w : Nat) (x : WaleSt) :
    (s.setWale w x).mask M = s.mask M := by
  simp at hM
  simp [State.setWale, State.mask, HostIf.mask, Rounds.mask, Prog.mask, Weights.mask,
    Pwr.mask, Keeper.mask, Sec.mask, Meter.mask, Pins.mask, blank, hM]

@[simp] theorem mask_setScrubber (hM : Allows M [.scrub]) (s : State) (d : Nat) (x : Scrub) :
    (s.setScrubber d x).mask M = s.mask M := by
  simp at hM
  simp [State.setScrubber, State.mask, HostIf.mask, Rounds.mask, Prog.mask, Weights.mask,
    Pwr.mask, Keeper.mask, Sec.mask, Meter.mask, Pins.mask, blank, hM]

@[simp] theorem mask_emit (hM : Allows M [.out]) (s : State) (m : OutMsg) :
    (s.emit m).mask M = s.mask M := by
  simp at hM
  simp [State.emit, State.mask, HostIf.mask, Rounds.mask, Prog.mask, Weights.mask,
    Pwr.mask, Keeper.mask, Sec.mask, Meter.mask, Pins.mask, blank, hM]

@[simp] theorem mask_freeNext (hM : Allows M [.free]) (s : State) :
    (s.freeNext).mask M = s.mask M := by
  simp at hM
  simp [State.freeNext, State.mask, HostIf.mask, Rounds.mask, Prog.mask, Weights.mask,
    Pwr.mask, Keeper.mask, Sec.mask, Meter.mask, Pins.mask, blank, hM]

@[simp] theorem mask_poke (hM : Allows M [.regs]) (s : State) (page off : Nat) (v : Word) :
    (s.poke page off v).mask M = s.mask M := by
  simp at hM
  simp [State.poke, State.mask, HostIf.mask, Rounds.mask, Prog.mask, Weights.mask,
    Pwr.mask, Keeper.mask, Sec.mask, Meter.mask, Pins.mask, blank, hM]

@[simp] theorem mask_pokeField (hM : Allows M [.regs]) (s : State) (page off hi lo v : Nat) :
    (s.pokeField page off hi lo v).mask M = s.mask M := by
  simp at hM
  simp [State.pokeField, hM]

@[simp] theorem mask_setBits (hM : Allows M [.regs]) (s : State) (page off : Nat) (m : Word) :
    (s.setBits page off m).mask M = s.mask M := by
  simp at hM
  simp [State.setBits, hM]

@[simp] theorem mask_pokePair (hM : Allows M [.regs]) (s : State) (page off : Nat) (v : DWord) :
    (s.pokePair page off v).mask M = s.mask M := by
  simp at hM
  simp [State.pokePair, hM]

@[simp] theorem mask_incSat (hM : Allows M [.regs]) (s : State) (page off : Nat) (n : Nat) :
    (s.incSat page off n).mask M = s.mask M := by
  simp at hM
  simp [State.incSat, hM]

@[simp] theorem mask_peak (hM : Allows M [.regs]) (s : State) (page off v : Nat) :
    (s.peak page off v).mask M = s.mask M := by
  simp at hM
  simp [State.peak, hM]

@[simp] theorem mask_count (hM : Allows M [.cnt]) (s : State) (page i : Nat) (n : Nat) :
    (s.count page i n).mask M = s.mask M := by
  simp at hM
  simp [State.count, State.mask, HostIf.mask, Rounds.mask, Prog.mask, Weights.mask,
    Pwr.mask, Keeper.mask, Sec.mask, Meter.mask, Pins.mask, blank, hM]

@[simp] theorem mask_modStall (hM : Allows M [.stalls]) (s : State) (d l : Nat) (f : Stall → Stall) :
    (s.modStall d l f).mask M = s.mask M := by
  simp at hM
  unfold State.modStall
  split <;> simp [hM]

@[simp] theorem mask_ledIssue (hM : Allows M [.ledgers]) (s : State) (d cls i : Nat) (n : Nat) :
    (s.ledIssue d cls i n).mask M = s.mask M := by
  simp at hM
  simp [State.ledIssue, hM]

@[simp] theorem mask_ledReturn (hM : Allows M [.ledgers]) (s : State) (d cls i : Nat) (n : Nat) :
    (s.ledReturn d cls i n).mask M = s.mask M := by
  simp at hM
  simp [State.ledReturn, hM]

@[simp] theorem mask_ledWoff (hM : Allows M [.cnt, .ledgers]) (s : State) (d cls i : Nat) (n : Nat) :
    (s.ledWoff d cls i n).mask M = s.mask M := by
  simp at hM
  simp [State.ledWoff, hM]

@[simp] theorem mask_putWord (hM : Allows M [.mem]) (s : State) (w : Nat) (v : MWord) :
    (s.putWord w v).mask M = s.mask M := by
  simp at hM
  simp [State.putWord, State.mask, HostIf.mask, Rounds.mask, Prog.mask, Weights.mask,
    Pwr.mask, Keeper.mask, Sec.mask, Meter.mask, Pins.mask, blank, hM]

@[simp] theorem mask_raise (hM : Allows M [.regs, .cnt, .bnd, .lastFault]) (s : State) (page code : Nat) :
    (s.raise page code).mask M = s.mask M := by
  simp at hM
  have hnote (t : State) (c : BitVec 16) (l : SMap BndCtx) :
      ({ t with keeper := { t.keeper with lastFault := c }, bnd := { t.bnd with ctx := l } } : State).mask M =
        t.mask M := by
    simp [State.mask, Keeper.mask, blank, hM]
  simp only [State.raise]
  split
  · rfl
  · split <;> simp [hnote, hM]

@[simp] theorem mask_with_errNew (hM : Allows M [.errNotes]) (s : State) (x : SMap Bool) :
    ({ s with host := { s.host with errNew := x } } : State).mask M = s.mask M := by
  simp at hM
  simp [HostIf.mask, blank, hM]

@[simp] theorem mask_noteErr (hM : Allows M [.regs, .errNotes]) (s : State) (page src cls w : Nat) :
    (s.noteErr page src cls w).mask M = s.mask M := by
  have hregs : Allows M [.regs] := by simp at hM; simp [hM]
  have herr : Allows M [.errNotes] := by simp at hM; simp [hM]
  unfold State.noteErr
  split
  · rfl
  · refine (mask_with_errNew herr (((s.poke page rLastErrLo _).poke page rLastErrHi _).poke page rLastSyndrome _) _).trans ?_
    rw [mask_poke hregs, mask_poke hregs, mask_poke hregs]

@[simp] theorem mask_setCeWin (hM : Allows M [.errNotes]) (s : State) (page : Nat) (c : CeWin) :
    (s.setCeWin page c).mask M = s.mask M := by
  simp at hM
  simp [State.setCeWin, State.mask, HostIf.mask, Rounds.mask, Prog.mask, Weights.mask,
    Pwr.mask, Keeper.mask, Sec.mask, Meter.mask, Pins.mask, blank, hM]

@[simp] theorem mask_noteCe (hM : Allows M [.regs, .cnt, .errNotes, .bnd, .lastFault]) (s : State) (page : Nat) :
    (s.noteCe page).mask M = s.mask M := by
  simp at hM
  simp [State.noteCe, hM]

@[simp] theorem mask_queueRewrite (hM : Allows M [.regs, .scrub]) (s : State) (d w : Nat) :
    (s.queueRewrite d w).mask M = s.mask M := by
  simp at hM
  simp [State.queueRewrite, hM]

@[simp] theorem mask_noteCorrected (hM : Allows M [.cnt]) (s : State) (k : Nat) :
    (s.noteCorrected k).mask M = s.mask M := by
  simp at hM
  simp [State.noteCorrected, hM]

@[simp] theorem mask_noteRead (hM : Allows M [.regs, .cnt, .errNotes, .mem, .scrub, .bnd, .lastFault]) (s : State)
    (src w : Nat) :
    (s.noteRead src w).mask M = s.mask M := by
  simp at hM
  simp only [State.noteRead]
  repeat' split
  all_goals simp [hM]

@[simp] theorem mask_noteBytes (hM : Allows M [.cnt]) (s : State) (k : Nat) (rd : Bool) (n : Nat) :
    (s.noteBytes k rd n).mask M = s.mask M := by
  simp at hM
  simp [State.noteBytes, hM]

@[simp] theorem mask_noteReads (hM : Allows M [.regs, .cnt, .errNotes, .mem, .scrub, .bnd, .lastFault]) (s : State)
    (src k n : Nat) :
    (s.noteReads src k n).mask M = s.mask M := by
  simp at hM
  simp [State.noteReads, hM]

@[simp] theorem mask_writeWords (hM : Allows M [.cnt, .mem]) (s : State) (k : Nat) (l : List MWord) :
    (s.writeWords k l).mask M = s.mask M := by
  simp at hM
  simp [State.writeWords, hM]

@[simp] theorem mask_writePart (hM : Allows M [.regs, .cnt, .errNotes, .mem, .scrub, .bnd, .lastFault]) (s : State)
    (src w : Nat) (l : List (Nat × Byte)) :
    (s.writePart src w l).mask M = s.mask M := by
  simp at hM
  simp [State.writePart, hM]

@[simp] theorem mask_writeBytes (hM : Allows M [.regs, .cnt, .errNotes, .mem, .scrub, .bnd, .lastFault])
    (s : State) (src k : Nat) (l : List Byte) :
    (s.writeBytes src k l).mask M = s.mask M := by
  simp at hM
  simp [State.writeBytes, hM]

@[simp] theorem mask_breach (hM : Allows M [.cnt, .breaches]) (s : State) (code d stall agent index : Nat) :
    (s.breach code d stall agent index).mask M = s.mask M := by
  simp at hM
  simp only [State.breach]
  split <;> simp [Prog.mask, blank, hM]

@[simp] theorem mask_setPool (hM : Allows M [.regs, .stores, .ledgers]) (s : State) (d q i : Nat) (p : Pool) :
    (s.setPool d q i p).mask M = s.mask M := by
  simp at hM
  simp [State.setPool, hM]

@[simp] theorem mask_hold (hM : Allows M [.regs, .stores, .ledgers]) (s : State) (k len : Nat) :
    (s.hold k len).mask M = s.mask M := by
  simp at hM
  simp only [State.hold]
  repeat' split
  all_goals simp [hM]

@[simp] theorem mask_unhold (hM : Allows M [.regs, .stores, .ledgers]) (s : State) (k len : Nat) :
    (s.unhold k len).mask M = s.mask M := by
  simp at hM
  simp only [State.unhold]
  repeat' split
  all_goals simp [hM]

@[simp] theorem mask_setMark (hM : Allows M [.stores]) (s : State) (d m n : Nat) :
    (s.setMark d m n).mask M = s.mask M := by
  simp at hM
  simp [State.setMark, State.mask, HostIf.mask, Rounds.mask, Prog.mask, Weights.mask,
    Pwr.mask, Keeper.mask, Sec.mask, Meter.mask, Pins.mask, blank, hM]

@[simp] theorem mask_setReqs (hM : Allows M [.stores]) (s : State) (d m : Nat) (l : List (Taker × Nat)) :
    (s.setReqs d m l).mask M = s.mask M := by
  simp at hM
  simp [State.setReqs, State.mask, HostIf.mask, Rounds.mask, Prog.mask, Weights.mask,
    Pwr.mask, Keeper.mask, Sec.mask, Meter.mask, Pins.mask, blank, hM]

@[simp] theorem mask_grant (hM : Allows M [.stalls, .streams, .rounds]) (s : State) (d : Nat) (k : Taker) :
    (s.grant d k).mask M = s.mask M := by
  simp at hM
  unfold State.grant
  split <;> simp [hM]

@[simp] theorem mask_serveReqs (hM : Allows M [.stalls, .streams, .stores, .rounds]) (s : State) (d m : Nat)
    (l : List (Taker × Nat)) :
    (serveReqs s d m l).mask M = s.mask M := by
  simp at hM
  induction l generalizing s with
  | nil => simp [serveReqs, hM]
  | cons e r ih =>
    unfold serveReqs
    split <;> simp [ih, hM]

@[simp] theorem mask_askMark (hM : Allows M [.stalls, .streams, .stores, .rounds]) (s : State) (d m n : Nat)
    (k : Taker) :
    (s.askMark d m n k).mask M = s.mask M := by
  simp at hM
  simp [State.askMark, hM]

@[simp] theorem mask_postMark (hM : Allows M [.cnt, .stalls, .streams, .stores, .rounds, .breaches]) (s : State)
    (d m n : Nat) (by' : Poster) :
    (s.postMark d m n by').mask M = s.mask M := by
  simp at hM
  simp [State.postMark, hM]

@[simp] theorem mask_takeGate (hM : Allows M [.stalls, .streams, .stores, .rounds]) (s : State) (d u st : Nat) :
    (s.takeGate d u st).mask M = s.mask M := by
  simp at hM
  simp [State.takeGate, hM]

@[simp] theorem mask_issueXfer (hM : Allows M [.regs, .streams, .ledgers]) (s : State) (d u st : Nat)
    (ws : List MWord) :
    (s.issueXfer d u st ws).mask M = s.mask M := by
  simp at hM
  simp [State.issueXfer, hM]

@[simp] theorem mask_walkEnd (hM : Allows M [.cnt, .stalls, .streams, .stores, .rounds, .breaches]) (s : State)
    (d u st : Nat) :
    (s.walkEnd d u st).mask M = s.mask M := by
  simp at hM
  simp [State.walkEnd, hM]

@[simp] theorem mask_unlimit (hM : Allows M [.streams]) (s : State) (d u : Nat) :
    (s.unlimit d u).mask M = s.mask M := by
  simp at hM
  simp [State.unlimit, State.mask, HostIf.mask, Rounds.mask, Prog.mask, Weights.mask,
    Pwr.mask, Keeper.mask, Sec.mask, Meter.mask, Pins.mask, blank, hM]

@[simp] theorem mask_completeXfer (hM : Allows M [.cnt, .stalls, .streams, .stores, .rounds, .breaches, .ledgers])
    (s : State) (d u st t : Nat) (gone : Bool) :
    (s.completeXfer d u st t gone).mask M = s.mask M := by
  simp at hM
  simp [State.completeXfer, hM]

@[simp] theorem mask_storeWords (hM : Allows M [.cnt, .mem]) (s : State) (k : Nat) (l : List MWord) :
    (s.storeWords k l).mask M = s.mask M := by
  simp at hM
  simp [State.storeWords, hM]

@[simp] theorem mask_storeBytes (hM : Allows M [.regs, .cnt, .errNotes, .mem, .scrub, .bnd, .lastFault])
    (s : State) (src k : Nat) (l : List Byte) :
    (s.storeBytes src k l).mask M = s.mask M := by
  simp at hM
  simp [State.storeBytes, hM]

@[simp] theorem mask_finish (hM : Allows M [.changes]) (s t : State) :
    (s.finish t).mask M = t.mask M := by
  simp at hM
  simp [State.finish, HostIf.mask, blank, hM]

@[simp] theorem mask_waleTraffic (hM : Allows M [.free, .cnt]) (s : State) (w bytes : Nat) :
    (s.waleTraffic w bytes).mask M = s.mask M := by
  simp at hM
  simp [State.waleTraffic, hM]

@[simp] theorem mask_freeRoundSlot (hM : Allows M [.regs, .stores, .weights, .ledgers]) (s : State) (d c i : Nat) :
    (s.freeRoundSlot d c i).mask M = s.mask M := by
  simp at hM
  unfold State.freeRoundSlot
  refine mask_forEach (fun t q => ?_) _ _
  refine (mask_foldl (fun u e => by simp [hM]) _ _).trans ?_
  simp [Weights.mask, blank, hM]

@[simp] theorem mask_sendCredits (hM : Allows M [.rounds, .ledgers]) (s : State) (d c n : Nat) :
    (s.sendCredits d c n).mask M = s.mask M := by
  simp at hM
  simp [State.sendCredits, hM]

@[simp] theorem mask_roundDone (hM : Allows M [.streams, .rounds]) (s : State) (d c : Nat) :
    (s.roundDone d c).mask M = s.mask M := by
  simp at hM
  simp [State.roundDone, hM]

@[simp] theorem mask_freeSlots (hM : Allows M [.regs, .streams, .stores, .rounds, .weights, .ledgers]) (s : State)
    (d c : Nat) :
    (s.freeSlots d c).mask M = s.mask M := by
  simp at hM
  simp [State.freeSlots, hM]

@[simp] theorem mask_hopTraffic (hM : Allows M [.free, .cnt]) (s : State) (i a b n : Nat) :
    (s.hopTraffic i a b n).mask M = s.mask M := by
  simp at hM
  simp [State.hopTraffic, hM]

@[simp] theorem mask_flagIf (hM : Allows M [.regs]) (s : State) (d p : Nat) (f : Word) (c : Bool) :
    (s.flagIf d p f c).mask M = s.mask M := by
  simp at hM
  simp [State.flagIf, hM]

@[simp] theorem mask_countWork (hM : Allows M [.cnt, .tally]) (s : State) (d p n : Nat) :
    (s.countWork d p n).mask M = s.mask M := by
  simp at hM
  simp [State.countWork, State.mask, HostIf.mask, Rounds.mask, Prog.mask, Weights.mask,
    Pwr.mask, Keeper.mask, Sec.mask, Meter.mask, Pins.mask, blank, hM]

@[simp] theorem mask_countBallast (hM : Allows M [.cnt, .stalls, .tally]) (s : State) (d p cycles : Nat) :
    (s.countBallast d p cycles).mask M = s.mask M := by
  simp at hM
  simp [State.countBallast, State.mask, HostIf.mask, Rounds.mask, Prog.mask, Weights.mask,
    Pwr.mask, Keeper.mask, Sec.mask, Meter.mask, Pins.mask, blank, hM]

@[simp] theorem mask_gapBallast (hM : Allows M [.free, .cnt, .stalls, .tally]) (s : State) (d p : Nat) :
    (s.gapBallast d p).mask M = s.mask M := by
  simp at hM
  simp [State.gapBallast, hM]

@[simp] theorem mask_stallWait (hM : Allows M [.regs, .cnt, .stalls, .tally]) (s : State) (d p : Nat) (k : CmdKind)
    (st : SeqSt) (counted : Bool) :
    (s.stallWait d p k st counted).mask M = s.mask M := by
  simp at hM
  simp [State.stallWait, hM]

@[simp] theorem mask_takeSeed (hM : Allows M [.stalls]) (s : State) (d p : Nat) :
    (s.takeSeed d p).mask M = s.mask M := by
  simp at hM
  simp [State.takeSeed, hM]

@[simp] theorem mask_beginPass (hM : Allows M [.free, .cnt, .stalls, .tally]) (s : State) (d p n : Nat) :
    (s.beginPass d p n).mask M = s.mask M := by
  simp at hM
  simp only [State.beginPass]
  split <;> simp [hM]

@[simp] theorem mask_runSteps
    (hM : Allows M [.regs, .cnt, .errNotes, .mem, .scrub, .stalls, .bnd, .lastFault, .tally]) (s : State) (d p : Nat)
    (b : Fin 2) :
    (s.runSteps d p b).mask M = s.mask M := by
  simp at hM
  simp only [State.runSteps]
  repeat' split
  all_goals simp [hM]

@[simp] theorem mask_freeUnits (hM : Allows M [.regs, .stores, .ledgers]) (s : State) (d pool : Nat) (us : List Nat) :
    (s.freeUnits d pool us).mask M = s.mask M := by
  simp at hM
  simp [State.freeUnits, hM]

@[simp] theorem mask_unstage (hM : Allows M [.regs, .stores, .ledgers]) (s : State) (d b : Nat) (t : StageTile) :
    (s.unstage d b t).mask M = s.mask M := by
  simp at hM
  simp [State.unstage, hM]

@[simp] theorem mask_dropSum (hM : Allows M [.regs, .stores, .red, .ledgers]) (s : State) (d b : Nat) :
    (s.dropSum d b).mask M = s.mask M := by
  simp at hM
  simp [State.dropSum, hM]

@[simp] theorem mask_discardPuts (hM : Allows M [.regs, .stores, .red, .ledgers]) (s : State) (d n : Nat) :
    (s.discardPuts d n).mask M = s.mask M := by
  simp at hM
  have hdrop (t : State) (b : Nat) (l : List StageTile) :
      (l.foldl (fun u e => u.unstage d b e) t).mask M = t.mask M := by
    simp [hM]
  simp [State.discardPuts, hdrop, hM]

@[simp] theorem mask_sumChunk (hM : Allows M [.regs, .stores, .red, .ledgers]) (s : State) (d b c : Nat) :
    (s.sumChunk d b c).mask M = s.mask M := by
  simp at hM
  simp [State.sumChunk, hM]

@[simp] theorem mask_zeroRegion (hM : Allows M [.cnt, .mem]) (s : State) (d b : Nat) :
    (s.zeroRegion d b).mask M = s.mask M := by
  simp at hM
  simp [State.zeroRegion, hM]

@[simp] theorem mask_dieReady
    (hM : Allows M [.out, .regs, .cnt, .errNotes, .mem, .scrub, .stores, .red, .bnd, .ledgers, .lastFault]) (s : State)
    (d b : Nat) :
    (s.dieReady d b).mask M = s.mask M := by
  simp at hM
  simp [State.dieReady, hM]

@[simp] theorem mask_decideBasket (hM : Allows M [.cnt, .red]) (s : State) (b : Nat) (byDead : Bool) :
    (s.decideBasket b byDead).mask M = s.mask M := by
  simp at hM
  simp [State.decideBasket, hM]

@[simp] theorem mask_lateHist (hM : Allows M [.regs]) (s : State) (d : Nat) (k : Option Nat) :
    (s.lateHist d k).mask M = s.mask M := by
  simp at hM
  unfold State.lateHist
  split <;> simp [hM]

@[simp] theorem mask_lateDrop (hM : Allows M [.regs, .cnt, .mem, .stores, .red, .ledgers]) (s : State) (d b : Nat) :
    (s.lateDrop d b).mask M = s.mask M := by
  simp at hM
  simp [State.lateDrop, hM]

@[simp] theorem mask_readyStamp (hM : Allows M [.regs, .cnt, .mem, .stores, .red, .ledgers]) (s : State)
    (d b lateness : Nat) :
    (s.readyStamp d b lateness).mask M = s.mask M := by
  simp at hM
  simp [State.readyStamp, hM]

@[simp] theorem mask_receiveIncluded (hM : Allows M [.regs, .cnt, .mem, .red]) (s : State) (d b : Nat) :
    (s.receiveIncluded d b).mask M = s.mask M := by
  simp at hM
  simp only [State.receiveIncluded]
  repeat' split
  all_goals simp [hM]

@[simp] theorem mask_levelBusy (hM : Allows M [.free, .regs, .red]) (s : State) (d k : Nat) :
    (s.levelBusy d k).mask M = s.mask M := by
  simp at hM
  simp [State.levelBusy, hM]

@[simp] theorem mask_pipeCredit (hM : Allows M [.red, .ledgers]) (s : State) (d k : Nat) :
    (s.pipeCredit d k).mask M = s.mask M := by
  simp at hM
  simp [State.pipeCredit, hM]

@[simp] theorem mask_levelTake (hM : Allows M [.red]) (s : State) (d k : Nat) (c : Nat × Nat) :
    (s.levelTake d k c).mask M = s.mask M := by
  simp at hM
  simp [State.levelTake, hM]

@[simp] theorem mask_crossBuddy (hM : Allows M [.free, .cnt]) (s : State) (p a n : Nat) :
    (s.crossBuddy p a n).mask M = s.mask M := by
  simp at hM
  unfold State.crossBuddy
  split <;> simp [hM]

@[simp] theorem mask_putFrame (hM : Allows M [.out, .free, .cnt]) (s : State) (f : TxFrame) :
    (s.putFrame f).mask M = s.mask M := by
  simp at hM
  simp [State.putFrame, hM]

@[simp] theorem mask_sendFrame (hM : Allows M [.out, .free, .cnt]) (s : State) (p : Nat) (x : Flow) (f : TxFrame) :
    (s.sendFrame p x f).mask M = s.mask M := by
  simp at hM
  simp [State.sendFrame, hM]

@[simp] theorem mask_sendV0 (hM : Allows M [.out, .free, .cnt]) (s : State) (p f type : Nat) (body : TxBody) :
    (s.sendV0 p f type body).mask M = s.mask M := by
  simp at hM
  simp [State.sendV0, hM]

@[simp] theorem mask_sendCredit (hM : Allows M [.out, .free, .cnt]) (s : State) (p f : Nat) :
    (s.sendCredit p f).mask M = s.mask M := by
  simp at hM
  simp [State.sendCredit, hM]

@[simp] theorem mask_sendClose (hM : Allows M [.out, .free, .cnt]) (s : State) (p f : Nat) (reason : Byte) :
    (s.sendClose p f reason).mask M = s.mask M := by
  simp at hM
  simp [State.sendClose, hM]

@[simp] theorem mask_sendOpen (hM : Allows M [.out, .free, .cnt]) (s : State) (p f : Nat) :
    (s.sendOpen p f).mask M = s.mask M := by
  simp at hM
  simp [State.sendOpen, hM]

@[simp] theorem mask_sendAccept (hM : Allows M [.out, .free, .cnt]) (s : State) (p f : Nat) :
    (s.sendAccept p f).mask M = s.mask M := by
  simp at hM
  simp [State.sendAccept, hM]

@[simp] theorem mask_sendKept (hM : Allows M [.out, .free, .cnt, .ports, .flows]) (s : State) (p f : Nat) (k : Kept) :
    (s.sendKept p f k).mask M = s.mask M := by
  simp at hM
  simp only [State.sendKept]
  split <;> simp [hM]

@[simp] theorem mask_resend (hM : Allows M [.out, .free, .cnt, .flows]) (s : State) (p f : Nat) (sel : Kept → Bool) :
    (s.resend p f sel).mask M = s.mask M := by
  simp at hM
  simp [State.resend, hM]

@[simp] theorem mask_basketSent (hM : Allows M [.free, .regs, .red]) (s : State) (p : Nat) :
    (s.basketSent p).mask M = s.mask M := by
  simp at hM
  simp [State.basketSent, hM]

@[simp] theorem mask_streamsAcked (hM : Allows M [.cnt, .stalls, .streams, .stores, .rounds, .breaches, .ledgers])
    (s : State) (p : Nat) (l : List (Nat × Nat)) :
    (s.streamsAcked p l).mask M = s.mask M := by
  simp at hM
  simp [State.streamsAcked, hM]

@[simp] theorem mask_dropKept (hM : Allows M [.ports, .flows]) (s : State) (p f : Nat) (gone rest : List Kept) :
    (s.dropKept p f gone rest).mask M = s.mask M := by
  simp at hM
  simp [State.dropKept, hM]

@[simp] theorem mask_takeAck (hM : Allows M [.free, .regs, .cnt, .stalls, .streams, .stores, .rounds, .breaches,
    .red, .ports, .flows, .ledgers]) (s : State) (p f : Nat) (ack : Word) :
    (s.takeAck p f ack).mask M = s.mask M := by
  simp at hM
  simp [State.takeAck, hM]

@[simp] theorem mask_takeLimit (hM : Allows M [.flows, .ledgers]) (s : State) (p f : Nat) (l : DWord) :
    (s.takeLimit p f l).mask M = s.mask M := by
  simp at hM
  simp [State.takeLimit, hM]

@[simp] theorem mask_grantFlow (hM : Allows M [.flows, .ledgers]) (s : State) (p f n : Nat) :
    (s.grantFlow p f n).mask M = s.mask M := by
  simp at hM
  simp [State.grantFlow, hM]

@[simp] theorem mask_rxAck (hM : Allows M [.free, .regs, .cnt, .stalls, .streams, .stores, .rounds, .breaches,
    .red, .ports, .flows, .ledgers]) (s : State) (p : Nat) (h : Hdr) :
    (s.rxAck p h).mask M = s.mask M := by
  simp at hM
  simp [State.rxAck, hM]

@[simp] theorem mask_takeSeq (hM : Allows M [.flows, .ledgers]) (s : State) (p f : Nat) (seq : Word) (bytes : Nat) :
    (s.takeSeq p f seq bytes).mask M = s.mask M := by
  simp at hM
  simp [State.takeSeq, hM]

@[simp] theorem mask_nackRanges (hM : Allows M [.out, .free, .regs, .cnt]) (s : State) (p f : Nat) (l : List
    (Word × Word)) :
    (s.nackRanges p f l).mask M = s.mask M := by
  simp at hM
  simp [State.nackRanges, hM]

@[simp] theorem mask_sendNack (hM : Allows M [.out, .free, .regs, .cnt]) (s : State) (p f : Nat) :
    (s.sendNack p f).mask M = s.mask M := by
  simp at hM
  simp [State.sendNack, hM]

@[simp] theorem mask_leaveFree (hM : Allows M [.free, .flows]) (s : State) (p f : Nat) (st : FlSt)
    (peer : BitVec 20) (ip : BitVec 128) (udp pflow : BitVec 16) (pgen : Byte) :
    (s.leaveFree p f st peer ip udp pflow pgen).mask M = s.mask M := by
  simp at hM
  simp [State.leaveFree, hM]

@[simp] theorem mask_enterOpen (hM : Allows M [.cnt, .flows]) (s : State) (p f : Nat) :
    (s.enterOpen p f).mask M = s.mask M := by
  simp at hM
  simp [State.enterOpen, hM]

@[simp] theorem mask_openNow (hM : Allows M [.out, .free, .cnt, .flows]) (s : State) (p f : Nat) :
    (s.openNow p f).mask M = s.mask M := by
  simp at hM
  simp [State.openNow, hM]

@[simp] theorem mask_toFree (hM : Allows M [.ports, .flows]) (s : State) (p f : Nat) (cause : BitVec 4) :
    (s.toFree p f cause).mask M = s.mask M := by
  simp at hM
  simp [State.toFree, hM]

@[simp] theorem mask_reconcile (hM : Allows M [.cnt, .ports, .flows, .ledgers]) (s : State) (p f : Nat) :
    (s.reconcile p f).mask M = s.mask M := by
  simp at hM
  simp only [State.reconcile]
  split <;> simp [hM]

@[simp] theorem mask_closeSlot (hM : Allows M [.out, .free, .cnt, .flows]) (s : State) (p f : Nat) (reason : Byte)
    (cause : BitVec 4) :
    (s.closeSlot p f reason cause).mask M = s.mask M := by
  simp at hM
  simp [State.closeSlot, hM]

@[simp] theorem mask_writeOff (hM : Allows M [.regs, .cnt, .ports, .flows, .bnd, .ledgers, .lastFault]) (s : State)
    (p f : Nat) :
    (s.writeOff p f).mask M = s.mask M := by
  simp at hM
  simp [State.writeOff, hM]

@[simp] theorem mask_fetchBegin (hM : Allows M [.weights]) (s : State) (d e : Nat) :
    (s.fetchBegin d e).mask M = s.mask M := by
  simp at hM
  simp [State.fetchBegin, hM]

@[simp] theorem mask_fetchGrant (hM : Allows M [.weights, .flows, .ledgers]) (s : State) (d e : Nat) :
    (s.fetchGrant d e).mask M = s.mask M := by
  simp at hM
  simp [State.fetchGrant, hM]

@[simp] theorem mask_dropIngest (hM : Allows M [.weights]) (s : State) (d e : Nat) :
    (s.dropIngest d e).mask M = s.mask M := by
  simp at hM
  simp [State.dropIngest, hM]

@[simp] theorem mask_noteFail (hM : Allows M [.regs]) (s : State) (d e cause off : Nat) :
    (s.noteFail d e cause off).mask M = s.mask M := by
  simp at hM
  simp [State.noteFail, hM]

@[simp] theorem mask_fetchLost (hM : Allows M [.cnt, .breaches, .weights]) (s : State) (d e : Nat) :
    (s.fetchLost d e).mask M = s.mask M := by
  simp at hM
  simp [State.fetchLost, hM]

@[simp] theorem mask_fetchEnd (hM : Allows M [.weights]) (s : State) (d e : Nat) :
    (s.fetchEnd d e).mask M = s.mask M := by
  simp at hM
  simp [State.fetchEnd, Weights.mask, blank, hM]

@[simp] theorem mask_fetchComplete
    (hM : Allows M [.cnt, .stalls, .streams, .stores, .rounds, .breaches, .weights, .ledgers]) (s : State) (d e : Nat)
    (ok : Nat → Bool) :
    (s.fetchComplete d e ok).mask M = s.mask M := by
  simp at hM
  simp [State.fetchComplete, hM]

@[simp] theorem mask_fetchWrite
    (hM : Allows M [.cnt, .mem, .stalls, .streams, .stores, .rounds, .breaches, .weights, .ledgers]) (s : State)
    (d e o : Nat) (l : List MWord) :
    (s.fetchWrite d e o l).mask M = s.mask M := by
  simp at hM
  have hput (t : State) (l : List Nat) (x : MWord) : (l.foldl (fun u k => u.storeWords k [x]) t).mask M = t.mask M := by
    simp [hM]
  simp [State.fetchWrite, hput, hM]

@[simp] theorem mask_fetchCopy (hM : Allows M [.free, .regs, .cnt, .errNotes, .mem, .scrub, .stalls, .streams,
    .stores, .rounds, .breaches, .weights, .bnd, .ledgers, .lastFault]) (s : State) (d e : Nat) (n from' : Nat)
    (o len : Nat) :
    (s.fetchCopy d e n from' o len).mask M = s.mask M := by
  simp at hM
  unfold State.fetchCopy
  split <;> simp [hM]

@[simp] theorem mask_failWalk (hM : Allows M [.free, .regs, .cnt, .errNotes, .mem, .scrub, .stalls, .streams,
    .stores, .rounds, .breaches, .weights, .bnd, .ledgers, .lastFault]) (s : State) (d e cause o len : Nat) :
    (s.failWalk d e cause o len).mask M = s.mask M := by
  simp at hM
  simp only [State.failWalk]
  repeat' split
  all_goals simp [hM]

@[simp] theorem mask_failFlow (hM : Allows M [.free, .regs, .cnt, .errNotes, .mem, .scrub, .stalls, .streams,
    .stores, .rounds, .breaches, .weights, .bnd, .ledgers, .lastFault]) (s : State) (d fl cause : Nat) :
    (s.failFlow d fl cause).mask M = s.mask M := by
  simp at hM
  simp [State.failFlow, hM]

@[simp] theorem mask_ingestBand
    (hM : Allows M [.regs, .cnt, .mem, .stalls, .streams, .stores, .rounds, .breaches, .weights, .ledgers]) (s : State)
    (d e : Nat) (band : List Byte) :
    (s.ingestBand d e band).mask M = s.mask M := by
  simp at hM
  have hput (t : State) (l : List Nat) (ws : List MWord) :
      (l.foldl (fun u k => u.storeWords k ws) t).mask M = t.mask M := by
    simp [hM]
  simp [State.ingestBand, hput, hM]

/-- A band that is placed changes the ingest unit alone. -/
theorem mask_placeBand (hM : Allows M [.weights]) {s t : State} {d : Nat} (ht : s.placeBand d = some t) :
    t.mask M = s.mask M := by
  simp at hM
  unfold State.placeBand at ht
  simp only at ht
  split at ht
  · cases ht
  · split at ht
    · cases ht
      simp [hM]
    · split at ht
      · cases ht
      · cases ht
        simp [hM]

@[simp] theorem mask_ingestPump
    (hM : Allows M [.regs, .cnt, .mem, .stalls, .streams, .stores, .rounds, .breaches, .weights, .ledgers]) (s : State)
    (d fuel : Nat) :
    (s.ingestPump d fuel).mask M = s.mask M := by
  simp at hM
  induction fuel generalizing s with
  | zero => rfl
  | succ k ih =>
    unfold State.ingestPump
    split
    · simp [ih, hM]
    · split
      · next t ht => rw [ih, mask_placeBand (by simp [hM]) ht]
      · rfl

@[simp] theorem mask_ingestRun
    (hM : Allows M [.regs, .cnt, .mem, .stalls, .streams, .stores, .rounds, .breaches, .weights, .ledgers]) (s : State)
    (d : Nat) :
    (s.ingestRun d).mask M = s.mask M := by
  simp at hM
  simp [State.ingestRun, hM]

@[simp] theorem mask_feed
    (hM : Allows M [.regs, .cnt, .mem, .stalls, .streams, .stores, .rounds, .breaches, .weights, .ledgers]) (s : State)
    (d e : Nat) (l : List Byte) :
    (s.feed d e l).mask M = s.mask M := by
  simp at hM
  simp [State.feed, hM]

@[simp] theorem mask_fetchIssue
    (hM : Allows M [.regs, .cnt, .mem, .stalls, .streams, .stores, .rounds, .breaches, .weights, .flows, .ledgers])
    (s : State) (d e : Nat) :
    (s.fetchIssue d e).mask M = s.mask M := by
  simp at hM
  simp [State.fetchIssue, hM]

@[simp] theorem mask_takePacked (hM : Allows M [.free, .regs, .cnt, .errNotes, .mem, .scrub, .stalls, .streams,
    .stores, .rounds, .breaches, .weights, .bnd, .ledgers, .lastFault]) (s : State) (d e o : Nat) (enc : Word)
    (l : List Byte) :
    (s.takePacked d e o enc l).mask M = s.mask M := by
  simp at hM
  simp [State.takePacked, hM]

@[simp] theorem mask_stale (hM : Allows M [.regs, .cnt]) (s : State) (d : Nat) :
    (s.stale d).mask M = s.mask M := by
  simp at hM
  simp [State.stale, hM]

@[simp] theorem mask_takeWeight (hM : Allows M [.free, .regs, .cnt, .errNotes, .mem, .scrub, .stalls, .streams,
    .stores, .rounds, .breaches, .weights, .bnd, .ledgers, .lastFault]) (s : State) (d : Nat) (h : Hdr)
    (w : WeightBody) :
    (s.takeWeight d h w).mask M = s.mask M := by
  simp at hM
  simp only [State.takeWeight]
  split
  · simp [hM]
  · repeat' split
    all_goals simp [hM]

@[simp] theorem mask_holdPeak (hM : Allows M [.free, .regs]) (s : State) (p : Nat) (held : Bool) :
    (s.holdPeak p held).mask M = s.mask M := by
  simp at hM
  simp [State.holdPeak, hM]

@[simp] theorem mask_bellBack (hM : Allows M [.ledgers]) (s : State) (p : Nat) :
    (s.bellBack p).mask M = s.mask M := by
  simp at hM
  simp [State.bellBack, hM]

@[simp] theorem mask_bellJoin (hM : Allows M [.ledgers]) (s : State) (p : Nat) :
    (s.bellJoin p).mask M = s.mask M := by
  simp at hM
  simp [State.bellJoin, hM]

@[simp] theorem mask_ctxAbort (hM : Allows M [.regs, .cnt, .bnd, .lastFault]) (s : State) (c : Nat) (reason : Byte)
    (wher : Word) :
    (s.ctxAbort c reason wher).mask M = s.mask M := by
  simp at hM
  simp [State.ctxAbort, hM]

@[simp] theorem mask_ctxAbortAt (hM : Allows M [.free, .regs, .bnd, .ledgers]) (s : State) (c p : Nat) :
    (s.ctxAbortAt c p).mask M = s.mask M := by
  simp at hM
  simp [State.ctxAbortAt, hM]

@[simp] theorem mask_finishAbort (hM : Allows M [.free, .regs, .bnd, .ledgers]) (s : State) (c : Nat) :
    (s.finishAbort c).mask M = s.mask M := by
  simp at hM
  simp [State.finishAbort, hM]

@[simp] theorem mask_ctxOpen (hM : Allows M [.free, .regs, .cnt, .bnd, .ledgers]) (s : State) (c : Nat)
    (engine : Bool) (scope : DWord) :
    (s.ctxOpen c engine scope).mask M = s.mask M := by
  simp at hM
  simp [State.ctxOpen, hM]

@[simp] theorem mask_pbLeave (hM : Allows M [.stalls]) (s : State) (d n : Nat) :
    (s.pbLeave d n).mask M = s.mask M := by
  simp at hM
  simp [State.pbLeave, hM]

@[simp] theorem mask_pbNote (hM : Allows M [.regs]) (s : State) (d n : Nat) :
    (s.pbNote d n).mask M = s.mask M := by
  simp at hM
  simp [State.pbNote, hM]

@[simp] theorem mask_pbAbort
    (hM : Allows M [.regs, .cnt, .stalls, .stores, .breaches, .red, .bnd, .ledgers, .lastFault]) (s : State) (n : Nat)
    (reason : Byte) :
    (s.pbAbort n reason).mask M = s.mask M := by
  simp at hM
  simp only [State.pbAbort]
  split <;> simp [hM]

@[simp] theorem mask_reachHead (hM : Allows M [.regs, .cnt, .errNotes, .mem, .scrub, .stalls, .bnd, .lastFault])
    (s : State) (d l p : Nat) :
    (s.reachHead d l p).mask M = s.mask M := by
  simp at hM
  unfold State.reachHead
  split <;> simp [hM]

@[simp] theorem mask_repair (hM : Allows M [.repairs]) (s : State) (kind d u lane : Nat) :
    (s.repair kind d u lane).mask M = s.mask M := by
  simp at hM
  simp [State.repair, Keeper.mask, blank, hM]

@[simp] theorem mask_noteAssume (hM : Allows M [.assume]) (s : State) :
    (s.noteAssume).mask M = s.mask M := by
  simp at hM
  simp [State.noteAssume, Prog.mask, blank, hM]

@[simp] theorem mask_hostClose (hM : Allows M [.out, .free, .regs, .cnt, .errNotes, .mem, .scrub, .stalls,
    .streams, .stores, .rounds, .breaches, .weights, .flows, .bnd, .ledgers, .lastFault]) (s : State) (p f : Nat)
    (reason : Byte) (cause : BitVec 4) :
    (s.hostClose p f reason cause).mask M = s.mask M := by
  simp at hM
  simp [State.hostClose, hM]

@[simp] theorem mask_bndEngine (hM : Allows M [.bnd]) (s : State) (engine : Bool) :
    (s.bndEngine engine).mask M = s.mask M := by
  simp at hM
  simp [State.bndEngine, hM]

@[simp] theorem mask_cmdOpen (hM : Allows M [.free, .regs, .cnt, .bnd, .ledgers]) (s : State) :
    (s.cmdOpen).mask M = s.mask M := by
  simp at hM
  simp [State.cmdOpen, hM]

@[simp] theorem mask_cmdCommit (hM : Allows M [.regs, .cnt, .bnd, .lastFault]) (s : State) :
    (s.cmdCommit).mask M = s.mask M := by
  simp at hM
  simp [State.cmdCommit, hM]

@[simp] theorem mask_cmdAbort (hM : Allows M [.regs, .cnt, .bnd, .lastFault]) (s : State) :
    (s.cmdAbort).mask M = s.mask M := by
  simp at hM
  simp [State.cmdAbort, hM]

@[simp] theorem mask_prepare (hM : Allows M [.bnd, .ledgers]) (s : State) (c p : Nat) :
    (s.prepare c p).mask M = s.mask M := by
  simp at hM
  simp only [State.prepare]
  split <;> simp [hM]

@[simp] theorem mask_ctxReady (hM : Allows M [.bnd]) (s : State) (c p : Nat) :
    (s.ctxReady c p).mask M = s.mask M := by
  simp at hM
  simp [State.ctxReady, hM]

@[simp] theorem mask_pbReadyAt (hM : Allows M [.bnd, .ledgers]) (s : State) (n d : Nat) :
    (s.pbReadyAt n d).mask M = s.mask M := by
  simp at hM
  simp [State.pbReadyAt, hM]

@[simp] theorem mask_windowDrop (hM : Allows M [.out, .free, .regs, .cnt]) (s : State) (p : Nat) (h : Hdr) :
    (s.windowDrop p h).mask M = s.mask M := by
  simp at hM
  simp [State.windowDrop, hM]

@[simp] theorem mask_rxClosing (hM : Allows M [.cnt, .ports, .flows, .ledgers]) (s : State) (p : Nat) (h : Hdr) :
    (s.rxClosing p h).mask M = s.mask M := by
  simp at hM
  simp only [State.rxClosing]
  split <;> simp [hM]

@[simp] theorem mask_rxSequenced (hM : Allows M [.out, .free, .regs, .cnt, .errNotes, .mem, .scrub, .stalls,
    .streams, .stores, .rounds, .breaches, .weights, .red, .ports, .flows, .bnd, .ledgers, .lastFault]) (s : State)
    (p : Nat) (k : Packet) :
    (s.rxSequenced p k).mask M = s.mask M := by
  simp at hM
  simp [State.rxSequenced, hM]

@[simp] theorem mask_actOpen (hM : Allows M [.out, .free, .cnt, .flows]) (s : State) (p f : Nat) :
    (s.actOpen p f).mask M = s.mask M := by
  simp at hM
  simp [State.actOpen, hM]

@[simp] theorem mask_refuse (hM : Allows M [.out, .free, .regs, .cnt]) (s : State) (p : Nat) (h : Hdr)
    (b : OpenBody) (f : Option Nat) (reason : Byte) (us : Word) :
    (s.refuse p h b f reason us).mask M = s.mask M := by
  simp at hM
  simp only [State.refuse]
  split <;> simp [hM]

@[simp] theorem mask_refuseLater (hM : Allows M [.out, .free, .regs, .cnt]) (s : State) (p : Nat) (h : Hdr)
    (b : OpenBody) (f : Option Nat) (reason : Byte) :
    (s.refuseLater p h b f reason).mask M = s.mask M := by
  simp at hM
  rw [State.refuseLater, mask_freeNext (by simp [hM]), mask_refuse (by simp [hM])]

@[simp] theorem mask_acceptOpen (hM : Allows M [.out, .free, .cnt, .flows, .ledgers]) (s : State) (p f : Nat)
    (h : Hdr) (b : OpenBody) :
    (s.acceptOpen p f h b).mask M = s.mask M := by
  simp at hM
  simp [State.acceptOpen, hM]

@[simp] theorem mask_openAnswered (hM : Allows M [.cnt, .flows, .ledgers]) (s : State) (p f : Nat) (b : OpenBody) :
    (s.openAnswered p f b).mask M = s.mask M := by
  simp at hM
  simp [State.openAnswered, hM]

@[simp] theorem mask_requestOpen (hM : Allows M [.out, .free, .regs, .cnt, .flows, .ledgers]) (s : State) (p : Nat)
    (h : Hdr) (b : OpenBody) :
    (s.requestOpen p h b).mask M = s.mask M := by
  simp at hM
  simp only [State.requestOpen]
  repeat' split
  all_goals simp [hM]

@[simp] theorem mask_peerClose (hM : Allows M [.out, .free, .regs, .cnt, .errNotes, .mem, .scrub, .stalls,
    .streams, .stores, .rounds, .breaches, .weights, .ports, .flows, .bnd, .ledgers, .lastFault]) (s : State)
    (p f : Nat) (b : CloseBody) :
    (s.peerClose p f b).mask M = s.mask M := by
  simp at hM
  simp [State.peerClose, hM]

@[simp] theorem mask_takeRefuse (hM : Allows M [.free, .regs, .cnt, .errNotes, .mem, .scrub, .stalls, .streams,
    .stores, .rounds, .breaches, .weights, .ports, .flows, .bnd, .ledgers, .lastFault]) (s : State) (p f : Nat) :
    (s.takeRefuse p f).mask M = s.mask M := by
  simp at hM
  unfold State.takeRefuse
  split <;> simp [hM]

@[simp] theorem mask_nackMissing (hM : Allows M [.out, .free, .cnt, .flows]) (s : State) (p f : Nat) (l : List
    (Word × Word)) :
    (s.nackMissing p f l).mask M = s.mask M := by
  simp at hM
  simp [State.nackMissing, hM]

@[simp] theorem mask_takeNack (hM : Allows M [.out, .free, .regs, .cnt, .errNotes, .mem, .scrub, .stalls, .streams,
    .stores, .rounds, .breaches, .weights, .flows, .bnd, .ledgers, .lastFault]) (s : State) (p f : Nat) (b : NackBody)
    :
    (s.takeNack p f b).mask M = s.mask M := by
  simp at hM
  simp only [State.takeNack]
  repeat' split
  all_goals simp [hM]

@[simp] theorem mask_takeCredit (hM : Allows M [.cnt, .ports, .flows, .ledgers]) (s : State) (p f : Nat)
    (limit : DWord) :
    (s.takeCredit p f limit).mask M = s.mask M := by
  simp at hM
  simp [State.takeCredit, hM]

@[simp] theorem mask_rxV0 (hM : Allows M [.out, .free, .regs, .cnt, .errNotes, .mem, .scrub, .stalls, .streams,
    .stores, .rounds, .breaches, .weights, .red, .ports, .flows, .bnd, .ledgers, .lastFault]) (s : State) (p : Nat)
    (k : Packet) :
    (s.rxV0 p k).mask M = s.mask M := by
  simp at hM
  simp only [State.rxV0]
  split <;> simp [hM]

@[simp] theorem mask_receive (hM : Allows M [.out, .free, .regs, .cnt, .errNotes, .mem, .scrub, .stalls, .streams,
    .stores, .rounds, .breaches, .weights, .red, .ports, .flows, .bnd, .ledgers, .lastFault]) (s : State) (p : Nat)
    (k : Packet) :
    (s.receive p k).mask M = s.mask M := by
  simp at hM
  simp only [State.receive]
  split <;> simp [hM]

@[simp] theorem mask_flowLost (hM : Allows M [.out, .free, .regs, .cnt, .errNotes, .mem, .scrub, .stalls, .streams,
    .stores, .rounds, .breaches, .weights, .ports, .flows, .bnd, .ledgers, .lastFault]) (s : State) (p f : Nat) :
    (s.flowLost p f).mask M = s.mask M := by
  simp at hM
  simp only [State.flowLost]
  split <;> simp [hM]

@[simp] theorem mask_purge (hM : Allows M [.free, .regs, .cnt, .stalls, .streams, .stores, .rounds, .breaches,
    .red, .ports, .flows, .ledgers]) (s : State) (p f : Nat) :
    (s.purge p f).mask M = s.mask M := by
  simp at hM
  simp [State.purge, hM]

@[simp] theorem mask_purgeSel (hM : Allows M [.free, .regs, .cnt, .stalls, .streams, .stores, .rounds, .breaches,
    .red, .ports, .flows, .ledgers]) (s : State) :
    (s.purgeSel).mask M = s.mask M := by
  simp at hM
  simp [State.purgeSel, hM]

@[simp] theorem mask_logEvent (hM : Allows M [.free, .cnt, .talk]) (s : State) (code page : Nat) :
    (s.logEvent code page).mask M = s.mask M := by
  simp at hM
  simp [State.logEvent, State.mask, HostIf.mask, Rounds.mask, Prog.mask, Weights.mask,
    Pwr.mask, Keeper.mask, Sec.mask, Meter.mask, Pins.mask, blank, hM]

@[simp] theorem mask_logOther (hM : Allows M [.free, .cnt, .talk]) (s : State) (page : Nat) :
    (s.logOther page).mask M = s.mask M := by
  simp at hM
  simp [State.logOther, hM]

@[simp] theorem mask_pwrCheck (hM : Allows M [.pwrOk]) (s : State) :
    (s.pwrCheck).mask M = s.mask M := by
  simp at hM
  simp [State.pwrCheck, State.mask, HostIf.mask, Rounds.mask, Prog.mask, Weights.mask,
    Pwr.mask, Keeper.mask, Sec.mask, Meter.mask, Pins.mask, blank, hM]

@[simp] theorem mask_refuseImage (hM : Allows M [.free, .regs, .cnt, .bnd, .lastFault, .talk]) (s : State) :
    (s.refuseImage).mask M = s.mask M := by
  simp at hM
  simp [State.refuseImage, hM]

@[simp] theorem mask_keeperAccept (hM : Allows M [.out]) (s : State) :
    (s.keeperAccept).mask M = s.mask M := by
  simp at hM
  simp [State.keeperAccept, hM]

@[simp] theorem mask_mbStart (hM : Allows M [.regs, .talk]) (s : State) (op : Byte) (index : BitVec 16) :
    (s.mbStart op index).mask M = s.mask M := by
  simp at hM
  simp only [State.mbStart]
  split
  · rfl
  · rw [mask_with_keeper (by simp [Keeper.mask, blank, hM])]
    simp [hM]

@[simp] theorem mask_mbRespond (hM : Allows M [.regs]) (s : State) (l : List Byte) :
    (s.mbRespond l).mask M = s.mask M := by
  simp at hM
  simp [State.mbRespond, hM]

@[simp] theorem mask_quote (hM : Allows M [.out, .cnt]) (s : State) (code : Byte) (data nonce : List Byte) :
    (s.quote code data nonce).mask M = s.mask M := by
  simp at hM
  simp [State.quote, hM]

@[simp] theorem mask_scrubWord (hM : Allows M [.regs, .cnt, .errNotes, .mem, .scrub, .bnd, .lastFault]) (s : State)
    (d w : Nat) :
    (s.scrubWord d w).mask M = s.mask M := by
  simp at hM
  simp [State.scrubWord, hM]

@[simp] theorem mask_walkDram (hM : Allows M [.regs, .cnt, .errNotes, .mem, .scrub, .bnd, .lastFault]) (s : State)
    (d : Nat) :
    (s.walkDram d).mask M = s.mask M := by
  simp at hM
  simp [State.walkDram, hM]

@[simp] theorem mask_walkSram (hM : Allows M [.regs, .cnt, .errNotes, .mem, .scrub, .bnd, .lastFault]) (s : State)
    (d : Nat) :
    (s.walkSram d).mask M = s.mask M := by
  simp at hM
  simp only [State.walkSram]
  split <;> simp [hM]

@[simp] theorem mask_burstEnd (hM : Allows M [.regs, .cnt, .scrub]) (s : State) (d : Nat) :
    (s.burstEnd d).mask M = s.mask M := by
  simp at hM
  simp [State.burstEnd, hM]

@[simp] theorem mask_walkBurst (hM : Allows M [.regs, .cnt, .errNotes, .mem, .scrub, .bnd, .lastFault]) (s : State)
    (d : Nat) (b : Nat × Nat × Nat) :
    (s.walkBurst d b).mask M = s.mask M := by
  simp at hM
  simp only [State.walkBurst]
  repeat' split
  all_goals simp [hM]

@[simp] theorem mask_scrubNow (hM : Allows M [.regs, .scrub]) (s : State) (d : Nat) :
    (s.scrubNow d).mask M = s.mask M := by
  simp at hM
  simp [State.scrubNow, hM]

@[simp] theorem mask_aperMiss (hM : Allows M [.regs]) (s : State) :
    (s.aperMiss).mask M = s.mask M := by
  simp at hM
  simp [State.aperMiss, hM]

@[simp] theorem mask_aperStore (hM : Allows M [.regs, .cnt, .errNotes, .mem, .scrub, .bnd, .lastFault]) (s : State)
    (a : Nat) (l : List Byte) :
    (s.aperStore a l).mask M = s.mask M := by
  simp at hM
  unfold State.aperStore
  refine mask_foldl (fun t w => ?_) _ _
  split <;> simp [hM]

@[simp] theorem mask_holdGroup (hM : Allows M [.wales]) (s : State) (w : Nat) (ba : Bool) (g : Nat) (b : Bool) :
    (s.holdGroup w ba g b).mask M = s.mask M := by
  simp at hM
  simp [State.holdGroup, hM]

@[simp] theorem mask_lastLane (hM : Allows M [.regs]) (s : State) (w action : Nat) (ba : Bool) (g lane : Nat) :
    (s.lastLane w action ba g lane).mask M = s.mask M := by
  simp at hM
  simp [State.lastLane, hM]

@[simp] theorem mask_setLane (hM : Allows M [.wales]) (s : State) (k n : Nat) :
    (s.setLane k n).mask M = s.mask M := by
  simp at hM
  simp [State.setLane, State.mask, HostIf.mask, Rounds.mask, Prog.mask, Weights.mask,
    Pwr.mask, Keeper.mask, Sec.mask, Meter.mask, Pins.mask, blank, hM]

@[simp] theorem mask_retireLane (hM : Allows M [.regs, .cnt, .assume, .bnd, .wales, .lastFault, .repairs])
    (s : State) (w : Nat) (ba : Bool) (g lane : Nat) :
    (s.retireLane w ba g lane).mask M = s.mask M := by
  simp at hM
  simp [State.retireLane, hM]

@[simp] theorem mask_stepDown (hM : Allows M [.cnt, .pwr]) (s : State) :
    (s.stepDown).mask M = s.mask M := by
  simp at hM
  simp [State.stepDown, Pwr.mask, blank, hM]

@[simp] theorem mask_stepUp (hM : Allows M [.cnt, .pwr]) (s : State) :
    (s.stepUp).mask M = s.mask M := by
  simp at hM
  simp [State.stepUp, Pwr.mask, blank, hM]

@[simp] theorem mask_catchupEnd (hM : Allows M [.free, .regs, .cnt, .pwr]) (s : State) (n t : Nat) :
    (s.catchupEnd n t).mask M = s.mask M := by
  simp at hM
  simp only [State.catchupEnd]
  rw [mask_freeNext (by simp [hM]), mask_with_pwr (by simp [Pwr.mask, blank, hM])]
  simp [hM]

@[simp] theorem mask_catchup (hM : Allows M [.free, .regs, .cnt, .bnd, .pwr, .lastFault]) (s : State) (w c : Nat) :
    (s.catchup w c).mask M = s.mask M := by
  simp at hM
  simp only [State.catchup]
  split
  · simp [Pwr.mask, blank, hM]
  · split <;> simp [hM]

@[simp] theorem mask_energy (hM : Allows M [.cnt, .pwr]) (s : State) (w : Nat) :
    (s.energy w).mask M = s.mask M := by
  simp at hM
  simp [State.energy, State.mask, HostIf.mask, Rounds.mask, Prog.mask, Weights.mask,
    Pwr.mask, Keeper.mask, Sec.mask, Meter.mask, Pins.mask, blank, hM]

@[simp] theorem mask_control (hM : Allows M [.cnt, .pwr]) (s : State) (w c : Nat) :
    (s.control w c).mask M = s.mask M := by
  simp at hM
  simp [State.control, Pwr.mask, blank, hM]

@[simp] theorem mask_divideGroup (hM : Allows M [.quarters, .pwr]) (s : State) (j : Nat) (b : Bool) :
    (s.divideGroup j b).mask M = s.mask M := by
  simp at hM
  simp [State.divideGroup, Pwr.mask, blank, hM]

@[simp] theorem mask_noReport (hM : Allows M [.regs, .cnt, .bnd, .lastFault, .meter]) (s : State) :
    (s.noReport).mask M = s.mask M := by
  simp at hM
  simp only [State.noReport]
  split
  · rfl
  · next r _ =>
    have hclose (m : Meter) (hm : m.tally = s.meter.tally) : ({ s with meter := m } : State).mask M = s.mask M :=
      mask_with_meter (Meter.mask_eq_of_tally (by simp [hM]) hm)
    simp [hclose, Meter.close, hM]

@[simp] theorem mask_windowClose (hM : Allows M [.out, .free, .regs, .cnt, .bnd, .lastFault, .meter]) (s : State)
    (full : Bool) (flags : BitVec 16) :
    (s.windowClose full flags).mask M = s.mask M := by
  simp at hM
  have hnext (t : State) (m : Meter) (n : Nat) (ht : m.tally = t.meter.tally) :
      ({ t with meter := m, free := n } : State).mask M = t.mask M := by
    simp [State.mask, blank, hM, Meter.mask_eq_of_tally (M := M) (by simp [hM]) ht]
  simp [State.windowClose, hnext, Meter.nextWindow, hM]

@[simp] theorem mask_mirrorRecord (hM : Allows M [.regs, .cnt]) (s : State) (r : Record) :
    (s.mirrorRecord r).mask M = s.mask M := by
  simp at hM
  simp [State.mirrorRecord, hM]

@[simp] theorem mask_sendChunk (hM : Allows M [.regs, .red, .flows]) (s : State) (d b : Nat) :
    (s.sendChunk d b).mask M = s.mask M := by
  simp at hM
  simp only [State.sendChunk]
  split <;> simp [hM]

@[simp] theorem mask_startChunk (hM : Allows M [.regs, .red, .flows]) (s : State) (d k b : Nat) (c : Nat × Nat) :
    (s.startChunk d k b c).mask M = s.mask M := by
  simp at hM
  unfold State.startChunk
  split <;> simp [hM]

@[simp] theorem mask_chunkArrives (hM : Allows M [.ledgers]) (s : State) (d k : Nat) :
    (s.chunkArrives d k).mask M = s.mask M := by
  simp at hM
  simp [State.chunkArrives, hM]

@[simp] theorem mask_levelDone (hM : Allows M [.regs, .cnt, .stores, .red, .ledgers]) (s : State) (d k : Nat)
    (c : Nat × Nat) :
    (s.levelDone d k c).mask M = s.mask M := by
  simp at hM
  unfold State.levelDone
  split <;> simp [hM]

@[simp] theorem mask_endLevel (hM : Allows M [.regs, .cnt, .stores, .red, .ledgers]) (s : State) (d k : Nat)
    (c : Nat × Nat) :
    (s.endLevel d k c).mask M = s.mask M := by
  simp at hM
  simp [State.endLevel, hM]

@[simp] theorem mask_passIssue (hM : Allows M [.regs, .stalls]) (s : State) (d p : Nat) (w : PassWord) :
    (s.passIssue d p w).mask M = s.mask M := by
  simp at hM
  simp [State.passIssue, hM]

@[simp] theorem mask_closeShared
    (hM : Allows M [.regs, .cnt, .errNotes, .mem, .scrub, .stalls, .arcs, .bnd, .lastFault, .tally]) (s : State)
    (d q a : Nat) (b : Fin 2) :
    (s.closeShared d q a b).mask M = s.mask M := by
  simp at hM
  simp [State.closeShared, hM]

@[simp] theorem mask_drainGo (hM : Allows M [.regs, .cnt, .errNotes, .mem, .scrub, .stalls, .bnd, .lastFault])
    (s : State) (d p : Nat) (c : ChainCfg) (j : DrainJob) (r : List DrainJob) :
    (s.drainGo d p c j r).mask M = s.mask M := by
  simp at hM
  simp [State.drainGo, hM]

@[simp] theorem mask_drainOut
    (hM : Allows M [.free, .regs, .cnt, .errNotes, .mem, .scrub, .stalls, .bnd, .lastFault]) (s : State) (d p : Nat)
    (c : ChainCfg) (j : DrainJob) (r : List DrainJob) :
    (s.drainOut d p c j r).mask M = s.mask M := by
  simp at hM
  simp [State.drainOut, hM]

@[simp] theorem mask_noteSource (hM : Allows M [.regs, .cnt, .errNotes, .mem, .scrub, .bnd, .lastFault])
    (s : State) (a n : Nat) :
    (s.noteSource a n).mask M = s.mask M := by
  simp at hM
  unfold State.noteSource
  split <;> simp [hM]

@[simp] theorem mask_holdAt' (hM : Allows M [.regs, .stores, .ledgers]) (s : State) (a n : Nat) :
    (s.holdAt' a n).mask M = s.mask M := by
  simp at hM
  unfold State.holdAt'
  split <;> simp [hM]

@[simp] theorem mask_queueOut (hM : Allows M [.flows]) (s : State) (d st t : Nat) (ws : List MWord) :
    (s.queueOut d st t ws).mask M = s.mask M := by
  simp at hM
  unfold State.queueOut
  split <;> simp [hM]

@[simp] theorem mask_issueRound
    (hM : Allows M [.regs, .cnt, .errNotes, .mem, .scrub, .streams, .stores, .bnd, .ledgers, .lastFault]) (s : State)
    (d st : Nat) (t : Transit) :
    (s.issueRound d st t).mask M = s.mask M := by
  simp at hM
  simp [State.issueRound, hM]

@[simp] theorem mask_issueByRole (hM : Allows M [.regs, .cnt, .errNotes, .mem, .scrub, .stalls, .streams, .stores,
    .rounds, .breaches, .weights, .flows, .bnd, .ledgers, .lastFault]) (s : State) (d u st : Nat) :
    (s.issueByRole d u st).mask M = s.mask M := by
  simp at hM
  simp only [State.issueByRole]
  repeat' split
  all_goals simp [hM]

@[simp] theorem mask_passTurn (hM : Allows M [.stores]) (s : State) (d u st : Nat) :
    (s.passTurn d u st).mask M = s.mask M := by
  simp at hM
  simp [State.passTurn, State.mask, HostIf.mask, Rounds.mask, Prog.mask, Weights.mask,
    Pwr.mask, Keeper.mask, Sec.mask, Meter.mask, Pins.mask, blank, hM]

@[simp] theorem mask_finishXfer
    (hM : Allows M [.regs, .cnt, .mem, .stalls, .streams, .stores, .rounds, .breaches, .ledgers]) (s : State)
    (d u st : Nat) (x : Xfer) :
    (s.finishXfer d u st x).mask M = s.mask M := by
  simp at hM
  simp only [State.finishXfer]
  repeat' split
  all_goals simp [hM]

@[simp] theorem mask_finishRound
    (hM : Allows M [.free, .cnt, .mem, .stalls, .streams, .stores, .rounds, .breaches, .ledgers]) (s : State)
    (d st : Nat) (it : Transit) (x : Xfer) :
    (s.finishRound d st it x).mask M = s.mask M := by
  simp at hM
  simp [State.finishRound, hM]

@[simp] theorem mask_postArrive (hM : Allows M [.cnt, .stalls, .streams, .stores, .rounds, .breaches]) (s : State)
    (d c : Nat) :
    (s.postArrive d c).mask M = s.mask M := by
  simp at hM
  simp [State.postArrive, hM]

@[simp] theorem mask_forwardItem (hM : Allows M [.streams, .rounds]) (s : State) (d c : Nat) :
    (s.forwardItem d c).mask M = s.mask M := by
  simp at hM
  simp only [State.forwardItem]
  rw [mask_with_rounds (by simp [Rounds.mask, blank, hM])]
  simp [hM]

@[simp] theorem mask_tagItem (hM : Allows M [.weights]) (s : State) (t : Transit) :
    (s.tagItem t).mask M = s.mask M := by
  simp at hM
  simp [State.tagItem, Weights.mask, blank, hM]

end Sys2Proof.Machine
end

section
/-! SUPPORT. What each command may change, from what its operations may change. -/

namespace Sys2Proof.Machine

variable {M : Part → Bool}

/-- An answer that changes at most the parts that `M` lists. -/
def Only (M : Part → Bool) (s : State) (o : Host.Outcome State Fault Refusal) : Prop :=
  ∀ t, o = .next t → t.mask M = s.mask M

@[simp] theorem only_next (s t : State) : Only M s (.next t) ↔ t.mask M = s.mask M := by simp [Only]

@[simp] theorem only_ok (hM : Allows M [.changes]) (s u t : State) : Only M s (u.ok t) ↔ t.mask M = s.mask M := by
  simp at hM
  simp [State.ok, hM]

@[simp] theorem only_ite (c : Prop) [Decidable c] (s : State) (o r : Host.Outcome State Fault Refusal) :
    Only M s (if c then o else r) ↔ if c then Only M s o else Only M s r := by
  split <;> rfl

@[simp] theorem mask_meshServe (hM : Allows M [.free, .stores]) (s : State) (d i n : Nat) :
    (s.meshServe d i n).1.mask M = s.mask M := by
  simp at hM
  unfold State.meshServe
  simp only
  split
  · split <;> simp [State.mask, blank, hM]
  · simp [hM]

theorem only_execPassRunEnd (hM : Allows M [.changes, .stalls]) (d : Die) (l : Stl) (t : Fin 2) (s : State) :
    Only M s (execPassRunEnd d l t s) := by
  simp at hM
  simp only [execPassRunEnd]
  repeat' split
  all_goals simp [hM]

theorem only_execWritebackStart (hM : Allows M [.changes, .stalls]) (d : Die) (l : Stl) (t : Fin 2) (s : State) :
    Only M s (execWritebackStart d l t s) := by
  simp at hM
  unfold execWritebackStart
  split <;> simp [hM]

theorem only_execStyWindowExpiry (hM : Allows M [.changes, .stalls]) (d : Die) (l : Stl) (s : State) :
    Only M s (execStyWindowExpiry d l s) := by
  simp at hM
  unfold execStyWindowExpiry
  split <;> simp [hM]

theorem only_execTileWindowOpen (hM : Allows M [.free, .cnt, .changes, .stalls, .arcs, .tally]) (d : Die)
    (q a : Qtr) (b : Fin 2) (priv : Option (Fin 4)) (s : State) :
    Only M s (execTileWindowOpen d q a b priv s) := by
  simp at hM
  simp only [execTileWindowOpen]
  repeat' split
  all_goals simp [hM]

theorem only_execDutyHoldExpiry (hM : Allows M [.changes, .stalls]) (d : Die) (l : Stl) (s : State) :
    Only M s (execDutyHoldExpiry d l s) := by
  simp at hM
  unfold execDutyHoldExpiry
  split <;> simp [hM]

theorem only_execDutyStepDown (hM : Allows M [.free, .cnt, .changes, .stalls, .tally]) (d : Die) (l : Stl)
    (s : State) :
    Only M s (execDutyStepDown d l s) := by
  simp at hM
  unfold execDutyStepDown
  split <;> simp [hM]

theorem only_execDutyStepUp (hM : Allows M [.free, .cnt, .changes, .stalls, .tally]) (d : Die) (l : Stl) (s : State) :
    Only M s (execDutyStepUp d l s) := by
  simp at hM
  unfold execDutyStepUp
  split <;> simp [hM]

theorem only_execPass
    (hM : Allows M [.regs, .cnt, .changes, .errNotes, .mem, .scrub, .stalls, .bnd, .lastFault, .tally]) (d : Die)
    (l : Stl) (w : PassWord) (s : State) :
    Only M s (execPass d l w s) := by
  simp at hM
  unfold execPass
  split <;> simp [hM]

theorem only_execDrain
    (hM : Allows M [.regs, .cnt, .changes, .errNotes, .mem, .scrub, .stalls, .bnd, .lastFault, .tally]) (d : Die)
    (l : Stl) (w : DrainWord) (s : State) :
    Only M s (execDrain d l w s) := by
  simp at hM
  unfold execDrain
  split <;> simp [hM]

theorem only_execLoadw
    (hM : Allows M [.regs, .cnt, .changes, .errNotes, .mem, .scrub, .stalls, .bnd, .lastFault, .tally]) (d : Die)
    (l : Stl) (w : LoadwWord) (s : State) :
    Only M s (execLoadw d l w s) := by
  simp at hM
  unfold execLoadw
  split <;> simp [hM]

theorem only_execBundleOpen
    (hM : Allows M [.regs, .cnt, .changes, .errNotes, .mem, .scrub, .stalls, .bnd, .lastFault]) (d : Die) (l : Stl)
    (n : Fin 4096) (s : State) :
    Only M s (execBundleOpen d l n s) := by
  simp at hM
  unfold execBundleOpen
  split <;> simp [hM]

theorem only_execBallast
    (hM : Allows M [.regs, .cnt, .changes, .errNotes, .mem, .scrub, .stalls, .bnd, .lastFault, .tally]) (d : Die)
    (l : Stl) (cycles : Word) (s : State) :
    Only M s (execBallast d l cycles s) := by
  simp at hM
  unfold execBallast
  split <;> simp [hM]

theorem only_execHalt (hM : Allows M [.regs, .cnt, .changes, .errNotes, .mem, .scrub, .stalls, .bnd, .lastFault])
    (d : Die) (l : Stl) (restart : Bool) (s : State) :
    Only M s (execHalt d l restart s) := by
  simp at hM
  unfold execHalt
  split <;> simp [hM]

theorem only_execPreloadDone
    (hM : Allows M [.regs, .cnt, .changes, .errNotes, .mem, .scrub, .stalls, .bnd, .lastFault]) (d : Die) (l : Stl)
    (t : Fin 2) (s : State) :
    Only M s (execPreloadDone d l t s) := by
  simp at hM
  simp only [execPreloadDone]
  repeat' split
  all_goals simp [hM]

theorem only_execWritebackDone (hM : Allows M [.free, .regs, .cnt, .changes, .mem, .stalls]) (d : Die) (l : Stl)
    (t : Fin 2) (s : State) :
    Only M s (execWritebackDone d l t s) := by
  simp at hM
  simp only [execWritebackDone]
  repeat' split
  all_goals simp [hM]

theorem only_execDrainStart
    (hM : Allows M [.regs, .cnt, .changes, .errNotes, .mem, .scrub, .stalls, .bnd, .lastFault]) (d : Die) (l : Stl)
    (s : State) :
    Only M s (execDrainStart d l s) := by
  simp at hM
  unfold execDrainStart
  repeat' split
  all_goals simp [hM]

theorem only_execDrainDone
    (hM : Allows M [.free, .regs, .cnt, .changes, .errNotes, .mem, .scrub, .stalls, .bnd, .lastFault]) (d : Die)
    (l : Stl) (s : State) :
    Only M s (execDrainDone d l s) := by
  simp at hM
  simp only [execDrainDone]
  repeat' split
  all_goals simp [hM]

theorem only_execPrivateRecordLoaded
    (hM : Allows M [.regs, .cnt, .changes, .errNotes, .mem, .scrub, .stalls, .arcs, .bnd, .lastFault]) (d : Die)
    (l : Stl) (b : Fin 2) (s : State) :
    Only M s (execPrivateRecordLoaded d l b s) := by
  simp at hM
  simp only [execPrivateRecordLoaded]
  repeat' split
  all_goals simp [hM]

theorem only_execTileWindowClose
    (hM : Allows M [.regs, .cnt, .changes, .errNotes, .mem, .scrub, .stalls, .arcs, .bnd, .lastFault, .tally])
    (d : Die) (q a : Qtr) (b : Fin 2) (priv : Option (Fin 4)) (s : State) :
    Only M s (execTileWindowClose d q a b priv s) := by
  simp at hM
  unfold execTileWindowClose
  repeat' split
  all_goals simp [hM]

theorem only_execTransferIssue (hM : Allows M [.regs, .cnt, .changes, .errNotes, .mem, .scrub, .stalls, .streams,
    .stores, .rounds, .breaches, .weights, .flows, .bnd, .ledgers, .lastFault]) (d : Die) (u : Fin 73) (st : Fin 256)
    (s : State) :
    Only M s (execTransferIssue d u st s) := by
  simp at hM
  simp [execTransferIssue, hM]

theorem only_execTransferComplete
    (hM : Allows M [.free, .regs, .cnt, .changes, .mem, .stalls, .streams, .stores, .rounds, .breaches, .ledgers])
    (d : Die) (u : Fin 73) (st : Fin 256) (t : Nat) (s : State) :
    Only M s (execTransferComplete d u st t s) := by
  simp at hM
  simp only [execTransferComplete]
  repeat' split
  all_goals simp [hM]

theorem only_execRoundItemTake
    (hM : Allows M [.regs, .cnt, .changes, .stalls, .streams, .stores, .rounds, .breaches, .weights, .ledgers])
    (d : Die) (c : Qtr) (s : State) :
    Only M s (execRoundItemTake d c s) := by
  simp at hM
  simp [execRoundItemTake, hM]

theorem only_execRoundItemArrival
    (hM : Allows M [.regs, .cnt, .changes, .stalls, .streams, .stores, .rounds, .breaches, .weights, .ledgers])
    (d : Die) (c : Qtr) (s : State) :
    Only M s (execRoundItemArrival d c s) := by
  simp at hM
  simp only [execRoundItemArrival]
  split
  · simp
  · simp [Rounds.mask, blank, hM]

theorem only_execRoundItemForward (hM : Allows M [.changes, .streams, .rounds]) (d : Die) (c : Qtr) (s : State) :
    Only M s (execRoundItemForward d c s) := by
  simp at hM
  simp [execRoundItemForward, hM]

theorem only_execRoundRelease
    (hM : Allows M [.regs, .changes, .stalls, .streams, .stores, .rounds, .weights, .ledgers]) (d : Die) (c : Qtr)
    (s : State) :
    Only M s (execRoundRelease d c s) := by
  simp at hM
  simp [execRoundRelease, hM]

theorem only_execRoundCredit (hM : Allows M [.changes, .rounds, .ledgers]) (d : Die) (c : Qtr) (s : State) :
    Only M s (execRoundCredit d c s) := by
  simp at hM
  simp only [execRoundCredit]
  split <;> simp [hM]

theorem only_execMeterSample (hM : Allows M [.changes, .meter]) (mv _da : BitVec 16) (mj : Nat) (s : State) :
    Only M s (execMeterSample mv _da mj s) := by
  simp at hM
  simp [execMeterSample, Meter.mask, blank, hM]

theorem only_execMeterWindowEnd (hM : Allows M [.out, .free, .regs, .cnt, .changes, .bnd, .lastFault, .meter])
    (s : State) :
    Only M s (execMeterWindowEnd s) := by
  simp at hM
  simp [execMeterWindowEnd, hM]

theorem only_execSnap (hM : Allows M [.out, .free, .regs, .cnt, .changes, .tally, .meter]) (s : State) :
    Only M s (execSnap s) := by
  simp at hM
  have hmask (t : State) (m : Meter) : ({ t with meter := m } : State).mask M = t.mask M := by
    simp [State.mask, Meter.mask, blank, hM]
  simp [execSnap, hmask, hM]

theorem only_execWorkReport (hM : Allows M [.changes, .tally, .meter]) (r : WorkReport) (s : State) :
    Only M s (execWorkReport r s) := by
  simp at hM
  have hmask (t : State) (m : Meter) : ({ t with meter := m } : State).mask M = t.mask M := by
    simp [State.mask, Meter.mask, blank, hM]
  simp only [execWorkReport]
  split <;> simp [hmask, hM]

theorem only_execReportTimeout (hM : Allows M [.regs, .cnt, .changes, .bnd, .lastFault, .meter]) (s : State) :
    Only M s (execReportTimeout s) := by
  simp at hM
  simp [execReportTimeout, hM]

theorem only_execEarlyClose (hM : Allows M [.out, .free, .regs, .cnt, .changes, .bnd, .lastFault, .meter])
    (s : State) :
    Only M s (execEarlyClose s) := by
  simp at hM
  simp [execEarlyClose, hM]

theorem only_execFinal (hM : Allows M [.free, .regs, .cnt, .changes, .bnd, .lastFault, .meter]) (s : State) :
    Only M s (execFinal s) := by
  simp at hM
  have hnext (t : State) (m : Meter) (n : Nat) (ht : m.tally = t.meter.tally) :
      ({ t with meter := m, free := n } : State).mask M = t.mask M := by
    simp [State.mask, blank, hM, Meter.mask_eq_of_tally (M := M) (by simp [hM]) ht]
  simp only [execFinal]
  split
  · simp
  · simp [hnext, Meter.close, Meter.nextWindow, hM]

theorem only_execFinalTimeout (hM : Allows M [.free, .regs, .cnt, .changes, .bnd, .lastFault, .meter]) (s : State) :
    Only M s (execFinalTimeout s) := by
  simp at hM
  have hnext (t : State) (m : Meter) (n : Nat) (ht : m.tally = t.meter.tally) :
      ({ t with meter := m, free := n } : State).mask M = t.mask M := by
    simp [State.mask, blank, hM, Meter.mask_eq_of_tally (M := M) (by simp [hM]) ht]
  simp [execFinalTimeout, hnext, Meter.close, Meter.nextWindow, hM]

theorem only_execRecordStored (hM : Allows M [.regs, .cnt, .changes, .meter]) (s : State) :
    Only M s (execRecordStored s) := by
  simp at hM
  simp only [execRecordStored]
  split
  · simp
  · simp [Meter.mask, blank, hM]

theorem only_execSetInterval (hM : Allows M [.out, .free, .regs, .cnt, .changes, .bnd, .lastFault, .meter])
    (secs : BitVec 16) (s : State) :
    Only M s (execSetInterval secs s) := by
  simp at hM
  have hmask (t : State) (m : Meter) (ht : m.tally = t.meter.tally) : ({ t with meter := m } : State).mask M = t.mask M :=
    mask_with_meter (Meter.mask_eq_of_tally (by simp [hM]) ht)
  simp [execSetInterval, hmask, hM]

theorem only_execReadStatus (hM : Allows M [.out, .changes]) (s : State) :
    Only M s (execReadStatus s) := by
  simp at hM
  simp [execReadStatus, hM]

theorem only_execReadRecord (hM : Allows M [.out, .changes]) (seq : DWord) (s : State) :
    Only M s (execReadRecord seq s) := by
  simp at hM
  unfold execReadRecord
  split <;> simp [hM]

theorem only_execReadCert (hM : Allows M [.out, .changes]) (index : Byte) (s : State) :
    Only M s (execReadCert index s) := by
  simp at hM
  simp [execReadCert, hM]

theorem only_execUpdateFw (hM : Allows M [.out, .changes, .meter]) (img : FwImage) (s : State) :
    Only M s (execUpdateFw img s) := by
  simp at hM
  simp [execUpdateFw, Meter.mask, blank, hM]

theorem only_execGaSample (hM : Allows M [.free, .cnt, .changes, .talk]) (ga : BitVec 6) (s : State) :
    Only M s (execGaSample ga s) := by
  simp at hM
  simp [execGaSample, Keeper.mask, blank, hM]

theorem only_execCap (hM : Allows M [.out, .changes, .keeperCap, .talk]) (w : BitVec 16) (s : State) :
    Only M s (execCap w s) := by
  simp at hM
  simp only [execCap]
  split
  · simp
  · split <;> simp [Keeper.mask, Pwr.mask, blank, hM]

theorem only_execIdentify (hM : Allows M [.out, .changes, .idLed]) (secs : Byte) (s : State) :
    Only M s (execIdentify secs s) := by
  simp at hM
  simp [execIdentify, Pins.mask, blank, hM]

theorem only_execIdentifyIndicatorExpiry (hM : Allows M [.changes, .idLed]) (s : State) :
    Only M s (execIdentifyIndicatorExpiry s) := by
  simp at hM
  simp [execIdentifyIndicatorExpiry, Pins.mask, blank, hM]

theorem only_execAdoptTimeExpiry (hM : Allows M [.changes, .talk]) (s : State) :
    Only M s (execAdoptTimeExpiry s) := by
  simp at hM
  simp [execAdoptTimeExpiry, Keeper.mask, blank, hM]

theorem only_execPortMoveClear (hM : Allows M [.changes, .talk]) (p : Die) (s : State) :
    Only M s (execPortMoveClear p s) := by
  simp at hM
  simp [execPortMoveClear, Keeper.mask, blank, hM]

theorem only_execHealthRecordRequest (hM : Allows M [.out, .changes]) (s : State) :
    Only M s (execHealthRecordRequest s) := by
  simp at hM
  simp [execHealthRecordRequest, hM]

theorem only_execReadHealth (hM : Allows M [.regs, .changes, .talk]) (s : State) :
    Only M s (execReadHealth s) := by
  simp at hM
  simp [execReadHealth, hM]

theorem only_execMailboxIdentify (hM : Allows M [.regs, .changes, .talk]) (s : State) :
    Only M s (execMailboxIdentify s) := by
  simp at hM
  simp [execMailboxIdentify, hM]

theorem only_execReadLog (hM : Allows M [.regs, .changes, .talk]) (index : BitVec 16) (s : State) :
    Only M s (execReadLog index s) := by
  simp at hM
  simp [execReadLog, hM]

theorem only_execReadRepair (hM : Allows M [.regs, .changes, .talk]) (index : BitVec 16) (s : State) :
    Only M s (execReadRepair index s) := by
  simp at hM
  simp [execReadRepair, hM]

theorem only_execMailboxDone (hM : Allows M [.free, .regs, .cnt, .changes, .talk]) (s : State) :
    Only M s (execMailboxDone s) := by
  simp at hM
  have hbusy : ({ s with keeper := { s.keeper with mbBusy := false } } : State).mask M = s.mask M := by
    simp [Keeper.mask, blank, hM]
  simp only [execMailboxDone]
  split
  · simp
  · split
    · rw [only_ok (by simp [hM]), mask_with_free (by simp [hM])]
      simp [hbusy, hM]
    · simp [hbusy, hM]

theorem only_execPldmFwUpdate (hM : Allows M [.out, .free, .regs, .cnt, .changes, .bnd, .lastFault, .talk])
    (ucode : Bool) (img : FwImage) (s : State) :
    Only M s (execPldmFwUpdate ucode img s) := by
  simp at hM
  simp [execPldmFwUpdate, Keeper.mask, blank, hM]

theorem only_execActivateFirmware (hM : Allows M [.out, .changes, .talk]) (s : State) :
    Only M s (execActivateFirmware s) := by
  simp at hM
  simp [execActivateFirmware, Keeper.mask, blank, hM]

theorem only_execGetSensorReading (hM : Allows M [.out, .changes]) (sensor : Fin 7) (s : State) :
    Only M s (execGetSensorReading sensor s) := by
  simp at hM
  simp [execGetSensorReading, hM]

theorem only_execGetVersion (hM : Allows M [.out, .changes]) (s : State) :
    Only M s (execGetVersion s) := by
  simp at hM
  simp [execGetVersion, hM]

theorem only_execGetCapabilities (hM : Allows M [.out, .free, .changes]) (s : State) :
    Only M s (execGetCapabilities s) := by
  simp at hM
  simp [execGetCapabilities, hM]

theorem only_execNegotiateAlgorithms (hM : Allows M [.out, .free, .changes]) (s : State) :
    Only M s (execNegotiateAlgorithms s) := by
  simp at hM
  simp [execNegotiateAlgorithms, hM]

theorem only_execGetDigests (hM : Allows M [.out, .changes]) (s : State) :
    Only M s (execGetDigests s) := by
  simp at hM
  simp [execGetDigests, hM]

theorem only_execGetCertificate (hM : Allows M [.out, .changes]) (slot : Byte) (s : State) :
    Only M s (execGetCertificate slot s) := by
  simp at hM
  simp [execGetCertificate, hM]

theorem only_execChallenge (hM : Allows M [.out, .cnt, .changes]) (nonce : List Byte) (s : State) :
    Only M s (execChallenge nonce s) := by
  simp at hM
  simp [execChallenge, hM]

theorem only_execGetMeasurements (hM : Allows M [.out, .cnt, .changes]) (index : Byte) (nonce : List Byte)
    (s : State) :
    Only M s (execGetMeasurements index nonce s) := by
  simp at hM
  simp [execGetMeasurements, hM]

theorem only_execKeyRequest (hM : Allows M [.out, .changes, .offers]) (nonce : List Byte) (keyId : BitVec 16)
    (slot : Fin 16) (mask : DWord) (s : State) :
    Only M s (execKeyRequest nonce keyId slot mask s) := by
  simp at hM
  simp [execKeyRequest, Sec.mask, blank, hM]

theorem only_execOfferLapse (hM : Allows M [.changes, .offers]) (offer : Word) (s : State) :
    Only M s (execOfferLapse offer s) := by
  simp at hM
  simp [execOfferLapse, Sec.mask, blank, hM]

theorem only_execVinOutOfRange (hM : Allows M [.regs, .cnt, .changes, .bnd, .pwr, .lastFault, .pwrOk])
    (mv : BitVec 16) (s : State) :
    Only M s (execVinOutOfRange mv s) := by
  simp at hM
  simp [execVinOutOfRange, Pwr.mask, blank, hM]

theorem only_execVinRecover (hM : Allows M [.regs, .changes, .pwr, .pwrOk]) (mv : BitVec 16) (s : State) :
    Only M s (execVinRecover mv s) := by
  simp at hM
  simp [execVinRecover, Pwr.mask, blank, hM]

theorem only_execCapWindowEnd (hM : Allows M [.free, .regs, .cnt, .changes, .bnd, .pwr, .lastFault])
    (avgW : BitVec 16) (mv da : BitVec 16) (s : State) :
    Only M s (execCapWindowEnd avgW mv da s) := by
  simp at hM
  simp [execCapWindowEnd, hM]

theorem only_execStepLower (hM : Allows M [.cnt, .changes, .pwr]) (s : State) :
    Only M s (execStepLower s) := by
  simp at hM
  simp [execStepLower, hM]

theorem only_execCapdownAssert (hM : Allows M [.cnt, .changes, .pwr]) (s : State) :
    Only M s (execCapdownAssert s) := by
  simp at hM
  simp [execCapdownAssert, Pwr.mask, blank, hM]

theorem only_execCapdownRelease (hM : Allows M [.changes, .pwr]) (s : State) :
    Only M s (execCapdownRelease s) := by
  simp at hM
  simp [execCapdownRelease, Pwr.mask, blank, hM]

theorem only_execCapdownGroupStep (hM : Allows M [.changes, .quarters, .pwr]) (s : State) :
    Only M s (execCapdownGroupStep s) := by
  simp at hM
  unfold execCapdownGroupStep
  repeat' split
  all_goals simp [hM]

theorem only_execSlewInterval (hM : Allows M [.regs, .changes, .pwr]) (avgDa : BitVec 16) (s : State) :
    Only M s (execSlewInterval avgDa s) := by
  simp at hM
  simp only [execSlewInterval]
  split
  · simp
  · split <;> simp [Pwr.mask, blank, hM]

theorem only_execTempSample (hM : Allows M [.regs, .cnt, .changes, .quarters, .bnd, .lastFault]) (d : Die)
    (q : Qtr) (qc : BitVec 10) (s : State) :
    Only M s (execTempSample d q qc s) := by
  simp at hM
  simp [execTempSample, hM]

theorem only_execCeilingStep (hM : Allows M [.cnt, .changes, .pwr]) (s : State) :
    Only M s (execCeilingStep s) := by
  simp at hM
  simp only [execCeilingStep]
  split
  · simp
  · simp [Pwr.mask, blank, hM]

theorem only_execFlitResendFail (hM : Allows M [.regs, .cnt, .changes, .wales]) (w : WaleIx) (dir : Dir)
    (g : Fin 32) (s : State) :
    Only M s (execFlitResendFail w dir g s) := by
  simp at hM
  simp [execFlitResendFail, hM]

theorem only_execRetrainDone (hM : Allows M [.free, .regs, .changes, .wales]) (w : WaleIx) (dir : Dir) (g : Fin 32)
    (s : State) :
    Only M s (execRetrainDone w dir g s) := by
  simp at hM
  simp [execRetrainDone, hM]

theorem only_execLaneError (hM : Allows M [.regs, .cnt, .changes, .assume, .bnd, .wales, .lastFault, .repairs])
    (w : WaleIx) (dir : Dir) (g : Fin 32) (lane : Fin 33) (s : State) :
    Only M s (execLaneError w dir g lane s) := by
  simp at hM
  simp [execLaneError, hM]

theorem only_execLaneWindowExpiry (hM : Allows M [.changes, .wales]) (w : WaleIx) (dir : Dir) (g : Fin 32)
    (lane : Fin 33) (s : State) :
    Only M s (execLaneWindowExpiry w dir g lane s) := by
  simp at hM
  simp [execLaneWindowExpiry, hM]

theorem only_execLaneSwapDone (hM : Allows M [.changes, .wales]) (w : WaleIx) (dir : Dir) (g : Fin 32) (s : State) :
    Only M s (execLaneSwapDone w dir g s) := by
  simp at hM
  simp [execLaneSwapDone, hM]

theorem only_execScrubWalkStep (hM : Allows M [.regs, .cnt, .changes, .errNotes, .mem, .scrub, .bnd, .lastFault])
    (d : Die) (w : Walk) (s : State) :
    Only M s (execScrubWalkStep d w s) := by
  simp at hM
  unfold execScrubWalkStep
  repeat' split
  all_goals simp [hM]

theorem only_execScrubRewrite (hM : Allows M [.regs, .cnt, .changes, .errNotes, .mem, .scrub, .bnd, .lastFault])
    (d : Die) (s : State) :
    Only M s (execScrubRewrite d s) := by
  simp at hM
  unfold execScrubRewrite
  split <;> simp [hM]

theorem only_execScrubNow (hM : Allows M [.regs, .changes, .scrub]) (d : Die) (s : State) :
    Only M s (execScrubNow d s) := by
  simp at hM
  simp [execScrubNow, hM]

theorem only_execCeWindowExpiry (hM : Allows M [.changes, .errNotes]) (page : Fin 16384) (s : State) :
    Only M s (execCeWindowExpiry page s) := by
  simp at hM
  simp [execCeWindowExpiry, hM]

theorem only_execApertureRead
    (hM : Allows M [.out, .regs, .cnt, .changes, .errNotes, .mem, .scrub, .bnd, .lastFault]) (off : BitVec 36)
    (len : Nat) (s : State) :
    Only M s (execApertureRead off len s) := by
  simp at hM
  simp [execApertureRead, hM]

theorem only_execApertureWrite
    (hM : Allows M [.regs, .cnt, .changes, .errNotes, .mem, .scrub, .check, .bnd, .lastFault]) (off : BitVec 36)
    (data : List Byte) (s : State) :
    Only M s (execApertureWrite off data s) := by
  simp at hM
  simp only [execApertureWrite]
  split
  · simp
  · simp [Prog.mask, blank, hM]

theorem only_execOpenRequestFrame (hM : Allows M [.out, .free, .regs, .cnt, .changes, .errNotes, .mem, .scrub,
    .stalls, .streams, .stores, .rounds, .breaches, .weights, .red, .ports, .flows, .bnd, .ledgers, .lastFault])
    (p : Die) (h : PacketHdr) (udp : List Byte) (s : State) :
    Only M s (execOpenRequestFrame p h udp s) := by
  simp at hM
  simp [execOpenRequestFrame, hM]

theorem only_execOpenAcceptFrame (hM : Allows M [.out, .free, .regs, .cnt, .changes, .errNotes, .mem, .scrub,
    .stalls, .streams, .stores, .rounds, .breaches, .weights, .red, .ports, .flows, .bnd, .ledgers, .lastFault])
    (p : Die) (h : PacketHdr) (udp : List Byte) (s : State) :
    Only M s (execOpenAcceptFrame p h udp s) := by
  simp at hM
  simp [execOpenAcceptFrame, hM]

theorem only_execCloseFrame (hM : Allows M [.out, .free, .regs, .cnt, .changes, .errNotes, .mem, .scrub, .stalls,
    .streams, .stores, .rounds, .breaches, .weights, .red, .ports, .flows, .bnd, .ledgers, .lastFault]) (p : Die)
    (h : PacketHdr) (udp : List Byte) (s : State) :
    Only M s (execCloseFrame p h udp s) := by
  simp at hM
  simp [execCloseFrame, hM]

theorem only_execRefuseFrame (hM : Allows M [.out, .free, .regs, .cnt, .changes, .errNotes, .mem, .scrub, .stalls,
    .streams, .stores, .rounds, .breaches, .weights, .red, .ports, .flows, .bnd, .ledgers, .lastFault]) (p : Die)
    (h : PacketHdr) (udp : List Byte) (s : State) :
    Only M s (execRefuseFrame p h udp s) := by
  simp at hM
  simp [execRefuseFrame, hM]

theorem only_execNackFrame (hM : Allows M [.out, .free, .regs, .cnt, .changes, .errNotes, .mem, .scrub, .stalls,
    .streams, .stores, .rounds, .breaches, .weights, .red, .ports, .flows, .bnd, .ledgers, .lastFault]) (p : Die)
    (h : PacketHdr) (udp : List Byte) (s : State) :
    Only M s (execNackFrame p h udp s) := by
  simp at hM
  simp [execNackFrame, hM]

theorem only_execCreditFrame (hM : Allows M [.out, .free, .regs, .cnt, .changes, .errNotes, .mem, .scrub, .stalls,
    .streams, .stores, .rounds, .breaches, .weights, .red, .ports, .flows, .bnd, .ledgers, .lastFault]) (p : Die)
    (h : PacketHdr) (udp : List Byte) (s : State) :
    Only M s (execCreditFrame p h udp s) := by
  simp at hM
  simp [execCreditFrame, hM]

theorem only_execWeightFrame (hM : Allows M [.out, .free, .regs, .cnt, .changes, .errNotes, .mem, .scrub, .stalls,
    .streams, .stores, .rounds, .breaches, .weights, .red, .ports, .flows, .bnd, .ledgers, .lastFault]) (p : Die)
    (h : PacketHdr) (udp : List Byte) (s : State) :
    Only M s (execWeightFrame p h udp s) := by
  simp at hM
  simp [execWeightFrame, hM]

theorem only_execFrameEgress (hM : Allows M [.out, .free, .regs, .cnt, .changes, .ports, .flows]) (p : Die)
    (f : Fin 1024) (s : State) :
    Only M s (execFrameEgress p f s) := by
  simp at hM
  simp only [execFrameEgress]
  repeat' split
  all_goals simp [hM]

theorem only_execOpenReq (hM : Allows M [.out, .free, .cnt, .changes, .flows]) (p : Die) (f : Fin 1024) (s : State) :
    Only M s (execOpenReq p f s) := by
  simp at hM
  simp [execOpenReq, hM]

theorem only_execSlotEligible (hM : Allows M [.out, .free, .cnt, .changes, .flows]) (p : Die) (f : Fin 1024)
    (s : State) :
    Only M s (execSlotEligible p f s) := by
  simp at hM
  simp [execSlotEligible, hM]

theorem only_execCloseReq (hM : Allows M [.out, .free, .regs, .cnt, .changes, .errNotes, .mem, .scrub, .stalls,
    .streams, .stores, .rounds, .breaches, .weights, .flows, .bnd, .ledgers, .lastFault]) (p : Die) (f : Fin 1024)
    (s : State) :
    Only M s (execCloseReq p f s) := by
  simp at hM
  simp [execCloseReq, hM]

theorem only_execPurge (hM : Allows M [.free, .regs, .cnt, .changes, .stalls, .streams, .stores, .rounds,
    .breaches, .red, .ports, .flows, .ledgers]) (s : State) :
    Only M s (execPurge s) := by
  simp at hM
  simp [execPurge, hM]

theorem only_execRtoExpiry (hM : Allows M [.out, .free, .regs, .cnt, .changes, .errNotes, .mem, .scrub, .stalls,
    .streams, .stores, .rounds, .breaches, .weights, .ports, .flows, .bnd, .ledgers, .lastFault]) (p : Die)
    (f : Fin 1024) (s : State) :
    Only M s (execRtoExpiry p f s) := by
  simp at hM
  simp only [execRtoExpiry]
  repeat' split
  all_goals simp [hM]

theorem only_execAckDelayExpiry (hM : Allows M [.out, .free, .regs, .cnt, .changes]) (p : Die) (f : Fin 1024)
    (s : State) :
    Only M s (execAckDelayExpiry p f s) := by
  simp at hM
  simp [execAckDelayExpiry, hM]

theorem only_execWriteOffExpiry (hM : Allows M [.regs, .cnt, .changes, .ports, .flows, .bnd, .ledgers, .lastFault])
    (p : Die) (f : Fin 1024) (s : State) :
    Only M s (execWriteOffExpiry p f s) := by
  simp at hM
  simp [execWriteOffExpiry, hM]

theorem only_execShutterCreditTick (hM : Allows M [.out, .free, .cnt, .changes]) (p : Die) (s : State) :
    Only M s (execShutterCreditTick p s) := by
  simp at hM
  simp [execShutterCreditTick, hM]

theorem only_execFetchSend (hM : Allows M [.out, .free, .regs, .cnt, .changes, .errNotes, .mem, .scrub, .stalls,
    .streams, .stores, .rounds, .breaches, .weights, .ports, .flows, .bnd, .ledgers, .lastFault]) (d : Die)
    (e : Fin 32) (s : State) :
    Only M s (execFetchSend d e s) := by
  simp at hM
  simp [execFetchSend, hM]

theorem only_execArriveUsExpiry (hM : Allows M [.regs, .cnt, .changes, .breaches, .weights]) (d : Die) (e : Fin 32)
    (s : State) :
    Only M s (execArriveUsExpiry d e s) := by
  simp at hM
  simp [execArriveUsExpiry, hM]

theorem only_execDieReady
    (hM : Allows M [.out, .regs, .cnt, .changes, .errNotes, .mem, .scrub, .stores, .red, .bnd, .ledgers, .lastFault])
    (d : Die) (b : Fin 128) (s : State) :
    Only M s (execDieReady d b s) := by
  simp at hM
  simp [execDieReady, hM]

theorem only_execReadyStamp (hM : Allows M [.regs, .cnt, .changes, .mem, .stores, .red, .ledgers]) (d : Die)
    (b : Fin 128) (lateness : Nat) (s : State) :
    Only M s (execReadyStamp d b lateness s) := by
  simp at hM
  simp [execReadyStamp, hM]

theorem only_execDeadlineExpiry (hM : Allows M [.cnt, .changes, .red]) (b : Fin 128) (s : State) :
    Only M s (execDeadlineExpiry b s) := by
  simp at hM
  simp [execDeadlineExpiry, hM]

theorem only_execIncludedReceive (hM : Allows M [.regs, .cnt, .changes, .mem, .red]) (d : Die) (b : Fin 128)
    (s : State) :
    Only M s (execIncludedReceive d b s) := by
  simp at hM
  simp [execIncludedReceive, hM]

theorem only_execChunkLevelStart (hM : Allows M [.free, .regs, .changes, .stores, .red, .flows]) (d : Die)
    (k : Fin 6) (b : Fin 128) (s : State) :
    Only M s (execChunkLevelStart d k b s) := by
  simp at hM
  unfold execChunkLevelStart
  repeat' split
  all_goals simp [hM]

theorem only_execChunkLevelDone (hM : Allows M [.free, .regs, .cnt, .changes, .stores, .red, .ledgers]) (d : Die)
    (k : Fin 6) (b : Fin 128) (s : State) :
    Only M s (execChunkLevelDone d k b s) := by
  simp at hM
  simp only [execChunkLevelDone]
  split <;> simp [hM]

theorem only_execLevelSatWindow (hM : Allows M [.regs, .changes, .red]) (d : Die) (s : State) :
    Only M s (execLevelSatWindow d s) := by
  simp at hM
  simp [execLevelSatWindow, hM]

theorem only_execBndOpen (hM : Allows M [.free, .regs, .cnt, .changes, .bnd, .ledgers]) (engine : Bool) (s : State) :
    Only M s (execBndOpen engine s) := by
  simp at hM
  simp [execBndOpen, hM]

theorem only_execBndCommit (hM : Allows M [.regs, .cnt, .changes, .bnd, .lastFault]) (engine : Bool) (s : State) :
    Only M s (execBndCommit engine s) := by
  simp at hM
  simp [execBndCommit, hM]

theorem only_execBndAbort (hM : Allows M [.regs, .cnt, .changes, .bnd, .lastFault]) (engine : Bool) (s : State) :
    Only M s (execBndAbort engine s) := by
  simp at hM
  simp [execBndAbort, hM]

theorem only_execBundlePrepare (hM : Allows M [.changes, .bnd, .ledgers]) (r : BndRef) (p : Fin 65) (s : State) :
    Only M s (execBundlePrepare r p s) := by
  simp at hM
  unfold execBundlePrepare
  split <;> simp [hM]

theorem only_execBlockHoldReady (hM : Allows M [.changes, .bnd]) (r : BndRef) (p : Fin 65) (page : Fin 16384)
    (s : State) :
    Only M s (execBlockHoldReady r p page s) := by
  simp at hM
  unfold execBlockHoldReady
  split <;> simp [hM]

theorem only_execBundleReady (hM : Allows M [.changes, .bnd, .ledgers]) (r : BndRef) (p : Fin 65) (s : State) :
    Only M s (execBundleReady r p s) := by
  simp at hM
  unfold execBundleReady
  split <;> simp [hM]

theorem only_execBundleNak
    (hM : Allows M [.regs, .cnt, .changes, .stalls, .stores, .breaches, .red, .bnd, .ledgers, .lastFault]) (r : BndRef)
    (p : Fin 65) (s : State) :
    Only M s (execBundleNak r p s) := by
  simp at hM
  unfold execBundleNak
  split <;> simp [hM]

theorem only_execBundleAbortReceive (hM : Allows M [.free, .regs, .changes, .bnd, .ledgers]) (r : BndRef)
    (p : Fin 65) (s : State) :
    Only M s (execBundleAbortReceive r p s) := by
  simp at hM
  unfold execBundleAbortReceive
  split <;> simp [hM]

theorem only_execCommitWindowExpiry
    (hM : Allows M [.regs, .cnt, .changes, .stalls, .stores, .breaches, .red, .bnd, .ledgers, .lastFault]) (r : BndRef)
    (s : State) :
    Only M s (execCommitWindowExpiry r s) := by
  simp at hM
  unfold execCommitWindowExpiry
  split <;> simp [hM]

end Sys2Proof.Machine
end

section
/-! SUPPORT. The frames of the families of commands: what each family may change, from what its commands may change. -/

namespace Sys2Proof.Machine

variable {M : Part → Bool}

/-! ### From equal masks to an update -/

def HostIf.take (M : Part → Bool) (x y : HostIf) : HostIf :=
  { latch := cond (M .hostRest) y.latch x.latch, held := cond (M .hostRest) y.held x.held,
    sample := cond (M .hostRest) y.sample x.sample, errNew := cond (M .errNotes) y.errNew x.errNew,
    ce := cond (M .errNotes) y.ce x.ce, linkUp := cond (M .hostRest) y.linkUp x.linkUp,
    d3hot := cond (M .hostRest) y.d3hot x.d3hot, changes := cond (M .changes) y.changes x.changes }

def Rounds.take (M : Part → Bool) (x y : Rounds) : Rounds :=
  { (cond (M .roundsRest) y x) with
    ctx := cond (M .rounds) y.ctx x.ctx, transit := cond (M .rounds) y.transit x.transit }

def Prog.take (M : Part → Bool) (x y : Prog) : Prog :=
  { (cond (M .progRest) y x) with
    breaches := cond (M .breaches) y.breaches x.breaches, capBelow := cond (M .assume) y.capBelow x.capBelow,
    scrubAbv := cond (M .assume) y.scrubAbv x.scrubAbv, check := cond (M .check) y.check x.check }

def Weights.take (M : Part → Bool) (x y : Weights) : Weights :=
  { keys := cond (M .keys) y.keys x.keys, fetch := cond (M .weights) y.fetch x.fetch,
    ingest := cond (M .weights) y.ingest x.ingest, tags := cond (M .weights) y.tags x.tags }

def Pwr.take (M : Part → Bool) (x y : Pwr) : Pwr :=
  { (cond (M .pwr) y x) with
    keeperCap := cond (M .keeperCap) y.keeperCap x.keeperCap, input := cond (M .pwrRest) y.input x.input,
    capHeld := cond (M .pwrRest) y.capHeld x.capHeld }

def Keeper.take (M : Part → Bool) (x y : Keeper) : Keeper :=
  { (cond (M .keeperRest) y x) with
    lastFault := cond (M .lastFault) y.lastFault x.lastFault, repairs := cond (M .repairs) y.repairs x.repairs,
    active := cond (M .talk) y.active x.active, afail := cond (M .talk) y.afail x.afail,
    banks := cond (M .talk) y.banks x.banks, capPend := cond (M .talk) y.capPend x.capPend,
    ga := cond (M .talk) y.ga x.ga, locValid := cond (M .talk) y.locValid x.locValid,
    log := cond (M .talk) y.log x.log, mbBusy := cond (M .talk) y.mbBusy x.mbBusy,
    mbIndex := cond (M .talk) y.mbIndex x.mbIndex, mbOp := cond (M .talk) y.mbOp x.mbOp,
    moveReq := cond (M .talk) y.moveReq x.moveReq, uactive := cond (M .talk) y.uactive x.uactive,
    verK := cond (M .talk) y.verK x.verK, verU := cond (M .talk) y.verU x.verU }

def Sec.take (M : Part → Bool) (x y : Sec) : Sec :=
  { (cond (M .secRest) y x) with
    offers := cond (M .offers) y.offers x.offers, nextOffer := cond (M .offers) y.nextOffer x.nextOffer }

def Meter.take (M : Part → Bool) (x y : Meter) : Meter :=
  { (cond (M .meter) y x) with
    tally := cond (M .tally) y.tally x.tally }

def Pins.take (M : Part → Bool) (x y : Pins) : Pins :=
  { prsnt := cond (M .prsnt) y.prsnt x.prsnt, pwrOk := cond (M .pwrOk) y.pwrOk x.pwrOk,
    idLed := cond (M .idLed) y.idLed x.idLed }

/-- A state with the listed parts of another. -/
def State.take (M : Part → Bool) (x y : State) : State :=
  { pending := cond (M .pending) y.pending x.pending, out := cond (M .out) y.out x.out,
    free := cond (M .free) y.free x.free, regs := cond (M .regs) y.regs x.regs, cnt := cond (M .cnt) y.cnt x.cnt,
    host := x.host.take M y.host, mem := cond (M .mem) y.mem x.mem, scrub := cond (M .scrub) y.scrub x.scrub,
    dies := cond (M .dies) y.dies x.dies, quarters := cond (M .quarters) y.quarters x.quarters,
    stalls := cond (M .stalls) y.stalls x.stalls, arcs := cond (M .arcs) y.arcs x.arcs,
    streams := cond (M .streams) y.streams x.streams, stores := cond (M .stores) y.stores x.stores,
    rounds := x.rounds.take M y.rounds, prog := x.prog.take M y.prog, weights := x.weights.take M y.weights,
    red := cond (M .red) y.red x.red, ports := cond (M .ports) y.ports x.ports,
    flows := cond (M .flows) y.flows x.flows, bnd := cond (M .bnd) y.bnd x.bnd,
    ledgers := cond (M .ledgers) y.ledgers x.ledgers, wales := cond (M .wales) y.wales x.wales,
    pwr := x.pwr.take M y.pwr, shut := cond (M .shut) y.shut x.shut, keeper := x.keeper.take M y.keeper,
    sec := x.sec.take M y.sec, meter := x.meter.take M y.meter, pins := x.pins.take M y.pins }

theorem eq_cond_of_blank_eq {α : Type} {c : Bool} {d x y : α} (h : blank c d y = blank c d x) : y = cond c y x := by
  cases c with
  | true => rfl
  | false => exact h

theorem HostIf.eq_take {x y : HostIf} (h : y.mask M = x.mask M) : y = x.take M y := by
  obtain ⟨⟩ := x
  obtain ⟨⟩ := y
  simp only [HostIf.mask, HostIf.mk.injEq] at h
  simp only [HostIf.take, HostIf.mk.injEq]
  grind [eq_cond_of_blank_eq]

theorem Rounds.eq_take {x y : Rounds} (h : y.mask M = x.mask M) : y = x.take M y := by
  obtain ⟨⟩ := x
  obtain ⟨⟩ := y
  unfold Rounds.mask at h
  split at h
  all_goals
    simp only [Rounds.mk.injEq] at h
    simp only [Rounds.take, *, cond_true, cond_false, Rounds.mk.injEq]
    grind [eq_cond_of_blank_eq]

theorem Prog.eq_take {x y : Prog} (h : y.mask M = x.mask M) : y = x.take M y := by
  obtain ⟨⟩ := x
  obtain ⟨⟩ := y
  unfold Prog.mask at h
  split at h
  all_goals
    simp only [Prog.mk.injEq] at h
    simp only [Prog.take, *, cond_true, cond_false, Prog.mk.injEq]
    grind [eq_cond_of_blank_eq]

theorem Weights.eq_take {x y : Weights} (h : y.mask M = x.mask M) : y = x.take M y := by
  obtain ⟨⟩ := x
  obtain ⟨⟩ := y
  simp only [Weights.mask, Weights.mk.injEq] at h
  simp only [Weights.take, Weights.mk.injEq]
  grind [eq_cond_of_blank_eq]

theorem Pwr.eq_take {x y : Pwr} (h : y.mask M = x.mask M) : y = x.take M y := by
  obtain ⟨⟩ := x
  obtain ⟨⟩ := y
  unfold Pwr.mask at h
  split at h
  all_goals
    simp only [Pwr.mk.injEq] at h
    simp only [Pwr.take, *, cond_true, cond_false, Pwr.mk.injEq]
    grind [eq_cond_of_blank_eq]

theorem Keeper.eq_take {x y : Keeper} (h : y.mask M = x.mask M) : y = x.take M y := by
  obtain ⟨⟩ := x
  obtain ⟨⟩ := y
  unfold Keeper.mask at h
  split at h
  all_goals
    simp only [Keeper.mk.injEq] at h
    simp only [Keeper.take, *, cond_true, cond_false, Keeper.mk.injEq]
    grind [eq_cond_of_blank_eq]

theorem Sec.eq_take {x y : Sec} (h : y.mask M = x.mask M) : y = x.take M y := by
  obtain ⟨⟩ := x
  obtain ⟨⟩ := y
  unfold Sec.mask at h
  split at h
  all_goals
    simp only [Sec.mk.injEq] at h
    simp only [Sec.take, *, cond_true, cond_false, Sec.mk.injEq]
    grind [eq_cond_of_blank_eq]

theorem Meter.eq_take {x y : Meter} (h : y.mask M = x.mask M) : y = x.take M y := by
  obtain ⟨⟩ := x
  obtain ⟨⟩ := y
  unfold Meter.mask at h
  split at h
  all_goals
    simp only [Meter.mk.injEq] at h
    simp only [Meter.take, *, cond_true, cond_false, Meter.mk.injEq]
    grind [eq_cond_of_blank_eq]

theorem Pins.eq_take {x y : Pins} (h : y.mask M = x.mask M) : y = x.take M y := by
  obtain ⟨⟩ := x
  obtain ⟨⟩ := y
  simp only [Pins.mask, Pins.mk.injEq] at h
  simp only [Pins.take, Pins.mk.injEq]
  grind [eq_cond_of_blank_eq]

theorem State.eq_take {s t : State} (h : t.mask M = s.mask M) : t = s.take M t := by
  obtain ⟨⟩ := s
  obtain ⟨⟩ := t
  simp only [State.mask, State.mk.injEq] at h
  simp only [State.take, State.mk.injEq]
  grind [eq_cond_of_blank_eq, HostIf.eq_take, Rounds.eq_take, Prog.eq_take, Weights.eq_take, Pwr.eq_take, Keeper.eq_take,
    Sec.eq_take, Meter.eq_take, Pins.eq_take]

/-- The parts of a list, as the parts that may change. -/
def among (l : List Part) (p : Part) : Bool := l.contains p

/-! ### The families -/

theorem only_exec_of_stallOnly
    (hM : Allows M [.free, .cnt, .changes, .stalls, .arcs, .tally])
    {c : Instr} (hc : stallOnly c = true) (s : State) :
    Only M s (exec c s) := by
  simp at hM
  cases c
  case passRunEnd => exact only_execPassRunEnd (by simp [hM]) _ _ _ _
  case writebackStart => exact only_execWritebackStart (by simp [hM]) _ _ _ _
  case styWindowExpiry => exact only_execStyWindowExpiry (by simp [hM]) _ _ _
  case tileWindowOpen => exact only_execTileWindowOpen (by simp [hM]) _ _ _ _ _ _
  case dutyHoldExpiry => exact only_execDutyHoldExpiry (by simp [hM]) _ _ _
  case dutyStepDown => exact only_execDutyStepDown (by simp [hM]) _ _ _
  case dutyStepUp => exact only_execDutyStepUp (by simp [hM]) _ _ _
  all_goals cases hc

theorem only_exec_of_stallData
    (hM : Allows M [.free, .regs, .cnt, .changes, .errNotes, .mem, .scrub, .stalls, .arcs, .bnd, .lastFault,
      .tally]) {c : Instr} (hc : stallData c = true) (s : State) :
    Only M s (exec c s) := by
  simp at hM
  cases c
  case pass => exact only_execPass (by simp [hM]) _ _ _ _
  case drain => exact only_execDrain (by simp [hM]) _ _ _ _
  case loadw => exact only_execLoadw (by simp [hM]) _ _ _ _
  case bundleOpen => exact only_execBundleOpen (by simp [hM]) _ _ _ _
  case ballast => exact only_execBallast (by simp [hM]) _ _ _ _
  case halt => exact only_execHalt (by simp [hM]) _ _ _ _
  case preloadDone => exact only_execPreloadDone (by simp [hM]) _ _ _ _
  case writebackDone => exact only_execWritebackDone (by simp [hM]) _ _ _ _
  case drainStart => exact only_execDrainStart (by simp [hM]) _ _ _
  case drainDone => exact only_execDrainDone (by simp [hM]) _ _ _
  case privateRecordLoaded => exact only_execPrivateRecordLoaded (by simp [hM]) _ _ _ _
  case tileWindowClose => exact only_execTileWindowClose (by simp [hM]) _ _ _ _ _ _
  all_goals cases hc

theorem only_exec_of_streamRound
    (hM : Allows M [.free, .regs, .cnt, .changes, .errNotes, .mem, .scrub, .stalls, .streams, .stores, .rounds,
      .breaches, .weights, .flows, .bnd, .ledgers, .lastFault]) {c : Instr} (hc : streamRound c = true) (s : State) :
    Only M s (exec c s) := by
  simp at hM
  cases c
  case transferIssue => exact only_execTransferIssue (by simp [hM]) _ _ _ _
  case transferComplete => exact only_execTransferComplete (by simp [hM]) _ _ _ _ _
  case roundItemTake => exact only_execRoundItemTake (by simp [hM]) _ _ _
  case roundItemArrival => exact only_execRoundItemArrival (by simp [hM]) _ _ _
  case roundItemForward => exact only_execRoundItemForward (by simp [hM]) _ _ _
  case roundRelease => exact only_execRoundRelease (by simp [hM]) _ _ _
  case roundCredit => exact only_execRoundCredit (by simp [hM]) _ _ _
  all_goals cases hc

theorem only_exec_of_meterOnly
    (hM : Allows M [.out, .free, .regs, .cnt, .changes, .bnd, .lastFault, .tally, .meter])
    {c : Instr} (hc : meterOnly c = true) (s : State) :
    Only M s (exec c s) := by
  simp at hM
  cases c
  case meterSample mv da mj => exact only_execMeterSample (by simp [hM]) mv da mj s
  case meterWindowEnd => exact only_execMeterWindowEnd (by simp [hM]) _
  case snap => exact only_execSnap (by simp [hM]) _
  case workReport => exact only_execWorkReport (by simp [hM]) _ _
  case reportTimeout => exact only_execReportTimeout (by simp [hM]) _
  case earlyClose => exact only_execEarlyClose (by simp [hM]) _
  case final => exact only_execFinal (by simp [hM]) _
  case finalTimeout => exact only_execFinalTimeout (by simp [hM]) _
  case recordStored => exact only_execRecordStored (by simp [hM]) _
  case setInterval => exact only_execSetInterval (by simp [hM]) _ _
  case readStatus => exact only_execReadStatus (by simp [hM]) _
  case readRecord => exact only_execReadRecord (by simp [hM]) _ _
  case readCert => exact only_execReadCert (by simp [hM]) _ _
  case updateFw => exact only_execUpdateFw (by simp [hM]) _ _
  all_goals cases hc

theorem only_exec_of_keeperTalk
    (hM : Allows M [.out, .free, .regs, .cnt, .changes, .bnd, .keeperCap, .lastFault, .talk, .offers, .idLed])
    {c : Instr} (hc : keeperTalk c = true) (s : State) :
    Only M s (exec c s) := by
  simp at hM
  cases c
  case gaSample => exact only_execGaSample (by simp [hM]) _ _
  case cap => exact only_execCap (by simp [hM]) _ _
  case identify => exact only_execIdentify (by simp [hM]) _ _
  case identifyIndicatorExpiry => exact only_execIdentifyIndicatorExpiry (by simp [hM]) _
  case adoptTimeExpiry => exact only_execAdoptTimeExpiry (by simp [hM]) _
  case portMoveClear => exact only_execPortMoveClear (by simp [hM]) _ _
  case healthRecordRequest => exact only_execHealthRecordRequest (by simp [hM]) _
  case readHealth => exact only_execReadHealth (by simp [hM]) _
  case mailboxIdentify => exact only_execMailboxIdentify (by simp [hM]) _
  case readLog => exact only_execReadLog (by simp [hM]) _ _
  case readRepair => exact only_execReadRepair (by simp [hM]) _ _
  case mailboxDone => exact only_execMailboxDone (by simp [hM]) _
  case pldmFwUpdate => exact only_execPldmFwUpdate (by simp [hM]) _ _ _
  case activateFirmware => exact only_execActivateFirmware (by simp [hM]) _
  case getSensorReading => exact only_execGetSensorReading (by simp [hM]) _ _
  case getVersion => exact only_execGetVersion (by simp [hM]) _
  case getCapabilities => exact only_execGetCapabilities (by simp [hM]) _
  case negotiateAlgorithms => exact only_execNegotiateAlgorithms (by simp [hM]) _
  case getDigests => exact only_execGetDigests (by simp [hM]) _
  case getCertificate => exact only_execGetCertificate (by simp [hM]) _ _
  case challenge => exact only_execChallenge (by simp [hM]) _ _
  case getMeasurements => exact only_execGetMeasurements (by simp [hM]) _ _ _
  case keyRequest => exact only_execKeyRequest (by simp [hM]) _ _ _ _ _
  case offerLapse => exact only_execOfferLapse (by simp [hM]) _ _
  all_goals cases hc

theorem only_exec_of_powerStep
    (hM : Allows M [.free, .regs, .cnt, .changes, .quarters, .bnd, .pwr, .lastFault, .pwrOk])
    {c : Instr} (hc : powerStep c = true) (s : State) :
    Only M s (exec c s) := by
  simp at hM
  cases c
  case vinOutOfRange => exact only_execVinOutOfRange (by simp [hM]) _ _
  case vinRecover => exact only_execVinRecover (by simp [hM]) _ _
  case capWindowEnd => exact only_execCapWindowEnd (by simp [hM]) _ _ _ _
  case stepLower => exact only_execStepLower (by simp [hM]) _
  case capdownAssert => exact only_execCapdownAssert (by simp [hM]) _
  case capdownRelease => exact only_execCapdownRelease (by simp [hM]) _
  case capdownGroupStep => exact only_execCapdownGroupStep (by simp [hM]) _
  case slewInterval => exact only_execSlewInterval (by simp [hM]) _ _
  case tempSample => exact only_execTempSample (by simp [hM]) _ _ _ _
  case ceilingStep => exact only_execCeilingStep (by simp [hM]) _
  all_goals cases hc

theorem only_exec_of_waleLane
    (hM : Allows M [.free, .regs, .cnt, .changes, .assume, .bnd, .wales, .lastFault, .repairs])
    {c : Instr} (hc : waleLane c = true) (s : State) :
    Only M s (exec c s) := by
  simp at hM
  cases c
  case flitResendFail => exact only_execFlitResendFail (by simp [hM]) _ _ _ _
  case retrainDone => exact only_execRetrainDone (by simp [hM]) _ _ _ _
  case laneError => exact only_execLaneError (by simp [hM]) _ _ _ _ _
  case laneWindowExpiry => exact only_execLaneWindowExpiry (by simp [hM]) _ _ _ _ _
  case laneSwapDone => exact only_execLaneSwapDone (by simp [hM]) _ _ _ _
  all_goals cases hc

theorem only_exec_of_memoryWork
    (hM : Allows M [.out, .regs, .cnt, .changes, .errNotes, .mem, .scrub, .check, .bnd, .lastFault])
    {c : Instr} (hc : memoryWork c = true) (s : State) :
    Only M s (exec c s) := by
  simp at hM
  cases c
  case scrubWalkStep => exact only_execScrubWalkStep (by simp [hM]) _ _ _
  case scrubRewrite => exact only_execScrubRewrite (by simp [hM]) _ _
  case scrubNow => exact only_execScrubNow (by simp [hM]) _ _
  case ceWindowExpiry => exact only_execCeWindowExpiry (by simp [hM]) _ _
  case apertureRead => exact only_execApertureRead (by simp [hM]) _ _ _
  case apertureWrite => exact only_execApertureWrite (by simp [hM]) _ _ _
  all_goals cases hc

theorem only_exec_of_dataWork
    (hM : Allows M [.out, .free, .regs, .cnt, .changes, .errNotes, .mem, .scrub, .stalls, .streams, .stores,
      .rounds, .breaches, .weights, .red, .ports, .flows, .bnd, .ledgers, .lastFault])
    {c : Instr} (hc : dataWork c = true) (s : State) :
    Only M s (exec c s) := by
  simp at hM
  cases c
  case openRequestFrame => exact only_execOpenRequestFrame (by simp [hM]) _ _ _ _
  case openAcceptFrame => exact only_execOpenAcceptFrame (by simp [hM]) _ _ _ _
  case closeFrame => exact only_execCloseFrame (by simp [hM]) _ _ _ _
  case refuseFrame => exact only_execRefuseFrame (by simp [hM]) _ _ _ _
  case nackFrame => exact only_execNackFrame (by simp [hM]) _ _ _ _
  case creditFrame => exact only_execCreditFrame (by simp [hM]) _ _ _ _
  case weightFrame => exact only_execWeightFrame (by simp [hM]) _ _ _ _
  case frameEgress => exact only_execFrameEgress (by simp [hM]) _ _ _
  case openReq => exact only_execOpenReq (by simp [hM]) _ _ _
  case slotEligible => exact only_execSlotEligible (by simp [hM]) _ _ _
  case closeReq => exact only_execCloseReq (by simp [hM]) _ _ _
  case purge => exact only_execPurge (by simp [hM]) _
  case rtoExpiry => exact only_execRtoExpiry (by simp [hM]) _ _ _
  case ackDelayExpiry => exact only_execAckDelayExpiry (by simp [hM]) _ _ _
  case writeOffExpiry => exact only_execWriteOffExpiry (by simp [hM]) _ _ _
  case shutterCreditTick => exact only_execShutterCreditTick (by simp [hM]) _ _
  case fetchSend => exact only_execFetchSend (by simp [hM]) _ _ _
  case arriveUsExpiry => exact only_execArriveUsExpiry (by simp [hM]) _ _ _
  case dieReady => exact only_execDieReady (by simp [hM]) _ _ _
  case readyStamp => exact only_execReadyStamp (by simp [hM]) _ _ _ _
  case deadlineExpiry => exact only_execDeadlineExpiry (by simp [hM]) _ _
  case includedReceive => exact only_execIncludedReceive (by simp [hM]) _ _ _
  case chunkLevelStart => exact only_execChunkLevelStart (by simp [hM]) _ _ _ _
  case chunkLevelDone => exact only_execChunkLevelDone (by simp [hM]) _ _ _ _
  case levelSatWindow => exact only_execLevelSatWindow (by simp [hM]) _ _
  case bndOpen => exact only_execBndOpen (by simp [hM]) _ _
  case bndCommit => exact only_execBndCommit (by simp [hM]) _ _
  case bndAbort => exact only_execBndAbort (by simp [hM]) _ _
  case bundlePrepare => exact only_execBundlePrepare (by simp [hM]) _ _ _
  case blockHoldReady => exact only_execBlockHoldReady (by simp [hM]) _ _ _ _
  case bundleReady => exact only_execBundleReady (by simp [hM]) _ _ _
  case bundleNak => exact only_execBundleNak (by simp [hM]) _ _ _
  case bundleAbortReceive => exact only_execBundleAbortReceive (by simp [hM]) _ _ _
  case commitWindowExpiry => exact only_execCommitWindowExpiry (by simp [hM]) _ _
  all_goals cases hc

/-! ### Frames -/

theorem frame_of_only {s t : State} {o : Host.Outcome State Fault Refusal} (l : List Part) (h : Only (among l) s o)
    (ht : o = .next t) : t = s.take (among l) t :=
  State.eq_take (h t ht)

theorem stallOnly_frame {c : Instr} {s t : State} (hc : stallOnly c = true) (ht : exec c s = .next t) :
    t = { s with free := t.free, cnt := t.cnt, stalls := t.stalls, arcs := t.arcs
                 meter := { s.meter with tally := t.meter.tally }, host := { s.host with changes := t.host.changes } } :=
  frame_of_only [.free, .cnt, .changes, .stalls, .arcs, .tally] (only_exec_of_stallOnly (by simp [among]) hc s) ht

theorem stallData_frame {c : Instr} {s t : State} (hc : stallData c = true) (ht : exec c s = .next t) :
    t = { s with free := t.free, regs := t.regs, cnt := t.cnt, stalls := t.stalls, arcs := t.arcs, mem := t.mem
                 scrub := t.scrub, bnd := t.bnd, meter := { s.meter with tally := t.meter.tally }
                 keeper := { s.keeper with lastFault := t.keeper.lastFault }
                 host := { s.host with changes := t.host.changes, errNew := t.host.errNew, ce := t.host.ce } } :=
  frame_of_only [.free, .regs, .cnt, .changes, .errNotes, .mem, .scrub, .stalls, .arcs, .bnd, .lastFault, .tally]
    (only_exec_of_stallData (by simp [among]) hc s) ht

/-! ### One part -/

/-- All parts but one. -/
def allBut (p q : Part) : Bool := q != p

@[simp] theorem allBut_eq (p q : Part) : allBut p q = true ↔ q ≠ p := bne_iff_ne

theorem mem_of_mask {s t : State} (h : t.mask (allBut .mem) = s.mask (allBut .mem)) : t.mem = s.mem :=
  (congrArg State.mem h :)

theorem stalls_of_mask {s t : State} (h : t.mask (allBut .stalls) = s.mask (allBut .stalls)) : t.stalls = s.stalls :=
  (congrArg State.stalls h :)

theorem regs_of_mask {s t : State} (h : t.mask (allBut .regs) = s.mask (allBut .regs)) : t.regs = s.regs :=
  (congrArg State.regs h :)

/-! ### A read changes no byte of memory -/

/-- A word put with the data that it holds changes no byte. -/
theorem putWord_own_byte (s : State) (w : Nat) (p : Bool) (k : Nat) :
    SMap.get 0 (s.putWord w { val := s.wordData w, poison := p }).mem.bytes k = SMap.get 0 s.mem.bytes k := by
  by_cases hk : k / 8 = w
  · have hkey : k = 8 * w + k % 8 := by omega
    have hlt : k % 8 < 8 := Nat.mod_lt _ (by decide)
    rw [hkey, ← wordData_byte _ w hlt, ← wordData_byte s w hlt, putWord_wordData]
  · exact putWord_byte_other s _ hk

theorem noteRead_byte (s : State) (src w k : Nat) :
    SMap.get 0 (s.noteRead src w).mem.bytes k = SMap.get 0 s.mem.bytes k := by
  simp only [State.noteRead]
  split
  · rw [incSat_mem]
  · split
    · rfl
    · rw [mem_of_mask (s := s) (by simp)]
    · rw [mem_of_mask (s := s) (by simp)]
    · have hnote : ((s.incSat (keyPage (8 * w)) rUe).noteErr (keyPage (8 * w)) src 3 w).mem = s.mem :=
        mem_of_mask (by simp)
      have hdata : s.wordData w = ((s.incSat (keyPage (8 * w)) rUe).noteErr (keyPage (8 * w)) src 3 w).wordData w := by
        simp only [State.wordData, hnote]
      rw [mem_of_mask (mask_raise (by simp) _ _ _), hdata, putWord_own_byte, hnote]

theorem noteReads_byte (s : State) (src a n k : Nat) :
    SMap.get 0 (s.noteReads src a n).mem.bytes k = SMap.get 0 s.mem.bytes k := by
  rw [State.noteReads, mem_of_mask (mask_noteBytes (by simp) _ _ _ _)]
  generalize wordsOf a n = l
  induction l generalizing s with
  | nil => rfl
  | cons w r ih => exact (ih (s.noteRead src w)).trans (noteRead_byte s src w k)

/-! ### The head word of a stall is read once -/

theorem reachHead_of_fetched {s : State} {d p : Nat} (hf : (s.slot d p).fetched = true) (l : Nat) :
    s.reachHead d l p = s := by
  simp [State.reachHead, hf]

/-- Reading the head word accounts its bytes, those of its bundle's entry with them, and marks it as read. -/
theorem reachHead_of_unfetched {s : State} {d p : Nat} (hf : (s.slot d p).fetched = false) (l : Nat) :
    ∃ u : State, s.reachHead d l p = u.setSlot d p { s.slot d p with fetched := true } ∧ u.stalls = s.stalls ∧
      ∀ k, SMap.get 0 u.mem.bytes k = SMap.get 0 s.mem.bytes k := by
  simp only [State.reachHead, hf, Bool.false_eq_true, if_false]
  refine ⟨_, rfl, ?_, ?_⟩
  · split <;> exact stalls_of_mask (by simp)
  · intro k
    split <;> simp only [noteReads_byte]

theorem reachHead_slot (s : State) (d l p : Nat) : (s.reachHead d l p).slot d p = { s.slot d p with fetched := true } := by
  cases hf : (s.slot d p).fetched with
  | true => rw [reachHead_of_fetched hf, ← hf]
  | false =>
    obtain ⟨u, hu, -⟩ := reachHead_of_unfetched hf l
    rw [hu, setSlot_slot_same]

theorem reachHead_slot_other (s : State) (d l p : Nat) {e r : Nat} (h : 72 * e + r ≠ 72 * d + p) :
    (s.reachHead d l p).slot e r = s.slot e r := by
  cases hf : (s.slot d p).fetched with
  | true => rw [reachHead_of_fetched hf]
  | false =>
    obtain ⟨u, hu, hstalls, -⟩ := reachHead_of_unfetched hf l
    simp only [hu, State.setSlot, State.slot, SMap.get_set_other _ _ _ h, hstalls]

theorem reachHead_byte (s : State) (d l p k : Nat) :
    SMap.get 0 (s.reachHead d l p).mem.bytes k = SMap.get 0 s.mem.bytes k := by
  cases hf : (s.slot d p).fetched with
  | true => rw [reachHead_of_fetched hf]
  | false =>
    obtain ⟨u, hu, -, hmem⟩ := reachHead_of_unfetched hf l
    rw [hu, ← hmem k]
    rfl

/-- Settles O29, from the parts that the commands of each family may change. -/
theorem stallFrames : Obligations.StallFrames := by
  refine ⟨fun c s t hc ht => stallOnly_frame hc ht, fun c s t hc ht => ?_, fun s d l p hf => reachHead_of_fetched hf l,
    fun s d l p => ⟨reachHead_slot s d l p, fun e r h => reachHead_slot_other s d l p h, ?_, reachHead_byte s d l p⟩⟩
  · have hframe := stallData_frame hc ht
    exact ⟨frame_of_only [.free, .regs, .cnt, .changes, .errNotes, .hostRest, .mem, .scrub, .stalls, .arcs, .bnd, .lastFault,
      .tally] (only_exec_of_stallData (by simp [among]) hc s) ht, congrArg (·.host.linkUp) hframe,
      congrArg (·.host.d3hot) hframe, congrArg (·.host.held) hframe⟩
  · exact State.eq_take (M := among [.regs, .cnt, .changes, .errNotes, .hostRest, .mem, .scrub, .stalls, .bnd, .lastFault])
      (mask_reachHead (by simp [among]) s d l p)

end Sys2Proof.Machine
end

section
/-! SUPPORT. Frames of the remaining families: registers outside a page, states of quarters and of wales. -/

namespace Sys2Proof.Machine

/-! ### Parts left alone -/

theorem quarters_of_mask {s t : State} (h : t.mask (allBut .quarters) = s.mask (allBut .quarters)) :
    t.quarters = s.quarters :=
  (congrArg State.quarters h :)

theorem wales_of_mask {s t : State} (h : t.mask (allBut .wales) = s.mask (allBut .wales)) : t.wales = s.wales :=
  (congrArg State.wales h :)

theorem reg_of_mask {s t : State} (h : t.mask (allBut .regs) = s.mask (allBut .regs)) (p o : Nat) : t.reg p o = s.reg p o := by
  simp only [State.reg, regs_of_mask h]

theorem quarter_of_mask {s t : State} (h : t.mask (allBut .quarters) = s.mask (allBut .quarters)) (d q : Nat) :
    t.quarter d q = s.quarter d q := by
  simp only [State.quarter, quarters_of_mask h]

theorem wale_of_mask {s t : State} (h : t.mask (allBut .wales) = s.mask (allBut .wales)) (w : Nat) : t.wale w = s.wale w := by
  simp only [State.wale, wales_of_mask h]

/-! ### Registers of the METER page alone -/

/-- The registers outside the METER page read as before. -/
def MeterPageOnly (s t : State) : Prop := ∀ p o, p ≠ pgMeter → o < 4096 → t.reg p o = s.reg p o

theorem MeterPageOnly.refl (s : State) : MeterPageOnly s s := fun _ _ _ _ => rfl

theorem MeterPageOnly.trans {s t u : State} (h : MeterPageOnly s t) (h' : MeterPageOnly t u) : MeterPageOnly s u :=
  fun p o hp ho => (h' p o hp ho).trans (h p o hp ho)

theorem MeterPageOnly.of_mask {s t : State} (h : t.mask (allBut .regs) = s.mask (allBut .regs)) : MeterPageOnly s t :=
  fun p o _ _ => reg_of_mask h p o

theorem meterPageOnly_ite {c : Prop} [Decidable c] {s t u : State} (ht : MeterPageOnly s t) (hu : MeterPageOnly s u) :
    MeterPageOnly s (if c then t else u) := by
  split <;> assumption

theorem meterPageOnly_poke (s : State) {a : Nat} (v : Word) (ha : a < 4096) : MeterPageOnly s (s.poke pgMeter a v) :=
  fun p o hp ho => poke_reg_other s (by unfold regKey; omega)

theorem meterPageOnly_count (s : State) (page i n : Nat) : MeterPageOnly s (s.count page i n) := fun _ _ _ _ => rfl

theorem MeterPageOnly.of_regs {s t u : State} (h : MeterPageOnly s t) (hu : u.regs = t.regs) : MeterPageOnly s u :=
  fun p o hp ho => by simpa only [State.reg, hu] using h p o hp ho

theorem meterPageOnly_pokePair (s : State) {a : Nat} (v : DWord) (ha : a + 4 < 4096) :
    MeterPageOnly s (s.pokePair pgMeter a v) :=
  (meterPageOnly_poke s _ (by omega)).trans (meterPageOnly_poke _ _ ha)

theorem meterPageOnly_recordFault (s : State) (code : Nat) : MeterPageOnly s (s.recordFault pgMeter code) := by
  unfold State.recordFault
  split
  · exact (meterPageOnly_poke s _ (by decide)).trans (meterPageOnly_poke _ _ (by decide))
  · exact meterPageOnly_poke s _ (by decide)

/-- A fault of the meter is recorded in its own page, which is no die's. -/
theorem meterPageOnly_raise (s : State) (code : Nat) : MeterPageOnly s (s.raise pgMeter code) := by
  intro p o hp ho
  have hdie : isDiePage pgMeter = false := rfl
  rw [raise_eq s code (by simp [hdie]), tellFault_reg, State.recordLastFault, hdie]
  exact meterPageOnly_recordFault s code p o hp ho

theorem meterPageOnly_noReport (s : State) : MeterPageOnly s s.noReport := by
  unfold State.noReport
  split
  · exact .refl s
  · exact meterPageOnly_ite (meterPageOnly_raise _ _) (.of_mask rfl)

theorem meterPageOnly_windowClose (s : State) (full : Bool) (flags : BitVec 16) :
    MeterPageOnly s (s.windowClose full flags) :=
  (meterPageOnly_noReport s).trans (.of_mask rfl)

theorem meterPageOnly_mirrorRecord (s : State) (r : Record) : MeterPageOnly s (s.mirrorRecord r) :=
  (meterPageOnly_pokePair s _ (by decide)).trans <| (meterPageOnly_pokePair _ _ (by decide)).trans <|
    (meterPageOnly_pokePair _ _ (by decide)).trans <| (meterPageOnly_pokePair _ _ (by decide)).trans <|
    (meterPageOnly_pokePair _ _ (by decide)).trans <| (meterPageOnly_poke _ _ (by decide)).trans <|
    meterPageOnly_count _ _ _ _

/-- The answer leaves the registers outside the METER page as they were. -/
def OnMeterPage (s : State) (r : Host.Outcome State Fault Refusal) : Prop := ∀ t, r = .next t → MeterPageOnly s t

theorem onMeterPage_next (s : State) : OnMeterPage s (.next s) := by
  rintro t ⟨⟩
  exact .refl s

theorem onMeterPage_ok {s u : State} (h : MeterPageOnly s u) : OnMeterPage s (s.ok u) := by
  rintro t ⟨⟩
  exact h

theorem onMeterPage_of_only {s : State} {r : Host.Outcome State Fault Refusal} (h : Only (allBut .regs) s r) :
    OnMeterPage s r :=
  fun t ht => .of_mask (h t ht)

theorem onMeterPage_ite {c : Prop} [Decidable c] {s : State} {o r : Host.Outcome State Fault Refusal}
    (ho : OnMeterPage s o) (hr : OnMeterPage s r) : OnMeterPage s (if c then o else r) := by
  split <;> assumption

theorem onMeterPage_execSnap (s : State) : OnMeterPage s (execSnap s) := by
  have hpoke (m : Meter) : MeterPageOnly s (({ s with meter := m } : State).poke pgMeter 0x074 s.meter.snap) :=
    meterPageOnly_poke _ _ (by decide)
  unfold execSnap
  exact onMeterPage_ite (onMeterPage_next s) (onMeterPage_ite (onMeterPage_ok (hpoke _)) (onMeterPage_ok (hpoke _)))

theorem onMeterPage_execFinal (s : State) : OnMeterPage s (execFinal s) := by
  intro t ht
  unfold execFinal at ht
  split at ht
  · cases ht
    exact .refl s
  · cases ht
    exact (meterPageOnly_noReport s).of_regs rfl

theorem onMeterPage_execFinalTimeout (s : State) : OnMeterPage s (execFinalTimeout s) := by
  intro t ht
  unfold execFinalTimeout at ht
  split at ht
  · cases ht
    exact .refl s
  · cases ht
    exact (meterPageOnly_noReport s).of_regs rfl

theorem onMeterPage_execRecordStored (s : State) : OnMeterPage s (execRecordStored s) := by
  have hstore (m : Meter) : MeterPageOnly s { s with meter := m } := .of_regs (.refl s) rfl
  unfold execRecordStored
  split
  · exact onMeterPage_next s
  · refine onMeterPage_ok (meterPageOnly_ite ?_ (hstore _))
    exact (hstore _).trans (meterPageOnly_mirrorRecord _ _)

theorem onMeterPage_execSetInterval (secs : BitVec 16) (s : State) : OnMeterPage s (execSetInterval secs s) := by
  unfold execSetInterval
  exact onMeterPage_ite (onMeterPage_ok (.refl s))
    (onMeterPage_ok (meterPageOnly_ite (meterPageOnly_windowClose s false (rfPartial ||| rfInterval)) (.refl s)))

/-- The meter's commands change registers of the METER page alone. -/
theorem onMeterPage_of_meterOnly {c : Instr} (hc : meterOnly c = true) (s : State) : OnMeterPage s (exec c s) := by
  cases c
  case meterSample mv da mj => exact onMeterPage_of_only (only_execMeterSample (by simp) mv da mj s)
  case meterWindowEnd => exact onMeterPage_ite (onMeterPage_ok (meterPageOnly_windowClose s _ _)) (onMeterPage_next s)
  case snap => exact onMeterPage_execSnap s
  case workReport r => exact onMeterPage_of_only (only_execWorkReport (by simp) r s)
  case reportTimeout => exact onMeterPage_ite (onMeterPage_ok (meterPageOnly_noReport s)) (onMeterPage_next s)
  case earlyClose => exact onMeterPage_ite (onMeterPage_ok (meterPageOnly_windowClose s _ _)) (onMeterPage_next s)
  case final => exact onMeterPage_execFinal s
  case finalTimeout => exact onMeterPage_execFinalTimeout s
  case recordStored => exact onMeterPage_execRecordStored s
  case setInterval secs => exact onMeterPage_execSetInterval secs s
  case readStatus => exact onMeterPage_of_only (only_execReadStatus (by simp) s)
  case readRecord n => exact onMeterPage_of_only (only_execReadRecord (by simp) n s)
  case readCert n => exact onMeterPage_of_only (only_execReadCert (by simp) n s)
  case updateFw img => exact onMeterPage_of_only (only_execUpdateFw (by simp) img s)
  all_goals cases hc

/-! ### States of quarters -/

theorem setQuarter_quarter_st (s : State) (d q : Nat) {x : QuarterSt} (h : x.st = (s.quarter d q).st) (e r : Nat) :
    ((s.setQuarter d q x).quarter e r).st = (s.quarter e r).st := by
  by_cases hk : 4 * e + r = 4 * d + q
  · simp only [State.quarter, State.setQuarter, hk, SMap.get_set_same] at h ⊢
    exact h
  · simp only [State.quarter, State.setQuarter, SMap.get_set_other _ _ _ hk]

theorem divideGroup_quarter_st (s : State) (j : Nat) (b : Bool) (d q : Nat) :
    ((s.divideGroup j b).quarter d q).st = (s.quarter d q).st := by
  have hstep (t : State) (l : List Nat) : ((l.foldl (fun t i =>
      let x := t.quarter ((8 * j + i) / 4) ((8 * j + i) % 4)
      if x.clock then t.setQuarter ((8 * j + i) / 4) ((8 * j + i) % 4) { x with div4 := b } else t) t).quarter d q).st =
        (t.quarter d q).st := by
    induction l generalizing t with
    | nil => rfl
    | cons i r ih =>
      refine (ih _).trans ?_
      dsimp only
      split
      · exact setQuarter_quarter_st t _ _ (x := { t.quarter ((8 * j + i) / 4) ((8 * j + i) % 4) with div4 := b }) rfl d q
      · rfl
  exact hstep _ _

/-- The answer leaves the state of every quarter as it was. -/
def QuartersStay (s : State) (r : Host.Outcome State Fault Refusal) : Prop :=
  ∀ t, r = .next t → ∀ d q, (t.quarter d q).st = (s.quarter d q).st

theorem quartersStay_next (s : State) : QuartersStay s (.next s) := by
  rintro t ⟨⟩ d q
  rfl

theorem quartersStay_ok {s u : State} (h : ∀ d q, (u.quarter d q).st = (s.quarter d q).st) : QuartersStay s (s.ok u) := by
  rintro t ⟨⟩
  exact h

theorem quartersStay_of_only {s : State} {r : Host.Outcome State Fault Refusal} (h : Only (allBut .quarters) s r) :
    QuartersStay s r :=
  fun t ht d q => by rw [quarter_of_mask (h t ht)]

theorem quartersStay_execTempSample (d : Die) (q : Qtr) (qc : BitVec 10) (s : State) :
    QuartersStay s (execTempSample d q qc s) := by
  unfold execTempSample
  split
  · exact quartersStay_next s
  · refine quartersStay_ok fun e r => ?_
    split
    · rw [quarter_of_mask (mask_count (by simp) _ _ _ _), quarter_of_mask (mask_raise (by simp) _ _ _)]
      exact setQuarter_quarter_st s _ _ (by rfl) e r
    · exact setQuarter_quarter_st s _ _ (by rfl) e r

theorem quartersStay_execCapdownGroupStep (s : State) : QuartersStay s (execCapdownGroupStep s) := by
  have hdiv (j : Nat) (b : Bool) : QuartersStay s (s.ok (s.divideGroup j b)) :=
    quartersStay_ok fun d q => divideGroup_quarter_st s j b d q
  unfold execCapdownGroupStep
  split
  · split
    · exact hdiv _ _
    · exact quartersStay_next s
  · split
    · split
      · exact hdiv _ _
      · exact quartersStay_next s
    · exact quartersStay_next s

theorem quartersStay_of_powerStep {c : Instr} (hc : powerStep c = true) (s : State) : QuartersStay s (exec c s) := by
  cases c
  case vinOutOfRange mv => exact quartersStay_of_only (only_execVinOutOfRange (by simp) mv s)
  case vinRecover mv => exact quartersStay_of_only (only_execVinRecover (by simp) mv s)
  case capWindowEnd w mv da => exact quartersStay_of_only (only_execCapWindowEnd (by simp) w mv da s)
  case stepLower => exact quartersStay_of_only (only_execStepLower (by simp) s)
  case capdownAssert => exact quartersStay_of_only (only_execCapdownAssert (by simp) s)
  case capdownRelease => exact quartersStay_of_only (only_execCapdownRelease (by simp) s)
  case capdownGroupStep => exact quartersStay_execCapdownGroupStep s
  case slewInterval da => exact quartersStay_of_only (only_execSlewInterval (by simp) da s)
  case tempSample d q qc => exact quartersStay_execTempSample d q qc s
  case ceilingStep => exact quartersStay_of_only (only_execCeilingStep (by simp) s)
  all_goals cases hc

/-! ### States of wales -/

theorem setWale_wale_st (s : State) (w : Nat) {x : WaleSt} (h : x.st = (s.wale w).st) (v : Nat) :
    ((s.setWale w x).wale v).st = (s.wale v).st := by
  by_cases hv : v = w
  · rw [hv, setWale_wale_same, h]
  · rw [setWale_wale_other s hv]

theorem holdGroup_wale_st (s : State) (w : Nat) (ba : Bool) (g : Nat) (b : Bool) (v : Nat) :
    ((s.holdGroup w ba g b).wale v).st = (s.wale v).st := setWale_wale_st s w (by rfl) v

/-- The answer leaves the state of every wale as it was. -/
def WalesStay (s : State) (r : Host.Outcome State Fault Refusal) : Prop :=
  ∀ t, r = .next t → ∀ w, (t.wale w).st = (s.wale w).st

theorem walesStay_next (s : State) : WalesStay s (.next s) := by
  rintro t ⟨⟩ w
  rfl

theorem walesStay_ok {s u : State} (h : ∀ w, (u.wale w).st = (s.wale w).st) : WalesStay s (s.ok u) := by
  rintro t ⟨⟩
  exact h

theorem walesStay_ite {c : Prop} [Decidable c] {s : State} {o r : Host.Outcome State Fault Refusal} (ho : WalesStay s o)
    (hr : WalesStay s r) : WalesStay s (if c then o else r) := by
  split <;> assumption

theorem retireLane_wale_st (s : State) (w : Nat) (ba : Bool) (g lane v : Nat) :
    ((s.retireLane w ba g lane).wale v).st = (s.wale v).st := by
  let s1 := s.repair 3 (waleEnds w).1 w (laneCode ba g lane)
  have hrepair (u : Nat) : s1.wale u = s.wale u := wale_of_mask (mask_repair (by simp) _ _ _ _ _) u
  have hlane (y : WaleSt) (b : Bool) (k code : Nat) (hy : y.st = (s.wale w).st) :
      (((((s1.setWale w y).holdGroup w ba g b).lastLane w k ba g lane).raise (pgWale w) code).wale v).st =
        (s.wale v).st := by
    rw [wale_of_mask (mask_raise (by simp) _ _ _), wale_of_mask (mask_lastLane (by simp) _ _ _ _ _ _), holdGroup_wale_st,
      setWale_wale_st _ _ (by rw [hy, hrepair]), hrepair]
  have hbroken (t : State) : (((t.lastLane w 3 ba g lane).raise (pgWale w) 0x0403).wale v).st = (t.wale v).st := by
    rw [wale_of_mask (mask_raise (by simp) _ _ _), wale_of_mask (mask_lastLane (by simp) _ _ _ _ _ _)]
  have hassume (t : State) : ((t.noteAssume).wale v).st = (t.wale v).st := by
    rw [wale_of_mask (mask_noteAssume (by simp) t)]
  cases ba <;> simp only [State.retireLane, Bool.false_eq_true, if_false, if_true]
  all_goals
    split
    · exact hlane _ _ _ _ rfl
    · split
      · exact (hassume _).trans ((hbroken _).trans (hlane _ _ _ _ rfl))
      · exact (hassume _).trans (hlane _ _ _ _ rfl)

theorem walesStay_of_waleLane {c : Instr} (hc : waleLane c = true) (s : State) : WalesStay s (exec c s) := by
  cases c
  case flitResendFail w dir g =>
    refine walesStay_ite (walesStay_next s) (walesStay_ok fun v => ?_)
    rw [wale_of_mask (mask_incSat (by simp) _ _ _ _), wale_of_mask (mask_count (by simp) _ _ _ _), holdGroup_wale_st]
  case retrainDone w dir g =>
    refine walesStay_ite (walesStay_next s) (walesStay_ok fun v => ?_)
    rw [wale_of_mask (mask_freeNext (by simp) _), wale_of_mask (mask_lastLane (by simp) _ _ _ _ _ _), holdGroup_wale_st]
  case laneError w dir g lane =>
    refine walesStay_ite (walesStay_next s) (walesStay_ite (walesStay_ok fun v => rfl) (walesStay_ok fun v => ?_))
    exact retireLane_wale_st _ _ _ _ _ v
  case laneWindowExpiry w dir g lane => exact walesStay_ok fun v => rfl
  case laneSwapDone w dir g =>
    exact walesStay_ite (walesStay_next s) (walesStay_ok fun v => holdGroup_wale_st s _ _ _ _ v)
  all_goals cases hc

/-! ### The two frames -/

/-- Settles O31, from the parts that the commands of streams and rounds may change. -/
theorem streamRoundFrame : Obligations.StreamRoundFrame := by
  intro c s t hc ht
  have hframe := frame_of_only [.free, .regs, .cnt, .changes, .errNotes, .mem, .scrub, .stalls, .streams, .stores,
    .rounds, .breaches, .weights, .flows, .bnd, .ledgers, .lastFault]
    (only_exec_of_streamRound (by simp [among]) hc s) ht
  exact ⟨frame_of_only [.free, .regs, .cnt, .changes, .errNotes, .hostRest, .mem, .scrub, .stalls, .streams, .stores,
    .rounds, .roundsRest, .breaches, .assume, .check, .progRest, .weights, .keys, .flows, .bnd, .ledgers, .lastFault,
    .repairs, .talk, .keeperRest] (only_exec_of_streamRound (by simp [among]) hc s) ht,
    congrArg (·.prog.pst) hframe, congrArg (·.rounds.path) hframe, congrArg (·.weights.keys) hframe,
    congrArg (·.keeper.memberGen) hframe⟩

theorem meterOnly_frame {c : Instr} {s t : State} (hc : meterOnly c = true) (ht : exec c s = .next t) :
    t = { s with out := t.out, free := t.free, regs := t.regs, cnt := t.cnt, bnd := t.bnd, meter := t.meter
                 keeper := { s.keeper with lastFault := t.keeper.lastFault }
                 host := { s.host with changes := t.host.changes } } :=
  frame_of_only [.out, .free, .regs, .cnt, .changes, .bnd, .lastFault, .tally, .meter]
    (only_exec_of_meterOnly (by simp [among]) hc s) ht

theorem keeperTalk_frame {c : Instr} {s t : State} (hc : keeperTalk c = true) (ht : exec c s = .next t) :
    t = { s with out := t.out, free := t.free, regs := t.regs, cnt := t.cnt, bnd := t.bnd, pins := t.pins
                 pwr := { s.pwr with keeperCap := t.pwr.keeperCap }, keeper := t.keeper, sec := t.sec
                 host := { s.host with changes := t.host.changes } } :=
  frame_of_only [.out, .free, .regs, .cnt, .changes, .bnd, .prsnt, .pwrOk, .idLed, .keeperCap, .lastFault, .repairs, .talk,
    .keeperRest, .offers, .secRest] (only_exec_of_keeperTalk (by simp [among]) hc s) ht

theorem keeperTalk_keeps {c : Instr} {s t : State} (hc : keeperTalk c = true) (ht : exec c s = .next t) :
    t.keeper.bring = s.keeper.bring ∧ t.keeper.withdrawn = s.keeper.withdrawn ∧
    t.keeper.repairs = s.keeper.repairs ∧ t.sec.svnFuse = s.sec.svnFuse := by
  have hframe := frame_of_only [.out, .free, .regs, .cnt, .changes, .bnd, .idLed, .keeperCap, .lastFault, .talk, .offers]
    (only_exec_of_keeperTalk (by simp [among]) hc s) ht
  exact ⟨congrArg (·.keeper.bring) hframe, congrArg (·.keeper.withdrawn) hframe, congrArg (·.keeper.repairs) hframe,
    congrArg (·.sec.svnFuse) hframe⟩

theorem powerStep_frame {c : Instr} {s t : State} (hc : powerStep c = true) (ht : exec c s = .next t) :
    t = { s with free := t.free, regs := t.regs, cnt := t.cnt, bnd := t.bnd, quarters := t.quarters, pwr := t.pwr
                 pins := { s.pins with pwrOk := t.pins.pwrOk }
                 keeper := { s.keeper with lastFault := t.keeper.lastFault }
                 host := { s.host with changes := t.host.changes } } :=
  frame_of_only [.free, .regs, .cnt, .changes, .bnd, .quarters, .keeperCap, .pwr, .pwrRest, .pwrOk, .lastFault]
    (only_exec_of_powerStep (by simp [among]) hc s) ht

theorem powerStep_input {c : Instr} {s t : State} (hc : powerStep c = true) (ht : exec c s = .next t) :
    t.pwr.input = s.pwr.input :=
  congrArg (·.pwr.input) (frame_of_only [.free, .regs, .cnt, .changes, .bnd, .quarters, .pwr, .pwrOk, .lastFault]
    (only_exec_of_powerStep (by simp [among]) hc s) ht)

theorem waleLane_frame {c : Instr} {s t : State} (hc : waleLane c = true) (ht : exec c s = .next t) :
    t = { s with free := t.free, regs := t.regs, cnt := t.cnt, bnd := t.bnd, wales := t.wales
                 prog := { s.prog with capBelow := t.prog.capBelow, scrubAbv := t.prog.scrubAbv }
                 keeper := { s.keeper with lastFault := t.keeper.lastFault, repairs := t.keeper.repairs }
                 host := { s.host with changes := t.host.changes } } :=
  frame_of_only [.free, .regs, .cnt, .changes, .assume, .bnd, .wales, .lastFault, .repairs]
    (only_exec_of_waleLane (by simp [among]) hc s) ht

theorem memoryWork_frame {c : Instr} {s t : State} (hc : memoryWork c = true) (ht : exec c s = .next t) :
    t = { s with out := t.out, regs := t.regs, cnt := t.cnt, mem := t.mem, scrub := t.scrub, bnd := t.bnd
                 prog := { s.prog with check := t.prog.check }
                 keeper := { s.keeper with lastFault := t.keeper.lastFault }, host := t.host } :=
  frame_of_only [.out, .regs, .cnt, .changes, .errNotes, .hostRest, .mem, .scrub, .check, .bnd, .lastFault]
    (only_exec_of_memoryWork (by simp [among]) hc s) ht

theorem memoryWork_keeps {c : Instr} {s t : State} (hc : memoryWork c = true) (ht : exec c s = .next t) :
    t.host.linkUp = s.host.linkUp ∧ t.host.d3hot = s.host.d3hot ∧ t.host.held = s.host.held := by
  have hframe := frame_of_only [.out, .regs, .cnt, .changes, .errNotes, .mem, .scrub, .check, .bnd, .lastFault]
    (only_exec_of_memoryWork (by simp [among]) hc s) ht
  exact ⟨congrArg (·.host.linkUp) hframe, congrArg (·.host.d3hot) hframe, congrArg (·.host.held) hframe⟩

theorem dataWork_frame {c : Instr} {s t : State} (hc : dataWork c = true) (ht : exec c s = .next t) :
    t = { s with out := t.out, free := t.free, regs := t.regs, cnt := t.cnt, host := t.host, mem := t.mem
                 scrub := t.scrub, stalls := t.stalls, streams := t.streams, stores := t.stores
                 rounds := t.rounds, prog := t.prog, weights := t.weights, red := t.red, ports := t.ports
                 flows := t.flows, bnd := t.bnd, ledgers := t.ledgers, keeper := t.keeper } :=
  frame_of_only [.out, .free, .regs, .cnt, .changes, .errNotes, .hostRest, .mem, .scrub, .stalls, .streams, .stores,
    .rounds, .roundsRest, .breaches, .assume, .check, .progRest, .keys, .weights, .red, .ports, .flows, .bnd, .ledgers,
    .lastFault, .repairs, .talk, .keeperRest] (only_exec_of_dataWork (by simp [among]) hc s) ht

/-- Settles O60, family by family. -/
theorem familyFrames : Obligations.FamilyFrames :=
  ⟨fun _ s t hc ht => ⟨meterOnly_frame hc ht, onMeterPage_of_meterOnly hc s t ht⟩,
    fun _ _ _ hc ht => ⟨keeperTalk_frame hc ht, keeperTalk_keeps hc ht⟩,
    fun _ s t hc ht => ⟨powerStep_frame hc ht, powerStep_input hc ht, quartersStay_of_powerStep hc s t ht⟩,
    fun _ s t hc ht => ⟨waleLane_frame hc ht, walesStay_of_waleLane hc s t ht⟩,
    fun _ _ _ hc ht => ⟨memoryWork_frame hc ht, memoryWork_keeps hc ht⟩,
    fun _ _ _ hc ht => dataWork_frame hc ht⟩

end Sys2Proof.Machine
end

section
/-! SUPPORT. Facts that the statements on single commands share: fields of registers, faults of pages that are no
die's, what a next state holds. -/

namespace Sys2Proof.Machine

/-! ### Completing -/

theorem Completes.of_ok {c : Instr} {s u : State} {P : State → Prop} (hx : exec c s = s.ok u) (hP : P (s.finish u)) :
    Completes c s P :=
  ⟨_, hx, hP⟩

theorem Gives.of_ok {c : Instr} {s t : State} (hx : exec c s = s.ok t) : Gives c s t := hx

/-- A state that differs from another in listed parts alone. -/
def SameBut (l : List Part) (s t : State) : Prop := t.mask (among l) = s.mask (among l)

theorem SameBut.frame {l : List Part} {s t : State} (h : SameBut l s t) : t = s.take (among l) t := State.eq_take h

/-! ### Other parts left alone -/

theorem out_of_mask {s t : State} (h : t.mask (allBut .out) = s.mask (allBut .out)) : t.out = s.out :=
  (congrArg State.out h :)

theorem free_of_mask {s t : State} (h : t.mask (allBut .free) = s.mask (allBut .free)) : t.free = s.free :=
  (congrArg State.free h :)

theorem cnt_of_mask {s t : State} (h : t.mask (allBut .cnt) = s.mask (allBut .cnt)) : t.cnt = s.cnt :=
  (congrArg State.cnt h :)

theorem scrub_of_mask {s t : State} (h : t.mask (allBut .scrub) = s.mask (allBut .scrub)) : t.scrub = s.scrub :=
  (congrArg State.scrub h :)

theorem dies_of_mask {s t : State} (h : t.mask (allBut .dies) = s.mask (allBut .dies)) : t.dies = s.dies :=
  (congrArg State.dies h :)

theorem arcs_of_mask {s t : State} (h : t.mask (allBut .arcs) = s.mask (allBut .arcs)) : t.arcs = s.arcs :=
  (congrArg State.arcs h :)

theorem streams_of_mask {s t : State} (h : t.mask (allBut .streams) = s.mask (allBut .streams)) : t.streams = s.streams :=
  (congrArg State.streams h :)

theorem stores_of_mask {s t : State} (h : t.mask (allBut .stores) = s.mask (allBut .stores)) : t.stores = s.stores :=
  (congrArg State.stores h :)

theorem red_of_mask {s t : State} (h : t.mask (allBut .red) = s.mask (allBut .red)) : t.red = s.red :=
  (congrArg State.red h :)

theorem ports_of_mask {s t : State} (h : t.mask (allBut .ports) = s.mask (allBut .ports)) : t.ports = s.ports :=
  (congrArg State.ports h :)

theorem flows_of_mask {s t : State} (h : t.mask (allBut .flows) = s.mask (allBut .flows)) : t.flows = s.flows :=
  (congrArg State.flows h :)

theorem bnd_of_mask {s t : State} (h : t.mask (allBut .bnd) = s.mask (allBut .bnd)) : t.bnd = s.bnd :=
  (congrArg State.bnd h :)

theorem ledgers_of_mask {s t : State} (h : t.mask (allBut .ledgers) = s.mask (allBut .ledgers)) : t.ledgers = s.ledgers :=
  (congrArg State.ledgers h :)

theorem shut_of_mask {s t : State} (h : t.mask (allBut .shut) = s.mask (allBut .shut)) : t.shut = s.shut :=
  (congrArg State.shut h :)

/-! ### What a next state holds, read by its accessors -/

@[simp] theorem finish_die (s t : State) (d : Nat) : (s.finish t).die d = t.die d := rfl
@[simp] theorem finish_arc (s t : State) (d q a : Nat) : (s.finish t).arc d q a = t.arc d q a := rfl
@[simp] theorem finish_stream (s t : State) (d u st : Nat) : (s.finish t).stream d u st = t.stream d u st := rfl
@[simp] theorem finish_roundCtx (s t : State) (d c : Nat) : (s.finish t).roundCtx d c = t.roundCtx d c := rfl
@[simp] theorem finish_fetch (s t : State) (d e : Nat) : (s.finish t).fetch d e = t.fetch d e := rfl
@[simp] theorem finish_ingest (s t : State) (d : Nat) : (s.finish t).ingest d = t.ingest d := rfl
@[simp] theorem finish_keySlot (s t : State) (d k : Nat) : (s.finish t).keySlot d k = t.keySlot d k := rfl
@[simp] theorem finish_dieBasket (s t : State) (d b : Nat) : (s.finish t).dieBasket d b = t.dieBasket d b := rfl
@[simp] theorem finish_basket (s t : State) (b : Nat) : (s.finish t).basket b = t.basket b := rfl
@[simp] theorem finish_level (s t : State) (d k : Nat) : (s.finish t).level d k = t.level d k := rfl
@[simp] theorem finish_port (s t : State) (p : Nat) : (s.finish t).port p = t.port p := rfl
@[simp] theorem finish_flow (s t : State) (p f : Nat) : (s.finish t).flow p f = t.flow p f := rfl
@[simp] theorem finish_bctx (s t : State) (c : Nat) : (s.finish t).bctx c = t.bctx c := rfl
@[simp] theorem finish_pbundle (s t : State) (n : Nat) : (s.finish t).pbundle n = t.pbundle n := rfl
@[simp] theorem finish_ledger (s t : State) (d cls i : Nat) : (s.finish t).ledger d cls i = t.ledger d cls i := rfl
@[simp] theorem finish_scrubber (s t : State) (d : Nat) : (s.finish t).scrubber d = t.scrubber d := rfl
@[simp] theorem finish_counter (s t : State) (p i : Nat) : (s.finish t).counter p i = t.counter p i := rfl
@[simp] theorem finish_quarter (s t : State) (d q : Nat) : (s.finish t).quarter d q = t.quarter d q := rfl
@[simp] theorem finish_wale (s t : State) (w : Nat) : (s.finish t).wale w = t.wale w := rfl

theorem die_of_mask {s t : State} (h : t.mask (allBut .dies) = s.mask (allBut .dies)) (d : Nat) :
    t.die d = s.die d := by
  have hpart : t.dies = s.dies := (congrArg (·.dies) h :)
  simp only [State.die, hpart]

theorem slot_of_mask {s t : State} (h : t.mask (allBut .stalls) = s.mask (allBut .stalls)) (d p : Nat) :
    t.slot d p = s.slot d p := by
  have hpart : t.stalls = s.stalls := (congrArg (·.stalls) h :)
  simp only [State.slot, hpart]

theorem arc_of_mask {s t : State} (h : t.mask (allBut .arcs) = s.mask (allBut .arcs)) (d q a : Nat) :
    t.arc d q a = s.arc d q a := by
  have hpart : t.arcs = s.arcs := (congrArg (·.arcs) h :)
  simp only [State.arc, hpart]

theorem stream_of_mask {s t : State} (h : t.mask (allBut .streams) = s.mask (allBut .streams)) (d u st : Nat) :
    t.stream d u st = s.stream d u st := by
  have hpart : t.streams = s.streams := (congrArg (·.streams) h :)
  simp only [State.stream, hpart]

theorem roundCtx_of_mask {s t : State} (h : t.mask (allBut .rounds) = s.mask (allBut .rounds)) (d c : Nat) :
    t.roundCtx d c = s.roundCtx d c := by
  have hpart : t.rounds.ctx = s.rounds.ctx := (congrArg (·.rounds.ctx) h :)
  simp only [State.roundCtx, hpart]

theorem fetch_of_mask {s t : State} (h : t.mask (allBut .weights) = s.mask (allBut .weights)) (d e : Nat) :
    t.fetch d e = s.fetch d e := by
  have hpart : t.weights.fetch = s.weights.fetch := (congrArg (·.weights.fetch) h :)
  simp only [State.fetch, hpart]

theorem ingest_of_mask {s t : State} (h : t.mask (allBut .weights) = s.mask (allBut .weights)) (d : Nat) :
    t.ingest d = s.ingest d := by
  have hpart : t.weights.ingest = s.weights.ingest := (congrArg (·.weights.ingest) h :)
  simp only [State.ingest, hpart]

theorem keySlot_of_mask {s t : State} (h : t.mask (allBut .keys) = s.mask (allBut .keys)) (d k : Nat) :
    t.keySlot d k = s.keySlot d k := by
  have hpart : t.weights.keys = s.weights.keys := (congrArg (·.weights.keys) h :)
  simp only [State.keySlot, hpart]

theorem dieBasket_of_mask {s t : State} (h : t.mask (allBut .red) = s.mask (allBut .red)) (d b : Nat) :
    t.dieBasket d b = s.dieBasket d b := by
  have hpart : t.red = s.red := (congrArg (·.red) h :)
  simp only [State.dieBasket, hpart]

theorem basket_of_mask {s t : State} (h : t.mask (allBut .red) = s.mask (allBut .red)) (b : Nat) :
    t.basket b = s.basket b := by
  have hpart : t.red = s.red := (congrArg (·.red) h :)
  simp only [State.basket, hpart]

theorem level_of_mask {s t : State} (h : t.mask (allBut .red) = s.mask (allBut .red)) (d k : Nat) :
    t.level d k = s.level d k := by
  have hpart : t.red = s.red := (congrArg (·.red) h :)
  simp only [State.level, hpart]

theorem port_of_mask {s t : State} (h : t.mask (allBut .ports) = s.mask (allBut .ports)) (p : Nat) :
    t.port p = s.port p := by
  have hpart : t.ports = s.ports := (congrArg (·.ports) h :)
  simp only [State.port, hpart]

theorem flow_of_mask {s t : State} (h : t.mask (allBut .flows) = s.mask (allBut .flows)) (p f : Nat) :
    t.flow p f = s.flow p f := by
  have hpart : t.flows = s.flows := (congrArg (·.flows) h :)
  simp only [State.flow, hpart]

theorem bctx_of_mask {s t : State} (h : t.mask (allBut .bnd) = s.mask (allBut .bnd)) (c : Nat) :
    t.bctx c = s.bctx c := by
  have hpart : t.bnd = s.bnd := (congrArg (·.bnd) h :)
  simp only [State.bctx, hpart]

theorem pbundle_of_mask {s t : State} (h : t.mask (allBut .bnd) = s.mask (allBut .bnd)) (n : Nat) :
    t.pbundle n = s.pbundle n := by
  have hpart : t.bnd = s.bnd := (congrArg (·.bnd) h :)
  simp only [State.pbundle, hpart]

theorem ledger_of_mask {s t : State} (h : t.mask (allBut .ledgers) = s.mask (allBut .ledgers)) (d cls i : Nat) :
    t.ledger d cls i = s.ledger d cls i := by
  have hpart : t.ledgers = s.ledgers := (congrArg (·.ledgers) h :)
  simp only [State.ledger, hpart]

theorem scrubber_of_mask {s t : State} (h : t.mask (allBut .scrub) = s.mask (allBut .scrub)) (d : Nat) :
    t.scrubber d = s.scrubber d := by
  have hpart : t.scrub = s.scrub := (congrArg (·.scrub) h :)
  simp only [State.scrubber, hpart]

theorem counter_of_mask {s t : State} (h : t.mask (allBut .cnt) = s.mask (allBut .cnt)) (p i : Nat) :
    t.counter p i = s.counter p i := by
  have hpart : t.cnt = s.cnt := (congrArg (·.cnt) h :)
  simp only [State.counter, hpart]

/-! ### Fields -/

/-- A word with a field replaced: the bits above it, the field, the bits below it. -/
theorem withField_toNat (w : Word) {hi lo : Nat} (v : Nat) (hlo : lo ≤ hi) (hhi : hi < 32) :
    (withField w hi lo v).toNat =
      (w.toNat / 2 ^ lo / 2 ^ (hi - lo + 1) * 2 ^ (hi - lo + 1) + v % 2 ^ (hi - lo + 1)) * 2 ^ lo + w.toNat % 2 ^ lo := by
  have hsplit : 2 ^ 32 = 2 ^ (32 - (hi + 1)) * (2 ^ (hi - lo + 1) * 2 ^ lo) := by
    rw [← Nat.pow_add, ← Nat.pow_add]
    congr 1
    omega
  simp only [withField, fieldOf, BitVec.toNat_ofNat]
  have hw := w.isLt
  rw [hsplit] at hw ⊢
  generalize w.toNat = x at hw ⊢
  have hm : 0 < 2 ^ (hi - lo + 1) := by positivity
  have hp : 0 < 2 ^ lo := by positivity
  generalize 2 ^ (hi - lo + 1) = m at *
  generalize 2 ^ lo = p at *
  generalize 2 ^ (32 - (hi + 1)) = k at *
  have hxp := Nat.div_add_mod x p
  have hxm := Nat.div_add_mod (x / p) m
  have hlow : x % p < p := Nat.mod_lt _ hp
  have hv : v % m < m := Nat.mod_lt _ hm
  have htop : x / p / m < k := by
    rw [Nat.div_div_eq_div_mul, Nat.div_lt_iff_lt_mul (by positivity)]
    nlinarith
  have hsum : x - x / p % m * p + v % m * p = (x / p / m * m + v % m) * p + x % p := by
    have hx : x = (x / p / m * m + x / p % m) * p + x % p := by nlinarith
    have hle : x / p % m * p ≤ x := (Nat.mul_le_mul_right p (Nat.mod_le _ _)).trans (Nat.div_mul_le_self x p)
    zify [hle]
    zify at hx
    linarith
  rw [hsum, Nat.mod_eq_of_lt]
  nlinarith [Nat.mul_le_mul_right (m * p) (Nat.succ_le_of_lt htop), Nat.mul_le_mul_right p (Nat.succ_le_of_lt hv)]

theorem fieldOf_withField (w : Word) {hi lo v : Nat} (hlo : lo ≤ hi) (hhi : hi < 32) (hv : v < 2 ^ (hi - lo + 1)) :
    fieldOf (withField w hi lo v) hi lo = v := by
  have hp : 0 < 2 ^ lo := by positivity
  rw [fieldOf, withField_toNat w v hlo hhi, Nat.add_comm (_ * 2 ^ lo), Nat.add_mul_div_right _ _ hp,
    Nat.div_eq_of_lt (Nat.mod_lt _ hp), Nat.zero_add, Nat.mul_add_mod_self_right, Nat.mod_mod, Nat.mod_eq_of_lt hv]

theorem pokeField_regField (s : State) (page off : Nat) {hi lo v : Nat} (hlo : lo ≤ hi) (hhi : hi < 32)
    (hv : v < 2 ^ (hi - lo + 1)) : (s.pokeField page off hi lo v).regField page off hi lo = v := by
  rw [State.regField, State.pokeField, poke_reg_same, fieldOf_withField _ hlo hhi hv]

/-! ### Faults of pages that are no die's -/

theorem raise_of_engine_page (s : State) {page : Nat} (code : Nat) (hp : isDiePage page = false) :
    s.raise page code = (s.recordFault page code).tellFault page code := by
  rw [raise_eq s code (by simp [hp]), State.recordLastFault, hp]
  rfl

theorem recordFault_eq_poke (s : State) (page code : Nat) : ∃ r, s.recordFault page code = { s with regs := r } := by
  unfold State.recordFault
  split <;> exact ⟨_, rfl⟩

theorem tellFault_eq (s : State) (page code : Nat) :
    ∃ b, s.tellFault page code = { s with keeper := { s.keeper with lastFault := BitVec.ofNat 16 code }, bnd := b } := by
  unfold State.tellFault
  dsimp only
  split <;> exact ⟨_, rfl⟩

/-- A fault of a page that is no die's changes registers, LAST_FAULT and what bundles note. -/
theorem raise_engine_eq (s : State) {page : Nat} (code : Nat) (hp : isDiePage page = false) :
    ∃ r b, s.raise page code =
      { s with regs := r, keeper := { s.keeper with lastFault := BitVec.ofNat 16 code }, bnd := b } := by
  obtain ⟨r, hr⟩ := recordFault_eq_poke s page code
  obtain ⟨b, hb⟩ := tellFault_eq (s.recordFault page code) page code
  exact ⟨r, b, by rw [raise_of_engine_page s code hp, hb, hr]⟩

/-- A fault of a page that is no die's leaves the registers above the header. -/
theorem raise_engine_reg (s : State) {page : Nat} (code : Nat) (hp : isDiePage page = false) (q : Nat) {o : Nat}
    (ho : o < 4096) (hkey : o ≠ rFault) (hfirst : o ≠ rFaultFirst) : (s.raise page code).reg q o = s.reg q o := by
  rw [raise_of_engine_page s code hp, tellFault_reg, State.recordFault]
  have hf : regKey q o ≠ regKey page rFault := regKey_ne_of_off_ne ho (by decide) hkey
  have hff : regKey q o ≠ regKey page rFaultFirst := regKey_ne_of_off_ne ho (by decide) hfirst
  split
  · rw [poke_reg_other _ hff, poke_reg_other _ hf]
  · rw [poke_reg_other _ hf]

theorem raise_engine_lastCode (s : State) {page code : Nat} (hp : isDiePage page = false) (hc : code < 2 ^ 16) :
    fieldOf ((s.raise page code).reg page rFault) 31 16 = code := by
  rw [raise_of_engine_page s code hp, tellFault_reg, recordFault_reg_fault, fieldOf_faultWord_lastCode _ hc]

end Sys2Proof.Machine
end

section
/-! SUPPORT. Power (R364 to R370): the input, cap windows, the ARITH step and CAPDOWN_N. -/

namespace Sys2Proof.Machine

/-! ### The input -/

theorem vinOutOfRange_completes (s : State) (mv : BitVec 16) (hin : s.pwr.input = true) (hok : s.pwr.vinOk = true)
    (hmv : vinGood mv = false) :
    Completes (.vinOutOfRange mv) s fun t =>
      t.pwr = { s.pwr with vinOk := false, vinCap := true } ∧ t.capInForce ≤ 8000 ∧ t.pins.pwrOk = false ∧
      fieldOf (t.reg pgPower rFault) 31 16 = 0x0704 ∧ t.regField pgPower 0x04C 15 0 = mv.toNat ∧
      t = { s with regs := t.regs, bnd := t.bnd, pwr := t.pwr, pins := t.pins
                   keeper := { s.keeper with lastFault := 0x0704 }
                   host := { s.host with changes := t.host.changes } } := by
  have hp : isDiePage pgPower = false := rfl
  let s0 := s.pokeField pgPower 0x04C 15 0 mv.toNat
  let s1 := s0.raise pgPower 0x0704
  obtain ⟨r, b, hraise⟩ := raise_engine_eq s0 0x0704 hp
  have hs1 : s1 = { s with regs := r, keeper := { s.keeper with lastFault := 0x0704 }, bnd := b } := hraise
  have hcode : fieldOf (s1.reg pgPower rFault) 31 16 = 0x0704 := raise_engine_lastCode s0 hp (by decide)
  have hvolts : s1.regField pgPower 0x04C 15 0 = mv.toNat := by
    rw [State.regField, raise_engine_reg s0 0x0704 hp pgPower (by decide) (by decide) (by decide)]
    exact pokeField_regField s pgPower 0x04C (by decide) (by decide) mv.isLt
  have hx : execVinOutOfRange mv s =
      s.ok ({ s1 with pwr := { s1.pwr with vinOk := false, vinCap := true } } : State).pwrCheck := by
    simp [execVinOutOfRange, hin, hok, hmv, s1, s0]
  clear_value s1
  subst hs1
  refine .of_ok hx ⟨rfl, ?_, ?_, hcode, hvolts, rfl⟩
  · simp [State.capInForce, State.pwrCheck, State.finish]
  · simp [State.pwrCheck, State.finish]

theorem vinRecover_completes (s : State) (mv : BitVec 16) (hin : s.pwr.input = true) (hok : s.pwr.vinOk = false)
    (hmv : vinGood mv = true) :
    Completes (.vinRecover mv) s fun t =>
      t.pwr = { s.pwr with vinOk := true, vinCap := false } ∧ t.pins.pwrOk = decide (7 ≤ s.keeper.bring) ∧
      t = { s with regs := t.regs, pwr := t.pwr, pins := t.pins
                   host := { s.host with changes := t.host.changes } } := by
  let s1 := s.pokeField pgPower 0x04C 15 0 mv.toNat
  have hx : execVinRecover mv s =
      s.ok ({ s1 with pwr := { s1.pwr with vinOk := true, vinCap := false } } : State).pwrCheck := by
    simp [execVinRecover, hin, hok, hmv, s1]
  refine .of_ok hx ⟨rfl, ?_, rfl⟩
  simp [State.pwrCheck, State.finish, s1, State.pokeField, hin]

theorem vinLoss_completes (s : State) (hin : s.pwr.input = true) :
    Completes .vinLoss s fun t =>
      t.pwr.input = false ∧ t.mem.bytes = [] ∧ t.prog = Prog.reset ∧ t.pins.pwrOk = false ∧
      t.keeper.log = s.keeper.log ∧ t.keeper.repairs = s.keeper.repairs ∧ t.keeper.powerOns = s.keeper.powerOns ∧
      t.sec.svnFuse = s.sec.svnFuse ∧ t.meter.total = s.meter.total ∧ t.meter.records = s.meter.records ∧
      t.out = s.out ++ [.final (tallies s.meter.tally.work) (tallies s.meter.tally.ballast)] ∧
      t.pending = s.pending := by
  let s1 := s.sendFinal false
  let s2 : State := { s1 with
    keeper := { s1.keeper with lost36 := true }
    meter := { s1.meter with low := s1.meter.started } }
  have hx : execVinLoss s = s.ok s2.powerOff := by
    simp [execVinLoss, hin, s1, s2]
  exact .of_ok hx ⟨rfl, rfl, rfl, rfl, rfl, rfl, rfl, rfl, rfl, rfl, rfl, rfl⟩

/-! ### Cap windows -/

theorem energy_pwr (s : State) (w : Nat) : (s.energy w).pwr = { s.pwr with frac := (s.pwr.frac + w) % 10000 } := rfl

theorem energy_counter (s : State) (w : Nat) :
    (s.energy w).counter pgPower 0 = s.counter pgPower 0 + BitVec.ofNat 64 ((s.pwr.frac + w) / 10000) := by
  simp only [State.energy, count_counter_same]
  rfl

/-- What a window leaves of the catch-up in progress: it joins one, or ends it. -/
def catchupRun (p : Pwr) (w c : Nat) : Option (Nat × Nat) :=
  if c < w then some ((p.run.getD (0, 0)).1 + 1, (p.run.getD (0, 0)).2 + (w - c)) else none

theorem raise_pgPower_eq (s : State) (code : Nat) :
    ∃ r b, s.raise pgPower code =
      { s with regs := r, keeper := { s.keeper with lastFault := BitVec.ofNat 16 code }, bnd := b } :=
  raise_engine_eq s code rfl

theorem catchup_pwr (s : State) (w c : Nat) : (s.catchup w c).pwr = { s.pwr with run := catchupRun s.pwr w c } := by
  unfold State.catchup catchupRun
  split
  · dsimp only
    split
    · obtain ⟨r, b, hr⟩ := raise_pgPower_eq
        { s with pwr := { s.pwr with run := some ((s.pwr.run.getD (0, 0)).1 + 1, (s.pwr.run.getD (0, 0)).2 + (w - c)) } }
        0x0706
      rw [hr]
    · rfl
  · split
    · rfl
    · next hrun => rw [← hrun]

theorem catchup_counter (s : State) (w c : Nat) : (s.catchup w c).counter pgPower 0 = s.counter pgPower 0 := by
  unfold State.catchup
  split
  · dsimp only
    split
    · obtain ⟨r, b, hr⟩ := raise_pgPower_eq
        { s with pwr := { s.pwr with run := some ((s.pwr.run.getD (0, 0)).1 + 1, (s.pwr.run.getD (0, 0)).2 + (w - c)) } }
        0x0706
      rw [hr]
      rfl
    · rfl
  · split
    · exact count_counter_other _ (by decide)
    · rfl

theorem catchup_power (s : State) (w c : Nat) : (s.catchup w c).reg pgPower 0x048 = s.reg pgPower 0x048 := by
  unfold State.catchup
  split
  · dsimp only
    split
    · exact raise_engine_reg _ _ rfl _ (by decide) (by decide) (by decide)
    · rfl
  · split
    · exact (poke_reg_other _ (by decide)).trans (poke_reg_other _ (by decide))
    · rfl

theorem control_over (s : State) {w c : Nat} (h : c < w) :
    s.control w c = { s with pwr := { s.pwr with lowering := decide (0 < s.pwr.step) } } := by
  simp [State.control, h]

theorem control_run (s : State) (w c : Nat) : (s.control w c).pwr.run = s.pwr.run := by
  unfold State.control
  split
  · rfl
  · dsimp only
    split <;> rfl

theorem control_frac (s : State) (w c : Nat) : (s.control w c).pwr.frac = s.pwr.frac := by
  unfold State.control
  split
  · rfl
  · dsimp only
    split <;> rfl

theorem control_reg (s : State) (w c p o : Nat) : (s.control w c).reg p o = s.reg p o := by
  unfold State.control
  split
  · rfl
  · dsimp only
    split <;> rfl

theorem control_counter (s : State) (w c : Nat) : (s.control w c).counter pgPower 0 = s.counter pgPower 0 := by
  unfold State.control
  split
  · rfl
  · dsimp only
    split
    · exact count_counter_other _ (by decide)
    · rfl

/-- Not over the cap, undivided: lowering ends, and the step rises by one where there is room. -/
theorem control_within (s : State) {w c : Nat} (h : w ≤ c) (hdown : s.pwr.capdown = false) (hdiv : s.pwr.divided = 0) :
    (s.control w c).pwr.lowering = false ∧
      (s.control w c).pwr.step = s.pwr.step + (if w + 250 ≤ c ∧ s.pwr.step < s.stepTop then 1 else 0) := by
  have hcond : (s.pwr.capdown || s.pwr.divided != 0 || decide (c < w)) = false := by simp [hdown, hdiv, h]
  rw [State.control, hcond]
  by_cases hroom : w + 250 ≤ c ∧ s.pwr.step < s.stepTop
  · simp [hroom, State.stepUp]
  · simp [hroom]

theorem stepTop_eq {s t : State} (hc : t.reg pgClocks 0x040 = s.reg pgClocks 0x040) (hp : t.pwr.ceil = s.pwr.ceil) :
    t.stepTop = s.stepTop := by
  simp [State.stepTop, State.regField, hc, hp]

theorem catchup_clocks (s : State) (w c : Nat) : (s.catchup w c).reg pgClocks 0x040 = s.reg pgClocks 0x040 := by
  unfold State.catchup
  split
  · dsimp only
    split
    · exact raise_engine_reg _ _ rfl _ (by decide) (by decide) (by decide)
    · rfl
  · split
    · exact (poke_reg_other _ (by decide)).trans (poke_reg_other _ (by decide))
    · rfl

theorem capWindowEnd_completes (s : State) (avg mv da : BitVec 16) (hin : s.pwr.input = true) :
    Completes (.capWindowEnd avg mv da) s fun t =>
      let w := avg.toNat
      let c := s.capInForce
      (t.reg pgPower 0x048).toNat = w ∧ t.pwr.frac = (s.pwr.frac + w) % 10000 ∧
      t.counter pgPower 0 = s.counter pgPower 0 + BitVec.ofNat 64 ((s.pwr.frac + w) / 10000) ∧
      (c < w → t.pwr.step = s.pwr.step ∧ t.pwr.lowering = decide (0 < s.pwr.step) ∧
        t.pwr.run = some ((s.pwr.run.getD (0, 0)).1 + 1, (s.pwr.run.getD (0, 0)).2 + (w - c))) ∧
      (w ≤ c → t.pwr.run = none) ∧
      (w ≤ c → s.pwr.capdown = false → s.pwr.divided = 0 →
        t.pwr.lowering = false ∧
        t.pwr.step = s.pwr.step + (if w + 250 ≤ c ∧ s.pwr.step < s.stepTop then 1 else 0)) ∧
      t = { s with free := t.free, regs := t.regs, cnt := t.cnt, bnd := t.bnd, pwr := t.pwr
                   keeper := { s.keeper with lastFault := t.keeper.lastFault }
                   host := { s.host with changes := t.host.changes } } := by
  let w := avg.toNat
  let c := s.capInForce
  let s1 := (s.poke pgPower 0x048 (w32 w)).poke pgPower 0x04C (w32 (da.toNat * 65536 + mv.toNat))
  let s2 := s1.energy w
  let s3 := s2.catchup w c
  have hx : execCapWindowEnd avg mv da s = s.ok (s3.control w c) := by
    simp [execCapWindowEnd, hin, s1, s2, s3, w, c]
  have hpwr : s3.pwr = { s.pwr with frac := (s.pwr.frac + w) % 10000, run := catchupRun s.pwr w c } :=
    catchup_pwr s2 w c
  have hshown : (s3.reg pgPower 0x048).toNat = w := by
    have hreg : s3.reg pgPower 0x048 = w32 w :=
      (catchup_power s2 w c).trans ((poke_reg_other _ (by decide)).trans (poke_reg_same s))
    have hlt : w < 65536 := avg.isLt
    simp only [hreg, w32, BitVec.toNat_ofNat]
    omega
  have htop : s3.stepTop = s.stepTop := by
    refine stepTop_eq ?_ (by rw [hpwr])
    exact (catchup_clocks s2 w c).trans ((poke_reg_other _ (by decide)).trans (poke_reg_other _ (by decide)))
  refine .of_ok hx ⟨?_, ?_, ?_, fun hover => ?_, fun hle => ?_, fun hle hdown hdiv => ?_, ?_⟩
  · rw [finish_reg, control_reg, hshown]
  · exact (control_frac s3 w c).trans (by rw [hpwr])
  · exact (control_counter s3 w c).trans ((catchup_counter s2 w c).trans (energy_counter s1 w))
  · rw [control_over s3 hover]
    simp [State.finish, hpwr, catchupRun, hover, w, c]
  · refine (control_run s3 w c).trans ?_
    simp [hpwr, catchupRun, show ¬ c < w by omega]
  · have hstep := control_within s3 hle (by rw [hpwr, hdown]) (by rw [hpwr, hdiv])
    rw [htop, hpwr] at hstep
    exact hstep
  · have hsame : SameBut [.free, .regs, .cnt, .changes, .bnd, .keeperCap, .pwr, .pwrRest, .lastFault] s
        (s.finish (s3.control w c)) := by
      simp [SameBut, s3, s2, s1, among]
    exact hsame.frame

theorem stepLower_completes (s : State) (hlow : s.pwr.lowering = true) (hstep : 0 < s.pwr.step) :
    Completes .stepLower s fun t =>
      t.pwr = { s.pwr with step := s.pwr.step - 1, lowering := decide (1 < s.pwr.step) } ∧
      t.counter pgClocks 0 = s.counter pgClocks 0 + 1 ∧
      t = { s with cnt := t.cnt, pwr := t.pwr, host := { s.host with changes := t.host.changes } } := by
  have hdown : s.stepDown = ({ s with pwr := { s.pwr with
      step := s.pwr.step - 1, lowering := decide (1 < s.pwr.step) } } : State).count pgClocks 0 := by
    have hlt : (0 < s.pwr.step - 1) = (1 < s.pwr.step) := by
      apply propext
      omega
    simp [State.stepDown, hlow, Nat.ne_of_gt hstep, hlt]
  have hx : execStepLower s = s.ok s.stepDown := by simp [execStepLower, hlow]
  rw [hdown] at hx
  exact .of_ok hx ⟨rfl, count_counter_same _, rfl⟩

theorem slewInterval_completes (s : State) (a : BitVec 16) (p : Nat) (hin : s.pwr.input = true)
    (hlast : s.pwr.lastDa = some p) (hp : p < 65536) :
    Completes (.slewInterval a) s fun t =>
      (t.reg pgPower 0x05C).toNat = max (s.reg pgPower 0x05C).toNat (max (a.toNat - p) (p - a.toNat)) ∧
      t = { s with regs := t.regs, pwr := { s.pwr with lastDa := some a.toNat }
                   host := { s.host with changes := t.host.changes } } := by
  let v := if p ≤ a.toNat then a.toNat - p else p - a.toNat
  have hv : v = max (a.toNat - p) (p - a.toNat) := by grind
  have hpeak : ∃ r, s.peak pgPower 0x05C v = { s with regs := r } := by
    unfold State.peak
    split <;> exact ⟨_, rfl⟩
  have hx : execSlewInterval a s =
      s.ok { s.peak pgPower 0x05C v with pwr := { (s.peak pgPower 0x05C v).pwr with lastDa := some a.toNat } } := by
    simp [execSlewInterval, hin, hlast, v]
  have hval : ((s.peak pgPower 0x05C v).reg pgPower 0x05C).toNat = max (s.reg pgPower 0x05C).toNat v := by
    have hlt : v < 2 ^ 32 := by omega
    unfold State.peak
    split
    · rw [poke_reg_same, BitVec.toNat_ofNat, Nat.mod_eq_of_lt hlt]
      omega
    · omega
  obtain ⟨r, hr⟩ := hpeak
  rw [hr] at hx hval
  exact .of_ok hx ⟨hval.trans (by rw [hv]), rfl⟩

/-- Settles O48, clause by clause. -/
theorem powerFollowsCap : Obligations.PowerFollowsCap :=
  ⟨vinOutOfRange_completes, vinRecover_completes, vinLoss_completes, capWindowEnd_completes, stepLower_completes,
    slewInterval_completes⟩

/-! ### CAPDOWN_N -/

theorem capdownAssert_completes (s : State) (hdown : s.pwr.capdown = false) :
    Completes .capdownAssert s fun t =>
      t.pwr = { s.pwr with capdown := true, lowering := decide (0 < s.pwr.step) } ∧ t.capInForce ≤ 8000 ∧
      t.counter pgPower 2 = s.counter pgPower 2 + (if s.pwr.input then 1 else 0) ∧
      t = { s with cnt := t.cnt, pwr := t.pwr, host := { s.host with changes := t.host.changes } } := by
  let s1 : State := { s with pwr := { s.pwr with capdown := true, lowering := decide (0 < s.pwr.step) } }
  have hx : execCapdownAssert s = s.ok (if s.pwr.input then s1.count pgPower 2 else s1) := by
    simp [execCapdownAssert, hdown, s1]
  cases hin : s.pwr.input with
  | true =>
    rw [hin, if_pos rfl] at hx
    exact .of_ok hx ⟨rfl, by simp [State.capInForce, State.finish, s1], count_counter_same _, rfl⟩
  | false =>
    rw [hin, if_neg (by decide)] at hx
    exact .of_ok hx ⟨rfl, by simp [State.capInForce, State.finish, s1], by simp [s1, State.finish, State.counter], rfl⟩

theorem capdownRelease_gives (s : State) (hdown : s.pwr.capdown = true) :
    Gives .capdownRelease s { s with pwr := { s.pwr with capdown := false } } := by
  have hx : execCapdownRelease s = s.ok { s with pwr := { s.pwr with capdown := false } } := by
    simp [execCapdownRelease, hdown]
  exact .of_ok hx

/-- A quarter of the grid with its clock divided or not; one whose clock is off keeps its state. -/
def divideQuarter (b : Bool) (t : State) (g : Nat) : State :=
  if (t.quarter (g / 4) (g % 4)).clock then
    t.setQuarter (g / 4) (g % 4) { t.quarter (g / 4) (g % 4) with div4 := b }
  else t

theorem divideGroup_eq (s : State) (j : Nat) (b : Bool) :
    s.divideGroup j b = ((List.range 8).map (8 * j + ·)).foldl (divideQuarter b)
      { s with pwr := { s.pwr with divided :=
        if b then s.pwr.divided ||| BitVec.ofNat 32 (2 ^ j) else s.pwr.divided &&& ~~~(BitVec.ofNat 32 (2 ^ j)) } } := by
  rw [List.foldl_map]
  rfl

theorem divideQuarter_quarter (b : Bool) (t : State) (g d : Nat) {q : Nat} (hq : q < 4) :
    (divideQuarter b t g).quarter d q =
      if 4 * d + q = g ∧ (t.quarter d q).clock = true then { t.quarter d q with div4 := b } else t.quarter d q := by
  unfold divideQuarter
  by_cases hg : 4 * d + q = g
  · have hd : g / 4 = d := by omega
    have hr : g % 4 = q := by omega
    rw [hd, hr]
    by_cases hclk : (t.quarter d q).clock = true <;> simp [hg, hclk]
  · have hkey : 4 * d + q ≠ 4 * (g / 4) + g % 4 := by omega
    have hother (x : QuarterSt) : (t.setQuarter (g / 4) (g % 4) x).quarter d q = t.quarter d q :=
      SMap.get_set_other _ _ _ hkey
    split <;> simp [hg, hother]

theorem foldl_divideQuarter_quarter (b : Bool) (l : List Nat) (t : State) (d : Nat) {q : Nat} (hq : q < 4) :
    (l.foldl (divideQuarter b) t).quarter d q =
      if 4 * d + q ∈ l ∧ (t.quarter d q).clock = true then { t.quarter d q with div4 := b } else t.quarter d q := by
  induction l generalizing t with
  | nil => simp
  | cons g r ih =>
    rw [List.foldl_cons, ih, divideQuarter_quarter b t g d hq]
    by_cases hg : 4 * d + q = g <;> by_cases hclk : (t.quarter d q).clock = true <;> simp [hg, hclk]

theorem divideGroup_quarter (s : State) (j : Nat) (b : Bool) (d : Nat) {q : Nat} (hq : q < 4) :
    (s.divideGroup j b).quarter d q =
      if (4 * d + q) / 8 = j ∧ (s.quarter d q).clock = true then { s.quarter d q with div4 := b } else s.quarter d q := by
  have hmem : 4 * d + q ∈ (List.range 8).map (8 * j + ·) ↔ (4 * d + q) / 8 = j := by
    simp only [List.mem_map, List.mem_range]
    constructor
    · rintro ⟨i, hi, hk⟩
      omega
    · intro hj
      exact ⟨(4 * d + q) % 8, by omega, by omega⟩
  rw [divideGroup_eq, foldl_divideQuarter_quarter b _ _ d hq]
  simp only [hmem]
  rfl

theorem divideGroup_pwr (s : State) (j : Nat) (b : Bool) :
    (s.divideGroup j b).pwr = { s.pwr with divided :=
      if b then s.pwr.divided ||| BitVec.ofNat 32 (2 ^ j) else s.pwr.divided &&& ~~~(BitVec.ofNat 32 (2 ^ j)) } := by
  rw [divideGroup_eq]
  generalize (List.range 8).map (8 * j + ·) = l
  have hstep (t : State) (g : Nat) : (divideQuarter b t g).pwr = t.pwr := by
    unfold divideQuarter
    split <;> rfl
  have hfold (t : State) : (l.foldl (divideQuarter b) t).pwr = t.pwr := by
    induction l generalizing t with
    | nil => rfl
    | cons g r ih => exact (ih _).trans (hstep t g)
  exact hfold _

theorem sameBut_divideGroup (s : State) (j : Nat) (b : Bool) :
    SameBut [.keeperCap, .pwr, .pwrRest, .quarters, .changes] s (s.finish (s.divideGroup j b)) := by
  simp [SameBut, among]

/-- The lowest index below 32 with a property is the one that the search finds. -/
theorem range_find?_eq {p : Nat → Bool} {j : Nat} (hj : j < 32) (hp : p j = true) (hlow : ∀ i, i < j → p i = false) :
    (List.range 32).find? p = some j := by
  rw [List.find?_range_eq_some]
  exact ⟨hp, by simpa using hj, by simpa using hlow⟩

theorem capdownGroupStep_divides (s : State) (j : Nat) (hdown : s.pwr.capdown = true) (hj : j < 32)
    (hnot : s.pwr.divided.getLsbD j = false) (hlow : ∀ i, i < j → s.pwr.divided.getLsbD i = true) :
    Completes .capdownGroupStep s fun t =>
      t.pwr = { s.pwr with divided := s.pwr.divided ||| BitVec.ofNat 32 (2 ^ j) } ∧
      (∀ d q, q < 4 → t.quarter d q =
        if (4 * d + q) / 8 = j ∧ (s.quarter d q).clock = true then { s.quarter d q with div4 := true }
        else s.quarter d q) ∧
      t = { s with pwr := t.pwr, quarters := t.quarters, host := { s.host with changes := t.host.changes } } := by
  have hfind : (List.range 32).find? (fun j => !s.pwr.divided.getLsbD j) = some j :=
    range_find?_eq hj (by simp [hnot]) fun i hi => by simp [hlow i hi]
  have hx : execCapdownGroupStep s = s.ok (s.divideGroup j true) := by
    simp [execCapdownGroupStep, hdown, hfind]
  have hpwr := divideGroup_pwr s j true
  have hquarter := fun d q hq => divideGroup_quarter s j true d (q := q) hq
  have hsame := sameBut_divideGroup s j true
  generalize s.divideGroup j true = u at *
  exact .of_ok hx ⟨hpwr, hquarter, hsame.frame⟩

theorem capdownGroupStep_restores (s : State) (j : Nat) (hdown : s.pwr.capdown = false) (hstep : s.pwr.step = 0)
    (hj : j < 32) (hset : s.pwr.divided.getLsbD j = true) (hlow : ∀ i, i < j → s.pwr.divided.getLsbD i = false) :
    Completes .capdownGroupStep s fun t =>
      t.pwr.divided.getLsbD j = false ∧
      (∀ i, i < 32 → i ≠ j → t.pwr.divided.getLsbD i = s.pwr.divided.getLsbD i) ∧
      (∀ d q, q < 4 → t.quarter d q =
        if (4 * d + q) / 8 = j ∧ (s.quarter d q).clock = true then { s.quarter d q with div4 := false }
        else s.quarter d q) ∧
      t = { s with pwr := t.pwr, quarters := t.quarters, host := { s.host with changes := t.host.changes } } := by
  have hfind : (List.range 32).find? (fun j => s.pwr.divided.getLsbD j) = some j := range_find?_eq hj hset hlow
  have hx : execCapdownGroupStep s = s.ok (s.divideGroup j false) := by
    simp [execCapdownGroupStep, hdown, hstep, hfind]
  have hbit (i : Nat) (hi : i < 32) : (BitVec.ofNat 32 (2 ^ j)).getLsbD i = decide (j = i) := by
    rw [BitVec.getLsbD_ofNat, Nat.testBit_two_pow, decide_eq_true hi, Bool.true_and]
  have hdivided : (s.divideGroup j false).pwr.divided = s.pwr.divided &&& ~~~(BitVec.ofNat 32 (2 ^ j)) := by
    rw [divideGroup_pwr]
    rfl
  have hafter (i : Nat) (hi : i < 32) :
      (s.divideGroup j false).pwr.divided.getLsbD i = (s.pwr.divided.getLsbD i && !decide (j = i)) := by
    rw [hdivided, BitVec.getLsbD_and, BitVec.getLsbD_not, hbit i hi, decide_eq_true hi, Bool.true_and]
  have hquarter := fun d q hq => divideGroup_quarter s j false d (q := q) hq
  have hsame := sameBut_divideGroup s j false
  generalize s.divideGroup j false = u at *
  refine .of_ok hx ⟨?_, fun i hi hne => ?_, hquarter, hsame.frame⟩
  · exact (hafter j hj).trans (by simp)
  · exact (hafter i hi).trans (by simp [hne.symm])

/-- Settles O49: the group found is the lowest that is left. -/
theorem capdownDividesGroups : Obligations.CapdownDividesGroups :=
  ⟨capdownAssert_completes, capdownRelease_gives, capdownGroupStep_divides, capdownGroupStep_restores⟩

end Sys2Proof.Machine
end

section
/-! SUPPORT. Host bundles (R313 to R320): OPEN, COMMIT and ABORT of the selected context. -/

namespace Sys2Proof.Machine

/-! ### ABORT reaching the participants -/

theorem bellBack_bctx (s : State) (p c : Nat) : (s.bellBack p).bctx c = s.bctx c := by
  simp only [State.bctx, bnd_of_mask (mask_bellBack (by simp) s p)]

theorem holdPeak_bctx (s : State) (p : Nat) (held : Bool) (c : Nat) : (s.holdPeak p held).bctx c = s.bctx c := by
  simp only [State.bctx, bnd_of_mask (mask_holdPeak (by simp) s p held)]

theorem ctxAbortAt_bctx (s : State) (c p : Nat) :
    ∃ ps bs, (s.ctxAbortAt c p).bctx c = { s.bctx c with parts := ps, blocks := bs } := by
  simp only [State.ctxAbortAt]
  split
  · exact ⟨_, _, rfl⟩
  · exact ⟨_, _, setBctx_bctx_same _⟩

theorem ctxAbortAt_bctx_other (s : State) {c k : Nat} (p : Nat) (h : k ≠ c) : (s.ctxAbortAt c p).bctx k = s.bctx k := by
  simp only [State.ctxAbortAt]
  split
  · rfl
  · exact (setBctx_bctx_other _ h).trans ((holdPeak_bctx _ _ _ _).trans (bellBack_bctx _ _ _))

theorem ctxAbortAt_tag (s : State) (c p : Nat) : (s.ctxAbortAt c p).bnd.tag = s.bnd.tag := by
  have hbnd (held : Bool) : ((s.bellBack p).holdPeak p held).bnd = s.bnd := by
    rw [bnd_of_mask (mask_holdPeak (by simp) _ _ _), bnd_of_mask (mask_bellBack (by simp) _ _)]
  simp only [State.ctxAbortAt]
  split
  · rfl
  · simp only [State.setBctx, hbnd]

/-- ABORT leaves of its context all but the participants and the blocks, and the other contexts and the tag. -/
theorem foldl_ctxAbortAt (l : List Nat) (s : State) (c : Nat) :
    let t := l.foldl (fun t p => t.ctxAbortAt c p) s
    (∃ ps bs, t.bctx c = { s.bctx c with parts := ps, blocks := bs }) ∧ (∀ k, k ≠ c → t.bctx k = s.bctx k) ∧
      t.bnd.tag = s.bnd.tag := by
  induction l generalizing s with
  | nil => exact ⟨⟨_, _, rfl⟩, fun _ _ => rfl, rfl⟩
  | cons p r ih =>
    obtain ⟨⟨ps, bs, hc⟩, hother, htag⟩ := ih (s.ctxAbortAt c p)
    obtain ⟨ps', bs', hp⟩ := ctxAbortAt_bctx s c p
    exact ⟨⟨ps, bs, hc.trans (by rw [hp])⟩, fun k hk => (hother k hk).trans (ctxAbortAt_bctx_other s p hk),
      htag.trans (ctxAbortAt_tag s c p)⟩

theorem finishAbort_bctx (s : State) (c : Nat) :
    ∃ ps bs, (s.finishAbort c).bctx c = { s.bctx c with parts := ps, blocks := bs } := by
  unfold State.finishAbort
  split
  · obtain ⟨⟨ps, bs, hc⟩, -, -⟩ := foldl_ctxAbortAt ((s.bctx c).parts.map (·.1)) s c
    exact ⟨[], [], (setBctx_bctx_same _).trans (by rw [hc])⟩
  · exact ⟨_, _, rfl⟩

theorem finishAbort_bctx_other (s : State) {c k : Nat} (h : k ≠ c) : (s.finishAbort c).bctx k = s.bctx k := by
  unfold State.finishAbort
  split
  · exact (setBctx_bctx_other _ h).trans ((foldl_ctxAbortAt ((s.bctx c).parts.map (·.1)) s c).2.1 k h)
  · rfl

theorem finishAbort_tag (s : State) (c : Nat) : (s.finishAbort c).bnd.tag = s.bnd.tag := by
  unfold State.finishAbort
  split
  · exact (foldl_ctxAbortAt ((s.bctx c).parts.map (·.1)) s c).2.2
  · rfl

theorem liveDies_of_dies {s t : State} (h : t.dies = s.dies) : t.liveDies = s.liveDies := by
  have hlive : t.dieLive = s.dieLive := by
    funext d
    simp only [State.dieLive, State.dieOut, State.die, h]
  rw [State.liveDies, State.liveDies, hlive]

/-! ### The selected context -/

theorem bndEngine_bctx_same (s : State) (e : Bool) :
    (s.bndEngine e).bctx s.bndSel = { s.bctx s.bndSel with engine := e } := setBctx_bctx_same s

theorem bndEngine_live (s : State) (e : Bool) (c : Nat) : ((s.bndEngine e).bctx c).live = (s.bctx c).live := by
  by_cases hc : c = s.bndSel
  · rw [hc, bndEngine_bctx_same]
    rfl
  · rw [State.bndEngine, setBctx_bctx_other s hc]

/-- OPEN with a scope that has a live die and meets no other context's. -/
theorem ctxOpen_opens (s : State) (c : Nat) {e : Bool} {scope : DWord} (hlive : ∀ k, k ≠ c → (s.bctx k).live = false)
    (hscope : e = true ∨ ∃ d ∈ s.liveDies, scope.getLsbD d = true) :
    let t := s.ctxOpen c e scope
    let tag := if s.bnd.tag = 0xFFFFFFFF then 1 else s.bnd.tag + 1
    t.bctx c = { s.bctx c with
      st := .open, inEngine := e, inScope := scope, tag := tag, reason := 0, wher := 0, staged := [], mark := 0,
      parts := [], blocks := [], applySent := false, faults := [] } ∧ t.bnd.tag = tag := by
  let s0 := s.finishAbort c
  obtain ⟨ps, bs, hc⟩ : ∃ ps bs, s0.bctx c = { s.bctx c with parts := ps, blocks := bs } := finishAbort_bctx s c
  have hlive0 : s0.liveDies = s.liveDies := liveDies_of_dies (dies_of_mask (mask_finishAbort (by simp) s c))
  have htag : s0.bnd.tag = s.bnd.tag := finishAbort_tag s c
  have hmeets : (ctxList.any fun k => k != c && (s0.bctx k).live &&
      scopesMeet e scope (s0.bctx k).inEngine (s0.bctx k).inScope) = false := by
    rw [List.any_eq_false]
    intro k _
    by_cases hk : k = c
    · simp [hk]
    · simp [s0, finishAbort_bctx_other s hk, hlive k hk]
  have hempty : (!e && s0.liveDies.all fun d => !scope.getLsbD d) = false := by
    rw [hlive0]
    rcases hscope with he | ⟨d, hd, hbit⟩
    · simp [he]
    · have hall : (s.liveDies.all fun d => !scope.getLsbD d) = false :=
        List.all_eq_false.mpr ⟨d, hd, by simp [hbit]⟩
      simp [hall]
  have hopen : s.ctxOpen c e scope =
      let tag := if s0.bnd.tag = 0xFFFFFFFF then 1 else s0.bnd.tag + 1
      let s1 := s0.setBctx c
        { s0.bctx c with st := .open, inEngine := e, inScope := scope, tag := tag, reason := 0, wher := 0,
                         staged := [], mark := 0, parts := [], blocks := [], applySent := false, faults := [] }
      { s1 with bnd := { s1.bnd with tag := tag } } := by
    have hcond : ¬ ((!e && s0.liveDies.all fun d => !scope.getLsbD d) || ctxList.any fun k => k != c &&
        (s0.bctx k).live && scopesMeet e scope (s0.bctx k).inEngine (s0.bctx k).inScope) = true := by
      rw [hempty, hmeets]
      decide
    exact if_neg hcond
  rw [htag, hc] at hopen
  rw [hopen]
  exact ⟨by simp only [State.bctx, State.setBctx, SMap.get_set_same], rfl⟩

theorem bndOpen_completes (s : State) (e : Bool) (hw : s.takesWrites pgBundle = true) (hsel : s.bndSel < 4)
    (hlive : ∀ c, (s.bctx c).live = false)
    (hscope : e = true ∨ (∃ d ∈ s.liveDies, (s.bctx s.bndSel).scope.getLsbD d = true)) :
    Completes (.bndOpen e) s fun t =>
      let x := t.bctx s.bndSel
      x.st = .open ∧ x.engine = e ∧ x.inEngine = e ∧ x.inScope = (s.bctx s.bndSel).scope ∧ x.staged = [] ∧
      x.tag = t.bnd.tag ∧ t.bnd.tag = (if s.bnd.tag = 0xFFFFFFFF then 1 else s.bnd.tag + 1) ∧ t.mem = s.mem := by
  let s0 := s.bndEngine e
  have hsame : s0.bctx s.bndSel = { s.bctx s.bndSel with engine := e } := bndEngine_bctx_same s e
  have hlive0 (c : Nat) : (s0.bctx c).live = false := (bndEngine_live s e c).trans (hlive c)
  have hx : execBndOpen e s = s.ok (s0.ctxOpen s.bndSel e (s.bctx s.bndSel).scope) := by
    have hsel0 : s0.bndSel = s.bndSel := rfl
    have hcmd : s0.cmdOpen = s0.ctxOpen s.bndSel e (s.bctx s.bndSel).scope := by
      have hdead := hlive0 s.bndSel
      rw [hsame] at hdead
      simp [State.cmdOpen, hsel0, hsame, hdead, hsel]
    simp only [execBndOpen, hw, if_true, s0, hcmd]
  obtain ⟨hctx, htag⟩ := ctxOpen_opens s0 s.bndSel (fun k _ => hlive0 k) (e := e) (scope := (s.bctx s.bndSel).scope) hscope
  rw [hsame] at hctx
  have hmem : (s0.ctxOpen s.bndSel e (s.bctx s.bndSel).scope).mem = s.mem :=
    (mem_of_mask (mask_ctxOpen (by simp) _ _ _ _)).trans rfl
  generalize s0.ctxOpen s.bndSel e (s.bctx s.bndSel).scope = u at *
  have htag0 : s0.bnd.tag = s.bnd.tag := rfl
  exact .of_ok hx (by simp [hctx, htag, htag0, hmem])

/-! ### COMMIT and ABORT -/

/-- A context that lives aborts with its reason; TIMEOUT, FAULT and LOST raise a fault as well. -/
theorem ctxAbort_eq {s : State} {c : Nat} {reason : Byte} (hlive : (s.bctx c).live = true)
    (hreason : ¬ (reason = 2 || reason = 3 || reason = 7) = true) (wher : Word) :
    s.ctxAbort c reason wher = (s.setBctx c { s.bctx c with
      st := .aborted, reason := reason, wher := wher, staged := [], mark := 0, applySent := false,
      faults := [] }).count pgBundle 1 := by
  simp only [State.ctxAbort, hlive, Bool.not_true, Bool.false_eq_true, if_false, if_neg hreason]

theorem SMap.get_map_val {α : Type} (d : α) (f : α → α) (hd : f d = d) (m : SMap α) (k : Nat) :
    SMap.get d (m.map fun e => (e.1, f e.2)) k = f (SMap.get d m k) := by
  induction m with
  | nil => exact hd.symm
  | cons e r ih =>
    obtain ⟨j, v⟩ := e
    by_cases hj : j = k
    · simp [SMap.get, SMap.find, hj]
    · simpa [SMap.get, SMap.find, hj] using ih

theorem noteFault_bctx (x : BndCtx) (page : Nat) : ∃ fs, x.noteFault page = { x with faults := fs } := by
  unfold BndCtx.noteFault
  split <;> exact ⟨_, rfl⟩

/-- Of a context a fault changes at most the faults noted since OPEN. -/
theorem raise_bctx (s : State) (page code c : Nat) :
    ∃ fs, (s.raise page code).bctx c = { s.bctx c with faults := fs } := by
  have hreset : BndCtx.reset.noteFault page = BndCtx.reset := rfl
  have hmap (m : SMap BndCtx) :
      SMap.get BndCtx.reset (m.map fun e => (e.1, e.2.noteFault page)) c = (SMap.get BndCtx.reset m c).noteFault page :=
    SMap.get_map_val _ (·.noteFault page) hreset m c
  by_cases hin : isDiePage page = true → s.dieOut (pageDie page) = false ∨ page = pgDieHealth (pageDie page)
  · have hbnd : ((s.recordFault page code).recordLastFault page code).bnd = s.bnd := by
      obtain ⟨r, hr⟩ := recordFault_eq_poke s page code
      rw [hr, State.recordLastFault]
      split
      · rw [count_bnd, poke_bnd]
      · rfl
    obtain ⟨fs, hfs⟩ := noteFault_bctx (s.bctx c) page
    refine ⟨fs, ?_⟩
    rw [raise_eq s code hin, ← hfs, State.tellFault]
    dsimp only
    split <;> simp only [State.bctx, State.setPbundle, hmap, hbnd]
  · have hout : (isDiePage page && s.dieOut (pageDie page) && page != pgDieHealth (pageDie page)) = true := by
      simpa [and_assoc] using hin
    exact ⟨_, by rw [State.raise, if_pos hout]⟩

theorem ctxAbort_bctx {s : State} {c : Nat} (hlive : (s.bctx c).live = true) (reason : Byte) (wher : Word) :
    ∃ fs, (s.ctxAbort c reason wher).bctx c = { s.bctx c with
      st := .aborted, reason := reason, wher := wher, staged := [], mark := 0, applySent := false, faults := fs } := by
  simp only [State.ctxAbort, hlive, Bool.not_true, Bool.false_eq_true, if_false]
  split
  · obtain ⟨fs, hfs⟩ := raise_bctx ((s.setBctx c { s.bctx c with
      st := .aborted, reason := reason, wher := wher, staged := [], mark := 0, applySent := false,
      faults := [] }).count pgBundle 1) pgBundle 0x0A01 c
    refine ⟨fs, hfs.trans ?_⟩
    rw [show ∀ u : State, (u.count pgBundle 1).bctx c = u.bctx c from fun _ => rfl, setBctx_bctx_same]
  · exact ⟨[], setBctx_bctx_same s⟩

theorem bndCommit_completes (s : State) (e : Bool) (hw : s.takesWrites pgBundle = true) (hsel : s.bndSel < 4)
    (hopen : (s.bctx s.bndSel).st = .open) :
    Completes (.bndCommit e) s fun t =>
      let x := s.bctx s.bndSel
      if x.mark = 0 then t.bctx s.bndSel = { x with engine := e, st := .preparing, parts := [], blocks := [] }
      else (t.bctx s.bndSel).st = .aborted ∧ (t.bctx s.bndSel).reason = x.mark ∧
        (t.bctx s.bndSel).wher = x.wher ∧ (t.bctx s.bndSel).staged = [] := by
  let s0 := s.bndEngine e
  have hhost : ¬ 4 ≤ s.bndSel := by omega
  have hsel0 : s0.bndSel = s.bndSel := rfl
  have hsame : s0.bctx s.bndSel = { s.bctx s.bndSel with engine := e } := bndEngine_bctx_same s e
  have hx : execBndCommit e s = s.ok s0.cmdCommit := by simp only [execBndCommit, hw, if_true, s0]
  by_cases hmark : (s.bctx s.bndSel).mark = 0#8
  · have hcmd : s0.cmdCommit =
        s0.setBctx s.bndSel { s0.bctx s.bndSel with st := .preparing, parts := [], blocks := [] } := by
      simp only [State.cmdCommit, hsel0, hsame, hopen, hmark]
      simp [hhost]
    rw [hcmd, hsame] at hx
    exact .of_ok hx (by simp [hmark])
  · have hlive : (s0.bctx s.bndSel).live = true := by rw [hsame]; simp [BndCtx.live, hopen]
    have hcmd : s0.cmdCommit = s0.ctxAbort s.bndSel (s.bctx s.bndSel).mark (s.bctx s.bndSel).wher := by
      simp only [State.cmdCommit, hsel0, hsame, hopen]
      simp [hhost, hmark]
    rw [hcmd] at hx
    obtain ⟨fs, hctx⟩ := ctxAbort_bctx hlive (s.bctx s.bndSel).mark (s.bctx s.bndSel).wher
    generalize s0.ctxAbort s.bndSel (s.bctx s.bndSel).mark (s.bctx s.bndSel).wher = u at *
    exact .of_ok hx (by simp [hmark, hctx])

theorem bndAbort_completes (s : State) (e : Bool) (hw : s.takesWrites pgBundle = true) (hsel : s.bndSel < 4)
    (hlive : (s.bctx s.bndSel).live = true) (happly : (s.bctx s.bndSel).applySent = false) :
    Completes (.bndAbort e) s fun t =>
      (t.bctx s.bndSel).st = .aborted ∧ (t.bctx s.bndSel).reason = 8 ∧ (t.bctx s.bndSel).staged = [] ∧
      t.counter pgBundle 1 = s.counter pgBundle 1 + 1 ∧
      t = { s with cnt := t.cnt, bnd := t.bnd, host := { s.host with changes := t.host.changes } } := by
  let s0 := s.bndEngine e
  have hhost : ¬ 4 ≤ s.bndSel := by omega
  have hsel0 : s0.bndSel = s.bndSel := rfl
  have hsame : s0.bctx s.bndSel = { s.bctx s.bndSel with engine := e } := bndEngine_bctx_same s e
  have hlive0 : (s0.bctx s.bndSel).live = true := (bndEngine_live s e _).trans hlive
  have hcmd : s0.cmdAbort = s0.ctxAbort s.bndSel 8 0 := by
    simp only [State.cmdAbort, hsel0, hsame, happly]
    simp [hhost]
  have hx : execBndAbort e s = s.ok s0.cmdAbort := by simp only [execBndAbort, hw, if_true, s0]
  rw [hcmd, ctxAbort_eq hlive0 (by decide)] at hx
  have hctx (x : BndCtx) : (((s0.setBctx s.bndSel x).count pgBundle 1).bctx s.bndSel) = x := setBctx_bctx_same s0
  have hcount (x : BndCtx) : ((s0.setBctx s.bndSel x).count pgBundle 1).counter pgBundle 1 = s.counter pgBundle 1 + 1 :=
    count_counter_same _
  have hrest (x : BndCtx) : SameBut [.cnt, .bnd, .changes] s (s.finish ((s0.setBctx s.bndSel x).count pgBundle 1)) := by
    simp [SameBut, among, s0]
  exact .of_ok hx ⟨by simp [hctx], by simp [hctx], by simp [hctx], hcount _, (hrest _).frame⟩

/-- Settles O40, one command of the host at a time. -/
theorem hostBundleCommands : Obligations.HostBundleCommands :=
  ⟨bndOpen_completes, bndCommit_completes, bndAbort_completes⟩

end Sys2Proof.Machine
end

section
/-! SUPPORT. What the operations of bundles, programs, recovery and the keeper leave alone, in the form of the
operations' lemmas on `State.mask`. -/

namespace Sys2Proof.Machine

variable {M : Part → Bool}

@[simp] theorem mask_setDie (hM : Allows M [.dies]) (s : State) (d : Nat) (x : DieSt) :
    (s.setDie d x).mask M = s.mask M := by
  simp at hM
  simp [State.setDie, State.mask, HostIf.mask, Rounds.mask, Prog.mask, Weights.mask,
    Pwr.mask, Keeper.mask, Sec.mask, Meter.mask, Pins.mask, blank, hM]

@[simp] theorem mask_setKeySlot (hM : Allows M [.keys]) (s : State) (d k : Nat) (x : KeySlot) :
    (s.setKeySlot d k x).mask M = s.mask M := by
  simp at hM
  simp [State.setKeySlot, State.mask, HostIf.mask, Rounds.mask, Prog.mask, Weights.mask,
    Pwr.mask, Keeper.mask, Sec.mask, Meter.mask, Pins.mask, blank, hM]

@[simp] theorem mask_zeroRange (hM : Allows M [.mem]) (s : State) (lo hi : Nat) :
    (s.zeroRange lo hi).mask M = s.mask M := by
  simp at hM
  simp [State.zeroRange, State.mask, HostIf.mask, Rounds.mask, Prog.mask, Weights.mask,
    Pwr.mask, Keeper.mask, Sec.mask, Meter.mask, Pins.mask, blank, hM]

@[simp] theorem mask_zeroQbuf (hM : Allows M [.mem]) (s : State) (d q : Nat) :
    (s.zeroQbuf d q).mask M = s.mask M := by
  simp at hM
  simp [State.zeroQbuf, hM]

@[simp] theorem mask_zeroSlot (hM : Allows M [.mem]) (s : State) (d p : Nat) :
    (s.zeroSlot d p).mask M = s.mask M := by
  simp at hM
  simp [State.zeroSlot, hM]

@[simp] theorem mask_zeroScratch (hM : Allows M [.mem]) (s : State) (d q : Nat) :
    (s.zeroScratch d q).mask M = s.mask M := by
  simp at hM
  simp [State.zeroScratch, hM]

@[simp] theorem mask_roundStart (hM : Allows M [.rounds, .ledgers]) (s : State) (d c : Nat) :
    (s.roundStart d c).mask M = s.mask M := by
  simp at hM
  simp [State.roundStart, hM]

@[simp] theorem mask_dropXfers (hM : Allows M [.cnt, .streams, .ledgers]) (s : State) (d u st : Nat) (gone : Bool)
    (next : StreamSt) :
    (s.dropXfers d u st gone next).mask M = s.mask M := by
  simp at hM
  simp [State.dropXfers, hM]

@[simp] theorem mask_ctxStop (hM : Allows M [.regs, .cnt, .stores, .rounds, .weights, .ledgers]) (s : State)
    (gone : Bool) (d c : Nat) :
    (s.ctxStop gone d c).mask M = s.mask M := by
  simp at hM
  simp [State.ctxStop, hM]

@[simp] theorem mask_eachStream {f : State → Nat → State} (hf : ∀ t x, (f t x).mask M = t.mask M) (s : State) (d u : Nat) :
    (s.eachStream d u f).mask M = s.mask M := mask_forEach hf _ _

@[simp] theorem mask_roundStop
    (hM : Allows M [.regs, .cnt, .streams, .stores, .rounds, .roundsRest, .weights, .ledgers]) (s : State) :
    (s.roundStop).mask M = s.mask M := by
  simp at hM
  have hctx (t : State) : (t.forEach allDies fun t d => t.forEach (List.range 4) fun u c =>
      u.ctxStop (s.lostDies.contains d || s.lostDies.contains (s.pathPred d)) d c).mask M = t.mask M :=
    mask_forEach (fun u d => mask_forEach (fun v c => by simp [hM]) _ _) _ _
  have hdrop (t : State) : (t.forEach allDies fun t d => t.eachStream d 72 fun u st =>
      if (u.stream d 72 st).role == roleRound then
        u.dropXfers d 72 st (s.lostDies.contains d || s.lostDies.contains (s.pathSucc d)) .stopped
      else u).mask M = t.mask M :=
    mask_forEach (fun u d => mask_eachStream (fun v st => by split <;> simp [hM]) _ _ _) _ _
  simp only [State.roundStop]
  rw [mask_with_rounds (by simp [Rounds.mask, blank, hM]), hdrop, hctx]

@[simp] theorem mask_restartForward (hM : Allows M [.cnt, .streams, .ledgers]) (s : State) (t : Transit) :
    (s.restartForward t).mask M = s.mask M := by
  simp at hM
  simp [State.restartForward, hM]

@[simp] theorem mask_repath
    (hM : Allows M [.regs, .cnt, .streams, .stores, .rounds, .roundsRest, .weights, .ledgers]) (s : State) :
    (s.repath).mask M = s.mask M := by
  simp at hM
  have hrounds (t : State) (r : Rounds) : ({ t with rounds := r } : State).mask M = t.mask M := by
    simp [Rounds.mask, blank, hM]
  simp only [State.repath]
  split
  · rw [hrounds]
    split
    · rw [mask_roundStop (by simp [hM]), hrounds]
    · rw [mask_forEach (fun t x => by simp [hM]), hrounds]
  · rw [hrounds, mask_roundStop (by simp [hM]), hrounds]

@[simp] theorem mask_startStream (hM : Allows M [.streams, .rounds, .ledgers]) (s : State) (d u st : Nat)
    (base : BitVec 48) :
    (s.startStream d u st base).mask M = s.mask M := by
  simp at hM
  simp only [State.startStream]
  repeat' split
  all_goals simp [hM]

@[simp] theorem mask_rearmApply (hM : Allows M [.streams, .rounds, .ledgers]) (s : State) (d p : Nat)
    (w : RearmWord) :
    (s.rearmApply d p w).mask M = s.mask M := by
  simp at hM
  simp [State.rearmApply, hM]

@[simp] theorem mask_eachMember (hM : Allows M [.stalls]) (s : State) (d q a : Nat) (f : Nat → Stall → Stall) :
    (s.eachMember d q a f).mask M = s.mask M := by
  simp at hM
  simp [State.eachMember, hM]

@[simp] theorem mask_beginReplay (hM : Allows M [.stalls, .arcs]) (s : State) (d l p : Nat) (t : Fin 2) :
    (s.beginReplay d l p t).mask M = s.mask M := by
  simp at hM
  simp [State.beginReplay, hM]

@[simp] theorem mask_abandonDie (hM : Allows M [.stalls, .arcs]) (s : State) (d : Nat) :
    (s.abandonDie d).mask M = s.mask M := by
  simp at hM
  simp only [State.abandonDie]
  rw [mask_forEach (fun t i => by simp [hM])]
  simp [State.mask, blank, hM]

@[simp] theorem mask_deliver (hM : Allows M [.regs, .stores, .red, .ledgers]) (s : State) (d b : Nat)
    (t : StageTile) :
    (s.deliver d b t).mask M = s.mask M := by
  simp at hM
  simp [State.deliver, hM]

@[simp] theorem mask_startPut
    (hM : Allows M [.regs, .cnt, .errNotes, .mem, .scrub, .stores, .red, .bnd, .ledgers, .lastFault]) (s : State)
    (d l : Nat) (w : PutWord) (prog : Option Nat) :
    (s.startPut d l w prog).mask M = s.mask M := by
  simp at hM
  simp only [State.startPut]
  repeat' split
  all_goals simp [hM]

@[simp] theorem mask_commitPuts (hM : Allows M [.regs, .stores, .red, .ledgers]) (s : State) (d n : Nat) :
    (s.commitPuts d n).mask M = s.mask M := by
  simp at hM
  refine mask_forEach (fun t b => ?_) _ _
  simp only []
  rw [mask_foldl (fun u e => by simp [hM])]
  simp [hM]

@[simp] theorem mask_doneMark (hM : Allows M [.free, .cnt, .stalls, .streams, .stores, .rounds, .breaches])
    (s : State) (d b : Nat) :
    (s.doneMark d b).mask M = s.mask M := by
  simp at hM
  simp [State.doneMark, hM]

@[simp] theorem mask_stageOver (hM : Allows M [.regs, .stores, .red, .ledgers]) (s : State) (b : Nat) :
    (s.stageOver b).mask M = s.mask M := by
  simp at hM
  simp [State.stageOver, hM]

@[simp] theorem mask_dropLevel4 (hM : Allows M [.cnt, .red, .ledgers]) (s : State) (d b : Nat) :
    (s.dropLevel4 d b).mask M = s.mask M := by
  simp at hM
  simp only [State.dropLevel4]
  split <;> simp [hM]

@[simp] theorem mask_redecide (hM : Allows M [.regs, .cnt, .stores, .red, .ledgers]) (s : State) (lost b : Nat) :
    (s.redecide lost b).mask M = s.mask M := by
  simp at hM
  simp [State.redecide, hM]

@[simp] theorem mask_collectLoss (hM : Allows M [.regs, .cnt, .stores, .red, .ledgers]) (s : State) (d : Nat) :
    (s.collectLoss d).mask M = s.mask M := by
  simp at hM
  have hred (t : State) (x : Red) : ({ t with red := x } : State).mask M = t.mask M := by
    simp [State.mask, blank, hM]
  simp only [State.collectLoss]
  refine (mask_forEach (fun t b => ?_) _ _).trans (hred _ _)
  split
  · simp [hM]
  · split
    · rw [mask_forEach (fun u k => by simp [hM])]
      simp [hM]
    · split <;> simp [hM]

@[simp] theorem mask_dropUndecided (hM : Allows M [.regs, .stores, .red, .ledgers]) (s : State) :
    (s.dropUndecided).mask M = s.mask M := by
  simp at hM
  refine mask_forEach (fun t b => ?_) _ _
  simp only []
  split
  · rfl
  · rw [mask_forEach (fun u d => ?_)]
    · simp [hM]
    · split
      · rw [mask_dropSum (by simp [hM]), mask_setDieBasket (by simp [hM]), mask_foldl (fun v e => by simp [hM])]
      · rfl

@[simp] theorem mask_basketsStep (hM : Allows M [.regs, .stores, .red, .ledgers]) (s : State) :
    (s.basketsStep).mask M = s.mask M := by
  simp at hM
  have hred (t : State) (x : Red) : ({ t with red := x } : State).mask M = t.mask M := by
    simp [State.mask, blank, hM]
  simp only [State.basketsStep]
  refine (mask_forEach (fun t b => ?_) _ _).trans (hred _ _)
  rw [mask_forEach (fun u d => ?_)]
  · rw [mask_setBasket (by simp [hM])]
    split
    · rfl
    · refine mask_forEach (fun u d => ?_) _ _
      split <;> simp [hM]
  · split <;>
      rw [mask_setDieBasket (by simp [hM]), mask_dropSum (by simp [hM]), mask_foldl (fun v e => by simp [hM])]

@[simp] theorem mask_keepCursors (hM : Allows M [.red]) (s : State) (d : Nat) :
    (s.keepCursors d).mask M = s.mask M := by
  simp at hM
  simp [State.keepCursors, hM]

@[simp] theorem mask_restoreCursors (hM : Allows M [.red]) (s : State) (d : Nat) :
    (s.restoreCursors d).mask M = s.mask M := by
  simp at hM
  simp [State.restoreCursors, hM]

@[simp] theorem mask_fetchStep (hM : Allows M [.weights]) (s : State) (d : Nat) (fresh : Bool) :
    (s.fetchStep d fresh).mask M = s.mask M := by
  simp at hM
  simp [State.fetchStep, hM]

@[simp] theorem mask_fetchAbandon (hM : Allows M [.weights]) (s : State) (d : Nat) (asleep : Bool) :
    (s.fetchAbandon d asleep).mask M = s.mask M := by
  simp at hM
  simp [State.fetchAbandon, hM]

@[simp] theorem mask_fetchRestore (hM : Allows M [.weights]) (s : State) (d e n i : Nat) :
    (s.fetchRestore d e n i).mask M = s.mask M := by
  simp at hM
  simp only [State.fetchRestore]
  split <;> simp [hM]

@[simp] theorem mask_stage (hM : Allows M [.regs, .bnd]) (s : State) (w : Staged) :
    (s.stage w).mask M = s.mask M := by
  simp at hM
  simp only [State.stage]
  repeat' split
  all_goals simp [hM]

@[simp] theorem mask_pathCommitted (hM : Allows M [.roundsRest]) (s : State) :
    (s.pathCommitted).mask M = s.mask M := by
  simp at hM
  simp only [State.pathCommitted]
  repeat' split
  all_goals simp [State.mask, Weights.mask, Prog.mask, Rounds.mask, Keeper.mask, Sec.mask, Meter.mask,
    Pwr.mask, Pins.mask, HostIf.mask, blank, hM]

@[simp] theorem mask_applyStaged
    (hM : Allows M [.regs, .stalls, .check, .progRest, .flows, .talk, .keeperRest, .secRest]) (s : State) (w : Staged)
    :
    (s.applyStaged w).mask M = s.mask M := by
  have hregs : Allows M [.regs] := by simp at hM; simp [hM]
  simp at hM
  have hload (t : State) (l r : Bool) (i : BitVec 48) (a : List (List Byte)) :
      ({ t with prog := { t.prog with loadReq := l, runReq := r, loadDir := i }, sec := { t.sec with loading := a } } :
        State).mask M = t.mask M := by
    simp [State.mask, Prog.mask, Sec.mask, blank, hM]
  have hout (t : State) (o i : DWord) :
      ({ t with keeper := { t.keeper with outReq := o, inReq := i } } : State).mask M = t.mask M := by
    simp [Keeper.mask, blank, hM]
  have hmove (t : State) (m : DWord) : ({ t with keeper := { t.keeper with moveReq := m } } : State).mask M = t.mask M := by
    simp [Keeper.mask, blank, hM]
  have hleid (t : State) (b : Bool) : ({ t with keeper := { t.keeper with leidReq := b } } : State).mask M = t.mask M := by
    simp [Keeper.mask, blank, hM]
  have htrips (t : State) (l : List Nat) : ({ t with keeper := { t.keeper with trips := l } } : State).mask M = t.mask M := by
    simp [Keeper.mask, blank, hM]
  have hcheck (t : State) : ({ t with prog := { t.prog with check := .idle } } : State).mask M = t.mask M := by
    simp [Prog.mask, blank, hM]
  have hpoke (v : Word) : (s.poke w.page w.off v).mask M = s.mask M := mask_poke hregs s _ _ v
  simp only [State.applyStaged]
  split
  · simp [hM]
  · exact (hload _ _ _ _ _).trans (hpoke _)
  · split
    · exact (hout (s.poke w.page w.off w.val) _ _).trans (hpoke _)
    · exact (hout (s.poke w.page w.off w.val) _ _).trans (hpoke _)
    · exact (hmove (s.poke w.page w.off w.val) _).trans (hpoke _)
    · exact (hmove (s.poke w.page w.off w.val) _).trans (hpoke _)
    · exact hpoke _
    · exact hpoke _
  · split
    · exact hpoke _
    · exact (htrips _ _).trans (hpoke _)
  · exact (hleid (s.poke w.page w.off w.val) _).trans (hpoke _)
  · split
    · simp [hM]
    · exact hpoke _
  · split
    · exact (hcheck _).trans (hpoke _)
    · exact hpoke _
  · split
    · exact (hcheck _).trans (hpoke _)
    · exact hpoke _
  · exact hpoke _

@[simp] theorem mask_applyPart
    (hM : Allows M [.regs, .cnt, .stalls, .check, .progRest, .flows, .talk, .keeperRest, .secRest]) (s : State)
    (x : BndCtx) (p : Nat) :
    (s.applyPart x p).mask M = s.mask M := by
  simp at hM
  simp only [State.applyPart]
  rw [mask_count (by simp [hM]), mask_foldl (fun t w => by simp [hM])]

@[simp] theorem mask_setSlotState (hM : Allows M [.quarters]) (s : State) (d p : Nat) (v : SlotSt) :
    (s.setSlotState d p v).mask M = s.mask M := by
  simp at hM
  simp [State.setSlotState, hM]

@[simp] theorem mask_copySlot (hM : Allows M [.regs, .cnt, .errNotes, .mem, .scrub, .bnd, .lastFault]) (s : State)
    (d old new : Nat) :
    (s.copySlot d old new).mask M = s.mask M := by
  simp at hM
  simp [State.copySlot, hM]

@[simp] theorem mask_moveReqs (hM : Allows M [.stores]) (s : State) (d old new : Nat) :
    (s.moveReqs d old new).mask M = s.mask M := by
  simp at hM
  simp [State.moveReqs, hM]

@[simp] theorem mask_moveSlot
    (hM : Allows M [.regs, .cnt, .errNotes, .mem, .scrub, .quarters, .stalls, .streams, .stores, .bnd, .lastFault])
    (s : State) (d l new : Nat) (left : SlotSt) :
    (s.moveSlot d l new left).mask M = s.mask M := by
  simp at hM
  unfold State.moveSlot
  split <;> simp [hM]

@[simp] theorem mask_hostRemap
    (hM : Allows M [.regs, .cnt, .errNotes, .mem, .scrub, .quarters, .stalls, .streams, .stores, .bnd, .lastFault])
    (s : State) (c : Nat) (v : Word) :
    (s.hostRemap c v).mask M = s.mask M := by
  simp at hM
  simp only [State.hostRemap]
  split <;> simp [hM]

@[simp] theorem mask_ctxCommitted (hM : Allows M [.free, .regs, .cnt, .errNotes, .mem, .scrub, .quarters, .stalls,
    .streams, .stores, .rounds, .roundsRest, .weights, .bnd, .ledgers, .lastFault]) (s0 : State) (c : Nat) :
    (s0.ctxCommitted c).mask M = s0.mask M := by
  simp at hM
  unfold State.ctxCommitted
  split <;> simp [hM]

@[simp] theorem mask_ctxApply (hM : Allows M [.free, .regs, .cnt, .errNotes, .mem, .scrub, .quarters, .stalls,
    .streams, .stores, .rounds, .roundsRest, .check, .progRest, .weights, .flows, .bnd, .ledgers, .lastFault, .talk,
    .keeperRest, .secRest]) (s : State) (c p : Nat) :
    (s.ctxApply c p).mask M = s.mask M := by
  simp at hM
  simp [State.ctxApply, hM]

@[simp] theorem mask_finishApply (hM : Allows M [.free, .regs, .cnt, .errNotes, .mem, .scrub, .quarters, .stalls,
    .streams, .stores, .rounds, .roundsRest, .check, .progRest, .weights, .flows, .bnd, .ledgers, .lastFault, .talk,
    .keeperRest, .secRest]) (s : State) (c : Nat) :
    (s.finishApply c).mask M = s.mask M := by
  simp at hM
  simp [State.finishApply, hM]

@[simp] theorem mask_abortAll (hM : Allows M [.free, .regs, .cnt, .errNotes, .mem, .scrub, .quarters, .stalls,
    .streams, .stores, .rounds, .roundsRest, .check, .progRest, .weights, .flows, .bnd, .ledgers, .lastFault, .talk,
    .keeperRest, .secRest]) (s : State) (reason : Byte) :
    (s.abortAll reason).mask M = s.mask M := by
  simp at hM
  simp [State.abortAll, hM]

@[simp] theorem mask_ctxDieLost (hM : Allows M [.free, .regs, .cnt, .errNotes, .mem, .scrub, .quarters, .stalls,
    .streams, .stores, .rounds, .roundsRest, .weights, .bnd, .ledgers, .lastFault]) (s : State) (d : Nat) :
    (s.ctxDieLost d).mask M = s.mask M := by
  simp at hM
  simp [State.ctxDieLost, hM]

@[simp] theorem mask_makeWay (hM : Allows M [.free, .regs, .cnt, .errNotes, .mem, .scrub, .quarters, .stalls,
    .streams, .stores, .rounds, .roundsRest, .check, .progRest, .weights, .flows, .bnd, .ledgers, .lastFault, .talk,
    .keeperRest, .secRest]) (s : State) (engine : Bool) (scope : DWord) :
    (s.makeWay engine scope).mask M = s.mask M := by
  simp at hM
  simp [State.makeWay, hM]

@[simp] theorem mask_internal (hM : Allows M [.free, .regs, .cnt, .errNotes, .mem, .scrub, .quarters, .stalls,
    .streams, .stores, .rounds, .roundsRest, .check, .progRest, .weights, .flows, .bnd, .ledgers, .lastFault, .talk,
    .keeperRest, .secRest]) (s : State) (c : Nat) (engine : Bool) (scope : DWord) (ws : List Staged) :
    (s.internal c engine scope ws).mask M = s.mask M := by
  simp at hM
  simp [State.internal, hM]

@[simp] theorem mask_applyBracket (hM : Allows M [.cnt, .stalls, .streams, .stores, .rounds, .breaches, .ledgers])
    (s : State) (d l p phase : Nat) :
    (s.applyBracket d l p phase).mask M = s.mask M := by
  simp at hM
  simp only [State.applyBracket]
  split
  · rfl
  · refine mask_foldl (fun t c => ?_) _ _
    split
    · split <;> simp [hM]
    · rfl
    · split <;> simp [hM]

@[simp] theorem mask_pbApply
    (hM : Allows M [.regs, .cnt, .stalls, .streams, .stores, .rounds, .breaches, .red, .bnd, .ledgers]) (s : State)
    (d n : Nat) :
    (s.pbApply d n).mask M = s.mask M := by
  simp at hM
  simp only [State.pbApply]
  rw [mask_setPbundle (by simp [hM]), mask_ledReturn (by simp [hM]), mask_pbNote (by simp [hM]), mask_count (by simp [hM]),
    mask_count (by simp [hM]), mask_pbLeave (by simp [hM]), mask_foldl (fun u e => by split <;> simp [hM]),
    mask_commitPuts (by simp [hM]), mask_foldl (fun u e => by split <;> simp [hM])]

@[simp] theorem mask_pbAbortAll
    (hM : Allows M [.regs, .cnt, .stalls, .streams, .stores, .rounds, .breaches, .red, .bnd, .ledgers, .lastFault])
    (s : State) (reason : Byte) :
    (s.pbAbortAll reason).mask M = s.mask M := by
  simp at hM
  refine mask_forEach (fun t n => ?_) _ _
  split
  · refine mask_foldl (fun u d => ?_) _ _
    split <;> simp [hM]
  · simp [hM]

@[simp] theorem mask_pbDark
    (hM : Allows M [.regs, .cnt, .stalls, .stores, .breaches, .red, .bnd, .ledgers, .lastFault]) (s : State)
    (d q : Nat) :
    (s.pbDark d q).mask M = s.mask M := by
  simp at hM
  simp [State.pbDark, hM]

@[simp] theorem mask_roundClear (hM : Allows M [.rounds, .ledgers]) (s : State) (d c : Nat) (st : RoundSt) :
    (s.roundClear d c st).mask M = s.mask M := by
  simp at hM
  simp [State.roundClear, hM]

@[simp] theorem mask_tagsClear (hM : Allows M [.weights]) (s : State) (d : Nat) :
    (s.tagsClear d).mask M = s.mask M := by
  simp at hM
  simp [State.tagsClear, State.mask, HostIf.mask, Rounds.mask, Prog.mask, Weights.mask,
    Pwr.mask, Keeper.mask, Sec.mask, Meter.mask, Pins.mask, blank, hM]

@[simp] theorem mask_dropStreams (hM : Allows M [.cnt, .streams, .ledgers]) (s : State) (d : Nat)
    (sel : Nat → Stream → Bool) :
    (s.dropStreams d sel).mask M = s.mask M := by
  simp at hM
  simp [State.dropStreams, hM]

@[simp] theorem mask_loadStream (hM : Allows M [.streams]) (s : State) (d u st : Nat) (desc : List Word) :
    (s.loadStream d u st desc).mask M = s.mask M := by
  simp at hM
  simp [State.loadStream, hM]

@[simp] theorem mask_loadDie
    (hM : Allows M [.regs, .cnt, .stalls, .arcs, .streams, .stores, .rounds, .weights, .ledgers]) (s : State) (d : Nat)
    :
    (s.loadDie d).mask M = s.mask M := by
  simp at hM
  have hstores (t : State) (x : Stores) : ({ t with stores := x } : State).mask M = t.mask M := by
    simp [State.mask, blank, hM]
  simp only [State.loadDie]
  rw [mask_fetchStep (by simp [hM]), mask_tagsClear (by simp [hM]), mask_forEach (fun t c => by simp [hM]),
    mask_forEach (fun t i => by simp [hM]), mask_forEach (fun t st => by simp [hM]), mask_forEach (fun t l => ?_), hstores,
    mask_abandonDie (by simp [hM]), mask_dropStreams (by simp [hM])]
  split
  · rfl
  · exact mask_foldl (fun u st => by simp [hM]) _ _

@[simp] theorem mask_rewind (hM : Allows M [.stalls]) (s : State) (d : Nat) (st : SeqSt) :
    (s.rewind d st).mask M = s.mask M := by
  simp at hM
  simp [State.rewind, hM]

@[simp] theorem mask_loadImage
    (hM : Allows M [.regs, .cnt, .stalls, .arcs, .streams, .stores, .rounds, .weights, .bnd, .ledgers]) (s : State) :
    (s.loadImage).mask M = s.mask M := by
  simp at hM
  have hrest (t : State) (l : SMap PBundle) : ({ t with
      bnd := { t.bnd with progs := l }, rounds := { t.rounds with transit := [] } } : State).mask M = t.mask M := by
    simp [State.mask, Rounds.mask, blank, hM]
  exact (hrest _ _).trans (mask_forEach (fun t d => by simp [hM]) _ _)

@[simp] theorem mask_applyImage (hM : Allows M [.regs, .cnt, .stalls, .arcs, .streams, .stores, .rounds,
    .roundsRest, .breaches, .assume, .progRest, .weights, .bnd, .ledgers, .keeperRest, .secRest]) (s : State) :
    (s.applyImage).mask M = s.mask M := by
  simp at hM
  have hall (p : Prog) (x : Sec) (k : Keeper) (r : Rounds) (hp : p.mask M = s.prog.mask M) (hx : x.mask M = s.sec.mask M)
      (hk : k.mask M = s.keeper.mask M) (hr : r.mask M = s.rounds.mask M) :
      ({ s with prog := p, sec := x, keeper := k, rounds := r } : State).mask M = s.mask M := by
    simp [State.mask, hp, hx, hk, hr]
  simp only [State.applyImage]
  rw [mask_forEach (fun u d => by simp [hM]), mask_loadImage (by simp [hM])]
  exact hall _ _ _ _ (by simp [Prog.mask, blank, hM]) (by simp [Sec.mask, blank, hM]) (by simp [Keeper.mask, blank, hM])
    (by simp [Rounds.mask, blank, hM])

@[simp] theorem mask_runStreams (hM : Allows M [.streams, .rounds, .ledgers]) (s : State) (d : Nat) :
    (s.runStreams d).mask M = s.mask M := by
  simp at hM
  simp [State.runStreams, hM]

@[simp] theorem mask_startStep (hM : Allows M [.regs, .cnt, .dies, .stalls, .arcs, .streams, .stores, .rounds,
    .breaches, .progRest, .weights, .red, .bnd, .ledgers]) (s : State) :
    (s.startStep).mask M = s.mask M := by
  simp at hM
  have hbaskets (t : State) : t.basketsStep.prog.mask M = t.prog.mask M :=
    (congrArg State.prog (mask_basketsStep (M := M) (by simp [hM]) t) :)
  simp only [State.startStep]
  rw [mask_with_prog ?_, mask_basketsStep (by simp [hM]), mask_forEach (fun t d => by simp [hM]), mask_loadImage (by simp [hM])]
  rw [hbaskets]
  simp [Prog.mask, blank, hM]

@[simp] theorem mask_dropQueued (hM : Allows M [.flows]) (s : State) (d : Nat) :
    (s.dropQueued d).mask M = s.mask M := by
  simp at hM
  simp [State.dropQueued, State.mask, HostIf.mask, Rounds.mask, Prog.mask, Weights.mask,
    Pwr.mask, Keeper.mask, Sec.mask, Meter.mask, Pins.mask, blank, hM]

@[simp] theorem mask_dropPortOut (hM : Allows M [.streams, .flows, .ledgers]) (s : State) (d : Nat) :
    (s.dropPortOut d).mask M = s.mask M := by
  simp at hM
  simp [State.dropPortOut, hM]

@[simp] theorem mask_clearGates (hM : Allows M [.streams, .stores, .rounds]) (s : State) (d : Nat) :
    (s.clearGates d).mask M = s.mask M := by
  simp at hM
  simp [State.clearGates, State.mask, HostIf.mask, Rounds.mask, Prog.mask, Weights.mask,
    Pwr.mask, Keeper.mask, Sec.mask, Meter.mask, Pins.mask, blank, hM]

@[simp] theorem mask_stopDie
    (hM : Allows M [.cnt, .stalls, .arcs, .streams, .stores, .rounds, .weights, .flows, .ledgers]) (s : State)
    (d : Nat) :
    (s.stopDie d).mask M = s.mask M := by
  simp at hM
  simp [State.stopDie, hM]

@[simp] theorem mask_dropBells (hM : Allows M [.ledgers]) (s : State) :
    (s.dropBells).mask M = s.mask M := by
  simp at hM
  simp [State.dropBells, hM]

@[simp] theorem mask_stopWork (hM : Allows M [.regs, .cnt, .stalls, .arcs, .streams, .stores, .rounds, .breaches,
    .weights, .red, .flows, .bnd, .ledgers, .lastFault]) (s : State) (reason : Byte) :
    (s.stopWork reason).mask M = s.mask M := by
  simp at hM
  simp [State.stopWork, hM]

@[simp] theorem mask_abortProgram (hM : Allows M [.regs, .cnt, .stalls, .arcs, .streams, .stores, .rounds,
    .breaches, .progRest, .weights, .red, .flows, .bnd, .ledgers, .lastFault]) (s : State) :
    (s.abortProgram).mask M = s.mask M := by
  simp at hM
  simp [State.abortProgram, Weights.mask, Prog.mask, Rounds.mask, Keeper.mask, Sec.mask, Meter.mask,
    Pwr.mask, Pins.mask, HostIf.mask, blank, hM]

@[simp] theorem mask_closeOut (hM : Allows M [.free, .regs, .cnt, .errNotes, .mem, .scrub, .quarters, .stalls,
    .arcs, .streams, .stores, .rounds, .roundsRest, .breaches, .check, .progRest, .weights, .red, .flows, .bnd,
    .ledgers, .lastFault, .talk, .keeperRest, .secRest]) (s : State) :
    (s.closeOut).mask M = s.mask M := by
  simp at hM
  simp [State.closeOut, Weights.mask, Prog.mask, Rounds.mask, Keeper.mask, Sec.mask, Meter.mask,
    Pwr.mask, Pins.mask, HostIf.mask, blank, hM]

@[simp] theorem mask_recordBreach (hM : Allows M [.regs, .cnt, .bnd, .lastFault]) (s : State) (b : Breach) :
    (s.recordBreach b).mask M = s.mask M := by
  simp at hM
  simp [State.recordBreach, hM]

@[simp] theorem mask_restoreStream (hM : Allows M [.cnt, .streams, .weights, .ledgers]) (s : State) (d u st a : Nat) :
    (s.restoreStream d u st a).mask M = s.mask M := by
  simp at hM
  simp only [State.restoreStream]
  split <;> simp [hM]

@[simp] theorem mask_restoreDie (hM : Allows M [.regs, .cnt, .errNotes, .mem, .scrub, .stalls, .streams, .stores,
    .rounds, .weights, .red, .bnd, .ledgers, .lastFault]) (s0 : State) (d p : Nat) :
    (s0.restoreDie d p).mask M = s0.mask M := by
  simp at hM
  have hstores (t : State) (x : Stores) : ({ t with stores := x } : State).mask M = t.mask M := by
    simp [State.mask, blank, hM]
  simp only [State.restoreDie]
  rw [mask_restoreCursors (by simp [hM]), mask_forEach (fun t l => by simp [hM]),
    mask_forEach (fun t st => by split <;> simp [hM]), mask_forEach (fun t l => ?_), mask_forEach (fun t c => ?_), hstores,
    mask_noteReads (by simp [hM])]
  · rw [mask_roundClear (by simp [hM]), mask_foldl (fun u i => by simp [hM])]
  · split
    · rfl
    · exact mask_foldl (fun v st => by split <;> simp [hM]) _ _

@[simp] theorem mask_restoreZero
    (hM : Allows M [.regs, .cnt, .stalls, .arcs, .streams, .stores, .rounds, .weights, .red, .ledgers]) (s : State)
    (d : Nat) :
    (s.restoreZero d).mask M = s.mask M := by
  simp at hM
  simp [State.restoreZero, hM]

@[simp] theorem mask_restoreBrackets (hM : Allows M [.bnd]) (s : State) :
    (s.restoreBrackets).mask M = s.mask M := by
  simp at hM
  simp [State.restoreBrackets, hM]

@[simp] theorem mask_resume (hM : Allows M [.regs, .cnt, .errNotes, .mem, .scrub, .stalls, .arcs, .streams,
    .stores, .rounds, .breaches, .progRest, .weights, .red, .bnd, .ledgers, .lastFault]) (s : State) :
    (s.resume).mask M = s.mask M := by
  simp at hM
  have hrest (t : State) (n : Nat) : ({ t with
      rounds := { t.rounds with transit := [] }
      prog := { t.prog with pst := .running, replaying := false, remap := false, breaches := [], replays := n } } :
      State).mask M = t.mask M := by
    simp [State.mask, Rounds.mask, Prog.mask, blank, hM]
  simp only [State.resume]
  refine (hrest _ _).trans ?_
  have hdies : (s.forEach s.liveDies fun t d =>
      if s.prog.lastPoint = 0 then t.restoreZero d else t.restoreDie d s.prog.lastPoint).mask M = s.mask M :=
    mask_forEach (fun t d => by split <;> simp [hM]) _ _
  rw [mask_restoreBrackets (by simp [hM])]
  split
  · exact hdies
  · rw [mask_forEach (fun t e => by simp [hM]), hdies]

@[simp] theorem mask_bellSum (hM : Allows M [.regs, .cnt, .errNotes, .mem, .scrub, .bnd, .lastFault]) (s : State)
    (parts : List (Nat × Nat)) :
    (s.bellSum parts).mask M = s.mask M := by
  simp at hM
  have hops (l : List (Nat × Nat)) (a : State × List MWord) : (l.foldl (fun (a : State × List MWord) e =>
    match a.1.slotOf e.1 e.2, (a.1.stallOf e.1 e.2).bell with
    | some p, some w =>
      let k := slotAddr e.1 p (64 * w.srcAddr.toNat)
      (a.1.noteReads srcStall k 8, a.2 ++ [a.1.peek (k / 8)])
    | _, _ => a) a).1.mask M = a.1.mask M := by
    induction l generalizing a with
    | nil => rfl
    | cons e r ih =>
      refine (ih _).trans ?_
      dsimp only
      split <;> simp [hM]
  simp only [State.bellSum]
  rw [mask_foldl (fun t e => by split <;> simp [hM])]
  exact hops parts (s, [])

@[simp] theorem mask_passPoint (hM : Allows M [.progRest, .red]) (s : State) (n : Nat) :
    (s.passPoint n).mask M = s.mask M := by
  simp at hM
  simp [State.passPoint, Weights.mask, Prog.mask, Rounds.mask, Keeper.mask, Sec.mask, Meter.mask,
    Pwr.mask, Pins.mask, HostIf.mask, blank, hM]

@[simp] theorem mask_bellFinish (hM : Allows M [.free, .regs, .cnt, .errNotes, .mem, .scrub, .stalls, .progRest,
    .red, .bnd, .ledgers, .lastFault]) (s : State) (parts : List (Nat × Nat)) (w : BellWord) :
    (s.bellFinish parts w).mask M = s.mask M := by
  simp at hM
  simp [State.bellFinish, hM]

@[simp] theorem mask_bellTry (hM : Allows M [.free, .regs, .cnt, .errNotes, .mem, .scrub, .stalls, .progRest, .red,
    .bnd, .ledgers, .lastFault]) (s : State) (d l : Nat) :
    (s.bellTry d l).mask M = s.mask M := by
  simp at hM
  unfold State.bellTry
  split <;> simp [hM]

@[simp] theorem mask_bellRecheck (hM : Allows M [.free, .regs, .cnt, .errNotes, .mem, .scrub, .stalls, .progRest,
    .red, .bnd, .ledgers, .lastFault]) (s : State) :
    (s.bellRecheck).mask M = s.mask M := by
  simp at hM
  exact mask_forEach (fun t d => mask_forEach (fun u l => by simp [hM]) _ _) _ _

@[simp] theorem mask_stopUnit (hM : Allows M [.cnt, .streams, .ledgers]) (s : State) (d u : Nat) (dark : Bool) :
    (s.stopUnit d u dark).mask M = s.mask M := by
  simp at hM
  simp [State.stopUnit, hM]

@[simp] theorem mask_dropRelease (hM : Allows M [.stalls, .streams, .stores, .rounds]) (s : State) (d c : Nat) :
    (s.dropRelease d c).mask M = s.mask M := by
  simp at hM
  simp [State.dropRelease, hM]

@[simp] theorem mask_relayDie (hM : Allows M [.regs, .stalls, .streams, .stores, .rounds, .weights, .ledgers])
    (s : State) (d : Nat) :
    (s.relayDie d).mask M = s.mask M := by
  simp at hM
  simp [State.relayDie, hM]

@[simp] theorem mask_unqueue (hM : Allows M [.flows]) (s : State) (d st t : Nat) :
    (s.unqueue d st t).mask M = s.mask M := by
  simp at hM
  simp [State.unqueue, State.mask, HostIf.mask, Rounds.mask, Prog.mask, Weights.mask,
    Pwr.mask, Keeper.mask, Sec.mask, Meter.mask, Pins.mask, blank, hM]

@[simp] theorem mask_darkPortOut
    (hM : Allows M [.cnt, .stalls, .streams, .stores, .rounds, .breaches, .flows, .ledgers]) (s : State) (d : Nat) :
    (s.darkPortOut d).mask M = s.mask M := by
  simp at hM
  exact mask_forEach (fun t e => mask_forEach (fun u x => by simp [hM]) _ _) _ _

@[simp] theorem mask_dropBaskets (hM : Allows M [.regs, .stores, .red, .ledgers]) (s : State) (d : Nat) :
    (s.dropBaskets d).mask M = s.mask M := by
  simp at hM
  refine mask_forEach (fun t b => ?_) _ _
  simp only []
  split
  · rw [mask_dropSum (by simp [hM]), mask_setDieBasket (by simp [hM]), mask_foldl (fun v e => by simp [hM])]
  · rfl

@[simp] theorem mask_leaveStep (hM : Allows M [.free, .regs, .cnt, .errNotes, .mem, .scrub, .dies, .stalls, .arcs,
    .streams, .stores, .progRest, .red, .bnd, .ledgers, .lastFault]) (s : State) (d : Nat) :
    (s.leaveStep d).mask M = s.mask M := by
  simp at hM
  simp [State.leaveStep, hM]

@[simp] theorem mask_darkQuarter (hM : Allows M [.free, .regs, .cnt, .errNotes, .mem, .scrub, .dies, .quarters,
    .stalls, .arcs, .streams, .stores, .rounds, .breaches, .progRest, .weights, .red, .flows, .bnd, .ledgers,
    .lastFault]) (s : State) (d q : Nat) (st : BlkSt) (cause : BitVec 4) :
    (s.darkQuarter d q st cause).mask M = s.mask M := by
  simp at hM
  simp [State.darkQuarter, Weights.mask, Prog.mask, Rounds.mask, Keeper.mask, Sec.mask, Meter.mask,
    Pwr.mask, Pins.mask, HostIf.mask, blank, hM]

@[simp] theorem mask_clearDie
    (hM : Allows M [.regs, .mem, .scrub, .stalls, .arcs, .streams, .stores, .keys, .weights, .red, .flows]) (s : State)
    (d : Nat) :
    (s.clearDie d).mask M = s.mask M := by
  simp at hM
  simp [State.clearDie, State.mask, HostIf.mask, Rounds.mask, Prog.mask, Weights.mask,
    Pwr.mask, Keeper.mask, Sec.mask, Meter.mask, Pins.mask, blank, hM]

@[simp] theorem mask_writeOffDie (hM : Allows M [.cnt, .bnd, .ledgers]) (s : State) (d : Nat) :
    (s.writeOffDie d).mask M = s.mask M := by
  simp at hM
  simp [State.writeOffDie, hM]

@[simp] theorem mask_blockWales (hM : Allows M [.wales]) (s : State) :
    (s.blockWales).mask M = s.mask M := by
  simp at hM
  simp [State.blockWales, hM]

@[simp] theorem mask_commitDieOut (hM : Allows M [.free, .regs, .cnt, .errNotes, .mem, .scrub, .quarters, .stalls,
    .streams, .stores, .rounds, .roundsRest, .check, .progRest, .weights, .flows, .bnd, .ledgers, .lastFault, .talk,
    .keeperRest, .secRest]) (s : State) (d : Nat) :
    (s.commitDieOut d).mask M = s.mask M := by
  simp at hM
  simp [State.commitDieOut, hM]

@[simp] theorem mask_dieGone (hM : Allows M [.free, .regs, .cnt, .errNotes, .mem, .scrub, .dies, .quarters,
    .stalls, .arcs, .streams, .stores, .rounds, .roundsRest, .breaches, .check, .progRest, .keys, .weights, .red,
    .ports, .flows, .bnd, .ledgers, .wales, .lastFault, .talk, .keeperRest, .secRest]) (s : State) (d : Nat)
    (cause : BitVec 4) (st : BlkSt) :
    (s.dieGone d cause st).mask M = s.mask M := by
  simp at hM
  have hkeeper (t : State) (n : BitVec 16) (o : DWord) :
      ({ t with keeper := { t.keeper with memberGen := n, outReq := o } } : State).mask M = t.mask M := by
    simp [Keeper.mask, blank, hM]
  simp only [State.dieGone]
  split
  · rfl
  · rw [mask_count (by simp [hM]), hkeeper, mask_collectLoss (by simp [hM]), mask_repath (by simp [hM]),
      mask_commitDieOut (by simp [hM]), mask_blockWales (by simp [hM]), mask_setPort (by simp [hM]),
      mask_clearDie (by simp [hM]), mask_roundStop (by simp [hM]), mask_writeOffDie (by simp [hM]),
      mask_forEach (fun u q => by split <;> simp [hM]), mask_setDie (by simp [hM]), mask_ctxDieLost (by simp [hM])]
    split <;> simp [hM]

@[simp] theorem mask_takeDieOut (hM : Allows M [.free, .regs, .cnt, .errNotes, .mem, .scrub, .dies, .quarters,
    .stalls, .arcs, .streams, .stores, .rounds, .roundsRest, .breaches, .check, .progRest, .keys, .weights, .red,
    .ports, .flows, .bnd, .ledgers, .wales, .lastFault, .talk, .keeperRest, .secRest]) (s : State) (d : Nat)
    (cause : BitVec 4) :
    (s.takeDieOut d cause).mask M = s.mask M := by
  simp at hM
  simp [State.takeDieOut, hM]

@[simp] theorem mask_noSpare (hM : Allows M [.free, .regs, .cnt, .errNotes, .mem, .scrub, .dies, .quarters,
    .stalls, .arcs, .streams, .stores, .rounds, .roundsRest, .breaches, .check, .progRest, .keys, .weights, .red,
    .ports, .flows, .bnd, .ledgers, .wales, .lastFault, .repairs, .talk, .keeperRest, .secRest]) (s : State)
    (d q : Nat) :
    (s.noSpare d q).mask M = s.mask M := by
  simp at hM
  simp [State.noSpare, hM]

@[simp] theorem mask_nextSpare (hM : Allows M [.free, .regs, .cnt, .errNotes, .mem, .scrub, .dies, .quarters,
    .stalls, .arcs, .streams, .stores, .rounds, .roundsRest, .breaches, .check, .progRest, .keys, .weights, .red,
    .ports, .flows, .bnd, .ledgers, .wales, .lastFault, .repairs, .talk, .keeperRest, .secRest]) (s : State)
    (d q : Nat) :
    (s.nextSpare d q).mask M = s.mask M := by
  simp at hM
  simp only [State.nextSpare]
  repeat' split
  all_goals simp [hM]

@[simp] theorem mask_stallFault (hM : Allows M [.free, .regs, .cnt, .errNotes, .mem, .scrub, .dies, .quarters,
    .stalls, .arcs, .streams, .stores, .rounds, .roundsRest, .breaches, .check, .progRest, .keys, .weights, .red,
    .ports, .flows, .bnd, .ledgers, .wales, .lastFault, .repairs, .talk, .keeperRest, .secRest]) (s : State)
    (d l : Nat) :
    (s.stallFault d l).mask M = s.mask M := by
  simp at hM
  have hprog (t : State) (x : PSt) (a b : Bool) (l : List Breach) :
      ({ t with prog := { t.prog with pst := x, replaying := a, remap := b, breaches := l } } : State).mask M =
        t.mask M := by
    simp [Prog.mask, blank, hM]
  have hremap (t : State) : ({ t with prog := { t.prog with remap := true } } : State).mask M = t.mask M := by
    simp [Prog.mask, blank, hM]
  simp only [State.stallFault]
  repeat' split
  all_goals simp [hprog, hremap, hM]

@[simp] theorem mask_remap (hM : Allows M [.free, .regs, .cnt, .errNotes, .mem, .scrub, .quarters, .stalls,
    .streams, .stores, .rounds, .roundsRest, .check, .progRest, .weights, .flows, .bnd, .ledgers, .lastFault, .talk,
    .keeperRest, .secRest]) (s : State) (d l new : Nat) (left : SlotSt) :
    (s.remap d l new left).mask M = s.mask M := by
  simp at hM
  unfold State.remap
  split <;> simp [hM]

@[simp] theorem mask_portLost (hM : Allows M [.out, .free, .regs, .cnt, .errNotes, .mem, .scrub, .dies, .quarters,
    .stalls, .arcs, .streams, .stores, .rounds, .roundsRest, .breaches, .check, .progRest, .keys, .weights, .red,
    .ports, .flows, .bnd, .ledgers, .wales, .lastFault, .talk, .keeperRest, .secRest]) (s : State) (p : Nat) :
    (s.portLost p).mask M = s.mask M := by
  simp at hM
  simp [State.portLost, hM]

@[simp] theorem mask_handleBreach (hM : Allows M [.free, .regs, .cnt, .errNotes, .mem, .scrub, .quarters, .stalls,
    .arcs, .streams, .stores, .rounds, .roundsRest, .breaches, .check, .progRest, .weights, .red, .flows, .bnd,
    .ledgers, .lastFault, .talk, .keeperRest, .secRest]) (s : State) (b : Breach) :
    (s.handleBreach b).mask M = s.mask M := by
  simp at hM
  simp [State.handleBreach, Weights.mask, Prog.mask, Rounds.mask, Keeper.mask, Sec.mask, Meter.mask,
    Pwr.mask, Pins.mask, HostIf.mask, blank, hM]

@[simp] theorem mask_closeAll (hM : Allows M [.out, .free, .cnt, .flows]) (s : State) (p : Nat) (reason : Byte)
    (cause : BitVec 4) :
    (s.closeAll p reason cause).mask M = s.mask M := by
  simp at hM
  simp [State.closeAll, hM]

@[simp] theorem mask_withdraw (hM : Allows M [.out, .free, .regs, .cnt, .errNotes, .mem, .scrub, .quarters,
    .stalls, .arcs, .streams, .stores, .rounds, .roundsRest, .breaches, .check, .progRest, .weights, .red, .flows,
    .bnd, .ledgers, .lastFault, .talk, .keeperRest, .secRest]) (s : State) :
    (s.withdraw).mask M = s.mask M := by
  simp at hM
  simp [State.withdraw, Weights.mask, Prog.mask, Rounds.mask, Keeper.mask, Sec.mask, Meter.mask,
    Pwr.mask, Pins.mask, HostIf.mask, blank, hM]

@[simp] theorem mask_ledgerViolation (hM : Allows M [.regs, .cnt, .dies, .bnd, .lastFault]) (s : State)
    (d cls i : Nat) :
    (s.ledgerViolation d cls i).mask M = s.mask M := by
  simp at hM
  simp [State.ledgerViolation, hM]

@[simp] theorem mask_ledgerHalt (hM : Allows M [.out, .free, .regs, .cnt, .errNotes, .mem, .scrub, .dies,
    .quarters, .stalls, .arcs, .streams, .stores, .rounds, .roundsRest, .breaches, .check, .progRest, .keys, .weights,
    .red, .ports, .flows, .bnd, .ledgers, .wales, .lastFault, .repairs, .talk, .keeperRest, .secRest]) (s : State)
    (d cls i : Nat) :
    (s.ledgerHalt d cls i).mask M = s.mask M := by
  simp at hM
  simp only [State.ledgerHalt]
  repeat' split
  all_goals simp [hM]

@[simp] theorem mask_eraseKeys (hM : Allows M [.keys]) (s : State) (d : Nat) (mask : Nat) :
    (s.eraseKeys d mask).mask M = s.mask M := by
  simp at hM
  simp [State.eraseKeys, hM]

@[simp] theorem mask_portUpNow (hM : Allows M [.ports]) (s : State) (p : Nat) :
    (s.portUpNow p).mask M = s.mask M := by
  simp at hM
  simp [State.portUpNow, hM]

@[simp] theorem mask_eraseAllKeys (hM : Allows M [.keys]) (s : State) :
    (s.eraseAllKeys).mask M = s.mask M := by
  simp at hM
  simp [State.eraseAllKeys, State.mask, HostIf.mask, Rounds.mask, Prog.mask, Weights.mask,
    Pwr.mask, Keeper.mask, Sec.mask, Meter.mask, Pins.mask, blank, hM]

@[simp] theorem mask_retarget (hM : Allows M [.progRest, .shut]) (s : State) :
    (s.retarget).mask M = s.mask M := by
  simp at hM
  simp only [State.retarget]
  repeat' split
  all_goals simp [State.mask, Weights.mask, Prog.mask, Rounds.mask, Keeper.mask, Sec.mask, Meter.mask,
    Pwr.mask, Pins.mask, HostIf.mask, blank, hM]

@[simp] theorem mask_setLatch (hM : Allows M [.progRest, .shut]) (s : State) (b : Bool) :
    (s.setLatch b).mask M = s.mask M := by
  simp at hM
  rw [State.setLatch, mask_retarget (by simp [hM])]
  simp [State.mask, blank, hM]

@[simp] theorem mask_wakeBlock (hM : Allows M [.shut]) (s : State) :
    (s.wakeBlock).mask M = s.mask M := by
  simp at hM
  simp [State.wakeBlock, State.mask, HostIf.mask, Rounds.mask, Prog.mask, Weights.mask,
    Pwr.mask, Keeper.mask, Sec.mask, Meter.mask, Pins.mask, blank, hM]

@[simp] theorem mask_sendFinal (hM : Allows M [.out, .tally, .meter]) (s : State) (withdrawal : Bool) :
    (s.sendFinal withdrawal).mask M = s.mask M := by
  simp at hM
  simp [State.sendFinal, State.mask, HostIf.mask, Rounds.mask, Prog.mask, Weights.mask,
    Pwr.mask, Keeper.mask, Sec.mask, Meter.mask, Pins.mask, blank, hM]

@[simp] theorem mask_checkGo (hM : Allows M [.check, .progRest]) (s : State) :
    (s.checkGo).mask M = s.mask M := by
  simp at hM
  simp [State.checkGo, Weights.mask, Prog.mask, Rounds.mask, Keeper.mask, Sec.mask, Meter.mask,
    Pwr.mask, Pins.mask, HostIf.mask, blank, hM]

@[simp] theorem mask_adoptEnd (hM : Allows M [.cnt, .progRest, .shut, .talk, .keeperRest]) (s : State) (a : ASt)
    (cause : Byte) :
    (s.adoptEnd a cause).mask M = s.mask M := by
  simp at hM
  simp [State.adoptEnd, Weights.mask, Prog.mask, Rounds.mask, Keeper.mask, Sec.mask, Meter.mask,
    Pwr.mask, Pins.mask, HostIf.mask, blank, hM]

@[simp] theorem mask_adoptFail (hM : Allows M [.cnt, .progRest, .shut, .talk, .keeperRest]) (s : State)
    (cause : Byte) :
    (s.adoptFail cause).mask M = s.mask M := by
  simp at hM
  simp [State.adoptFail, hM]

@[simp] theorem mask_adoptLeidCommit (hM : Allows M [.free, .regs, .cnt, .errNotes, .mem, .scrub, .quarters,
    .stalls, .streams, .stores, .rounds, .roundsRest, .check, .progRest, .weights, .flows, .bnd, .ledgers, .shut,
    .lastFault, .talk, .keeperRest, .secRest]) (s : State) (leid : BitVec 20) :
    (s.adoptLeidCommit leid).mask M = s.mask M := by
  simp at hM
  simp [State.adoptLeidCommit, Weights.mask, Prog.mask, Rounds.mask, Keeper.mask, Sec.mask, Meter.mask,
    Pwr.mask, Pins.mask, HostIf.mask, blank, hM]

@[simp] theorem mask_withdrawAll (hM : Allows M [.out, .free, .regs, .cnt, .errNotes, .mem, .scrub, .quarters,
    .stalls, .arcs, .streams, .stores, .rounds, .roundsRest, .breaches, .check, .progRest, .keys, .weights, .red,
    .flows, .bnd, .ledgers, .shut, .lastFault, .talk, .keeperRest, .secRest, .tally, .meter]) (s : State) :
    (s.withdrawAll).mask M = s.mask M := by
  simp at hM
  simp [State.withdrawAll, hM]

@[simp] theorem mask_trainWale (hM : Allows M [.wales]) (s : State) (w : Nat) :
    (s.trainWale w).mask M = s.mask M := by
  simp at hM
  simp [State.trainWale, hM]

@[simp] theorem mask_bootDie (hM : Allows M [.cnt, .dies]) (s : State) (d : Nat) :
    (s.bootDie d).mask M = s.mask M := by
  simp at hM
  simp [State.bootDie, hM]

@[simp] theorem mask_zeroDie (hM : Allows M [.mem]) (s : State) (d : Nat) :
    (s.zeroDie d).mask M = s.mask M := by
  simp at hM
  simp [State.zeroDie, hM]

@[simp] theorem mask_pipeStart (hM : Allows M [.red, .ledgers]) (s : State) (d : Nat) :
    (s.pipeStart d).mask M = s.mask M := by
  simp at hM
  simp [State.pipeStart, hM]

@[simp] theorem mask_bootDone (hM : Allows M [.free, .cnt, .mem, .dies, .red, .ledgers]) (s : State) (d : Nat) :
    (s.bootDone d).mask M = s.mask M := by
  simp at hM
  have hcnt (t : State) (c : SMap DWord) (n : Nat) : ({ t with cnt := c, free := n } : State).mask M = t.mask M := by
    simp [State.mask, blank, hM]
  simp only [State.bootDone]
  rw [hcnt, mask_count (by simp [hM]), mask_pipeStart (by simp [hM]), mask_setDie (by simp [hM]), mask_zeroDie (by simp [hM])]

@[simp] theorem mask_bootFail (hM : Allows M [.free, .regs, .cnt, .errNotes, .mem, .scrub, .dies, .quarters,
    .stalls, .arcs, .streams, .stores, .rounds, .roundsRest, .breaches, .check, .progRest, .keys, .weights, .red,
    .ports, .flows, .bnd, .ledgers, .wales, .lastFault, .talk, .keeperRest, .secRest]) (s : State) (d : Nat)
    (err : Byte) :
    (s.bootFail d err).mask M = s.mask M := by
  simp at hM
  have hkeeper (t : State) (n : BitVec 16) : ({ t with keeper := { t.keeper with memberGen := n } } : State).mask M = t.mask M := by
    simp [Keeper.mask, blank, hM]
  simp only [State.bootFail]
  split
  · rw [hkeeper]
    simp [hM]
  · simp [hM]

@[simp] theorem mask_formQuarter (hM : Allows M [.quarters]) (s : State) (d q : Nat) :
    (s.formQuarter d q).mask M = s.mask M := by
  simp at hM
  simp [State.formQuarter, hM]

@[simp] theorem mask_startQuarter (hM : Allows M [.quarters]) (s : State) (d q : Nat) :
    (s.startQuarter d q).mask M = s.mask M := by
  simp at hM
  simp [State.startQuarter, hM]

@[simp] theorem mask_quarterUp (hM : Allows M [.free, .regs, .cnt, .errNotes, .mem, .scrub, .dies, .quarters,
    .stalls, .arcs, .streams, .stores, .rounds, .roundsRest, .breaches, .check, .progRest, .keys, .weights, .red,
    .ports, .flows, .bnd, .ledgers, .wales, .lastFault, .repairs, .talk, .keeperRest, .secRest]) (s : State)
    (d q : Nat) :
    (s.quarterUp d q).mask M = s.mask M := by
  simp at hM
  simp [State.quarterUp, hM]

@[simp] theorem mask_bringDies (hM : Allows M [.cnt, .dies, .ports, .wales, .keeperRest]) (s : State) :
    (s.bringDies).mask M = s.mask M := by
  simp at hM
  simp [State.bringDies, Weights.mask, Prog.mask, Rounds.mask, Keeper.mask, Sec.mask, Meter.mask,
    Pwr.mask, Pins.mask, HostIf.mask, blank, hM]

@[simp] theorem mask_upNow (hM : Allows M [.keeperCap, .talk, .keeperRest, .secRest, .pwrOk]) (s : State) :
    (s.upNow).mask M = s.mask M := by
  simp at hM
  have hall (k : Keeper) (x : Sec) (p : Pwr) (hk : k.mask M = s.keeper.mask M) (hx : x.mask M = s.sec.mask M)
      (hp : p.mask M = s.pwr.mask M) : ({ s with keeper := k, sec := x, pwr := p } : State).mask M = s.mask M := by
    simp [State.mask, hk, hx, hp]
  rw [State.upNow]
  simp only []
  rw [mask_pwrCheck (by simp [hM])]
  exact hall _ _ _ (by simp [Keeper.mask, blank, hM]) (by simp [Sec.mask, blank, hM]) (by simp [Pwr.mask, blank, hM])

@[simp] theorem mask_upCheck (hM : Allows M [.keeperCap, .talk, .keeperRest, .secRest, .pwrOk]) (s : State) :
    (s.upCheck).mask M = s.mask M := by
  simp at hM
  simp [State.upCheck, hM]

@[simp] theorem mask_keeperRefuse (hM : Allows M [.out, .free]) (s : State) :
    (s.keeperRefuse).mask M = s.mask M := by
  simp at hM
  simp [State.keeperRefuse, hM]

@[simp] theorem mask_stepEight (hM : Allows M [.progRest, .shut, .keeperRest]) (s : State) :
    (s.stepEight).mask M = s.mask M := by
  simp at hM
  simp [State.stepEight, Weights.mask, Prog.mask, Rounds.mask, Keeper.mask, Sec.mask, Meter.mask,
    Pwr.mask, Pins.mask, HostIf.mask, blank, hM]

@[simp] theorem mask_checkRefused (hM : Allows M [.check, .progRest]) (s : State) (d : Nat) (f : Found) :
    (s.checkRefused d f).mask M = s.mask M := by
  simp at hM
  simp [State.checkRefused, State.mask, HostIf.mask, Rounds.mask, Prog.mask, Weights.mask,
    Pwr.mask, Keeper.mask, Sec.mask, Meter.mask, Pins.mask, blank, hM]

@[simp] theorem mask_imageCheckPassed (hM : Allows M [.check, .progRest, .secRest]) (s : State) (dir : Nat) :
    (s.imageCheckPassed dir).mask M = s.mask M := by
  simp at hM
  simp [State.imageCheckPassed, State.mask, HostIf.mask, Rounds.mask, Prog.mask, Weights.mask,
    Pwr.mask, Keeper.mask, Sec.mask, Meter.mask, Pins.mask, blank, hM]

@[simp] theorem mask_beat (hM : Allows M [.free, .regs, .cnt, .errNotes, .mem, .scrub, .dies, .quarters, .stalls,
    .arcs, .streams, .stores, .rounds, .roundsRest, .breaches, .check, .progRest, .keys, .weights, .red, .ports,
    .flows, .bnd, .ledgers, .wales, .lastFault, .talk, .keeperRest, .secRest]) (s : State) (d : Nat) (answered : Bool)
    :
    (s.beat d answered).mask M = s.mask M := by
  simp at hM
  simp [State.beat, hM]

@[simp] theorem mask_isolateDie (hM : Allows M [.dies]) (s : State) (d : Nat) :
    (s.isolateDie d).mask M = s.mask M := by
  simp at hM
  simp [State.isolateDie, hM]

@[simp] theorem mask_quarterSleep (hM : Allows M [.cnt, .quarters]) (s : State) (d q : Nat) :
    (s.quarterSleep d q).mask M = s.mask M := by
  simp at hM
  simp only [State.quarterSleep]
  split <;> simp [hM]

@[simp] theorem mask_dieSleep (hM : Allows M [.regs, .cnt, .scrub, .dies, .quarters, .stalls, .arcs, .streams,
    .stores, .rounds, .weights, .ledgers]) (s : State) (d : Nat) :
    (s.dieSleep d).mask M = s.mask M := by
  simp at hM
  simp [State.dieSleep, hM]

@[simp] theorem mask_programLost
    (hM : Allows M [.stalls, .arcs, .streams, .stores, .rounds, .breaches, .progRest, .bnd]) (s : State) :
    (s.programLost).mask M = s.mask M := by
  simp at hM
  simp [State.programLost, State.mask, HostIf.mask, Rounds.mask, Prog.mask, Weights.mask,
    Pwr.mask, Keeper.mask, Sec.mask, Meter.mask, Pins.mask, blank, hM]

@[simp] theorem mask_holdCap (hM : Allows M [.pwrRest]) (s : State) (c : Option Nat) :
    (s.holdCap c).mask M = s.mask M := by
  simp at hM
  simp [State.holdCap, State.mask, HostIf.mask, Rounds.mask, Prog.mask, Weights.mask,
    Pwr.mask, Keeper.mask, Sec.mask, Meter.mask, Pins.mask, blank, hM]

@[simp] theorem mask_quarterRise (hM : Allows M [.quarters]) (s : State) (d q : Nat) :
    (s.quarterRise d q).mask M = s.mask M := by
  simp at hM
  simp only [State.quarterRise]
  split <;> simp [hM]

@[simp] theorem mask_dieWake (hM : Allows M [.free, .regs, .cnt, .errNotes, .mem, .scrub, .dies, .quarters,
    .stalls, .arcs, .streams, .stores, .rounds, .roundsRest, .breaches, .check, .progRest, .keys, .weights, .red,
    .ports, .flows, .bnd, .ledgers, .wales, .lastFault, .repairs, .talk, .keeperRest, .secRest]) (s : State) (d : Nat)
    :
    (s.dieWake d).mask M = s.mask M := by
  simp at hM
  simp [State.dieWake, hM]

@[simp] theorem mask_heatOff (hM : Allows M [.free, .regs, .cnt, .errNotes, .mem, .scrub, .dies, .quarters,
    .stalls, .arcs, .streams, .stores, .rounds, .breaches, .progRest, .weights, .red, .flows, .bnd, .ledgers,
    .lastFault]) (s : State) (d q : Nat) :
    (s.heatOff d q).mask M = s.mask M := by
  simp at hM
  simp [State.heatOff, hM]

@[simp] theorem mask_rearmClear (hM : Allows M [.regs]) (s : State) (g : Nat) :
    (s.rearmClear g).mask M = s.mask M := by
  simp at hM
  simp [State.rearmClear, hM]

@[simp] theorem mask_setQuarterCtl (hM : Allows M [.quarters]) (s : State) (d q : Nat) (st : BlkSt)
    (rearm drain : Bool) :
    (s.setQuarterCtl d q st rearm drain).mask M = s.mask M := by
  simp at hM
  simp [State.setQuarterCtl, hM]

@[simp] theorem mask_ctlQuarter (hM : Allows M [.quarters]) (s : State) (d q : Nat) (en dr : Bool) :
    (s.ctlQuarter d q en dr).mask M = s.mask M := by
  simp at hM
  simp only [State.ctlQuarter]
  repeat' split
  all_goals simp [hM]

@[simp] theorem mask_closeSlots (hM : Allows M [.out, .free, .regs, .cnt, .errNotes, .mem, .scrub, .stalls,
    .streams, .stores, .rounds, .breaches, .weights, .flows, .bnd, .ledgers, .lastFault]) (s : State) (p : Nat)
    (reason : Byte) :
    (s.closeSlots p reason).mask M = s.mask M := by
  simp at hM
  simp [State.closeSlots, hM]

@[simp] theorem mask_ctlPort (hM : Allows M [.out, .free, .regs, .cnt, .errNotes, .mem, .scrub, .stalls, .streams,
    .stores, .rounds, .breaches, .weights, .ports, .flows, .bnd, .ledgers, .lastFault]) (s : State) (p : Nat)
    (en dr : Bool) :
    (s.ctlPort p en dr).mask M = s.mask M := by
  simp at hM
  simp only [State.ctlPort]
  split <;> simp [hM]

@[simp] theorem mask_ctlWale (hM : Allows M [.wales]) (s : State) (w : Nat) (en : Bool) :
    (s.ctlWale w en).mask M = s.mask M := by
  simp at hM
  simp only [State.ctlWale]
  split <;> simp [hM]

@[simp] theorem mask_writeCtl (hM : Allows M [.out, .free, .regs, .cnt, .errNotes, .mem, .scrub, .quarters,
    .stalls, .streams, .stores, .rounds, .breaches, .weights, .ports, .flows, .bnd, .ledgers, .wales, .lastFault])
    (s : State) (page : Nat) (v : Word) :
    (s.writeCtl page v).mask M = s.mask M := by
  simp at hM
  unfold State.writeCtl
  split <;> simp [hM]

@[simp] theorem mask_quarterOff (hM : Allows M [.free, .regs, .cnt, .errNotes, .mem, .scrub, .dies, .quarters,
    .stalls, .arcs, .streams, .stores, .rounds, .breaches, .progRest, .weights, .red, .flows, .bnd, .ledgers,
    .lastFault]) (s : State) (d q : Nat) :
    (s.quarterOff d q).mask M = s.mask M := by
  simp at hM
  simp [State.quarterOff, hM]

@[simp] theorem mask_dropSlots (hM : Allows M [.out, .free, .regs, .cnt, .errNotes, .mem, .scrub, .stalls,
    .streams, .stores, .rounds, .breaches, .weights, .ports, .flows, .bnd, .ledgers, .lastFault]) (s : State) (p : Nat)
    :
    (s.dropSlots p).mask M = s.mask M := by
  simp at hM
  refine mask_forEach (fun t f => ?_) _ _
  split <;> simp [hM]

@[simp] theorem mask_portOff (hM : Allows M [.cnt, .ports]) (s : State) (p : Nat) :
    (s.portOff p).mask M = s.mask M := by
  simp at hM
  simp [State.portOff, hM]

@[simp] theorem mask_portDrain (hM : Allows M [.out, .free, .regs, .cnt, .errNotes, .mem, .scrub, .stalls,
    .streams, .stores, .rounds, .breaches, .weights, .ports, .flows, .bnd, .ledgers, .lastFault]) (s : State) (p : Nat)
    :
    (s.portDrain p).mask M = s.mask M := by
  simp at hM
  simp [State.portDrain, hM]

@[simp] theorem mask_waleOff (hM : Allows M [.assume, .wales]) (s : State) (w : Nat) :
    (s.waleOff w).mask M = s.mask M := by
  simp at hM
  simp [State.waleOff, hM]

@[simp] theorem mask_waleOn (hM : Allows M [.wales]) (s : State) (w : Nat) :
    (s.waleOn w).mask M = s.mask M := by
  simp at hM
  simp [State.waleOn, hM]

@[simp] theorem mask_meterRecheck (hM : Allows M [.regs, .cnt, .progRest, .bnd, .shut, .lastFault, .meter])
    (s : State) :
    (s.meterRecheck).mask M = s.mask M := by
  simp at hM
  simp [State.meterRecheck, Weights.mask, Prog.mask, Rounds.mask, Keeper.mask, Sec.mask, Meter.mask,
    Pwr.mask, Pins.mask, HostIf.mask, blank, hM]

@[simp] theorem mask_deliverRefused (hM : Allows M [.out, .regs, .cnt, .bnd, .lastFault]) (s : State)
    (cause slot keyId : Nat) :
    (s.deliverRefused cause slot keyId).mask M = s.mask M := by
  simp at hM
  simp [State.deliverRefused, hM]

@[simp] theorem mask_installKey (hM : Allows M [.out, .regs, .cnt, .keys]) (s : State) (o : Offer)
    (key : BitVec 256) :
    (s.installKey o key).mask M = s.mask M := by
  simp at hM
  simp [State.installKey, hM]

@[simp] theorem mask_checkPassed (hM : Allows M [.cnt, .stalls]) (s : State) (d p : Nat) (t : Fin 2) (w : PassWord) :
    (s.checkPassed d p t w).mask M = s.mask M := by
  simp at hM
  simp [State.checkPassed, hM]

@[simp] theorem mask_styRepeat (hM : Allows M [.free, .regs, .cnt, .errNotes, .mem, .scrub, .dies, .quarters,
    .stalls, .arcs, .streams, .stores, .rounds, .roundsRest, .breaches, .check, .progRest, .keys, .weights, .red,
    .ports, .flows, .bnd, .ledgers, .wales, .lastFault, .repairs, .talk, .keeperRest, .secRest]) (s : State)
    (d l p : Nat) :
    (s.styRepeat d l p).mask M = s.mask M := by
  simp at hM
  simp [State.styRepeat, hM]

@[simp] theorem mask_styTransient (hM : Allows M [.free, .regs, .cnt, .errNotes, .mem, .scrub, .dies, .quarters,
    .stalls, .arcs, .streams, .stores, .rounds, .roundsRest, .breaches, .check, .progRest, .keys, .weights, .red,
    .ports, .flows, .bnd, .ledgers, .wales, .lastFault, .repairs, .talk, .keeperRest, .secRest]) (s : State)
    (d l p : Nat) (t : Fin 2) :
    (s.styTransient d l p t).mask M = s.mask M := by
  simp at hM
  simp [State.styTransient, hM]

@[simp] theorem mask_checkTile (hM : Allows M [.free, .regs, .cnt, .errNotes, .mem, .scrub, .dies, .quarters,
    .stalls, .arcs, .streams, .stores, .rounds, .roundsRest, .breaches, .check, .progRest, .keys, .weights, .red,
    .ports, .flows, .bnd, .ledgers, .wales, .lastFault, .repairs, .talk, .keeperRest, .secRest]) (s : State)
    (d l p : Nat) (t : Fin 2) (w : PassWord) (err : List CellErr) :
    (s.checkTile d l p t w err).mask M = s.mask M := by
  simp at hM
  simp only [State.checkTile]
  split <;> simp [hM]

@[simp] theorem mask_bcastNext
    (hM : Allows M [.regs, .cnt, .errNotes, .mem, .scrub, .stalls, .arcs, .streams, .bnd, .ledgers, .lastFault])
    (s : State) (d q a : Nat) (b : Fin 2) :
    (s.bcastNext d q a b).mask M = s.mask M := by
  simp at hM
  simp [State.bcastNext, hM]

@[simp] theorem mask_bcastAgain
    (hM : Allows M [.regs, .cnt, .errNotes, .mem, .scrub, .stalls, .arcs, .bnd, .lastFault]) (s : State) (d q a : Nat)
    (b : Fin 2) (e : Nat × Nat) :
    (s.bcastAgain d q a b e).mask M = s.mask M := by
  simp at hM
  simp only [State.bcastAgain]
  split <;> simp [hM]

end Sys2Proof.Machine
end

section
/-! SUPPORT. Words at the head of a stall (R68 to R84, R103, R191 to R206): what a word that issues, starts or waits
leaves of its slot. -/

namespace Sys2Proof.Machine

/-! ### Slots -/

theorem setSlot_slot_other (s : State) {d p e r : Nat} (x : Stall) (h : 72 * e + r ≠ 72 * d + p) :
    (s.setSlot d p x).slot e r = s.slot e r := SMap.get_set_other _ _ _ h

/-! ### Tiles -/

@[simp] theorem setAcc_acc_same (x : Stall) (t : Fin 2) (a : Acc) : (x.setAcc t a).acc t = a := by
  unfold Stall.setAcc Stall.acc
  split <;> rfl

theorem setAcc_acc_other (x : Stall) {t u : Fin 2} (a : Acc) (h : u ≠ t) : (x.setAcc t a).acc u = x.acc u := by
  unfold Stall.setAcc Stall.acc
  by_cases ht : t = 0
  · have hu : u ≠ 0 := fun hu => h (hu.trans ht.symm)
    simp [ht, hu]
  · have hu : u = 0 := by omega
    simp [ht, hu]

theorem setAcc_eq (x : Stall) (t : Fin 2) (a : Acc) : ∃ a0 a1, x.setAcc t a = { x with acc0 := a0, acc1 := a1 } := by
  unfold Stall.setAcc
  split <;> exact ⟨_, _, rfl⟩

theorem wait_eq (x : Stall) (k : CmdKind) : ∃ l, x.wait k = { x with waiting := l } := by
  unfold Stall.wait
  split <;> exact ⟨_, rfl⟩

/-- A command that has issued and not started leaves its slot but for the sequencer. -/
theorem issue_unstarted_eq (x : Stall) (k : CmdKind) (st : SeqSt) :
    ∃ l, x.issue k st false =
      { x with waiting := l, cmdIndex := x.cmdIndex + 1, fetched := false, seq := st } := by
  obtain ⟨l, hl⟩ := wait_eq x k
  exact ⟨l, by simp [Stall.issue, hl]⟩

theorem enterRun_eq (x : Stall) : ∃ a0 a1, x.enterRun = { x with acc0 := a0, acc1 := a1 } := by
  obtain h | ⟨t, a, h⟩ := enterRun_eq_self_or_setAcc x
  · exact ⟨x.acc0, x.acc1, h⟩
  · rw [h]
    exact setAcc_eq x t a

/-- The pass at the front enters RUN once its tile is loaded; another tile stays as it is. -/
theorem enterRun_acc (x : Stall) (t : Fin 2) :
    x.enterRun.acc t =
      if x.passes.head? = some t ∧ (x.acc t).st = .preload ∧ (x.acc t).loaded = true then
        { x.acc t with st := .run }
      else x.acc t := by
  unfold Stall.enterRun
  cases hpasses : x.passes with
  | nil => simp
  | cons u r =>
    by_cases hu : u = t
    · subst hu
      by_cases hrun : (x.acc u).st = .preload ∧ (x.acc u).loaded = true <;> simp [hrun]
    · have hother (a : Acc) : (x.setAcc u a).acc t = x.acc t := setAcc_acc_other x a (Ne.symm hu)
      by_cases hrun : (x.acc u).st = .preload ∧ (x.acc u).loaded = true <;> simp [hrun, hu, hother]

/-! ### A PASS that issues -/

theorem passTile_loaded (x : Stall) (w : PassWord) : (x.passTile w).loaded = decide (w.preload = 0) := by
  have hcells : zeroCells.isEmpty = false := rfl
  by_cases h : w.preload = 0
  · simp only [Acc.loaded, Stall.passTile, h, if_true, hcells, Bool.not_false, decide_true]
  · simp only [Acc.loaded, Stall.passTile, h, if_false, List.isEmpty_nil, Bool.not_true, decide_false]

/-- The slot of a PASS that issues, but for the entry into RUN. -/
def passSlot (x : Stall) (w : PassWord) : Stall :=
  { (x.countPass w).1.setAcc w.acc (x.passTile w) with passes := x.passes ++ [w.acc] }.issue .pass .waitWindow false

theorem passIssue_slot (s : State) (d p : Nat) (w : PassWord) :
    (s.passIssue d p w).slot d p = (passSlot (s.slot d p) w).enterRun := by
  simp [State.passIssue, passSlot]

theorem passSlot_eq (x : Stall) (w : PassWord) :
    ∃ a0 a1 l n, passSlot x w = { x with acc0 := a0, acc1 := a1, waiting := l, sums := n, passes := x.passes ++ [w.acc]
                                         cmdIndex := x.cmdIndex + 1, fetched := false, seq := .waitWindow } := by
  unfold passSlot
  obtain ⟨a0, a1, ha⟩ := setAcc_eq (x.countPass w).1 w.acc (x.passTile w)
  obtain ⟨l, hl⟩ := issue_unstarted_eq
    { (x.countPass w).1.setAcc w.acc (x.passTile w) with passes := x.passes ++ [w.acc] } .pass .waitWindow
  rw [hl, ha]
  exact ⟨a0, a1, l, (x.countPass w).1.sums, rfl⟩

theorem issue_unstarted_acc (x : Stall) (k : CmdKind) (st : SeqSt) (t : Fin 2) : (x.issue k st false).acc t = x.acc t := by
  obtain ⟨l, hl⟩ := issue_unstarted_eq x k st
  rw [hl]
  rfl

theorem passSlot_acc (x : Stall) (w : PassWord) : (passSlot x w).acc w.acc = x.passTile w :=
  (issue_unstarted_acc _ _ _ _).trans (setAcc_acc_same _ _ _)

theorem passSlot_passes (x : Stall) (w : PassWord) : (passSlot x w).passes = x.passes ++ [w.acc] := by
  obtain ⟨a0, a1, l, n, h⟩ := passSlot_eq x w
  rw [h]

theorem passIssue_acc (s : State) (d p : Nat) (w : PassWord) :
    ((s.passIssue d p w).slot d p).acc w.acc =
      if ((s.slot d p).passes ++ [w.acc]).head? = some w.acc ∧ w.preload = 0 then
        { (s.slot d p).passTile w with st := .run }
      else (s.slot d p).passTile w := by
  have hst : ((s.slot d p).passTile w).st = .preload := rfl
  rw [passIssue_slot, enterRun_acc, passSlot_acc, passSlot_passes, passTile_loaded, hst]
  simp

/-- Of its slot a PASS that issues changes the tiles, the counters and passes, and the sequencer. -/
theorem passIssue_slot_eq (s : State) (d p : Nat) (w : PassWord) :
    ∃ a0 a1 l n, (s.passIssue d p w).slot d p = { s.slot d p with
      acc0 := a0, acc1 := a1, waiting := l, sums := n, passes := (s.slot d p).passes ++ [w.acc]
      cmdIndex := (s.slot d p).cmdIndex + 1, fetched := false, seq := .waitWindow } := by
  obtain ⟨a0, a1, l, n, h⟩ := passSlot_eq (s.slot d p) w
  obtain ⟨b0, b1, h'⟩ := enterRun_eq (passSlot (s.slot d p) w)
  exact ⟨b0, b1, l, n, by rw [passIssue_slot, h', h]⟩

theorem passIssue_slot_other (s : State) (d p : Nat) (w : PassWord) {e r : Nat} (h : 72 * e + r ≠ 72 * d + p) :
    (s.passIssue d p w).slot e r = s.slot e r :=
  (flagIf_slot _ _ _ _ _ _ _).trans (setSlot_slot_other s _ h)

theorem pass_issues (s : State) (d : Die) (l : Stl) (w : PassWord) (p : Nat)
    (hhead : s.headSlot d l (.pass w) = some p) (hok : passOk w = true)
    (hgo : (s.reachHead d l p).passWaits d p w = false) :
    Completes (.pass d l w) s fun t =>
      let u := s.reachHead d l p
      let x := u.slot d p
      let y := t.slot d p
      (y.acc w.acc).word = some w ∧ (y.acc w.acc).kdone = 0 ∧ (y.acc w.acc).wbPend = w.psum ∧
      (y.acc w.acc).cells = (if w.preload = 0 then zeroCells else []) ∧
      (y.acc w.acc).st = (if (x.passes ++ [w.acc]).head? = some w.acc ∧ w.preload = 0 then .run else .preload) ∧
      y.passes = x.passes ++ [w.acc] ∧ y.cmdIndex = x.cmdIndex + 1 ∧
      y.bank0 = x.bank0 ∧ y.bank1 = x.bank1 ∧ y.drains = x.drains ∧ y.priv = x.priv ∧ u.onlySlot t d p := by
  let u := s.reachHead d l p
  have hacc := passIssue_acc u d p w
  obtain ⟨a0, a1, lw, n, hslot⟩ := passIssue_slot_eq u d p w
  have hsame : SameBut [.stalls, .regs, .cnt, .changes] u (s.finish (u.passIssue d p w)) := by
    simp [SameBut, among]
  refine ⟨_, exec_pass_issues hhead hok hgo, ?_⟩
  simp only [finish_slot]
  refine ⟨?_, ?_, ?_, ?_, ?_, passIssue_passes u d p w, ?_, ?_, ?_, ?_, ?_, hsame.frame, fun e r h =>
    passIssue_slot_other u d p w h⟩
  iterate 4
    · rw [hacc]
      split <;> rfl
  · rw [hacc]
    split <;> rfl
  all_goals rw [hslot]

/-! ### A word that waits -/

theorem countBallast_slot (s : State) (d p cycles : Nat) :
    ∃ g, (s.countBallast d p cycles).slot d p = { s.slot d p with gap := g } :=
  ⟨_, setSlot_slot_same _⟩

theorem countBallast_counter (s : State) (d p cycles : Nat) :
    (s.countBallast d p cycles).counter (pgStall d p) 2 =
      s.counter (pgStall d p) 2 + BitVec.ofNat 64 (cycles * 256 * (s.slot d p).duty) :=
  count_counter_same s

theorem countBallast_ballast (s : State) (d p cycles : Nat) :
    (s.countBallast d p cycles).meter.tally.ballast = s.meter.tally.ballast + cycles * 256 * (s.slot d p).duty := rfl

theorem countBallast_mem (s : State) (d p cycles : Nat) : (s.countBallast d p cycles).mem = s.mem := rfl

theorem countBallast_regs (s : State) (d p cycles : Nat) : (s.countBallast d p cycles).regs = s.regs := rfl

theorem pokePair_regPair (s : State) (page off : Nat) (v : DWord) : (s.pokePair page off v).regPair page off = v := by
  have hkey : regKey page off ≠ regKey page (off + 4) := by
    unfold regKey
    omega
  rw [State.regPair, State.pokePair, poke_reg_same, poke_reg_other _ hkey, poke_reg_same]
  ext i hi
  simp only [BitVec.getElem_append, BitVec.getElem_extractLsb']
  split <;> grind

theorem stallWait_slot (s : State) (d p : Nat) (k : CmdKind) (st : SeqSt) (counted : Bool) :
    ∃ l g, (s.stallWait d p k st counted).slot d p = { s.slot d p with waiting := l, seq := st, gap := g } := by
  obtain ⟨l, hl⟩ := wait_eq (s.slot d p) k
  have hslot (t : State) (ht : t.slot d p = { s.slot d p with waiting := l, seq := st }) :
      ∃ l g, (if s.inWindow d p then t else t.countBallast d p 1).slot d p =
        { s.slot d p with waiting := l, seq := st, gap := g } := by
    obtain ⟨g, hg⟩ := countBallast_slot t d p 1
    split
    · exact ⟨l, _, ht⟩
    · exact ⟨l, g, by rw [hg, ht]⟩
  have hwait : (s.setSlot d p { (s.slot d p).wait k with seq := st }).slot d p =
      { s.slot d p with waiting := l, seq := st } := by
    rw [setSlot_slot_same, hl]
  refine hslot _ ?_
  split
  · exact hwait
  · exact hwait

theorem stallWait_waitCyc (s : State) (d p : Nat) (k : CmdKind) (st : SeqSt) :
    (s.stallWait d p k st true).regPair (pgStall d p) rWaitCyc = s.regPair (pgStall d p) rWaitCyc + 1 := by
  have hpair (t : State) : ∀ c : Bool, (if c then t else t.countBallast d p 1).regPair (pgStall d p) rWaitCyc =
      t.regPair (pgStall d p) rWaitCyc := by
    rintro (_ | _) <;> rfl
  exact (hpair _ _).trans (pokePair_regPair _ _ _ _)

theorem pass_waits (s : State) (d : Die) (l : Stl) (w : PassWord) (p : Nat)
    (hhead : s.headSlot d l (.pass w) = some p) (hok : passOk w = true)
    (hwait : (s.reachHead d l p).passWaits d p w = true) :
    Completes (.pass d l w) s fun t =>
      let u := s.reachHead d l p
      let x := u.slot d p
      let y := t.slot d p
      y.acc0 = x.acc0 ∧ y.acc1 = x.acc1 ∧ y.passes = x.passes ∧ y.sums = x.sums ∧ y.cmdIndex = x.cmdIndex ∧
      t.regPair (pgStall d p) rWaitCyc = u.regPair (pgStall d p) rWaitCyc + 1 ∧ t.mem = u.mem := by
  let u := s.reachHead d l p
  have hx : execPass d l w s = s.ok (u.stallWait d p .pass .waitTile true) := by
    simp [execPass, hhead, hok, hwait, u]
  obtain ⟨lw, g, hslot⟩ := stallWait_slot u d p .pass .waitTile true
  have hcyc := stallWait_waitCyc u d p .pass .waitTile
  have hmem : (u.stallWait d p .pass .waitTile true).mem = u.mem := mem_of_mask (by simp)
  generalize u.stallWait d p .pass .waitTile true = v at *
  refine .of_ok hx ⟨?_, ?_, ?_, ?_, ?_, hcyc, hmem⟩
  all_goals rw [finish_slot, hslot]

/-- Settles O22: a PASS whose tile and operands are free issues, and one that must wait waits. -/
theorem passesIssueInTurn : Obligations.PassesIssueInTurn := ⟨pass_issues, pass_waits⟩

/-! ### DRAIN, LOADW, BUNDLE_OPEN, BALLAST and HALT -/

/-- A command that sets one slot of the state in which its word has been read. -/
theorem onlySlot_setSlot (s u : State) (d p : Nat) (x : Stall) : u.onlySlot (s.finish (u.setSlot d p x)) d p := by
  have hsame : SameBut [.stalls, .regs, .cnt, .changes] u (s.finish (u.setSlot d p x)) := by
    simp [SameBut, among]
  exact ⟨hsame.frame, fun e r h => setSlot_slot_other u x h⟩

theorem drain_issues (s : State) (d : Die) (l : Stl) (w : DrainWord) (p : Nat)
    (hhead : s.headSlot d l (.drain w) = some p) (hroom : ((s.reachHead d l p).slot d p).drains.length < 2) :
    Completes (.drain d l w) s fun t =>
      let u := s.reachHead d l p
      (t.slot d p).drains.length = (u.slot d p).drains.length + 1 ∧
      (∃ j : DrainJob, (t.slot d p).drains = (u.slot d p).drains ++ [j] ∧ j.word = w ∧ j.started = false) ∧
      (t.slot d p).cmdIndex = (u.slot d p).cmdIndex + 1 ∧ (t.slot d p).acc0 = (u.slot d p).acc0 ∧
      (t.slot d p).acc1 = (u.slot d p).acc1 ∧ u.onlySlot t d p := by
  let u := s.reachHead d l p
  let x := u.slot d p
  let job : DrainJob := { word := w, started := false, gen := 0, draws := false, at' := 0, shared := false,
                          reads := [], whole := false, left := false, rows := [], counts := [] }
  obtain ⟨lw, hy⟩ := issue_unstarted_eq { x with drains := x.drains ++ [job] } .drain .run
  have hx : execDrain d l w s = s.ok (u.setSlot d p ({ x with drains := x.drains ++ [job] }.issue .drain .run false)) := by
    simp [execDrain, hhead, Nat.not_le.mpr hroom, u, x, job]
  rw [hy] at hx
  refine .of_ok hx ?_
  simp only [finish_slot, setSlot_slot_same]
  exact ⟨by simp [x, u], ⟨job, rfl, rfl, rfl⟩, rfl, rfl, rfl, onlySlot_setSlot s u d p _⟩

theorem loadw_issues (s : State) (d : Die) (l : Stl) (w : LoadwWord) (p : Nat)
    (hhead : s.headSlot d l (.loadw w) = some p) (hpriv : ((s.reachHead d l p).slot d p).priv = none)
    (hfree : ((s.reachHead d l p).slot d p).bank0.st = .free ∨ ((s.reachHead d l p).slot d p).bank1.st = .free) :
    Completes (.loadw d l w) s fun t =>
      let u := s.reachHead d l p
      (t.slot d p).priv = some { addr := w.addr, kind := w.kind, tiles := w.tiles.toNat, consumed := 0, again := [] } ∧
      (t.slot d p).cmdIndex = (u.slot d p).cmdIndex + 1 ∧ (t.slot d p).acc0 = (u.slot d p).acc0 ∧
      (t.slot d p).acc1 = (u.slot d p).acc1 ∧ (t.slot d p).bank0 = (u.slot d p).bank0 ∧
      (t.slot d p).bank1 = (u.slot d p).bank1 ∧ u.onlySlot t d p := by
  let u := s.reachHead d l p
  let x := u.slot d p
  let q : PrivSeq := { addr := w.addr, kind := w.kind, tiles := w.tiles.toNat, consumed := 0, again := [] }
  have hissue : ∃ lw, x.issue .loadw .run (!x.portBusy) =
      { x with waiting := lw, cmdIndex := x.cmdIndex + 1, fetched := false, seq := .run } := by
    cases x.portBusy with
    | true => exact issue_unstarted_eq x .loadw .run
    | false => exact ⟨_, rfl⟩
  obtain ⟨lw, hy⟩ := hissue
  have hx : execLoadw d l w s =
      s.ok (u.setSlot d p { x.issue .loadw .run (!x.portBusy) with priv := some q, reading := true }) := by
    simp [execLoadw, hhead, hpriv, hfree, u, x, q]
  rw [hy] at hx
  refine .of_ok hx ?_
  simp only [finish_slot, setSlot_slot_same]
  exact ⟨rfl, rfl, rfl, rfl, rfl, rfl, onlySlot_setSlot s u d p _⟩

theorem bundleOpen_opens (s : State) (d : Die) (l : Stl) (n : Fin 4096) (p : Nat)
    (hhead : s.headSlot d l (.bopen n) = some p) :
    Completes (.bundleOpen d l n) s fun t =>
      let u := s.reachHead d l p
      let again := (u.pbundle n).base + SMap.get 0 (u.pbundle n).closed (64 * d.val + l.val) < (u.pbundle n).count
      (t.slot d p).bracket = some { num := n, staged := [], ready := false, void := decide again } ∧
      (u.slot d p).movedOn (t.slot d p) .run ∧ u.onlySlot t d p := by
  let u := s.reachHead d l p
  let b := u.pbundle n
  let br : Bracket := { num := n, void := decide (b.base + SMap.get 0 b.closed (64 * d.val + l.val) < b.count)
                        staged := [], ready := false }
  have hx : execBundleOpen d l n s = s.ok (u.setSlot d p { (u.slot d p).advance .run with bracket := some br }) := by
    simp [execBundleOpen, hhead, u, br, b]
  refine .of_ok hx ?_
  simp only [finish_slot, setSlot_slot_same]
  exact ⟨rfl, ⟨rfl, rfl, rfl⟩, onlySlot_setSlot s u d p _⟩

theorem ballast_counts (s : State) (d : Die) (l : Stl) (n : Word) (p : Nat)
    (hhead : s.headSlot d l (.ballast n.toNat) = some p) (hwin : (s.reachHead d l p).inWindow d p = false) :
    Completes (.ballast d l n) s fun t =>
      let u := s.reachHead d l p
      (u.slot d p).movedOn (t.slot d p) .ballast ∧
      t.counter (pgStall d p) 2 =
        u.counter (pgStall d p) 2 + BitVec.ofNat 64 (n.toNat * 256 * (u.slot d p).duty) ∧
      t.meter.tally.ballast = u.meter.tally.ballast + n.toNat * 256 * (u.slot d p).duty ∧
      t.mem = u.mem ∧ t.regs = u.regs := by
  let u := s.reachHead d l p
  let s1 := u.setSlot d p ((u.slot d p).advance .ballast)
  have hx : execBallast d l n s = s.ok (s1.countBallast d p n.toNat) := by
    simp [execBallast, hhead, hwin, u, s1]
  have hs1 : s1.slot d p = (u.slot d p).advance .ballast := setSlot_slot_same u
  have hduty : (s1.slot d p).duty = (u.slot d p).duty := by
    rw [hs1]
    rfl
  obtain ⟨g, hslot⟩ := countBallast_slot s1 d p n.toNat
  refine .of_ok hx ⟨?_, ?_, ?_, ?_, ?_⟩
  · rw [finish_slot, hslot, hs1]
    exact ⟨rfl, rfl, rfl⟩
  · rw [finish_counter, countBallast_counter, hduty]
    rfl
  · rw [finish_meter, countBallast_ballast, hduty, setSlot_meter]
  · rw [finish_mem, countBallast_mem, setSlot_mem]
  · rw [finish_regs, countBallast_regs, setSlot_regs]

theorem halt_halts (s : State) (d : Die) (l : Stl) (r : Bool) (p : Nat) (hhead : s.headSlot d l (.halt r) = some p) :
    Completes (.halt d l r) s fun t =>
      let u := s.reachHead d l p
      (t.slot d p).halted = some r ∧ (t.slot d p).seq = .halted ∧
      (t.slot d p).cmdIndex = (u.slot d p).cmdIndex + (if r then 0 else 1) ∧ u.onlySlot t d p := by
  let u := s.reachHead d l p
  let x := u.slot d p
  let y := if r then { x.wait .bell with seq := .halted } else x.advance .halted
  have hx : execHalt d l r s = s.ok (u.setSlot d p { y with halted := some r }) := by
    simp [execHalt, hhead, u, x, y]
  have hy : y.seq = .halted ∧ y.cmdIndex = x.cmdIndex + (if r then 0 else 1) := by
    obtain ⟨lw, hw⟩ := wait_eq x .bell
    cases r with
    | true => simp [y, hw]
    | false => exact ⟨rfl, rfl⟩
  refine .of_ok hx ?_
  simp only [finish_slot, setSlot_slot_same]
  exact ⟨trivial, hy.1, hy.2, onlySlot_setSlot s u d p _⟩

/-- Settles O24, one kind of word at a time. -/
theorem streamWordsIssue : Obligations.StreamWordsIssue :=
  ⟨drain_issues, loadw_issues, bundleOpen_opens, ballast_counts, halt_halts⟩

end Sys2Proof.Machine
end

section
/-! SUPPORT. Checks of tiles (R72 to R76): the fault of a page whose die is out is not recorded, and the slot that a
quarter's map names need not be one of the die's. -/

namespace Sys2Proof.Machine

/-- A page of a die that is out keeps its header, but for DIE_HEALTH (R344). -/
theorem raise_of_out (s : State) {page : Nat} (code : Nat) (hp : isDiePage page = true)
    (hout : s.dieOut (pageDie page) = true) (hne : page ≠ pgDieHealth (pageDie page)) : s.raise page code = s := by
  simp [State.raise, hp, hout, hne]

theorem beginReplay_regs (s : State) (d l p : Nat) (t : Fin 2) : (s.beginReplay d l p t).regs = s.regs :=
  regs_of_mask (by simp)

/-- A first mismatch in a page that keeps its header leaves FAULT as it was. -/
theorem styTransient_fault_of_out (s : State) (d l p : Nat) (t : Fin 2)
    (hout : ∀ code, s.raise (pgStall d p) code = s)
    (hlimit : (s.slot d p).strikes + 1 ≤ s.regField (pgStall d p) rStyLimit 7 0) :
    (s.styTransient d l p t).reg (pgStall d p) rFault = s.reg (pgStall d p) rFault := by
  have hkept (u : State) {o : Nat} (ho : o < 4096) (hflags : o ≠ rFlags) (hcount : o ≠ rStyTransient) :
      ((u.setBits (pgStall d p) rFlags flagTransient).incSat (pgStall d p) rStyTransient).reg (pgStall d p) o =
        u.reg (pgStall d p) o := by
    rw [State.incSat, poke_reg_other _ (regKey_ne_of_off_ne ho (by decide) hcount), State.setBits,
      poke_reg_other _ (regKey_ne_of_off_ne ho (by decide) hflags)]
  have hlt : ¬ ((s.setBits (pgStall d p) rFlags flagTransient).incSat (pgStall d p) rStyTransient).regField
      (pgStall d p) rStyLimit 7 0 < (s.slot d p).strikes + 1 := by
    rw [State.regField, hkept s (by decide) (by decide) (by decide)]
    exact Nat.not_lt.mpr hlimit
  have hslot : ((s.setBits (pgStall d p) rFlags flagTransient).incSat (pgStall d p) rStyTransient).slot d p =
      s.slot d p := rfl
  have hfield (u : State) (x : Stall) : (u.setSlot d p x).regField (pgStall d p) rStyLimit 7 0 =
      u.regField (pgStall d p) rStyLimit 7 0 := rfl
  simp only [State.styTransient, hout, hslot, hfield, if_neg hlt]
  rw [State.reg, beginReplay_regs]
  exact hkept s (by decide) (by decide) (by decide)

/-- The check of a tile that fails for the first time, in a page that keeps its header, leaves FAULT as it was. -/
theorem checkTile_fault_of_out (s : State) (d l p : Nat) (i : Fin 2) (w : PassWord) (f : Bool × Nat)
    (hp : isDiePage (pgStall d p) = true) (hout : s.dieOut (pageDie (pgStall d p)) = true)
    (hne : pgStall d p ≠ pgDieHealth (pageDie (pgStall d p)))
    (hfirst : ((s.slot d p).acc i).failed = false)
    (hfails : ((s.slot d p).acc i).firstFail (s.reg (pgStall d p) rStyCtl) w = some f)
    (hlimit : (s.slot d p).strikes + 1 ≤ s.regField (pgStall d p) rStyLimit 7 0) :
    (s.checkTile d l p i w []).reg (pgStall d p) rFault = s.reg (pgStall d p) rFault := by
  let n := ((s.slot d p).acc i).skips (s.reg (pgStall d p) rStyCtl) w
  let s1 := s.setSlot d p ((s.slot d p).setAcc i ((s.slot d p).acc i))
  let s2 := if n = 0 then s1 else s1.incSat (pgStall d p) rStySkip n
  let s3 := s2.poke (pgStall d p) rLastSty (lastSty w i f)
  have hslot : (s3.slot d p).strikes = (s.slot d p).strikes := by
    obtain ⟨a0, a1, ha⟩ := setAcc_eq (s.slot d p) i ((s.slot d p).acc i)
    have h1 : (s1.slot d p).strikes = (s.slot d p).strikes := by rw [setSlot_slot_same, ha]
    have h2 : s2.slot d p = s1.slot d p := by
      unfold s2
      split <;> rfl
    exact (congrArg Stall.strikes h2).trans h1
  have hreg {o : Nat} (ho : o < 4096) (hskip : o ≠ rStySkip) (hlast : o ≠ rLastSty) :
      s3.reg (pgStall d p) o = s.reg (pgStall d p) o := by
    have h2 : s2.reg (pgStall d p) o = s.reg (pgStall d p) o := by
      unfold s2
      split
      · rfl
      · exact poke_reg_other _ (regKey_ne_of_off_ne ho (by decide) hskip)
    exact (poke_reg_other _ (regKey_ne_of_off_ne ho (by decide) hlast)).trans h2
  have hraise (code : Nat) : s3.raise (pgStall d p) code = s3 := by
    have hdies : s3.dieOut (pageDie (pgStall d p)) = true := by
      have h2 : s2.dies = s.dies := by
        unfold s2
        split <;> rfl
      rw [← hout]
      exact congrArg (fun l => (SMap.get DieSt.reset l (pageDie (pgStall d p))).service == 2) h2
    exact raise_of_out s3 code hp hdies hne
  have hcheck : s.checkTile d l p i w [] = s3.styTransient d l p i := by
    simp only [State.checkTile, List.foldl_nil, hfails, hfirst]
    rfl
  rw [hcheck, styTransient_fault_of_out s3 d l p i hraise]
  · exact hreg (by decide) (by decide) (by decide)
  · rw [hslot, State.regField, hreg (by decide) (by decide) (by decide)]
    exact hlimit

theorem exec_steelyardCheck_checks {s : State} {d : Die} {l : Stl} {i : Fin 2} {err : List CellErr} {p : Nat}
    {w : PassWord} (hon : s.onSlot d l = some p) (hword : ((s.slot d p).acc i).word = some w)
    (hst : ((s.slot d p).acc i).st = .check) (hfirst : ((s.slot d p).acc i).failed = false) :
    exec (.steelyardCheck d l i err) s = s.ok (s.checkTile d l p i w err) := by
  change execSteelyardCheck d l i err s = _
  simp [execSteelyardCheck, hon, hword, hst, hfirst]

/-- A PASS that ends in HOLD. -/
def holdPass : PassWord :=
  { tag := 0, wbAddr := 0, preAddr := 0, aAddr := 0, kpM1 := 0, sumId := 0, sumStart := false, psum := false
    preload := 0, acc := 0, aAxis := false, wAxis := false, wKind := 0, aKind := 0, res := 0 }

/-- A tile in CHECK: the lane of its first row holds 1, and its cells hold 0. -/
def failingTile : Acc :=
  { Acc.reset with st := .check, word := some holdPass, lanes := [{ s := 0x4F00000000, a := 0, sat := false }] }

/-- A state that no run from reset reaches: die 0 runs, its map names slot 96, whose page lies in the range of die 1,
and die 1 is out. -/
def strayMapState : State :=
  (((((State.reset.setDie 0 { DieSt.reset with st := .on }).setDie 1 { DieSt.reset with service := 2 }).setQuarter 0 0
    { QuarterSt.reset with st := .on, map := [some 48] }).setQuarter 0 16
    { QuarterSt.reset with slots := List.replicate 18 .mapped }).setSlot 0 96
    { Stall.reset with acc0 := failingTile }).poke (pgStall 0 96) rStyLimit 1

theorem failingTile_fails : failingTile.firstFail (strayMapState.reg (pgStall 0 96) rStyCtl) holdPass = some (false, 0) :=
  rfl

theorem strayMapState_onSlot : strayMapState.onSlot 0 0 = some 96 := by decide

/-- Refutes O27: the second clause says that a first mismatch is 0x0101 in the stall's page, for every state. Where a
quarter's map names a slot that the die has not, that page is another die's; with that die out it keeps its header
(R344), and FAULT stays 0. -/
theorem not_steelyardChecksDecide : ¬ Obligations.SteelyardChecksDecide := by
  rintro ⟨-, htransient, -, -⟩
  obtain ⟨t, ht, -, -, -, -, -, -, -, -, hcode, -⟩ := htransient strayMapState 0 0 0 [] 96 holdPass (false, 0)
    strayMapState_onSlot rfl rfl rfl failingTile_fails (by decide)
  have hx : exec (.steelyardCheck 0 0 0 []) strayMapState = _ :=
    exec_steelyardCheck_checks strayMapState_onSlot rfl rfl rfl
  obtain rfl := Host.Outcome.next.inj (hx.symm.trans ht)
  rw [finish_reg, checkTile_fault_of_out strayMapState (0 : Die) (0 : Stl) 96 0 holdPass (false, 0) rfl rfl (by decide)
    rfl failingTile_fails (by decide)] at hcode
  exact absurd hcode (by decide)

end Sys2Proof.Machine
end

section
/-! SUPPORT. Tiles that the members of an arcade share (R60 to R65, R194): what a loop over the members leaves of each,
and what marks leave of the stalls that they let go on. -/

namespace Sys2Proof.Machine

/-! ### Loops -/

/-- What each turn of a loop makes true of its own element, and every turn keeps, holds of them all at the end. -/
theorem forEach_all {α : Type} {f : State → α → State} {Q : State → α → Prop} (hown : ∀ s e, Q (f s e) e)
    (hkeep : ∀ s e e', Q s e' → Q (f s e) e') (l : List α) (s : State) : ∀ e ∈ l, Q (s.forEach l f) e := by
  have hstays (l : List α) (s : State) (e : α) (hq : Q s e) : Q (s.forEach l f) e := by
    induction l generalizing s with
    | nil => exact hq
    | cons x xs ih => exact ih _ (hkeep s x e hq)
  induction l generalizing s with
  | nil => simp
  | cons x xs ih =>
    intro e he
    obtain rfl | he := List.mem_cons.mp he
    · exact hstays xs _ e (hown s e)
    · exact ih _ e he

/-! ### Banks -/

@[simp] theorem setBank_bank_same (x : Stall) (b : Fin 2) (k : Bank) : (x.setBank b k).bank b = k := by
  unfold Stall.setBank Stall.bank
  split <;> rfl

theorem setBank_bank_other (x : Stall) {b c : Fin 2} (k : Bank) (h : c ≠ b) : (x.setBank b k).bank c = x.bank c := by
  unfold Stall.setBank Stall.bank
  by_cases hb : b = 0
  · have hc : c ≠ 0 := fun hc => h (hc.trans hb.symm)
    simp [hb, hc]
  · have hc : c = 0 := by omega
    simp [hb, hc]

@[simp] theorem setAcc_bank (x : Stall) (t : Fin 2) (a : Acc) (b : Fin 2) : (x.setAcc t a).bank b = x.bank b := by
  obtain ⟨a0, a1, h⟩ := setAcc_eq x t a
  rw [h]
  rfl

/-- A slot written with a bank changed leaves the bank of a slot as the change says. -/
theorem eachMember_bank (s : State) (d q a : Nat) (b : Fin 2) (f : Nat → Stall → Stall) (P : Bank → Prop)
    (hf : ∀ m x, P ((f m x).bank b)) : ∀ e ∈ s.members d q a, P (((s.eachMember d q a f).slot d e.2).bank b) := by
  refine forEach_all (Q := fun t (e : Nat × Nat) => P ((t.slot d e.2).bank b)) (fun t e => ?_) (fun t e e' h => ?_) _ s
  · rw [setSlot_slot_same]
    exact hf _ _
  · by_cases hp : e'.2 = e.2
    · rw [hp, setSlot_slot_same]
      exact hf _ _
    · rw [setSlot_slot_other _ _ (by omega)]
      exact h

/-- What a write of a slot leaves of it, it leaves of every slot. -/
theorem setSlot_slot_congr {β : Type} (g : Stall → β) {s : State} {d p : Nat} {x : Stall} (h : g x = g (s.slot d p))
    (e r : Nat) : g ((s.setSlot d p x).slot e r) = g (s.slot e r) := by
  by_cases hkey : 72 * e + r = 72 * d + p
  · have hnew : (s.setSlot d p x).slot e r = x :=
      (congrArg (SMap.get Stall.reset _) hkey).trans (setSlot_slot_same s)
    have hold : s.slot e r = s.slot d p := congrArg (SMap.get Stall.reset s.stalls) hkey
    rw [hnew, hold, h]
  · rw [setSlot_slot_other _ _ hkey]

/-! ### What marks leave of a stall -/

/-- A slot with its sequencer forgotten. -/
def Stall.work (x : Stall) : Stall := { x with seq := .idle, cmdIndex := 0, fetched := false, waiting := [] }

theorem grant_slot_work (s : State) (d : Nat) (k : Taker) (e r : Nat) :
    ((s.grant d k).slot e r).work = (s.slot e r).work := by
  cases k with
  | stall l =>
    unfold State.grant State.modStall
    dsimp only
    split
    · exact setSlot_slot_congr Stall.work (by rfl) e r
    · rfl
  | stream u st => rfl
  | ready c => rfl
  | release c => rfl

theorem serveReqs_slot_work (s : State) (d m : Nat) (l : List (Taker × Nat)) (e r : Nat) :
    ((serveReqs s d m l).slot e r).work = (s.slot e r).work := by
  induction l generalizing s with
  | nil => rfl
  | cons x xs ih =>
    obtain ⟨k, n⟩ := x
    unfold serveReqs
    split
    · rw [ih, grant_slot_work]
      rfl
    · rfl

theorem postMark_slot_work (s : State) (d m n : Nat) (by' : Poster) (e r : Nat) :
    ((s.postMark d m n by').slot e r).work = (s.slot e r).work := by
  unfold State.postMark
  split
  · exact congrArg Stall.work (slot_of_mask (by simp) e r)
  · exact serveReqs_slot_work _ _ _ _ _ _

theorem walkEnd_slot_work (s : State) (d u st e r : Nat) :
    ((s.walkEnd d u st).slot e r).work = (s.slot e r).work := by
  have hloop (l : List Nat) (m : Nat) (by' : Poster) (t : State) :
      ((t.forEach l fun t _ => t.postMark d m 1 by').slot e r).work = (t.slot e r).work := by
    induction l generalizing t with
    | nil => rfl
    | cons x xs ih => exact (ih _).trans (postMark_slot_work _ _ _ _ _ _ _)
  exact hloop _ _ _ _

theorem completeXfer_slot_work (s : State) (d u st t : Nat) (gone : Bool) (e r : Nat) :
    ((s.completeXfer d u st t gone).slot e r).work = (s.slot e r).work := by
  simp only [State.completeXfer]
  rw [walkEnd_slot_work]
  refine congrArg Stall.work (slot_of_mask ?_ e r)
  simp

/-! ### Tiles of an arcade -/

theorem members_of_quarters {s t : State} (h : t.quarters = s.quarters) (d q a : Nat) :
    t.members d q a = s.members d q a := by
  simp only [State.members, State.slotOf, State.quarter, h]

theorem takeGate_of_open {s : State} {d u st : Nat} (h : (s.stream d u st).atGate = false) : s.takeGate d u st = s := by
  simp [State.takeGate, h]

/-- The stream of a transfer that is issued. -/
def Stream.issue (x : Stream) (ws : List MWord) : Stream :=
  { x with out := x.out ++ [{ t := x.issued, words := ws }], issued := x.issued + 1, gate := .no, st := .run }

theorem issueXfer_stream (s : State) (d u st : Nat) (ws : List MWord) :
    (s.issueXfer d u st ws).stream d u st = (s.stream d u st).issue ws := by
  have hstreams : (s.issueXfer d u st ws).streams = (s.setStream d u st ((s.stream d u st).issue ws)).streams := by
    simp only [State.issueXfer]
    split <;> rfl
  rw [State.stream, hstreams]
  exact setStream_stream_same s

theorem broadcast_fills (s : State) (d : Die) (q a : Qtr) (b : Fin 2) (hreplay : (s.arc d q a).replay = [])
    (hstep : s.inStep d = true) (hfree : s.bcastFree d q a b = true)
    (hrole : (s.stream d 72 (arcStream q a)).role = roleBcast) (hmay : s.mayIssue d 72 (arcStream q a) = true)
    (hgate : (s.stream d 72 (arcStream q a)).atGate = false) (hlimit : s.atLimit d 72 (arcStream q a) = false) :
    Completes (.broadcastStart d q a b) s fun t =>
      (t.arc d q a).next = (s.arc d q a).next + 1 ∧
      (∀ e ∈ s.members d q a, ((t.slot d e.2).bank b).st = .filling ∧
        ((t.slot d e.2).bank b).tile = (s.arc d q a).next) ∧
      (t.stream d 72 (arcStream q a)).issued = (s.stream d 72 (arcStream q a)).issued + 1 := by
  have hx : execBroadcastStart d q a b s = s.ok (s.bcastNext d q a b) := by
    simp [execBroadcastStart, hreplay, hstep, hfree, hrole, hmay, takeGate_of_open hgate, hgate, hlimit]
  let x := s.stream d 72 (arcStream q a)
  let n := recordBytes x.kind
  let ws := s.readWords (x.far x.issued) (n / 8)
  let s0 := s.noteReads srcStream (x.far x.issued) n
  let s1 := s0.issueXfer d 72 (arcStream q a) ws
  let s2 := s1.eachMember d q a fun _ y => y.fill b (s.arc d q a).next x.kind ws
  have hmembers : s1.members d q a = s.members d q a := members_of_quarters (quarters_of_mask (by simp [s1, s0])) d q a
  have hbanks : ∀ e ∈ s1.members d q a, ((s2.slot d e.2).bank b).st = .filling ∧
      ((s2.slot d e.2).bank b).tile = (s.arc d q a).next :=
    eachMember_bank s1 d q a b _ (fun k => k.st = .filling ∧ k.tile = (s.arc d q a).next) fun m y => by
      rw [Stall.fill, setBank_bank_same]
      exact ⟨rfl, rfl⟩
  have hissued : (s2.stream d 72 (arcStream q a)).issued = x.issued + 1 := by
    have hs0 : s0.stream d 72 (arcStream q a) = x := stream_of_mask (by simp [s0]) _ _ _
    rw [stream_of_mask (s := s1) (by simp [s2]), issueXfer_stream, hs0]
    rfl
  refine .of_ok hx ⟨?_, fun e he => hbanks e (hmembers ▸ he), hissued⟩
  rw [finish_arc, State.bcastNext, setArc_arc_same]

theorem bank_fills (s : State) (d : Die) (q a : Qtr) (b : Fin 2) (hon : s.membersOn d q a = true)
    (hfilling : ∀ e ∈ s.members d q a, ((s.slot d e.2).bank b).st = .filling) :
    Completes (.bankFull d q a b) s fun t =>
      (∀ e ∈ s.members d q a, ((t.slot d e.2).bank b).st = .full) ∧ t.mem = s.mem := by
  let s1 := s.eachMember d q a fun _ y => y.fullBank b
  have hbanks : ∀ e ∈ s.members d q a, ((s1.slot d e.2).bank b).st = .full :=
    eachMember_bank s d q a b _ (fun k => k.st = .full) fun m y => by rw [Stall.fullBank, setBank_bank_same]
  have hmem : s1.mem = s.mem := mem_of_mask (by simp [s1])
  have hall : ((s.members d q a).all fun e => ((s.slot d e.2).bank b).st == .filling) = true := by
    simpa using fun m p he => hfilling (m, p) he
  cases hold : (s1.stream d 72 (arcStream q a)).oldest with
  | none =>
    have hx : execBankFull d q a b s = s.ok s1 := by
      simp only [execBankFull, hon, hall]
      simp only [s1] at hold ⊢
      simp [hold]
    exact .of_ok hx ⟨hbanks, hmem⟩
  | some k =>
    have hx : execBankFull d q a b s = s.ok (s1.completeXfer d 72 (arcStream q a) k false) := by
      simp only [execBankFull, hon, hall]
      simp only [s1] at hold ⊢
      simp [hold]
    have hwork := completeXfer_slot_work s1 d 72 (arcStream q a) k false d
    have hmem' : (s1.completeXfer d 72 (arcStream q a) k false).mem = s.mem := (mem_of_mask (by simp)).trans hmem
    generalize s1.completeXfer d 72 (arcStream q a) k false = u at *
    refine .of_ok hx ⟨fun e he => ?_, hmem'⟩
    rw [finish_slot]
    exact (congrArg (fun x => (x.bank b).st) (hwork e.2)).trans (hbanks e he)

theorem beginSteps_bank (x : Stall) (n : Nat) (c : Fin 2) : (x.beginSteps n).bank c = x.bank c := by
  unfold Stall.beginSteps
  split
  · rfl
  · next t ht =>
    dsimp only
    refine (setAcc_bank _ _ _ _).trans ?_
    split <;> rfl

theorem gapBallast_slot_bank (s : State) (d p e r : Nat) (c : Fin 2) :
    ((s.gapBallast d p).slot e r).bank c = (s.slot e r).bank c := by
  unfold State.gapBallast
  split
  · exact setSlot_slot_congr (·.bank c) (by rfl) e r
  · rfl

theorem takeSeed_slot_bank (s : State) (d p e r : Nat) (c : Fin 2) :
    ((s.takeSeed d p).slot e r).bank c = (s.slot e r).bank c := by
  unfold State.takeSeed
  dsimp only
  split
  · rfl
  · exact setSlot_slot_congr (·.bank c) (by rfl) e r

theorem beginPass_slot_bank (s : State) (d p n e r : Nat) (c : Fin 2) :
    ((s.beginPass d p n).slot e r).bank c = (s.slot e r).bank c := by
  have hseed : ((match (s.slot d p).running with
      | some t => if ((s.slot d p).acc t).begun then s else s.takeSeed d p
      | none => s).slot e r).bank c = (s.slot e r).bank c := by
    repeat' split
    · rfl
    · exact takeSeed_slot_bank s d p e r c
    · rfl
  unfold State.beginPass
  dsimp only
  rw [setSlot_slot_congr (·.bank c) (beginSteps_bank _ n c), gapBallast_slot_bank]
  exact hseed

/-- One member of an arcade when its tile's window opens: its bank is in use, and it begins to run or only stands. -/
def State.openMember (d : Nat) (b : Fin 2) (n : Nat) (rs : List Nat) (t : State) (e : Nat × Nat) : State :=
  if rs.contains e.1 then (t.setSlot d e.2 ((t.slot d e.2).useBank b)).beginPass d e.2 n
  else t.setSlot d e.2 ((t.slot d e.2).useBank b)

theorem openMember_bank (d : Nat) (b : Fin 2) (n : Nat) (rs : List Nat) (t : State) (e : Nat × Nat) (r : Nat) :
    ((State.openMember d b n rs t e).slot d r).bank b =
      if r = e.2 then { (t.slot d r).bank b with st := .inUse } else (t.slot d r).bank b := by
  have huse : ((t.setSlot d e.2 ((t.slot d e.2).useBank b)).slot d r).bank b =
      if r = e.2 then { (t.slot d r).bank b with st := .inUse } else (t.slot d r).bank b := by
    split
    · next hr => rw [hr, setSlot_slot_same, Stall.useBank, setBank_bank_same]
    · rw [setSlot_slot_other _ _ (by omega)]
  unfold State.openMember
  split
  · rw [beginPass_slot_bank, huse]
  · exact huse

theorem window_opens (s : State) (d : Die) (q a : Qtr) (b : Fin 2) (n : Nat) (rs : List Nat)
    (hreplay : (s.arc d q a).replay = []) (hfor : s.windowFor d q a b = some (n, rs)) :
    Completes (.tileWindowOpen d q a b none) s fun t =>
      (t.arc d q a).window = some b ∧ (t.arc d q a).runners = rs ∧
      (∀ e ∈ s.members d q a, ((t.slot d e.2).bank b).st = .inUse) ∧ t.mem = s.mem ∧ t.regs = s.regs := by
  let s1 := s.forEach (s.members d q a) (State.openMember d b n rs)
  let u := s1.setArc d q a { s1.arc d q a with window := some b, winAgain := false, runners := rs }
  have hx : execTileWindowOpen d q a b none s = s.ok u := by
    simp only [execTileWindowOpen, hfor, hreplay]
    rfl
  have hbanks : ∀ e ∈ s.members d q a, ((s1.slot d e.2).bank b).st = .inUse :=
    forEach_all (Q := fun t (e : Nat × Nat) => ((t.slot d e.2).bank b).st = .inUse)
      (fun t e => by rw [openMember_bank, if_pos rfl])
      (fun t e e' h => by
        rw [openMember_bank]
        split
        · rfl
        · exact h) _ s
  have hmask {M : Part → Bool} (hM : Allows M [.free, .cnt, .stalls, .tally]) : s1.mask M = s.mask M :=
    mask_forEach (fun t e => by
      simp at hM
      unfold State.openMember
      split <;> simp [hM]) _ _
  have hmem : u.mem = s.mem := mem_of_mask (s := s) (hmask (by simp))
  have hregs : u.regs = s.regs := regs_of_mask (s := s) (hmask (by simp))
  have harc : u.arc d q a = { s1.arc d q a with window := some b, winAgain := false, runners := rs } :=
    setArc_arc_same s1
  have hu : u.stalls = s1.stalls := rfl
  clear_value u
  refine .of_ok hx ⟨?_, ?_, fun e he => ?_, hmem, hregs⟩
  · rw [finish_arc, harc]
  · rw [finish_arc, harc]
  · rw [finish_slot, State.slot, hu]
    exact hbanks e he

theorem window_closes (s : State) (d : Die) (q a : Qtr) (b : Fin 2) (hon : s.membersOn d q a = true)
    (hwin : (s.arc d q a).window = some b) (hagain : (s.arc d q a).winAgain = false) :
    Completes (.tileWindowClose d q a b none) s fun t =>
      (t.arc d q a).window = none ∧ (t.arc d q a).runners = [] ∧
      (t.arc d q a).consumed = (s.arc d q a).consumed + 1 ∧ (t.arc d q a).next = (s.arc d q a).next := by
  have hx : execTileWindowClose d q a b none s = s.ok (s.closeShared d q a b) := by
    simp [execTileWindowClose, hon, hwin]
  have harc : (s.closeShared d q a b).arc d q a = { s.arc d q a with
      window := none, winAgain := false, runners := [], consumed := (s.arc d q a).consumed + 1
      held := (s.arc d q a).held.map fun h => if h.num = (s.arc d q a).consumed then { h with done := true } else h } := by
    unfold State.closeShared
    simp only [hagain]
    rw [setArc_arc_same, arc_of_mask (s := s)]
    · rfl
    · simp
  generalize s.closeShared d q a b = u at *
  refine .of_ok hx ?_
  rw [finish_arc, harc]
  exact ⟨rfl, rfl, rfl, rfl⟩

theorem runSteps_slot_bank (s : State) (d p e r : Nat) (b c : Fin 2) :
    ((s.runSteps d p b).slot e r).bank c = (s.slot e r).bank c := by
  simp only [State.runSteps]
  split
  · rfl
  · split
    · rfl
    · have hwork (t : State) (n : Nat) : (t.countWork d p n).slot e r = t.slot e r := rfl
      have hreads (src k n e r : Nat) : (s.noteReads src k n).slot e r = s.slot e r := slot_of_mask (by simp) e r
      rw [hwork, flagIf_slot, flagIf_slot, setSlot_slot_congr (·.bank c)]
      · rw [hreads]
      · rw [hreads, setAcc_bank]

theorem afterWindow_bank (x : Stall) (c : Fin 2) : x.afterWindow.bank c = x.bank c := rfl

theorem consumeRecord_bank (x : Stall) (c : Fin 2) : x.consumeRecord.bank c = x.bank c := by
  unfold Stall.consumeRecord
  split
  · rfl
  · next q hq =>
    have hcases (q' : PrivSeq) : (if q'.todo.isEmpty then { x with priv := none, lastPriv := some q' }
        else { x with priv := some q' } : Stall).bank c = x.bank c := by
      split <;> rfl
    exact hcases _

theorem private_window_closes (s : State) (d : Die) (q a : Qtr) (m : Fin 4) (b : Fin 2) (p : Nat)
    (hon : s.onSlot d (16 * q + 4 * a + m) = some p) (huse : ((s.slot d p).bank b).st = .inUse)
    (hpriv : ((s.slot d p).bank b).priv = true) :
    Completes (.tileWindowClose d q a b (some m)) s fun t =>
      (t.slot d p).bank b = Bank.reset ∧ (t.slot d p).bank (other b) = (s.slot d p).bank (other b) ∧
      t.arcs = s.arcs := by
  let s1 := s.runSteps d p b
  have hx : execTileWindowClose d q a b (some m) s =
      s.ok (s1.setSlot d p (((s1.slot d p).freeBank b).consumeRecord).afterWindow) := by
    simp [execTileWindowClose, hon, huse, hpriv, s1]
  have hbank (c : Fin 2) : (s1.slot d p).bank c = (s.slot d p).bank c := runSteps_slot_bank s d p d p b c
  have harcs : s1.arcs = s.arcs := arcs_of_mask (by simp [s1])
  have hother : other b ≠ b := by
    unfold other
    split <;> omega
  clear_value s1
  refine .of_ok hx ⟨?_, ?_, harcs⟩
  · rw [finish_slot, setSlot_slot_same, afterWindow_bank, consumeRecord_bank, Stall.freeBank, setBank_bank_same]
  · rw [finish_slot, setSlot_slot_same, afterWindow_bank, consumeRecord_bank, Stall.freeBank,
      setBank_bank_other _ _ hother, hbank]

theorem setPool_setArc_ledgers (s : State) (e r a : Nat) (x : Arcade) (d q i : Nat) (p : Pool) :
    ((s.setArc e r a x).setPool d q i p).ledgers = (s.setPool d q i p).ledgers := by
  have hpeak (t : State) (page off v : Nat) : (t.peak page off v).ledgers = t.ledgers := ledgers_of_mask (by simp)
  simp only [State.setPool, hpeak]
  have hpool : (s.setArc e r a x).pool d q i = s.pool d q i := rfl
  rw [hpool]
  repeat' split
  all_goals rfl

theorem unhold_setArc_ledgers (s : State) (d q a : Nat) (x : Arcade) (k len : Nat) :
    ((s.setArc d q a x).unhold k len).ledgers = (s.unhold k len).ledgers := by
  unfold State.unhold
  dsimp only
  split
  · rfl
  · have hpool (e r u : Nat) : (s.setArc d q a x).poolOf e r u = s.poolOf e r u := rfl
    rw [hpool]
    split
    · rfl
    · exact setPool_setArc_ledgers _ _ _ _ _ _ _ _ _

theorem slot_released (s : State) (d : Die) (q a : Qtr) (n : Nat) (h : HeldTile)
    (hfind : (s.arc d q a).held.find? (·.num == n) = some h) (hdone : h.done = true) (hlive : s.dieLive d = true)
    (hneeds : ∀ e ∈ s.members d q a, (s.slot d e.2).needsTile n = false) :
    Completes (.bcastSlotRelease d q a n) s fun t =>
      (t.arc d q a).held = (s.arc d q a).held.filter (·.num != n) ∧
      t.ledgers = (s.unhold h.addr (recordBytes (s.stream d 72 (arcStream q a)).kind)).ledgers ∧
      t.stalls = s.stalls ∧ t.mem = s.mem := by
  let s1 := s.setArc d q a { s.arc d q a with held := (s.arc d q a).held.filter (·.num != n) }
  let len := recordBytes (s.stream d 72 (arcStream q a)).kind
  have hnone : ((s.members d q a).any fun e => (s.slot d e.2).needsTile n) = false := by
    simpa using fun m p he => hneeds (m, p) he
  have hx : execBcastSlotRelease d q a n s = s.ok (s1.unhold h.addr len) := by
    simp only [execBcastSlotRelease, hfind, hdone, hlive, hnone]
    rfl
  have hled : (s1.unhold h.addr len).ledgers = (s.unhold h.addr len).ledgers := unhold_setArc_ledgers _ _ _ _ _ _ _
  have harc : (s1.unhold h.addr len).arc d q a = s1.arc d q a := arc_of_mask (by simp) _ _ _
  have hs1 : s1.arc d q a = { s.arc d q a with held := (s.arc d q a).held.filter (·.num != n) } := setArc_arc_same s
  have hstalls : (s1.unhold h.addr len).stalls = s.stalls := stalls_of_mask (by simp [s1])
  have hmem : (s1.unhold h.addr len).mem = s.mem := mem_of_mask (by simp [s1])
  generalize s1.unhold h.addr len = u at *
  refine .of_ok hx ⟨?_, hled, hstalls, hmem⟩
  rw [finish_arc, harc, hs1]

/-- Settles O28, one command of an arcade at a time. -/
theorem arcadeTilesMove : Obligations.ArcadeTilesMove :=
  ⟨broadcast_fills, bank_fills, window_opens, window_closes, private_window_closes, slot_released⟩

end Sys2Proof.Machine
end

section
/-! SUPPORT. How tiles, drains and the duty of a stall move on (R69, R77 to R92, R104, R107): what each end of a piece
of work leaves of the slot. -/

namespace Sys2Proof.Machine

theorem other_ne (i : Fin 2) : other i ≠ i := by
  unfold other
  split <;> omega

/-! ### Flags of a stall -/

theorem flagIf_sets (s : State) (d p : Nat) {f : Word} {c : Bool} (hc : c = true) :
    (s.flagIf d p f c).reg (pgStall d p) rFlags &&& f = f := by
  rw [hc, flagIf_true_reg_flags]
  ext i
  simp
  exact Or.inr

theorem flagIf_keeps {s : State} {d p : Nat} {f : Word} (h : s.reg (pgStall d p) rFlags &&& f = f) (g : Word)
    (c : Bool) : (s.flagIf d p g c).reg (pgStall d p) rFlags &&& f = f := by
  cases c with
  | false => exact h
  | true =>
    rw [flagIf_true_reg_flags, ← h]
    ext i
    simp
    grind

/-! ### Tiles -/

theorem enterRun_cells (x : Stall) (t : Fin 2) : (x.enterRun.acc t).cells = (x.acc t).cells := by
  rw [enterRun_acc]
  split <;> rfl

theorem enterRun_lanes (x : Stall) (t : Fin 2) : (x.enterRun.acc t).lanes = (x.acc t).lanes := by
  rw [enterRun_acc]
  split <;> rfl

theorem preload_done (s : State) (d : Die) (l : Stl) (i : Fin 2) (p : Nat) (w : PassWord) (hon : s.onSlot d l = some p)
    (hword : ((s.slot d p).acc i).word = some w)
    (hst : ((s.slot d p).acc i).st = .preload ∨ ((s.slot d p).acc i).st = .replay)
    (hcells : ((s.slot d p).acc i).cells = []) (hpre : w.preload ≠ 0) :
    Completes (.preloadDone d l i) s fun t =>
      let a := (s.slot d p).acc i
      let ws := s.readWords (slotAddr d p w.preRange.1) (w.preRange.2 / 8)
      ((t.slot d p).acc i).cells = (a.preloaded w ws).cells ∧ ((t.slot d p).acc i).lanes = (a.preloaded w ws).lanes ∧
      (ws.any (·.poison) = true → t.reg (pgStall d p) rFlags &&& flagPoison = flagPoison) ∧
      (t.slot d p).passes = (s.slot d p).passes := by
  let a := (s.slot d p).acc i
  let k := slotAddr d p w.preRange.1
  let ws := s.readWords k (w.preRange.2 / 8)
  let y := ((s.slot d p).setAcc i (a.preloaded w ws)).enterRun
  let s2 := (s.noteReads srcStall k w.preRange.2).setSlot d p y
  let s3 := s2.flagIf d p flagPoison (ws.any (·.poison))
  have hx : execPreloadDone d l i s = s.ok (s3.flagIf d p flagSat ((a.preloaded w ws).lanes.any (·.sat))) := by
    have hloaded : ((s.slot d p).acc i).loaded = false := by rw [Acc.loaded, hcells]; rfl
    have hgo : ((((s.slot d p).acc i).st == .preload || ((s.slot d p).acc i).st == .replay) &&
        !((s.slot d p).acc i).loaded && w.preload != 0) = true := by
      simpa [hloaded] using ⟨hst, hpre⟩
    simp only [execPreloadDone, hon, hword, hgo]
    rfl
  have hslot : (s3.flagIf d p flagSat ((a.preloaded w ws).lanes.any (·.sat))).slot d p = y := by
    rw [flagIf_slot, flagIf_slot, setSlot_slot_same]
  have hflags (hp : ws.any (·.poison) = true) :
      (s3.flagIf d p flagSat ((a.preloaded w ws).lanes.any (·.sat))).reg (pgStall d p) rFlags &&& flagPoison =
        flagPoison := flagIf_keeps (flagIf_sets s2 d p hp) _ _
  generalize s3.flagIf d p flagSat ((a.preloaded w ws).lanes.any (·.sat)) = u at *
  refine .of_ok hx ⟨?_, ?_, hflags, ?_⟩
  · rw [finish_slot, hslot, enterRun_cells, setAcc_acc_same]
  · rw [finish_slot, hslot, enterRun_lanes, setAcc_acc_same]
  · rw [finish_slot, hslot, enterRun_passes, setAcc_passes]

theorem passRun_ends (s : State) (d : Die) (l : Stl) (i : Fin 2) (p : Nat) (w : PassWord) (hon : s.onSlot d l = some p)
    (hword : ((s.slot d p).acc i).word = some w)
    (hst : ((s.slot d p).acc i).st = .run ∨ ((s.slot d p).acc i).st = .replay)
    (hdone : ((s.slot d p).acc i).kdone = w.kp) (hfront : (s.slot d p).passes.head? = some i) :
    Completes (.passRunEnd d l i) s fun t =>
      ((t.slot d p).acc i).st = .check ∧ ((t.slot d p).acc i).cells = ((s.slot d p).acc i).cells ∧
      (t.slot d p).passes = (s.slot d p).passes.tail ∧ s.onlySlot t d p := by
  let a := (s.slot d p).acc i
  let y : Stall := { (s.slot d p).setAcc i { a with st := .check } with passes := (s.slot d p).passes.tail }
  have hx : execPassRunEnd d l i s = s.ok (s.setSlot d p y.enterRun) := by
    simp only [execPassRunEnd, hon, hword]
    rw [if_pos (by simpa [hdone, hfront] using hst), ← hword]
  have hacc : y.acc i = { a with st := .check } := setAcc_acc_same (s.slot d p) i _
  refine .of_ok hx ⟨?_, ?_, ?_, onlySlot_setSlot s s d p _⟩
  · rw [finish_slot, setSlot_slot_same, enterRun_acc, hacc]
    simp
  · rw [finish_slot, setSlot_slot_same, enterRun_cells, hacc]
  · rw [finish_slot, setSlot_slot_same, enterRun_passes]

/-! ### Write-backs -/

theorem share_acc (x : Stall) (gen : Nat) (i : Fin 2) :
    ∃ b, (x.share gen).acc i = { x.acc i with shared := b } := by
  have hmark (a : Acc) : ∃ b, (if a.wbRun && a.gen == gen then { a with shared := true } else a) =
      { a with shared := b } := by
    split
    · exact ⟨true, rfl⟩
    · exact ⟨a.shared, rfl⟩
  unfold Stall.share Stall.acc
  split
  · exact hmark _
  · exact hmark _

theorem share_if_acc (x : Stall) (c : Bool) (gen : Nat) (i : Fin 2) :
    ∃ b, (if c then x.share gen else x).acc i = { x.acc i with shared := b } := by
  cases c with
  | false => exact ⟨(x.acc i).shared, rfl⟩
  | true => exact share_acc x gen i

theorem share_if_passes (x : Stall) (c : Bool) (gen : Nat) : (if c then x.share gen else x).passes = x.passes := by
  cases c <;> rfl

theorem writeback_starts (s : State) (d : Die) (l : Stl) (i : Fin 2) (p : Nat) (hon : s.onSlot d l = some p)
    (hready : (s.slot d p).wbReady i = true) (hport : ((s.slot d p).acc (other i)).wbRun = false)
    (hfirst : (s.slot d p).wbReady (other i) = true → ((s.slot d p).acc i).order ≤ ((s.slot d p).acc (other i)).order) :
    Completes (.writebackStart d l i) s fun t =>
      let a := (s.slot d p).acc i
      ((t.slot d p).acc i).wbRun = true ∧ ((t.slot d p).acc i).at' = ((s.slot d p).seedFor a.gen).2 ∧
      ((t.slot d p).acc i).cells = a.cells ∧ ((t.slot d p).acc i).st = .writeback ∧
      (t.slot d p).passes = (s.slot d p).passes ∧ s.onlySlot t d p ∧ t.regs = s.regs ∧ t.cnt = s.cnt := by
  let x := s.slot d p
  let a := x.acc i
  let y := x.setAcc i { a with wbRun := true, at' := (x.seedFor a.gen).2 }
  let z := if x.drainDraws a.gen then y.share a.gen else y
  have hturn : ((s.slot d p).wbReady (other i) &&
      decide (((s.slot d p).acc (other i)).order < ((s.slot d p).acc i).order)) = false := by
    cases h : (s.slot d p).wbReady (other i) with
    | false => rfl
    | true => simpa using hfirst h
  have hx : execWritebackStart d l i s = s.ok (s.setSlot d p z) := by
    simp only [execWritebackStart, hon, hready, hport, hturn]
    rfl
  have hst : a.st = .writeback := by
    have h := hready
    unfold Stall.wbReady at h
    dsimp only at h
    split at h
    · simp at h
      exact h.1.1
    · simp at h
  obtain ⟨b, hacc⟩ := share_if_acc y (x.drainDraws a.gen) a.gen i
  rw [setAcc_acc_same] at hacc
  have hz : z.acc i = _ := hacc
  refine .of_ok hx ?_
  simp only [finish_slot, setSlot_slot_same, hz]
  refine ⟨trivial, rfl, rfl, hst, ?_, onlySlot_setSlot s s d p _, rfl, rfl⟩
  exact (share_if_passes y _ _).trans (setAcc_passes x i _)

theorem setCount_acc (x : Stall) (gen : Nat) (n : DWord) (i : Fin 2) : (x.setCount gen n).acc i = x.acc i := by
  unfold Stall.setCount
  split <;> rfl

theorem setCount_n (x : Stall) (n : DWord) : (x.setCount x.gen n).n = n := by
  rw [Stall.setCount, if_pos rfl]

theorem setAcc_n (x : Stall) (t : Fin 2) (a : Acc) : (x.setAcc t a).n = x.n := by
  obtain ⟨a0, a1, h⟩ := setAcc_eq x t a
  rw [h]

theorem wbCounts_alone {a : Acc} (h : a.shared = false) (n : DWord) (f : Nat → DWord) : a.wbCounts n f = (n, n + 64) := by
  simp [Acc.wbCounts, h]

theorem writeback_done (s : State) (d : Die) (l : Stl) (i : Fin 2) (p : Nat) (w : PassWord)
    (hon : s.onSlot d l = some p) (hword : ((s.slot d p).acc i).word = some w)
    (hrun : ((s.slot d p).acc i).wbRun = true) :
    Completes (.writebackDone d l i) s fun t =>
      let a := (s.slot d p).acc i
      let r := (s.slot d p).seedFor a.gen
      let c := a.wbCounts r.2 fun j => Config.freeValue (s.free + j)
      (t.slot d p).acc i = Acc.reset ∧ (t.slot d p).acc (other i) = (s.slot d p).acc (other i) ∧
      t.mem = (s.storeWords (slotAddr d p w.wbRange.1) (pairWords (a.psum r.1 c.1).1)).mem ∧
      ((a.psum r.1 c.1).2 = true → t.reg (pgStall d p) rFlags &&& flagSat = flagSat) ∧
      (a.gen = (s.slot d p).gen → (t.slot d p).n = c.2) ∧
      (a.shared = false → c = (r.2, r.2 + 64)) := by
  let x := s.slot d p
  let a := x.acc i
  let r := x.seedFor a.gen
  let c := a.wbCounts r.2 fun j => Config.freeValue (s.free + j)
  let v := a.psum r.1 c.1
  let s1 := s.storeWords (slotAddr d p w.wbRange.1) (pairWords v.1)
  let y := (x.setCount a.gen c.2).setAcc i Acc.reset
  let s2 := s1.setSlot d p y
  let s3 := if a.shared then s2.freeNext.freeNext else s2
  have hx : execWritebackDone d l i s = s.ok (s3.flagIf d p flagSat v.2) := by
    simp only [execWritebackDone, hon, hword, hrun]
    rfl
  have hslot : (s3.flagIf d p flagSat v.2).slot d p = y := by
    have hs3 : s3.slot d p = s2.slot d p := by
      unfold s3
      split <;> rfl
    rw [flagIf_slot, hs3, setSlot_slot_same]
  have hmem : (s3.flagIf d p flagSat v.2).mem = s1.mem := by
    have hs3 : s3.mem = s2.mem := by
      unfold s3
      split <;> rfl
    exact (mem_of_mask (by simp)).trans hs3
  have hflag (hsat : v.2 = true) : (s3.flagIf d p flagSat v.2).reg (pgStall d p) rFlags &&& flagSat = flagSat :=
    flagIf_sets s3 d p hsat
  have hn (hgen : a.gen = x.gen) : y.n = c.2 := by
    unfold y
    rw [hgen, setAcc_n, setCount_n]
  have hown : y.acc i = Acc.reset := setAcc_acc_same _ _ _
  have hother : y.acc (other i) = x.acc (other i) :=
    (setAcc_acc_other _ _ (other_ne i)).trans (setCount_acc _ _ _ _)
  generalize s3.flagIf d p flagSat v.2 = u at *
  refine .of_ok hx ⟨?_, ?_, hmem, hflag, fun hgen => ?_, fun hs => wbCounts_alone hs _ _⟩
  · rw [finish_slot, hslot, hown]
  · rw [finish_slot, hslot, hother]
  · rw [finish_slot, hslot, hn hgen]

/-! ### Drains -/

theorem rowReads_of_source {c : ChainCfg} (h : ccSrc c = true) (m : Nat) : rowReads c m ≠ [] := by
  simp [rowReads, drainTiles, h]

/-- A chain whose rows come from scratchpad reads at least one of them. -/
theorem preambleReads_length (c : ChainCfg) :
    (preambleReads c).length + (if ccSrc c then 1 else 0) ≤ (drainReads c).length := by
  rw [drainReads, List.length_append]
  split
  · next hsrc =>
    have hrow : (rowReads c 0).length ≤ ((List.range 64).flatMap (rowReads c)).length := by
      rw [List.range_succ_eq_map, List.flatMap_cons, List.length_append]
      omega
    have hpos := List.length_pos_of_ne_nil (rowReads_of_source hsrc 0)
    omega
  · omega

theorem share_if_drains (x : Stall) (c : Bool) (gen : Nat) {j : DrainJob} {r : List DrainJob} (h : x.drains = j :: r) :
    ∃ b q, (if c then x.share gen else x).drains = { j with shared := b } :: q ∧ q.length = r.length := by
  cases c with
  | false => exact ⟨j.shared, r, h, rfl⟩
  | true =>
    have hdrains : (x.share gen).drains = (j :: r).map fun (j : DrainJob) =>
        if j.started && j.draws && j.gen == gen then { j with shared := true } else j := h ▸ rfl
    rw [if_pos rfl, hdrains, List.map_cons]
    split
    · exact ⟨true, _, rfl, List.length_map _⟩
    · exact ⟨j.shared, _, rfl, List.length_map _⟩

/-- The slot of a drain whose reads are all made: its rows are through the chain, and its tile is in DRAIN. -/
def drainSlot (x : Stall) (c : ChainCfg) (j : DrainJob) (r : List DrainJob) (o : List RowOut × List StatSlot × Bool) :
    Stall :=
  let a := x.acc j.word.tile
  let gen := if ccSrc c then x.gen else a.gen
  let x1 := x.start .drain
  let x2 := if ccSrc c then x1 else x1.setAcc j.word.tile { a with st := .drain }
  { x2 with
    drains := { j with started := true, gen := gen, draws := ccStoch c, at' := (x.seedFor gen).2, whole := true
                       reads := [], rows := o.1.map (·.row), counts := o.1.map (·.cnt) } :: r
    stats := o.2.1 }

theorem drainGo_whole {s : State} {d p : Nat} {c : ChainCfg} {j : DrainJob} (r : List DrainJob)
    (hstart : j.started = false) (hreads : j.reads = []) (hnow : (s.slot d p).drainNow c j = drainReads c) :
    let x := s.slot d p
    let o := chainRows (s.drainReader d p []) c x.stats (x.acc j.word.tile)
    let gen := if ccSrc c then x.gen else (x.acc j.word.tile).gen
    ∃ (s1 : State) (b : Bool), s.drainGo d p c j r = (s1.setSlot d p
      (if b then (drainSlot x c j r o).share gen else drainSlot x c j r o)).flagIf d p flagSat o.2.2 := by
  intro x o gen
  refine ⟨(drainReads c).foldl (fun (u : State) e => u.noteReads srcStall (slotAddr d p e.1) e.2) s,
    ccStoch c && x.wbDraws gen, ?_⟩
  have hlen := preambleReads_length c
  simp only [State.drainGo, hnow, hreads, hstart, List.length_nil, Nat.zero_add, hlen, decide_true, Bool.not_false,
    Bool.and_true, Bool.true_and, if_true, Nat.lt_irrefl, Bool.not_true]
  have htile : (if (!ccSrc c) = true then
      (x.start .drain).setAcc j.word.tile { x.acc j.word.tile with st := .drain } else x.start .drain) =
      if ccSrc c then x.start .drain else (x.start .drain).setAcc j.word.tile { x.acc j.word.tile with st := .drain } := by
    cases ccSrc c <;> rfl
  simp only [x] at htile
  rw [htile]
  rfl

theorem drainSlot_acc_tile (x : Stall) (c : ChainCfg) (j : DrainJob) (r : List DrainJob)
    (o : List RowOut × List StatSlot × Bool) :
    ((drainSlot x c j r o).acc j.word.tile).st = if ccSrc c then (x.acc j.word.tile).st else .drain := by
  have hacc (y : Stall) (l : List DrainJob) (st : List StatSlot) :
      ({ y with drains := l, stats := st } : Stall).acc j.word.tile = y.acc j.word.tile := rfl
  unfold drainSlot
  dsimp only
  rw [hacc]
  split
  · rfl
  · rw [setAcc_acc_same]

theorem drainSlot_acc_other (x : Stall) (c : ChainCfg) (j : DrainJob) (r : List DrainJob)
    (o : List RowOut × List StatSlot × Bool) :
    (drainSlot x c j r o).acc (other j.word.tile) = x.acc (other j.word.tile) := by
  have hacc (y : Stall) (l : List DrainJob) (st : List StatSlot) :
      ({ y with drains := l, stats := st } : Stall).acc (other j.word.tile) = y.acc (other j.word.tile) := rfl
  unfold drainSlot
  dsimp only
  rw [hacc]
  split
  · rfl
  · exact setAcc_acc_other _ _ (other_ne _)

theorem drainSlot_passes (x : Stall) (c : ChainCfg) (j : DrainJob) (r : List DrainJob)
    (o : List RowOut × List StatSlot × Bool) : (drainSlot x c j r o).passes = x.passes := by
  unfold drainSlot
  dsimp only
  split
  · rfl
  · exact setAcc_passes _ _ _

theorem drain_starts (s : State) (d : Die) (l : Stl) (p : Nat) (j : DrainJob) (r : List DrainJob)
    (hon : s.onSlot d l = some p) (hdrains : (s.slot d p).drains = j :: r)
    (hmay : s.drainMay d p (s.chain d p j.word.slot) j = true) (hreads : j.reads = [])
    (hnow : (s.slot d p).drainNow (s.chain d p j.word.slot) j = drainReads (s.chain d p j.word.slot)) :
    Completes (.drainStart d l) s fun t =>
      let c := s.chain d p j.word.slot
      let x := s.slot d p
      let out := (chainRows (s.drainReader d p []) c x.stats (x.acc j.word.tile)).1
      (∃ k q, (t.slot d p).drains = k :: q ∧ q.length = r.length ∧ k.word = j.word ∧ k.started = true ∧
        k.whole = true ∧ k.rows = out.map (·.row) ∧ k.counts = out.map (·.cnt)) ∧
      ((t.slot d p).acc j.word.tile).st = (if ccSrc c then (x.acc j.word.tile).st else .drain) ∧
      ((t.slot d p).acc (other j.word.tile)).st = (x.acc (other j.word.tile)).st ∧
      (t.slot d p).passes = x.passes := by
  let c := s.chain d p j.word.slot
  let x := s.slot d p
  let o := chainRows (s.drainReader d p []) c x.stats (x.acc j.word.tile)
  have hstart : j.started = false := by
    unfold State.drainMay at hmay
    simp only [Bool.and_eq_true, Bool.not_eq_true'] at hmay
    exact hmay.1.1
  have hx : execDrainStart d l s = s.ok (s.drainGo d p c j r) := by
    simp [execDrainStart, hon, hdrains, hmay, c]
  obtain ⟨s1, b, hgo⟩ := drainGo_whole r hstart hreads hnow
  have hslot : (s.drainGo d p c j r).slot d p =
      if b then (drainSlot x c j r o).share (if ccSrc c then x.gen else (x.acc j.word.tile).gen)
      else drainSlot x c j r o := by
    rw [hgo, flagIf_slot, setSlot_slot_same]
  generalize s.drainGo d p c j r = u at *
  obtain ⟨b1, q, hq, hlen⟩ := share_if_drains (drainSlot x c j r o) b
    (if ccSrc c then x.gen else (x.acc j.word.tile).gen) (j := _) (r := r) rfl
  obtain ⟨b2, hown⟩ := share_if_acc (drainSlot x c j r o) b
    (if ccSrc c then x.gen else (x.acc j.word.tile).gen) j.word.tile
  obtain ⟨b3, hother⟩ := share_if_acc (drainSlot x c j r o) b
    (if ccSrc c then x.gen else (x.acc j.word.tile).gen) (other j.word.tile)
  refine .of_ok hx ?_
  simp only [finish_slot, hslot, hq, hown, hother, share_if_passes, drainSlot_acc_tile, drainSlot_acc_other,
    drainSlot_passes]
  exact ⟨⟨_, q, rfl, hlen, rfl, rfl, rfl, rfl, rfl⟩, rfl, rfl, rfl⟩

theorem leaveDrain_drains (x : Stall) (c : ChainCfg) (j : DrainJob) : (x.leaveDrain c j).drains = x.drains := by
  unfold Stall.leaveDrain
  split
  · rfl
  · obtain ⟨a0, a1, h⟩ := setAcc_eq x j.word.tile
      (if ccKeep c then { x.acc j.word.tile with st := .held } else Acc.reset)
    rw [h]

theorem leaveDrain_of_source (x : Stall) {c : ChainCfg} (j : DrainJob) (h : ccSrc c = true) : x.leaveDrain c j = x := by
  rw [Stall.leaveDrain, h, Bool.true_or, if_pos rfl]

/-- The tile of a drain leaves DRAIN: HELD with KEEP, else EMPTY. -/
theorem leaveDrain_acc_tile (x : Stall) {c : ChainCfg} {j : DrainJob} (hsrc : ccSrc c = false) (hleft : j.left = false) :
    ((x.leaveDrain c j).acc j.word.tile).st = if ccKeep c then .held else .empty := by
  rw [Stall.leaveDrain, hsrc, hleft, Bool.false_or, if_neg Bool.false_ne_true, setAcc_acc_same]
  split <;> rfl

theorem leaveDrain_acc_other (x : Stall) (c : ChainCfg) (j : DrainJob) :
    (x.leaveDrain c j).acc (other j.word.tile) = x.acc (other j.word.tile) := by
  unfold Stall.leaveDrain
  split
  · rfl
  · exact setAcc_acc_other _ _ (other_ne _)

theorem setCount_drains (x : Stall) (gen : Nat) (n : DWord) : (x.setCount gen n).drains = x.drains := by
  unfold Stall.setCount
  split <;> rfl

/-- What a drain that is out leaves of its slot. -/
theorem drainOut_slot (s : State) (d p : Nat) (c : ChainCfg) (j : DrainJob) (r : List DrainJob) :
    ∃ y : Stall, (s.drainOut d p c j r).slot d p = y.leaveDrain c j ∧ y.drains = r ∧
      ∀ i, y.acc i = (s.slot d p).acc i := by
  have hout (u : State) (z : Stall) (f : Word) (sat b : Bool) (n : Nat) :
      (if b then { (u.setSlot d p z).flagIf d p f sat with free := n } else (u.setSlot d p z).flagIf d p f sat).slot d p =
        z := by
    have hslot : ((u.setSlot d p z).flagIf d p f sat).slot d p = z := by rw [flagIf_slot, setSlot_slot_same]
    split
    · exact hslot
    · exact hslot
  exact ⟨_, hout _ _ _ _ _ _, setCount_drains _ _ _, fun i => setCount_acc _ _ _ i⟩

theorem drain_done (s : State) (d : Die) (l : Stl) (p : Nat) (j : DrainJob) (r : List DrainJob)
    (hon : s.onSlot d l = some p) (hdrains : (s.slot d p).drains = j :: r) (hstart : j.started = true)
    (hwhole : j.whole = true) (hfree : (s.slot d p).drainFree (s.chain d p j.word.slot) = true) :
    Completes (.drainDone d l) s fun t =>
      let c := s.chain d p j.word.slot
      (t.slot d p).drains = r ∧
      (ccSrc c = false → j.left = false →
        ((t.slot d p).acc j.word.tile).st = (if ccKeep c then .held else .empty)) ∧
      (ccSrc c = true → (t.slot d p).acc0 = (s.slot d p).acc0 ∧ (t.slot d p).acc1 = (s.slot d p).acc1) ∧
      (t.slot d p).acc (other j.word.tile) = (s.slot d p).acc (other j.word.tile) := by
  let c := s.chain d p j.word.slot
  have hx : execDrainDone d l s = s.ok (s.drainOut d p c j r) := by
    simp [execDrainDone, hon, hdrains, hstart, hwhole, hfree, c]
  obtain ⟨y, hslot, hrest, hacc⟩ := drainOut_slot s d p c j r
  generalize s.drainOut d p c j r = u at *
  refine .of_ok hx ⟨?_, fun hsrc hleft => ?_, fun hsrc => ?_, ?_⟩
  · rw [finish_slot, hslot, leaveDrain_drains, hrest]
  · rw [finish_slot, hslot, leaveDrain_acc_tile y hsrc hleft]
  · rw [finish_slot, hslot, leaveDrain_of_source y j hsrc]
    exact ⟨hacc 0, hacc 1⟩
  · rw [finish_slot, hslot, leaveDrain_acc_other, hacc]

theorem drain_keeps_its_place (s : State) (d : Die) (l : Stl) (p : Nat) (j : DrainJob) (r : List DrainJob)
    (hon : s.onSlot d l = some p) (hdrains : (s.slot d p).drains = j :: r) (hstart : j.started = true)
    (hwhole : j.whole = true) (hfree : (s.slot d p).drainFree (s.chain d p j.word.slot) = false) :
    Completes (.drainDone d l) s fun t =>
      let c := s.chain d p j.word.slot
      (t.slot d p).drains = { j with left := true } :: r ∧
      (ccSrc c = false → j.left = false →
        ((t.slot d p).acc j.word.tile).st = (if ccKeep c then .held else .empty)) ∧
      s.onlySlot t d p ∧ t.regs = s.regs := by
  let c := s.chain d p j.word.slot
  have hx : execDrainDone d l s =
      s.ok (s.setSlot d p { (s.slot d p).leaveDrain c j with drains := { j with left := true } :: r }) := by
    simp [execDrainDone, hon, hdrains, hstart, hwhole, hfree, c]
  refine .of_ok hx ?_
  simp only [finish_slot, setSlot_slot_same]
  exact ⟨trivial, fun hsrc hleft => leaveDrain_acc_tile (s.slot d p) hsrc hleft, onlySlot_setSlot s s d p _, rfl⟩

/-! ### Private records -/

/-- A record of the stall's own sequence in its bank: its words are read, and the sequence reads on or ends. A shared tile that stood in the
bank is to come again. -/
def State.loadRecord (s : State) (d l p : Nat) (b : Fin 2) (key len : Nat) (k : Bank) (more : Bool) : State :=
  let x := s.slot d p
  let s1 := (s.noteReads srcStall key len).setSlot d p { x.startLoad.setBank b k with reading := more }
  let arc := s1.arc d (l / 16) (l / 4 % 4)
  if (x.bank b).st == .free then s1
  else s1.setArc d (l / 16) (l / 4 % 4) { arc with replay := arc.replay ++ [(4 + l % 4, (x.bank b).tile)] }

theorem loadRecord_slot (s : State) (d l p : Nat) (b : Fin 2) (key len : Nat) (k : Bank) (more : Bool) :
    (s.loadRecord d l p b key len k more).slot d p =
      { (s.slot d p).startLoad.setBank b k with reading := more } := by
  unfold State.loadRecord
  dsimp only
  split
  · exact setSlot_slot_same _
  · exact setSlot_slot_same _

theorem exec_privateRecordLoaded {s : State} {d : Die} {l : Stl} {b : Fin 2} {p n : Nat} {k : Byte} {q : PrivSeq}
    (hon : s.onSlot d l = some p) (hpriv : (s.slot d p).priv = some q)
    (htodo : q.todo[(if (s.slot d p).bank0.priv then 1 else 0) + (if (s.slot d p).bank1.priv then 1 else 0)]? =
      some (n, k))
    (hbank : (s.slot d p).privBank q b = true) (hshared : (s.slot d p).replaysShared = false) :
    ∃ more, execPrivateRecordLoaded d l b s = s.ok (s.loadRecord d l p b (slotAddr d p (64 * n)) (recordBytes k)
      { st := .full, tile := n, kind := k, priv := true
        data := s.readWords (slotAddr d p (64 * n)) (recordBytes k / 8) } more) := by
  refine ⟨(if (s.slot d p).bank0.priv then 1 else 0) + (if (s.slot d p).bank1.priv then 1 else 0) + 1 !=
    q.todo.length, ?_⟩
  simp only [execPrivateRecordLoaded, hon, hpriv, htodo, hbank, hshared, Bool.not_false, Bool.and_true, if_true,
    State.loadRecord]

theorem private_record_loads (s : State) (d : Die) (l : Stl) (b : Fin 2) (p n : Nat) (k : Byte) (q : PrivSeq)
    (hon : s.onSlot d l = some p) (hpriv : (s.slot d p).priv = some q)
    (htodo : q.todo[(if (s.slot d p).bank0.priv then 1 else 0) + (if (s.slot d p).bank1.priv then 1 else 0)]? =
      some (n, k))
    (hbank : (s.slot d p).privBank q b = true) (hshared : (s.slot d p).replaysShared = false) :
    Completes (.privateRecordLoaded d l b) s fun t =>
      (t.slot d p).bank b = { st := .full, tile := n, kind := k, priv := true
                              data := s.readWords (slotAddr d p (64 * n)) (recordBytes k / 8) } ∧
      (t.slot d p).acc0 = (s.slot d p).acc0 ∧ (t.slot d p).acc1 = (s.slot d p).acc1 ∧
      (t.slot d p).priv = some q := by
  obtain ⟨more, hx⟩ := exec_privateRecordLoaded hon hpriv htodo hbank hshared
  generalize ({ st := .full, tile := n, kind := k, priv := true
                data := s.readWords (slotAddr d p (64 * n)) (recordBytes k / 8) } : Bank) = bank at *
  have hslot := loadRecord_slot s d l p b (slotAddr d p (64 * n)) (recordBytes k) bank more
  have hset (z : Stall) : (z.setBank b bank).acc0 = z.acc0 ∧ (z.setBank b bank).acc1 = z.acc1 ∧
      (z.setBank b bank).priv = z.priv := by
    unfold Stall.setBank
    split <;> exact ⟨rfl, rfl, rfl⟩
  obtain ⟨h0, h1, hseq⟩ := hset (s.slot d p).startLoad
  generalize s.loadRecord d l p b (slotAddr d p (64 * n)) (recordBytes k) bank more = u at *
  refine .of_ok hx ?_
  simp only [finish_slot, hslot]
  exact ⟨setBank_bank_same _ _ _, h0, h1, hseq.trans hpriv⟩

/-! ### The duty -/

/-- The ballast of the gap so far, in MACs. -/
def State.gapMacs (s : State) (d p : Nat) : Nat :=
  if (s.slot d p).gap then s.freeNow.toNat * 256 * (s.slot d p).duty else 0

theorem gapBallast_slot (s : State) (d p : Nat) :
    ∃ g, (s.gapBallast d p).slot d p = { s.slot d p with gap := g } := by
  unfold State.gapBallast
  split
  · exact countBallast_slot s d p _
  · exact ⟨(s.slot d p).gap, rfl⟩

theorem gapBallast_ballast (s : State) (d p : Nat) :
    (s.gapBallast d p).meter.tally.ballast = s.meter.tally.ballast + s.gapMacs d p := by
  unfold State.gapBallast State.gapMacs
  split
  · exact countBallast_ballast s d p _
  · rfl

theorem gapBallast_counter (s : State) (d p : Nat) :
    (s.gapBallast d p).counter (pgStall d p) 2 = s.counter (pgStall d p) 2 + BitVec.ofNat 64 (s.gapMacs d p) := by
  unfold State.gapBallast State.gapMacs
  split
  · exact countBallast_counter s d p _
  · exact (BitVec.add_zero _).symm

theorem gapBallast_regs (s : State) (d p : Nat) : (s.gapBallast d p).regs = s.regs := regs_of_mask (by simp)

theorem gapBallast_mem (s : State) (d p : Nat) : (s.gapBallast d p).mem = s.mem := mem_of_mask (by simp)

theorem duty_moves (s : State) (d : Die) (l : Stl) (p : Nat) (hon : s.onSlot d l = some p) :
    let x := s.slot d p
    let same := fun (y : Stall) => y.acc0 = x.acc0 ∧ y.acc1 = x.acc1 ∧ y.bank0 = x.bank0 ∧ y.bank1 = x.bank1 ∧
      y.drains = x.drains ∧ y.passes = x.passes ∧ y.cmdIndex = x.cmdIndex
    let more := if x.gap then s.freeNow.toNat * 256 * x.duty else 0
    (x.gap = true → x.dutySt ≠ .falling → Completes (.dutyHoldExpiry d l) s fun t =>
      t.slot d p = { x with dutySt := .falling } ∧ s.onlySlot t d p ∧ t.regs = s.regs) ∧
    (x.gap = true → x.dutySt = .falling → 0 < x.duty → Completes (.dutyStepDown d l) s fun t =>
      (t.slot d p).duty = x.duty - 1 ∧ (t.slot d p).dutySt = .falling ∧ same (t.slot d p) ∧
      t.meter.tally.ballast = s.meter.tally.ballast + more ∧
      t.counter (pgStall d p) 2 = s.counter (pgStall d p) 2 + BitVec.ofNat 64 more ∧
      t.regs = s.regs ∧ t.mem = s.mem) ∧
    (x.dutySt = .rising → x.duty < 16 → Completes (.dutyStepUp d l) s fun t =>
      (t.slot d p).duty = x.duty + 1 ∧ (t.slot d p).dutySt = (if x.duty = 15 then .steady else .rising) ∧
      same (t.slot d p) ∧ t.meter.tally.ballast = s.meter.tally.ballast + more ∧ t.regs = s.regs ∧ t.mem = s.mem) := by
  intro x same more
  let s1 := s.gapBallast d p
  obtain ⟨g, hslot⟩ : ∃ g, s1.slot d p = { x with gap := g } := gapBallast_slot s d p
  have hballast : s1.meter.tally.ballast = s.meter.tally.ballast + more := gapBallast_ballast s d p
  have hcounter : s1.counter (pgStall d p) 2 = s.counter (pgStall d p) 2 + BitVec.ofNat 64 more :=
    gapBallast_counter s d p
  have hregs : s1.regs = s.regs := gapBallast_regs s d p
  have hmem : s1.mem = s.mem := gapBallast_mem s d p
  refine ⟨fun hgap hst => ?_, fun hgap hst hpos => ?_, fun hst hlt => ?_⟩
  · have hx : execDutyHoldExpiry d l s = s.ok (s.setSlot d p { x with dutySt := .falling }) := by
      simp [execDutyHoldExpiry, hon, hgap, hst, x]
    exact .of_ok hx ⟨setSlot_slot_same s, onlySlot_setSlot s s d p _, rfl⟩
  · have hx : execDutyStepDown d l s = s.ok (s1.setSlot d p { s1.slot d p with duty := x.duty - 1 }) := by
      simp only [x] at hgap hst hpos
      simp [execDutyStepDown, hon, hgap, hst, hpos, x, s1]
    clear_value s1
    refine .of_ok hx ?_
    simp only [finish_slot, setSlot_slot_same, hslot]
    exact ⟨trivial, hst, ⟨rfl, rfl, rfl, rfl, rfl, rfl, rfl⟩, hballast, hcounter, hregs, hmem⟩
  · have hx : execDutyStepUp d l s = s.ok (s1.setSlot d p
        { s1.slot d p with duty := x.duty + 1, dutySt := if x.duty + 1 = 16 then .steady else .rising }) := by
      simp only [x] at hst hlt
      simp [execDutyStepUp, hon, hst, hlt, x, s1]
    clear_value s1
    refine .of_ok hx ?_
    simp only [finish_slot, setSlot_slot_same, hslot]
    exact ⟨trivial, by simp, ⟨rfl, rfl, rfl, rfl, rfl, rfl, rfl⟩, hballast, hregs, hmem⟩

/-- Settles O26, one command of the stall at a time. -/
theorem tilesAndDutyMove : Obligations.TilesAndDutyMove :=
  ⟨preload_done, passRun_ends, writeback_starts, writeback_done, drain_starts, drain_done, drain_keeps_its_place,
    private_record_loads, duty_moves⟩

end Sys2Proof.Machine
end

section
/-! SUPPORT. Lanes and groups of a wale (R175, R348 to R350): what holding a group, retiring a lane and choosing relays
leave of it. -/

namespace Sys2Proof.Machine

/-! ### Groups whose flits wait -/

theorem holdGroup_wale_wait (s : State) (w : Nat) (ba : Bool) (g : Nat) :
    (s.holdGroup w ba g true).wale w =
      { s.wale w with hold := ((s.wale w).hold.filter fun e => e != (ba, g)) ++ [(ba, g)] } :=
  setWale_wale_same s

theorem holdGroup_wale_go (s : State) (w : Nat) (ba : Bool) (g : Nat) :
    (s.holdGroup w ba g false).wale w = { s.wale w with hold := (s.wale w).hold.filter fun e => e != (ba, g) } :=
  setWale_wale_same s

theorem not_mem_filter_ne (l : List (Bool × Nat)) (e : Bool × Nat) : (l.filter (· != e)).contains e = false := by
  simp

theorem filter_ne_of_not_contains {l : List (Bool × Nat)} {e : Bool × Nat} (h : l.contains e = false) :
    l.filter (· != e) = l := by
  rw [List.filter_eq_self]
  intro x hx
  simp at h ⊢
  rintro rfl
  exact h hx

theorem groups_hold (x : WaleSt) (l : List (Bool × Nat)) (b : Bool) :
    ({ x with hold := l } : WaleSt).groups b = x.groups b := rfl

theorem spares_hold (x : WaleSt) (l : List (Bool × Nat)) (b : Bool) :
    ({ x with hold := l } : WaleSt).spares b = x.spares b := rfl

theorem resend_fails (s : State) (w : WaleIx) (b : Dir) (g : Fin 32) (hon : s.groupOn w b g = true)
    (hhold : (s.wale w).hold.contains (b, g.val) = false) :
    Completes (.flitResendFail w b g) s fun t =>
      t.wale w = { s.wale w with hold := (s.wale w).hold ++ [(b, g.val)] } ∧
      t.counter (pgWale w) 1 = s.counter (pgWale w) 1 + 16 ∧
      (t.reg (pgWale w) 0x060).toNat = min 0xFFFFFFFF ((s.reg (pgWale w) 0x060).toNat + 1) ∧
      t = { s with wales := t.wales, cnt := t.cnt, regs := t.regs
                   host := { s.host with changes := t.host.changes } } := by
  let u := ((s.holdGroup w b g true).count (pgWale w) 1 16).incSat (pgWale w) 0x060
  have hx : execFlitResendFail w b g s = s.ok u := by
    simp only [execFlitResendFail, hon, hhold]
    rfl
  have hwale : u.wale w = { s.wale w with hold := (s.wale w).hold ++ [(b, g.val)] } := by
    have hu : u.wale w = (s.holdGroup w b g true).wale w := rfl
    rw [hu, holdGroup_wale_wait, filter_ne_of_not_contains hhold]
  have hcount : u.counter (pgWale w) 1 = s.counter (pgWale w) 1 + 16 := count_counter_same (s.holdGroup w b g true)
  have hreg : (u.reg (pgWale w) 0x060).toNat = min 0xFFFFFFFF ((s.reg (pgWale w) 0x060).toNat + 1) :=
    incSat_reg_same_toNat _ _ _ _
  have hsame : SameBut [.wales, .cnt, .regs, .changes] s (s.finish u) := by
    simp [SameBut, among, u]
  exact .of_ok hx ⟨hwale, hcount, hreg, hsame.frame⟩

/-- LAST_LANE holds its action in its upper four bits. -/
theorem lastLane_action (s : State) (w : Nat) {a g lane : Nat} (ba : Bool) (ha : a < 16) (hg : g < 32)
    (hlane : lane < 33) : fieldOf ((s.lastLane w a ba g lane).reg (pgWale w) 0x05C) 31 28 = a := by
  rw [State.lastLane, poke_reg_same]
  have hbit : bitAt ba 16 ≤ 65536 := by cases ba <;> decide
  simp only [fieldOf, w32, BitVec.toNat_ofNat]
  omega

theorem retrain_done (s : State) (w : WaleIx) (b : Dir) (g : Fin 32) (hhold : (s.wale w).hold.contains (b, g.val) = true) :
    Completes (.retrainDone w b g) s fun t =>
      (t.wale w).hold.contains (b, g.val) = false ∧ (t.wale w).groups b = (s.wale w).groups b ∧
      fieldOf (t.reg (pgWale w) 0x05C) 31 28 = 4 ∧
      t = { s with wales := t.wales, free := t.free, regs := t.regs
                   host := { s.host with changes := t.host.changes } } := by
  let lane := s.freeNow.toNat % 33
  let s1 := (s.holdGroup w b g false).lastLane w 4 b g lane
  have hx : execRetrainDone w b g s = s.ok s1.freeNext := by
    simp only [execRetrainDone, hhold]
    rfl
  have hwale : s1.freeNext.wale w = { s.wale w with hold := (s.wale w).hold.filter (· != (b, g.val)) } :=
    holdGroup_wale_go s w b g
  have hlast : fieldOf (s1.freeNext.reg (pgWale w) 0x05C) 31 28 = 4 :=
    lastLane_action (s.holdGroup w b g false) w b (by decide) g.isLt (Nat.mod_lt _ (by decide))
  have hsame : SameBut [.wales, .free, .regs, .changes] s (s.finish s1.freeNext) := by
    simp [SameBut, among, s1]
  refine .of_ok hx ⟨?_, ?_, hlast, hsame.frame⟩
  · rw [finish_wale, hwale]
    exact not_mem_filter_ne _ _
  · rw [finish_wale, hwale]
    rfl

theorem window_expires (s : State) (w : WaleIx) (b : Dir) (g : Fin 32) (x : Fin 33) :
    Gives (.laneWindowExpiry w b g x) s (s.setLane (laneKey w b g x) 0) := .of_ok rfl

theorem swap_done (s : State) (w : WaleIx) (b : Dir) (g : Fin 32) (hhold : (s.wale w).hold.contains (b, g.val) = true)
    (hspare : ((s.wale w).spares b).getLsbD g = true) :
    Completes (.laneSwapDone w b g) s fun t =>
      (t.wale w).hold = (s.wale w).hold.filter (· != (b, g.val)) ∧
      t = { s with wales := t.wales, host := { s.host with changes := t.host.changes } } := by
  have hx : execLaneSwapDone w b g s = s.ok (s.holdGroup w b g false) := by
    simp only [execLaneSwapDone, hhold, hspare]
    rfl
  have hsame : SameBut [.wales, .changes] s (s.finish (s.holdGroup w b g false)) := by
    simp [SameBut, among]
  refine .of_ok hx ⟨?_, hsame.frame⟩
  rw [finish_wale, holdGroup_wale_go]

/-! ### Lanes that are retired -/

theorem repairs_of_mask {s t : State} (h : t.mask (allBut .repairs) = s.mask (allBut .repairs)) :
    t.keeper.repairs = s.keeper.repairs := (congrArg (·.keeper.repairs) h :)

theorem isDiePage_pgWale (w : WaleIx) : isDiePage (pgWale w) = false := by
  have hw := w.isLt
  have hlt : ¬ 0x1000 ≤ pgWale w := by
    unfold pgWale
    omega
  simp [isDiePage, hlt]

theorem repair_enters (s : State) (kind d u lane : Nat) :
    ∃ r ∈ (s.repair kind d u lane).keeper.repairs, r.kind = kind ∧ r.unit = u ∧ r.lane = lane := by
  unfold State.repair
  dsimp only
  split
  · next h =>
    obtain ⟨r, hr, hsame⟩ := List.any_eq_true.mp h
    simp only [Bool.and_eq_true, beq_iff_eq] at hsame
    exact ⟨r, hr, hsame.1.1.1, hsame.1.2, hsame.2⟩
  · exact ⟨_, List.mem_append_right _ (List.mem_singleton_self _), rfl, rfl, rfl⟩

/-- The spare of a group is taken. -/
def WaleSt.takeSpare (x : WaleSt) (ba : Bool) (g : Nat) : WaleSt :=
  if ba then { x with spareBA := x.spareBA ||| BitVec.ofNat 32 (2 ^ g) }
  else { x with spareAB := x.spareAB ||| BitVec.ofNat 32 (2 ^ g) }

/-- A group leaves service. -/
def WaleSt.dropGroup (x : WaleSt) (ba : Bool) (g : Nat) : WaleSt :=
  if ba then { x with groupBA := x.groupBA &&& ~~~(BitVec.ofNat 32 (2 ^ g)) }
  else { x with groupAB := x.groupAB &&& ~~~(BitVec.ofNat 32 (2 ^ g)) }

theorem bit_getLsbD {g : Nat} (hg : g < 32) : (BitVec.ofNat 32 (2 ^ g)).getLsbD g = true := by
  rw [BitVec.getLsbD_ofNat, Nat.testBit_two_pow_self]
  simpa using hg

theorem takeSpare_spares (x : WaleSt) (ba : Bool) {g : Nat} (hg : g < 32) :
    ((x.takeSpare ba g).spares ba).getLsbD g = true := by
  have hbit := bit_getLsbD hg
  cases ba
  · exact (BitVec.getLsbD_or ..).trans (by rw [hbit, Bool.or_true])
  · exact (BitVec.getLsbD_or ..).trans (by rw [hbit, Bool.or_true])

theorem takeSpare_groups (x : WaleSt) (ba b : Bool) (g : Nat) : (x.takeSpare ba g).groups b = x.groups b := by
  cases ba <;> rfl

theorem dropGroup_groups (x : WaleSt) (ba : Bool) {g : Nat} (hg : g < 32) :
    ((x.dropGroup ba g).groups ba).getLsbD g = false := by
  have hbit := bit_getLsbD hg
  have hclear (v : Word) : (v &&& ~~~(BitVec.ofNat 32 (2 ^ g))).getLsbD g = false := by
    rw [BitVec.getLsbD_and, BitVec.getLsbD_not, hbit]
    simp
  cases ba
  · exact hclear _
  · exact hclear _

theorem dropGroup_spares (x : WaleSt) (ba b : Bool) (g : Nat) : (x.dropGroup ba g).spares b = x.spares b := by
  cases ba <;> rfl

theorem retireLane_spare {s : State} {w g lane : Nat} {ba : Bool} (hlane : lane < 32)
    (hspare : ((s.wale w).spares ba).getLsbD g = false) :
    s.retireLane w ba g lane =
      ((((s.repair 3 (waleEnds w).1 w (laneCode ba g lane)).setWale w ((s.wale w).takeSpare ba g)).holdGroup w ba g
        true).lastLane w 1 ba g lane).raise (pgWale w) 0x0401 := by
  simp only [State.retireLane, hspare, hlane, decide_true, Bool.not_false, Bool.and_true, if_true]
  rfl

theorem retireLane_group {s : State} {w g lane : Nat} {ba : Bool} (hspare : ((s.wale w).spares ba).getLsbD g = true) :
    let t := ((((s.repair 3 (waleEnds w).1 w (laneCode ba g lane)).setWale w ((s.wale w).dropGroup ba g)).holdGroup w ba
      g false).lastLane w 2 ba g lane).raise (pgWale w) 0x0402
    let u := (t.lastLane w 3 ba g lane).raise (pgWale w) 0x0403
    s.retireLane w ba g lane = if ((s.wale w).dropGroup ba g).groups ba = 0 then
      ({ u with wales := { u.wales with relayDue := true } } : State).noteAssume else t.noteAssume := by
  simp only [State.retireLane, hspare, Bool.not_true, Bool.and_false, Bool.false_eq_true, if_false]
  rfl

theorem retire_raise {s2 t : State} {w : WaleIx} {action code : Nat} {b : Bool} {g lane : Nat} (hcode : code < 2 ^ 16)
    (ht : t = (s2.lastLane w action b g lane).raise (pgWale w) code) :
    t.wales = s2.wales ∧ t.keeper.repairs = s2.keeper.repairs ∧ fieldOf (t.reg (pgWale w) rFault) 31 16 = code := by
  subst ht
  exact ⟨wales_of_mask (by simp), repairs_of_mask (by simp),
    raise_engine_lastCode _ (isDiePage_pgWale w) hcode⟩

theorem lane_retires_to_spare (s : State) (w : WaleIx) (b : Dir) (g : Fin 32) (x : Fin 33) (hlane : x.val < 32)
    (hspare : ((s.wale w).spares b).getLsbD g = false) :
    ∃ t, s.retireLane w b g x = t ∧ ((t.wale w).spares b).getLsbD g = true ∧
    (t.wale w).groups b = (s.wale w).groups b ∧ (t.wale w).hold.contains (b, g.val) = true ∧
    t.wales.lane = s.wales.lane ∧ fieldOf (t.reg (pgWale w) rFault) 31 16 = 0x0401 ∧
    (∃ r ∈ t.keeper.repairs, r.kind = 3 ∧ r.unit = w.val ∧ r.lane = laneCode b g x) := by
  let s1 := s.repair 3 (waleEnds w).1 w (laneCode b g x)
  let s2 := (s1.setWale w ((s.wale w).takeSpare b g)).holdGroup w b g true
  have ht : s.retireLane w b g x = (s2.lastLane w 1 b g x).raise (pgWale w) 0x0401 := retireLane_spare hlane hspare
  have hown : s2.wale w = { (s.wale w).takeSpare b g with hold :=
      (((s.wale w).takeSpare b g).hold.filter fun e => e != (b, g.val)) ++ [(b, g.val)] } :=
    (holdGroup_wale_wait _ w b g).trans (by rw [setWale_wale_same])
  have hs1 : s1.wales = s.wales := wales_of_mask (mask_repair (by simp) s _ _ _ _)
  have hlanes : s2.wales.lane = s.wales.lane := by
    have hs2 : s2.wales.lane = s1.wales.lane := rfl
    rw [hs2, hs1]
  have hrepairs : ∃ r ∈ s2.keeper.repairs, r.kind = 3 ∧ r.unit = w.val ∧ r.lane = laneCode b g x :=
    repair_enters s 3 _ _ _
  clear_value s2
  obtain ⟨hwales, hrep, hcode⟩ := retire_raise (by decide) ht
  have hwale := (congrArg (fun m : Wales => SMap.get WaleSt.reset m.wale w) hwales).trans hown
  generalize s.retireLane w b g x = t at *
  refine ⟨t, rfl, ?_, ?_, ?_, by rw [hwales, hlanes], hcode, hrep ▸ hrepairs⟩
  · rw [State.wale, hwale, spares_hold]
    exact takeSpare_spares _ _ g.isLt
  · rw [State.wale, hwale, groups_hold, takeSpare_groups]
  · rw [State.wale, hwale]
    simp

theorem lane_retires_group (s : State) (w : WaleIx) (b : Dir) (g : Fin 32) (x : Fin 33)
    (hspare : ((s.wale w).spares b).getLsbD g = true) :
    ∃ t, s.retireLane w b g x = t ∧ ((t.wale w).groups b).getLsbD g = false ∧
    (t.wale w).spares b = (s.wale w).spares b ∧ t.wales.lane = s.wales.lane ∧
    fieldOf (t.reg (pgWale w) rFault) 31 16 = (if (t.wale w).groups b = 0 then 0x0403 else 0x0402) ∧
    ((t.wale w).groups b = 0 → t.wales.relayDue = true) := by
  let s1 := s.repair 3 (waleEnds w).1 w (laneCode b g x)
  let y := (s.wale w).dropGroup b g
  let s2 := (s1.setWale w y).holdGroup w b g false
  have hown : ∃ l, s2.wale w = { y with hold := l } :=
    ⟨_, (holdGroup_wale_go _ w b g).trans (by rw [setWale_wale_same])⟩
  have hs1 : s1.wales = s.wales := wales_of_mask (mask_repair (by simp) s _ _ _ _)
  have hlanes : s2.wales.lane = s.wales.lane := by
    have hs2 : s2.wales.lane = s1.wales.lane := rfl
    rw [hs2, hs1]
  have hretire := retireLane_group (lane := x.val) hspare
  obtain ⟨l, hown⟩ := hown
  have hy : (y.groups b).getLsbD g = false := dropGroup_groups _ _ g.isLt
  have hyspares : y.spares b = (s.wale w).spares b := dropGroup_spares _ _ _ _
  change s.retireLane w b g x = if y.groups b = 0 then
    ({ (((s2.lastLane w 2 b g x).raise (pgWale w) 0x0402).lastLane w 3 b g x).raise (pgWale w) 0x0403 with
      wales := { ((((s2.lastLane w 2 b g x).raise (pgWale w) 0x0402).lastLane w 3 b g x).raise (pgWale w) 0x0403).wales
        with relayDue := true } } : State).noteAssume
    else ((s2.lastLane w 2 b g x).raise (pgWale w) 0x0402).noteAssume at hretire
  clear_value s2
  obtain ⟨h2wales, -, h2code⟩ := retire_raise (by decide) (Eq.refl ((s2.lastLane w 2 b g x).raise (pgWale w) 0x0402))
  generalize (s2.lastLane w 2 b g x).raise (pgWale w) 0x0402 = u at *
  obtain ⟨h3wales, -, h3code⟩ := retire_raise (by decide) (Eq.refl ((u.lastLane w 3 b g x).raise (pgWale w) 0x0403))
  generalize (u.lastLane w 3 b g x).raise (pgWale w) 0x0403 = v at *
  have hdue : ∃ t, s.retireLane w b g x = t ∧ t.wales.wale = s2.wales.wale ∧ t.wales.lane = s2.wales.lane ∧
      fieldOf (t.reg (pgWale w) rFault) 31 16 = (if y.groups b = 0 then 0x0403 else 0x0402) ∧
      (y.groups b = 0 → t.wales.relayDue = true) := by
    have hwales (r : State) : r.noteAssume.wales = r.wales := wales_of_mask (by simp)
    have hreg (r : State) : r.noteAssume.reg (pgWale w) rFault = r.reg (pgWale w) rFault := reg_of_mask (by simp) _ _
    refine ⟨_, rfl, ?_⟩
    rw [hretire]
    split
    · rw [hwales, hreg, h3wales, h2wales]
      exact ⟨rfl, rfl, h3code, fun _ => rfl⟩
    · next hne =>
      rw [hwales, hreg, h2wales]
      exact ⟨rfl, rfl, h2code, fun h => absurd h hne⟩
  obtain ⟨t, htr, hwale, hlane, hcode, hrelay⟩ := hdue
  have hown' : t.wale w = { y with hold := l } := (congrArg (fun m => SMap.get WaleSt.reset m w) hwale).trans hown
  refine ⟨t, htr, ?_⟩
  rw [hown', groups_hold, spares_hold]
  exact ⟨hy, hyspares, hlane.trans hlanes, hcode, hrelay⟩

theorem lane_errs (s : State) (w : WaleIx) (b : Dir) (g : Fin 32) (x : Fin 33) (hon : s.groupOn w b g = true)
    (hlane : x.val < 32 ∨ ((s.wale w).spares b).getLsbD g = true)
    (hgone : (s.keeper.repairs.any fun r => r.kind == 3 && r.unit == w.val && r.lane == laneCode b g x) = false) :
    let k := laneKey w b g x
    (SMap.get 0 s.wales.lane k + 1 ≤ s.regField (pgWale w) 0x058 15 0 →
      Gives (.laneError w b g x) s (s.setLane k (SMap.get 0 s.wales.lane k + 1))) ∧
    (s.regField (pgWale w) 0x058 15 0 < SMap.get 0 s.wales.lane k + 1 → ((s.wale w).spares b).getLsbD g = false →
      Completes (.laneError w b g x) s fun t =>
        ((t.wale w).spares b).getLsbD g = true ∧ (t.wale w).groups b = (s.wale w).groups b ∧
        (t.wale w).hold.contains (b, g.val) = true ∧ SMap.get 0 t.wales.lane k = 0 ∧
        fieldOf (t.reg (pgWale w) rFault) 31 16 = 0x0401 ∧
        (∃ r ∈ t.keeper.repairs, r.kind = 3 ∧ r.unit = w.val ∧ r.lane = laneCode b g x)) ∧
    (s.regField (pgWale w) 0x058 15 0 < SMap.get 0 s.wales.lane k + 1 → ((s.wale w).spares b).getLsbD g = true →
      Completes (.laneError w b g x) s fun t =>
        ((t.wale w).groups b).getLsbD g = false ∧ (t.wale w).spares b = (s.wale w).spares b ∧
        SMap.get 0 t.wales.lane k = 0 ∧
        fieldOf (t.reg (pgWale w) rFault) 31 16 = (if (t.wale w).groups b = 0 then 0x0403 else 0x0402) ∧
        ((t.wale w).groups b = 0 → t.wales.relayDue = true)) := by
  intro k
  have hgo : (!s.groupOn w b g ||
      (s.keeper.repairs.any fun r => r.kind == 3 && r.unit == w.val && r.lane == laneCode b g x) ||
      (x.val == 32 && !((s.wale w).spares b).getLsbD g)) = false := by
    rw [hon, hgone]
    obtain hlt | hspare := hlane
    · simp
      omega
    · simp [hspare]
  have hx : execLaneError w b g x s =
      if SMap.get 0 s.wales.lane k + 1 ≤ s.regField (pgWale w) 0x058 15 0 then
        s.ok (s.setLane k (SMap.get 0 s.wales.lane k + 1))
      else s.ok ((s.setLane k 0).retireLane w b g x) := by
    simp only [execLaneError, hgo]
    rfl
  have hzero : SMap.get 0 (s.setLane k 0).wales.lane k = 0 := SMap.get_set_same 0 s.wales.lane k 0
  refine ⟨fun hle => .of_ok (hx.trans (if_pos hle)), fun hlt hspare => ?_, fun hlt hspare => ?_⟩
  · have hgoes := hx.trans (if_neg (Nat.not_le.mpr hlt))
    have hfree : x.val < 32 := hlane.resolve_right (by rw [hspare]; exact Bool.false_ne_true)
    obtain ⟨t, ht, hspares, hgroups, hhold, hlanes, hcode, hrepairs⟩ :=
      lane_retires_to_spare (s.setLane k 0) w b g x hfree hspare
    rw [ht] at hgoes
    exact .of_ok hgoes ⟨hspares, hgroups, hhold, (congrArg (SMap.get 0 · k) hlanes).trans hzero, hcode, hrepairs⟩
  · have hgoes := hx.trans (if_neg (Nat.not_le.mpr hlt))
    obtain ⟨t, ht, hgroups, hspares, hlanes, hcode, hrelay⟩ := lane_retires_group (s.setLane k 0) w b g x hspare
    rw [ht] at hgoes
    exact .of_ok hgoes ⟨hgroups, hspares, (congrArg (SMap.get 0 · k) hlanes).trans hzero, hcode, hrelay⟩

/-! ### Relays of the path -/

theorem relaysOf_congr {s t : State} (hup : ∀ a b, t.waleUp a b = s.waleUp a b)
    (hof : ∀ a b, t.relayOf a b = s.relayOf a b) (l : List (Nat × Nat)) : t.relaysOf l = s.relaysOf l := by
  induction l with
  | nil => rfl
  | cons e r ih =>
    obtain ⟨a, b⟩ := e
    simp only [State.relaysOf, ih, hup, hof]

/-- The path that the engine would take, with a lost member of the host's path marked. -/
theorem repath_chooses (s : State) :
    let p := if s.rounds.src && s.rounds.host.any s.lostDies.contains then ([], 0xC000) else s.choosePath
    match s.relaysOf (hopsOf p.1) with
    | some m => s.repath.rounds.path = p.1 ∧ s.repath.rounds.code = p.2 ∧ s.repath.rounds.relay = m
    | none => s.repath.rounds.path = [] ∧ s.repath.rounds.code = 0xC000 ∧ s.repath.rounds.relay = [] := by
  intro p
  let lost := s.rounds.src && s.rounds.host.any s.lostDies.contains
  let s0 : State := { s with rounds := { s.rounds with broken := s.rounds.broken || lost } }
  have hpath : s0.choosePath = p := by
    cases hlost : lost with
    | true =>
      have hsrc : s.rounds.src = true := (Bool.and_eq_true_iff.mp hlost).1
      have hp : p = ([], 0xC000) := if_pos hlost
      simp [State.choosePath, s0, hsrc, hlost, hp]
    | false =>
      have hp : p = s.choosePath := if_neg (by rw [show (s.rounds.src && _) = false from hlost]; exact Bool.false_ne_true)
      have hs0 : s0 = s := by simp [s0, hlost]
      rw [hs0, hp]
  have hrelays (l : List (Nat × Nat)) : s0.relaysOf l = s.relaysOf l :=
    relaysOf_congr (fun _ _ => by rfl) (fun _ _ => by rfl) l
  simp only [State.repath]
  simp only [s0, lost] at hpath hrelays
  rw [hpath, hrelays]
  cases s.relaysOf (hopsOf p.1) with
  | some m => exact ⟨rfl, rfl, rfl⟩
  | none => exact ⟨rfl, rfl, rfl⟩

theorem relays_done (s : State) (hdue : s.wales.relayDue = true) :
    let p := if s.rounds.src && s.rounds.host.any s.lostDies.contains then ([], 0xC000) else s.choosePath
    Completes .waleRelayDone s fun t =>
      t.wales = { s.wales with relayDue := false } ∧ t.dies = s.dies ∧ t.mem = s.mem ∧
      match s.relaysOf (hopsOf p.1) with
      | some m => t.rounds.path = p.1 ∧ t.rounds.code = p.2 ∧ t.rounds.relay = m
      | none => t.rounds.path = [] ∧ t.rounds.code = 0xC000 ∧ t.rounds.relay = [] := by
  intro p
  let s1 : State := { s with wales := { s.wales with relayDue := false } }
  have hx : execWaleRelayDone s = s.ok s1.repath := if_pos hdue
  have hwales : s1.repath.wales = s1.wales := wales_of_mask (by simp)
  have hdies : s1.repath.dies = s1.dies := dies_of_mask (by simp)
  have hmem : s1.repath.mem = s1.mem := mem_of_mask (by simp)
  have hchoice := repath_chooses s1
  have hpath : (if s1.rounds.src && s1.rounds.host.any s1.lostDies.contains then ([], 0xC000) else s1.choosePath) = p :=
    rfl
  have hrelays : s1.relaysOf (hopsOf p.1) = s.relaysOf (hopsOf p.1) :=
    relaysOf_congr (fun _ _ => by rfl) (fun _ _ => by rfl) _
  simp only [hpath, hrelays] at hchoice
  clear_value p
  generalize s1.repath = u at *
  exact .of_ok hx ⟨hwales, hdies, hmem, hchoice⟩

/-- Settles O46, one command of a wale at a time. -/
theorem waleLanesAreRepaired : Obligations.WaleLanesAreRepaired :=
  ⟨resend_fails, retrain_done, lane_errs, window_expires, swap_done, relays_done⟩

end Sys2Proof.Machine
end

section
/-! SUPPORT. Packets that are no frames, links and the move of a port's flows (R281, R282, R286, R306, R351), with what a
fault of a die's page leaves. -/

namespace Sys2Proof.Machine

/-! ### Faults of any page -/

theorem regKey_ne_of_page_ne {page page' off off' : Nat} (hoff : off < 4096) (hoff' : off' < 4096) (h : page ≠ page') :
    regKey page off ≠ regKey page' off' := by
  unfold regKey
  omega

/-- A fault is recorded and told, or its page keeps its values (R344). -/
theorem raise_cases (s : State) (page code : Nat) :
    s.raise page code = s ∨
      s.raise page code = ((s.recordFault page code).recordLastFault page code).tellFault page code := by
  by_cases hin : isDiePage page = true → s.dieOut (pageDie page) = false ∨ page = pgDieHealth (pageDie page)
  · exact Or.inr (raise_eq s code hin)
  · simp only [not_forall, not_or, Bool.not_eq_false] at hin
    obtain ⟨hp, hout, hne⟩ := hin
    exact Or.inl (raise_of_out s code hp hout hne)

theorem tellFault_cnt (s : State) (page code : Nat) : (s.tellFault page code).cnt = s.cnt := by
  obtain ⟨b, hb⟩ := tellFault_eq s page code
  rw [hb]

theorem recordFault_cnt (s : State) (page code : Nat) : (s.recordFault page code).cnt = s.cnt := by
  obtain ⟨r, hr⟩ := recordFault_eq_poke s page code
  rw [hr]

theorem raise_counter_other (s : State) {page q j : Nat} (code : Nat)
    (h : 4 * q + j ≠ 4 * pgDieHealth (pageDie page) + 0) : (s.raise page code).counter q j = s.counter q j := by
  have hpoke (u : State) (g o : Nat) (v : Word) : (u.poke g o v).cnt = u.cnt := rfl
  obtain hr | hr := raise_cases s page code
  · rw [hr]
  · rw [hr, State.counter, tellFault_cnt, State.recordLastFault]
    split
    · exact (count_counter_other _ h).trans (by rw [State.counter, hpoke, recordFault_cnt, State.counter])
    · rw [recordFault_cnt, State.counter]

/-- A fault leaves the registers but FAULT, FAULT_FIRST and LAST_FAULT. -/
theorem raise_reg_other (s : State) (page code q : Nat) {o : Nat} (ho : o < 4096) (hfault : o ≠ rFault)
    (hfirst : o ≠ rFaultFirst) (hlast : o ≠ 0x044) : (s.raise page code).reg q o = s.reg q o := by
  have hrecord : (s.recordFault page code).reg q o = s.reg q o := by
    have hf : regKey q o ≠ regKey page rFault := regKey_ne_of_off_ne ho (by decide) hfault
    have hff : regKey q o ≠ regKey page rFaultFirst := regKey_ne_of_off_ne ho (by decide) hfirst
    unfold State.recordFault
    split
    · rw [poke_reg_other _ hff, poke_reg_other _ hf]
    · rw [poke_reg_other _ hf]
  obtain hr | hr := raise_cases s page code
  · rw [hr]
  · rw [hr, tellFault_reg, State.recordLastFault]
    split
    · rw [count_reg, poke_reg_other _ (regKey_ne_of_off_ne ho (by decide) hlast), hrecord]
    · exact hrecord

theorem raise_lastCode (s : State) {page code : Nat} (hlt : code < 2816)
    (hin : isDiePage page = true → s.dieOut (pageDie page) = false ∨ page = pgDieHealth (pageDie page)) :
    fieldOf ((s.raise page code).reg page rFault) 31 16 = code := (raise_records s hlt hin).2.1

/-! ### Packets -/

theorem packet_counts (s : State) (p : Die) (htakes : s.portTakes p = true) :
    Completes (.nonSloubPacket p) s fun t =>
      (t.reg (pgPort p) 0x080).toNat = min 0xFFFFFFFF ((s.reg (pgPort p) 0x080).toNat + 1) ∧
      t = { s with regs := t.regs, host := { s.host with changes := t.host.changes } } := by
  have hx : execNonSloubPacket p s = s.ok (s.incSat (pgPort p) 0x080) := if_pos htakes
  have hreg := incSat_reg_same_toNat s (pgPort p) 0x080 1
  have hsame : SameBut [.regs, .changes] s (s.finish (s.incSat (pgPort p) 0x080)) := by
    simp [SameBut, among]
  generalize s.incSat (pgPort p) 0x080 = u at *
  exact .of_ok hx ⟨hreg, hsame.frame⟩

theorem pause_counts (s : State) (p : Die) (hon : s.linkOn p = true) :
    Completes (.pauseFrame p) s fun t =>
      (t.reg (pgPort p) 0x09C).toNat = min 0xFFFFFFFF ((s.reg (pgPort p) 0x09C).toNat + 1) ∧
      t = { s with regs := t.regs, host := { s.host with changes := t.host.changes } } := by
  have hx : execPauseFrame p s = s.ok (s.incSat (pgPort p) 0x09C) := if_pos hon
  have hreg := incSat_reg_same_toNat s (pgPort p) 0x09C 1
  have hsame : SameBut [.regs, .changes] s (s.finish (s.incSat (pgPort p) 0x09C)) := by
    simp [SameBut, among]
  generalize s.incSat (pgPort p) 0x09C = u at *
  exact .of_ok hx ⟨hreg, hsame.frame⟩

theorem linkOn_in {s : State} {p : Nat} (h : s.linkOn p = true) : s.dieOut p = false := by
  simp only [State.linkOn, Bool.and_eq_true, Bool.not_eq_true'] at h
  exact h.2

theorem own_address_answered (s : State) (p : Die) (hon : s.linkOn p = true) (hcar : s.carrier p = p.val) :
    Gives (.neighborSolicitation p (s.portIp p)) s (s.emit (.neighborAdv p p (s.portIp p) (s.portMac p) false)) := by
  have hx : execNeighborSolicitation p (s.portIp p) s =
      s.ok (s.emit (.neighborAdv p p (s.portIp p) (s.portMac p) false)) := by
    simp [execNeighborSolicitation, hon, hcar, linkOn_in hon]
  exact .of_ok hx

theorem buddy_address_answered (s : State) (p : Die) (hon : s.linkOn p = true) (hcar : s.carrier (p.val ^^^ 1) = p.val)
    (hin : s.dieOut (p.val ^^^ 1) = false) (hne : s.portIp p ≠ s.portIp (p.val ^^^ 1)) :
    Gives (.neighborSolicitation p (s.portIp (p.val ^^^ 1))) s
      (s.emit (.neighborAdv (p.val ^^^ 1) p (s.portIp (p.val ^^^ 1)) (s.portMac p) false)) := by
  have hx : execNeighborSolicitation p (s.portIp (p.val ^^^ 1)) s =
      s.ok (s.emit (.neighborAdv (p.val ^^^ 1) p (s.portIp (p.val ^^^ 1)) (s.portMac p) false)) := by
    simp [execNeighborSolicitation, hon, hcar, hin, hne]
  exact .of_ok hx

/-! ### Links -/

theorem link_goes_down (s : State) (p : Die) (hon : s.linkOn p = true) :
    Completes (.linkDown p) s fun t =>
      t.port p = { s.port p with link := 0 } ∧ t.counter (pgPortLink p) 2 = s.counter (pgPortLink p) 2 + 1 ∧
      fieldOf (t.reg (pgPortLink p) rFault) 31 16 = 0x0501 ∧ t.flows = s.flows := by
  let s1 := (s.setPort p { s.port p with link := 0 }).count (pgPortLink p) 2
  have hx : execLinkDown p s = s.ok (s1.raise (pgPortLink p) 0x0501) := if_pos hon
  have hport : (s1.raise (pgPortLink p) 0x0501).port p = { s.port p with link := 0 } :=
    (port_of_mask (s := s1) (by simp) p).trans (setPort_port_same s)
  have hcount : (s1.raise (pgPortLink p) 0x0501).counter (pgPortLink p) 2 = s.counter (pgPortLink p) 2 + 1 := by
    rw [raise_counter_other]
    · exact count_counter_same (s.setPort p { s.port p with link := 0 })
    · unfold pgPortLink pgDieHealth pgDie
      omega
  have hcode : fieldOf ((s1.raise (pgPortLink p) 0x0501).reg (pgPortLink p) rFault) 31 16 = 0x0501 :=
    raise_lastCode s1 (by decide) fun _ => Or.inl (by
      rw [pgPortLink, pageDie_pgDie _ (by decide)]
      exact (linkOn_in hon : s.dieOut p = false))
  have hflows : (s1.raise (pgPortLink p) 0x0501).flows = s1.flows := flows_of_mask (by simp)
  generalize s1.raise (pgPortLink p) 0x0501 = u at *
  exact .of_ok hx ⟨hport, hcount, hcode, hflows⟩

theorem link_comes_up (s : State) (p : Die)
    (hst : (s.port p).st = .on ∨ (s.port p).st = .starting ∨ (s.port p).st = .draining) (hin : s.dieOut p = false)
    (hlink : (s.port p).link ≠ 3) :
    Gives (.linkUp p) s
      (s.setPort p { s.port p with st := if (s.port p).st = .draining then .draining else .on, link := 3 }) := by
  have hx : execLinkUp p s = s.ok (s.portUpNow p) := by
    have hst' : ((s.port p).st == .on || (s.port p).st == .starting || (s.port p).st == .draining) = true := by
      simpa [or_assoc] using hst
    have hne : ¬ (s.port p).link = 3#2 := hlink
    simp [execLinkUp, hst', hin, hne]
  have hup : s.portUpNow p =
      s.setPort p { s.port p with st := if (s.port p).st = .draining then .draining else .on, link := 3 } := by
    simp [State.portUpNow]
  rw [hup] at hx
  exact .of_ok hx

/-! ### A bundle of the engine's own with one write -/

/-- Registers of pages that are no die's, outside BUNDLE, above the tag. -/
def Plain (g o : Nat) : Prop := isDiePage g = false ∧ o < 4096 ∧ g ≠ pgBundle ∧ o ≠ rBundleTag

theorem isDiePage_pgDieBundle {p : Nat} (h : p < 64) : isDiePage (pgDieBundle p) = true :=
  decide_eq_true (by unfold pgDieBundle pgDie; omega)

theorem holdPeak_reg (s : State) (p : Nat) (held : Bool) {g o : Nat} (h : Plain g o) :
    (s.holdPeak p held).reg g o = s.reg g o := by
  obtain ⟨hg, ho, -, -⟩ := h
  unfold State.holdPeak
  split
  · next hp =>
    have hlt : p < 64 := by simpa using (Bool.and_eq_true_iff.mp hp).1
    have hne : g ≠ pgDieBundle p := by
      rintro rfl
      rw [isDiePage_pgDieBundle hlt] at hg
      exact absurd hg (by decide)
    have hpeak (v : Nat) : (s.peak (pgDieBundle p) 0x048 v).reg g o = s.reg g o := by
      unfold State.peak
      split
      · exact poke_reg_other _ (regKey_ne_of_page_ne ho (by decide) hne)
      · rfl
    exact hpeak _
  · rfl

theorem ctxAbortAt_reg (s : State) (c p : Nat) {g o : Nat} (h : Plain g o) : (s.ctxAbortAt c p).reg g o = s.reg g o := by
  simp only [State.ctxAbortAt]
  split
  · rfl
  · exact (holdPeak_reg _ _ _ h).trans (reg_of_mask (mask_bellBack (by simp) s p) g o)

theorem finishAbort_reg (s : State) (c : Nat) {g o : Nat} (h : Plain g o) : (s.finishAbort c).reg g o = s.reg g o := by
  have hloop (l : List Nat) (t : State) : (l.foldl (fun t p => t.ctxAbortAt c p) t).reg g o = t.reg g o := by
    induction l generalizing t with
    | nil => rfl
    | cons p r ih => exact (ih _).trans (ctxAbortAt_reg t c p h)
  unfold State.finishAbort
  split
  · exact hloop _ s
  · rfl

theorem ctxOpen_reg (s : State) (c : Nat) (e : Bool) (scope : DWord) {g o : Nat} (h : Plain g o) :
    (s.ctxOpen c e scope).reg g o = s.reg g o := by
  simp only [State.ctxOpen]
  split
  · exact finishAbort_reg s c h
  · exact finishAbort_reg s c h

theorem ctxOpen_counter (s : State) (c : Nat) (e : Bool) (scope : DWord) {q : Nat} (j : Nat)
    (h : 4 * q + j ≠ 4 * pgBundle + 1) : (s.ctxOpen c e scope).counter q j = s.counter q j := by
  have hcnt : (s.finishAbort c).counter q j = s.counter q j := counter_of_mask (mask_finishAbort (by simp) s c) q j
  simp only [State.ctxOpen]
  split
  · exact (count_counter_other _ h).trans hcnt
  · exact hcnt

theorem makeWay_of_idle {s : State} (h : ∀ c, (s.bctx c).live = false) (e : Bool) (scope : DWord) :
    s.makeWay e scope = s := by
  have hloop (l : List Nat) : l.foldl (fun t c =>
      let x := t.bctx c
      if !x.live || !scopesMeet e scope x.inEngine x.inScope then t
      else if x.applySent then t.finishApply c
      else (t.ctxAbort c 0xA 0).finishAbort c) s = s := by
    induction l with
    | nil => rfl
    | cons c r ih =>
      rw [List.foldl_cons]
      simp only [h c, Bool.not_false, Bool.true_or, if_true]
      exact ih
  exact hloop _

/-- The state in which a bundle of context `c` with the one write `w` commits, in the parts named. -/
theorem ctxCommitted_one {s : State} {c : Nat} {w : Staged} (hstaged : (s.bctx c).staged = [w])
    (hremap : w.off ≠ 0x054) (hpath : isDiePage w.page = false) :
    (∀ g o, Plain g o → (s.ctxCommitted c).reg g o = s.reg g o) ∧
      (∀ q j, 4 * q + j ≠ 4 * pgBundle + 0 → (s.ctxCommitted c).counter q j = s.counter q j) ∧
      (s.ctxCommitted c).out = s.out ∧ (s.ctxCommitted c).flows = s.flows ∧
      ((s.ctxCommitted c).bctx c).st = .committed ∧
      SameBut [.free, .regs, .cnt, .bnd, .ledgers] s (s.ctxCommitted c) := by
  let x := s.bctx c
  let s1 := s.poke w.page rBundleTag x.tag
  let s2 := (s1.poke pgBundle 0x05C x.tag).count pgBundle 0
  let s3 := (s2.peak pgBundle 0x064 (s2.freeNow.toNat % 2 ^ 32)).freeNext
  have hnone : (s.bctx c).remaps = none := by
    simp [BndCtx.remaps, hstaged, hremap]
  have hno : stagesPath x.staged = false := by
    simp [stagesPath, x, hstaged, hpath]
  have hx : s.ctxCommitted c = s3.setBctx c
      { x with st := .committed, staged := [], parts := [], blocks := [], applySent := false, mark := 0, faults := []
               reason := 0, wher := 0 } := by
    simp only [State.ctxCommitted, hnone]
    rw [if_neg (by simpa using hno)]
    simp only [hstaged, List.map_cons, List.map_nil, s3, s2, s1, x]
    rfl
  have hpeak (v : Nat) {g o : Nat} (h : Plain g o) : (s2.peak pgBundle 0x064 v).reg g o = s2.reg g o := by
    obtain ⟨-, ho, hne, -⟩ := h
    unfold State.peak
    split
    · exact poke_reg_other _ (regKey_ne_of_page_ne ho (by decide) hne)
    · rfl
  have hpeakRest (v : Nat) : (s2.peak pgBundle 0x064 v).cnt = s2.cnt ∧ (s2.peak pgBundle 0x064 v).out = s2.out ∧
      (s2.peak pgBundle 0x064 v).flows = s2.flows :=
    ⟨cnt_of_mask (by simp), out_of_mask (by simp), flows_of_mask (by simp)⟩
  have hreg {g o : Nat} (h : Plain g o) : s2.reg g o = s.reg g o := by
    obtain ⟨-, ho, hne, htag⟩ := h
    exact (poke_reg_other _ (regKey_ne_of_page_ne ho (by decide) hne)).trans
      (poke_reg_other _ (regKey_ne_of_off_ne ho (by decide) htag))
  have hsame : SameBut [.free, .regs, .cnt, .bnd, .ledgers] s (s.ctxCommitted c) := by
    rw [hx]
    simp [SameBut, among, s3, s2, s1]
  rw [hx] at hsame ⊢
  obtain ⟨hcnt, hout, hflows⟩ := hpeakRest (s2.freeNow.toNat % 2 ^ 32)
  refine ⟨fun g o h => (hpeak _ h).trans (hreg h), fun q j h => ?_, hout, hflows,
    congrArg BndCtx.st (setBctx_bctx_same s3), hsame⟩
  have hcount : s3.cnt = s2.cnt := hcnt
  have hkept : s2.counter q j = s.counter q j := count_counter_other (s1.poke pgBundle 0x05C x.tag) h
  exact (congrArg (SMap.get 0 · (4 * q + j)) hcount).trans hkept

theorem internal_one {s : State} (c : Nat) (hidle : ∀ c, (s.bctx c).live = false) (w : Staged) (hremap : w.off ≠ 0x054)
    (hplain : Plain w.page w.off) :
    ∃ u, s.internal c true 0 [w] = u ∧ u.reg w.page w.off = w.val ∧
      (∀ g o, Plain g o → regKey g o ≠ regKey w.page w.off → u.reg g o = s.reg g o) ∧
      (∀ q j, q ≠ pgBundle → j < 4 → u.counter q j = s.counter q j) ∧ u.out = s.out ∧ u.flows = s.flows ∧
      (u.bctx c).st = .committed ∧ SameBut [.free, .regs, .cnt, .bnd, .ledgers] s u := by
  have hopen : ((s.ctxOpen c true 0).bctx c).st = .open := by
    rw [(ctxOpen_opens s c (e := true) (scope := 0) (fun k _ => hidle k) (Or.inl rfl)).1]
  have hs1out : (s.ctxOpen c true 0).out = s.out := out_of_mask (by simp)
  have hs1flows : (s.ctxOpen c true 0).flows = s.flows := flows_of_mask (by simp)
  have hs1reg {g o : Nat} (h : Plain g o) : (s.ctxOpen c true 0).reg g o = s.reg g o := ctxOpen_reg s c true 0 h
  have hs1counter {q j : Nat} (hq : q ≠ pgBundle) (hj : j < 4) :
      (s.ctxOpen c true 0).counter q j = s.counter q j := ctxOpen_counter s c true 0 j (by omega)
  obtain ⟨s1, hs1⟩ : ∃ s1, s.ctxOpen c true 0 = s1 := ⟨_, rfl⟩
  rw [hs1] at hopen hs1out hs1flows
  simp only [hs1] at hs1reg hs1counter
  let s2 := s1.setBctx c { s1.bctx c with staged := [w] }
  let s3 := (s2.poke w.page w.off w.val).count pgBundle 2 1
  have hx : s.internal c true 0 [w] = s3.ctxCommitted c := by
    have hst : ¬ ((s1.bctx c).st != .open) = true := by
      rw [hopen]
      decide
    simp only [State.internal, makeWay_of_idle hidle, hs1]
    rw [if_neg hst]
    rfl
  have hstaged : (s3.bctx c).staged = [w] := by
    have hs2 : s2.bctx c = { s1.bctx c with staged := [w] } := setBctx_bctx_same s1
    have hs3 : s3.bctx c = s2.bctx c := rfl
    rw [hs3, hs2]
  have hown : s3.reg w.page w.off = w.val := poke_reg_same s2
  have hs3reg {g o : Nat} (h : regKey g o ≠ regKey w.page w.off) : s3.reg g o = s1.reg g o := poke_reg_other s2 h
  have hs3counter {q j : Nat} (hq : q ≠ pgBundle) (hj : j < 4) : s3.counter q j = s1.counter q j :=
    count_counter_other (s2.poke w.page w.off w.val) (by omega)
  have hs3out : s3.out = s1.out := rfl
  have hs3flows : s3.flows = s1.flows := rfl
  have hs1same : SameBut [.free, .regs, .cnt, .bnd, .ledgers] s s1 := by
    rw [← hs1]
    simp [SameBut, among]
  have hs3same : SameBut [.free, .regs, .cnt, .bnd, .ledgers] s s3 :=
    (show SameBut [.free, .regs, .cnt, .bnd, .ledgers] s1 s3 by simp [SameBut, among, s3, s2]).trans hs1same
  clear_value s3
  obtain ⟨hreg, hcounter, hout, hflows, hst, hsame⟩ := ctxCommitted_one hstaged hremap hplain.1
  refine ⟨_, hx, (hreg _ _ hplain).trans hown, fun g o h hkey => ?_, fun q j hq hj => ?_,
    hout.trans (hs3out.trans hs1out), hflows.trans (hs3flows.trans hs1flows), hst, hsame.trans hs3same⟩
  · exact (hreg g o h).trans ((hs3reg hkey).trans (hs1reg h))
  · exact (hcounter q j (by omega)).trans ((hs3counter hq hj).trans (hs1counter hq hj))

/-! ### The move of a port's flows -/

/-- The register of PORT_MOVE that holds a port's bit. -/
def moveOff (p : Nat) : Nat := if p < 32 then 0x04C else 0x050

theorem regPair_getLsbD (s : State) (page off p : Nat) :
    (s.regPair page off).getLsbD p =
      if p < 32 then (s.reg page off).getLsbD p else (s.reg page (off + 4)).getLsbD (p - 32) := by
  rw [State.regPair, BitVec.getLsbD_append]

/-- A port whose bit of PORT_MOVE is set is carried by its buddy. -/
theorem carrier_of_moved {s : State} {p : Nat} (hp : p < 64)
    (hbit : (s.reg pgSpareMap (moveOff p)).getLsbD (p % 32) = true) : s.carrier p = p ^^^ 1 := by
  have hpair : (s.regPair pgSpareMap 0x04C).getLsbD p = true := by
    rw [regPair_getLsbD]
    unfold moveOff at hbit
    split
    · next h =>
      rw [if_pos h, Nat.mod_eq_of_lt h] at hbit
      exact hbit
    · next h =>
      have hmod : p % 32 = p - 32 := by omega
      rw [if_neg h, hmod] at hbit
      exact hbit
  rw [State.carrier, if_pos]
  rw [BitVec.getLsbD_or, hpair, Bool.true_or]

theorem plain_pgSpareMap_moveOff (p : Nat) : Plain pgSpareMap (moveOff p) := by
  unfold moveOff
  split <;> exact ⟨rfl, by decide, by decide, by decide⟩

theorem plain_pgPort (p : Die) {o : Nat} (ho : o < 4096) (htag : o ≠ rBundleTag) : Plain (pgPort p) o := by
  have hp := p.isLt
  have hlt : ¬ 0x1000 ≤ pgPort p := by
    unfold pgPort
    omega
  exact ⟨by simp [isDiePage, hlt], ho, by unfold pgPort pgBundle; omega, htag⟩

/-- The addresses of a port are registers of its page. -/
theorem portIp_congr {s t : State} {p : Nat} (h : ∀ o, o < 4096 → o ≠ rBundleTag → t.reg (pgPort p) o = s.reg (pgPort p) o) :
    t.portIp p = s.portIp p := by
  simp only [State.portIp, h 0x050 (by decide) (by decide), h 0x04C (by decide) (by decide),
    h 0x048 (by decide) (by decide), h 0x044 (by decide) (by decide)]

theorem portMac_congr {s t : State} {p : Nat} (h : ∀ o, o < 4096 → o ≠ rBundleTag → t.reg (pgPort p) o = s.reg (pgPort p) o) :
    t.portMac p = s.portMac p := by
  simp only [State.portMac, h 0x058 (by decide) (by decide), h 0x054 (by decide) (by decide)]

theorem xor_one_lt {p : Nat} (h : p < 64) : p ^^^ 1 < 64 := Nat.xor_lt_two_pow (n := 6) h (by decide)

theorem flows_move (s : State) (p : Die) (hst : (s.port p).st = .on) (hin : s.dieOut p = false)
    (hlink : (s.port p).link ≠ 3) (hcar : s.carrier p = p.val)
    (hmoved : (s.regPair pgSpareMap 0x04C).getLsbD (p.val ^^^ 1) = false) (hbin : s.dieOut (p.val ^^^ 1) = false)
    (hblink : (s.port (p.val ^^^ 1)).link = 3) (hbst : (s.port (p.val ^^^ 1)).st = .on)
    (hidle : ∀ c, (s.bctx c).live = false) :
    Completes (.portHoldExpiry p) s fun t =>
      t.carrier p = p.val ^^^ 1 ∧
      t.out.getLast? = some (.neighborAdv p (p.val ^^^ 1) (s.portIp p) (s.portMac (p.val ^^^ 1)) true) ∧
      t.counter pgSpareMap 2 = s.counter pgSpareMap 2 + 1 ∧ t.flows = s.flows := by
  let w : Staged := { page := pgSpareMap, off := moveOff p, slot := 0
                      val := s.reg pgSpareMap (moveOff p) ||| BitVec.ofNat 32 (2 ^ (p.val % 32)) }
  obtain ⟨u, hu, hown, hreg, hcounter, hout, hflows, -⟩ := internal_one 5 hidle w
    (by change moveOff p ≠ 0x054; unfold moveOff; split <;> decide) (plain_pgSpareMap_moveOff p)
  have hport (q : Die) (o : Nat) (ho : o < 4096) (htag : o ≠ rBundleTag) : u.reg (pgPort q) o = s.reg (pgPort q) o := by
    have hplain := plain_pgPort q ho htag
    refine hreg _ _ hplain (regKey_ne_of_page_ne ho (plain_pgSpareMap_moveOff p).2.1 ?_)
    change pgPort q ≠ pgSpareMap
    unfold pgPort pgSpareMap
    omega
  have hip : u.portIp p = s.portIp p := portIp_congr (hport p)
  have hmac : u.portMac (p.val ^^^ 1) = s.portMac (p.val ^^^ 1) := portMac_congr (hport ⟨p.val ^^^ 1, xor_one_lt p.isLt⟩)
  have hx : execPortHoldExpiry p s = s.ok ((u.count pgSpareMap 2).emit
      (.neighborAdv p (p.val ^^^ 1) (s.portIp p) (s.portMac (p.val ^^^ 1)) true)) := by
    have hne : ¬ (s.port p).link = 3#2 := hlink
    have hgo : ((s.port p).st == .on && !s.dieOut p && (s.port p).link != 3 && s.carrier p == p.val) = true := by
      simp [hst, hin, hcar, hne]
    have hlost : s.portLost p = (u.count pgSpareMap 2).emit
        (.neighborAdv p (p.val ^^^ 1) (s.portIp p) (s.portMac (p.val ^^^ 1)) true) := by
      rw [← hip, ← hmac, ← hu]
      simp only [State.portLost, hmoved, hbin, hblink, hbst]
      rfl
    rw [← hlost]
    exact if_pos hgo
  have hbit : (u.reg pgSpareMap (moveOff p)).getLsbD (p.val % 32) = true := by
    have hown' : u.reg pgSpareMap (moveOff p) = _ := hown
    rw [hown', BitVec.getLsbD_or, bit_getLsbD (Nat.mod_lt _ (by decide)), Bool.or_true]
  refine .of_ok hx ⟨carrier_of_moved p.isLt hbit, ?_, ?_, hflows⟩
  · exact List.getLast?_concat ..
  · rw [← hcounter pgSpareMap 2 (by decide) (by decide)]
    exact count_counter_same u

/-- Settles O37: packets, links and the move of a port's flows. -/
theorem portsCountAndMove : Obligations.PortsCountAndMove :=
  ⟨packet_counts, pause_counts, own_address_answered, buddy_address_answered, link_goes_down, link_comes_up, flows_move⟩

end Sys2Proof.Machine
end

section
/-! SUPPORT. Frames that open, close and credit a flow (R289 to R298): what a port does with a frame that it takes for a
slot, and what each of them leaves of the flow. -/

namespace Sys2Proof.Machine

/-! ### A frame that a port takes -/

/-- The state in which a frame has arrived and is counted. -/
def State.frameCame (s : State) (p : Nat) (k : Packet) : State :=
  (s.crossBuddy p (s.carrier p) k.udp.length).count (pgPort p) 1

theorem mask_frameCame {M : Part → Bool} (hM : Allows M [.free, .cnt]) (s : State) (p : Nat) (k : Packet) :
    (s.frameCame p k).mask M = s.mask M := by
  simp at hM
  simp [State.frameCame, hM]

theorem frameCame_flow (s : State) (p : Nat) (k : Packet) (q f : Nat) : (s.frameCame p k).flow q f = s.flow q f :=
  flow_of_mask (mask_frameCame (by simp) s p k) q f

theorem frameCame_ledger (s : State) (p : Nat) (k : Packet) (d cls i : Nat) :
    (s.frameCame p k).ledger d cls i = s.ledger d cls i := ledger_of_mask (mask_frameCame (by simp) s p k) d cls i

theorem frameCame_mem (s : State) (p : Nat) (k : Packet) : (s.frameCame p k).mem = s.mem :=
  mem_of_mask (mask_frameCame (by simp) s p k)

theorem waleTraffic_counter (s : State) (w n : Nat) {q j : Nat} (h : q < pgWale 0) (hj : j < 4) :
    (s.waleTraffic w n).counter q j = s.counter q j := by
  have hq : q < 0x100 + w := Nat.lt_of_lt_of_le h (Nat.le_add_right _ _)
  have hfirst : (s.count (pgWale w) 2 n).counter q j = s.counter q j :=
    count_counter_other s (by unfold pgWale; omega)
  exact (count_counter_other (s.count (pgWale w) 2 n) (by unfold pgWale; omega)).trans hfirst

/-- Frames that cross to a buddy count in pages of wales and meshes alone. -/
theorem crossBuddy_counter (s : State) (p a n : Nat) {q j : Nat} (h : q < pgWale 0) (hj : j < 4) :
    (s.crossBuddy p a n).counter q j = s.counter q j := by
  have hloop (l : List Nat) (t : State) : (l.foldl (fun t v => t.waleTraffic v n) t).counter q j = t.counter q j := by
    induction l generalizing t with
    | nil => rfl
    | cons v r ih => exact (ih _).trans (waleTraffic_counter t v n h hj)
  have hq : q < 0x100 := h
  unfold State.crossBuddy
  split
  · exact (hloop _ _).trans (count_counter_other s (by unfold pgMesh pgDie; omega))
  · rfl

theorem frameCame_counter_other (s : State) (p : Nat) (k : Packet) {q j : Nat} (h : q < pgWale 0) (hj : j < 4)
    (hne : 4 * q + j ≠ 4 * pgPort p + 1) : (s.frameCame p k).counter q j = s.counter q j :=
  (count_counter_other _ hne).trans (crossBuddy_counter s p _ _ h hj)

theorem frameCame_counter (s : State) (p : Die) (k : Packet) :
    (s.frameCame p k).counter (pgPort p) 1 = s.counter (pgPort p) 1 + 1 := by
  rw [State.frameCame, count_counter_same, crossBuddy_counter s p _ _ (by unfold pgPort pgWale; omega) (by decide)]
  rfl

theorem rxSlot_congr {s t : State} (h : t.flows = s.flows) (p : Nat) (k : Hdr) : t.rxSlot p k = s.rxSlot p k := by
  simp only [State.rxSlot, State.flow, h]

/-- What a port does with a frame that is not sequenced and names a slot. -/
def State.takeV0 (s : State) (p : Nat) (k : Packet) : State :=
  let h := k.hdr
  let f := h.flow.toNat
  match h.type.toNat with
  | 3 => (s.rxAck p h).takeCredit p f k.limit
  | 4 => if (s.flow p f).st == .opening then s.openAnswered p f k.openB else s
  | 5 => (s.rxAck p h).peerClose p f k.closeB
  | 6 => s.takeRefuse p f
  | _ => ((s.rxAck p h).takeNack p f k.nackB).reconcile p f

theorem receive_v0 {s : State} {p : Nat} {k : Packet} {type : BitVec 4} (ht : s.takesV0 p k type) (h0 : type ≠ 0)
    (h2 : type ≠ 2) (hmode : type = 4 → k.mode ≠ 0) : s.receive p k = (s.frameCame p k).takeV0 p k := by
  obtain ⟨-, houter, hslot, htype, -⟩ := ht
  have hslot0 : (s.crossBuddy p (s.carrier p) k.udp.length).rxSlot p k.hdr = true :=
    (rxSlot_congr (flows_of_mask (by simp)) p k.hdr).trans hslot
  have hopen : ¬ (k.hdr.type = 4 ∧ k.mode = 0) := fun h => hmode (htype ▸ h.1) h.2
  have hseq : ¬ (k.hdr.type = 0 ∨ k.hdr.type = 2) := by
    rw [htype]
    exact not_or.mpr ⟨h0, h2⟩
  simp only [State.receive, houter]
  rw [if_neg hopen, if_neg (by simp [hslot0]), if_neg hseq]
  rfl

/-- An ACK that acknowledges nothing new changes nothing. -/
theorem rxAck_of_nothing {s t : State} {p : Nat} {k : Packet} {type : BitVec 4} (ht : s.takesV0 p k type)
    (hflow : t.flow p k.hdr.flow.toNat = s.flow p k.hdr.flow.toNat) : t.rxAck p k.hdr = t := by
  obtain ⟨-, -, -, -, hold⟩ := ht
  have hnone : ((t.flow p k.hdr.flow.toNat).kept.filter fun e =>
      decide ((k.hdr.ack - e.frame.seq - 1).toNat < 2 ^ 31)) = [] := by
    rw [hflow, List.filter_eq_nil_iff]
    intro e he
    simpa using hold e he
  simp only [State.rxAck, State.takeAck, hnone]
  rfl

/-! ### Credit -/

theorem takeLimit_flow (s : State) (p f : Nat) (l : DWord) :
    (s.takeLimit p f l).flow p f =
      { s.flow p f with limitOut := if (s.flow p f).limitOut.toNat < l.toNat then l else (s.flow p f).limitOut } := by
  unfold State.takeLimit
  dsimp only
  split
  · exact setFlow_flow_same s
  · rfl

theorem takeLimit_issued {s : State} {p f : Nat} {l : DWord} (h : (s.flow p f).limitOut.toNat < l.toNat) :
    ((s.takeLimit p f l).ledger p lgFlowOut f).issued =
      (s.ledger p lgFlowOut f).issued + (l - (s.flow p f).limitOut) := by
  have hdiff : BitVec.ofNat 64 (l.toNat - (s.flow p f).limitOut.toNat) = l - (s.flow p f).limitOut := by
    apply BitVec.eq_of_toNat_eq
    simp only [BitVec.toNat_ofNat, BitVec.toNat_sub]
    omega
  rw [← hdiff]
  unfold State.takeLimit
  dsimp only
  rw [if_pos h, State.ledIssue, setLedger_ledger_same]
  rfl

theorem reconcile_of_open {s : State} {p f : Nat} (h : (s.flow p f).st = .open) : s.reconcile p f = s := by
  unfold State.reconcile
  dsimp only
  split
  · rfl
  · rw [if_neg (by simp [h])]

theorem dropKept_flow (s : State) (p f : Nat) (gone rest : List Kept) :
    (s.dropKept p f gone rest).flow p f = { s.flow p f with kept := rest } := setFlow_flow_same s

/-- A slot that returns to FREE: its generation stays. -/
theorem toFree_flow (s : State) (p f : Nat) (cause : BitVec 4) :
    ((s.toFree p f cause).flow p f).st = .free ∧ ((s.toFree p f cause).flow p f).cause = cause ∧
      ((s.toFree p f cause).flow p f).gen = (s.flow p f).gen ∧
      ((s.toFree p f cause).flow p f).finalSeq = (s.flow p f).finalSeq := by
  unfold State.toFree
  dsimp only
  rw [setFlow_flow_same, dropKept_flow]
  exact ⟨rfl, rfl, rfl, rfl⟩

theorem enterOpen_flow (s : State) (p f : Nat) :
    ∃ q, (s.enterOpen p f).flow p f = { s.flow p f with st := .open, kept := [], queue := q } := by
  have hcount (t : State) : (t.count pgFlows 0).flow p f = t.flow p f := rfl
  unfold State.enterOpen
  dsimp only
  rw [hcount, setFlow_flow_same]
  exact ⟨_, rfl⟩

theorem openAnswered_flow (s : State) (p f : Nat) (b : OpenBody) :
    let x := (s.openAnswered p f b).flow p f
    x.st = .open ∧ x.peerFlow = b.senderFlow ∧ x.peerGen = b.senderGen ∧ x.rx = b.initSeq ∧
      x.gen = (s.flow p f).gen := by
  unfold State.openAnswered
  dsimp only
  obtain ⟨q, hq⟩ := enterOpen_flow ((s.setFlow p f { s.flow p f with
    peerFlow := b.senderFlow, peerGen := b.senderGen, rx := b.initSeq }).takeLimit p f b.limit) p f
  rw [hq, takeLimit_flow, setFlow_flow_same]
  exact ⟨rfl, rfl, rfl, rfl, rfl⟩

theorem rxAck_came {s : State} {p : Nat} {k : Packet} {type : BitVec 4} (ht : s.takesV0 p k type) :
    (s.frameCame p k).rxAck p k.hdr = s.frameCame p k := rxAck_of_nothing ht (frameCame_flow s p k p _)

/-- A frame that is not sequenced, on the slot that it names, once it has arrived. -/
theorem receive_credit {s : State} {p : Nat} {k : Packet} (ht : s.takesV0 p k 3) :
    s.receive p k = (s.frameCame p k).takeCredit p k.hdr.flow.toNat k.limit := by
  have htype : k.hdr.type.toNat = 3 := congrArg BitVec.toNat ht.2.2.2.1
  rw [receive_v0 ht (by decide) (by decide) (fun h => absurd h (by decide))]
  simp only [State.takeV0, htype]
  rw [rxAck_came ht]

theorem receive_accept {s : State} {p : Nat} {k : Packet} (ht : s.takesV0 p k 4) (hmode : k.mode ≠ 0)
    (hst : (s.flow p k.hdr.flow.toNat).st = .opening) :
    s.receive p k = (s.frameCame p k).openAnswered p k.hdr.flow.toNat k.openB := by
  have htype : k.hdr.type.toNat = 4 := congrArg BitVec.toNat ht.2.2.2.1
  rw [receive_v0 ht (by decide) (by decide) (fun _ => hmode)]
  simp only [State.takeV0, htype]
  rw [if_pos (by rw [frameCame_flow, hst]; rfl)]

theorem receive_close {s : State} {p : Nat} {k : Packet} (ht : s.takesV0 p k 5) :
    s.receive p k = (s.frameCame p k).peerClose p k.hdr.flow.toNat k.closeB := by
  have htype : k.hdr.type.toNat = 5 := congrArg BitVec.toNat ht.2.2.2.1
  rw [receive_v0 ht (by decide) (by decide) (fun h => absurd h (by decide))]
  simp only [State.takeV0, htype]
  rw [rxAck_came ht]

theorem receive_refuse {s : State} {p : Nat} {k : Packet} (ht : s.takesV0 p k 6) :
    s.receive p k = (s.frameCame p k).takeRefuse p k.hdr.flow.toNat := by
  have htype : k.hdr.type.toNat = 6 := congrArg BitVec.toNat ht.2.2.2.1
  rw [receive_v0 ht (by decide) (by decide) (fun h => absurd h (by decide))]
  simp only [State.takeV0, htype]

theorem receive_nack {s : State} {p : Nat} {k : Packet} (ht : s.takesV0 p k 7) :
    s.receive p k =
      ((s.frameCame p k).takeNack p k.hdr.flow.toNat k.nackB).reconcile p k.hdr.flow.toNat := by
  have htype : k.hdr.type.toNat = 7 := congrArg BitVec.toNat ht.2.2.2.1
  rw [receive_v0 ht (by decide) (by decide) (fun h => absurd h (by decide))]
  simp only [State.takeV0, htype]
  rw [rxAck_came ht]

theorem credit_raises (s : State) (p : Die) (k : Packet) (ht : s.takesV0 p k 3)
    (hst : (s.flow p k.hdr.flow.toNat).st = .open)
    (hlt : (s.flow p k.hdr.flow.toNat).limitOut.toNat < k.limit.toNat) :
    Completes (.creditFrame p k.toPacketHdr k.udp) s fun t =>
      let i := k.hdr.flow.toNat
      (t.flow p i).limitOut = k.limit ∧ (t.flow p i).st = .open ∧ (t.flow p i).sent = (s.flow p i).sent ∧
      (t.ledger p lgFlowOut i).issued = (s.ledger p lgFlowOut i).issued + (k.limit - (s.flow p i).limitOut) ∧
      t.counter (pgPort p) 1 = s.counter (pgPort p) 1 + 1 := by
  have hx : execCreditFrame p k.toPacketHdr k.udp s = s.ok (s.receive p k) := if_pos ht.1
  rw [receive_credit ht] at hx
  have hu := frameCame_flow s p k p k.hdr.flow.toNat
  have hled := frameCame_ledger s p k p lgFlowOut k.hdr.flow.toNat
  have hcount := frameCame_counter s p k
  generalize s.frameCame p k = u at *
  generalize k.hdr.flow.toNat = i at *
  have hflow := takeLimit_flow u p i k.limit
  rw [hu, if_pos hlt] at hflow
  have hcredit : u.takeCredit p i k.limit = u.takeLimit p i k.limit := by
    rw [State.takeCredit, if_neg (by simp [hu, hst])]
    exact reconcile_of_open (by rw [hflow]; exact hst)
  have hissued := takeLimit_issued (s := u) (p := p) (f := i) (l := k.limit) (by rw [hu]; exact hlt)
  rw [hu, hled] at hissued
  have hkept : (u.takeLimit p i k.limit).counter (pgPort p) 1 = u.counter (pgPort p) 1 :=
    counter_of_mask (by simp) _ _
  rw [hcredit] at hx
  generalize u.takeLimit p i k.limit = v at *
  refine .of_ok hx ?_
  simp only [finish_flow, finish_ledger, finish_counter]
  exact ⟨by rw [hflow], by rw [hflow]; exact hst, by rw [hflow], hissued, hkept.trans hcount⟩

theorem accept_opens (s : State) (p : Die) (k : Packet) (ht : s.takesV0 p k 4) (hmode : k.mode ≠ 0)
    (hst : (s.flow p k.hdr.flow.toNat).st = .opening) :
    Completes (.openAcceptFrame p k.toPacketHdr k.udp) s fun t =>
      let x := t.flow p k.hdr.flow.toNat
      x.st = .open ∧ x.peerFlow = k.openB.senderFlow ∧ x.peerGen = k.openB.senderGen ∧ x.rx = k.openB.initSeq ∧
      x.gen = (s.flow p k.hdr.flow.toNat).gen ∧
      t = { s with free := t.free, cnt := t.cnt, flows := t.flows, ledgers := t.ledgers
                   host := { s.host with changes := t.host.changes } } := by
  have hx : execOpenAcceptFrame p k.toPacketHdr k.udp s = s.ok (s.receive p k) := if_pos ht.1
  rw [receive_accept ht hmode hst] at hx
  have hsame : SameBut [.free, .cnt, .flows, .ledgers, .changes] s
      (s.finish ((s.frameCame p k).openAnswered p k.hdr.flow.toNat k.openB)) := by
    simp [SameBut, among, mask_frameCame]
  have hu := frameCame_flow s p k p k.hdr.flow.toNat
  generalize s.frameCame p k = u at *
  generalize k.hdr.flow.toNat = i at *
  have hopened := openAnswered_flow u p i k.openB
  rw [hu] at hopened
  obtain ⟨hopen, hpeer, hgen, hrx, hown⟩ := hopened
  generalize u.openAnswered p i k.openB = v at *
  refine .of_ok hx ?_
  simp only [finish_flow]
  exact ⟨hopen, hpeer, hgen, hrx, hown, hsame.frame⟩

theorem refuse_frees (s : State) (p : Die) (k : Packet) (ht : s.takesV0 p k 6)
    (hst : (s.flow p k.hdr.flow.toNat).st = .opening) :
    Completes (.refuseFrame p k.toPacketHdr k.udp) s fun t =>
      let x := t.flow p k.hdr.flow.toNat
      x.st = .free ∧ x.cause = 5 ∧ x.gen = (s.flow p k.hdr.flow.toNat).gen ∧ t.mem = s.mem := by
  have hx : execRefuseFrame p k.toPacketHdr k.udp s = s.ok (s.receive p k) := if_pos ht.1
  rw [receive_refuse ht] at hx
  have hu := frameCame_flow s p k p k.hdr.flow.toNat
  have hmem := frameCame_mem s p k
  generalize s.frameCame p k = u at *
  generalize k.hdr.flow.toNat = i at *
  have hfree : u.takeRefuse p i = u.toFree p i 5 := by
    simp only [State.takeRefuse, hu, hst]
  rw [hfree] at hx
  obtain ⟨hst', hcause, hgen, -⟩ := toFree_flow u p i 5
  rw [hu] at hgen
  have hkept : (u.toFree p i 5).mem = u.mem := mem_of_mask (by simp)
  generalize u.toFree p i 5 = v at *
  refine .of_ok hx ?_
  simp only [finish_flow, finish_mem]
  exact ⟨hst', hcause, hgen, hkept.trans hmem⟩

/-! ### CLOSE -/

theorem closeSlot_flow (s : State) (p f : Nat) (reason : Byte) (cause : BitVec 4) :
    (s.closeSlot p f reason cause).flow p f = { s.flow p f with
      st := .closing, cause := cause, finalSeq := (s.flow p f).tx, openWait := false
      lost := (s.flow p f).lost || (s.flow p f).st == .opening } := by
  have hsend (t : State) : (t.sendClose p f reason).flow p f = t.flow p f :=
    flow_of_mask (mask_sendV0 (by simp) _ _ _ _ _) p f
  simp only [State.closeSlot]
  split
  · exact setFlow_flow_same s
  · rw [hsend, setFlow_flow_same]

/-- Reconciling leaves a slot as it is, or frees it with its cause. -/
theorem reconcile_flow (s : State) (p f : Nat) :
    let x := (s.reconcile p f).flow p f
    (x.st = .free ∨ x = s.flow p f) ∧ x.cause = (s.flow p f).cause ∧ x.finalSeq = (s.flow p f).finalSeq := by
  unfold State.reconcile
  dsimp only
  split
  · exact ⟨Or.inr rfl, rfl, rfl⟩
  · next fin sent limit hfin =>
    split
    · obtain ⟨hst, hcause, -, hfinal⟩ := toFree_flow ((((s.takeLimit p f limit).ledReturn p lgFlowIn f
        (((s.takeLimit p f limit).flow p f).limitIn.toNat - ((s.takeLimit p f limit).flow p f).recv.toNat)).ledReturn p
        lgFlowOut f (((s.takeLimit p f limit).flow p f).limitOut.toNat -
          ((s.takeLimit p f limit).flow p f).acked.toNat)).count pgFlows 1) p f (s.flow p f).cause
      have hkept : ((s.takeLimit p f limit).flow p f).finalSeq = (s.flow p f).finalSeq := by rw [takeLimit_flow]
      exact ⟨Or.inl hst, hcause, hfinal.trans hkept⟩
    · exact ⟨Or.inr rfl, rfl, rfl⟩

theorem close_closes (s : State) (p : Die) (k : Packet) (ht : s.takesV0 p k 5)
    (hst : (s.flow p k.hdr.flow.toNat).st = .open) :
    Completes (.closeFrame p k.toPacketHdr k.udp) s fun t =>
      let x := t.flow p k.hdr.flow.toNat
      (x.st = .free ∨ (x.st = .closing ∧ x.peerFin = some (k.closeB.finalSeq, k.closeB.sent, k.closeB.limit))) ∧
      x.cause = (if k.closeB.reason = 1 then 3 else 2) ∧ x.finalSeq = (s.flow p k.hdr.flow.toNat).tx := by
  have hx : execCloseFrame p k.toPacketHdr k.udp s = s.ok (s.receive p k) := if_pos ht.1
  rw [receive_close ht] at hx
  have hu := frameCame_flow s p k p k.hdr.flow.toNat
  generalize s.frameCame p k = u at *
  generalize k.hdr.flow.toNat = i at *
  let b := k.closeB
  let s1 := (u.closeSlot p i 3 (if b.reason = 1 then 3 else 2)).failFlow p i 6
  let s2 := s1.setFlow p i { s1.flow p i with peerFin := some (b.finalSeq, b.sent, b.limit) }
  have hclose : u.peerClose p i b = s2.reconcile p i := by
    simp only [State.peerClose, hu, hst]
    rfl
  have hs1 : s1.flow p i = (u.closeSlot p i 3 (if b.reason = 1 then 3 else 2)).flow p i :=
    flow_of_mask (mask_failFlow (by simp) _ _ _ _) _ _
  rw [closeSlot_flow, hu] at hs1
  have hs2 : s2.flow p i = { s1.flow p i with peerFin := some (b.finalSeq, b.sent, b.limit) } := setFlow_flow_same s1
  rw [hclose] at hx
  clear_value s2
  obtain ⟨hend, hcause', hfinal'⟩ := reconcile_flow s2 p i
  generalize s2.reconcile p i = v at *
  refine .of_ok hx ?_
  simp only [finish_flow]
  refine ⟨hend.imp_right fun h => ?_, ?_, ?_⟩
  · rw [h, hs2, hs1]
    exact ⟨rfl, rfl⟩
  · rw [hcause', hs2, hs1]
  · rw [hfinal', hs2, hs1]

/-! ### NACK -/

/-- Frames that are sent again stay in their slot, sent once more. -/
theorem resend_flow (s : State) (p f : Nat) (sel : Kept → Bool) :
    (s.resend p f sel).flow p f = { s.flow p f with
      kept := (s.flow p f).kept.map fun k => if sel k then { k with sends := k.sends + 1 } else k } := by
  have hloop (l : List Kept) (x : Flow) (t : State) : (l.foldl (fun t k =>
      if t.maySend p x then
        (t.putFrame { k.frame with ack := x.rx, src := t.srcLeid x, carrier := t.carrier p }).count (pgPort p) 2
      else t) t).flow p f = t.flow p f :=
    flow_of_mask (mask_foldl (fun u k => by split <;> simp) l t) p f
  unfold State.resend
  dsimp only
  rw [hloop, setFlow_flow_same]

/-- NACK MISSING picks the frames in its ranges that have been sent once. -/
theorem nackMissing_flow (s : State) (p f : Nat) (l : List (Word × Word)) :
    ∃ sel : Kept → Bool,
      (∀ e ∈ (s.flow p f).kept, inRanges l e.frame.seq = true → e.sends = 1 → sel e = true) ∧
      (s.nackMissing p f l).flow p f = { s.flow p f with
        kept := (s.flow p f).kept.map fun k => if sel k then { k with sends := k.sends + 1 } else k } := by
  let pick := (s.flow p f).kept.zipIdx.filter fun e =>
    inRanges l e.1.frame.seq && (e.1.sends == 1 || (Config.freeValue (s.free + e.2)).getLsbD 0)
  refine ⟨fun k => (pick.map fun (e : Kept × Nat) => e.1.frame.seq).contains k.frame.seq, fun e he hr hs => ?_,
    resend_flow { s with free := s.free + (s.flow p f).kept.length } p f _⟩
  obtain ⟨i, hi⟩ := List.mem_iff_getElem?.mp he
  have hpick : (e, i) ∈ pick := List.mem_filter.mpr ⟨List.mk_mem_zipIdx_iff_getElem?.mpr hi, by simp [hr, hs]⟩
  exact List.contains_iff_mem.mpr (List.mem_map.mpr ⟨_, hpick, rfl⟩)

theorem nack_resends (s : State) (p : Die) (k : Packet) (ht : s.takesV0 p k 7)
    (hst : (s.flow p k.hdr.flow.toNat).st = .open) (hlost : (s.flow p k.hdr.flow.toNat).lost = false)
    (hreason : k.nackB.reason = 0) :
    Completes (.nackFrame p k.toPacketHdr k.udp) s fun t =>
      let i := k.hdr.flow.toNat
      (∀ e ∈ (s.flow p i).kept, inRanges k.nackB.ranges e.frame.seq = true → e.sends = 1 →
        { e with sends := 2 } ∈ (t.flow p i).kept) ∧
      (t.flow p i).kept.length = (s.flow p i).kept.length ∧ (t.flow p i).tx = (s.flow p i).tx ∧ t.mem = s.mem := by
  have hx : execNackFrame p k.toPacketHdr k.udp s = s.ok (s.receive p k) := if_pos ht.1
  rw [receive_nack ht] at hx
  have hu := frameCame_flow s p k p k.hdr.flow.toNat
  have hmem := frameCame_mem s p k
  generalize s.frameCame p k = u at *
  generalize k.hdr.flow.toNat = i at *
  let l := k.nackB.ranges
  let s1 := u.incSat (pgPort p) 0x098
  have hs1 : s1.flow p i = s.flow p i := (flow_of_mask (s := u) (by simp [s1]) p i).trans hu
  have htake : u.takeNack p i k.nackB = s1.nackMissing p i l := by
    have hgo : ((s1.flow p i).st == .open || (s1.flow p i).st == .closing) && !(s1.flow p i).lost := by
      simp [hs1, hst, hlost]
    simp only [State.takeNack, hreason, if_true]
    exact if_pos hgo
  obtain ⟨sel, hsel, hflow⟩ := nackMissing_flow s1 p i l
  rw [hs1] at hsel hflow
  have hmem' : (s1.nackMissing p i l).mem = u.mem := mem_of_mask (by simp [s1])
  rw [htake, reconcile_of_open (by rw [hflow]; exact hst)] at hx
  generalize s1.nackMissing p i l = v at *
  refine .of_ok hx ?_
  simp only [finish_flow, finish_mem, hflow]
  refine ⟨fun e he hr hs => ?_, List.length_map _, trivial, hmem'.trans hmem⟩
  refine List.mem_map.mpr ⟨e, he, ?_⟩
  rw [if_pos (hsel e he hr hs), hs]

/-! ### A request that takes a slot -/

theorem leaveFree_flow (s : State) (p f : Nat) (st : FlSt) (peer : BitVec 20) (ip : BitVec 128) (udp pflow : BitVec 16)
    (pgen : Byte) : (s.leaveFree p f st peer ip udp pflow pgen).flow p f = { s.flow p f with
      st := st, gen := (s.flow p f).gen + 1, cause := 0, peer := peer, peerIp := ip, peerUdp := udp, peerFlow := pflow
      peerGen := pgen, leid := s.leid, eligible := false, openWait := false, tx := s.freeNow.extractLsb' 0 32, rx := 0
      got := [], limitOut := 0, limitIn := 0, sent := 0, recv := 0, acked := 0, openSends := 0, peerFin := none
      finalSeq := 0, lost := false } := by
  have hfree (t : State) : t.freeNext.flow p f = t.flow p f := rfl
  unfold State.leaveFree
  dsimp only
  rw [hfree, setFlow_flow_same]

theorem acceptOpen_flow (s : State) (p f : Nat) (h : Hdr) (b : OpenBody) :
    let x := (s.acceptOpen p f h b).flow p f
    x.st = .open ∧ x.gen = (s.flow p f).gen + 1 ∧ x.peer = h.src ∧ x.peerIp = h.srcIp ∧ x.peerUdp = h.udpSrc ∧
      x.peerFlow = b.senderFlow ∧ x.peerGen = b.senderGen ∧ x.rx = b.initSeq ∧ x.limitOut = b.limit ∧
      x.limitIn = 0 ∧ x.leid = s.leid ∧ x.kept = [] := by
  let s1 := s.leaveFree p f .opening h.src h.srcIp h.udpSrc b.senderFlow b.senderGen
  let s2 := s1.setFlow p f { s1.flow p f with rx := b.initSeq }
  have hs1 : s1.flow p f = _ := leaveFree_flow s p f .opening h.src h.srcIp h.udpSrc b.senderFlow b.senderGen
  have hs2 : s2.flow p f = { s1.flow p f with rx := b.initSeq } := setFlow_flow_same s1
  obtain ⟨q, hq⟩ := enterOpen_flow (s2.takeLimit p f b.limit) p f
  have hsend : (s.acceptOpen p f h b).flow p f = ((s2.takeLimit p f b.limit).enterOpen p f).flow p f :=
    flow_of_mask (mask_sendV0 (by simp) _ _ _ _ _) p f
  have hlimit : (if (0 : DWord).toNat < b.limit.toNat then b.limit else 0) = b.limit := by
    split
    · rfl
    · next hzero =>
      apply BitVec.eq_of_toNat_eq
      simp at hzero ⊢
      exact hzero.symm
  rw [hsend, hq, takeLimit_flow, hs2, hs1]
  exact ⟨rfl, rfl, rfl, rfl, rfl, rfl, rfl, rfl, hlimit, rfl, rfl, rfl⟩

theorem pgPort_lt_pgFlows (p : Die) : pgPort p < pgFlows := by
  have hp := p.isLt
  unfold pgPort pgFlows
  omega

/-- A frame that leaves counts at its port, and in the pages of wales and meshes. -/
theorem sendFrame_counter (s : State) (p : Nat) (x : Flow) (fr : TxFrame) {q j : Nat} (h : q < pgWale 0) (hj : j < 4)
    (hne : 4 * q + j ≠ 4 * pgPort p + 0) : (s.sendFrame p x fr).counter q j = s.counter q j := by
  unfold State.sendFrame
  split
  · exact (count_counter_other (s.putFrame fr) hne).trans (crossBuddy_counter s _ _ _ h hj)
  · rfl

theorem pgFlows_ne_pgPort (p : Die) (j : Nat) (hj : j < 4) : 4 * pgFlows + 0 ≠ 4 * pgPort p + j := by
  have hp := pgPort_lt_pgFlows p
  omega

theorem acceptOpen_counts (s : State) (p : Die) (f : Nat) (h : Hdr) (b : OpenBody) :
    (s.acceptOpen p f h b).counter pgFlows 0 = s.counter pgFlows 0 + 1 := by
  let s1 := s.leaveFree p f .opening h.src h.srcIp h.udpSrc b.senderFlow b.senderGen
  let s2 := (s1.setFlow p f { s1.flow p f with rx := b.initSeq }).takeLimit p f b.limit
  have hs2 : s2.counter pgFlows 0 = s.counter pgFlows 0 := counter_of_mask (by simp [s2, s1]) _ _
  have hopen : (s2.enterOpen p f).counter pgFlows 0 = s2.counter pgFlows 0 + 1 :=
    count_counter_same (s2.setFlow p f _)
  have hsend : ((s2.enterOpen p f).sendAccept p f).counter pgFlows 0 = (s2.enterOpen p f).counter pgFlows 0 :=
    sendFrame_counter _ _ _ _ (by decide) (by decide) (pgFlows_ne_pgPort p 0 (by decide))
  exact hsend.trans (hopen.trans (by rw [hs2]))

theorem freeSlot_congr {s t : State} (h : t.flows = s.flows) (p : Nat) : t.freeSlot p = s.freeSlot p := by
  simp only [State.freeSlot, State.flow, h]

/-- A request to any slot takes a FREE, eligible one. -/
theorem receive_request {s : State} {p : Nat} {k : Packet} {f : Nat} (houter : s.rxOuter p k.hdr = none)
    (htype : k.hdr.type = 4) (hmode : k.mode = 0) (hflow : k.hdr.flow = 0xFFFF) (hawake : s.shuttered = false)
    (hfree : s.freeSlot p = some f) : s.receive p k = (s.frameCame p k).acceptOpen p f k.hdr k.openB := by
  have hn : k.hdr.flow.toNat = 0xFFFF := congrArg BitVec.toNat hflow
  have hfree' : (s.frameCame p k).freeSlot p = some f :=
    (freeSlot_congr (flows_of_mask (mask_frameCame (by simp) s p k)) p).trans hfree
  have hawake' : (s.frameCame p k).shuttered = false := by
    rw [State.shuttered, shut_of_mask (mask_frameCame (by simp) s p k)]
    exact hawake
  have hrequest : s.receive p k = (s.frameCame p k).requestOpen p k.hdr k.openB := by
    simp only [State.receive, houter]
    rw [if_pos ⟨htype, hmode⟩]
    rfl
  rw [hrequest]
  simp only [State.requestOpen, hawake', hn, hfree']
  rfl

theorem request_opens (s : State) (p : Die) (k : Packet) (f : Nat) (hmay : s.rxMay p k.hdr = true)
    (houter : s.rxOuter p k.hdr = none) (htype : k.hdr.type = 4) (hmode : k.mode = 0) (hflow : k.hdr.flow = 0xFFFF)
    (hawake : s.shuttered = false) (hfree : s.freeSlot p = some f) :
    Completes (.openRequestFrame p k.toPacketHdr k.udp) s fun t =>
      let x := t.flow p f
      x.st = .open ∧ x.gen = (s.flow p f).gen + 1 ∧ x.peer = k.hdr.src ∧ x.peerIp = k.srcIp ∧
      x.peerUdp = k.udpSrc ∧ x.peerFlow = k.openB.senderFlow ∧ x.peerGen = k.openB.senderGen ∧
      x.rx = k.openB.initSeq ∧ x.limitOut = k.openB.limit ∧ x.limitIn = 0 ∧ x.leid = s.leid ∧ x.kept = [] ∧
      t.counter pgFlows 0 = s.counter pgFlows 0 + 1 ∧
      t = { s with out := t.out, free := t.free, cnt := t.cnt, flows := t.flows, ledgers := t.ledgers
                   host := { s.host with changes := t.host.changes } } := by
  have hx : execOpenRequestFrame p k.toPacketHdr k.udp s = s.ok (s.receive p k) := if_pos hmay
  rw [receive_request houter htype hmode hflow hawake hfree] at hx
  have hsame : SameBut [.out, .free, .cnt, .flows, .ledgers, .changes] s
      (s.finish ((s.frameCame p k).acceptOpen p f k.hdr k.openB)) := by
    simp [SameBut, among, mask_frameCame]
  have hflow := acceptOpen_flow (s.frameCame p k) p f k.hdr k.openB
  have hleid : (s.frameCame p k).leid = s.leid := by
    rw [State.leid, reg_of_mask (mask_frameCame (by simp) s p k)]
    rfl
  have hcount := acceptOpen_counts (s.frameCame p k) p f k.hdr k.openB
  rw [frameCame_counter_other s p k (by decide) (by decide) (pgFlows_ne_pgPort p 1 (by decide))] at hcount
  rw [hleid, frameCame_flow] at hflow
  generalize (s.frameCame p k).acceptOpen p f k.hdr k.openB = v at *
  obtain ⟨h1, h2, h3, h4, h5, h6, h7, h8, h9, h10, h11, h12⟩ := hflow
  exact .of_ok hx ⟨h1, h2, h3, h4, h5, h6, h7, h8, h9, h10, h11, h12, hcount, hsame.frame⟩

/-- Settles O38, one frame at a time. -/
theorem flowsOpenAndClose : Obligations.FlowsOpenAndClose :=
  ⟨request_opens, accept_opens, refuse_frees, close_closes, credit_raises, nack_resends⟩

end Sys2Proof.Machine
end

section
/-! SUPPORT. Requests of the host and timers of a flow (R289 to R305): what a frame that leaves, an opening, a closing and
a write-off leave of the flow and its port. -/

namespace Sys2Proof.Machine

/-! ### Opening and closing -/

theorem sendOpen_flow (s : State) (p f q g : Nat) : (s.sendOpen p f).flow q g = s.flow q g :=
  flow_of_mask (mask_sendOpen (by simp) s p f) q g

theorem openNow_flow (s : State) (p f : Nat) :
    let x := s.flow p f
    (s.openNow p f).flow p f = { x with
      st := .opening, gen := x.gen + 1, cause := 0, peer := x.ctl, peerIp := x.cfgIp, peerUdp := x.cfgUdp
      peerFlow := 0xFFFF, peerGen := 0, leid := s.leid, eligible := false, openWait := false
      tx := s.freeNow.extractLsb' 0 32, rx := 0, got := [], limitOut := 0, limitIn := 0, sent := 0, recv := 0
      acked := 0, openSends := 1, peerFin := none, finalSeq := 0, lost := false } := by
  unfold State.openNow
  dsimp only
  rw [sendOpen_flow, setFlow_flow_same, leaveFree_flow]

theorem request_goes_out (s : State) (p : Die) (f : Fin 1024) (hreq : (s.flow p f).openReq = true)
    (hleid : s.keeper.leidReq = false) (hst : (s.flow p f).st = .free) (helig : (s.flow p f).eligible = true) :
    Completes (.openReq p f) s fun t =>
      (t.flow p f).st = .opening ∧ (t.flow p f).gen = (s.flow p f).gen + 1 ∧ (t.flow p f).openReq = false ∧
      (t.flow p f).peer = (s.flow p f).ctl ∧ (t.flow p f).peerIp = (s.flow p f).cfgIp ∧
      (t.flow p f).openSends = 1 ∧ (t.flow p f).leid = s.leid ∧
      t = { s with out := t.out, free := t.free, cnt := t.cnt, flows := t.flows
                   host := { s.host with changes := t.host.changes } } := by
  let s1 := s.setFlow p f { s.flow p f with openReq := false }
  have hact : s.actOpen p f = s1.openNow p f := by
    unfold State.actOpen
    dsimp only
    rw [if_neg (by simp [hreq]), if_neg (by simp [hst]), if_pos helig]
  have hx : execOpenReq p f s = s.ok (s.actOpen p f) := if_pos (by simp [hreq, hleid])
  rw [hact] at hx
  have hs1 : s1.flow p f = { s.flow p f with openReq := false } := setFlow_flow_same s
  have hflow := openNow_flow s1 p f
  rw [hs1] at hflow
  have hleid1 : s1.leid = s.leid := rfl
  rw [hleid1] at hflow
  have hsame : SameBut [.out, .free, .cnt, .flows, .changes] s (s.finish (s1.openNow p f)) := by
    simp [SameBut, among, s1]
  generalize s1.openNow p f = u at *
  refine .of_ok hx ?_
  simp only [finish_flow, hflow]
  exact ⟨trivial, trivial, trivial, trivial, trivial, trivial, trivial, hsame.frame⟩

theorem slot_eligible (s : State) (p : Die) (f : Fin 1024) (helig : (s.flow p f).eligible = false)
    (hwait : (s.flow p f).openWait = false) :
    Gives (.slotEligible p f) s (s.setFlow p f { s.flow p f with eligible := true }) := by
  have hx : execSlotEligible p f s = s.ok (s.setFlow p f { s.flow p f with eligible := true }) := by
    simp [execSlotEligible, helig, hwait]
  exact .of_ok hx

theorem failFlow_flow (s : State) (d fl cause q g : Nat) : (s.failFlow d fl cause).flow q g = s.flow q g :=
  flow_of_mask (mask_failFlow (by simp) s d fl cause) q g

theorem host_closes (s : State) (p : Die) (f : Fin 1024) (hreq : (s.flow p f).closeReq = true)
    (hopen : (s.flow p f).openReq = false) (hst : (s.flow p f).st = .open) :
    Completes (.closeReq p f) s fun t =>
      (t.flow p f).st = .closing ∧ (t.flow p f).cause = 1 ∧ (t.flow p f).closeReq = false ∧
      (t.flow p f).finalSeq = (s.flow p f).tx := by
  let s1 := s.setFlow p f { s.flow p f with closeReq := false }
  have hs1 : s1.flow p f = { s.flow p f with closeReq := false } := setFlow_flow_same s
  have hact : s.actOpen p f = s := by simp [State.actOpen, hopen]
  have hclose : s1.hostClose p f 0 1 = (s1.closeSlot p f 0 1).failFlow p f 6 := by
    simp only [State.hostClose, hs1, hst]
    rfl
  have hx : execCloseReq p f s = s.ok ((s1.closeSlot p f 0 1).failFlow p f 6) := by
    rw [← hclose]
    simp only [execCloseReq, hreq, hact]
    rfl
  have hflow := closeSlot_flow s1 p f 0 1
  rw [hs1] at hflow
  have hkept := failFlow_flow (s1.closeSlot p f 0 1) p f 6 p f
  generalize (s1.closeSlot p f 0 1).failFlow p f 6 = u at *
  refine .of_ok hx ?_
  simp only [finish_flow, hkept, hflow]
  exact ⟨trivial, trivial, trivial, trivial⟩

/-! ### Waiting frames -/

theorem frame_waits (s : State) (p : Die) (f : Fin 1024) (k : Kept) (r : List Kept) (hq : (s.flow p f).queue = k :: r)
    (hmay : s.egressMay p f = true) (hfits : s.egressFits p f k = false) :
    Gives (.frameEgress p f) s (s.incSat (pgPort p) 0x07C) := by
  have hx : execFrameEgress p f s = s.ok (s.incSat (pgPort p) 0x07C) := by
    simp [execFrameEgress, hq, hmay, hfits]
  exact .of_ok hx

theorem open_goes_again (s : State) (p : Die) (f : Fin 1024) (hrun : s.timersRun p = true)
    (hst : (s.flow p f).st = .opening) (hle : (s.flow p f).openSends ≤ s.retryMax p) :
    Gives (.rtoExpiry p f) s
      ((s.setFlow p f { s.flow p f with openSends := (s.flow p f).openSends + 1 }).sendOpen p f) := by
  have hx : execRtoExpiry p f s =
      s.ok ((s.setFlow p f { s.flow p f with openSends := (s.flow p f).openSends + 1 }).sendOpen p f) := by
    simp only [execRtoExpiry, hrun, hst]
    rw [if_neg (by decide), if_pos (by decide), if_neg (Nat.not_lt.mpr hle)]
  exact .of_ok hx

theorem ack_goes_out (s : State) (p : Die) (f : Fin 1024) (hst : (s.flow p f).st = .open ∨ (s.flow p f).st = .closing)
    (hup : s.portUp p = true) :
    Gives (.ackDelayExpiry p f) s
      (if (s.flow p f).got = [] then s.sendCredit p f else (s.sendCredit p f).sendNack p f) := by
  have hx : execAckDelayExpiry p f s =
      s.ok (if (s.flow p f).got = [] then s.sendCredit p f else (s.sendCredit p f).sendNack p f) := by
    have hgo : ((s.flow p f).st == .open || (s.flow p f).st == .closing) && s.portUp p := by
      simpa [hup] using hst
    simp [execAckDelayExpiry, hgo]
  exact .of_ok hx

/-! ### A flow that is lost -/

theorem flowLost_opening {s : State} {p f : Nat} (h : (s.flow p f).st = .opening) :
    ((s.flowLost p f).flow p f).st = .free ∧ ((s.flowLost p f).flow p f).cause = 4 := by
  have hraise : (s.raise (pgPort p) 0x0502).flow p f = s.flow p f := flow_of_mask (by simp) p f
  obtain ⟨hst, hcause, -, -⟩ := toFree_flow (s.raise (pgPort p) 0x0502) p f 4
  have hlost : s.flowLost p f = ((s.raise (pgPort p) 0x0502).toFree p f 4).failFlow p f 6 := by
    simp only [State.flowLost, hraise, h]
  rw [hlost, failFlow_flow]
  exact ⟨hst, hcause⟩

theorem flowLost_open {s : State} {p f : Nat} (h : (s.flow p f).st = .open) :
    ((s.flowLost p f).flow p f).st = .closing ∧ ((s.flowLost p f).flow p f).cause = 4 ∧
      ((s.flowLost p f).flow p f).lost = true := by
  have hraise : (s.raise (pgPort p) 0x0502).flow p f = s.flow p f := flow_of_mask (by simp) p f
  let s2 := ((s.raise (pgPort p) 0x0502).closeSlot p f 2 4).failFlow p f 6
  have hs2 : s2.flow p f = _ := (failFlow_flow _ p f 6 p f).trans (closeSlot_flow (s.raise (pgPort p) 0x0502) p f 2 4)
  have hlost : s.flowLost p f = s2.setFlow p f { s2.flow p f with lost := true } := by
    simp only [State.flowLost, hraise, h, s2]
  rw [hlost, setFlow_flow_same, hs2]
  exact ⟨rfl, rfl, rfl⟩

theorem opening_lost (s : State) (p : Die) (f : Fin 1024) (hrun : s.timersRun p = true)
    (hst : (s.flow p f).st = .opening) (hmax : s.retryMax p < (s.flow p f).openSends) :
    Completes (.rtoExpiry p f) s fun t => (t.flow p f).st = .free ∧ (t.flow p f).cause = 4 := by
  have hx : execRtoExpiry p f s = s.ok (s.flowLost p f) := by
    simp only [execRtoExpiry, hrun, hst]
    rw [if_neg (by decide), if_pos (by decide), if_pos hmax]
  exact .of_ok hx (flowLost_opening hst)

theorem open_lost (s : State) (p : Die) (f : Fin 1024) (k : Kept) (r : List Kept) (hrun : s.timersRun p = true)
    (hst : (s.flow p f).st = .open) (hlost : (s.flow p f).lost = false) (hkept : (s.flow p f).kept = k :: r)
    (hmax : s.retryMax p < k.sends) :
    Completes (.rtoExpiry p f) s fun t =>
      (t.flow p f).st = .closing ∧ (t.flow p f).cause = 4 ∧ (t.flow p f).lost = true := by
  have hx : execRtoExpiry p f s = s.ok (s.flowLost p f) := by
    simp only [execRtoExpiry, hrun, hst, hlost, hkept]
    rw [if_neg (by decide), if_neg (by decide), if_pos (by decide), if_pos hmax]
  exact .of_ok hx (flowLost_open hst)

theorem oldest_goes_again (s : State) (p : Die) (f : Fin 1024) (k : Kept) (r : List Kept) (hrun : s.timersRun p = true)
    (hst : (s.flow p f).st = .open) (hlost : (s.flow p f).lost = false) (hkept : (s.flow p f).kept = k :: r)
    (hmax : k.sends ≤ s.retryMax p) :
    Completes (.rtoExpiry p f) s fun t =>
      (t.flow p f).kept.head? = some { k with sends := k.sends + 1 } ∧ (t.flow p f).st = .open ∧
      (t.flow p f).tx = (s.flow p f).tx ∧
      t = { s with out := t.out, free := t.free, cnt := t.cnt, flows := t.flows
                   host := { s.host with changes := t.host.changes } } := by
  have hx : execRtoExpiry p f s = s.ok (s.resend p f fun e => e.frame.seq == k.frame.seq) := by
    simp only [execRtoExpiry, hrun, hst, hlost, hkept]
    rw [if_neg (by decide), if_neg (by decide), if_pos (by decide), if_neg (Nat.not_lt.mpr hmax)]
  have hflow := resend_flow s p f fun e => e.frame.seq == k.frame.seq
  have hsame : SameBut [.out, .free, .cnt, .flows, .changes] s
      (s.finish (s.resend p f fun e => e.frame.seq == k.frame.seq)) := by
    simp [SameBut, among]
  generalize (s.resend p f fun e => e.frame.seq == k.frame.seq) = u at *
  refine .of_ok hx ?_
  simp only [finish_flow, hflow, hkept]
  exact ⟨by simp, hst, trivial, hsame.frame⟩

/-! ### PURGE and write-off -/

theorem basketSent_flow (s : State) (p q g : Nat) : (s.basketSent p).flow q g = s.flow q g :=
  flow_of_mask (by simp) q g

theorem streamsAcked_flow (s : State) (p : Nat) (l : List (Nat × Nat)) (q g : Nat) :
    (s.streamsAcked p l).flow q g = s.flow q g := flow_of_mask (by simp) q g

/-- A FREE slot that is purged keeps no frame, and of its queue frames that have not been sent. -/
theorem purge_flow (s : State) (p f : Nat) :
    ∃ sel : Kept → Bool, (s.purge p f).flow p f = { s.flow p f with
      kept := [], queue := (s.flow p f).queue.filter fun k => k.sends == 0 && sel k } := by
  let x := s.flow p f
  let sh := shardsOf x.held
  let xf := xfersOf x.held
  let s1 := s.dropKept p f x.held []
  let s2 := s1.setFlow p f { s1.flow p f with queue := (s1.flow p f).queue.filter fun k => k.sends == 0 && !k.among sh xf }
  have hs1 : s1.flow p f = { x with kept := [] } := dropKept_flow s p f x.held []
  have hs2 : s2.flow p f = { s1.flow p f with
      queue := (s1.flow p f).queue.filter fun k => k.sends == 0 && !k.among sh xf } := setFlow_flow_same s1
  have hloop (l : List (Nat × Nat)) (t : State) : (t.forEach l fun t e =>
      t.setDieBasket p e.1 { t.dieBasket p e.1 with
        owned := (t.dieBasket p e.1).owned.filter fun o => o.1 != e.2 }).flow p f = t.flow p f :=
    flow_of_mask (mask_forEach (fun u e => by simp) l t) p f
  refine ⟨fun k => !k.among sh xf, ?_⟩
  have hpurge : (s.purge p f).flow p f = s2.flow p f := by
    unfold State.purge
    dsimp only
    rw [basketSent_flow, streamsAcked_flow, flow_of_mask (mask_incSat (by simp) _ _ _ _) p f]
    exact hloop sh s2
  rw [hpurge, hs2, hs1]

theorem purge_drops (s : State) (p f : Nat) (htakes : s.takesWrites pgFlows = true)
    (hp : p = s.regField pgFlows 0x040 15 10) (hf : f = s.regField pgFlows 0x040 9 0) (hst : (s.flow p f).st = .free) :
    Completes .purge s fun t => (t.flow p f).kept = [] ∧ (t.flow p f).st = .free ∧
      (∀ k ∈ (t.flow p f).queue, k ∈ (s.flow p f).queue ∧ k.sends = 0) ∧ t.mem = s.mem := by
  have hsel : s.purgeSel = s.purge p f := by
    unfold State.purgeSel
    dsimp only
    rw [← hp, ← hf, if_pos (by simp [hst])]
  have hx : execPurge s = s.ok s.purgeSel := if_pos htakes
  rw [hsel] at hx
  obtain ⟨sel, hflow⟩ := purge_flow s p f
  have hmem : (s.purge p f).mem = s.mem := mem_of_mask (by simp)
  generalize s.purge p f = u at *
  refine .of_ok hx ?_
  simp only [finish_flow, finish_mem, hflow]
  refine ⟨trivial, hst, fun k hk => ?_, hmem⟩
  obtain ⟨hin, hok⟩ := List.mem_filter.mp hk
  exact ⟨hin, by simpa using (Bool.and_eq_true_iff.mp hok).1⟩

theorem ledWoff_woff (s : State) (d cls i n : Nat) :
    ((s.ledWoff d cls i n).ledger d cls i).woff = (s.ledger d cls i).woff + BitVec.ofNat 64 n := by
  have hcount (t : State) (page k : Nat) : (t.count page k).ledger d cls i = t.ledger d cls i := rfl
  unfold State.ledWoff
  split
  · next h =>
    rw [h]
    exact (BitVec.add_zero _).symm
  · rw [hcount, setLedger_ledger_same]

theorem ledWoff_ledger_other (s : State) {d cls i e c j : Nat} (n : Nat) (h : ledgerKey e c j ≠ ledgerKey d cls i) :
    (s.ledWoff d cls i n).ledger e c j = s.ledger e c j := by
  unfold State.ledWoff
  split
  · rfl
  · exact SMap.get_set_other _ _ _ h

/-- A write-off is counted in a page of ledgers. -/
theorem ledWoff_counter (s : State) (d : Nat) {cls : Nat} (i n : Nat) (hcls : cls ≠ 7) {q : Nat} (j : Nat)
    (hq : q < pgDie 0 0) (hj : j < 4) : (s.ledWoff d cls i n).counter q j = s.counter q j := by
  have hlt : q < 0x1000 := hq
  unfold State.ledWoff
  split
  · rfl
  · dsimp only
    exact count_counter_other (s.setLedger d cls i _) (by unfold pgDieLedger pgDie; omega)

theorem ledWoff_flow (s : State) (d cls i n q g : Nat) : (s.ledWoff d cls i n).flow q g = s.flow q g :=
  flow_of_mask (by simp) q g

/-- What a flow's expiry does once its credit has been written off. -/
theorem expired_frees (a : State) (p f : Nat) (v w : Word) :
    let u := ((((a.poke pgFlows 0x07C v).poke pgFlows 0x080 w).raise pgFlows 0x0503).count pgFlows 2).toFree p f 7
    (u.flow p f).st = .free ∧ (u.flow p f).cause = 7 ∧ u.counter pgFlows 2 = a.counter pgFlows 2 + 1 ∧
    fieldOf (u.reg pgFlows rFault) 31 16 = 0x0503 ∧ u.ledgers = a.ledgers := by
  obtain ⟨b, hb⟩ : ∃ b, (a.poke pgFlows 0x07C v).poke pgFlows 0x080 w = b := ⟨_, rfl⟩
  have hledgers : b.ledgers = a.ledgers := hb ▸ rfl
  have hcounter : b.counter pgFlows 2 = a.counter pgFlows 2 := hb ▸ rfl
  dsimp only
  rw [hb]
  have hcode : fieldOf ((b.raise pgFlows 0x0503).reg pgFlows rFault) 31 16 = 0x0503 :=
    raise_engine_lastCode b rfl (by decide)
  have hraised : (b.raise pgFlows 0x0503).ledgers = b.ledgers := ledgers_of_mask (by simp)
  have hraisedCounter : (b.raise pgFlows 0x0503).counter pgFlows 2 = b.counter pgFlows 2 :=
    raise_counter_other b _ (by decide)
  generalize b.raise pgFlows 0x0503 = v at *
  obtain ⟨hst, hcause, -, -⟩ := toFree_flow (v.count pgFlows 2) p f 7
  have hregs : ((v.count pgFlows 2).toFree p f 7).regs = v.regs := regs_of_mask (by simp)
  have hfree : ((v.count pgFlows 2).toFree p f 7).ledgers = v.ledgers := ledgers_of_mask (by simp)
  have hcount : ((v.count pgFlows 2).toFree p f 7).counter pgFlows 2 = v.counter pgFlows 2 + 1 :=
    (counter_of_mask (s := v.count pgFlows 2) (by simp) _ _).trans (count_counter_same v)
  refine ⟨hst, hcause, by rw [hcount, hraisedCounter, hcounter], ?_, by rw [hfree, hraised, hledgers]⟩
  rw [State.reg, hregs]
  exact hcode

theorem writeOff_frees (s : State) (p : Die) (f : Fin 1024) (hst : (s.flow p f).st = .closing) :
    Completes (.writeOffExpiry p f) s fun t =>
      (t.flow p f).st = .free ∧ (t.flow p f).cause = 7 ∧ t.counter pgFlows 2 = s.counter pgFlows 2 + 1 ∧
      fieldOf (t.reg pgFlows rFault) 31 16 = 0x0503 ∧
      (t.ledger p lgFlowIn f).woff = (s.ledger p lgFlowIn f).woff +
        BitVec.ofNat 64 ((s.flow p f).limitIn.toNat - (s.flow p f).recv.toNat) := by
  have hx : execWriteOffExpiry p f s = s.ok (s.writeOff p f) := if_pos (by simp [hst])
  have hkey : ledgerKey p lgFlowIn f ≠ ledgerKey p lgFlowOut f := by
    unfold ledgerKey lgFlowIn lgFlowOut
    omega
  have hin := ledWoff_woff s p lgFlowIn f ((s.flow p f).limitIn.toNat - (s.flow p f).recv.toNat)
  have hinCounter := ledWoff_counter s p f ((s.flow p f).limitIn.toNat - (s.flow p f).recv.toNat)
    (show lgFlowIn ≠ 7 by decide) (q := pgFlows) 2 (by decide) (by decide)
  have hout := ledWoff_ledger_other (s.ledWoff p lgFlowIn f ((s.flow p f).limitIn.toNat - (s.flow p f).recv.toNat))
    ((s.flow p f).limitOut.toNat - (s.flow p f).acked.toNat) hkey
  have houtCounter := ledWoff_counter (s.ledWoff p lgFlowIn f ((s.flow p f).limitIn.toNat - (s.flow p f).recv.toNat))
    p f ((s.flow p f).limitOut.toNat - (s.flow p f).acked.toNat)
    (show lgFlowOut ≠ 7 by decide) (q := pgFlows) 2 (by decide) (by decide)
  have hfacts := expired_frees ((s.ledWoff p lgFlowIn f ((s.flow p f).limitIn.toNat - (s.flow p f).recv.toNat)).ledWoff
    p lgFlowOut f ((s.flow p f).limitOut.toNat - (s.flow p f).acked.toNat)) p f
    (BitVec.ofNat 32 (p * 2 ^ 26 + f * 2 ^ 16 + (s.flow p f).gen.toNat * 256)) ((s.flow p f).peer.zeroExtend 32)
  have hu : s.writeOff p f = _ := State.writeOff.eq_1 s p f
  dsimp only at hfacts hu
  rw [← hu] at hfacts
  generalize s.writeOff p f = u at *
  obtain ⟨hfree, hcause, hcount, hcode, hledgers⟩ := hfacts
  refine .of_ok hx ⟨hfree, hcause, ?_, hcode, ?_⟩
  · rw [finish_counter, hcount, houtCounter, hinCounter]
  · rw [finish_ledger, State.ledger, hledgers]
    exact (congrArg Ledger.woff hout).trans hin

/-! What decides whether a frame may leave. -/

theorem maySend_congr {s t : State} (hregs : t.regs = s.regs) (hkeeper : t.keeper = s.keeper)
    (hdies : t.dies = s.dies) (hwales : t.wales = s.wales)
    (hworks : ∀ c, (t.port c).works = (s.port c).works) {x y : Flow} (hst : y.st = x.st) (hleid : y.leid = x.leid)
    (p : Nat) : t.maySend p y = s.maySend p x := by
  have hreg (q o : Nat) : t.reg q o = s.reg q o := by rw [State.reg, State.reg, hregs]
  have hdie (d : Nat) : t.die d = s.die d := by rw [State.die, State.die, hdies]
  have hwale (w : Nat) : t.wale w = s.wale w := by rw [State.wale, State.wale, hwales]
  have hpair : t.regPair pgSpareMap 0x04C = s.regPair pgSpareMap 0x04C := by simp only [State.regPair, hreg]
  have hcarrier : t.carrier p = s.carrier p := by rw [State.carrier, State.carrier, hpair, hkeeper]
  have hlive (d : Nat) : t.dieLive d = s.dieLive d := by simp only [State.dieLive, State.dieOut, hdie]
  have hup (a b : Nat) : t.waleUp a b = s.waleUp a b := by
    have hcap (w : Nat) (b : Bool) : t.waleCap w b = s.waleCap w b := by rw [State.waleCap, State.waleCap, hwale]
    unfold State.waleUp State.waleDead
    simp only [hcap]
  have hrelay (a b : Nat) : t.relayOf a b = s.relayOf a b := by simp only [State.relayOf, hlive, hup]
  have hpath : t.buddyWales p = s.buddyWales p := by
    simp only [State.buddyWales, hcarrier, hup, hrelay]
  have hport : t.portUp p = s.portUp p := by
    simp only [State.portUp, hcarrier, hworks, hpath, State.dieOut, hdie]
  have hid : t.leid = s.leid := by simp only [State.leid, hreg]
  simp only [State.maySend, hport, hid, hkeeper, hst, hleid]

/-- A frame that may leave leaves once, and its port counts it. -/
theorem sendFrame_leaves {s : State} {p : Die} {x : Flow} (hmay : s.maySend p x = true) (fr : TxFrame) :
    (s.sendFrame p x fr).out.length = s.out.length + 1 ∧
    (s.sendFrame p x fr).counter (pgPort p) 0 = s.counter (pgPort p) 0 + 1 := by
  have hu : s.sendFrame p x fr = (s.putFrame fr).count (pgPort p) 0 := if_pos hmay
  have hout : (s.crossBuddy fr.port fr.port (frameBytes fr)).out = s.out := out_of_mask (by simp)
  have hcross : (s.putFrame fr).counter (pgPort p) 0 = s.counter (pgPort p) 0 :=
    crossBuddy_counter s _ _ _ (Nat.lt_trans (pgPort_lt_pgFlows p) (by decide)) (by decide)
  have hput : (s.putFrame fr).out = (s.crossBuddy fr.port fr.port (frameBytes fr)).out ++ _ := rfl
  rw [hu]
  refine ⟨?_, (count_counter_same _).trans (congrArg (· + 1) hcross)⟩
  change (s.putFrame fr).out.length = _
  rw [hput, hout, List.length_append, List.length_singleton]

theorem sendKept_sends {s : State} {p : Die} {f : Nat} (k : Kept) (hmay : s.maySend p (s.flow p f) = true) :
    let u := s.sendKept p f k
    (u.flow p f).queue = (s.flow p f).queue ∧ (u.flow p f).tx = (s.flow p f).tx + 1 ∧
    (u.flow p f).sent = (s.flow p f).sent + BitVec.ofNat 64 k.bytes ∧
    (u.flow p f).kept.length = (s.flow p f).kept.length + 1 ∧ u.out.length = s.out.length + 1 ∧
    u.counter (pgPort p) 0 = s.counter (pgPort p) 0 + 1 ∧ ∀ c, (u.port c).drr = (s.port c).drr := by
  let x := s.flow p f
  let fr := { k.frame with
    carrier := s.carrier p, sport := BitVec.ofNat 16 (0xC000 + f), dstIp := x.peerIp,
    dport := x.peerUdp, flow := x.peerFlow, gen := x.peerGen, src := s.srcLeid x, dst := x.peer,
    seq := x.tx, ack := x.rx }
  let x1 : Flow := { x with tx := x.tx + 1, sent := x.sent + BitVec.ofNat 64 k.bytes,
                            kept := x.kept ++ [{ k with frame := fr, sends := 1 }] }
  let s1 := s.setFlow p f x1
  let s2 := s1.setPort p { s1.port p with kept := (s1.port p).kept + if k.sends = 0 then frameBytes fr else 0 }
  have hkept : x1.kept.length = x.kept.length + 1 := by simp [x1]
  have hport (c : Nat) : (s2.port c).works = (s.port c).works ∧ (s2.port c).drr = (s.port c).drr := by
    by_cases hc : c = p
    · have hsame : s2.port p = _ := setPort_port_same s1
      rw [hc, hsame]
      exact ⟨rfl, rfl⟩
    · have hother : s2.port c = s.port c := setPort_port_other s1 hc
      rw [hother]
      exact ⟨rfl, rfl⟩
  have hmay2 : s2.maySend p x = true :=
    (maySend_congr (s := s) (t := s2) (x := x) rfl rfl rfl rfl (fun c => (hport c).1) rfl rfl p).trans hmay
  have hflow : s2.flow p f = x1 := setFlow_flow_same s
  have hcount0 : s2.counter (pgPort p) 0 = s.counter (pgPort p) 0 := rfl
  have hout0 : s2.out = s.out := rfl
  obtain ⟨hout, hcount⟩ := sendFrame_leaves hmay2 fr
  have hsentFlow : (s2.sendFrame p x fr).flow p f = x1 := (flow_of_mask (by simp) _ _).trans hflow
  have hsentPort (c : Nat) : (s2.sendFrame p x fr).port c = s2.port c := port_of_mask (by simp) _
  generalize hv : s2.sendFrame p x fr = v at *
  have hu : s.sendKept p f k = match fr.body with
      | .basketB .. => v.count (pgCollect p) 2 k.bytes
      | _ => v := by
    rw [← hv]
    rfl
  clear_value s2
  have hall (w : State) (hflows : w.flow p f = x1) (hports : ∀ c, w.port c = s2.port c)
      (hw : w.out = v.out) (hc : w.counter (pgPort p) 0 = v.counter (pgPort p) 0) :
      (w.flow p f).queue = x.queue ∧ (w.flow p f).tx = x.tx + 1 ∧
      (w.flow p f).sent = x.sent + BitVec.ofNat 64 k.bytes ∧
      (w.flow p f).kept.length = x.kept.length + 1 ∧ w.out.length = s.out.length + 1 ∧
      w.counter (pgPort p) 0 = s.counter (pgPort p) 0 + 1 ∧ ∀ c, (w.port c).drr = (s.port c).drr := by
    rw [hflows, hw, hout, hout0, hc, hcount, hcount0]
    exact ⟨rfl, rfl, rfl, hkept, rfl, rfl, fun c => by rw [hports, (hport c).2]⟩
  dsimp only
  rw [hu]
  split
  · exact hall _ hsentFlow hsentPort rfl (count_counter_other v (by omega))
  · exact hall _ hsentFlow hsentPort rfl rfl

/-- The frame at the head leaves in its class's turn, and is kept. -/
theorem head_frame_leaves (s : State) (p : Die) (f : Fin 1024) (k : Kept) (r : List Kept) (d : Drr)
    (hq : (s.flow p f).queue = k :: r) (hmay : s.egressMay p f = true) (hfits : s.egressFits p f k = true) :
    let i := k.frame.egressClass (s.carrier p == p.val)
    s.egressPick (s.carrier p) i (frameBytes k.frame) = some (i, d) →
    Completes (.frameEgress p f) s fun t =>
      (t.flow p f).queue = r ∧ (t.flow p f).tx = (s.flow p f).tx + 1 ∧
      (t.flow p f).sent = (s.flow p f).sent + BitVec.ofNat 64 k.bytes ∧
      (t.flow p f).kept.length = (s.flow p f).kept.length + 1 ∧ t.out.length = s.out.length + 1 ∧
      t.counter (pgPort p) 0 = s.counter (pgPort p) 0 + 1 ∧ (t.port (s.carrier p)).drr = d ∧
      t = { s with out := t.out, free := t.free, cnt := t.cnt, ports := t.ports, flows := t.flows
                   host := { s.host with changes := t.host.changes } } := by
  intro i hpick
  let c := s.carrier p
  let s1 := s.setPort c { s.port c with drr := d }
  let s2 := s1.setFlow p f { s.flow p f with queue := r }
  have hx : execFrameEgress p f s = s.ok (s2.sendKept p f k) := by
    simp only [execFrameEgress, hq, hmay, hfits, Bool.not_true, Bool.false_eq_true, if_false]
    rw [hpick]
    exact if_pos rfl
  have hworks (e : Nat) : (s2.port e).works = (s.port e).works := by
    by_cases he : e = c
    · have hsame : s2.port c = { s.port c with drr := d } := setPort_port_same s
      rw [he, hsame]
      rfl
    · exact congrArg Port.works (setPort_port_other s he)
  have hflow : s2.flow p f = { s.flow p f with queue := r } := setFlow_flow_same s1
  have hsend : s.maySend p (s.flow p f) = true := by
    simp only [State.egressMay, Bool.and_eq_true] at hmay
    exact hmay.1.1.2
  have hsend2 : s2.maySend p (s2.flow p f) = true :=
    (maySend_congr (s := s) (t := s2) (x := s.flow p f) rfl rfl rfl rfl hworks (by rw [hflow]) (by rw [hflow]) p).trans hsend
  obtain ⟨hqueue, htx, hsent, hkept, hout, hcount, hdrr⟩ := sendKept_sends k hsend2
  have hd : ((s2.sendKept p f k).port c).drr = d :=
    (hdrr c).trans (congrArg Port.drr (setPort_port_same (x := { s.port c with drr := d }) s))
  have hframe : SameBut [.out, .free, .cnt, .ports, .flows, .changes] s (s.finish (s2.sendKept p f k)) := by
    simp [SameBut, among, s2, s1]
  rw [hflow] at hqueue htx hsent hkept
  generalize s2.sendKept p f k = u at *
  exact .of_ok hx ⟨hqueue, htx, hsent, hkept, hout, hcount, hd, hframe.frame⟩

/-- The OPEN flows of a list send their CREDITs. -/
def State.creditOpen (s : State) (p : Nat) (l : List Nat) : State :=
  s.forEach l fun t f => if (t.flow p f).st == .open then t.sendCredit p f else t

theorem mask_creditOpen {M : Part → Bool} (hM : Allows M [.out, .free, .cnt]) (s : State) (p : Nat) (l : List Nat) :
    (s.creditOpen p l).mask M = s.mask M :=
  mask_forEach (fun t f => by simp at hM; simp [hM]) _ _

theorem creditOpen_out (s : State) (p : Die) (hmay : ∀ x, s.maySend p x = true) (l : List Nat) :
    (s.creditOpen p l).out.length =
      s.out.length + (l.filter fun f => (s.flow p f).st == .open).length := by
  induction l generalizing s with
  | nil => rfl
  | cons f r ih =>
    by_cases hopen : (s.flow p f).st == .open
    · have hflow (g : Nat) : (s.sendCredit p f).flow p g = s.flow p g := flow_of_mask (by simp) p g
      have hsame : SameBut [.out, .free, .cnt] s (s.sendCredit p f) := by simp [SameBut, among]
      have hregs : (s.sendCredit p f).regs = s.regs := regs_of_mask (by simp)
      have hkeeper : (s.sendCredit p f).keeper = s.keeper := (congrArg State.keeper hsame.frame :)
      have hdies : (s.sendCredit p f).dies = s.dies := dies_of_mask (by simp)
      have hwales : (s.sendCredit p f).wales = s.wales := wales_of_mask (by simp)
      have hport (c : Nat) : (s.sendCredit p f).port c = s.port c := port_of_mask (by simp) c
      have hout : (s.sendCredit p f).out.length = s.out.length + 1 := (sendFrame_leaves (hmay _) _).1
      have hnext := ih (s.sendCredit p f) fun x =>
        (maySend_congr hregs hkeeper hdies hwales (fun c => by rw [hport]) rfl rfl p).trans (hmay x)
      simp only [hflow, hout] at hnext
      simp only [State.creditOpen, State.forEach, List.foldl_cons, hopen, if_true, List.filter_cons, List.length_cons] at hnext ⊢
      omega
    · simp only [State.creditOpen, State.forEach, List.foldl_cons, hopen, List.filter_cons] at ih ⊢
      exact ih s hmay

theorem creditOpen_frame {s : State} {p : Die} (hmay : ∀ x, s.maySend p x = true) (l : List Nat) :
    (s.finish (s.creditOpen p l)).out.length =
      s.out.length + (l.filter fun f => (s.flow p f).st == .open).length ∧
    s.finish (s.creditOpen p l) = { s with
      out := (s.finish (s.creditOpen p l)).out, free := (s.finish (s.creditOpen p l)).free
      cnt := (s.finish (s.creditOpen p l)).cnt
      host := { s.host with changes := (s.finish (s.creditOpen p l)).host.changes } } := by
  have hsame : SameBut [.out, .free, .cnt, .changes] s (s.finish (s.creditOpen p l)) :=
    (mask_finish (by simp [among]) s _).trans (mask_creditOpen (by simp [among]) s p l)
  exact ⟨creditOpen_out s p hmay l, hsame.frame⟩

/-- In Shutter every OPEN flow of the port sends its CREDIT. -/
theorem shutter_credits (s : State) (p : Die) (hshut : s.shuttered = true) (hup : s.portUp p = true)
    (hleid : s.leid ≠ 0) (hin : s.keeper.withdrawn = false) :
    Completes (.shutterCreditTick p) s fun t =>
      t.out.length = s.out.length + ((List.range 1024).filter fun f => (s.flow p f).st == .open).length ∧
      t = { s with out := t.out, free := t.free, cnt := t.cnt, host := { s.host with changes := t.host.changes } } := by
  have hx : execShutterCreditTick p s = s.ok (s.creditOpen p (List.range 1024)) := if_pos (by rw [hshut, hup]; rfl)
  have hmay (x : Flow) : s.maySend p x = true := by
    have hne : ¬ s.leid = 0#20 := hleid
    simp [State.maySend, hup, hin, hne]
  exact .of_ok hx (creditOpen_frame hmay _)

/-- Settles O39: requests of the host and timers of a flow. -/
theorem flowsSendAndTime : Obligations.FlowsSendAndTime :=
  ⟨request_goes_out, slot_eligible, host_closes, head_frame_leaves, frame_waits, purge_drops, opening_lost,
    open_goes_again, open_lost, oldest_goes_again, ack_goes_out, writeOff_frees, shutter_credits⟩

end Sys2Proof.Machine
end


section

/-! SUPPORT. A WEIGHT frame and the walk of its tag. -/

namespace Sys2Proof.Machine

theorem waleOf_lt {a b w : Nat} (h : waleOf a b = some w) : w < 210 :=
  List.mem_range.mp (List.mem_of_find?_eq_some h)

theorem buddyWales_lt {s : State} {p : Nat} {l : List Nat} (h : s.buddyWales p = some l) : ∀ w ∈ l, w < 210 := by
  have hwale {o : List (Option Nat)} (ho : ∀ e ∈ o, ∃ a b, e = waleOf a b) : ∀ w ∈ o.reduceOption, w < 210 := by
    intro w hw
    obtain ⟨a, b, he⟩ := ho _ (List.reduceOption_mem_iff.mp hw)
    exact waleOf_lt he.symm
  unfold State.buddyWales at h
  dsimp only at h
  split at h
  · cases h
    simp
  · split at h
    · cases h
      exact hwale (by simp)
    · obtain ⟨r, -, hr⟩ := Option.map_eq_some_iff.mp h
      cases hr
      exact hwale (by simp)

/-- Frames that cross to a buddy leave the counts of the dies' other pages. -/
theorem crossBuddy_counter_die (s : State) (p a n : Nat) {d o : Nat} :
    (s.crossBuddy p a n).counter (pgDie d o) 2 = s.counter (pgDie d o) 2 := by
  have hloop (l : List Nat) (hl : ∀ w ∈ l, w < 210) (t : State) :
      (l.foldl (fun t v => t.waleTraffic v n) t).counter (pgDie d o) 2 = t.counter (pgDie d o) 2 := by
    induction l generalizing t with
    | nil => rfl
    | cons v r ih =>
      have hv : v < 210 := hl v List.mem_cons_self
      have hbytes : (t.count (pgWale v) 2 n).counter (pgDie d o) 2 = t.counter (pgDie d o) 2 :=
        count_counter_other t (by unfold pgWale pgDie; omega)
      have hflits : (t.waleTraffic v n).counter (pgDie d o) 2 = t.counter (pgDie d o) 2 :=
        (count_counter_other (t.count (pgWale v) 2 n) (by unfold pgWale pgDie; omega)).trans hbytes
      exact (ih (fun w hw => hl w (List.mem_cons_of_mem _ hw)) _).trans hflits
  unfold State.crossBuddy
  split
  · next w l h => exact (hloop _ (buddyWales_lt h) _).trans (count_counter_other s (by omega))
  · rfl

theorem frameCame_counter_die (s : State) (p : Nat) (k : Packet) (d o : Nat) :
    (s.frameCame p k).counter (pgDie d o) 2 = s.counter (pgDie d o) 2 :=
  (count_counter_other _ (by omega)).trans (crossBuddy_counter_die s p _ _)

theorem stale_counts (s : State) (d : Nat) : (s.stale d).counter (pgDecrypt d) 2 = s.counter (pgDecrypt d) 2 + 1 :=
  count_counter_same (s.incSat (pgDecrypt d) 0x05C)

theorem takeSeq_counter (s : State) (p f : Nat) (q : Word) (n i j : Nat) :
    (s.takeSeq p f q n).counter i j = s.counter i j := counter_of_mask (by simp) i j

theorem rxWindow_congr {s t : State} (hregs : t.regs = s.regs) (hflows : t.flows = s.flows) (p : Nat) (h : Hdr)
    (n : Nat) : t.rxWindow p h n = s.rxWindow p h n := by
  have hctl (e : Nat) : t.feCtl p e = s.feCtl p e := by rw [State.feCtl, State.feCtl, State.reg, State.reg, hregs]
  have horder (f : Nat) : t.inOrder p f = s.inOrder p f := by simp only [State.inOrder, hctl]
  have hflow : t.flow p h.flow.toNat = s.flow p h.flow.toNat := by rw [State.flow, State.flow, hflows]
  rw [State.rxWindow, State.rxWindow, horder, hflow]

/-- A WEIGHT frame of an OPEN slot, in its window. -/
theorem receive_weight {s : State} {p : Nat} {k : Packet} (ht : s.takesV0 p k 0)
    (hwin : s.rxWindow p k.hdr k.hdr.length.toNat = true) (hopen : (s.flow p k.hdr.flow.toNat).st = .open) :
    s.receive p k = if (s.flow p k.hdr.flow.toNat).got.contains k.hdr.seq then (s.frameCame p k).stale p
      else ((s.frameCame p k).takeSeq p k.hdr.flow.toNat k.hdr.seq k.hdr.length.toNat).takeWeight p k.hdr k.weightB := by
  obtain ⟨-, houter, hslot, htype, -⟩ := id ht
  have hslot0 : (s.crossBuddy p (s.carrier p) k.udp.length).rxSlot p k.hdr = true :=
    (rxSlot_congr (flows_of_mask (by simp)) p k.hdr).trans hslot
  have hwin0 : (s.crossBuddy p (s.carrier p) k.udp.length).rxWindow p k.hdr k.hdr.length.toNat = true :=
    (rxWindow_congr (regs_of_mask (by simp)) (flows_of_mask (by simp)) p k.hdr _).trans hwin
  have hack : ((s.crossBuddy p (s.carrier p) k.udp.length).count (pgPort p) 1).rxAck p k.hdr = s.frameCame p k :=
    rxAck_of_nothing ht (frameCame_flow s p k p _)
  have hreq : ¬ (k.hdr.type = 4 ∧ k.mode = 0) := fun h => absurd (htype.symm.trans h.1) (by decide)
  simp only [State.receive, houter]
  rw [if_neg hreq, if_neg (by simp [hslot0]), if_pos (Or.inl htype)]
  simp only [State.rxSequenced]
  rw [if_neg (by simp [hwin0]), hack, frameCame_flow, if_neg (by simp [hopen]), if_pos htype, if_pos htype]

theorem ackFrom_next {rx : Word} {got : List Word} (hnext : got.contains (rx + 1) = false) :
    ackFrom rx (rx :: got) (rx :: got).length = rx + 1 := by
  have hnot : (rx :: got).contains (rx + 1) = false := by
    rw [List.contains_cons, hnext, Bool.or_false, beq_eq_false_iff_ne]
    simp
  have hstop (n : Nat) : ackFrom (rx + 1) (rx :: got) n = rx + 1 := by
    cases n with
    | zero => rfl
    | succ m => exact if_neg (by rw [hnot]; decide)
  exact (if_pos (by simp)).trans (hstop got.length)

/-- What a frame's number and bytes do to its flow. -/
theorem takeSeq_flow (s : State) (p f : Nat) (seq : Word) (n : Nat) :
    ((s.takeSeq p f seq n).flow p f).rx = ackFrom (s.flow p f).rx (seq :: (s.flow p f).got) (seq :: (s.flow p f).got).length ∧
    ((s.takeSeq p f seq n).flow p f).recv = (s.flow p f).recv + BitVec.ofNat 64 n := by
  have hled (t : State) (i : Nat) : (t.ledReturn p lgFlowIn i n).flow p f = t.flow p f := flow_of_mask (by simp) p f
  unfold State.takeSeq
  dsimp only
  rw [hled, setFlow_flow_same]
  exact ⟨rfl, rfl⟩

/-- A frame that no walk takes is discarded and counted. -/
theorem discarded_counts {c : Instr} {s u : State} {p : Nat} (hx : exec c s = s.ok (u.stale p))
    (hcount : u.counter (pgDecrypt p) 2 = s.counter (pgDecrypt p) 2) (hmem : u.mem = s.mem)
    (hweights : u.weights = s.weights) (hprog : u.prog = s.prog) :
    Completes c s fun t => t.counter (pgDecrypt p) 2 = s.counter (pgDecrypt p) 2 + 1 ∧ t.mem = s.mem ∧
      t.weights = s.weights ∧ t.prog = s.prog :=
  .of_ok hx ⟨(stale_counts u p).trans (congrArg (· + 1) hcount), hmem, hweights, hprog⟩

theorem frame_reaches_walk (s : State) (p : Die) (k : Packet) (ht : s.takesV0 p k 0)
    (hwin : s.rxWindow p k.hdr k.hdr.length.toNat = true) (hopen : (s.flow p k.hdr.flow.toNat).st = .open)
    (hnew : (s.flow p k.hdr.flow.toNat).got.contains k.hdr.seq = false) :
    let h := k.hdr
    let f := s.flow p h.flow.toNat
    let u := ((s.crossBuddy p (s.carrier p) k.udp.length).count (pgPort p) 1).takeSeq p h.flow.toNat h.seq h.length.toNat
    Gives (.weightFrame p k.toPacketHdr k.udp) s (u.takeWeight p h k.weightB) ∧
    (h.seq = f.rx → f.got.contains (h.seq + 1) = false → (u.flow p h.flow.toNat).rx = h.seq + 1) ∧
    (u.flow p h.flow.toNat).recv = f.recv + BitVec.ofNat 64 h.length.toNat ∧
    (u.fetchOf p h.flow.toNat k.weightB.fetchTag = none → Completes (.weightFrame p k.toPacketHdr k.udp) s fun t =>
      t.counter (pgDecrypt p) 2 = s.counter (pgDecrypt p) 2 + 1 ∧ t.mem = s.mem ∧ t.weights = s.weights ∧
      t.prog = s.prog) := by
  intro h f u
  have hx : execWeightFrame p k.toPacketHdr k.udp s = s.ok (u.takeWeight p h k.weightB) := by
    have hreceive : s.receive p k = u.takeWeight p h k.weightB := by
      rw [receive_weight ht hwin hopen, if_neg (by rw [hnew]; decide)]
      rfl
    rw [← hreceive]
    exact if_pos ht.1
  obtain ⟨hrx, hrecv⟩ := takeSeq_flow (s.frameCame p k) p h.flow.toNat h.seq h.length.toNat
  rw [frameCame_flow] at hrx hrecv
  refine ⟨.of_ok hx, fun hseq hnext => ?_, hrecv, fun hnone => ?_⟩
  · have hstep : ackFrom h.seq (h.seq :: f.got) (h.seq :: f.got).length = h.seq + 1 := ackFrom_next hnext
    exact (hrx.trans (by rw [← hseq])).trans hstep
  · have hstale : u.takeWeight p h k.weightB = u.stale p := by simp only [State.takeWeight, hnone]
    rw [hstale] at hx
    have hcount : u.counter (pgDecrypt p) 2 = s.counter (pgDecrypt p) 2 :=
      (takeSeq_counter _ _ _ _ _ _ _).trans (frameCame_counter_die s p k p _)
    have hsame : SameBut [.free, .cnt, .flows, .ledgers] s u := by simp [SameBut, among, u]
    exact discarded_counts hx hcount (congrArg State.mem hsame.frame :) (congrArg State.weights hsame.frame :)
      (congrArg State.prog hsame.frame :)

theorem frame_came_before (s : State) (p : Die) (k : Packet) (ht : s.takesV0 p k 0)
    (hwin : s.rxWindow p k.hdr k.hdr.length.toNat = true) (hopen : (s.flow p k.hdr.flow.toNat).st = .open)
    (hold : (s.flow p k.hdr.flow.toNat).got.contains k.hdr.seq = true) :
    Completes (.weightFrame p k.toPacketHdr k.udp) s fun t =>
      t.counter (pgDecrypt p) 2 = s.counter (pgDecrypt p) 2 + 1 ∧ t.flows = s.flows ∧ t.mem = s.mem ∧
      t.weights = s.weights ∧ t.prog = s.prog := by
  have hreceive : s.receive p k = (s.frameCame p k).stale p := by
    rw [receive_weight ht hwin hopen, if_pos hold]
  have hx : execWeightFrame p k.toPacketHdr k.udp s = s.ok ((s.frameCame p k).stale p) := by
    rw [← hreceive]
    exact if_pos ht.1
  have hcount := frameCame_counter_die s p k p 0x0B
  have hsame : SameBut [.free, .cnt] s (s.frameCame p k) := mask_frameCame (by simp [among]) s p k
  generalize s.frameCame p k = u at *
  have hflows : u.flows = s.flows := (congrArg State.flows hsame.frame :)
  have hmem : u.mem = s.mem := (congrArg State.mem hsame.frame :)
  have hweights : u.weights = s.weights := (congrArg State.weights hsame.frame :)
  have hprog : u.prog = s.prog := (congrArg State.prog hsame.frame :)
  exact .of_ok hx ⟨(stale_counts u p).trans (congrArg (· + 1) hcount), hflows, hmem, hweights, hprog⟩

/-- Settles O35: a WEIGHT frame whose number is new, and one whose number has arrived before. -/
theorem weightFrameReachesWalk : Obligations.WeightFrameReachesWalk := ⟨frame_reaches_walk, frame_came_before⟩

end Sys2Proof.Machine
end


section

/-! SUPPORT. SPDM and the key exchange. -/

namespace Sys2Proof.Machine

/-- A command completes with what holds of its state whatever CHANGE_SEQ counts. -/
theorem Completes.of_changes {c : Instr} {s u : State} {P : State → Prop} (hx : exec c s = s.ok u)
    (hP : ∀ n, P { u with host := { u.host with changes := n } }) : Completes c s P :=
  ⟨_, hx, hP _⟩

theorem spdm_answers (s : State) (hup : s.keeperUp = true) :
    Gives .getVersion s (s.emit (.spdm 0x04 [0x00, 0x13])) ∧
    Gives .getDigests s (s.emit (.spdm 0x01 (Config.shake256 (Config.certificate 0)))) ∧
    Gives (.getCertificate 0) s (s.emit (.spdm 0x02 (Config.certificate 0))) :=
  ⟨.of_ok (if_pos hup), .of_ok (if_pos hup), .of_ok ((if_neg (by simp [hup])).trans (if_pos rfl))⟩

theorem no_certificate (s : State) (n : Byte) (hup : s.keeperUp = true) (hn : n ≠ 0) :
    Gives (.getCertificate n) s (s.emit (.spdm 0x7F [])) :=
  .of_ok ((if_neg (by simp [hup])).trans (if_neg hn))

theorem spdm_offers (s : State) (c : Instr) (n : Byte) (hup : s.keeperUp = true)
    (hc : (c = .getCapabilities ∧ n = 0x61) ∨ (c = .negotiateAlgorithms ∧ n = 0x63)) :
    Completes c s fun t => ∃ l, t.out = s.out ++ [.spdm n l] ∧
      t = { s with out := t.out, free := t.free, host := { s.host with changes := t.host.changes } } := by
  have hx : exec c s = s.ok (s.emit (.spdm n (leBytes 8 s.freeNow.toNat))).freeNext := by
    obtain ⟨rfl, rfl⟩ | ⟨rfl, rfl⟩ := hc
    · exact if_pos hup
    · exact if_pos hup
  exact .of_ok hx ⟨_, rfl, rfl⟩

/-- A quote is signed over the nonce, and counted. -/
theorem quote_answers (s : State) (c : Instr) (n i : Byte) (r : List Byte) (hup : s.keeperUp = true)
    (hc : (c = .challenge r ∧ n = 0x03 ∧ i = 0xFF) ∨ (c = .getMeasurements i r ∧ n = 0x60)) :
    Completes c s fun t =>
      let b := s.measBlocks i.toNat ++ r
      t.out = s.out ++ [.spdm n (b ++ Config.sign 1 b)] ∧
      t.counter pgSecurity 0 = s.counter pgSecurity 0 + 1 ∧
      t = { s with out := t.out, cnt := t.cnt, host := { s.host with changes := t.host.changes } } := by
  have hx : exec c s = s.ok (s.quote n (s.measBlocks i.toNat) r) := by
    obtain ⟨rfl, rfl, rfl⟩ | ⟨rfl, rfl⟩ := hc
    · exact if_pos hup
    · exact if_pos hup
  exact .of_ok hx ⟨rfl, count_counter_same (s.emit _), rfl⟩

/-! ### Offers and deliveries -/

theorem offer_opens (s : State) (r : List Byte) (k : BitVec 16) (i : Fin 16) (m : DWord) (hup : s.keeperUp = true) :
    (s.sec.offers.length < 4 →
      Completes (.keyRequest r k i m) s fun t =>
        (∃ o : Offer, t.sec = { s.sec with offers := s.sec.offers ++ [o], nextOffer := s.sec.nextOffer + 1 } ∧
          o.num = s.sec.nextOffer ∧ o.keyId = k ∧ o.slot = i.val ∧ o.mask = m ∧
          o.meas5 = s.measurement 5 ∧ o.meas6 = s.measurement 6 ∧
          t.out = s.out ++ [.keyOffer o.data (Config.sign 1 o.data)]) ∧
        t = { s with out := t.out, sec := t.sec, host := { s.host with changes := t.host.changes } }) ∧
    (4 ≤ s.sec.offers.length → Gives (.keyRequest r k i m) s (s.emit (.keyAnswer false))) := by
  constructor
  · intro hroom
    have hx : execKeyRequest r k i m s = s.ok _ := (if_neg (by simp [hup])).trans (if_neg (by omega))
    exact .of_ok hx ⟨⟨_, rfl, rfl, rfl, rfl, rfl, rfl, rfl, rfl⟩, rfl⟩
  · intro hfull
    exact .of_ok ((if_neg (by simp [hup])).trans (if_pos hfull))

theorem fieldOf_top {c r : Nat} (hc : c < 2 ^ 4) (hr : r < 2 ^ 28) : fieldOf (w32 (c * 2 ^ 28 + r)) 31 28 = c := by
  have hlt : c * 2 ^ 28 + r < 2 ^ 32 := by omega
  have hdiv : (c * 2 ^ 28 + r) / 2 ^ 28 = c := by omega
  rw [fieldOf, w32, BitVec.toNat_ofNat, Nat.mod_eq_of_lt hlt, hdiv]
  exact Nat.mod_eq_of_lt hc

theorem kxWord_cause {c slot keyId : Nat} (hc : c < 16) : fieldOf (kxWord c slot keyId) 31 28 = c := by
  have hr : slot % 16 * 2 ^ 16 + keyId % 2 ^ 16 < 2 ^ 28 := by omega
  rw [kxWord, Nat.add_assoc]
  exact fieldOf_top hc hr
/-- A refused delivery is answered, counted and raised, with its cause in LAST_KX. -/
theorem refusal_tells (s : State) (w : Word) :
    let u := (((s.poke pgSecurity 0x04C w).raise pgSecurity 0x0904).count pgSecurity 2).emit (.keyAnswer false)
    u.weights = s.weights ∧ u.sec = s.sec ∧ u.out = s.out ++ [.keyAnswer false] ∧
    u.counter pgSecurity 2 = s.counter pgSecurity 2 + 1 ∧
    u.reg pgSecurity 0x04C = w ∧ fieldOf (u.reg pgSecurity rFault) 31 16 = 0x0904 := by
  dsimp only
  obtain ⟨a, ha⟩ : ∃ a, s.poke pgSecurity 0x04C w = a := ⟨_, rfl⟩
  have hcause : a.reg pgSecurity 0x04C = w := ha ▸ poke_reg_same s
  have hsame : SameBut [.regs] s a := by simp [SameBut, among, ← ha]
  have hcnt : a.counter pgSecurity 2 = s.counter pgSecurity 2 := ha ▸ rfl
  rw [ha]
  have hraised : SameBut [.regs, .cnt, .bnd, .lastFault] a (a.raise pgSecurity 0x0904) := by simp [SameBut, among]
  have hcode : fieldOf ((a.raise pgSecurity 0x0904).reg pgSecurity rFault) 31 16 = 0x0904 :=
    raise_lastCode a (by decide) (fun h => absurd h (by decide))
  have hkx : (a.raise pgSecurity 0x0904).reg pgSecurity 0x04C = a.reg pgSecurity 0x04C :=
    raise_reg_other a _ _ _ (by decide) (by decide) (by decide) (by decide)
  have hcount : (a.raise pgSecurity 0x0904).counter pgSecurity 2 = a.counter pgSecurity 2 :=
    raise_counter_other a _ (by decide)
  obtain ⟨v, hv⟩ : ∃ v, a.raise pgSecurity 0x0904 = v := ⟨_, rfl⟩
  rw [hv] at hraised hcode hkx hcount ⊢
  have hweights : v.weights = s.weights :=
    (congrArg State.weights hraised.frame : _).trans (congrArg State.weights hsame.frame : _)
  have hsec : v.sec = s.sec := (congrArg State.sec hraised.frame : _).trans (congrArg State.sec hsame.frame : _)
  have hout : v.out = s.out := (congrArg State.out hraised.frame : _).trans (congrArg State.out hsame.frame : _)
  have hregs : ((v.count pgSecurity 2).emit (.keyAnswer false)).regs = v.regs := rfl
  have hreg (o : Nat) : ((v.count pgSecurity 2).emit (.keyAnswer false)).reg pgSecurity o = v.reg pgSecurity o := by
    rw [State.reg, hregs, State.reg]
  refine ⟨hweights, hsec, congrArg (· ++ [OutMsg.keyAnswer false]) hout, ?_, ?_, ?_⟩
  · have hemit : ((v.count pgSecurity 2).emit (.keyAnswer false)).counter pgSecurity 2 =
        (v.count pgSecurity 2).counter pgSecurity 2 := rfl
    rw [hemit, count_counter_same, hcount]
    exact congrArg (· + 1) hcnt
  · rw [hreg, hkx]
    exact hcause
  · rw [hreg]
    exact hcode

theorem deliverRefused_tells (s : State) {c : Nat} (slot keyId : Nat) (hc : c < 16) :
    let u := s.deliverRefused c slot keyId
    u.weights = s.weights ∧ u.sec = s.sec ∧ u.out = s.out ++ [.keyAnswer false] ∧
    u.counter pgSecurity 2 = s.counter pgSecurity 2 + 1 ∧
    fieldOf (u.reg pgSecurity 0x04C) 31 28 = c ∧ fieldOf (u.reg pgSecurity rFault) 31 16 = 0x0904 := by
  have hfield : fieldOf (kxWord c slot keyId) 31 28 = c := kxWord_cause hc
  unfold State.deliverRefused
  generalize kxWord c slot keyId = w at *
  obtain ⟨hweights, hsec, hout, hcount, hkx, hcode⟩ := refusal_tells s w
  exact ⟨hweights, hsec, hout, hcount, by rw [hkx]; exact hfield, hcode⟩

theorem unknown_offer_refused (s : State) (n : Word) (ct w : List Byte) (hup : s.keeperUp = true)
    (hnone : s.sec.offers.find? (fun o => o.num == n) = none) :
    Completes (.keyDeliver n ct w) s fun t =>
      t.weights = s.weights ∧ t.sec = s.sec ∧ t.out = s.out ++ [.keyAnswer false] ∧
      fieldOf (t.reg pgSecurity 0x04C) 31 28 = 1 ∧ fieldOf (t.reg pgSecurity rFault) 31 16 = 0x0904 := by
  have hx : execKeyDeliver n ct w s =
      s.ok ((s.deliverRefused 1 (s.freeNow.toNat / 65536) s.freeNow.toNat).freeNext) := by
    simp only [execKeyDeliver, hup, hnone]
    rfl
  obtain ⟨hweights, hsec, hout, -, hcause, hcode⟩ :=
    deliverRefused_tells s (s.freeNow.toNat / 65536) s.freeNow.toNat (show 1 < 16 by decide)
  obtain ⟨u, hu⟩ : ∃ u, s.deliverRefused 1 (s.freeNow.toNat / 65536) s.freeNow.toNat = u := ⟨_, rfl⟩
  rw [hu] at hx hweights hsec hout hcause hcode
  exact .of_changes hx fun _ => ⟨hweights, hsec, hout, hcause, hcode⟩

theorem deliverCause_lt (s : State) (o : Offer) (key : Option (BitVec 256)) : s.deliverCause o key < 16 := by
  unfold State.deliverCause
  dsimp only
  split_ifs <;> decide

theorem deliverCause_some {s : State} {o : Offer} {key : Option (BitVec 256)} (h : s.deliverCause o key = 0) :
    ∃ k, key = some k := by
  cases key with
  | some k => exact ⟨k, rfl⟩
  | none => cases h

theorem mem_bitsOf {m : DWord} {d : Nat} : d ∈ bitsOf m ↔ d < 64 ∧ m.getLsbD d = true := by
  rw [bitsOf, List.mem_filter, allDies, List.mem_range]

theorem setKeySlot_keySlot (s : State) {d e i j : Nat} (x : KeySlot) (hi : i < 16) (hj : j < 16) :
    (s.setKeySlot d i x).keySlot e j = if e = d ∧ j = i then x else s.keySlot e j := by
  split
  · next h =>
    obtain ⟨rfl, rfl⟩ := h
    exact SMap.get_set_same _ _ _ _
  · next h => exact SMap.get_set_other _ _ _ (by omega)

theorem forEach_setKeySlot {i j : Nat} (x : KeySlot) (hi : i < 16) (hj : j < 16) (e : Nat) (l : List Nat) (s : State) :
    (s.forEach l fun t d => t.setKeySlot d i x).keySlot e j = if j = i ∧ e ∈ l then x else s.keySlot e j := by
  induction l generalizing s with
  | nil => simp [State.forEach]
  | cons d r ih =>
    have hstep : (s.forEach (d :: r) fun t d => t.setKeySlot d i x) =
        (s.setKeySlot d i x).forEach r fun t d => t.setKeySlot d i x := rfl
    rw [hstep, ih, setKeySlot_keySlot s x hi hj]
    by_cases hji : j = i <;> by_cases her : e ∈ r <;> by_cases hed : e = d <;> simp [hji, her, hed]

/-- An installed key stands in its slot on every die of the mask. -/
theorem installKey_installs (s : State) (o : Offer) (k : BitVec 256) (hslot : o.slot < 16) :
    let u := s.installKey o k
    (∀ d i, d < 64 → i < 16 → u.keySlot d i = if i = o.slot ∧ o.mask.getLsbD d = true
      then { key := k, keyId := o.keyId, valid := true, pending := false } else s.keySlot d i) ∧
    u.sec = s.sec ∧ u.out = s.out ++ [.keyAnswer true] ∧
    u.counter pgSecurity 1 = s.counter pgSecurity 1 + 1 ∧ fieldOf (u.reg pgSecurity 0x04C) 31 28 = 0 := by
  have hfield : fieldOf (kxWord 0 o.slot o.keyId.toNat) 31 28 = 0 := kxWord_cause (by decide)
  unfold State.installKey
  dsimp only
  generalize kxWord 0 o.slot o.keyId.toNat = v at *
  have hkeys (d i : Nat) (hi : i < 16) := forEach_setKeySlot
    { key := k, keyId := o.keyId, valid := true, pending := false } hslot hi d (bitsOf o.mask) s
  have hsame : SameBut [.keys] s (s.forEach (bitsOf o.mask) fun t d =>
      t.setKeySlot d o.slot { key := k, keyId := o.keyId, valid := true, pending := false }) := by
    simp [SameBut, among]
  generalize (s.forEach (bitsOf o.mask) fun t d =>
    t.setKeySlot d o.slot { key := k, keyId := o.keyId, valid := true, pending := false }) = u at *
  have hsec : u.sec = s.sec := (congrArg State.sec hsame.frame :)
  have hout : u.out = s.out := (congrArg State.out hsame.frame :)
  have hcnt : u.counter pgSecurity 1 = s.counter pgSecurity 1 :=
    congrArg (SMap.get 0 · _) (congrArg State.cnt hsame.frame :)
  have hemit : (((u.poke pgSecurity 0x04C v).count pgSecurity 1).emit (.keyAnswer true)).counter pgSecurity 1 =
      ((u.poke pgSecurity 0x04C v).count pgSecurity 1).counter pgSecurity 1 := rfl
  have hreg : (((u.poke pgSecurity 0x04C v).count pgSecurity 1).emit (.keyAnswer true)).reg pgSecurity 0x04C =
      (u.poke pgSecurity 0x04C v).reg pgSecurity 0x04C := rfl
  refine ⟨fun d i hd hi => ?_, hsec, congrArg (· ++ [OutMsg.keyAnswer true]) hout, ?_, ?_⟩
  · refine (hkeys d i hi).trans ?_
    simp only [mem_bitsOf, hd, true_and]
  · rw [hemit, count_counter_same]
    exact congrArg (· + 1) hcnt
  · rw [hreg, poke_reg_same]
    exact hfield

/-- Offers do not enter the measurements. -/
theorem deliverCause_offers (s : State) (l : List Offer) (o : Offer) (key : Option (BitVec 256)) :
    ({ s with sec := { s.sec with offers := l } } : State).deliverCause o key = s.deliverCause o key := by
  have hfive : ({ s with sec := { s.sec with offers := l } } : State).measurement 5 = s.measurement 5 := by
    simp only [State.measurement]
  have hsix : ({ s with sec := { s.sec with offers := l } } : State).measurement 6 = s.measurement 6 := by
    simp only [State.measurement, State.reg]
  rw [State.deliverCause, State.deliverCause, hfive, hsix]
  rfl

theorem keyDeliver_decides {s : State} {n : Word} {o : Offer} (ct w : List Byte) (hup : s.keeperUp = true)
    (hfind : s.sec.offers.find? (fun o => o.num == n) = some o) :
    ∃ u : State, u.sec = { s.sec with offers := s.sec.offers.filter (·.num != n) } ∧ u.weights = s.weights ∧
      u.out = s.out ∧ u.cnt = s.cnt ∧
      (∀ k, Config.unwrapKey n ct w = some k → s.deliverCause o (Config.unwrapKey n ct w) = 0 →
        execKeyDeliver n ct w s = s.ok (u.installKey o k)) ∧
      (s.deliverCause o (Config.unwrapKey n ct w) ≠ 0 → execKeyDeliver n ct w s =
        s.ok (u.deliverRefused (s.deliverCause o (Config.unwrapKey n ct w)) o.slot o.keyId.toNat)) := by
  refine ⟨{ s with sec := { s.sec with offers := s.sec.offers.filter (·.num != n) } }, rfl, rfl, rfl, rfl, ?_, ?_⟩
  · intro k hk hc
    rw [execKeyDeliver, if_neg (by simp [hup]), hfind]
    dsimp only
    rw [deliverCause_offers, hc, hk]
    rfl
  · intro hc
    rw [execKeyDeliver, if_neg (by simp [hup]), hfind]
    dsimp only
    rw [deliverCause_offers]
    generalize Config.unwrapKey n ct w = key at *
    cases key with
    | none => rfl
    | some k =>
      cases hcode : s.deliverCause o (some k) with
      | zero => exact absurd hcode hc
      | succ m => rfl

/-- A delivery under an open offer is installed or refused, and the offer is gone. -/
theorem delivery_decides (s : State) (n : Word) (ct w : List Byte) (o : Offer) (hup : s.keeperUp = true)
    (hslot : o.slot < 16) (hfind : s.sec.offers.find? (fun o => o.num == n) = some o) :
    Completes (.keyDeliver n ct w) s fun t =>
      let c := s.deliverCause o (Config.unwrapKey n ct w)
      t.sec = { s.sec with offers := s.sec.offers.filter (·.num != n) } ∧
      fieldOf (t.reg pgSecurity 0x04C) 31 28 = c ∧
      if c = 0 then
        ∃ k, Config.unwrapKey n ct w = some k ∧
          (∀ d i, d < 64 → i < 16 → t.keySlot d i = if i = o.slot ∧ o.mask.getLsbD d = true
            then { key := k, keyId := o.keyId, valid := true, pending := false } else s.keySlot d i) ∧
          t.out = s.out ++ [.keyAnswer true] ∧ t.counter pgSecurity 1 = s.counter pgSecurity 1 + 1
      else
        t.weights = s.weights ∧ t.out = s.out ++ [.keyAnswer false] ∧
        t.counter pgSecurity 2 = s.counter pgSecurity 2 + 1 ∧
        fieldOf (t.reg pgSecurity rFault) 31 16 = 0x0904 := by
  obtain ⟨u, husec, huweights, huout, hucnt, hinstall, hrefuse⟩ := keyDeliver_decides ct w hup hfind
  have hkey (d i : Nat) : u.keySlot d i = s.keySlot d i := by rw [State.keySlot, State.keySlot, huweights]
  have hcounter (i : Nat) : u.counter pgSecurity i = s.counter pgSecurity i := by
    rw [State.counter, State.counter, hucnt]
  have hlt := deliverCause_lt s o (Config.unwrapKey n ct w)
  have hsome := deliverCause_some (s := s) (o := o) (key := Config.unwrapKey n ct w)
  generalize s.deliverCause o (Config.unwrapKey n ct w) = c at *
  by_cases hc : c = 0
  · obtain ⟨k, hk⟩ := hsome hc
    have hx := hinstall k hk hc
    obtain ⟨hkeys, hsec, hout, hcount, hkx⟩ := installKey_installs u o k hslot
    obtain ⟨v, hv⟩ : ∃ v, u.installKey o k = v := ⟨_, rfl⟩
    rw [hv] at hx hsec hout hcount hkx
    simp only [hv] at hkeys
    refine .of_changes hx fun _ => ⟨hsec.trans husec, hkx.trans hc.symm, ?_⟩
    rw [if_pos hc]
    rw [hcounter] at hcount
    rw [huout] at hout
    exact ⟨k, hk, fun d i hd hi => (hkeys d i hd hi).trans (by rw [hkey]), hout, hcount⟩
  · have hx := hrefuse hc
    obtain ⟨hweights, hsec, hout, hcount, hkx, hcode⟩ := deliverRefused_tells u o.slot o.keyId.toNat hlt
    obtain ⟨v, hv⟩ : ∃ v, u.deliverRefused c o.slot o.keyId.toNat = v := ⟨_, rfl⟩
    rw [hv] at hx hweights hsec hout hcount hkx hcode
    refine .of_changes hx fun _ => ⟨hsec.trans husec, hkx, ?_⟩
    rw [if_neg hc]
    rw [hcounter] at hcount
    rw [huout] at hout
    exact ⟨hweights.trans huweights, hout, hcount, hcode⟩

/-- Settles O57: SPDM answers, quotes, offers and deliveries. -/
theorem spdmAndKeys : Obligations.SpdmAndKeys :=
  ⟨spdm_answers, no_certificate, spdm_offers, quote_answers, offer_opens, unknown_offer_refused, delivery_decides,
    fun _ _ hopen => .of_ok (if_pos hopen)⟩

end Sys2Proof.Machine
end


section

/-! SUPPORT. Metering windows, SNAPs and work reports. -/

namespace Sys2Proof.Machine

theorem raise_frame (s : State) (page code : Nat) :
    SameBut [.regs, .cnt, .bnd, .lastFault] s (s.raise page code) := by
  simp [SameBut, among]

theorem sample_adds (s : State) (mv da : BitVec 16) (mj : Nat) (hstart : s.meter.started = true) :
    Completes (.meterSample mv da mj) s fun t =>
      t.meter.energy = s.meter.energy + mj ∧ t.meter.total = s.meter.total + mj ∧
      t.meter.since = s.meter.since + 1 ∧ t.meter.seq = s.meter.seq ∧ t.meter.waiting = s.meter.waiting ∧
      t = { s with meter := t.meter, host := { s.host with changes := t.host.changes } } := by
  have hx : execMeterSample mv da mj s = s.ok { s with meter := { s.meter with
      energy := s.meter.energy + mj, total := s.meter.total + mj, sec := (s.meter.sec.sample mv.toNat mj).1
      above := s.meter.above || (s.meter.sec.sample mv.toNat mj).2, since := s.meter.since + 1 } } :=
    if_neg (by simp [hstart])
  exact .of_changes hx fun _ => ⟨rfl, rfl, rfl, rfl, rfl, rfl⟩

theorem or_keeps_left (f g : BitVec 16) : (f ||| g) &&& f = f := by
  ext i hi
  rw [BitVec.getElem_and, BitVec.getElem_or]
  cases f[i] <;> simp

theorem recordOf_flags (s : State) (full : Bool) (f : BitVec 16) : (s.recordOf full f).flags &&& f = f := by
  have hflags : (s.recordOf full f).flags =
      f ||| (flagWhen s.meter.above rfOver ||| flagWhen (Config.variantWS && s.meter.sealOk) rfSealed) :=
    BitVec.or_assoc ..
  rw [hflags]
  exact or_keeps_left _ _

/-- The meter after a window that ended with no record awaited. -/
def State.windowMeter (s : State) (full : Bool) (f : BitVec 16) : Meter :=
  { s.meter.nextWindow with
    waiting := some (s.recordOf full f), badRep := false, snap := s.meter.snap + 1, snapOut := true }

theorem windowClose_of_idle {s : State} (hwait : s.meter.waiting = none) (full : Bool) (f : BitVec 16) :
    (s.windowClose full f).meter = s.windowMeter full f ∧
    (s.windowClose full f).out = s.out ++ [.snapReq (s.meter.snap + 1)] := by
  have hnone : s.noReport = s := by simp only [State.noReport, hwait]
  simp only [State.windowClose, hnone]
  exact ⟨rfl, rfl⟩

/-- What holds of a meter whose window has ended, whatever its interval is next. -/
theorem window_ended {s t : State} {full : Bool} {f i : BitVec 16} {l : List OutMsg}
    (hmeter : t.meter = { s.windowMeter full f with interval := i })
    (hout : t.out = s.out ++ .snapReq (s.meter.snap + 1) :: l) :
    (∃ r : Record, t.meter.waiting = some r ∧ r.energy = s.meter.energy ∧
      r.total = Config.meterEnergy0 + s.meter.total ∧ r.seq = Config.meterSeq0 + s.meter.seq + 1 ∧
      r.interval = s.meter.interval ∧ r.flags &&& f = f ∧ r.report = none) ∧
    t.meter.energy = 0 ∧ t.meter.total = s.meter.total ∧ t.meter.seq = s.meter.seq + 1 ∧
    t.meter.snap = s.meter.snap + 1 ∧ t.meter.snapOut = true ∧ t.meter.closing = s.meter.closing ∧
    t.out[s.out.length]? = some (.snapReq (s.meter.snap + 1)) := by
  have hfirst : t.out[s.out.length]? = some (.snapReq (s.meter.snap + 1)) := by
    rw [hout]
    simp
  rw [hmeter]
  exact ⟨⟨s.recordOf full f, rfl, rfl, rfl, rfl, rfl, recordOf_flags s full f, rfl⟩, rfl, rfl, rfl, rfl, rfl, rfl, hfirst⟩

theorem setInterval_eq {s : State} {n : BitVec 16} (hseal : s.portSealed = false) (hlo : 10 ≤ n.toNat)
    (hhi : n.toNat ≤ 900) :
    let u := if s.meter.started then s.windowClose false (rfPartial ||| rfInterval) else s
    execSetInterval n s =
      s.ok (({ u with meter := { u.meter with interval := n } } : State).emit (.meterAnswer false [])) :=
  if_neg (by simp [hseal, hlo, hhi])

/-- A window that ends takes its energy into a record that awaits the report of a new SNAP. -/
theorem window_ends (s : State) (c : Instr) (f : BitVec 16) (hstart : s.meter.started = true)
    (hwait : s.meter.waiting = none)
    (hc : (c = .meterWindowEnd ∧ f = 0) ∨ (c = .earlyClose ∧ 16000 ≤ s.meter.since ∧ f = rfPartial) ∨
      (∃ n, c = .setInterval n ∧ s.portSealed = false ∧ 10 ≤ n.toNat ∧ n.toNat ≤ 900 ∧
        f = rfPartial ||| rfInterval)) :
    Completes c s fun t =>
      (∃ r : Record, t.meter.waiting = some r ∧ r.energy = s.meter.energy ∧
        r.total = Config.meterEnergy0 + s.meter.total ∧ r.seq = Config.meterSeq0 + s.meter.seq + 1 ∧
        r.interval = s.meter.interval ∧ r.flags &&& f = f ∧ r.report = none) ∧
      t.meter.energy = 0 ∧ t.meter.total = s.meter.total ∧ t.meter.seq = s.meter.seq + 1 ∧
      t.meter.snap = s.meter.snap + 1 ∧ t.meter.snapOut = true ∧ t.meter.closing = s.meter.closing ∧
      t.out[s.out.length]? = some (.snapReq (s.meter.snap + 1)) := by
  obtain ⟨rfl, rfl⟩ | ⟨rfl, hsince, rfl⟩ | ⟨n, rfl, hseal, hlo, hhi, rfl⟩ := hc
  · obtain ⟨hmeter, hout⟩ := windowClose_of_idle hwait true 0
    have hx : execMeterWindowEnd s = s.ok (s.windowClose true 0) := if_pos hstart
    obtain ⟨u, hu⟩ : ∃ u, s.windowClose true 0 = u := ⟨_, rfl⟩
    rw [hu] at hx hmeter hout
    exact .of_changes hx fun _ => window_ended hmeter hout
  · obtain ⟨hmeter, hout⟩ := windowClose_of_idle hwait false rfPartial
    have hx : execEarlyClose s = s.ok (s.windowClose false rfPartial) := if_pos (by simp [hstart, hsince])
    obtain ⟨u, hu⟩ : ∃ u, s.windowClose false rfPartial = u := ⟨_, rfl⟩
    rw [hu] at hx hmeter hout
    exact .of_changes hx fun _ => window_ended hmeter hout
  · obtain ⟨hmeter, hout⟩ := windowClose_of_idle hwait false (rfPartial ||| rfInterval)
    have hx := setInterval_eq hseal hlo hhi
    simp only [hstart, if_true] at hx
    obtain ⟨u, hu⟩ : ∃ u, s.windowClose false (rfPartial ||| rfInterval) = u := ⟨_, rfl⟩
    rw [hu] at hx hmeter hout
    have hinterval : { u.meter with interval := n } =
        { s.windowMeter false (rfPartial ||| rfInterval) with interval := n } := by rw [hmeter]
    have hmessages : u.out ++ [.meterAnswer false []] =
        s.out ++ .snapReq (s.meter.snap + 1) :: [.meterAnswer false []] := by
      rw [hout, List.append_assoc]
      rfl
    exact .of_changes hx fun _ => window_ended hinterval hmessages

theorem interval_set (s : State) (n : BitVec 16) (hseal : s.portSealed = false) (hlo : 10 ≤ n.toNat)
    (hhi : n.toNat ≤ 900) : Completes (.setInterval n) s fun t =>
      t.meter.interval = n ∧ t.out.getLast? = some (.meterAnswer false []) :=
  .of_changes (setInterval_eq hseal hlo hhi) fun _ => ⟨rfl, List.getLast?_concat ..⟩

theorem snap_answers (s : State) (hsnap : s.meter.snapOut = true) (hin : s.pwr.input = true)
    (hwd : s.keeper.withdrawn = false) (hfw : s.keeper.fwOk = true) :
    Completes .snap s fun t =>
      t.meter = { s.meter with snapOut := false
                               tally := { s.meter.tally with latchW := s.meter.tally.work
                                                             latchB := s.meter.tally.ballast } } ∧
      t.reg pgMeter 0x074 = s.meter.snap ∧ t.counter pgMeter 1 = s.counter pgMeter 1 + 1 ∧
      ∃ w : WorkReport, t.out = s.out ++ [.report w] ∧ w.snapSeq = s.meter.snap ∧
        w.workTotal = tallies s.meter.tally.work ∧ w.ballastTotal = tallies s.meter.tally.ballast ∧
        w.imageId = s.imageIdView ∧ w.sigOk = true := by
  let m : Meter := { s.meter with
    tally := { s.meter.tally with latchW := s.meter.tally.work, latchB := s.meter.tally.ballast }, snapOut := false }
  let a : State := { s with meter := m }
  let u := a.poke pgMeter 0x074 s.meter.snap
  have hx : execSnap s = s.ok (((u.emit (.report u.reportNow)).freeNext).count pgMeter 1) :=
    (if_neg (by simp [hsnap, hin])).trans (if_neg (by simp [hwd, hfw]))
  have hreg : u.reg pgMeter 0x074 = s.meter.snap := poke_reg_same a
  have hcount : u.counter pgMeter 1 = s.counter pgMeter 1 := rfl
  have hreport : u.reportNow.snapSeq = s.meter.snap ∧ u.reportNow.workTotal = tallies s.meter.tally.work ∧
      u.reportNow.ballastTotal = tallies s.meter.tally.ballast ∧ u.reportNow.imageId = s.imageIdView ∧
      u.reportNow.sigOk = true := ⟨rfl, rfl, rfl, rfl, rfl⟩
  have hmeter : u.meter = m := rfl
  have hout : u.out = s.out := rfl
  obtain ⟨v, hv⟩ : ∃ v, u = v := ⟨_, rfl⟩
  rw [hv] at hx hreg hcount hreport hmeter hout
  refine .of_changes hx fun _ => ⟨hmeter, hreg, ?_, v.reportNow, congrArg (· ++ [OutMsg.report v.reportNow]) hout, hreport⟩
  exact (count_counter_same (v.emit (.report v.reportNow)).freeNext).trans (congrArg (· + 1) hcount)

theorem takeReport_enters (m : Meter) (x : Record) (r : WorkReport) :
    let n := m.takeReport x r
    n.waiting = none ∧ n.base = some r ∧ n.gap = false ∧
    ∃ y : Record, n.closing = m.closing ++ [y] ∧ y.report = some r ∧ y.energy = x.energy ∧
      y.seq = x.seq ∧ y.flags &&& (x.flags ||| rfEngineOk) = x.flags ||| rfEngineOk ∧
      (∀ b, m.base = some b → b.workTotal.toNat ≤ r.workTotal.toNat →
        b.ballastTotal.toNat ≤ r.ballastTotal.toNat → b.uptimeMs.toNat ≤ r.uptimeMs.toNat →
        y.work = r.workTotal - b.workTotal ∧ y.ballast = r.ballastTotal - b.ballastTotal) := by
  refine ⟨rfl, rfl, rfl, _, rfl, rfl, rfl, rfl, ?_, fun b hb hwork hballast hup => ?_⟩
  · rw [BitVec.or_assoc (x.flags ||| rfEngineOk)]
    exact or_keeps_left _ _
  · have hof : m.workOf r.workTotal r.ballastTotal r.uptimeMs =
        (r.workTotal - b.workTotal, r.ballastTotal - b.ballastTotal, false) := by
      simp only [Meter.workOf, hb]
      exact if_neg (by omega)
    exact ⟨congrArg (·.1) hof, congrArg (·.2.1) hof⟩

theorem report_taken (s : State) (x : Record) (r : WorkReport) (hpres : s.meter.present = true)
    (hwait : s.meter.waiting = some x) (hsnap : r.snapSeq = s.meter.snap) :
    (r.sigOk = true → Completes (.workReport r) s fun t =>
      t.meter.waiting = none ∧ t.meter.base = some r ∧ t.meter.gap = false ∧
      ∃ y : Record, t.meter.closing = s.meter.closing ++ [y] ∧ y.report = some r ∧ y.energy = x.energy ∧
        y.seq = x.seq ∧ y.flags &&& (x.flags ||| rfEngineOk) = x.flags ||| rfEngineOk ∧
        (∀ b, s.meter.base = some b → b.workTotal.toNat ≤ r.workTotal.toNat →
          b.ballastTotal.toNat ≤ r.ballastTotal.toNat → b.uptimeMs.toNat ≤ r.uptimeMs.toNat →
          y.work = r.workTotal - b.workTotal ∧ y.ballast = r.ballastTotal - b.ballastTotal)) ∧
    (r.sigOk = false →
      Gives (.workReport r) s { s with meter := { s.meter with badRep := true } }) := by
  constructor
  · intro hsig
    have hx : execWorkReport r s = s.ok { s with meter := s.meter.takeReport x r } := by
      simp [execWorkReport, hpres, hwait, hsnap, hsig]
    exact .of_changes hx fun _ => takeReport_enters s.meter x r
  · intro hsig
    have hx : execWorkReport r s = s.ok { s with meter := { s.meter with badRep := true } } := by
      simp [execWorkReport, hpres, hwait, hsnap, hsig]
    exact .of_ok hx

theorem report_discarded (s : State) (r : WorkReport) (hpres : s.meter.present = true)
    (hold : s.meter.waiting = none ∨ r.snapSeq ≠ s.meter.snap) :
    Gives (.workReport r) s { s with meter := { s.meter with junk := s.meter.junk + 1 } } := by
  have hx : execWorkReport r s = s.ok { s with meter := { s.meter with junk := s.meter.junk + 1 } } := by
    cases hwait : s.meter.waiting with
    | none => simp [execWorkReport, hpres, hwait]
    | some x =>
      have hne : r.snapSeq ≠ s.meter.snap := hold.resolve_left (by simp [hwait])
      simp [execWorkReport, hpres, hwait, hne]
  exact .of_ok hx

theorem report_times_out (s : State) (x : Record) (hwait : s.meter.waiting = some x) (hin : s.pwr.input = true)
    (hpres : s.meter.present = true) :
    Completes .reportTimeout s fun t =>
      t.meter = { s.meter with closing := s.meter.closing ++
          [{ x with flags := x.flags ||| (if s.meter.badRep then rfBadReport else rfNoReport) }]
                               waiting := none, badRep := false, gap := true } ∧
      t.counter pgMeter 2 = s.counter pgMeter 2 + 1 ∧ fieldOf (t.reg pgMeter rFault) 31 16 = 0x0902 := by
  let m : Meter := { s.meter.close
    { x with flags := x.flags ||| (if s.meter.badRep then rfBadReport else rfNoReport) } with gap := true }
  let a : State := { s with meter := m }
  have hnote : s.noReport = (a.raise pgMeter 0x0902).count pgMeter 2 := by
    simp only [State.noReport, hwait]
    exact if_pos (by simp [hin, Meter.close, hpres])
  have hx : execReportTimeout s = s.ok ((a.raise pgMeter 0x0902).count pgMeter 2) := by
    rw [← hnote]
    exact if_pos (by rw [hwait]; rfl)
  have hcode : fieldOf ((a.raise pgMeter 0x0902).reg pgMeter rFault) 31 16 = 0x0902 :=
    raise_lastCode a (by decide) (fun h => absurd h (by decide))
  have hcount : (a.raise pgMeter 0x0902).counter pgMeter 2 = s.counter pgMeter 2 :=
    raise_counter_other a _ (by decide)
  have hmeter : (a.raise pgMeter 0x0902).meter = m := (congrArg State.meter (raise_frame a pgMeter 0x0902).frame :)
  obtain ⟨v, hv⟩ : ∃ v, a.raise pgMeter 0x0902 = v := ⟨_, rfl⟩
  rw [hv] at hx hcode hcount hmeter
  exact .of_changes hx fun _ => ⟨hmeter, (count_counter_same v).trans (congrArg (· + 1) hcount), hcode⟩

/-- Settles O58: samples, windows, SNAPs and their reports. -/
theorem meterWindowsAndReports : Obligations.MeterWindowsAndReports :=
  ⟨sample_adds, window_ends, interval_set, snap_answers, report_taken, report_discarded, report_times_out⟩

end Sys2Proof.Machine
end


section

/-! SUPPORT. Records of the meter, its status and its port. -/

namespace Sys2Proof.Machine

/-! ### The end of power -/

theorem and_keeps_of {x f g : BitVec 16} (hx : x &&& f = f) (hf : f &&& g = g) : x &&& g = g := by
  rw [← hf, ← BitVec.and_assoc, hx]

theorem final_closes (s : State) (b : Bool) (hfin : s.meter.fin = some b) (hwait : s.meter.waiting = none) :
    Completes .final s fun t =>
      (∃ r : Record, t.meter.closing = s.meter.closing ++ [r] ∧ r.energy = s.meter.energy ∧
        r.seq = Config.meterSeq0 + s.meter.seq + 1 ∧ r.flags &&& rfFinal = rfFinal ∧
        (b = true → r.flags &&& rfWithdrawn = rfWithdrawn)) ∧
      t.meter.fin = none ∧ t.meter.energy = 0 ∧ t.meter.total = s.meter.total ∧
      t.meter.started = (s.meter.started && s.pwr.input) := by
  have hnone : s.noReport = s := by simp only [State.noReport, hwait]
  obtain ⟨x, hx⟩ : ∃ x : DWord × DWord × Bool, execFinal s = s.ok { s with
      meter := { s.meter.nextWindow.close { s.recordOf false (rfFinal ||| flagWhen b rfWithdrawn |||
        flagWhen x.2.2 rfRestart) with work := x.1, ballast := x.2.1 } with
          fin := none, low := false, started := s.meter.started && s.pwr.input }
      free := s.free + 4 } := by
    simp only [execFinal, hfin, hnone]
    exact ⟨_, rfl⟩
  have hflags := recordOf_flags s false (rfFinal ||| flagWhen b rfWithdrawn ||| flagWhen x.2.2 rfRestart)
  have hfinal := and_keeps_of hflags (g := rfFinal) (by rw [BitVec.or_assoc]; exact or_keeps_left _ _)
  have hwd (h : b = true) := and_keeps_of hflags (g := rfWithdrawn) (by
    rw [h, BitVec.or_comm rfFinal, BitVec.or_assoc]
    exact or_keeps_left _ _)
  exact .of_changes hx fun _ => ⟨⟨_, rfl, rfl, rfl, hfinal, hwd⟩, rfl, rfl, rfl, rfl⟩

theorem final_times_out (s : State) (hlow : s.meter.low = true) (hwait : s.meter.waiting = none) :
    Completes .finalTimeout s fun t =>
      (∃ r : Record, t.meter.closing = s.meter.closing ++ [r] ∧ r.energy = s.meter.energy ∧
        r.flags &&& rfNoReport = rfNoReport) ∧
      t.meter.low = false ∧ t.meter.started = false ∧ t.meter.gap = true ∧ t.meter.total = s.meter.total := by
  have hnone : s.noReport = s := by simp only [State.noReport, hwait]
  have hx : execFinalTimeout s = s.ok { s with
      meter := { s.meter.nextWindow.close (s.recordOf false rfNoReport) with
        fin := none, low := false, gap := true, started := false }
      free := s.free + 4 } := by
    simp only [execFinalTimeout, hlow, hnone]
    rfl
  exact .of_changes hx fun _ => ⟨⟨_, rfl, rfl, recordOf_flags s false rfNoReport⟩, rfl, rfl, rfl, rfl⟩

/-! ### Records -/

theorem pokePair_regPair_other (s : State) {page off o : Nat} (v : DWord) (ho : o + 4 ≤ off ∨ off + 4 ≤ o)
    (hne : o + 4 ≠ off) (hne' : off + 4 ≠ o) : (s.pokePair page off v).regPair page o = s.regPair page o := by
  have hkey {a b : Nat} (h : a ≠ b) : regKey page a ≠ regKey page b := by
    unfold regKey
    omega
  rw [State.regPair, State.pokePair, poke_reg_other _ (hkey (by omega)), poke_reg_other _ (hkey (by omega)),
    poke_reg_other _ (hkey (by omega)), poke_reg_other _ (hkey (by omega))]
  rfl

theorem ofNat_toNat_dword (v : DWord) : BitVec.ofNat 64 v.toNat = v := by
  rw [BitVec.ofNat_toNat, BitVec.setWidth_eq]

/-- METER_MIRROR shows the record. -/
theorem mirrorRecord_shows (s : State) (r : Record) :
    (s.mirrorRecord r).regPair pgMeter 0x048 = r.seq ∧ (s.mirrorRecord r).regPair pgMeter 0x060 = r.work ∧
    (s.mirrorRecord r).regPair pgMeter 0x068 = r.ballast ∧
    (s.mirrorRecord r).counter pgMeter 0 = s.counter pgMeter 0 + 1 := by
  have hpoke (t : State) (v : Word) {o : Nat} (ho : o + 4 < 0x070) :
      ((t.poke pgMeter 0x070 v).count pgMeter 0).regPair pgMeter o = t.regPair pgMeter o := by
    have hkey {a : Nat} (h : a < 0x070) : regKey pgMeter a ≠ regKey pgMeter 0x070 := by
      unfold regKey
      omega
    have hcount : ((t.poke pgMeter 0x070 v).count pgMeter 0).regPair pgMeter o =
        (t.poke pgMeter 0x070 v).regPair pgMeter o := rfl
    rw [hcount, State.regPair, poke_reg_other _ (hkey ho), poke_reg_other _ (hkey (by omega))]
    rfl
  simp only [State.mirrorRecord, ofNat_toNat_dword]
  refine ⟨?_, ?_, ?_, ?_⟩
  · rw [hpoke _ _ (by decide), pokePair_regPair_other _ _ (by decide) (by decide) (by decide),
      pokePair_regPair_other _ _ (by decide) (by decide) (by decide),
      pokePair_regPair_other _ _ (by decide) (by decide) (by decide),
      pokePair_regPair_other _ _ (by decide) (by decide) (by decide), pokePair_regPair]
  · rw [hpoke _ _ (by decide), pokePair_regPair_other _ _ (by decide) (by decide) (by decide), pokePair_regPair]
  · rw [hpoke _ _ (by decide), pokePair_regPair]
  · have hpair (t : State) (o : Nat) (v : DWord) : (t.pokePair pgMeter o v).counter pgMeter 0 = t.counter pgMeter 0 := rfl
    have hlast (t : State) (v : Word) : (t.poke pgMeter 0x070 v).counter pgMeter 0 = t.counter pgMeter 0 := rfl
    rw [count_counter_same, hlast, hpair, hpair, hpair, hpair, hpair]
    rfl

theorem record_stored (s : State) (r : Record) (l : List Record) (hclosing : s.meter.closing = r :: l) :
    Completes .recordStored s fun t =>
      t.meter.closing = l ∧
      (∃ p g, p = (match s.meter.records with | [] => leBytes 32 0 | q :: _ => (Config.shake256 q.slot).take 32) ∧
        g = Config.sign 2 ({ r with prev := p } : Record).bytes ∧
        t.meter.records = ({ r with prev := p, sig := g } :: s.meter.records).take 60000) ∧
      (s.pwr.input = true → s.meter.present = true → t.regPair pgMeter 0x048 = r.seq ∧
        t.regPair pgMeter 0x060 = r.work ∧ t.regPair pgMeter 0x068 = r.ballast ∧
        t.counter pgMeter 0 = s.counter pgMeter 0 + 1) ∧
      (s.pwr.input = false → t.regs = s.regs) := by
  let p := match s.meter.records with
    | [] => leBytes 32 0
    | q :: _ => (Config.shake256 q.slot).take 32
  let x : Record := { r with prev := p, sig := Config.sign 2 ({ r with prev := p } : Record).bytes }
  let a : State := { s with meter := { s.meter with closing := l, records := (x :: s.meter.records).take 60000 } }
  have hx : execRecordStored s = s.ok (if s.pwr.input && s.meter.present then a.mirrorRecord x else a) := by
    simp only [execRecordStored, hclosing]
    rfl
  have hmeter : (a.mirrorRecord x).meter = a.meter :=
    (congrArg State.meter (SameBut.frame (l := [.regs, .cnt]) (s := a) (t := a.mirrorRecord x) (by
      simp [SameBut, among])) :)
  obtain ⟨hseq, hwork, hballast, hcount⟩ := mirrorRecord_shows a x
  have hkept : a.meter.closing = l ∧
      ∃ p g, p = (match s.meter.records with | [] => leBytes 32 0 | q :: _ => (Config.shake256 q.slot).take 32) ∧
        g = Config.sign 2 ({ r with prev := p } : Record).bytes ∧
        a.meter.records = ({ r with prev := p, sig := g } :: s.meter.records).take 60000 :=
    ⟨rfl, _, _, rfl, rfl, rfl⟩
  obtain ⟨u, hu⟩ : ∃ u, a.mirrorRecord x = u := ⟨_, rfl⟩
  rw [hu] at hx hmeter hseq hwork hballast hcount
  by_cases hshown : (s.pwr.input && s.meter.present) = true
  · rw [if_pos hshown] at hx
    obtain ⟨hin, -⟩ := Bool.and_eq_true_iff.mp hshown
    rw [← hmeter] at hkept
    exact .of_changes hx fun _ => ⟨hkept.1, hkept.2, fun _ _ => ⟨hseq, hwork, hballast, hcount⟩,
      fun h => absurd h (by rw [hin]; decide)⟩
  · rw [if_neg hshown] at hx
    exact .of_changes hx fun _ => ⟨hkept.1, hkept.2, fun hin hpres => absurd (by rw [hin, hpres]; rfl) hshown,
      fun _ => rfl⟩

/-! ### The meter as the keeper takes it -/

/-- What a recheck of the meter changes, and the fault of one that works no more. -/
theorem meterRecheck_takes (s : State) :
    s.meterRecheck.meter = { s.meter with working := s.meter.meets } ∧
    s.meterRecheck.reg pgMeter 0x044 = s.reg pgMeter 0x044 ∧
    (s.meter.working = true → s.meter.meets = false → fieldOf (s.meterRecheck.reg pgMeter rFault) 31 16 = 0x0901) := by
  let a : State := ({ s with meter := { s.meter with working := s.meter.meets } } : State).wakeBlock
  have hlatch (t : State) (b : Bool) : SameBut [.progRest, .shut] t (t.setLatch b) := by simp [SameBut, among]
  have hregs (t : State) (b : Bool) : (t.setLatch b).regs = t.regs := (congrArg State.regs (hlatch t b).frame :)
  have hmeter (t : State) (b : Bool) : (t.setLatch b).meter = t.meter := (congrArg State.meter (hlatch t b).frame :)
  have hraised : (a.raise pgMeter 0x0901).meter = a.meter := (congrArg State.meter (raise_frame a _ _).frame :)
  have hversion : (a.raise pgMeter 0x0901).reg pgMeter 0x044 = s.reg pgMeter 0x044 :=
    raise_engine_reg a _ rfl _ (by decide) (by decide) (by decide)
  have hcode : fieldOf ((a.raise pgMeter 0x0901).reg pgMeter rFault) 31 16 = 0x0901 :=
    raise_engine_lastCode a rfl (by decide)
  have hu : s.meterRecheck = if s.meter.working && !s.meter.meets then
      (if Config.variantWS && (a.raise pgMeter 0x0901).shut.st != .shuttered then (a.raise pgMeter 0x0901).setLatch true
        else a.raise pgMeter 0x0901) else a := rfl
  obtain ⟨v, hv⟩ : ∃ v, a.raise pgMeter 0x0901 = v := ⟨_, rfl⟩
  rw [hv] at hraised hversion hcode hu
  rw [hu]
  split
  · split
    · have hreg (o : Nat) : (v.setLatch true).reg pgMeter o = v.reg pgMeter o := by rw [State.reg, State.reg, hregs]
      rw [hmeter, hreg, hreg]
      exact ⟨hraised, hversion, fun _ _ => hcode⟩
    · exact ⟨hraised, hversion, fun _ _ => hcode⟩
  · next h => exact ⟨rfl, rfl, fun hwork hmeets => absurd (by rw [hwork, hmeets]; rfl) h⟩

theorem status_taken (s : State) (m : MeterStatus) (hpres : s.meter.present = true) (hin : s.pwr.input = true) :
    Completes (.meterStatus m) s fun t =>
      t.meter = { s.meter with status := m, fresh := true, working := t.meter.meets } ∧
      t.reg pgMeter 0x044 = m.fw ∧
      (s.meter.working = true → t.meter.working = false → fieldOf (t.reg pgMeter rFault) 31 16 = 0x0901) := by
  obtain ⟨v, hx⟩ : ∃ v, execMeterStatus m s =
      s.ok (((({ s with meter := { s.meter with status := m, fresh := true } } : State).poke pgMeter 0x040 v).poke
        pgMeter 0x044 m.fw).meterRecheck) := ⟨_, if_neg (by simp [hpres, hin])⟩
  let b := ({ s with meter := { s.meter with status := m, fresh := true } } : State).poke pgMeter 0x040 v
  obtain ⟨hmeter, hversion, hcode⟩ := meterRecheck_takes (b.poke pgMeter 0x044 m.fw)
  rw [poke_reg_same] at hversion
  obtain ⟨u, hu⟩ : ∃ u, (b.poke pgMeter 0x044 m.fw).meterRecheck = u := ⟨_, rfl⟩
  rw [hu] at hmeter hversion hcode
  rw [hu] at hx
  have hworking : u.meter.working = u.meter.meets := by
    rw [hmeter]
    rfl
  refine .of_changes hx fun _ => ⟨?_, hversion, fun hwork hnot => hcode hwork ?_⟩
  · refine hmeter.trans ?_
    rw [← hworking, hmeter]
    rfl
  · rw [hmeter] at hnot
    exact hnot

theorem status_times_out (s : State) (hfresh : s.meter.fresh = true) :
    Completes .meterStatusTimeout s fun t =>
      t.meter = { s.meter with fresh := false, working := false } ∧
      (s.meter.working = true → fieldOf (t.reg pgMeter rFault) 31 16 = 0x0901) := by
  let a : State := { s with meter := { s.meter with fresh := false } }
  have hx : execMeterStatusTimeout s = s.ok a.meterRecheck := if_pos hfresh
  have hmeets : a.meter.meets = false := by simp [a, Meter.meets]
  obtain ⟨hmeter, -, hcode⟩ := meterRecheck_takes a
  rw [hmeets] at hmeter
  obtain ⟨u, hu⟩ : ∃ u, a.meterRecheck = u := ⟨_, rfl⟩
  rw [hu] at hx hmeter hcode
  exact .of_changes hx fun _ => ⟨hmeter, fun hwork => hcode hwork hmeets⟩

theorem cassette_taken_out (s : State) (hpres : s.meter.present = true) :
    Completes (.meterPrsntChange false) s fun t =>
      t.meter.present = false ∧ t.meter.working = false ∧ t.meter.started = false ∧ t.meter.waiting = s.meter.waiting ∧
      t.meter.low = (s.meter.low || s.meter.started) ∧ t.meter.records = s.meter.records ∧
      t.meter.total = s.meter.total := by
  let m : Meter := { s.meter with
    fresh := false, started := false, snapOut := false, fin := none, low := s.meter.low || s.meter.started
    present := false, status := { s.meter.status with certOk := false } }
  have hx : execMeterPrsntChange false s = s.ok ({ s with meter := m } : State).meterRecheck :=
    if_neg (by simp [hpres])
  obtain ⟨hmeter, -, -⟩ := meterRecheck_takes { s with meter := m }
  obtain ⟨u, hu⟩ : ∃ u, ({ s with meter := m } : State).meterRecheck = u := ⟨_, rfl⟩
  rw [hu] at hx hmeter
  have hmeets : m.meets = false := by simp [m, Meter.meets]
  exact .of_changes hx fun _ => ⟨(congrArg Meter.present hmeter :), (congrArg Meter.working hmeter :).trans hmeets,
    (congrArg Meter.started hmeter :), (congrArg Meter.waiting hmeter :), (congrArg Meter.low hmeter :),
    (congrArg Meter.records hmeter :), (congrArg Meter.total hmeter :)⟩

theorem cassette_appears (s : State) (hpres : s.meter.present = false) (hlow : s.meter.low = false) :
    Completes (.meterPrsntChange true) s fun t =>
      t.meter.present = true ∧ t.meter.base = none ∧ t.meter.gap = false ∧
      t.meter.started = (s.pwr.input || s.meter.started) ∧ t.meter.total = s.meter.total := by
  let n : Meter := if s.pwr.input then s.meter.start else s.meter
  let m : Meter := { n with
    base := none, gap := false, present := true, status := { n.status with certOk := false } }
  have hx : execMeterPrsntChange true s = s.ok ({ s with meter := m } : State).meterRecheck :=
    if_neg (by simp [hpres, hlow])
  have hstart : n.started = (s.pwr.input || s.meter.started) ∧ n.total = s.meter.total := by
    simp only [n]
    cases s.pwr.input
    · exact ⟨rfl, rfl⟩
    · exact ⟨rfl, rfl⟩
  obtain ⟨hmeter, -, -⟩ := meterRecheck_takes { s with meter := m }
  obtain ⟨u, hu⟩ : ∃ u, ({ s with meter := m } : State).meterRecheck = u := ⟨_, rfl⟩
  rw [hu] at hx hmeter
  refine .of_changes hx fun _ => ?_
  simp only [hmeter]
  exact ⟨rfl, rfl, rfl, hstart⟩

theorem seal_opened (s : State) : Completes .sealOpened s fun t =>
    t.meter.sealOk = (s.meter.sealOk && !Config.variantWS) ∧ t.meter.records = s.meter.records ∧
    t.meter.total = s.meter.total := by
  by_cases hidle : (!Config.variantWS || !s.meter.sealOk) = true
  · have hx : execSealOpened s = .next s := if_pos hidle
    refine ⟨s, hx, ?_, rfl, rfl⟩
    cases hseal : s.meter.sealOk with
    | false => rfl
    | true => 
      rw [hseal] at hidle
      simpa using hidle.symm
  · let a : State := { s with meter := { s.meter with sealOk := false } }
    have hx : execSealOpened s = s.ok (a.raise pgMeter 0x0905).meterRecheck := if_neg hidle
    have hws : Config.variantWS = true := by
      cases h : Config.variantWS with
      | true => rfl
      | false => exact absurd (by rw [h]; rfl) hidle
    have hraised : (a.raise pgMeter 0x0905).meter = a.meter := (congrArg State.meter (raise_frame a _ _).frame :)
    obtain ⟨hmeter, -, -⟩ := meterRecheck_takes (a.raise pgMeter 0x0905)
    rw [hraised] at hmeter
    obtain ⟨u, hu⟩ : ∃ u, (a.raise pgMeter 0x0905).meterRecheck = u := ⟨_, rfl⟩
    rw [hu] at hx hmeter
    refine .of_changes hx fun _ => ?_
    simp only [hmeter, hws]
    exact ⟨(Bool.and_false _).symm, rfl, rfl⟩

/-! ### The port -/

theorem port_reads_status (s : State) : Completes .readStatus s fun t =>
    ∃ l, t.out = s.out ++ [.meterAnswer false l] ∧
      t = { s with out := t.out, host := { s.host with changes := t.host.changes } } :=
  ⟨_, rfl, _, rfl, rfl⟩

theorem port_reads_record (s : State) (n : DWord) : Gives (.readRecord n) s (s.emit
    (match s.meter.records.find? (fun r => r.seq == n) with
      | some r => .meterAnswer false r.slot
      | none => .meterAnswer true [])) := by
  have hx : execReadRecord n s = s.ok (s.emit (match s.meter.records.find? (fun r => r.seq == n) with
      | some r => .meterAnswer false r.slot
      | none => .meterAnswer true [])) := by
    unfold execReadRecord
    cases s.meter.records.find? (fun r => r.seq == n) with
    | some r => rfl
    | none => rfl
  exact .of_ok hx

theorem port_reads_certificate (s : State) (i : Byte) : Gives (.readCert i) s (s.emit
    (if i.toNat < 4 then .meterAnswer false (Config.certificate (16 + i.toNat)) else .meterAnswer true [])) := by
  have hx : execReadCert i s = s.ok (s.emit
      (if i.toNat < 4 then .meterAnswer false (Config.certificate (16 + i.toNat)) else .meterAnswer true [])) := by
    unfold execReadCert
    split
    · rfl
    · rfl
  exact .of_ok hx

/-- Settles O59: FINAL, records, the meter's status and its port. -/
theorem meterRecordsAndStatus : Obligations.MeterRecordsAndStatus :=
  ⟨final_closes, final_times_out, record_stored, status_taken, status_times_out, cassette_taken_out, cassette_appears,
    seal_opened, port_reads_status, port_reads_record, port_reads_certificate,
    fun _ _ hseal hsig => .of_ok (if_neg (by simp [hseal, hsig])),
    fun _ _ hsig => .of_ok (if_pos (by simp [hsig]))⟩

end Sys2Proof.Machine
end


section

/-! SUPPORT. Health records, the mailbox and firmware updates. -/

namespace Sys2Proof.Machine

theorem adoptGo_of_none {s : State} (h : s.noAdoption) : s.adoptGo = s := by
  obtain ⟨hnone, hidle⟩ := h
  unfold State.adoptGo
  rw [hnone]
  cases hast : s.keeper.ast with
  | checking => simp [Keeper.adopting, hast] at hidle
  | loading => simp [Keeper.adopting, hast] at hidle
  | _ => rfl

/-! ### The health record -/

theorem record_forms (s : State) (hin : s.pwr.input = true) (hidle : s.noAdoption) (hbring : s.keeper.bring ≠ 7) :
    Completes .healthRecordRefresh s fun t =>
      let u : State := { s with keeper := { s.keeper with recSeq := s.keeper.recSeq + 1 } }
      t.keeper = { u.keeper with record := u.healthRecord } ∧
      t = { s with keeper := t.keeper, free := t.free, host := { s.host with changes := t.host.changes } } := by
  have height : s.adoptGo.stepEight = s := by
    rw [adoptGo_of_none hidle]
    exact if_pos (by simp [hbring])
  have hx : execHealthRecordRefresh s = s.ok ({ s with keeper := { s.keeper with
      recSeq := s.keeper.recSeq + 1
      record := ({ s with keeper := { s.keeper with recSeq := s.keeper.recSeq + 1 } } : State).healthRecord } } :
      State).freeNext := by
    rw [execHealthRecordRefresh, if_neg (by simp [hin]), height]
  obtain ⟨l, hl⟩ : ∃ l,
      ({ s with keeper := { s.keeper with recSeq := s.keeper.recSeq + 1 } } : State).healthRecord = l := ⟨_, rfl⟩
  rw [hl] at hx
  exact .of_changes hx fun _ => ⟨by rw [hl]; rfl, rfl⟩

theorem step_eight (s : State) (hin : s.pwr.input = true) (hidle : s.noAdoption) (hbring : s.keeper.bring = 7)
    (hfw : s.keeper.fwOk = true) :
    Completes .healthRecordRefresh s fun t =>
      t.keeper.bring = 8 ∧ t.keeper.ready = true ∧ t.keeper.recSeq = s.keeper.recSeq + 1 := by
  have hkeeper : s.stepEight.keeper = { s.keeper with bring := 8, ready := true } := by
    let a := ({ s with keeper := { s.keeper with bring := 8, ready := true } } : State).wakeBlock
    have hu : s.stepEight = if Config.variantWS && !a.meter.working then a.setLatch true else a :=
      if_neg (by simp [hbring, hfw])
    have hlatch : (a.setLatch true).keeper = a.keeper :=
      (congrArg State.keeper (SameBut.frame (l := [.progRest, .shut]) (s := a) (t := a.setLatch true) (by
        simp [SameBut, among])) :)
    rw [hu]
    split
    · exact hlatch
    · rfl
  obtain ⟨u, hu⟩ : ∃ u, s.stepEight = u := ⟨_, rfl⟩
  rw [hu] at hkeeper
  obtain ⟨l, hx⟩ : ∃ l, execHealthRecordRefresh s = s.ok ({ u with keeper := { u.keeper with
      recSeq := u.keeper.recSeq + 1, record := l } } : State).freeNext := by
    refine ⟨({ u with keeper := { u.keeper with recSeq := u.keeper.recSeq + 1 } } : State).healthRecord, ?_⟩
    rw [execHealthRecordRefresh, if_neg (by simp [hin]), adoptGo_of_none hidle, hu]
  exact .of_changes hx fun _ => ⟨(congrArg Keeper.bring hkeeper :), (congrArg Keeper.ready hkeeper :),
    (congrArg (·.recSeq + 1) hkeeper :)⟩

/-! ### The mailbox -/

theorem w32_toNat {n : Nat} (h : n < 2 ^ 32) : (w32 n).toNat = n := by
  rw [w32, BitVec.toNat_ofNat, Nat.mod_eq_of_lt h]

theorem mailbox_starts (s : State) (c : Instr) (n : Byte) (i : BitVec 16) (hreach : s.mbReach = true)
    (hc : (c = .readHealth ∧ n = 1 ∧ i = 0) ∨ (c = .mailboxIdentify ∧ n = 2 ∧ i = 0) ∨ (c = .readLog i ∧ n = 3) ∨
      (c = .readRepair i ∧ n = 4)) :
    Completes c s fun t =>
      t.keeper = { s.keeper with mbBusy := true, mbOp := n, mbIndex := i } ∧
      (t.reg pgMailbox 0x040).toNat = i.toNat * 65536 + n.toNat ∧
      t = { s with regs := t.regs, keeper := t.keeper, host := { s.host with changes := t.host.changes } } := by
  have hidle : s.keeper.mbBusy = false := by
    simp only [State.mbReach, Bool.and_eq_true, Bool.not_eq_true'] at hreach
    exact hreach.2
  have hstart : exec c s = s.ok (s.mbStart n i) := by
    obtain ⟨rfl, rfl, rfl⟩ | ⟨rfl, rfl, rfl⟩ | ⟨rfl, rfl⟩ | ⟨rfl, rfl⟩ := hc
    · exact if_pos hreach
    · exact if_pos hreach
    · exact if_pos hreach
    · exact if_pos hreach
  have hword : (w32 (i.toNat * 65536 + n.toNat)).toNat = i.toNat * 65536 + n.toNat := w32_toNat (by omega)
  have hx : exec c s = s.ok { s.poke pgMailbox 0x040 (w32 (i.toNat * 65536 + n.toNat)) with
      keeper := { s.keeper with mbBusy := true, mbOp := n, mbIndex := i } } := by
    rw [hstart, State.mbStart, if_neg (by simp [hidle])]
    rfl
  obtain ⟨w, hw⟩ : ∃ w, w32 (i.toNat * 65536 + n.toNat) = w := ⟨_, rfl⟩
  rw [hw] at hx hword
  refine .of_changes hx fun _ => ⟨rfl, ?_, rfl⟩
  rw [← hword]
  exact congrArg BitVec.toNat (poke_reg_same s)

/-- Byte i of word k of MB_RESP. -/
def State.mbByte (s : State) (l : List Byte) (k i : Nat) : Byte :=
  match l[4 * k + i]? with
  | some b => b
  | none => ((Config.freeValue (s.free + 1 + k)).extractLsb' 0 32).extractLsb' (8 * i) 8

/-- Word k of MB_RESP. -/
def State.mbWord (s : State) (l : List Byte) (k : Nat) : Word :=
  s.mbByte l k 3 ++ s.mbByte l k 2 ++ s.mbByte l k 1 ++ s.mbByte l k 0

theorem mbRespond_eq (s : State) (l : List Byte) :
    s.mbRespond l = s.forEach (List.range 16) fun t k => t.poke pgMailbox (0x100 + 4 * k) (s.mbWord l k) := rfl

theorem byte_of_word (a b c d : Byte) (i n : Nat) (hn : n < 8) (hi : i < 4) :
    (d ++ c ++ b ++ a : BitVec (8 + 8 + 8 + 8)).getLsbD (8 * i + n) = ([a, b, c, d][i]).getLsbD n := by
  have hcases : i = 0 ∨ i = 1 ∨ i = 2 ∨ i = 3 := by omega
  simp only [BitVec.getLsbD_append]
  obtain rfl | rfl | rfl | rfl := hcases
  · rw [if_pos (by omega)]
    exact congrArg a.getLsbD (by omega)
  · rw [if_neg (by omega), if_pos (by omega)]
    exact congrArg b.getLsbD (by omega)
  · rw [if_neg (by omega), if_neg (by omega), if_pos (by omega)]
    exact congrArg c.getLsbD (by omega)
  · rw [if_neg (by omega), if_neg (by omega), if_neg (by omega)]
    exact congrArg d.getLsbD (by omega)

theorem byte_of_append (a b c d : Byte) (i : Nat) (hi : i < 4) :
    (d ++ c ++ b ++ a : Word).extractLsb' (8 * i) 8 = [a, b, c, d][i] := by
  ext n hn
  rw [BitVec.getElem_extractLsb']
  exact byte_of_word a b c d i n hn hi

theorem mbWord_byte (s : State) (l : List Byte) {j : Nat} {b : Byte} (h : l[j]? = some b) :
    (s.mbWord l (j / 4)).extractLsb' (8 * (j % 4)) 8 = b := by
  have hpick (f : Nat → Byte) (i : Nat) (hi : i < 4) : (f 3 ++ f 2 ++ f 1 ++ f 0 : Word).extractLsb' (8 * i) 8 = f i := by
    have hcases : i = 0 ∨ i = 1 ∨ i = 2 ∨ i = 3 := by omega
    rw [byte_of_append _ _ _ _ i hi]
    obtain rfl | rfl | rfl | rfl := hcases
    · rfl
    · rfl
    · rfl
    · rfl
  rw [State.mbWord, hpick (s.mbByte l (j / 4)) _ (Nat.mod_lt j (by decide)), State.mbByte, Nat.div_add_mod j 4, h]

theorem forEach_poke_reg (page : Nat) (w : Nat → Word) (k : Nat) (l : List Nat) (s : State) :
    (s.forEach l fun t k => t.poke page (0x100 + 4 * k) (w k)).reg page (0x100 + 4 * k) =
      if k ∈ l then w k else s.reg page (0x100 + 4 * k) := by
  induction l generalizing s with
  | nil => rfl
  | cons j r ih =>
    refine (ih (s.poke page (0x100 + 4 * j) (w j))).trans ?_
    by_cases hr : k ∈ r
    · simp [hr]
    · by_cases hkj : k = j
      · simp [hkj]
      · have hkey : regKey page (0x100 + 4 * k) ≠ regKey page (0x100 + 4 * j) := by
          unfold regKey
          omega
        simp [hr, hkj, poke_reg_other _ hkey]

/-- What the mailbox shows of an answer's bytes. -/
theorem mbRespond_byte (s : State) (l : List Byte) {j : Nat} {b : Byte} (hj : j < 64) (h : l[j]? = some b) :
    ((s.mbRespond l).reg pgMailbox (0x100 + 4 * (j / 4))).extractLsb' (8 * (j % 4)) 8 = b := by
  have hin : j / 4 ∈ List.range 16 := List.mem_range.mpr (by omega)
  rw [mbRespond_eq, forEach_poke_reg, if_pos hin, mbWord_byte s l h]

theorem mailbox_done (s : State) (hbusy : s.keeper.mbBusy = true) (hin : s.pwr.input = true) :
    (∀ l, s.mbAnswer = some l → l.length < 65536 →
      Completes .mailboxDone s fun t =>
        t.keeper.mbBusy = false ∧ (t.reg pgMailbox 0x044).toNat = l.length * 65536 + 2 ∧
        t.counter pgMailbox 0 = s.counter pgMailbox 0 + 1 ∧
        ∀ j b, j < 64 → l[j]? = some b →
          (t.reg pgMailbox (0x100 + 4 * (j / 4))).extractLsb' (8 * (j % 4)) 8 = b) ∧
    (s.mbAnswer = none →
      Completes .mailboxDone s fun t =>
        t.keeper.mbBusy = false ∧ t.reg pgMailbox 0x044 = 3 ∧
        t.counter pgMailbox 1 = s.counter pgMailbox 1 + 1) := by
  let a : State := { s with keeper := { s.keeper with mbBusy := false } }
  have hgo : ¬ (!s.keeper.mbBusy || !s.pwr.input) = true := by simp [hbusy, hin]
  constructor
  · intro l hl hlen
    have hframe : SameBut [.regs] a (a.mbRespond l) := by simp [SameBut, among]
    have hkeeper : (a.mbRespond l).keeper = a.keeper := (congrArg State.keeper hframe.frame :)
    have hcnt : (a.mbRespond l).counter pgMailbox 0 = s.counter pgMailbox 0 :=
      counter_of_mask (s := a) (by simp) _ _
    have hbyte (j : Nat) (b : Byte) (hj : j < 64) (hb : l[j]? = some b) := mbRespond_byte a l hj hb
    have hx : execMailboxDone s = s.ok ({ ((a.mbRespond l).poke pgMailbox 0x044
        (w32 (l.length * 65536 + 2))).count pgMailbox 0 with free := s.free + 17 } : State) := by
      rw [execMailboxDone, if_neg hgo]
      simp only [hl]
      rfl
    have hword : (w32 (l.length * 65536 + 2)).toNat = l.length * 65536 + 2 := w32_toNat (by omega)
    obtain ⟨u, hu⟩ : ∃ u, a.mbRespond l = u := ⟨_, rfl⟩
    obtain ⟨w, hw⟩ : ∃ w, w32 (l.length * 65536 + 2) = w := ⟨_, rfl⟩
    rw [hu] at hx hkeeper hcnt
    simp only [hu] at hbyte
    rw [hw] at hx hword
    have hreg (o : Nat) (ho : o ≠ 0x044) : (u.poke pgMailbox 0x044 w).reg pgMailbox o = u.reg pgMailbox o :=
      poke_reg_other _ (by unfold regKey; omega)
    refine .of_changes hx fun _ => ⟨(congrArg Keeper.mbBusy hkeeper :), ?_, ?_, fun j b hj hb => ?_⟩
    · rw [← hword]
      exact congrArg BitVec.toNat (poke_reg_same u)
    · exact (count_counter_same (u.poke pgMailbox 0x044 w)).trans (congrArg (· + 1) hcnt)
    · rw [← hbyte j b hj hb, ← hreg _ (by omega)]
      rfl
  · intro hnone
    have hx : execMailboxDone s = s.ok ((a.poke pgMailbox 0x044 3).count pgMailbox 1) := by
      rw [execMailboxDone, if_neg hgo]
      simp only [hnone]
      rfl
    have hcount : ((a.poke pgMailbox 0x044 3).count pgMailbox 1).counter pgMailbox 1 = s.counter pgMailbox 1 + 1 :=
      count_counter_same (a.poke pgMailbox 0x044 3)
    have hreg : (a.poke pgMailbox 0x044 3).reg pgMailbox 0x044 = 3 := poke_reg_same a
    exact .of_changes hx fun _ => ⟨rfl, hreg, hcount⟩

/-! ### Firmware -/

theorem SMap_get_set_other {α : Type} [DecidableEq α] (c d : α) (m : SMap α) {k j : Nat} (v : α) (h : j ≠ k) :
    SMap.get c (SMap.set d m k v) j = SMap.get c m j := by
  unfold SMap.set SMap.get
  split
  · rw [SMap.find_erase_other m h]
  · rw [SMap.find_insert_other _ v h, SMap.find_erase_other m h]

theorem bankNum_ne (u b : Bool) : bankNum u b ≠ bankNum u (!b) := by
  cases u <;> cases b <;> decide

theorem image_taken (s : State) (u : Bool) (f : FwImage) (hin : s.pwr.input = true) :
    (f.sigOk = true → s.sec.svnFuse.toNat ≤ f.svn.toNat →
      Completes (.pldmFwUpdate u f) s fun t =>
        t.fwBank (bankNum u (!(if u then s.keeper.uactive else s.keeper.active))) = f ∧
        t.fwBank (bankNum u (if u then s.keeper.uactive else s.keeper.active)) =
          s.fwBank (bankNum u (if u then s.keeper.uactive else s.keeper.active)) ∧
        t.keeper.active = s.keeper.active ∧ t.keeper.uactive = s.keeper.uactive ∧
        t.out = s.out ++ [.pldm [0]]) ∧
    (f.sigOk = false ∨ f.svn.toNat < s.sec.svnFuse.toNat →
      Completes (.pldmFwUpdate u f) s fun t =>
        t.keeper.banks = s.keeper.banks ∧ t.out = s.out ++ [.pldm [1]] ∧
        fieldOf (t.reg pgSecurity rFault) 31 16 = 0x0903) := by
  have hgo : ¬ (!s.pwr.input) = true := by simp [hin]
  constructor
  · intro hsig hsvn
    have hfresh : ¬ (!f.sigOk || decide (f.svn.toNat < s.sec.svnFuse.toNat)) = true := by simp [hsig, hsvn]
    have hx : execPldmFwUpdate u f s = s.ok _ := (if_neg hgo).trans (if_neg hfresh)
    exact .of_changes hx fun _ => ⟨SMap.get_set_same _ _ _ _, SMap_get_set_other _ _ _ _ (bankNum_ne u _), rfl, rfl, rfl⟩
  · intro hbad
    have hold : (!f.sigOk || decide (f.svn.toNat < s.sec.svnFuse.toNat)) = true := by simpa using hbad
    have hx : execPldmFwUpdate u f s = s.ok (s.refuseImage.emit (.pldm [1])) := (if_neg hgo).trans (if_pos hold)
    have hraised := raise_frame s pgSecurity 0x0903
    have hcode : fieldOf ((s.raise pgSecurity 0x0903).reg pgSecurity rFault) 31 16 = 0x0903 :=
      raise_lastCode s (by decide) (fun h => absurd h (by decide))
    have hu : s.refuseImage = (s.raise pgSecurity 0x0903).logEvent 0x0903 pgSecurity := rfl
    obtain ⟨v, hv⟩ : ∃ v, s.raise pgSecurity 0x0903 = v := ⟨_, rfl⟩
    rw [hv] at hraised hcode hu
    rw [hu] at hx
    have hbanks : v.keeper.banks = s.keeper.banks := (congrArg (·.keeper.banks) hraised.frame :)
    have hout : v.out = s.out := (congrArg State.out hraised.frame :)
    exact .of_changes hx fun _ => ⟨hbanks, congrArg (· ++ [OutMsg.pldm [1]]) hout, hcode⟩

theorem banks_activate (s : State) (hin : s.pwr.input = true) :
    (s.keeper.verK = true ∨ s.keeper.verU = true →
      Completes .activateFirmware s fun t =>
        t.keeper = { s.keeper with active := s.keeper.active != s.keeper.verK
                                   uactive := s.keeper.uactive != s.keeper.verU, verK := false, verU := false } ∧
        t.out = s.out ++ [.pldm [0]]) ∧
    (s.keeper.verK = false → s.keeper.verU = false → Gives .activateFirmware s (s.emit (.pldm [1]))) := by
  have hgo : ¬ (!s.pwr.input) = true := by simp [hin]
  constructor
  · intro hver
    have hx : execActivateFirmware s = s.ok _ :=
      (if_neg hgo).trans (if_neg (by simpa [Decidable.imp_iff_not_or] using hver))
    exact .of_changes hx fun _ => ⟨rfl, rfl⟩
  · intro hk hu
    exact .of_ok ((if_neg hgo).trans (if_pos (by simp [hk, hu])))

/-- Settles O56: health records, the mailbox, firmware updates and sensors. -/
theorem keeperAnswersAndUpdates : Obligations.KeeperAnswersAndUpdates :=
  ⟨record_forms, step_eight, fun _ hin => .of_ok (if_neg (by simp [hin])), mailbox_starts, mailbox_done, image_taken,
    banks_activate, fun _ _ hup => .of_ok (if_pos hup)⟩

end Sys2Proof.Machine
end


section

/-! SUPPORT. Location, LEID and the commands of the controller tree. -/

namespace Sys2Proof.Machine

theorem ga_sampled (s : State) (ga : BitVec 6) (hin : s.pwr.input = true) :
    Completes (.gaSample ga) s fun t =>
      t.keeper.ga = ga ∧ t.keeper.locValid = (s.keeper.locValid && decide (ga = s.keeper.ga0) && gaOdd ga) ∧
      (t.keeper.locValid = s.keeper.locValid → t.keeper.log = s.keeper.log) ∧
      t = { s with free := t.free, cnt := t.cnt, host := { s.host with changes := t.host.changes }
                   keeper := { s.keeper with ga := ga, locValid := t.keeper.locValid, log := t.keeper.log } } := by
  obtain ⟨v, hv⟩ : ∃ v, (s.keeper.locValid && decide (ga = s.keeper.ga0) && gaOdd ga) = v := ⟨_, rfl⟩
  let a : State := { s with keeper := { s.keeper with ga := ga, locValid := v } }
  have hx : execGaSample ga s = s.ok (if s.keeper.locValid && !v then a.logOther pgAddress else a) := by
    rw [execGaSample, if_neg (by simp [hin]), hv]
  rw [hv]
  by_cases hlost : (s.keeper.locValid && !v) = true
  · rw [if_pos hlost] at hx
    refine .of_changes hx fun _ => ⟨rfl, rfl, fun h => ?_, rfl⟩
    have hsame : v = s.keeper.locValid := h
    rw [hsame, Bool.and_not_self] at hlost
    exact absurd hlost (by decide)
  · rw [if_neg hlost] at hx
    exact .of_changes hx fun _ => ⟨rfl, rfl, fun _ => rfl, rfl⟩

/-! ### The keeper's commands -/

theorem cap_taken (s : State) (w : BitVec 16) (hup : s.keeperUp = true) :
    Completes (.cap w) s fun t =>
      t.out = s.out ++ [.keeperAnswer true 0] ∧
      (7 ≤ s.keeper.bring → t.pwr.keeperCap = max 8000 (min 21000 w.toNat) ∧ t.keeper = s.keeper) ∧
      (s.keeper.bring < 7 → t.keeper.capPend = some (max 8000 (min 21000 w.toNat)) ∧ t.pwr = s.pwr) ∧
      t = { s with out := t.out, pwr := { s.pwr with keeperCap := t.pwr.keeperCap }
                   keeper := { s.keeper with capPend := t.keeper.capPend }
                   host := { s.host with changes := t.host.changes } } := by
  have hx : execCap w s = s.ok (if s.keeper.bring < 7 then
        ({ s with keeper := { s.keeper with capPend := some (clampCap w.toNat) } } : State)
      else { s with pwr := { s.pwr with keeperCap := clampCap w.toNat } }).keeperAccept := if_neg (by simp [hup])
  by_cases hbring : s.keeper.bring < 7
  · rw [if_pos hbring] at hx
    exact .of_changes hx fun _ => ⟨rfl, fun h => absurd hbring (by omega), fun _ => ⟨rfl, rfl⟩, rfl⟩
  · rw [if_neg hbring] at hx
    exact .of_changes hx fun _ => ⟨rfl, fun _ => ⟨rfl, rfl⟩, fun h => absurd h hbring, rfl⟩

theorem withdrawn_refuses (s : State) (c : Instr) (hup : s.keeperUp = true) (hwd : s.keeper.withdrawn = true)
    (hc : c = .keeperShutter ∨ c = .keeperWake ∨ c = .keeperDrain ∨ (∃ l h r k, c = .adoptLeid l h r k)) :
    Completes c s fun t => ∃ n, t.out = s.out ++ [.keeperAnswer false n] ∧
      t = { s with out := t.out, free := t.free, host := { s.host with changes := t.host.changes } } := by
  have hgo : ¬ (!s.keeperUp) = true := by simp [hup]
  have hx : exec c s = s.ok s.keeperRefuse := by
    obtain rfl | rfl | rfl | ⟨l, h, r, k, rfl⟩ := hc
    · exact (if_neg hgo).trans (if_pos hwd)
    · exact (if_neg hgo).trans (if_pos hwd)
    · exact (if_neg hgo).trans (if_pos hwd)
    · exact (if_neg hgo).trans (if_pos (by simp [hwd]))
  exact .of_changes hx fun _ => ⟨_, rfl, rfl⟩

theorem drain_commits (s : State) (hup : s.keeperUp = true) (hwd : s.keeper.withdrawn = false)
    (hidle : ∀ c, (s.bctx c).live = false) :
    Completes .keeperDrain s fun t =>
      t.prog.runReq = true ∧ t.keeper.drained = true ∧
      t.reg pgProgram 0x040 = s.reg pgProgram 0x040 &&& ~~~1 ∧ (t.bctx 4).st = .committed ∧
      t.out = s.out ++ [.keeperAnswer true 0] ∧ t.prog.pst = s.prog.pst := by
  let w : Staged := { page := pgProgram, off := 0x040, val := s.reg pgProgram 0x040 &&& ~~~1, slot := 0 }
  obtain ⟨u, hu, hown, -, -, hout, -, hst, hsame⟩ := internal_one 4 hidle w
    (show (0x040 : Nat) ≠ 0x054 by decide) (show Plain pgProgram 0x040 from ⟨rfl, by decide, by decide, by decide⟩)
  have hx : execKeeperDrain s = s.ok ({ u with
      keeper := { u.keeper with drained := true }, prog := { u.prog with runReq := true } } : State).keeperAccept := by
    rw [execKeeperDrain, if_neg (by simp [hup]), if_neg (by simp [hwd])]
    dsimp only
    rw [hu]
  have hpst : u.prog.pst = s.prog.pst := (congrArg (·.prog.pst) hsame.frame :)
  exact .of_changes hx fun _ => ⟨rfl, rfl, hown, hst, congrArg (· ++ [OutMsg.keeperAnswer true 0]) hout, hpst⟩

/-! ### Adoption -/

/-- An adoption ends: its state, and the SHUTTER that was held. -/
theorem adoptEnd_ends (s : State) (cause : Byte) :
    let t := s.adoptEnd .adopted cause
    t.keeper.ast = .adopted ∧ t.keeper.place = s.keeper.place ∧ t.keeper.adopt = none ∧ t.regs = s.regs ∧
    t.out = s.out ∧ t.counter pgAddress 1 = s.counter pgAddress 1 + 1 := by
  let a : State := { s with keeper :=
    { s.keeper with ast := .adopted, afail := cause, adopt := none, held := false } }
  have hu : s.adoptEnd .adopted cause = if s.keeper.held then (a.count pgAddress 1).setLatch true
      else a.count pgAddress 1 := rfl
  have hcount : (a.count pgAddress 1).counter pgAddress 1 = s.counter pgAddress 1 + 1 := count_counter_same a
  have hsame : SameBut [.progRest, .shut] (a.count pgAddress 1) ((a.count pgAddress 1).setLatch true) := by
    simp [SameBut, among]
  have hkeeper : ((a.count pgAddress 1).setLatch true).keeper = a.keeper := (congrArg State.keeper hsame.frame :)
  have hregs : ((a.count pgAddress 1).setLatch true).regs = s.regs := (congrArg State.regs hsame.frame :)
  have hout : ((a.count pgAddress 1).setLatch true).out = s.out := (congrArg State.out hsame.frame :)
  have hcnt : ((a.count pgAddress 1).setLatch true).counter pgAddress 1 = (a.count pgAddress 1).counter pgAddress 1 :=
    counter_of_mask (s := a.count pgAddress 1) (by simp) _ _
  dsimp only
  rw [hu]
  split
  · rw [hkeeper, hcnt]
    exact ⟨rfl, rfl, rfl, hregs, hout, hcount⟩
  · exact ⟨rfl, rfl, rfl, rfl, rfl, hcount⟩

/-- An adoption that has not to wait commits its LEID and ends. -/
theorem adoptLeidCommit_ends (s : State) (l : BitVec 20) (hidle : ∀ c, (s.bctx c).live = false)
    (hl : leidOk l = true) (hloc : s.keeper.locValid = true) (hrun : s.running = false)
    (hload : s.regField pgAddress 0x04C 0 0 = 0) :
    let t := s.adoptLeidCommit l
    t.keeper.ast = .adopted ∧ t.keeper.place = s.keeper.place ∧ t.keeper.adopt = none ∧
    t.reg pgAddress 0x044 = l.zeroExtend 32 ∧ t.out = s.out ∧ t.counter pgAddress 1 = s.counter pgAddress 1 + 1 := by
  let w : Staged := { page := pgAddress, off := 0x044, val := l.zeroExtend 32, slot := 0 }
  obtain ⟨u, hu, hown, hreg, hcounter, hout, -, hst, hsame⟩ := internal_one 4 hidle w
    (show (0x044 : Nat) ≠ 0x054 by decide) (show Plain pgAddress 0x044 from ⟨rfl, by decide, by decide, by decide⟩)
  have hkeeper : u.keeper = s.keeper := (congrArg State.keeper hsame.frame :)
  have hrule : s.leidRule w = true := by
    have hval : w.val.extractLsb' 0 20 = l := by
      ext i hi
      simp only [w, BitVec.getElem_extractLsb', Nat.zero_add]
      rw [BitVec.getLsbD_setWidth, ← BitVec.getLsbD_eq_getElem]
      simp [show i < 32 by omega]
    rw [State.leidRule, hval, hrun, hl, hloc]
    exact Bool.or_true _
  have hnoload : u.regField pgAddress 0x04C 0 0 = 0 := by
    have hsel : u.reg pgAddress 0x04C = s.reg pgAddress 0x04C :=
      hreg _ _ ⟨rfl, by decide, by decide, by decide⟩ (show regKey pgAddress 0x04C ≠ regKey pgAddress 0x044 by decide)
    rw [State.regField, hsel]
    exact hload
  obtain ⟨b, hb⟩ : ∃ b, (u.keeper.leidReq || s.changes w) = b := ⟨_, rfl⟩
  let a : State := { u with keeper := { u.keeper with adopt := none, leidReq := b } }
  have hcommit : s.adoptLeidCommit l = a.adoptEnd .adopted a.keeper.afail := by
    have hsel : ¬ a.regField pgAddress 0x04C 0 0 = 1 := by
      have hregs : a.regField pgAddress 0x04C 0 0 = u.regField pgAddress 0x04C 0 0 := rfl
      rw [hregs, hnoload]
      decide
    have hdone : ¬ ((u.bctx 4).st != .committed) = true := by
      rw [hst]
      decide
    rw [State.adoptLeidCommit, if_neg (by rw [hrule]; decide)]
    dsimp only
    rw [hu, if_neg hdone, hb, if_neg hsel]
  obtain ⟨hast, hplace, hadopt, hregs, hmsg, hcount⟩ := adoptEnd_ends a a.keeper.afail
  have haplace : a.keeper.place = s.keeper.place := (congrArg Keeper.place hkeeper :)
  have hacount : a.counter pgAddress 1 = s.counter pgAddress 1 := hcounter _ _ (by decide) (by decide)
  have hareg : a.reg pgAddress 0x044 = l.zeroExtend 32 := hown
  have haout : a.out = s.out := hout
  dsimp only
  rw [hcommit]
  refine ⟨hast, hplace.trans haplace, hadopt, ?_, hmsg.trans haout, by rw [hcount, hacount]⟩
  rw [State.reg, hregs]
  exact hareg

theorem leid_adopted (s : State) (l : BitVec 20) (h : BitVec 2) (r k : BitVec 6) (hup : s.keeperUp = true)
    (hwd : s.keeper.withdrawn = false) (hloc : s.keeper.locValid = true) (hidle : s.keeper.adopting = false)
    (hl : leidOk l = true) (hawake : s.shut.st = .awake) :
    (s.running = true → Gives (.adoptLeid l h r k) s
      (({ s with keeper := { s.keeper with place := h ++ r ++ k, ast := .waking, afail := 0, adopt := some l } } :
        State).emit (.keeperAnswer true 0))) ∧
    (s.running = false → (∀ c, (s.bctx c).live = false) → s.regField pgAddress 0x04C 0 0 = 0 →
      Completes (.adoptLeid l h r k) s fun t =>
        t.keeper.ast = .adopted ∧ t.keeper.place = h ++ r ++ k ∧ t.keeper.adopt = none ∧
        t.reg pgAddress 0x044 = l.zeroExtend 32 ∧ t.out = s.out ++ [.keeperAnswer true 0] ∧
        t.counter pgAddress 1 = s.counter pgAddress 1 + 1) := by
  let a : State := ({ s with keeper := { s.keeper with place := h ++ r ++ k, ast := .waking, afail := 0, adopt := some l } } :
    State).emit (.keeperAnswer true 0)
  have hx : execAdoptLeid l h r k s = s.ok a.adoptGo := by
    have hst : (({ s with keeper := { s.keeper with place := h ++ r ++ k, ast := .waking, afail := 0, adopt := some l } } :
        State).shut.st == .awake) = true := by simp [hawake]
    rw [execAdoptLeid, if_neg (by simp [hup]), if_neg (by simp [hwd, hloc, hidle, hl])]
    dsimp only
    rw [if_pos hst]
    rfl
  have hast : a.shut.st = .awake := hawake
  have hgo : a.adoptGo = if a.running then a else a.adoptLeidCommit l := by
    have hadopt : a.keeper.adopt = some l := rfl
    unfold State.adoptGo
    rw [hadopt]
    simp [hast]
  have hrunning : a.running = s.running := rfl
  rw [hgo, hrunning] at hx
  constructor
  · intro hrun
    rw [hrun] at hx
    exact .of_ok hx
  · intro hrun hlive hload
    obtain ⟨hend, hplace, hnone, hreg, hout, hcount⟩ := adoptLeidCommit_ends a l hlive hl hloc hrun hload
    rw [hrun] at hx
    simp only [Bool.false_eq_true, if_false] at hx
    obtain ⟨u, hu⟩ : ∃ u, a.adoptLeidCommit l = u := ⟨_, rfl⟩
    rw [hu] at hx hend hplace hnone hreg hout hcount
    exact .of_changes hx fun _ => ⟨hend, hplace, hnone, hreg, hout, hcount⟩

/-! ### A committed LEID -/

theorem failWalk_six (s : State) (d e o n : Nat) : s.failWalk d e 6 o n =
    ((s.noteFail d e 6 o).setFetch d e { s.fetch d e with fails := (s.fetch d e).fails + 1 }).fetchLost d e :=
  if_pos (by simp)

/-- What the walks of a flow leave alone that are lost with it. -/
theorem failFlow_lost {M : Part → Bool} (hM : Allows M [.regs, .cnt, .breaches, .weights]) (s : State) (d f : Nat) :
    (s.failFlow d f 6).mask M = s.mask M := by
  simp at hM
  refine mask_forEach (fun t e => ?_) _ _
  dsimp only
  split
  · rw [failWalk_six]
    simp [hM]
  · rfl

theorem breach_counter (s : State) (code d stall agent index : Nat) {q j : Nat} (h : 4 * q + j ≠ 4 * pgProgram + 2) :
    (s.breach code d stall agent index).counter q j = s.counter q j := by
  unfold State.breach
  dsimp only
  split
  · rfl
  · rfl
  · exact count_counter_other s h
  · rfl

theorem fetchLost_counter (s : State) (d e : Nat) {q j : Nat} (h : 4 * q + j ≠ 4 * pgProgram + 2) :
    (s.fetchLost d e).counter q j = s.counter q j := by
  unfold State.fetchLost
  dsimp only
  split
  · rfl
  · exact breach_counter _ _ _ _ _ _ h

/-- What each turn of a loop keeps, the loop keeps. -/
theorem forEach_keeps {α β : Type} {f : State → α → State} (g : State → β) (hf : ∀ t e, g (f t e) = g t) (l : List α)
    (s : State) : g (s.forEach l f) = g s := by
  induction l generalizing s with
  | nil => rfl
  | cons e r ih => exact (ih (f s e)).trans (hf s e)

theorem failFlow_counter (s : State) (d f : Nat) {q j : Nat} (h : 4 * q + j ≠ 4 * pgProgram + 2) :
    (s.failFlow d f 6).counter q j = s.counter q j := by
  unfold State.failFlow
  refine forEach_keeps (fun t => t.counter q j) (fun t e => ?_) _ s
  dsimp only
  split
  · rw [failWalk_six, fetchLost_counter _ d e h]
    rw [State.counter, setFetch_cnt, State.noteFail, poke_cnt, State.counter]
  · rfl

theorem closeSlot_counter (s : State) (p : Die) (f : Nat) {q j : Nat} (h : q < pgWale 0) (hj : j < 4)
    (hne : 4 * q + j ≠ 4 * pgPort p + 0) : (s.closeSlot p f 0 6).counter q j = s.counter q j := by
  unfold State.closeSlot
  dsimp only
  split
  · rfl
  · exact sendFrame_counter _ _ _ _ h hj hne

theorem hostClose_counter (s : State) (p : Die) (f : Nat) :
    (s.hostClose p f 0 6).counter pgAddress 0 = s.counter pgAddress 0 := by
  unfold State.hostClose
  dsimp only
  split
  · refine (failFlow_counter _ p f (by decide)).trans (closeSlot_counter s p f (by decide) (by decide) ?_)
    unfold pgAddress pgPort
    omega
  · rfl

theorem hostClose_mask {M : Part → Bool} (hM : Allows M [.out, .free, .regs, .cnt, .breaches, .weights, .flows])
    (s : State) (p f : Nat) : (s.hostClose p f 0 6).mask M = s.mask M := by
  simp at hM
  unfold State.hostClose
  dsimp only
  split
  · rw [failFlow_lost (by simp [hM])]
    simp [hM]
  · rfl

/-- The state of a slot that the host closes. -/
def FlSt.closed (x : FlSt) : FlSt := if x = .free then .free else .closing

theorem flow_key_ne {p f q g : Nat} (hf : f < 1024) (hg : g < 1024) (h : ¬ (q = p ∧ g = f)) :
    1024 * q + g ≠ 1024 * p + f := by omega

theorem closeSlot_flow_other (s : State) {p f q g : Nat} (reason : Byte) (cause : BitVec 4) (hf : f < 1024)
    (hg : g < 1024) (h : ¬ (q = p ∧ g = f)) : (s.closeSlot p f reason cause).flow q g = s.flow q g := by
  have hset (x : Flow) : (s.setFlow p f x).flow q g = s.flow q g := SMap.get_set_other _ _ _ (flow_key_ne hf hg h)
  have hsend (t : State) : (t.sendClose p f reason).flow q g = t.flow q g :=
    flow_of_mask (mask_sendV0 (by simp) _ _ _ _ _) q g
  simp only [State.closeSlot]
  split
  · exact hset _
  · exact (hsend _).trans (hset _)

theorem FlSt.closed_closed (x : FlSt) : x.closed.closed = x.closed := by cases x <;> rfl

theorem hostClose_st (s : State) {p f q g : Nat} (hf : f < 1024) (hg : g < 1024) :
    ((s.hostClose p f 0 6).flow q g).st = if q = p ∧ g = f then (s.flow q g).st.closed else (s.flow q g).st := by
  have hx : s.hostClose p f 0 6 = if (s.flow p f).st == .open || (s.flow p f).st == .opening then
      (s.closeSlot p f 0 6).failFlow p f 6 else s := rfl
  have hfail : ((s.closeSlot p f 0 6).failFlow p f 6).flow q g = (s.closeSlot p f 0 6).flow q g :=
    failFlow_flow _ _ _ _ _ _
  rw [hx]
  by_cases hslot : q = p ∧ g = f
  · rw [if_pos hslot]
    obtain ⟨rfl, rfl⟩ := hslot
    split
    · next hlive =>
      rw [hfail, closeSlot_flow]
      cases hst : (s.flow q g).st with
      | free => simp [hst] at hlive
      | _ => rfl
    · next hidle =>
      cases hst : (s.flow q g).st with
      | free => rfl
      | closing => rfl
      | _ => simp [hst] at hidle
  · rw [if_neg hslot]
    split
    · rw [hfail, closeSlot_flow_other s 0 6 hf hg hslot]
    · rfl

/-- Every slot of a list of dies and a list of numbers is closed. -/
def State.closeFlows (s : State) (ds fs : List Nat) : State :=
  s.forEach ds fun t p => t.forEach fs fun u f => u.hostClose p f 0 6

theorem closeFlows_mask {M : Part → Bool} (hM : Allows M [.out, .free, .regs, .cnt, .breaches, .weights, .flows])
    (s : State) (ds fs : List Nat) : (s.closeFlows ds fs).mask M = s.mask M :=
  mask_forEach (fun t p => mask_forEach (fun u f => hostClose_mask hM u p f) fs t) ds s

theorem closeFlows_counter (s : State) {ds : List Nat} (fs : List Nat) (hds : ∀ p ∈ ds, p < 64) :
    (s.closeFlows ds fs).counter pgAddress 0 = s.counter pgAddress 0 := by
  have hrow (p : Nat) (hp : p < 64) (l : List Nat) (t : State) :
      (t.forEach l fun u f => u.hostClose p f 0 6).counter pgAddress 0 = t.counter pgAddress 0 := by
    induction l generalizing t with
    | nil => rfl
    | cons f r ih => exact (ih _).trans (hostClose_counter t ⟨p, hp⟩ f)
  induction ds generalizing s with
  | nil => rfl
  | cons p r ih =>
    exact (ih _ (fun q hq => hds q (List.mem_cons_of_mem _ hq))).trans (hrow p (hds p List.mem_cons_self) fs s)

theorem closeFlows_st (s : State) {q g : Nat} (hg : g < 1024) (ds : List Nat) {fs : List Nat}
    (hfs : ∀ f ∈ fs, f < 1024) :
    ((s.closeFlows ds fs).flow q g).st = if q ∈ ds ∧ g ∈ fs then (s.flow q g).st.closed else (s.flow q g).st := by
  have hrow (p : Nat) (l : List Nat) (hl : ∀ f ∈ l, f < 1024) (t : State) :
      ((t.forEach l fun u f => u.hostClose p f 0 6).flow q g).st =
        if q = p ∧ g ∈ l then (t.flow q g).st.closed else (t.flow q g).st := by
    induction l generalizing t with
    | nil => simp [State.forEach]
    | cons f r ih =>
      have hstep := hostClose_st t (q := q) (p := p) (hl f List.mem_cons_self) hg
      refine (ih (fun k hk => hl k (List.mem_cons_of_mem _ hk)) (t.hostClose p f 0 6)).trans ?_
      rw [hstep]
      by_cases hp : q = p
      · by_cases hf : g = f
        · simp [hp, hf, FlSt.closed_closed]
        · simp [hp, hf]
      · simp [hp]
  induction ds generalizing s with
  | nil => simp [State.closeFlows, State.forEach]
  | cons p r ih =>
    refine (ih (s.forEach fs fun u f => u.hostClose p f 0 6)).trans ?_
    rw [hrow p fs hfs s]
    by_cases hp : q = p
    · by_cases hin : g ∈ fs
      · simp [hp, hin, FlSt.closed_closed]
      · simp [hin]
    · simp [hp]

theorem leid_committed (s : State) (hreq : s.keeper.leidReq = true) :
    Completes .leidCommit s fun t =>
      t.weights.keys = [] ∧ t.sec.offers = [] ∧ t.keeper.leidReq = false ∧
      t.keeper.memberGen = s.keeper.memberGen + 1 ∧ t.counter pgAddress 0 = s.counter pgAddress 0 + 1 ∧
      t.out.getLast? = some .earlyClose ∧
      (∀ p f, p < 64 → f < 1024 → (t.flow p f).st = if (s.flow p f).st = .free then .free else .closing) ∧
      t.prog.pst = s.prog.pst ∧ t.mem = s.mem := by
  have hst (p f : Nat) (hp : p < 64) (hf : f < 1024) :
      ((s.closeFlows allDies (List.range 1024)).flow p f).st = (s.flow p f).st.closed :=
    (closeFlows_st s hf allDies (fun k hk => List.mem_range.mp hk)).trans
      (if_pos ⟨List.mem_range.mpr hp, List.mem_range.mpr hf⟩)
  have hcnt := closeFlows_counter s (List.range 1024) (ds := allDies) (fun p hp => List.mem_range.mp hp)
  have hsame : SameBut [.out, .free, .regs, .cnt, .breaches, .weights, .flows] s
      (s.closeFlows allDies (List.range 1024)) := closeFlows_mask (by simp [among]) s _ _
  have hx : ∀ u, s.closeFlows allDies (List.range 1024) = u → execLeidCommit s = s.ok ((({ u.eraseAllKeys with
      keeper := { u.keeper with leidReq := false, memberGen := u.keeper.memberGen + 1 }
      sec := { u.sec with offers := [] } } : State).count pgAddress 0).emit .earlyClose) := by
    intro u hu
    unfold State.closeFlows at hu
    rw [execLeidCommit, if_neg (by simp [hreq])]
    dsimp only
    rw [hu]
  obtain ⟨u, hu⟩ : ∃ u, s.closeFlows allDies (List.range 1024) = u := ⟨_, rfl⟩
  simp only [hu] at hst
  rw [hu] at hcnt hsame
  have hgen : u.keeper.memberGen = s.keeper.memberGen := (congrArg (·.keeper.memberGen) hsame.frame :)
  have hpst : u.prog.pst = s.prog.pst := (congrArg (·.prog.pst) hsame.frame :)
  have hmem : u.mem = s.mem := (congrArg State.mem hsame.frame :)
  have hgo := hx u hu
  obtain ⟨v, hv⟩ : ∃ v, ({ u.eraseAllKeys with
      keeper := { u.keeper with leidReq := false, memberGen := u.keeper.memberGen + 1 }
      sec := { u.sec with offers := [] } } : State) = v := ⟨_, rfl⟩
  have hparts : v.weights.keys = [] ∧ v.sec.offers = [] ∧ v.keeper.leidReq = false ∧
      v.keeper.memberGen = u.keeper.memberGen + 1 ∧ v.cnt = u.cnt ∧ v.flows = u.flows ∧ v.prog = u.prog ∧
      v.mem = u.mem := by
    rw [← hv]
    exact ⟨rfl, rfl, rfl, rfl, rfl, rfl, rfl, rfl⟩
  obtain ⟨hkeys, hoffers, hleid, hmember, hvcnt, hvflows, hvprog, hvmem⟩ := hparts
  rw [hv] at hgo
  have hcount : (v.count pgAddress 0).counter pgAddress 0 = s.counter pgAddress 0 + 1 := by
    rw [count_counter_same, State.counter, hvcnt]
    exact congrArg (· + 1) hcnt
  have hvst (p f : Nat) (hp : p < 64) (hf : f < 1024) : (v.flow p f).st = (s.flow p f).st.closed := by
    rw [State.flow, hvflows]
    exact hst p f hp hf
  have hlast : (v.out ++ [OutMsg.earlyClose]).getLast? = some .earlyClose := List.getLast?_concat ..
  refine .of_changes hgo fun _ => ⟨hkeys, hoffers, hleid, hmember.trans (congrArg (· + 1) hgen), hcount, hlast, ?_,
    (congrArg Prog.pst hvprog).trans hpst, hvmem.trans hmem⟩
  exact hvst

/-- Settles O55: location, LEID and the commands of the controller tree. -/
theorem treeCommandsAct : Obligations.TreeCommandsAct := by
  refine ⟨ga_sampled, leid_committed, fun s hup hwd hidle => ?_, fun s hup hwd hadopt => ?_, fun s hup hwd => ?_,
    withdrawn_refuses, cap_taken, drain_commits, fun s n hup => ?_, fun s hled => .of_ok (if_pos hled), leid_adopted,
    fun s hadopt => .of_ok (if_pos hadopt)⟩
  · have hx : execKeeperShutter s = s.ok (s.setLatch true).keeperAccept := by
      rw [execKeeperShutter, if_neg (by simp [hup]), if_neg (by simp [hwd]), if_neg (by simp [hidle])]
    exact .of_ok hx
  · have hx : execKeeperShutter s =
        s.ok ({ s with keeper := { s.keeper with held := true } } : State).keeperAccept := by
      rw [execKeeperShutter, if_neg (by simp [hup]), if_neg (by simp [hwd]), if_pos hadopt]
    exact .of_ok hx
  · have hx : execKeeperWake s = s.ok (s.setLatch false).keeperAccept := by
      rw [execKeeperWake, if_neg (by simp [hup]), if_neg (by simp [hwd])]
    exact .of_ok hx
  · have hx : execIdentify n s = s.ok { s with
        pins := { s.pins with idLed := n != 0 }
        out := s.out ++ [.identity s.identityBytes, .keeperAnswer true 0] } := by
      rw [execIdentify, if_neg (by simp [hup])]
      simp only [State.keeperAccept, State.emit, List.append_assoc]
      rfl
    exact .of_ok hx

end Sys2Proof.Machine
end


section

/-! SUPPORT. The refutation of O52: bytes of an image that waits to be loaded. -/

namespace Sys2Proof.Machine

/-- Bytes that all lie in the image of a program are not written (R475). -/
theorem storeBytes_of_image (s : State) (src k : Nat) (l : List Byte)
    (hmeet : s.imageRanges.any (fun r => decide (k < r.2 ∧ r.1 < k + l.length)) = true)
    (hin : ∀ i, i < l.length → s.imageRanges.any (fun r => decide (r.1 ≤ k + i ∧ k + i < r.2)) = true) :
    s.storeBytes src k l = s := by
  have hkeep : ∀ (m : List (Byte × Nat)) (t : State), (∀ e ∈ m, e.2 < l.length) →
      m.foldl (fun t e => if s.imageRanges.any fun r => decide (r.1 ≤ k + e.2 ∧ k + e.2 < r.2) then t
        else t.writeBytes src (k + e.2) [e.1]) t = t := by
    intro m
    induction m with
    | nil => exact fun _ _ => rfl
    | cons e m ih =>
      intro t hm
      rw [List.foldl_cons, if_pos (hin e.2 (hm e List.mem_cons_self))]
      exact ih t fun e' he => hm e' (List.mem_cons_of_mem _ he)
  refine (if_pos hmeet).trans (hkeep _ s fun e he => ?_)
  simpa using List.snd_lt_of_mem_zipIdx he

/-- A write of the aperture whose bytes are kept from memory leaves memory as it was. -/
theorem apertureWrite_mem_of_kept {s t : State} {o : BitVec 36} {l : List Byte} (hlink : s.host.linkUp = true)
    (hd3 : s.host.d3hot = false) (hrange : s.aperRange (s.aperAddr o.toNat) l.length = true)
    (hkept : s.aperStore (s.aperAddr o.toNat) l = s) (ht : exec (.apertureWrite o l) s = .next t) : t.mem = s.mem := by
  have hx : exec (.apertureWrite o l) s = execApertureWrite o l s := rfl
  rw [hx, execApertureWrite, if_neg (by simp [hlink, hd3])] at ht
  dsimp only at ht
  rw [if_neg (by simp [hrange]), hkept] at ht
  obtain rfl := Host.Outcome.next.inj ht
  rw [finish_mem]
  split <;> split <;> rfl

/-- No program is applied, and a LOAD waits whose directory lies at address 0 of die 0. -/
def loadWaitsState : State :=
  let s := State.reset.setDie 0 { DieSt.reset with st := .on, trained := true }
  { s with prog := { s.prog with loadReq := true, loadDir := 0 }, host := { s.host with linkUp := true } }

theorem mem_imageRanges_of_loadReq {s : State} (h : s.prog.loadReq = true) :
    (s.prog.loadDir.toNat, s.prog.loadDir.toNat + 512) ∈ s.imageRanges := by
  simp [State.imageRanges, State.imageSpan, h]

/-- An aligned write of eight bytes, in the image of a LOAD that waits, stores nothing. -/
theorem aperStore_of_loadReq {s : State} (h : s.prog.loadReq = true) (hdir : s.prog.loadDir = 0)
    (hres : s.resolve 0 = some 0) : s.aperStore 0 (List.replicate 8 1) = s := by
  have hmem : (0, 512) ∈ s.imageRanges := by
    simpa [hdir] using mem_imageRanges_of_loadReq h
  have hstore : s.storeBytes srcAperture 0 (List.replicate 8 1) = s :=
    storeBytes_of_image _ _ _ _ (List.any_eq_true.mpr ⟨_, hmem, by decide⟩) fun i hi =>
      List.any_eq_true.mpr ⟨_, hmem, by
        rw [List.length_replicate] at hi
        exact decide_eq_true ⟨by omega, by omega⟩⟩
  have hwords : wordsOf 0 (List.replicate 8 (1 : Byte)).length = [0] := by decide
  have hbytes : bytesIn 0 (List.replicate 8 1) 0 = (List.range 8).map fun i => (i, 1) := by decide
  rw [State.aperStore, hwords, List.foldl_cons, List.foldl_nil, hbytes, Nat.mul_zero, hres]
  exact hstore

/-- Refutes O52: its last clause says that an aligned write of eight bytes reaches memory where no program is applied.
The bytes of an image whose LOAD waits are kept from the aperture too (R475), and with no program applied a LOAD may
wait: the write is counted as one without effect, and memory keeps its zeros. -/
theorem not_scrubberAndAperture : ¬ Obligations.ScrubberAndAperture := by
  rintro ⟨-, -, -, -, -, -, -, -, hwrite⟩
  have hrange : loadWaitsState.aperRange 0 8 = true := by decide
  obtain ⟨t, ht, hbyte, -⟩ := (hwrite loadWaitsState 0 (List.replicate 8 1) 0 rfl rfl).2 hrange rfl rfl
    (by decide) rfl
  have hmem : t.mem = loadWaitsState.mem := apertureWrite_mem_of_kept (o := 0) (l := List.replicate 8 1) rfl rfl
    hrange (aperStore_of_loadReq rfl rfl (by decide)) ht
  have hzero : t.readByte 0 = (0, false) := by
    have hempty : t.mem = State.reset.mem := hmem
    simp only [State.readByte, State.peek, State.eccClass, State.wordPoison, State.wordUpsets, State.wordData, hempty]
    rfl
  have hone : t.readByte 0 = (1, false) := hbyte 0 (by decide)
  exact absurd (hzero.symm.trans hone) (by decide)

end Sys2Proof.Machine
end


section

/-! SUPPORT. The refutation of O34: a walk without a key copies its item from a neighbour. -/

namespace Sys2Proof.Machine

/-! ### Poison stays where only poisoned words are written -/

theorem wordPoison_of_mask {s t : State} (h : t.mask (allBut .mem) = s.mask (allBut .mem)) (w : Nat) :
    t.wordPoison w = s.wordPoison w := congrArg (fun m : Mem => SMap.get false m.poison w) (mem_of_mask h)

theorem putWord_keeps_poison {s : State} {w u : Nat} {v : MWord} (hv : v.poison = true) (h : s.wordPoison w = true) :
    (s.putWord u v).wordPoison w = true := by
  by_cases hw : w = u
  · rw [hw, putWord_wordPoison, hv]
  · rw [putWord_wordPoison_other s v hw, h]

theorem writeWords_keeps_poison {s : State} {w : Nat} (k : Nat) {v : MWord} (hv : v.poison = true)
    (h : s.wordPoison w = true) : (s.writeWords k [v]).wordPoison w = true := by
  rw [State.writeWords, wordPoison_of_mask (mask_noteBytes (by simp) _ _ _ _)]
  exact putWord_keeps_poison hv h

theorem storeWords_keeps_poison {s : State} {w : Nat} (k : Nat) {v : MWord} (hv : v.poison = true)
    (h : s.wordPoison w = true) : (s.storeWords k [v]).wordPoison w = true := by
  unfold State.storeWords
  simp only [List.zipIdx_singleton, List.foldl_cons, List.foldl_nil]
  split
  · split
    · exact h
    · exact writeWords_keeps_poison _ hv h
  · exact writeWords_keeps_poison _ hv h

/-- The copies of a word in the places of a list. -/
theorem storeCopies_keeps_poison {w : Nat} {v : MWord} (hv : v.poison = true) (l : List Nat) :
    ∀ s : State, s.wordPoison w = true → (l.foldl (fun u k => u.storeWords k [v]) s).wordPoison w = true := by
  induction l with
  | nil => exact fun _ h => h
  | cons k r ih => exact fun s h => ih _ (storeWords_keeps_poison k hv h)

theorem fetchWrite_keeps_poison {s : State} {w : Nat} (d e o : Nat) {v : MWord} (hv : v.poison = true)
    (h : s.wordPoison w = true) : (s.fetchWrite d e o [v]).wordPoison w = true := by
  unfold State.fetchWrite
  dsimp only
  rw [wordPoison_of_mask (mask_fetchComplete (by simp) _ _ _ _)]
  exact storeCopies_keeps_poison hv _ s h

/-- A read of a word that cannot be corrected poisons it. -/
theorem noteReads_poisons {s : State} (src : Nat) {w : Nat} (hp : s.wordPoison w = false) (hc : s.eccClass w = 3) :
    (s.noteReads src (8 * w) 8).wordPoison w = true := by
  have hwords : wordsOf (8 * w) 8 = [w] := by
    have h : (8 * w + 8 - 1) / 8 + 1 - 8 * w / 8 = 1 := by omega
    have hw : 8 * w / 8 = w := by omega
    rw [wordsOf, if_neg (by decide), h, hw]
    rfl
  rw [State.noteReads, wordPoison_of_mask (mask_noteBytes (by simp) _ _ _ _), hwords]
  simp only [List.foldl_cons, List.foldl_nil, State.noteRead, hp, hc]
  exact (wordPoison_of_mask (mask_raise (by simp) _ _ _) w).trans (putWord_wordPoison _ _ _)

/-- A copy of one word that cannot be corrected leaves it poisoned. -/
theorem fetchCopy_poisons {s : State} (d e n : Nat) {w : Nat} (hp : s.wordPoison w = false) (hc : s.eccClass w = 3)
    (hoff : (s.stream d 72 (feStream (s.feCtl d e))).offset 0 = 0) :
    (s.fetchCopy d e n (8 * w) 0 8).wordPoison w = true := by
  let x := s.stream d 72 (feStream (s.feCtl d e))
  let k := (((8 * w : Nat) : Int) + x.offset (0 / max 1 x.size) + (0 % max 1 x.size : Nat)).toNat
  have hk : k = 8 * w := by
    unfold k
    rw [Nat.zero_div, Nat.zero_mod, show x.offset 0 = 0 from hoff]
    omega
  have hword : (s.peek (k / 8)).poison = true := by
    rw [hk, Nat.mul_div_cancel_left w (by decide)]
    simp [State.peek, hp, hc]
  have hread := noteReads_poisons (s := s) srcStream hp hc
  have htraffic (t : State) (h : t.wordPoison w = true) :
      (((t.count (pgMesh n) 1 8).fetchWrite d e 0 [s.peek (k / 8)]).incSat (pgDecrypt d) 0x054).wordPoison w = true := by
    rw [wordPoison_of_mask (mask_incSat (by simp) _ _ _ _)]
    exact fetchWrite_keeps_poison d e 0 hword ((wordPoison_of_mask (mask_count (by simp) _ _ _ _) w).trans h)
  unfold State.fetchCopy
  cases waleOf n d with
  | none => exact htraffic _ hread
  | some v => exact htraffic _ ((wordPoison_of_mask (mask_waleTraffic (by simp) _ v 8) w).trans hread)

/-- A walk whose item a neighbour holds copies it (R241). -/
theorem failWalk_copies {s : State} {d e n k : Nat} (cause o len : Nat) (hfails : (s.fetch d e).fails = 0)
    (hcause : cause ≠ 6) (hopen : s.fetchFlowOpen d e = true) (hform : feFormIs (s.feCtl d e) 0 = true) :
    let s1 := (s.noteFail d e cause o).setFetch d e { s.fetch d e with fails := (s.fetch d e).fails + 1 }
    s1.fetchHolder d e = some (n, k) → s.failWalk d e cause o len = s1.fetchCopy d e n k o len := by
  intro s1 hholder
  rw [State.failWalk, if_neg (by simp [hfails, hcause, hopen]), if_pos hform, hholder]

/-! ### The state -/

/-- The word of die 1 that holds the item of the walk. -/
def heldWord : Nat := 2 ^ 39 + 2 ^ 37

/-- Die 0 waits for a WEAVE walk whose key slot is erased, and a round slot of die 1, its neighbour on the path, holds
the item; the item's first word cannot be corrected. -/
def neighbourHoldsState : State :=
  let s := ((((State.reset.poke (pgDecrypt 0) 0x100 0x80000000).poke (pgRound 1) 0x060 0x100).setFetch 0 0
    { Fetch.reset with due := true, st := .fetching, wver := 1, reqLen := 8 }).setFlow 0 0
    { Flow.reset with st := .open }).setPort 0 { Port.reset with st := .on, link := 3 }
  let s1 := (s.setDie 1 { DieSt.reset with st := .on }).setStream 1 72 0 { Stream.reset with desc := [0, 0, 0x100000] }
  { s1 with
    rounds := { s1.rounds with path := [0, 1] }
    weights := { s1.weights with tags := [(8 * heldWord, some { keyId := 0, shard := 0, version := 1 })] }
    mem := { s1.mem with upsets := [(heldWord, 3)] } }

/-- The state in which the walk has failed for want of its key. -/
def keylessWalkState : State :=
  let s := neighbourHoldsState.setFetch 0 0
    { Fetch.reset with st := .fetching, wver := 1, reqLen := 8 }
  (s.noteFail 0 0 7 0).setFetch 0 0 { s.fetch 0 0 with fails := 1 }

theorem keylessWalkState_holder : keylessWalkState.fetchHolder 0 0 = some (1, 8 * heldWord) := by decide

theorem fetchSend_neighbourHoldsState : exec (.fetchSend 0 0) neighbourHoldsState =
    neighbourHoldsState.ok (keylessWalkState.fetchCopy 0 0 1 (8 * heldWord) 0 8) := by
  let s := neighbourHoldsState.setFetch 0 0 { Fetch.reset with st := .fetching, wver := 1, reqLen := 8 }
  have hx : execFetchSend 0 0 neighbourHoldsState = neighbourHoldsState.ok (s.failWalk 0 0 7 0 8) := by
    rw [execFetchSend, if_neg (by decide), if_neg (by decide)]
    exact if_pos (by decide)
  have hfail : s.failWalk 0 0 7 0 8 = keylessWalkState.fetchCopy 0 0 1 (8 * heldWord) 0 8 :=
    failWalk_copies 7 0 8 (by decide) (by decide) (by decide) (by decide) keylessWalkState_holder
  exact hx.trans (congrArg neighbourHoldsState.ok hfail)

/-- Refutes O34: its third clause says that a FETCH without a VALID key leaves memory as it was, whatever the walk's
form. A WEAVE walk that fails for the first time copies the range from a neighbour that holds the item (R241), and
that copy reads and writes memory: the word read here cannot be corrected, and is poisoned. -/
theorem not_walksFetchAndKeysErase : ¬ Obligations.WalksFetchAndKeysErase := by
  rintro ⟨-, -, hkeyless, -⟩
  obtain ⟨t, ht, -, hmem, -⟩ := hkeyless neighbourHoldsState 0 0 (by decide) (by decide) (by decide)
  obtain rfl := Host.Outcome.next.inj (fetchSend_neighbourHoldsState.symm.trans ht)
  have hpoison : (keylessWalkState.fetchCopy 0 0 1 (8 * heldWord) 0 8).wordPoison heldWord = true :=
    fetchCopy_poisons 0 0 1 (by decide) (by decide) (by decide)
  have hclean : neighbourHoldsState.wordPoison heldWord = false := by decide
  rw [finish_mem] at hmem
  rw [State.wordPoison, hmem] at hpoison
  exact absurd (hclean.symm.trans hpoison) (by decide)

end Sys2Proof.Machine
end


section

/-! SUPPORT. Proof of O32: the image check, LOAD, RUN, ABORT, the step barrier and HALT. -/

namespace Sys2Proof.Machine

/-! ### What applying an image and starting a step leave alone -/

theorem loadImage_frame (s : State) :
    SameBut [.regs, .cnt, .stalls, .arcs, .streams, .stores, .rounds, .weights, .bnd, .ledgers] s s.loadImage := by
  simp [SameBut, among]

/-- An image is on every live die, its walks at their first versions. -/
def State.imageOn (s : State) : State := s.loadImage.forEach s.loadImage.liveDies fun u d => u.fetchStep d true

theorem imageOn_frame (s : State) :
    SameBut [.regs, .cnt, .stalls, .arcs, .streams, .stores, .rounds, .weights, .bnd, .ledgers] s s.imageOn := by
  unfold State.imageOn
  simp [SameBut, among]

/-- PROGRAM as a LOAD leaves it. -/
def State.loadedProg (s : State) : Prog :=
  { s.prog with
    pst := .ready, dir := s.prog.loadDir, applied := true
    imageId := BitVec.ofNat 64 (s.imgId (s.imgHeader s.prog.loadDir.toNat (s.liveDies.headD 0)))
    live := maskOf s.liveDies, lastPoint := 0, replays := 0, breaches := [], replaying := false
    remap := false, capBelow := false, scrubAbv := false, walksAt := [], noReplay := false
    loadReq := false }

theorem applyImage_applies (s : State) :
    s.applyImage.prog = s.loadedProg ∧ s.applyImage.keeper = { s.keeper with memberGen := s.keeper.memberGen + 1 } ∧
    s.applyImage.sec.imageDigests = s.sec.loading := by
  let h := s.imgHeader s.prog.loadDir.toNat (s.liveDies.headD 0)
  let v : State := { s with
    prog := s.loadedProg
    sec := { s.sec with imageDigests := s.sec.loading }
    keeper := { s.keeper with memberGen := s.keeper.memberGen + 1 }
    rounds := { s.rounds with stopped := s.rounds.stopped && s.imgPath h != s.rounds.code.toNat } }
  have happly : s.applyImage = v.imageOn := rfl
  have hframe := (imageOn_frame v).frame
  rw [happly]
  exact ⟨(congrArg State.prog hframe :), (congrArg State.keeper hframe :), (congrArg (·.sec.imageDigests) hframe :)⟩

/-- The image of a step is on every live die, its streams in RUN and its stalls at their first word. -/
def State.stepOn (s : State) : State :=
  s.loadImage.forEach s.loadImage.liveDies fun t d =>
    ((t.runStreams d).rewind d .run).setDie d { t.die d with service := 0 }

/-- PROGRAM as the start of a step leaves it. -/
def State.steppedProg (s : State) : Prog :=
  { s.prog with
      pst := .running, lastPoint := 0, replays := 0, breaches := [], replaying := false, remap := false,
      walksAt := [], noReplay := false }

def State.setProg (s : State) (p : Prog) : State := { s with prog := p }

theorem setProg_prog (s : State) (p : Prog) : (s.setProg p).prog = p := rfl

theorem setProg_keeper (s : State) (p : Prog) : (s.setProg p).keeper = s.keeper := rfl

theorem startStep_eq (s : State) : s.startStep = s.stepOn.basketsStep.setProg s.stepOn.steppedProg := by
  simp only [State.startStep, State.stepOn, State.steppedProg, State.setProg]

theorem stepOn_frame (s : State) :
    SameBut [.regs, .cnt, .dies, .stalls, .arcs, .streams, .stores, .rounds, .weights, .bnd, .ledgers] s s.stepOn := by
  unfold State.stepOn
  simp [SameBut, among]

theorem basketsStep_keeper (s : State) : s.basketsStep.keeper = s.keeper := by
  have hframe : SameBut [.regs, .stores, .red, .ledgers] s s.basketsStep := by simp [SameBut, among]
  obtain ⟨u, hu⟩ : ∃ u, s.basketsStep = u := ⟨_, rfl⟩
  rw [hu] at hframe ⊢
  exact (congrArg State.keeper hframe.frame :)

/-- A step that starts. -/
theorem startStep_starts (s : State) : s.startStep.prog = s.steppedProg ∧ s.startStep.keeper = s.keeper := by
  have hon := (stepOn_frame s).frame
  have hprog : s.stepOn.prog = s.prog := (congrArg State.prog hon :)
  have hkeeper : s.stepOn.keeper = s.keeper := (congrArg State.keeper hon :)
  rw [startStep_eq, setProg_prog, setProg_keeper, basketsStep_keeper, hkeeper]
  simp only [State.steppedProg, hprog, and_self]

theorem noteAssume_prog (s : State) : ∃ c b, s.noteAssume.prog = { s.prog with capBelow := c, scrubAbv := b } := by
  have hframe : SameBut [.assume] s s.noteAssume := by simp [SameBut, among]
  exact ⟨_, _, (congrArg State.prog hframe.frame :)⟩

theorem noteAssume_keeper (s : State) : s.noteAssume.keeper = s.keeper := by
  have hframe : SameBut [.assume] s s.noteAssume := by simp [SameBut, among]
  exact (congrArg State.keeper hframe.frame :)

theorem retarget_prog (s : State) : ∃ b, s.retarget.prog = { s.prog with hold := b } := by
  unfold State.retarget
  split
  · split
    · exact ⟨true, rfl⟩
    · exact ⟨s.prog.hold, rfl⟩
  · split
    · exact ⟨s.prog.hold, rfl⟩
    · exact ⟨false, rfl⟩
  · exact ⟨s.prog.hold, rfl⟩

/-! ### The check -/

theorem check_starts (s : State) (hidle : s.prog.check ≠ .busy) (htakes : s.takesWrites pgProgram = true) :
    Completes .checkGo s fun t =>
      t.prog = { s.prog with check := .busy, checkDir := (s.regPair pgProgram 0x048).extractLsb' 0 48 } ∧
      t = { s with prog := t.prog, host := { s.host with changes := t.host.changes } } := by
  have hx : execCheckGo s = s.ok s.checkGo := if_neg (by simp [hidle, htakes])
  have hgo : s.checkGo =
      { s with prog := { s.prog with check := .busy, checkDir := (s.regPair pgProgram 0x048).extractLsb' 0 48 } } :=
    if_neg (by simp [hidle])
  rw [hgo] at hx
  exact .of_changes hx fun _ => ⟨rfl, rfl⟩

/-- The reads of a check. -/
def State.imageRead (s : State) (dir : Nat) : State :=
  (s.imageReads dir).foldl (fun (t : State) r => t.noteReads srcImage r.1 r.2) s

theorem imageRead_frame (s : State) (dir : Nat) :
    SameBut [.regs, .cnt, .errNotes, .mem, .scrub, .bnd, .lastFault] s (s.imageRead dir) := by
  unfold State.imageRead
  simp [SameBut, among]

theorem imageRead_keeps (s : State) (dir : Nat) :
    (s.imageRead dir).prog = s.prog ∧ ∃ f, (s.imageRead dir).keeper = { s.keeper with lastFault := f } := by
  have hframe := (imageRead_frame s dir).frame
  exact ⟨(congrArg State.prog hframe :), _, (congrArg State.keeper hframe :)⟩

/-- Without an adoption, one that the keeper's LAST_FAULT alone changes has none either. -/
theorem noAdoption_of_lastFault {s t : State} {f : BitVec 16} (h : s.noAdoption)
    (hk : t.keeper = { s.keeper with lastFault := f }) : t.noAdoption := by
  unfold State.noAdoption
  rw [hk]
  exact h

theorem check_passes (s : State) (f : Die) (hbusy : s.prog.check = .busy) (hasleep : s.asleep = false)
    (hadopt : s.noAdoption) (hnone : ∀ d : Nat, d < 64 → s.checkDie s.prog.checkDir.toNat d = none) :
    Completes (.imageCheckDone f) s fun t =>
      t.prog = { s.prog with check := .passed, refuse := 0, wher := 0 } := by
  obtain ⟨hprog, lf, hkeeper⟩ := imageRead_keeps s s.prog.checkDir.toNat
  have hfind : ((f.val :: allDies).findSome? fun d => (s.checkDie s.prog.checkDir.toNat d).map fun f => (d, f)) = none := by
    rw [List.findSome?_eq_none_iff]
    intro d hd
    have hlt : d < 64 := by
      rcases List.mem_cons.mp hd with rfl | hall
      · exact f.isLt
      · exact List.mem_range.mp hall
    rw [hnone d hlt]
    rfl
  have hx : execImageCheckDone f s =
      s.ok ((s.imageRead s.prog.checkDir.toNat).imageCheckPassed s.prog.checkDir.toNat).adoptGo := by
    rw [execImageCheckDone, if_neg (by simp [hbusy, hasleep])]
    dsimp only
    rw [hfind]
    rfl
  obtain ⟨u, hu⟩ : ∃ u, s.imageRead s.prog.checkDir.toNat = u := ⟨_, rfl⟩
  rw [hu] at hx hprog hkeeper
  have hnone : (u.imageCheckPassed s.prog.checkDir.toNat).noAdoption := noAdoption_of_lastFault hadopt hkeeper
  rw [adoptGo_of_none hnone] at hx
  have hpassed : (u.imageCheckPassed s.prog.checkDir.toNat).prog =
      { s.prog with check := .passed, refuse := 0, wher := 0 } := by rw [State.imageCheckPassed, hprog]
  exact .of_changes hx fun _ => hpassed

theorem check_refuses (s : State) (d : Die) (f : Found) (hbusy : s.prog.check = .busy) (hasleep : s.asleep = false)
    (hadopt : s.noAdoption) (hfound : s.checkDie s.prog.checkDir.toNat d = some f) :
    Completes (.imageCheckDone d) s fun t =>
      t.prog.check = .refused ∧ t.prog.refuse = BitVec.ofNat 32 (f.code * 2 ^ 24 + d.val * 2 ^ 10) ∧
      t.prog.wher = BitVec.ofNat 32 (f.stall % 256 * 2 ^ 24 + f.sect * 2 ^ 20 + f.index % 2 ^ 20) ∧
      t.prog.pst = s.prog.pst ∧ t.prog.applied = s.prog.applied := by
  obtain ⟨hprog, lf, hkeeper⟩ := imageRead_keeps s s.prog.checkDir.toNat
  have hfind : ((d.val :: allDies).findSome? fun d => (s.checkDie s.prog.checkDir.toNat d).map fun f => (d, f)) =
      some (d.val, f) := by
    rw [List.findSome?_cons, hfound]
    rfl
  have hx : execImageCheckDone d s = s.ok ((s.imageRead s.prog.checkDir.toNat).checkRefused d f).adoptGo := by
    rw [execImageCheckDone, if_neg (by simp [hbusy, hasleep])]
    dsimp only
    rw [hfind]
    rfl
  obtain ⟨u, hu⟩ : ∃ u, s.imageRead s.prog.checkDir.toNat = u := ⟨_, rfl⟩
  rw [hu] at hx hprog hkeeper
  have hnone : (u.checkRefused d f).noAdoption := noAdoption_of_lastFault hadopt hkeeper
  rw [adoptGo_of_none hnone] at hx
  exact .of_changes hx fun _ => ⟨rfl, rfl, rfl, (congrArg Prog.pst hprog :), (congrArg Prog.applied hprog :)⟩

/-! ### LOAD, RUN and ABORT -/

theorem load_applies (s : State) (hreq : s.prog.loadReq = true) (hasleep : s.asleep = false) (hadopt : s.noAdoption) :
    Completes .load s fun t =>
      t.prog.pst = .ready ∧ t.prog.applied = true ∧ t.prog.dir = s.prog.loadDir ∧ t.prog.lastPoint = 0 ∧
      t.prog.replays = 0 ∧ t.prog.breaches = [] ∧ t.prog.loadReq = false ∧ t.prog.live = maskOf s.liveDies ∧
      t.keeper.memberGen = s.keeper.memberGen + 1 ∧ t.sec.imageDigests = s.sec.loading ∧
      t.out.getLast? = some .earlyClose := by
  obtain ⟨hprog, hkeeper, hdigests⟩ := applyImage_applies s
  have hnone : s.applyImage.noAdoption := by
    unfold State.noAdoption
    rw [hkeeper]
    exact hadopt
  have hx : execLoad s = s.ok (s.applyImage.adoptGo.emit .earlyClose) := if_pos (by simp [hreq, hasleep])
  rw [adoptGo_of_none hnone] at hx
  obtain ⟨u, hu⟩ : ∃ u, s.applyImage = u := ⟨_, rfl⟩
  rw [hu] at hx hprog hkeeper hdigests
  have hp : (u.emit .earlyClose).prog = s.loadedProg := hprog
  have hk : (u.emit .earlyClose).keeper.memberGen = s.keeper.memberGen + 1 := congrArg Keeper.memberGen hkeeper
  have hout : (u.emit .earlyClose).out.getLast? = some .earlyClose := List.getLast?_concat
  refine .of_changes hx fun _ => ?_
  change (u.emit .earlyClose).prog.pst = _ ∧ (u.emit .earlyClose).prog.applied = _ ∧
    (u.emit .earlyClose).prog.dir = _ ∧ (u.emit .earlyClose).prog.lastPoint = _ ∧
    (u.emit .earlyClose).prog.replays = _ ∧ (u.emit .earlyClose).prog.breaches = _ ∧
    (u.emit .earlyClose).prog.loadReq = _ ∧ (u.emit .earlyClose).prog.live = _ ∧ _
  rw [hp]
  exact ⟨rfl, rfl, rfl, rfl, rfl, rfl, rfl, rfl, hk, hdigests, hout⟩

theorem run_starts (s : State) (hreq : s.prog.runReq = true) (hload : s.prog.loadReq = false)
    (hremap : s.remapping = false) (hrun : (s.reg pgProgram 0x040).getLsbD 0 = true)
    (hpst : s.prog.pst = .ready ∨ s.prog.pst = .stepHold) (hon : s.allQuartersOn = true) :
    Completes .run s fun t =>
      t.prog.pst = .running ∧ t.prog.runReq = false ∧ t.prog.lastPoint = 0 ∧ t.prog.replays = 0 ∧
      t.prog.breaches = [] ∧ t.prog.dir = s.prog.dir := by
  let s1 : State := { s with prog := { s.prog with runReq := false } }
  have habout : s.aboutToRun = true := by
    rcases hpst with h | h <;> simp [State.aboutToRun, hreq, hrun, h]
  have hx : execRun s = s.ok s1.startStep.noteAssume.retarget := by
    rw [execRun, if_pos (by simp [hreq, hload, hremap])]
    dsimp only
    rw [if_pos (by simp [habout, hon])]
  obtain ⟨hstart, -⟩ := startStep_starts s1
  obtain ⟨c, b, hassume⟩ := noteAssume_prog s1.startStep
  obtain ⟨h, hretarget⟩ := retarget_prog s1.startStep.noteAssume
  rw [hassume, hstart] at hretarget
  obtain ⟨u, hu⟩ : ∃ u, s1.startStep.noteAssume.retarget = u := ⟨_, rfl⟩
  rw [hu] at hx hretarget
  refine .of_changes hx fun _ => ?_
  change u.prog.pst = _ ∧ u.prog.runReq = _ ∧ u.prog.lastPoint = _ ∧ u.prog.replays = _ ∧ u.prog.breaches = _ ∧
    u.prog.dir = _
  rw [hretarget]
  exact ⟨rfl, rfl, rfl, rfl, rfl, rfl⟩

theorem run_clears (s : State) (hreq : s.prog.runReq = true) (hload : s.prog.loadReq = false)
    (hremap : s.remapping = false) (hon : s.allQuartersOn = false) :
    Gives .run s { s with prog := { s.prog with runReq := false } } := by
  have hx : execRun s = s.ok { s with prog := { s.prog with runReq := false } } := by
    rw [execRun, if_pos (by simp [hreq, hload, hremap])]
    dsimp only
    rw [if_neg (by simp [hon])]
  exact .of_ok hx

theorem stopWork_frame (s : State) (reason : Byte) : SameBut [.regs, .cnt, .stalls, .arcs, .streams, .stores, .rounds,
    .breaches, .weights, .red, .flows, .bnd, .ledgers, .lastFault] s (s.stopWork reason) := by
  simp [SameBut, among]

theorem stopWork_keeps (s : State) (reason : Byte) :
    (∃ l, (s.stopWork reason).prog = { s.prog with breaches := l }) ∧
    ∃ f, (s.stopWork reason).keeper = { s.keeper with lastFault := f } := by
  have hframe := (stopWork_frame s reason).frame
  exact ⟨⟨_, (congrArg State.prog hframe :)⟩, _, (congrArg State.keeper hframe :)⟩

theorem abort_stops (s : State) (htakes : s.takesWrites pgProgram = true) (hadopt : s.noAdoption) :
    Completes .abort s fun t =>
      t.prog.pst = .stopped ∧ t.prog.breaches = [] ∧ t.prog.replaying = false ∧ t.prog.remap = false ∧
      t.prog.dir = s.prog.dir ∧ t.prog.applied = s.prog.applied := by
  obtain ⟨⟨l, hprog⟩, f, hkeeper⟩ := stopWork_keeps s 0xC
  have hnone : s.abortProgram.noAdoption := noAdoption_of_lastFault hadopt hkeeper
  have hx : execAbort s = s.ok s.abortProgram.adoptGo := if_pos htakes
  rw [adoptGo_of_none hnone] at hx
  have hdir : s.abortProgram.prog.dir = s.prog.dir := (congrArg Prog.dir hprog :)
  have happlied : s.abortProgram.prog.applied = s.prog.applied := (congrArg Prog.applied hprog :)
  exact .of_changes hx fun _ => ⟨rfl, rfl, rfl, rfl, hdir, happlied⟩

/-! ### The end of a step -/

theorem barrier_acts (s : State) (hpst : s.prog.pst = .running) (hbreaches : s.prog.breaches = [])
    (hhalt : s.allAtHalt true = true) (hsettled : s.settled = true) (hleft : s.leftDies = []) (hadopt : s.noAdoption) :
    Completes .stepBarrier s fun t =>
      t.prog.pst = if (s.reg pgProgram 0x040).getLsbD 0 = true ∧ s.prog.hold = false ∧ s.allQuartersOn = true
        then .running else .stepHold := by
  let s1 := s.count pgProgram 0
  have hx : execStepBarrier s = s.ok s.stepEnd.adoptGo := if_pos (by simp [hpst, hbreaches, hhalt, hsettled])
  have hleft1 : s1.leftDies = [] := hleft
  have hend : s.stepEnd = if (s.reg pgProgram 0x040).getLsbD 0 && !s.prog.hold && s.allQuartersOn
      then s1.startStep.noteAssume else { s1 with prog := { s1.prog with pst := .stepHold } } := by
    rw [State.stepEnd]
    dsimp only
    rw [hleft1]
    rfl
  obtain ⟨hstart, hkeeper⟩ := startStep_starts s1
  obtain ⟨c, b, hassume⟩ := noteAssume_prog s1.startStep
  by_cases hgo : (s.reg pgProgram 0x040).getLsbD 0 = true ∧ s.prog.hold = false ∧ s.allQuartersOn = true
  · have hbool : ((s.reg pgProgram 0x040).getLsbD 0 && !s.prog.hold && s.allQuartersOn) = true := by simpa [and_assoc] using hgo
    have hnone : s1.startStep.noteAssume.noAdoption := by
      unfold State.noAdoption
      rw [noteAssume_keeper, hkeeper]
      exact hadopt
    rw [hend, if_pos hbool, adoptGo_of_none hnone] at hx
    have hrun : s1.startStep.noteAssume.prog.pst = .running := by
      rw [hassume, hstart]
      rfl
    rw [if_pos hgo]
    exact .of_changes hx fun _ => hrun
  · have hbool : ¬ ((s.reg pgProgram 0x040).getLsbD 0 && !s.prog.hold && s.allQuartersOn) = true := by
      simpa [and_assoc] using hgo
    have hnone : ({ s1 with prog := { s1.prog with pst := .stepHold } } : State).noAdoption := hadopt
    rw [hend, if_neg hbool, adoptGo_of_none hnone] at hx
    rw [if_neg hgo]
    exact .of_changes hx fun _ => rfl

theorem program_halts (s : State) (hpst : s.prog.pst = .running) (hbreaches : s.prog.breaches = [])
    (hhalt : s.allAtHalt false = true) (hadopt : s.noAdoption) :
    Completes .programHalted s fun t =>
      t = { s with prog := { s.prog with pst := .halted }, host := { s.host with changes := t.host.changes } } := by
  have hnone : ({ s with prog := { s.prog with pst := .halted } } : State).noAdoption := hadopt
  have hx : execProgramHalted s = s.ok ({ s with prog := { s.prog with pst := .halted } } : State).adoptGo :=
    if_pos (by simp [hpst, hbreaches, hhalt])
  rw [adoptGo_of_none hnone] at hx
  exact .of_changes hx fun _ => rfl

/-- Settles O32. -/
theorem programsCheckAndRun : Obligations.ProgramsCheckAndRun :=
  ⟨check_starts, check_passes, check_refuses, load_applies, run_starts, run_clears, abort_stops, barrier_acts,
    program_halts⟩

end Sys2Proof.Machine
end


section

/-! SUPPORT. Registers of the engine's own pages, where the dies' work changes those of the dies alone. -/

namespace Sys2Proof.Machine

/-- The registers of the engine's own pages are as before. -/
def EngineRegs (s t : State) : Prop := ∀ q o, q < 4096 → o < 4096 → t.reg q o = s.reg q o

theorem EngineRegs.refl (s : State) : EngineRegs s s := fun _ _ _ _ => rfl

theorem EngineRegs.trans {s t u : State} (h : EngineRegs s t) (g : EngineRegs t u) : EngineRegs s u :=
  fun q o hq ho => (g q o hq ho).trans (h q o hq ho)

theorem EngineRegs.of_mask {s t : State} (h : t.mask (allBut .regs) = s.mask (allBut .regs)) : EngineRegs s t :=
  fun q o _ _ => reg_of_mask h q o

/-- What other parts change keeps the registers. -/
theorem EngineRegs.then {s t u : State} (h : EngineRegs s t) (g : u.mask (allBut .regs) = t.mask (allBut .regs)) :
    EngineRegs s u := h.trans (.of_mask g)

theorem EngineRegs.forEach {α : Type} {f : State → α → State} (hf : ∀ t e, EngineRegs t (f t e)) (l : List α)
    (s : State) : EngineRegs s (s.forEach l f) :=
  fun q o hq ho => forEach_keeps (fun t => t.reg q o) (fun t e => hf t e q o hq ho) l s

theorem EngineRegs.foldl {α : Type} {f : State → α → State} (hf : ∀ t e, EngineRegs t (f t e)) (l : List α) (s : State) :
    EngineRegs s (l.foldl f s) := .forEach hf l s

theorem EngineRegs.ite {s t u : State} {c : Prop} [Decidable c] (ht : EngineRegs s t) (hu : EngineRegs s u) :
    EngineRegs s (if c then t else u) := by
  split
  · exact ht
  · exact hu

/-- A register of a die is written. -/
theorem engineRegs_poke (s : State) (d p off : Nat) (v : Word) : EngineRegs s (s.poke (pgDie d p) off v) :=
  fun q o hq ho => poke_reg_other s (by
    unfold regKey pgDie
    omega)

theorem engineRegs_setPool (s : State) (d q i : Nat) (p : Pool) : EngineRegs s (s.setPool d q i p) := by
  have hpeak (t : State) (v : Nat) : EngineRegs t (t.peak (pgQbuf d q) 0x044 v) :=
    .ite (engineRegs_poke t d _ _ _) (.refl t)
  have hset (x : Stores) : EngineRegs s { s with stores := x } := .refl s
  have hissue (t : State) (n : Nat) : EngineRegs t (t.ledIssue d lgPool (16 * q + i) n) := .of_mask (by simp)
  have hreturn (t : State) (n : Nat) : EngineRegs t (t.ledReturn d lgPool (16 * q + i) n) := .of_mask (by simp)
  unfold State.setPool
  refine .trans ?_ (hpeak _ _)
  exact .ite ((hset _).trans (hissue _ _)) (.ite ((hset _).trans (hreturn _ _)) (hset _))

theorem engineRegs_unstage (s : State) (d b : Nat) (t : StageTile) : EngineRegs s (s.unstage d b t) :=
  (engineRegs_setPool s d (t.pool / 16) (t.pool % 16) _).then (mask_ledReturn (by simp) _ _ _ _ _)

theorem engineRegs_discardPuts (s : State) (d n : Nat) : EngineRegs s (s.discardPuts d n) :=
  .forEach (fun t b =>
    (EngineRegs.of_mask (mask_setDieBasket (by simp) t d b _)).trans (.foldl (fun u e => engineRegs_unstage u d b e) _ _)) _ s

theorem engineRegs_deliver (s : State) (d b : Nat) (t : StageTile) : EngineRegs s (s.deliver d b t) := by
  unfold State.deliver
  exact .ite ((engineRegs_unstage s d b t).trans (engineRegs_poke _ d _ _ _))
    (.ite (engineRegs_unstage s d b t) (.of_mask (mask_setDieBasket (by simp) s d b _)))

theorem engineRegs_commitPuts (s : State) (d n : Nat) : EngineRegs s (s.commitPuts d n) :=
  .forEach (fun t b =>
    (EngineRegs.of_mask (mask_setDieBasket (by simp) t d b _)).trans (.foldl (fun u e => engineRegs_deliver u d b e) _ _)) _ s

/-- A fault of a die's page. -/
theorem engineRegs_raise (s : State) (d p code : Nat) : EngineRegs s (s.raise (pgDie d p) code) := by
  have hrecord : EngineRegs s (s.recordFault (pgDie d p) code) := by
    unfold State.recordFault
    exact .ite ((engineRegs_poke s d p _ _).trans (engineRegs_poke _ d p _ _)) (engineRegs_poke s d p _ _)
  have hlast (t : State) : EngineRegs t (t.recordLastFault (pgDie d p) code) := by
    unfold State.recordLastFault
    split
    · exact (engineRegs_poke t _ 1 _ _).then (mask_count (by simp) _ _ _ _)
    · exact .refl t
  obtain hr | hr := raise_cases s (pgDie d p) code
  · rw [hr]
    exact .refl s
  · rw [hr]
    exact (hrecord.trans (hlast _)).trans fun q o _ _ => tellFault_reg _ _ _ q o

theorem engineRegs_pbAbort (s : State) (n : Nat) (reason : Byte) : EngineRegs s (s.pbAbort n reason) := by
  have hreturn (l : List Nat) (t : State) : EngineRegs t (l.foldl (fun t d => t.ledReturn 0 lgBell d) t) :=
    .foldl (fun u d => .of_mask (by simp)) l t
  have hnote (l : List Nat) (t : State) : EngineRegs t (l.foldl (fun (t : State) d =>
      (((t.discardPuts d n).count (pgDieBundle d) 1).pbNote d n).poke (pgDieBundle d) 0x044
        (BitVec.ofNat 32 (reason.toNat * 2 ^ 24 + n))) t) :=
    .foldl (fun u d => (((engineRegs_discardPuts u d n).then (mask_count (by simp) _ _ _ _)).trans
      (engineRegs_poke _ d 2 _ _)).trans (engineRegs_poke _ d 2 _ _)) l t
  have hbreach (l : List (Nat × Nat)) (t : State) : EngineRegs t (l.foldl (fun t e =>
      t.breach 0x0305 e.1 e.2 0 (t.stallOf e.1 e.2).cmdIndex) t) :=
    .foldl (fun u e => .of_mask (by simp)) l t
  have hleave (l : List Nat) (t : State) : EngineRegs t (l.foldl (fun t d => t.pbLeave d n) t) :=
    .foldl (fun u d => .of_mask (by simp)) l t
  have hset (t : State) (x : PBundle) : EngineRegs t (t.setPbundle n x) := .of_mask (by simp)
  unfold State.pbAbort
  dsimp only
  split
  · refine .trans (.trans ?_ (hset _ _)) (engineRegs_raise _ _ 2 _)
    exact (((hreturn _ s).trans (hnote _ _)).trans (.ite (hbreach _ _) (.refl _))).trans (hleave _ _)
  · refine .trans ?_ (hset _ _)
    exact (((hreturn _ s).trans (hnote _ _)).trans (.ite (hbreach _ _) (.refl _))).trans (hleave _ _)

theorem engineRegs_applyBracket (s : State) (d l p phase : Nat) : EngineRegs s (s.applyBracket d l p phase) :=
  .of_mask (by simp)

theorem engineRegs_pbApply (s : State) (d n : Nat) : EngineRegs s (s.pbApply d n) := by
  have hrun (l : List (Nat × Nat)) (phase : Nat) (t : State) : EngineRegs t (l.foldl (fun u e =>
      match u.slotOf d e.2 with | some p => u.applyBracket d e.2 p phase | none => u) t) := by
    refine .foldl (fun u e => ?_) l t
    split
    · exact engineRegs_applyBracket u d _ _ phase
    · exact .refl u
  have hleave (t : State) (k : Nat) : EngineRegs t
      (((((t.pbLeave d n).count (pgDieBundle d) 0).count (pgDieBundle d) 2 k).pbNote d n).ledReturn 0 lgBell d) :=
    (((EngineRegs.of_mask (by simp) : EngineRegs t
      (((t.pbLeave d n).count (pgDieBundle d) 0).count (pgDieBundle d) 2 k))).trans (engineRegs_poke _ d 2 _ _)).then
      (mask_ledReturn (by simp) _ _ _ _ _)
  have hset (t : State) (x : PBundle) : EngineRegs t (t.setPbundle n x) := .of_mask (by simp)
  unfold State.pbApply
  dsimp only
  refine .trans ?_ (hset _ _)
  exact (((hrun _ 0 s).trans (engineRegs_commitPuts _ d n)).trans (hrun _ 2 _)).trans (hleave _ _)

theorem engineRegs_pbAbortAll (s : State) (reason : Byte) : EngineRegs s (s.pbAbortAll reason) :=
  .forEach (fun t n => .ite (.foldl (fun u d => .ite (.refl u) (engineRegs_pbApply u d n)) _ t)
    (engineRegs_pbAbort t n reason)) _ s

/-- The stop of Table 8.8 leaves the registers of the engine's own pages. -/
theorem engineRegs_stopWork (s : State) (reason : Byte) : EngineRegs s (s.stopWork reason) :=
  ((engineRegs_pbAbortAll s reason).then (mask_dropBells (by simp) _)).trans
    (.forEach (fun t d => .of_mask (mask_stopDie (by simp) t d)) _ _)

end Sys2Proof.Machine
end


section

/-! SUPPORT. Proof of O33: breaches, replays and their end. -/

namespace Sys2Proof.Machine

theorem budget_breaks (s : State) (d : Die) (l : Stl) (hpst : s.prog.pst = .running) (hon : s.stallOn d l = true)
    (hne : s.inBudget d l ≠ []) :
    Completes (.budgetExpiry d l) s fun t => ∃ e ∈ s.inBudget d l,
      t.prog.breaches = s.prog.breaches ++
        [{ code := BitVec.ofNat 16 e.2.breach, die := d, stall := l, agent := 0, index := e.1 }] ∧
      t = { s with prog := { s.prog with breaches := t.prog.breaches }, free := s.free + 1
                   host := { s.host with changes := t.host.changes } } := by
  let w := s.inBudget d l
  have hlt : s.freeNow.toNat % w.length < w.length := Nat.mod_lt _ (List.length_pos_iff.mpr hne)
  have hget : w[s.freeNow.toNat % w.length]? = some w[s.freeNow.toNat % w.length] := List.getElem?_eq_getElem hlt
  have hmem : w[s.freeNow.toNat % w.length] ∈ s.inBudget d l := List.getElem_mem hlt
  obtain ⟨e, he⟩ : ∃ e, w[s.freeNow.toNat % w.length] = e := ⟨_, rfl⟩
  rw [he] at hget hmem
  have hx : execBudgetExpiry d l s = s.ok (s.breach e.2.breach d l 0 e.1).freeNext := by
    rw [execBudgetExpiry, if_pos (by simp [hpst, hon])]
    dsimp only
    rw [hget]
  rw [State.breach, hpst] at hx
  exact .of_changes hx fun _ => ⟨e, hmem, rfl, rfl⟩

/-! ### A breach is recorded -/

/-- A breach is recorded and counted. -/
def State.breachNoted (s : State) (b : Breach) : State := (s.recordBreach b).count pgProgram 2

theorem breachNoted_frame (s : State) (b : Breach) : SameBut [.regs, .cnt, .bnd, .lastFault] s (s.breachNoted b) := by
  unfold State.breachNoted State.recordBreach
  simp [SameBut, among]

theorem breachNoted_regs (s : State) (b : Breach) :
    (s.breachNoted b).reg pgProgram 0x060 = BitVec.ofNat 32
      (b.code.toNat * 65536 + b.die * 1024 + (if b.agent < 2 then b.stall else 0) * 16 + b.agent) ∧
    (s.breachNoted b).reg pgProgram 0x064 = BitVec.ofNat 32 b.index ∧
    (s.breachNoted b).reg pgProgram 0x05C = s.reg pgProgram 0x05C := by
  unfold State.breachNoted State.recordBreach
  dsimp only
  rw [count_reg, count_reg, count_reg]
  refine ⟨?_, poke_reg_same _, ?_⟩
  · rw [poke_reg_other _ (regKey_ne_of_off_ne (by decide) (by decide) (by decide)), poke_reg_same]
  · rw [poke_reg_other _ (regKey_ne_of_off_ne (by decide) (by decide) (by decide)),
      poke_reg_other _ (regKey_ne_of_off_ne (by decide) (by decide) (by decide)),
      raise_reg_other _ _ _ _ (by decide) (by decide) (by decide) (by decide)]

theorem breachNoted_counter (s : State) (b : Breach) :
    (s.breachNoted b).counter pgProgram 2 = s.counter pgProgram 2 + 1 := by
  have hraise : (s.recordBreach b).counter pgProgram 2 = s.counter pgProgram 2 := by
    rw [State.counter, State.recordBreach, poke_cnt, poke_cnt, ← State.counter]
    exact raise_counter_other s _ (by decide)
  exact (count_counter_same _).trans (congrArg (· + 1) hraise)

/-- The breaches that wait are taken, and those that join the recorded one counted. -/
def State.breachTaken (s : State) (n : Nat) : State :=
  let t := ({ s with prog := { s.prog with breaches := [] } } : State).freeNext
  if n = 0 then t else t.count pgProgram 2 n

theorem breachTaken_frame (s : State) (n : Nat) :
    SameBut [.free, .cnt] { s with prog := { s.prog with breaches := [] } } (s.breachTaken n) := by
  unfold State.breachTaken
  dsimp only
  split <;> simp [SameBut, among]

theorem breachTaken_counter (s : State) (n : Nat) :
    (s.breachTaken n).counter pgProgram 2 = s.counter pgProgram 2 + BitVec.ofNat 64 n := by
  unfold State.breachTaken
  dsimp only
  split
  · rename_i h
    rw [h]
    exact (BitVec.add_zero _).symm
  · exact count_counter_same _

theorem exec_breachStamp {s : State} {b : Breach} {r : List Breach} (h : s.prog.breaches = b :: r) :
    exec .breachStamp s = s.ok ((s.breachTaken r.length).handleBreach
      (firstBreach b (r.take (s.freeNow.toNat % (r.length + 1))))) := by
  have hx : exec .breachStamp s = execBreachStamp s := rfl
  have htaken : s.breachTaken r.length =
      if r.isEmpty then ({ s with prog := { s.prog with breaches := [] } } : State).freeNext
      else ({ s with prog := { s.prog with breaches := [] } } : State).freeNext.count pgProgram 2 r.length := by
    cases r with
    | nil => rfl
    | cons e r => rfl
  rw [hx, execBreachStamp, h, htaken]

/-- What the breach that is handled finds. -/
structure Stamped (s v : State) (c : Breach) : Prop where
  prog : v.prog = { s.prog with breaches := [] }
  mayNot : v.mayNotReplay = s.mayNotReplay
  limit : v.regField pgProgram 0x05C 7 0 = s.regField pgProgram 0x05C 7 0
  what : v.reg pgProgram 0x060 = BitVec.ofNat 32
    (c.code.toNat * 65536 + c.die * 1024 + (if c.agent < 2 then c.stall else 0) * 16 + c.agent)
  index : v.reg pgProgram 0x064 = BitVec.ofNat 32 c.index

theorem stamped (s : State) (n : Nat) (c : Breach) : Stamped s ((s.breachTaken n).breachNoted c) c := by
  have htaken := (breachTaken_frame s n).frame
  have hnoted := (breachNoted_frame (s.breachTaken n) c).frame
  obtain ⟨hwhat, hindex, hlimit⟩ := breachNoted_regs (s.breachTaken n) c
  obtain ⟨u, hu⟩ : ∃ u, s.breachTaken n = u := ⟨_, rfl⟩
  rw [hu] at htaken hnoted hwhat hindex hlimit ⊢
  obtain ⟨v, hv⟩ : ∃ v, u.breachNoted c = v := ⟨_, rfl⟩
  rw [hv] at hnoted hwhat hindex hlimit ⊢
  have hprog : v.prog = { s.prog with breaches := [] } :=
    (congrArg State.prog hnoted :).trans (congrArg State.prog htaken :)
  have hdies : v.dies = s.dies := (congrArg State.dies hnoted :).trans (congrArg State.dies htaken :)
  have hreg : u.regs = s.regs := (congrArg State.regs htaken :)
  refine ⟨hprog, ?_, ?_, hwhat, hindex⟩
  · simp only [State.mayNotReplay, State.die, hprog, hdies]
  · rw [State.regField, hlimit, State.regField, State.reg, State.reg, hreg]

/-! ### What follows the record -/

/-- The program stops, or goes into replay, once the work has stopped. -/
theorem stopWork_stamped (v : State) (reason : Byte) :
    (∃ l, (v.stopWork reason).prog = { v.prog with breaches := l }) ∧
    ∀ o, o < 4096 → (v.stopWork reason).reg pgProgram o = v.reg pgProgram o :=
  ⟨(stopWork_keeps v reason).1, fun o ho => engineRegs_stopWork v reason pgProgram o (by decide) ho⟩

theorem raise_prog (s : State) (page code : Nat) : (s.raise page code).prog = s.prog :=
  (congrArg State.prog (raise_frame s page code).frame :)

/-- The program stops where it may replay no more. -/
def State.replaysSpent (v : State) : State :=
  let t := (v.stopWork 0xB).raise pgProgram 0x0308
  { t with prog := { t.prog with pst := .stopped, breaches := [], replaying := false, remap := false } }

/-- The program goes into replay. -/
def State.replayBegun (v : State) : State :=
  let u := (v.count pgProgram 1).stopWork 0xB
  { u with prog := { u.prog with pst := .replay, replaying := true, remap := false, breaches := [] } }

theorem handleBreach_eq (s : State) (b : Breach) : s.handleBreach b =
    if (s.breachNoted b).prog.pst == .halted then s.breachNoted b
    else if (s.breachNoted b).mayNotReplay then (s.breachNoted b).closeOut
    else if (s.breachNoted b).prog.replays ≥ (s.breachNoted b).regField pgProgram 0x05C 7 0
      then (s.breachNoted b).replaysSpent
    else (s.breachNoted b).replayBegun := by
  unfold State.handleBreach State.breachNoted
  dsimp only
  split
  · rfl
  · split
    · rfl
    · split
      · simp only [State.replaysSpent]
      · simp only [State.replayBegun]

theorem replaysSpent_stops (v : State) :
    v.replaysSpent.prog.pst = .stopped ∧ v.replaysSpent.prog.replaying = false ∧ v.replaysSpent.prog.breaches = [] ∧
    v.replaysSpent.prog.replays = v.prog.replays ∧ v.replaysSpent.prog.lastPoint = v.prog.lastPoint ∧
    v.replaysSpent.reg pgProgram 0x060 = v.reg pgProgram 0x060 ∧
    v.replaysSpent.reg pgProgram 0x064 = v.reg pgProgram 0x064 := by
  obtain ⟨⟨l, hprog⟩, hreg⟩ := stopWork_stamped v 0xB
  have hraised := raise_prog (v.stopWork 0xB) pgProgram 0x0308
  have hregs (o : Nat) (ho : o < 4096) (hf : o ≠ rFault) (hff : o ≠ rFaultFirst) (hl : o ≠ 0x044) :
      ((v.stopWork 0xB).raise pgProgram 0x0308).reg pgProgram o = v.reg pgProgram o :=
    (raise_reg_other _ _ _ _ ho hf hff hl).trans (hreg o ho)
  have hspent := hraised.trans hprog
  unfold State.replaysSpent
  obtain ⟨t, ht⟩ : ∃ t, (v.stopWork 0xB).raise pgProgram 0x0308 = t := ⟨_, rfl⟩
  rw [ht] at hregs hspent ⊢
  exact ⟨rfl, rfl, rfl, (congrArg Prog.replays hspent :), (congrArg Prog.lastPoint hspent :), hregs 0x060 (by decide) (by decide) (by decide) (by decide),
    hregs 0x064 (by decide) (by decide) (by decide) (by decide)⟩

theorem replayBegun_begins (v : State) :
    v.replayBegun.prog.pst = .replay ∧ v.replayBegun.prog.replaying = true ∧ v.replayBegun.prog.breaches = [] ∧
    v.replayBegun.prog.replays = v.prog.replays ∧ v.replayBegun.prog.lastPoint = v.prog.lastPoint ∧
    v.replayBegun.reg pgProgram 0x060 = v.reg pgProgram 0x060 ∧
    v.replayBegun.reg pgProgram 0x064 = v.reg pgProgram 0x064 := by
  obtain ⟨⟨l, hprog⟩, hreg⟩ := stopWork_stamped (v.count pgProgram 1) 0xB
  unfold State.replayBegun
  obtain ⟨u, hu⟩ : ∃ u, (v.count pgProgram 1).stopWork 0xB = u := ⟨_, rfl⟩
  rw [hu] at hprog hreg ⊢
  exact ⟨rfl, rfl, rfl, (congrArg Prog.replays hprog :), (congrArg Prog.lastPoint hprog :), hreg 0x060 (by decide), hreg 0x064 (by decide)⟩

theorem breach_handled (s : State) (b : Breach) (r : List Breach) (hb : s.prog.breaches = b :: r)
    (hpst : s.prog.pst = .running) (hmay : s.mayNotReplay = false) :
    let c := firstBreach b (r.take (s.freeNow.toNat % (r.length + 1)))
    Completes .breachStamp s fun t =>
      t.reg pgProgram 0x060 = BitVec.ofNat 32
        (c.code.toNat * 65536 + c.die * 1024 + (if c.agent < 2 then c.stall else 0) * 16 + c.agent) ∧
      t.reg pgProgram 0x064 = BitVec.ofNat 32 c.index ∧ t.prog.breaches = [] ∧
      t.prog.replays = s.prog.replays ∧ t.prog.lastPoint = s.prog.lastPoint ∧
      (s.prog.replays < s.regField pgProgram 0x05C 7 0 → t.prog.pst = .replay ∧ t.prog.replaying = true) ∧
      (s.regField pgProgram 0x05C 7 0 ≤ s.prog.replays → t.prog.pst = .stopped ∧ t.prog.replaying = false) := by
  intro c
  have hx := exec_breachStamp hb
  obtain ⟨hprog, hmayNot, hlimit, hwhat, hindex⟩ := stamped s r.length c
  obtain ⟨v, hv⟩ : ∃ v, (s.breachTaken r.length).breachNoted c = v := ⟨_, rfl⟩
  rw [handleBreach_eq, hv] at hx
  rw [hv] at hprog hmayNot hlimit hwhat hindex
  have hrunning : (v.prog.pst == .halted) = false := by simp [hprog, hpst]
  have hreplaysV : v.prog.replays = s.prog.replays := (congrArg Prog.replays hprog :)
  have hpointV : v.prog.lastPoint = s.prog.lastPoint := (congrArg Prog.lastPoint hprog :)
  rw [if_neg (by simp [hrunning]), if_neg (by simp [hmayNot, hmay])] at hx
  by_cases hspent : s.regField pgProgram 0x05C 7 0 ≤ s.prog.replays
  · obtain ⟨hstop, hnot, hnone, hreplays, hpoint, h60, h64⟩ := replaysSpent_stops v
    rw [if_pos (by rw [hlimit, hreplaysV]; exact hspent)] at hx
    obtain ⟨u, hu⟩ : ∃ u, v.replaysSpent = u := ⟨_, rfl⟩
    rw [hu] at hx hstop hnot hnone hreplays hpoint h60 h64
    exact .of_changes hx fun _ => ⟨h60.trans hwhat, h64.trans hindex, hnone, hreplays.trans hreplaysV,
      hpoint.trans hpointV, fun hlt => absurd hspent (Nat.not_le.mpr hlt), fun _ => ⟨hstop, hnot⟩⟩
  · obtain ⟨hreplay, hreplaying, hnone, hreplays, hpoint, h60, h64⟩ := replayBegun_begins v
    rw [if_neg (by rw [hlimit, hreplaysV]; exact hspent)] at hx
    obtain ⟨u, hu⟩ : ∃ u, v.replayBegun = u := ⟨_, rfl⟩
    rw [hu] at hx hreplay hreplaying hnone hreplays hpoint h60 h64
    exact .of_changes hx fun _ => ⟨h60.trans hwhat, h64.trans hindex, hnone, hreplays.trans hreplaysV,
      hpoint.trans hpointV, fun _ => ⟨hreplay, hreplaying⟩, fun hle => absurd hle hspent⟩

theorem breach_closes (s : State) (hne : s.prog.breaches ≠ []) (hpst : s.prog.pst = .running)
    (hmay : s.mayNotReplay = true) :
    Completes .breachStamp s fun t =>
      t.prog.pst = .stopped ∧ t.prog.replaying = false ∧ t.prog.breaches = [] := by
  obtain ⟨b, r, hb⟩ := List.exists_cons_of_ne_nil hne
  have hx := exec_breachStamp hb
  obtain ⟨hprog, hmayNot, -, -, -⟩ := stamped s r.length (firstBreach b (r.take (s.freeNow.toNat % (r.length + 1))))
  obtain ⟨v, hv⟩ : ∃ v, (s.breachTaken r.length).breachNoted
    (firstBreach b (r.take (s.freeNow.toNat % (r.length + 1)))) = v := ⟨_, rfl⟩
  rw [handleBreach_eq, hv] at hx
  rw [hv] at hprog hmayNot
  have hrunning : (v.prog.pst == .halted) = false := by simp [hprog, hpst]
  rw [if_neg (by simp [hrunning]), if_pos (by rw [hmayNot, hmay])] at hx
  have hstop : v.closeOut.prog.pst = .stopped := by simp only [State.closeOut]
  have hnot : v.closeOut.prog.replaying = false := by simp only [State.closeOut]
  have hnone : v.closeOut.prog.breaches = [] := by simp only [State.closeOut]
  obtain ⟨u, hu⟩ : ∃ u, v.closeOut = u := ⟨_, rfl⟩
  rw [hu] at hx hstop hnot hnone
  exact .of_changes hx fun _ => ⟨hstop, hnot, hnone⟩

theorem breach_after_halt (s : State) (b : Breach) (r : List Breach) (hb : s.prog.breaches = b :: r)
    (hpst : s.prog.pst = .halted) :
    let c := firstBreach b (r.take (s.freeNow.toNat % (r.length + 1)))
    Completes .breachStamp s fun t =>
      t.reg pgProgram 0x060 = BitVec.ofNat 32
        (c.code.toNat * 65536 + c.die * 1024 + (if c.agent < 2 then c.stall else 0) * 16 + c.agent) ∧
      t.reg pgProgram 0x064 = BitVec.ofNat 32 c.index ∧
      t.counter pgProgram 2 = s.counter pgProgram 2 + BitVec.ofNat 64 (r.length + 1) ∧
      t.prog = { s.prog with breaches := [] } ∧ t.stalls = s.stalls ∧ t.streams = s.streams ∧ t.mem = s.mem := by
  intro c
  have hx := exec_breachStamp hb
  obtain ⟨hprog, -, -, hwhat, hindex⟩ := stamped s r.length c
  have hcount : ((s.breachTaken r.length).breachNoted c).counter pgProgram 2 =
      s.counter pgProgram 2 + BitVec.ofNat 64 (r.length + 1) := by
    rw [breachNoted_counter, breachTaken_counter, BitVec.ofNat_add, BitVec.add_assoc]
    rfl
  have htaken := (breachTaken_frame s r.length).frame
  have hnoted := (breachNoted_frame (s.breachTaken r.length) c).frame
  obtain ⟨u, hu⟩ : ∃ u, s.breachTaken r.length = u := ⟨_, rfl⟩
  rw [hu] at hx hprog hwhat hindex hcount htaken hnoted
  obtain ⟨v, hv⟩ : ∃ v, u.breachNoted c = v := ⟨_, rfl⟩
  rw [handleBreach_eq, hv] at hx
  rw [hv] at hprog hwhat hindex hcount hnoted
  have hstalls : v.stalls = s.stalls := (congrArg State.stalls hnoted :).trans (congrArg State.stalls htaken :)
  have hstreams : v.streams = s.streams := (congrArg State.streams hnoted :).trans (congrArg State.streams htaken :)
  have hmem : v.mem = s.mem := (congrArg State.mem hnoted :).trans (congrArg State.mem htaken :)
  rw [if_pos (by simp [hprog, hpst])] at hx
  exact .of_changes hx fun _ => ⟨hwhat, hindex, hcount, hprog, hstalls, hstreams, hmem⟩

/-! ### The end of a replay -/

/-- Steps 6 and 7 of Table 8.8, before PROGRAM tells that the program runs. -/
def State.restored (s : State) : State :=
  let s1 := s.forEach s.liveDies fun t d =>
    if s.prog.lastPoint = 0 then t.restoreZero d else t.restoreDie d s.prog.lastPoint
  (if s.prog.lastPoint != 0 then s1
    else s1.forEach (s.weights.fetch.map fun e => (e.1, e.2.version, e.2.nextTag)) fun t e =>
      t.setFetch (e.1 / 32) (e.1 % 32)
        { t.fetch (e.1 / 32) (e.1 % 32) with version := e.2.1, nextTag := e.2.2, reason := 2 }).restoreBrackets

theorem restored_prog (s : State) : s.restored.prog = s.prog := by
  have hdies : SameBut [.regs, .cnt, .errNotes, .mem, .scrub, .stalls, .arcs, .streams, .stores, .rounds, .weights, .red,
      .bnd, .ledgers, .lastFault] s (s.forEach s.liveDies fun t d =>
        if s.prog.lastPoint = 0 then t.restoreZero d else t.restoreDie d s.prog.lastPoint) :=
    mask_forEach (fun t d => by split <;> simp [among]) _ _
  have hframe : SameBut [.regs, .cnt, .errNotes, .mem, .scrub, .stalls, .arcs, .streams, .stores, .rounds, .weights, .red,
      .bnd, .ledgers, .lastFault] s s.restored := by
    unfold State.restored SameBut
    rw [mask_restoreBrackets (by simp [among])]
    split
    · exact hdies
    · rw [mask_forEach (fun t e => by simp [among])]
      exact hdies
  obtain ⟨u, hu⟩ : ∃ u, s.restored = u := ⟨_, rfl⟩
  rw [hu] at hframe ⊢
  exact (congrArg State.prog hframe.frame :)

theorem resume_eq (s : State) : s.resume = { s.restored with
    rounds := { s.restored.rounds with transit := [] }
    prog := { s.restored.prog with pst := .running, replaying := false, remap := false, breaches := []
                                   replays := if s.prog.remap then s.prog.replays else s.prog.replays + 1 } } := by
  simp only [State.resume, State.restored]

theorem replay_resumes (s : State) (hpst : s.prog.pst = .replay) (hreplaying : s.prog.replaying = true)
    (hquiet : s.quiet = true) (hmay : s.mayNotReplay = false) (hdone : s.remapsDone = true) :
    Completes .replayResume s fun t =>
      t.prog.pst = .running ∧ t.prog.replaying = false ∧ t.prog.breaches = [] ∧
      t.prog.replays = (if s.prog.remap then s.prog.replays else s.prog.replays + 1) ∧
      t.prog.lastPoint = s.prog.lastPoint ∧ t.rounds.transit = [] := by
  have hx : execReplayResume s = s.ok s.resume := by
    rw [execReplayResume, if_pos (by simp [hpst, hreplaying, hquiet]), if_neg (by simp [hmay]), if_pos hdone]
  have hprog := restored_prog s
  rw [resume_eq] at hx
  obtain ⟨u, hu⟩ : ∃ u, s.restored = u := ⟨_, rfl⟩
  rw [hu] at hx hprog
  exact .of_changes hx fun _ => ⟨rfl, rfl, rfl, rfl, (congrArg Prog.lastPoint hprog :), rfl⟩

/-- Settles O33. -/
theorem breachesReplay : Obligations.BreachesReplay :=
  ⟨budget_breaks, breach_handled, breach_closes, breach_after_halt, replay_resumes⟩

end Sys2Proof.Machine
end


section

/-! SUPPORT. A quarter that goes dark or comes up. -/

namespace Sys2Proof.Machine

theorem setQuarter_quarter_other (s : State) {d q e r : Nat} (x : QuarterSt) (h : 4 * e + r ≠ 4 * d + q) :
    (s.setQuarter d q x).quarter e r = s.quarter e r := SMap.get_set_other _ _ _ h

/-! ### Going dark -/

/-- The switching fields of a quarter that goes dark. -/
def QuarterSt.dark (x : QuarterSt) (st : BlkSt) (cause : BitVec 4) : QuarterSt :=
  { x with st := st, gated := true, cause := cause, rearm := false, remapOf := none, clock := false
           slots := x.slots.map fun v => if v == .testing then .spare else v }

/-- A quarter is switched off, before its work is dropped. -/
def State.switchDark (s : State) (d q : Nat) (st : BlkSt) (cause : BitVec 4) : State :=
  (if s.running then s.pbDark d q else s).setQuarter d q ((s.quarter d q).dark st cause)

/-- The work of a quarter that is dark is dropped. -/
def State.dropQuarter (s : State) (d q : Nat) (clocked : Bool) : State :=
  let s2 := (s.forEach (List.range 18) fun t i => t.stopUnit d (slotNum q i) true).darkPortOut d
  let s3 := s2.forEach (List.range 18) fun t i =>
    let p := slotNum q i
    t.setSlot d p { (t.slot d p).abandon with duty := 0, dutySt := .steady }
  (if clocked then s3.count pgClocks 2 else s3).relayDie d

/-- A program that runs when a quarter goes dark may not replay. -/
def State.forbidReplay (s : State) : State := { s with prog := { s.prog with noReplay := true } }

theorem darkQuarter_eq (s : State) (d q : Nat) (st : BlkSt) (cause : BitVec 4) :
    s.darkQuarter d q st cause =
      if ((s.switchDark d q st cause).dropQuarter d q (s.quarter d q).clock).running
      then ((s.switchDark d q st cause).dropQuarter d q (s.quarter d q).clock).forbidReplay.leaveStep d
      else (s.switchDark d q st cause).dropQuarter d q (s.quarter d q).clock := by
  unfold State.darkQuarter State.switchDark State.dropQuarter State.forbidReplay QuarterSt.dark
  dsimp only

theorem forbidReplay_quarters (s : State) : s.forbidReplay.quarters = s.quarters := rfl

theorem dropQuarter_quarters (s : State) (d q : Nat) (clocked : Bool) : (s.dropQuarter d q clocked).quarters = s.quarters :=
  quarters_of_mask (by simp [State.dropQuarter])

/-- Past the switch a quarter that goes dark touches no quarter. -/
theorem darkQuarter_quarters (s : State) (d q : Nat) (st : BlkSt) (cause : BitVec 4) :
    (s.darkQuarter d q st cause).quarters = (s.switchDark d q st cause).quarters := by
  rw [darkQuarter_eq]
  split
  · rw [quarters_of_mask (mask_leaveStep (by simp) _ _), forbidReplay_quarters, dropQuarter_quarters]
  · exact dropQuarter_quarters _ _ _ _

theorem darkQuarter_quarter (s : State) (d q : Nat) (st : BlkSt) (cause : BitVec 4) :
    (s.darkQuarter d q st cause).quarter d q = (s.quarter d q).dark st cause := by
  rw [State.quarter, darkQuarter_quarters]
  exact setQuarter_quarter_same _

theorem darkQuarter_quarter_other (s : State) {d q e r : Nat} (st : BlkSt) (cause : BitVec 4)
    (h : 4 * e + r ≠ 4 * d + q) : (s.darkQuarter d q st cause).quarter e r = s.quarter e r := by
  have hdark : (if s.running then s.pbDark d q else s).quarter e r = s.quarter e r := by
    split
    · exact quarter_of_mask (by simp) e r
    · rfl
  rw [State.quarter, darkQuarter_quarters]
  exact (setQuarter_quarter_other _ _ h).trans hdark

/-! ### Coming up -/

/-- The fields of a quarter that comes up. -/
def State.upQuarter (s : State) (d q : Nat) : QuarterSt :=
  { s.quarter d q with st := .on, gated := false, cause := 0, rearm := false, clock := true, tst := .normal,
                       div4 := s.pwr.capdown || s.pwr.divided.getLsbD ((4 * d + q) / 8) }

/-- A quarter whose slots and arcades start anew. -/
def State.freshQuarter (s : State) (d q : Nat) : State :=
  (((s.zeroScratch d q).forEach (List.range 18) fun t i =>
    t.setSlot d (slotNum q i) { Stall.reset with seed := t.regPair (pgStall d (slotNum q i)) rSeed }).forEach
      (List.range 4) fun t a => t.setArc d q a Arcade.reset)

theorem quarterUp_eq (s : State) (d q : Nat) :
    s.quarterUp d q = ((s.freshQuarter d q).setQuarter d q (s.upQuarter d q)).nextSpare d q := rfl

/-- Which stall waits for a spare, and which spare there is, depend on the quarters' maps and slots. -/
theorem brokenStall_congr {s t : State} {d : Nat} (hmap : ∀ r, (t.quarter d r).map = (s.quarter d r).map)
    (hslots : ∀ r, (t.quarter d r).slots = (s.quarter d r).slots) (q : Nat) :
    t.brokenStall d q = s.brokenStall d q ∧ t.spareOf d q = s.spareOf d q := by
  have hof (l : Nat) : t.slotOf d l = s.slotOf d l := by rw [State.slotOf, State.slotOf, hmap]
  have hstate (p : Nat) : t.slotState d p = s.slotState d p := by rw [State.slotState, State.slotState, hslots]
  unfold State.brokenStall State.spareOf
  simp only [hof, hstate, and_self]

theorem setSlotState_quarter (s : State) (d p : Nat) (v : SlotSt) (e r : Nat) :
    ∃ l, (s.setSlotState d p v).quarter e r = { s.quarter e r with slots := l } := by
  by_cases h : 4 * e + r = 4 * d + slotQuarter p
  · have hq : s.quarter d (slotQuarter p) = s.quarter e r := by rw [State.quarter, State.quarter, h]
    refine ⟨((s.quarter d (slotQuarter p)).slots.set (slotLocal p) v), ?_⟩
    rw [← hq, State.quarter, h]
    exact setQuarter_quarter_same s
  · exact ⟨(s.quarter e r).slots, SMap.get_set_other _ _ _ h⟩

/-- A quarter that is up takes a spare for the stall that waits for one, where it has one. -/
theorem nextSpare_spares {s : State} {d q : Nat} (hup : (s.quarter d q).gated = false)
    (hspare : s.brokenStall d q = none ∨ s.spareOf d q ≠ none) :
    SameBut [.quarters] s (s.nextSpare d q) ∧
    ∃ l o, (s.nextSpare d q).quarter d q = { s.quarter d q with slots := l, remapOf := o } := by
  unfold State.nextSpare
  rw [if_neg (by simp [hup])]
  cases hb : s.brokenStall d q with
  | none =>
    dsimp only
    refine ⟨by simp [SameBut, among], (s.quarter d q).slots, none, ?_⟩
    exact setQuarter_quarter_same s
  | some l =>
    obtain ⟨p, hp⟩ := Option.ne_none_iff_exists'.mp (hspare.resolve_left (by simp [hb]))
    obtain ⟨m, hm⟩ := setSlotState_quarter s d p .testing d q
    dsimp only
    rw [hp]
    dsimp only
    refine ⟨by simp [SameBut, among, State.setSlotState], m, some l, ?_⟩
    rw [setQuarter_quarter_same, hm]

theorem freshQuarter_frame (s : State) (d q : Nat) : SameBut [.mem, .stalls, .arcs] s (s.freshQuarter d q) := by
  unfold State.freshQuarter
  simp [SameBut, among]

theorem freshQuarter_quarters (s : State) (d q : Nat) : (s.freshQuarter d q).quarters = s.quarters :=
  quarters_of_mask (by simp [State.freshQuarter])

/-- A quarter comes up ON with its clock, where no stall of it needs a spare that it does not have. -/
theorem quarterUp_comes {s : State} {d q : Nat} (hspare : s.brokenStall d q = none ∨ s.spareOf d q ≠ none) :
    SameBut [.quarters] (s.freshQuarter d q) (s.quarterUp d q) ∧
    ∃ l o, (s.quarterUp d q).quarter d q = { s.upQuarter d q with slots := l, remapOf := o } := by
  have hquarters := freshQuarter_quarters s d q
  obtain ⟨u, hu⟩ : ∃ u, s.freshQuarter d q = u := ⟨_, rfl⟩
  rw [quarterUp_eq, hu]
  rw [hu] at hquarters
  have hsame : (u.setQuarter d q (s.upQuarter d q)).quarter d q = s.upQuarter d q := setQuarter_quarter_same u
  have hother (r : Nat) (h : r ≠ q) : (u.setQuarter d q (s.upQuarter d q)).quarter d r = s.quarter d r := by
    have hkey : 4 * d + r ≠ 4 * d + q := by omega
    have hu : u.quarter d r = s.quarter d r := by rw [State.quarter, State.quarter, hquarters]
    exact (setQuarter_quarter_other u _ hkey).trans hu
  have hmap (r : Nat) : ((u.setQuarter d q (s.upQuarter d q)).quarter d r).map = (s.quarter d r).map := by
    by_cases h : r = q
    · rw [h, hsame]
      rfl
    · rw [hother r h]
  have hslots (r : Nat) : ((u.setQuarter d q (s.upQuarter d q)).quarter d r).slots = (s.quarter d r).slots := by
    by_cases h : r = q
    · rw [h, hsame]
      rfl
    · rw [hother r h]
  obtain ⟨hbroken, hspares⟩ := brokenStall_congr hmap hslots q
  obtain ⟨hframe, l, o, hquarter⟩ := nextSpare_spares (s := u.setQuarter d q (s.upQuarter d q)) (d := d) (q := q)
    (by rw [hsame]; rfl) (by rw [hbroken, hspares]; exact hspare)
  exact ⟨hframe.trans (by simp [among]), l, o, by rw [hquarter, hsame]⟩

theorem upCheck_quarters (s : State) : s.upCheck.quarters = s.quarters := by
  have hup : s.upNow.quarters = s.quarters := quarters_of_mask (by simp)
  unfold State.upCheck
  dsimp only
  split
  · exact hup
  · rfl

end Sys2Proof.Machine
end


section

/-! SUPPORT. Proof of O53: the switching of blocks, and the endpoint's resets. -/

namespace Sys2Proof.Machine

/-! ### The pages of blocks -/

theorem pageKind_pgQuarter (d : Die) (q : Qtr) : pageKind (pgQuarter d q) = some .quarter := by
  have hq := q.isLt
  have hkind : ∀ r : Qtr, diePageKind (0x10 + r) = some .quarter := by decide
  unfold pgQuarter
  rw [pageKind_pgDie d.isLt (by omega), hkind]

theorem page_of_pgQuarter (d : Die) (q : Qtr) : pageDie (pgQuarter d q) = d ∧ pageOff (pgQuarter d q) - 0x10 = q := by
  have hq := q.isLt
  unfold pgQuarter
  rw [pageDie_pgDie _ (by omega), pageOff_pgDie _ (by omega)]
  omega

theorem pageKind_pgWale (w : WaleIx) : pageKind (pgWale w) = some .wale ∨ pageKind (pgWale w) = some .xwale := by
  have hw := w.isLt
  unfold pageKind
  rw [isDiePage_pgWale]
  unfold pgWale
  rw [if_neg (by decide), if_neg (by simp; omega), if_neg (by omega)]
  by_cases hx : w.val < 0x70
  · rw [if_pos (by simp; omega)]
    exact .inl rfl
  · rw [if_neg (by simp; omega), if_pos (by simp; omega)]
    exact .inr rfl

theorem ctlPage_of_kind {page : Nat} {k : PageKind} (hk : pageKind page = some k)
    (h : k = .quarter ∨ k = .sloubPort ∨ k = .wale ∨ k = .xwale) : ctlPage page = true := by
  unfold ctlPage
  rw [hk]
  obtain rfl | rfl | rfl | rfl := h <;> rfl

/-- A write of CTL to a page that takes it. -/
theorem exec_ctlWrite {s : State} {g : Fin 16384} {page : Nat} {k : PageKind} (v : Word) (hg : g.val = page)
    (hk : pageKind page = some k) (h : k = .quarter ∨ k = .sloubPort ∨ k = .wale ∨ k = .xwale)
    (htakes : s.takesWrites g = true) : exec (.ctlWrite g v) s = s.ok (s.writeCtl page v) := by
  have hx : exec (.ctlWrite g v) s = execCtlWrite g v s := rfl
  rw [hx, execCtlWrite, if_pos (by rw [htakes, hg, ctlPage_of_kind hk h]; rfl), hg]

/-! ### Quarters -/

theorem ctlQuarter_frame (s : State) (d q : Nat) (en dr : Bool) : SameBut [.quarters] s (s.ctlQuarter d q en dr) := by
  simp [SameBut, among]

theorem ctlQuarter_on {s : State} {d q : Nat} (dr : Bool) (hshut : s.shut.st ≠ .shuttered)
    (h : (s.quarter d q).st = .on) : s.ctlQuarter d q false dr = s.setQuarterCtl d q .draining false dr := by
  unfold State.ctlQuarter
  dsimp only
  rw [if_neg (by simpa using hshut), h]

theorem ctlQuarter_draining {s : State} {d q : Nat} (dr : Bool) (hshut : s.shut.st ≠ .shuttered)
    (h : (s.quarter d q).st = .draining) :
    s.ctlQuarter d q true dr = s.setQuarter d q { s.quarter d q with rearm := true } := by
  unfold State.ctlQuarter State.setQuarterCtl
  dsimp only
  rw [if_neg (by simpa using hshut), h]

theorem ctlQuarter_off {s : State} {d q : Nat} (dr : Bool) (hshut : s.shut.st ≠ .shuttered)
    (h : (s.quarter d q).st = .off) (hlive : s.dieLive d = true) (hiso : (s.quarter d q).iso = false)
    (htst : (s.quarter d q).tst = .normal) :
    s.ctlQuarter d q true dr = s.setQuarter d q { s.quarter d q with st := .starting } := by
  unfold State.ctlQuarter State.startQuarter
  dsimp only
  rw [if_neg (by simpa using hshut), h]
  dsimp only
  rw [if_pos hlive, if_pos (by simp [hiso, htst])]

theorem quarter_switches (s : State) (g : Fin 16384) (v : Word) (d : Die) (q : Qtr) (hg : g.val = pgQuarter d q)
    (htakes : s.takesWrites g = true) (hshut : s.shut.st ≠ .shuttered) :
    Completes (.ctlWrite g v) s fun t =>
      t.reg g 0x008 = v &&& 3 ∧
      ((s.quarter d q).st = .on → v.getLsbD 0 = false →
        t.quarter d q = { s.quarter d q with st := .draining, rearm := false, drain := v.getLsbD 1 }) ∧
      ((s.quarter d q).st = .draining → v.getLsbD 0 = true →
        t.quarter d q = { s.quarter d q with rearm := true }) ∧
      ((s.quarter d q).st = .off → v.getLsbD 0 = true → s.dieLive d = true → (s.quarter d q).iso = false →
        (s.quarter d q).tst = .normal → t.quarter d q = { s.quarter d q with st := .starting }) ∧
      t = { s with regs := t.regs, quarters := t.quarters, host := { s.host with changes := t.host.changes } } := by
  have hx := exec_ctlWrite v hg (pageKind_pgQuarter d q) (.inl rfl) htakes
  obtain ⟨hdie, hoff⟩ := page_of_pgQuarter d q
  let s1 := s.poke (pgQuarter d q) 0x008 (v &&& 3)
  have hwrite : s.writeCtl (pgQuarter d q) v = s1.ctlQuarter d q (v.getLsbD 0) (v.getLsbD 1) := by
    rw [State.writeCtl]
    rw [pageKind_pgQuarter d q, hdie, hoff]
  rw [hwrite] at hx
  have hframe := ctlQuarter_frame s1 d q (v.getLsbD 0) (v.getLsbD 1)
  have hreg : (s1.ctlQuarter d q (v.getLsbD 0) (v.getLsbD 1)).reg (pgQuarter d q) 0x008 = v &&& 3 := by
    have hregs : (s1.ctlQuarter d q (v.getLsbD 0) (v.getLsbD 1)).regs = s1.regs := (congrArg State.regs hframe.frame :)
    rw [State.reg, hregs]
    exact poke_reg_same s
  have hon (h : (s.quarter d q).st = .on) (hen : v.getLsbD 0 = false) :
      (s1.ctlQuarter d q (v.getLsbD 0) (v.getLsbD 1)).quarter d q =
        { s.quarter d q with st := .draining, rearm := false, drain := v.getLsbD 1 } := by
    rw [hen, ctlQuarter_on (s := s1) _ hshut h]
    exact setQuarter_quarter_same s1
  have hdrain (h : (s.quarter d q).st = .draining) (hen : v.getLsbD 0 = true) :
      (s1.ctlQuarter d q (v.getLsbD 0) (v.getLsbD 1)).quarter d q = { s.quarter d q with rearm := true } := by
    rw [hen, ctlQuarter_draining (s := s1) _ hshut h]
    exact setQuarter_quarter_same s1
  have hstart (h : (s.quarter d q).st = .off) (hen : v.getLsbD 0 = true) (hlive : s.dieLive d = true)
      (hiso : (s.quarter d q).iso = false) (htst : (s.quarter d q).tst = .normal) :
      (s1.ctlQuarter d q (v.getLsbD 0) (v.getLsbD 1)).quarter d q = { s.quarter d q with st := .starting } := by
    rw [hen, ctlQuarter_off (s := s1) _ hshut h hlive hiso htst]
    exact setQuarter_quarter_same s1
  have hall : SameBut [.regs, .quarters] s (s1.ctlQuarter d q (v.getLsbD 0) (v.getLsbD 1)) := by
    simp [SameBut, among, s1]
  obtain ⟨u, hu⟩ : ∃ u, s1.ctlQuarter d q (v.getLsbD 0) (v.getLsbD 1) = u := ⟨_, rfl⟩
  rw [hu] at hx hreg hon hdrain hstart hall
  refine .of_changes hx fun n => ⟨?_, hon, hdrain, hstart, ?_⟩
  · rw [hg]
    exact hreg
  · exact congrArg (fun t : State => { t with host := { t.host with changes := n } }) hall.frame

/-- A quarter's drain or start ends. -/
theorem exec_quarterDone {s : State} {g : Fin 16384} {d : Die} {q : Qtr} (hg : g.val = pgQuarter d q)
    (hlive : s.dieLive d = true) :
    ((s.quarter d q).st = .draining → s.quarterDrained d q = true →
      exec (.blockDrainDone g) s = s.ok (s.quarterOff d q)) ∧
    ((s.quarter d q).st = .starting → s.asleep = false →
      exec (.blockStartDone g) s = s.ok ((s.quarterUp d q).rearmClear (4 * d + q)).upCheck) := by
  obtain ⟨hdie, hoff⟩ := page_of_pgQuarter d q
  constructor
  · intro hst hdrained
    have hx : exec (.blockDrainDone g) s = execBlockDrainDone g s := rfl
    rw [hx, execBlockDrainDone]
    rw [hg, pageKind_pgQuarter d q, hdie, hoff]
    exact if_pos (by simp [hlive, hst, hdrained])
  · intro hst hasleep
    have hx : exec (.blockStartDone g) s = execBlockStartDone g s := rfl
    rw [hx, execBlockStartDone]
    dsimp only
    rw [hg, pageKind_pgQuarter d q, hdie, hoff]
    exact if_pos (by simp [hlive, hst, hasleep])

theorem quarter_switched (s : State) (g : Fin 16384) (d : Die) (q : Qtr) (hg : g.val = pgQuarter d q)
    (hlive : s.dieLive d = true) :
    ((s.quarter d q).st = .draining → s.quarterDrained d q = true → (s.quarter d q).rearm = false →
      Completes (.blockDrainDone g) s fun t =>
        (t.quarter d q).st = .off ∧ (t.quarter d q).cause = 4 ∧ (t.quarter d q).gated = true ∧
        (t.quarter d q).clock = false) ∧
    ((s.quarter d q).st = .draining → s.quarterDrained d q = true → (s.quarter d q).rearm = true →
      (s.quarter d q).iso = false → (s.quarter d q).tst = .normal →
      Completes (.blockDrainDone g) s fun t => (t.quarter d q).st = .starting ∧ (t.quarter d q).rearm = false) ∧
    ((s.quarter d q).st = .starting → s.asleep = false → s.brokenStall d q = none ∨ s.spareOf d q ≠ none →
      Completes (.blockStartDone g) s fun t =>
        (t.quarter d q).st = .on ∧ (t.quarter d q).gated = false ∧ (t.quarter d q).clock = true) := by
  obtain ⟨hdrainDone, hstartDone⟩ := exec_quarterDone hg hlive
  have hdark := darkQuarter_quarter s d q .off 4
  refine ⟨fun hst hdrained hrearm => ?_, fun hst hdrained hrearm hiso htst => ?_, fun hst hasleep hspare => ?_⟩
  · have hx := hdrainDone hst hdrained
    rw [State.quarterOff, if_neg (by simp [hrearm])] at hx
    obtain ⟨u, hu⟩ : ∃ u, s.darkQuarter d q .off 4 = u := ⟨_, rfl⟩
    rw [hu] at hx hdark
    refine .of_changes hx fun _ => ?_
    change (u.quarter d q).st = _ ∧ (u.quarter d q).cause = _ ∧ (u.quarter d q).gated = _ ∧ (u.quarter d q).clock = _
    rw [hdark]
    exact ⟨rfl, rfl, rfl, rfl⟩
  · have hx := hdrainDone hst hdrained
    rw [State.quarterOff, if_pos hrearm] at hx
    obtain ⟨u, hu⟩ : ∃ u, s.darkQuarter d q .off 4 = u := ⟨_, rfl⟩
    rw [hu] at hx hdark
    rw [State.startQuarter, if_pos (by simp [hdark, QuarterSt.dark, hiso, htst])] at hx
    have hquarter : (u.setQuarter d q { u.quarter d q with st := .starting }).quarter d q =
        { u.quarter d q with st := .starting } := setQuarter_quarter_same u
    refine .of_changes hx fun _ => ?_
    change ((u.setQuarter d q { u.quarter d q with st := .starting }).quarter d q).st = _ ∧
      ((u.setQuarter d q { u.quarter d q with st := .starting }).quarter d q).rearm = _
    rw [hquarter, hdark]
    exact ⟨rfl, rfl⟩
  · have hx := hstartDone hst hasleep
    obtain ⟨-, l, o, hquarter⟩ := quarterUp_comes hspare
    have hclear (u : State) (n : Nat) : (u.rearmClear n).upCheck.quarter d q = u.quarter d q := by
      rw [State.quarter, upCheck_quarters]
      rfl
    have hup : ((s.quarterUp d q).rearmClear (4 * d + q)).upCheck.quarter d q =
        { s.upQuarter d q with slots := l, remapOf := o } := (hclear _ _).trans hquarter
    obtain ⟨u, hu⟩ : ∃ u, ((s.quarterUp d q).rearmClear (4 * d + q)).upCheck = u := ⟨_, rfl⟩
    rw [hu] at hx hup
    refine .of_changes hx fun _ => ?_
    change (u.quarter d q).st = _ ∧ (u.quarter d q).gated = _ ∧ (u.quarter d q).clock = _
    rw [hup]
    exact ⟨rfl, rfl, rfl⟩

/-! ### Ports -/

theorem closeSlots_port (s : State) (p : Nat) (reason : Byte) (q : Nat) : (s.closeSlots p reason).port q = s.port q :=
  port_of_mask (by simp [State.closeSlots]) q

theorem ctlPort_on {s : State} {p : Nat} (dr : Bool) (h : (s.port p).st = .on) :
    (s.ctlPort p false dr).port p = { s.port p with st := .draining, rearm := false, drain := dr } := by
  unfold State.ctlPort
  dsimp only
  rw [h]
  dsimp only
  split
  · exact (closeSlots_port _ _ _ _).trans (setPort_port_same s)
  · exact setPort_port_same s

theorem ctlPort_draining {s : State} {p : Nat} (dr : Bool) (h : (s.port p).st = .draining) :
    (s.ctlPort p true dr).port p = { s.port p with rearm := true } := by
  unfold State.ctlPort
  dsimp only
  rw [h]
  exact setPort_port_same s

theorem ctlPort_off {s : State} {p : Nat} (dr : Bool) (h : (s.port p).st = .off) :
    (s.ctlPort p true dr).port p = { s.port p with st := .starting, link := 1 } := by
  unfold State.ctlPort
  dsimp only
  rw [h]
  exact setPort_port_same s

theorem port_switches (s : State) (g : Fin 16384) (v : Word) (p : Die) (hg : g.val = pgPort p)
    (htakes : s.takesWrites g = true) :
    Completes (.ctlWrite g v) s fun t =>
      ((s.port p).st = .on → v.getLsbD 0 = false →
        (t.port p).st = .draining ∧ (t.port p).drain = v.getLsbD 1 ∧ (t.port p).rearm = false) ∧
      ((s.port p).st = .draining → v.getLsbD 0 = true → t.port p = { s.port p with rearm := true }) ∧
      ((s.port p).st = .off → v.getLsbD 0 = true → t.port p = { s.port p with st := .starting, link := 1 }) := by
  have hx := exec_ctlWrite v hg (pageKind_pgPort p.isLt) (.inr (.inl rfl)) htakes
  have hoff : pgPort p - 0x40 = p := Nat.add_sub_cancel_left 0x40 p.val
  let s1 := s.poke (pgPort p) 0x008 (v &&& 3)
  have hwrite : s.writeCtl (pgPort p) v = s1.ctlPort p (v.getLsbD 0) (v.getLsbD 1) := by
    rw [State.writeCtl]
    rw [pageKind_pgPort p.isLt, hoff]
  have hon (h : (s.port p).st = .on) (hen : v.getLsbD 0 = false) :
      (s1.ctlPort p (v.getLsbD 0) (v.getLsbD 1)).port p =
        { s.port p with st := .draining, rearm := false, drain := v.getLsbD 1 } := by
    rw [hen]
    exact ctlPort_on (s := s1) _ h
  have hdrain (h : (s.port p).st = .draining) (hen : v.getLsbD 0 = true) :
      (s1.ctlPort p (v.getLsbD 0) (v.getLsbD 1)).port p = { s.port p with rearm := true } := by
    rw [hen]
    exact ctlPort_draining (s := s1) _ h
  have hstart (h : (s.port p).st = .off) (hen : v.getLsbD 0 = true) :
      (s1.ctlPort p (v.getLsbD 0) (v.getLsbD 1)).port p = { s.port p with st := .starting, link := 1 } := by
    rw [hen]
    exact ctlPort_off (s := s1) _ h
  rw [hwrite] at hx
  obtain ⟨u, hu⟩ : ∃ u, s1.ctlPort p (v.getLsbD 0) (v.getLsbD 1) = u := ⟨_, rfl⟩
  rw [hu] at hx hon hdrain hstart
  refine .of_changes hx fun _ => ⟨fun h hen => ?_, hdrain, hstart⟩
  change (u.port p).st = _ ∧ (u.port p).drain = _ ∧ (u.port p).rearm = _
  rw [hon h hen]
  exact ⟨rfl, rfl, rfl⟩

/-- What an immediate switch-off does to one slot. -/
def State.dropSlot (s : State) (p f : Nat) : State :=
  match (s.flow p f).st with
  | .free => s
  | .closing => (s.sendClose p f 1).writeOff p f
  | _ => (s.hostClose p f 1 1).writeOff p f

/-- What it does to the slots of a list. -/
def State.dropThese (s : State) (p : Nat) (l : List Nat) : State := s.forEach l fun t f => t.dropSlot p f

theorem dropSlots_eq (s : State) (p : Nat) : s.dropSlots p = s.dropThese p (List.range 1024) := by
  unfold State.dropSlots State.dropThese State.dropSlot
  rfl

theorem dropKept_port (s : State) (p f : Nat) (gone rest : List Kept) :
    ((s.dropKept p f gone rest).port p).rearm = (s.port p).rearm := by
  have hset (t : State) (x : Port) : (t.setPort p x).port p = x := setPort_port_same t
  rw [State.dropKept]
  dsimp only
  rw [hset]
  rfl

theorem writeOff_flow (s : State) (p f : Nat) : ((s.writeOff p f).flow p f).st = .free := by
  unfold State.writeOff
  exact (toFree_flow _ p f 7).1

theorem toFree_flow_other (s : State) {p f g : Nat} (cause : BitVec 4) (hf : f < 1024) (hg : g < 1024) (h : g ≠ f) :
    (s.toFree p f cause).flow p g = s.flow p g := by
  have hset (t : State) (x : Flow) : (t.setFlow p f x).flow p g = t.flow p g :=
    SMap.get_set_other _ _ _ (flow_key_ne hf hg fun hk => h hk.2)
  unfold State.toFree State.dropKept
  dsimp only
  rw [hset]
  exact hset s _

theorem writeOff_flow_other (s : State) {p f g : Nat} (hf : f < 1024) (hg : g < 1024) (h : g ≠ f) :
    (s.writeOff p f).flow p g = s.flow p g := by
  unfold State.writeOff
  dsimp only
  rw [toFree_flow_other _ 7 hf hg h]
  exact flow_of_mask (by simp) p g

theorem writeOff_rearm (s : State) (p f : Nat) : ((s.writeOff p f).port p).rearm = (s.port p).rearm := by
  have hfree (t : State) : ((t.toFree p f 7).port p).rearm = (t.port p).rearm := dropKept_port t p f _ _
  unfold State.writeOff
  dsimp only
  rw [hfree]
  exact congrArg Port.rearm (port_of_mask (by simp) p)

theorem hostClose_flow_other (s : State) {p f g : Nat} (reason : Byte) (cause : BitVec 4) (hf : f < 1024) (hg : g < 1024)
    (h : g ≠ f) : (s.hostClose p f reason cause).flow p g = s.flow p g := by
  unfold State.hostClose
  dsimp only
  split
  · rw [failFlow_flow]
    exact closeSlot_flow_other s reason cause hf hg fun hk => h hk.2
  · rfl

theorem dropSlot_frees (s : State) {p f : Nat} (hf : f < 1024) :
    ((s.dropSlot p f).flow p f).st = .free ∧
    (∀ g, g < 1024 → g ≠ f → (s.dropSlot p f).flow p g = s.flow p g) ∧
    ((s.dropSlot p f).port p).rearm = (s.port p).rearm := by
  have hclose : ∀ g, (s.sendClose p f 1).flow p g = s.flow p g := fun g => flow_of_mask (mask_sendV0 (by simp) _ _ _ _ _) p g
  have hport : (s.sendClose p f 1).port p = s.port p := port_of_mask (mask_sendV0 (by simp) _ _ _ _ _) p
  have hhost : (s.hostClose p f 1 1).port p = s.port p := port_of_mask (by simp) p
  unfold State.dropSlot
  split
  · next h => exact ⟨h, fun _ _ _ => rfl, rfl⟩
  · exact ⟨writeOff_flow _ p f, fun g hg hne => (writeOff_flow_other _ hf hg hne).trans (hclose g),
      (writeOff_rearm _ p f).trans (congrArg Port.rearm hport)⟩
  · exact ⟨writeOff_flow _ p f,
      fun g hg hne => (writeOff_flow_other _ hf hg hne).trans (hostClose_flow_other s 1 1 hf hg hne),
      (writeOff_rearm _ p f).trans (congrArg Port.rearm hhost)⟩

theorem dropThese_frees (p : Nat) {l : List Nat} (hl : ∀ f ∈ l, f < 1024) (s : State) :
    (∀ g, g < 1024 → g ∈ l ∨ (s.flow p g).st = .free → ((s.dropThese p l).flow p g).st = .free) ∧
    ((s.dropThese p l).port p).rearm = (s.port p).rearm := by
  induction l generalizing s with
  | nil => exact ⟨fun g _ h => h.resolve_left List.not_mem_nil, rfl⟩
  | cons f r ih =>
    have hf := hl f List.mem_cons_self
    obtain ⟨hfree, hother, hrearm⟩ := dropSlot_frees s (p := p) hf
    obtain ⟨ihfree, ihrearm⟩ := ih (fun e he => hl e (List.mem_cons_of_mem _ he)) (s.dropSlot p f)
    refine ⟨fun g hg h => ihfree g hg ?_, ihrearm.trans hrearm⟩
    by_cases hgf : g = f
    · rw [hgf]
      exact .inr hfree
    · rw [hother g hg hgf]
      exact h.imp_left fun hmem => (List.mem_cons.mp hmem).resolve_left hgf

theorem portOff_turns (s : State) (p : Nat) :
    ((s.portOff p).port p).st = (if (s.port p).rearm then .starting else .off) ∧ (s.portOff p).flows = s.flows := by
  have hset (t : State) (x : Port) : (t.setPort p x).port p = x := setPort_port_same t
  unfold State.portOff
  dsimp only
  rw [hset]
  constructor
  · split <;> rfl
  · split <;> rfl

theorem port_switched (s : State) (g : Fin 16384) (p : Die) (hg : g.val = pgPort p) :
    ((s.port p).st = .draining → (s.port p).drain = false →
      Completes (.blockDrainDone g) s fun t =>
        (t.port p).st = (if (s.port p).rearm then .starting else .off) ∧
        ∀ f, f < 1024 → (t.flow p f).st = .free) ∧
    ((s.port p).st = .starting → s.dieOut p = false →
      Gives (.blockStartDone g) s (s.setPort p { s.port p with st := .on, link := 3 })) := by
  have hoff : pgPort p - 0x40 = p := Nat.add_sub_cancel_left 0x40 p.val
  constructor
  · intro hst hdrain
    have hx : execBlockDrainDone g s = s.ok ((s.dropThese p (List.range 1024)).portOff p) := by
      rw [execBlockDrainDone, hg, pageKind_pgPort p.isLt, hoff, ← dropSlots_eq]
      dsimp only
      rw [if_pos (by simp [hst]), State.portDrain, if_pos (by simp [hdrain])]
    obtain ⟨hfree, hrearm⟩ := dropThese_frees p (l := List.range 1024) (fun f hf => List.mem_range.mp hf) s
    obtain ⟨hport, hflows⟩ := portOff_turns (s.dropThese p (List.range 1024)) p
    rw [hrearm] at hport
    have hall (f : Nat) (hf : f < 1024) : (((s.dropThese p (List.range 1024)).portOff p).flow p f).st = .free := by
      rw [State.flow, hflows]
      exact hfree f hf (.inl (List.mem_range.mpr hf))
    obtain ⟨u, hu⟩ : ∃ u, (s.dropThese p (List.range 1024)).portOff p = u := ⟨_, rfl⟩
    rw [hu] at hx hport hall
    exact .of_changes hx fun _ => ⟨hport, hall⟩
  · intro hst hin
    have hx : execBlockStartDone g s = s.ok (s.portUpNow p) := by
      rw [execBlockStartDone]
      dsimp only
      rw [hg, pageKind_pgPort p.isLt, hoff]
      exact if_pos (by simp [hst, hin])
    have hup : s.portUpNow p = s.setPort p { s.port p with st := .on, link := 3 } := by
      rw [State.portUpNow]
      dsimp only
      rw [if_neg (by simp [hst])]
    rw [hup] at hx
    exact .of_ok hx

/-! ### Wales -/

theorem exec_ctlWrite_wale {s : State} {g : Fin 16384} (v : Word) {w : WaleIx} (hg : g.val = pgWale w)
    (htakes : s.takesWrites g = true) :
    exec (.ctlWrite g v) s = s.ok ((s.poke (pgWale w) 0x008 (v &&& 3)).ctlWale w (v.getLsbD 0)) := by
  have hoff : pgWale w - 0x100 = w := Nat.add_sub_cancel_left 0x100 w.val
  obtain hk | hk := pageKind_pgWale w
  · rw [exec_ctlWrite v hg hk (.inr (.inr (.inl rfl))) htakes, State.writeCtl, hk, hoff]
  · rw [exec_ctlWrite v hg hk (.inr (.inr (.inr rfl))) htakes, State.writeCtl, hk, hoff]

theorem ctlWale_eq (s : State) (w : Nat) (en : Bool) :
    ∃ m, s.ctlWale w en = { s with wales := { s.wales with wale := m } } := by
  unfold State.ctlWale
  dsimp only
  split
  · exact ⟨_, rfl⟩
  · exact ⟨_, rfl⟩
  · exact ⟨_, rfl⟩
  · exact ⟨_, rfl⟩
  · exact ⟨s.wales.wale, rfl⟩

theorem ctlWale_on {s : State} {w : Nat} (h : (s.wale w).st = .on) :
    (s.ctlWale w false).wale w = { s.wale w with st := .draining, rearm := false } := by
  unfold State.ctlWale
  dsimp only
  rw [h]
  exact setWale_wale_same s

theorem ctlWale_draining {s : State} {w : Nat} (en : Bool) (h : (s.wale w).st = .draining) :
    (s.ctlWale w en).wale w = { s.wale w with rearm := en } := by
  unfold State.ctlWale
  dsimp only
  rw [h]
  exact setWale_wale_same s

theorem ctlWale_off {s : State} {w : Nat} (h : (s.wale w).st = .off) :
    (s.ctlWale w true).wale w = { s.wale w with st := .starting } := by
  unfold State.ctlWale
  dsimp only
  rw [h]
  exact setWale_wale_same s

theorem wale_switches (s : State) (g : Fin 16384) (v : Word) (w : WaleIx) (hg : g.val = pgWale w)
    (htakes : s.takesWrites g = true) :
    Completes (.ctlWrite g v) s fun t =>
      ((s.wale w).st = .on → v.getLsbD 0 = false →
        t.wale w = { s.wale w with st := .draining, rearm := false }) ∧
      ((s.wale w).st = .draining → t.wale w = { s.wale w with rearm := v.getLsbD 0 }) ∧
      ((s.wale w).st = .off → v.getLsbD 0 = true → t.wale w = { s.wale w with st := .starting }) ∧
      t = { s with regs := t.regs, wales := { s.wales with wale := t.wales.wale }
                   host := { s.host with changes := t.host.changes } } := by
  have hx := exec_ctlWrite_wale v hg htakes
  let s1 := s.poke (pgWale w) 0x008 (v &&& 3)
  have hon (h : (s.wale w).st = .on) (hen : v.getLsbD 0 = false) :
      (s1.ctlWale w (v.getLsbD 0)).wale w = { s.wale w with st := .draining, rearm := false } := by
    rw [hen]
    exact ctlWale_on (s := s1) h
  have hdrain (h : (s.wale w).st = .draining) :
      (s1.ctlWale w (v.getLsbD 0)).wale w = { s.wale w with rearm := v.getLsbD 0 } := ctlWale_draining (s := s1) _ h
  have hstart (h : (s.wale w).st = .off) (hen : v.getLsbD 0 = true) :
      (s1.ctlWale w (v.getLsbD 0)).wale w = { s.wale w with st := .starting } := by
    rw [hen]
    exact ctlWale_off (s := s1) h
  obtain ⟨m, hm⟩ := ctlWale_eq s1 w (v.getLsbD 0)
  rw [hm] at hx hon hdrain hstart
  exact .of_changes hx fun _ => ⟨hon, hdrain, hstart, rfl⟩

theorem wale_switched (s : State) (g : Fin 16384) (w : WaleIx) (hg : g.val = pgWale w) :
    ((s.wale w).st = .draining → Completes (.blockDrainDone g) s fun t =>
      (t.wale w).st = (if (s.wale w).rearm then .starting else .off) ∧ (t.wale w).hold = [] ∧
      t.wales.relayDue = true) ∧
    ((s.wale w).st = .starting → Completes (.blockStartDone g) s fun t =>
      (t.wale w).st = .on ∧ (t.wale w).groups false = (s.wale w).groups false ∧
      (t.wale w).groups true = (s.wale w).groups true ∧ t.wales.relayDue = true) := by
  have hoff : pgWale w - 0x100 = w := Nat.add_sub_cancel_left 0x100 w.val
  constructor
  · intro hst
    have hx : execBlockDrainDone g s = s.ok (s.waleOff w) := by
      rw [execBlockDrainDone, hg]
      obtain hk | hk := pageKind_pgWale w
      · rw [hk, hoff]
        exact if_pos (by simp [hst])
      · rw [hk, hoff]
        exact if_pos (by simp [hst])
    have hassume (t : State) : t.noteAssume.wales = t.wales := wales_of_mask (by simp)
    let x : WaleSt := { s.wale w with st := if (s.wale w).rearm then .starting else .off, rearm := false, hold := [] }
    have hwales : (s.waleOff w).wales = { (s.setWale w x).wales with relayDue := true } := hassume _
    have hwale : (s.waleOff w).wale w = x := by
      rw [State.wale, hwales]
      exact setWale_wale_same s
    have hdue : (s.waleOff w).wales.relayDue = true := by rw [hwales]
    obtain ⟨u, hu⟩ : ∃ u, s.waleOff w = u := ⟨_, rfl⟩
    rw [hu] at hx hwale hdue
    refine .of_changes hx fun _ => ?_
    change (u.wale w).st = _ ∧ (u.wale w).hold = _ ∧ _
    rw [hwale]
    exact ⟨rfl, rfl, hdue⟩
  · intro hst
    have hx : execBlockStartDone g s = s.ok (s.waleOn w) := by
      rw [execBlockStartDone]
      dsimp only
      rw [hg]
      obtain hk | hk := pageKind_pgWale w
      · rw [hk, hoff]
        exact if_pos (by simp [hst])
      · rw [hk, hoff]
        exact if_pos (by simp [hst])
    have hwale : (s.waleOn w).wale w = { s.wale w with st := .on, hold := [] } :=
      setWale_wale_same (x := { s.wale w with st := .on, hold := [] }) s
    have hdue : (s.waleOn w).wales.relayDue = true := rfl
    obtain ⟨u, hu⟩ : ∃ u, s.waleOn w = u := ⟨_, rfl⟩
    rw [hu] at hx hwale hdue
    refine .of_changes hx fun _ => ?_
    change (u.wale w).st = _ ∧ (u.wale w).groups false = _ ∧ (u.wale w).groups true = _ ∧ _
    rw [hwale]
    exact ⟨rfl, rfl, rfl, hdue⟩

/-! ### The endpoint's resets -/

/-- The open contexts of a list abort with reason 8. -/
def State.abortOpen (s : State) (l : List Nat) : State :=
  s.forEach l fun t c => if (t.bctx c).st == .open then t.ctxAbort c 8 0 else t

theorem ctxAbort_open {s : State} {c : Nat} (h : (s.bctx c).st = .open) :
    s.ctxAbort c 8 0 = (s.setBctx c { s.bctx c with
      st := .aborted, reason := 8, wher := 0, staged := [], mark := 0, applySent := false, faults := [] }).count
        pgBundle 1 := by
  rw [State.ctxAbort, if_neg (by simp [BndCtx.live, h])]
  exact if_neg (by decide)

theorem abortOpen_aborts {l : List Nat} (hl : l.Nodup) (s : State) :
    SameBut [.cnt, .bnd] s (s.abortOpen l) ∧
    ∀ c, (c ∈ l → (s.bctx c).st = .open →
        ((s.abortOpen l).bctx c).st = .aborted ∧ ((s.abortOpen l).bctx c).reason = 8 ∧
        ((s.abortOpen l).bctx c).staged = []) ∧
      (c ∉ l → (s.abortOpen l).bctx c = s.bctx c) := by
  induction l generalizing s with
  | nil => exact ⟨rfl, fun c => ⟨fun h => absurd h List.not_mem_nil, fun _ => rfl⟩⟩
  | cons e r ih =>
    obtain ⟨hnot, hnodup⟩ := List.nodup_cons.mp hl
    let t := if (s.bctx e).st == .open then s.ctxAbort e 8 0 else s
    have hframe : SameBut [.cnt, .bnd] s t := by
      unfold t
      split
      · next h =>
        rw [ctxAbort_open (by simpa using h)]
        simp [SameBut, among]
      · rfl
    have hother (c : Nat) (hc : c ≠ e) : t.bctx c = s.bctx c := by
      have hset (x : BndCtx) : ((s.setBctx e x).count pgBundle 1).bctx c = s.bctx c := SMap.get_set_other _ _ _ hc
      unfold t
      split
      · next h =>
        rw [ctxAbort_open (by simpa using h)]
        exact hset _
      · rfl
    obtain ⟨ihframe, ihctx⟩ := ih hnodup t
    refine ⟨ihframe.trans hframe, fun c => ⟨fun hc hopen => ?_, fun hc => ?_⟩⟩
    · by_cases hce : c = e
      · have hkeep : (t.abortOpen r).bctx c = t.bctx c := (ihctx c).2 (hce ▸ hnot)
        have hset (x : BndCtx) : ((s.setBctx e x).count pgBundle 1).bctx e = x := SMap.get_set_same _ _ _ _
        have ht : t.bctx c = { s.bctx c with
            st := .aborted, reason := 8, wher := 0, staged := [], mark := 0, applySent := false, faults := [] } := by
          unfold t
          rw [hce] at hopen ⊢
          rw [if_pos (by simp [hopen]), ctxAbort_open hopen]
          exact hset _
        change ((t.abortOpen r).bctx c).st = _ ∧ ((t.abortOpen r).bctx c).reason = _ ∧
          ((t.abortOpen r).bctx c).staged = _
        rw [hkeep, ht]
        exact ⟨rfl, rfl, rfl⟩
      · exact (ihctx c).1 ((List.mem_cons.mp hc).resolve_left hce) (by rw [hother c hce]; exact hopen)
    · have hce : c ≠ e := fun h => hc (h ▸ List.mem_cons_self)
      exact ((ihctx c).2 fun h => hc (List.mem_cons_of_mem _ h)).trans (hother c hce)

theorem endpoint_resets (s : State) (b : Bool) (hlink : s.host.linkUp = true) :
    Completes (.endpointReset b) s fun t =>
      t.host.latch = [] ∧ t.host.d3hot = false ∧ t.host.linkUp = !b ∧ t.regField pgAperture 0x040 11 4 = 0 ∧
      (∀ c, c < 4 → (s.bctx c).st = .open →
        (t.bctx c).st = .aborted ∧ (t.bctx c).reason = 8 ∧ (t.bctx c).staged = []) ∧
      t = { s with regs := t.regs, cnt := t.cnt, bnd := t.bnd, host := t.host } := by
  let s1 := s.pokeField pgAperture 0x040 11 4 0
  have hx : execEndpointReset b s = s.ok { s1.abortOpen (List.range 4) with
      host := { (s1.abortOpen (List.range 4)).host with latch := [], d3hot := false, linkUp := !b } } := by
    rw [execEndpointReset, if_neg (by simp [hlink])]
    simp only [State.abortOpen, s1]
  obtain ⟨hframe, hctx⟩ := abortOpen_aborts (l := List.range 4) List.nodup_range s1
  have hfield : s1.regField pgAperture 0x040 11 4 = 0 := by
    rw [pokeField_regField]
    all_goals decide
  obtain ⟨u, hu⟩ : ∃ u, s1.abortOpen (List.range 4) = u := ⟨_, rfl⟩
  rw [hu] at hx hframe hctx
  have hregs : u.regs = s1.regs := (congrArg State.regs hframe.frame :)
  have hbase : u.regField pgAperture 0x040 11 4 = 0 := by
    rw [State.regField, State.reg, hregs]
    exact hfield
  have hhost : u.host = s.host := (congrArg State.host hframe.frame :)
  have hall : u = { s with regs := u.regs, cnt := u.cnt, bnd := u.bnd } := by
    conv_lhs => rw [hframe.frame]
    rw [hregs]
    rfl
  refine .of_changes hx fun n => ⟨rfl, rfl, rfl, hbase, fun c hc => (hctx c).1 (List.mem_range.mpr hc), ?_⟩
  exact congrArg (fun t : State => { t with host := { u.host with
    latch := [], d3hot := false, linkUp := !b, changes := n } }) hall

/-- Settles O53. -/
theorem blocksSwitch : Obligations.BlocksSwitch :=
  ⟨quarter_switches, port_switches, wale_switches, quarter_switched, port_switched, wale_switched, endpoint_resets⟩

end Sys2Proof.Machine
end


section

/-! SUPPORT. Counters of engine pages that no fault, stream or reduction counts in. -/

namespace Sys2Proof.Machine

/-- An engine page in which neither a dark quarter nor a die that leaves the step counts. -/
def Calm (q : Nat) : Prop :=
  q < 0x1000 ∧ q ≠ pgReduce ∧ q ≠ pgBell ∧ q ≠ pgProgram ∧ q ≠ pgLedger ∧ q ≠ pgClocks

/-- A command's part leaves the counters of calm pages. -/
def Quiet (s t : State) : Prop := ∀ q j, Calm q → j < 4 → t.counter q j = s.counter q j

theorem Quiet.refl (s : State) : Quiet s s := fun _ _ _ _ => rfl

theorem Quiet.trans {s t u : State} (h : Quiet s t) (g : Quiet t u) : Quiet s u :=
  fun q j hq hj => (g q j hq hj).trans (h q j hq hj)

theorem Quiet.of_mask {s t : State} (h : t.mask (allBut .cnt) = s.mask (allBut .cnt)) : Quiet s t :=
  fun q j _ _ => counter_of_mask h q j

theorem Quiet.of_cnt {s t u : State} (h : Quiet s t) (hcnt : u.cnt = t.cnt) : Quiet s u :=
  fun q j hq hj => (congrArg (SMap.get 0 · _) hcnt).trans (h q j hq hj)

theorem Quiet.forEach {α : Type} {f : State → α → State} (hf : ∀ t e, Quiet t (f t e)) (l : List α) (s : State) :
    Quiet s (s.forEach l f) :=
  fun q j hq hj => forEach_keeps (fun t => t.counter q j) (fun t e => hf t e q j hq hj) l s

theorem Quiet.foldl {α : Type} {f : State → α → State} (hf : ∀ t e, Quiet t (f t e)) (l : List α) (s : State) :
    Quiet s (l.foldl f s) := Quiet.forEach hf l s

theorem Quiet.ite {s t u : State} {c : Prop} [Decidable c] (ht : Quiet s t) (hu : Quiet s u) :
    Quiet s (if c then t else u) := by
  split
  · exact ht
  · exact hu

/-- A count in a page of a die. -/
theorem Quiet.count_die (s : State) (d o i n : Nat) (ho : o < 0x80) (hi : i < 4) : Quiet s (s.count (pgDie d o) i n) :=
  fun q j hq hj => count_counter_other s (by
    obtain ⟨hlt, -⟩ := hq
    unfold pgDie
    omega)

theorem quiet_count_page {s : State} {p i : Nat} (n : Nat) (hp : ¬ Calm p) (hi : i < 4) : Quiet s (s.count p i n) :=
  fun q j hq hj => count_counter_other s (by
    intro h
    have hpq : q = p := by omega
    exact hp (hpq ▸ hq))

theorem not_calm_die (d o : Nat) : ¬ Calm (pgDie d o) := fun h => by
  obtain ⟨hlt, -⟩ := h
  unfold pgDie at hlt
  omega

theorem not_calm_program : ¬ Calm pgProgram := fun ⟨_, _, _, h, _⟩ => h rfl
theorem not_calm_reduce : ¬ Calm pgReduce := fun ⟨_, h, _⟩ => h rfl
theorem not_calm_bell : ¬ Calm pgBell := fun ⟨_, _, h, _⟩ => h rfl
theorem not_calm_ledger : ¬ Calm pgLedger := fun ⟨_, _, _, _, h, _⟩ => h rfl
theorem not_calm_clocks : ¬ Calm pgClocks := fun ⟨_, _, _, _, _, h⟩ => h rfl

theorem not_calm_keyPage (k : Nat) : ¬ Calm (keyPage k) := by
  unfold keyPage
  split
  · exact not_calm_die _ _
  · exact not_calm_die _ _
  · exact not_calm_die _ _

/-! ### Operations that count in other pages alone -/

theorem quiet_raise (s : State) (page code : Nat) : Quiet s (s.raise page code) :=
  fun q j hq hj => raise_counter_other s code (by
    obtain ⟨hlt, -⟩ := hq
    unfold pgDieHealth pgDie
    omega)

theorem quiet_breach (s : State) (code d stall agent index : Nat) : Quiet s (s.breach code d stall agent index) :=
  fun q j hq _ => breach_counter s code d stall agent index (by
    obtain ⟨-, -, -, hne, -⟩ := hq
    omega)

theorem quiet_ledWoff (s : State) (d cls i n : Nat) : Quiet s (s.ledWoff d cls i n) := by
  unfold State.ledWoff
  refine .ite (.refl s) ?_
  refine quiet_count_page (s := s.setLedger d cls i _) 1 ?_ (by decide)
  split
  · exact not_calm_ledger
  · exact not_calm_die _ _

theorem quiet_dropXfers (s : State) (d u st : Nat) (gone : Bool) (next : StreamSt) :
    Quiet s (s.dropXfers d u st gone next) := by
  have hreturn (t : State) (i n : Nat) : Quiet t (t.ledReturn d lgXfer i n) := .of_mask (by simp)
  have hone (t : State) (i n : Nat) : Quiet t (if gone then t.ledWoff d lgXfer i n else t.ledReturn d lgXfer i n) :=
    .ite (quiet_ledWoff t d lgXfer i n) (hreturn t i n)
  unfold State.dropXfers
  dsimp only
  have hset (x : Stream) : Quiet s (s.setStream d u st x) := .refl s
  refine .ite ((hset _).trans (hone _ _ _)) ?_
  cases gone
  · exact ((hset _).trans (hreturn _ _ _)).trans (hreturn _ _ _)
  · exact ((hset _).trans (quiet_ledWoff _ _ _ _ _)).trans (quiet_ledWoff _ _ _ _ _)

theorem quiet_stopUnit (s : State) (d u : Nat) (dark : Bool) : Quiet s (s.stopUnit d u dark) := by
  unfold State.stopUnit State.eachStream
  refine .forEach (fun t st => ?_) _ s
  exact .ite (quiet_dropXfers t d u st true .stopped) (.of_mask (mask_setStream (by simp) t d u st _))

theorem quiet_dropStreams (s : State) (d : Nat) (sel : Nat → Stream → Bool) :
    Quiet s (s.dropStreams d sel) :=
  .forEach (fun t _ => quiet_dropXfers t _ _ _ _ _) _ s

theorem quiet_decideBasket (s : State) (b : Nat) (byDead : Bool) : Quiet s (s.decideBasket b byDead) :=
  quiet_count_page (s := s.setBasket b _) 1 not_calm_reduce (by decide)

theorem quiet_dropLevel4 (s : State) (d b : Nat) : Quiet s (s.dropLevel4 d b) := by
  have hcredit (t : State) : Quiet t (t.pipeCredit d 4) := .of_mask (by simp)
  unfold State.dropLevel4
  dsimp only
  split
  · exact .ite ((quiet_ledWoff (s.setLevel d 4 _) d lgPipe 4 1).trans (hcredit _)) (.refl s)
  · exact .refl s

theorem quiet_redecide (s : State) (lost b : Nat) : Quiet s (s.redecide lost b) := by
  have hleft (l : List Nat) (t : State) : Quiet t (t.forEach l fun t d =>
      (t.setDieBasket d b { t.dieBasket d b with st := .ready, engStart := 0, engDone := 0 }).dropLevel4 d b) :=
    .forEach (fun u d => (Quiet.of_mask (mask_setDieBasket (by simp) u d b _)).trans (quiet_dropLevel4 _ d b)) l t
  have hbasket (x : EngBasket) : Quiet s (s.setBasket b x) := .of_mask (mask_setBasket (by simp) s b x)
  have hsum (t : State) : Quiet t (t.dropSum lost b) := .of_mask (mask_dropSum (by simp) t lost b)
  have hunstage (l : List StageTile) (t : State) : Quiet t (l.foldl (fun t e => t.unstage lost b e) t) :=
    .foldl (fun u e => .of_mask (mask_unstage (by simp) u lost b e)) l t
  have hlast (t : State) (x : DieBasket) : Quiet t ((t.setDieBasket lost b x).count pgReduce 0) :=
    (Quiet.of_mask (mask_setDieBasket (by simp) t lost b x)).trans (quiet_count_page 1 not_calm_reduce (by decide))
  unfold State.redecide
  dsimp only
  refine .ite ?_ (.refl s)
  refine .trans (.trans (.trans ?_ (hsum _)) (hunstage _ _)) (hlast _ _)
  exact ((hbasket _).trans (hleft _ _)).trans (quiet_dropLevel4 _ lost b)

theorem quiet_collectLoss (s : State) (d : Nat) : Quiet s (s.collectLoss d) := by
  have hissue (l : List Nat) (t : State) : Quiet t (t.forEach l fun u k => u.ledIssue 0 lgBell k) :=
    .forEach (fun u k => .of_mask (mask_ledIssue (by simp) u 0 lgBell k 1)) l t
  have hset (t : State) (b : Nat) (x : EngBasket) : Quiet t (t.setBasket b x) := .of_mask (mask_setBasket (by simp) t b x)
  have hlead (x : Red) : Quiet s { s with red := x } := .refl s
  unfold State.collectLoss
  dsimp only
  refine (hlead _).trans (.forEach (fun t b => ?_) _ _)
  refine .ite (quiet_redecide t d b) (.ite ?_ (.ite ?_ ?_))
  · exact ((quiet_redecide t d b).trans (hset _ b _)).trans (hissue _ _)
  · exact ((quiet_redecide t d b).trans (hset _ b _)).trans (quiet_decideBasket _ b false)
  · exact (quiet_redecide t d b).trans (hset _ b _)

theorem quiet_noteBytes (s : State) (k : Nat) (rd : Bool) (n : Nat) : Quiet s (s.noteBytes k rd n) := by
  unfold State.noteBytes
  refine .ite (quiet_count_page n (not_calm_die _ _) ?_) (.refl s)
  cases rd <;> decide

theorem quiet_writeWords (s : State) (k : Nat) (l : List MWord) : Quiet s (s.writeWords k l) :=
  (Quiet.foldl (fun _ _ => .of_mask (by simp)) _ s).trans (quiet_noteBytes _ k false _)

theorem quiet_noteCe (s : State) (page : Nat) : Quiet s (s.noteCe page) := by
  unfold State.noteCe
  exact .ite ((Quiet.refl s).trans (quiet_raise (s.setCeWin page _) page 0x0204)) (.refl s)

theorem quiet_noteRead (s : State) (src w : Nat) : Quiet s (s.noteRead src w) := by
  have hcorrected (t : State) (k : Nat) : Quiet t (t.noteCorrected k) :=
    .ite (quiet_count_page 1 (not_calm_keyPage k) (by decide)) (.refl t)
  have herr (t : State) (p cls : Nat) : Quiet t (t.noteErr p src cls w) := .of_mask (by simp)
  have hqueue (t : State) (d : Nat) : Quiet t (t.queueRewrite d w) := .of_mask (by simp)
  have hsat (o : Nat) : Quiet s (s.incSat (keyPage (8 * w)) o) := .refl s
  have hword (t : State) (x : MWord) : Quiet t (t.putWord w x) := .of_mask (by simp)
  unfold State.noteRead
  dsimp only
  refine .ite (hsat _) ?_
  split
  · exact .refl s
  · exact (((hsat _).trans (hcorrected _ _)).trans (herr _ _ _)).trans (quiet_noteCe _ _)
  · exact ((((hsat _).trans (hcorrected _ _)).trans (herr _ _ _)).trans (quiet_noteCe _ _)).trans (hqueue _ _)
  · exact (((hsat _).trans (herr _ _ _)).trans (hword _ _)).trans (quiet_raise _ _ _)

theorem quiet_noteReads (s : State) (src k n : Nat) : Quiet s (s.noteReads src k n) :=
  (Quiet.foldl (fun t w => quiet_noteRead t src w) _ s).trans (quiet_noteBytes _ k true n)

/-- What other parts change keeps the counters. -/
theorem Quiet.then {s t u : State} (h : Quiet s t) (g : u.mask (allBut .cnt) = t.mask (allBut .cnt)) : Quiet s u :=
  h.trans (.of_mask g)

/-! ### Barriers -/

theorem quiet_bellOperands (s : State) (parts : List (Nat × Nat)) : Quiet s (s.bellOperands parts).1 := by
  have hops (l : List (Nat × Nat)) : ∀ a : State × List MWord, Quiet a.1 (l.foldl (fun (a : State × List MWord) e =>
      match a.1.slotOf e.1 e.2, (a.1.stallOf e.1 e.2).bell with
      | some p, some w =>
        let k := slotAddr e.1 p (64 * w.srcAddr.toNat)
        (a.1.noteReads srcStall k 8, a.2 ++ [a.1.peek (k / 8)])
      | _, _ => a) a).1 := by
    induction l with
    | nil => exact fun a => .refl a.1
    | cons e r ih =>
      intro a
      refine .trans ?_ (ih _)
      dsimp only
      split
      · exact quiet_noteReads _ _ _ _
      · exact .refl a.1
  exact hops parts (s, [])

theorem quiet_bellSum (s : State) (parts : List (Nat × Nat)) : Quiet s (s.bellSum parts) := by
  unfold State.bellSum
  refine (quiet_bellOperands s parts).trans (.foldl (fun t e => ?_) _ _)
  split
  · exact quiet_writeWords t _ _
  · exact .refl t

theorem quiet_bellFinish (s : State) (parts : List (Nat × Nat)) (w : BellWord) : Quiet s (s.bellFinish parts w) := by
  have hadvance (t : State) : Quiet t (parts.foldl (fun t e =>
      t.modStall e.1 e.2 fun x => { x.advance .run with bell := none }) t) := by
    refine Quiet.foldl (fun u e => ?_) parts t
    exact .of_mask (mask_modStall (by simp) u e.1 e.2 _)
  have hreturn (l : List Nat) (t : State) : Quiet t (l.foldl (fun t d => t.ledReturn 0 lgBell d) t) :=
    .foldl (fun u d => .of_mask (mask_ledReturn (by simp) u 0 lgBell d 1)) l t
  have hcount (t : State) : Quiet t (t.count pgBell (if w.op = 1 then 1 else 0)) :=
    quiet_count_page 1 not_calm_bell (by split <;> decide)
  have hpeak (t : State) (v : Nat) : Quiet t (t.peak pgBell 0x048 v).freeNext :=
    .of_mask ((mask_freeNext (by simp) _).trans (mask_peak (by simp) t pgBell 0x048 v))
  have hpoint (t : State) : Quiet t (t.passPoint w.point.toNat) := .of_mask (mask_passPoint (by simp) t _)
  have hsum : Quiet s (if w.op = 1 then s.bellSum parts else s) := .ite (quiet_bellSum s parts) (.refl s)
  unfold State.bellFinish
  dsimp only
  refine .ite (hsum.trans (hadvance _)) (.ite ?_ ?_)
  · exact (((hsum.trans (hadvance _)).trans (hcount _)).trans (hreturn _ _)).trans (hpeak _ _)
  · exact ((((hsum.trans (hadvance _)).trans (hcount _)).trans (hreturn _ _)).trans (hpeak _ _)).trans (hpoint _)

theorem quiet_bellTry (s : State) (d l : Nat) : Quiet s (s.bellTry d l) := by
  unfold State.bellTry
  split
  · exact .refl s
  · exact .ite (quiet_bellFinish s _ _) (.refl s)

theorem quiet_bellRecheck (s : State) : Quiet s s.bellRecheck :=
  .forEach (fun t d => .forEach (fun u l => quiet_bellTry u d l) _ t) _ s

/-! ### A die that leaves the step, and a quarter that goes dark -/

/-- The work of a die that leaves the step is dropped. -/
def State.leaveWork (s : State) (d : Nat) : State :=
  let tokens := (List.range 64).any fun l =>
    match (s.stallOf d l).bell with | some w => w.group == 0 | none => false
  let s0 := if tokens then s.ledReturn 0 lgBell d else s
  let s1 := s0.dropStreams d fun u x => u == 72 && x.role == roleBcast
  (s1.abandonDie d).forEach (List.range 72) fun t p => t.stopUnit d p false

theorem leaveStep_eq (s : State) (d : Nat) : s.leaveStep d =
    if !s.running || !s.inStep d then s
    else (((((s.leaveWork d).dropBaskets d).setDie d { (s.leaveWork d).die d with service := 1 }).count
      (pgDieHealth d) 1).collectLoss d).bellRecheck := by
  unfold State.leaveStep State.leaveWork
  dsimp only <;> rfl

theorem quiet_leaveWork (s : State) (d : Nat) : Quiet s (s.leaveWork d) := by
  have hreturn : Quiet s (s.ledReturn 0 lgBell d) := .of_mask (mask_ledReturn (by simp) s 0 lgBell d 1)
  unfold State.leaveWork
  dsimp only
  refine .trans ?_ (.forEach (fun t p => quiet_stopUnit t d p false) _ _)
  exact ((Quiet.ite hreturn (.refl s)).trans (quiet_dropStreams _ d _)).then (mask_abandonDie (by simp) _ d)

theorem quiet_leaveStep (s : State) (d : Nat) : Quiet s (s.leaveStep d) := by
  have hbaskets (t : State) : Quiet t (t.dropBaskets d) := .of_mask (mask_dropBaskets (by simp) t d)
  have hdie (t : State) (x : DieSt) : Quiet t (t.setDie d x) := .of_mask (mask_setDie (by simp) t d x)
  have hcount (t : State) : Quiet t (t.count (pgDieHealth d) 1) := quiet_count_page 1 (not_calm_die d 1) (by decide)
  rw [leaveStep_eq]
  refine .ite (.refl s) ?_
  exact (((((quiet_leaveWork s d).trans (hbaskets _)).trans (hdie _ _)).trans (hcount _)).trans
    (quiet_collectLoss _ d)).trans (quiet_bellRecheck _)

theorem quiet_pbAbort (s : State) (n : Nat) (reason : Byte) : Quiet s (s.pbAbort n reason) := by
  have hreturn (l : List Nat) (t : State) : Quiet t (l.foldl (fun t d => t.ledReturn 0 lgBell d) t) :=
    .foldl (fun u d => .of_mask (mask_ledReturn (by simp) u 0 lgBell d 1)) l t
  have hpoke (t : State) (d : Nat) (v : Word) : Quiet t ((t.pbNote d n).poke (pgDieBundle d) 0x044 v) :=
    .of_mask ((mask_poke (by simp) _ _ _ _).trans (mask_pbNote (by simp) t d n))
  have hnote (l : List Nat) (t : State) : Quiet t (l.foldl (fun (t : State) d =>
      (((t.discardPuts d n).count (pgDieBundle d) 1).pbNote d n).poke (pgDieBundle d) 0x044
        (BitVec.ofNat 32 (reason.toNat * 2 ^ 24 + n))) t) :=
    .foldl (fun u d => ((Quiet.of_mask (mask_discardPuts (by simp) u d n)).trans
      (quiet_count_page 1 (not_calm_die d 2) (by decide))).trans (hpoke _ d _)) l t
  have hbreach (l : List (Nat × Nat)) (t : State) : Quiet t (l.foldl (fun t e =>
      t.breach 0x0305 e.1 e.2 0 (t.stallOf e.1 e.2).cmdIndex) t) :=
    .foldl (fun u e => quiet_breach u _ _ _ _ _) l t
  have hleave (l : List Nat) (t : State) : Quiet t (l.foldl (fun t d => t.pbLeave d n) t) :=
    .foldl (fun u d => .of_mask (mask_pbLeave (by simp) u d n)) l t
  have hset (t : State) (x : PBundle) : Quiet t (t.setPbundle n x) := .of_mask (mask_setPbundle (by simp) t n x)
  unfold State.pbAbort
  dsimp only
  split
  · refine .trans (.trans ?_ (hset _ _)) (quiet_raise _ _ _)
    exact (((hreturn _ s).trans (hnote _ _)).trans (.ite (hbreach _ _) (.refl _))).trans (hleave _ _)
  · refine .trans ?_ (hset _ _)
    exact (((hreturn _ s).trans (hnote _ _)).trans (.ite (hbreach _ _) (.refl _))).trans (hleave _ _)

theorem quiet_pbDark (s : State) (d q : Nat) : Quiet s (s.pbDark d q) :=
  .forEach (fun t n => .ite (quiet_pbAbort t n 6) (.refl t)) _ s

theorem quiet_postMark (s : State) (d m n : Nat) (b : Poster) : Quiet s (s.postMark d m n b) := by
  unfold State.postMark
  exact .ite (quiet_breach s _ _ _ _ _)
    ((Quiet.of_mask (mask_setMark (by simp) s d m _)).then (mask_serveReqs (by simp) _ d m _))

theorem quiet_walkEnd (s : State) (d u st : Nat) : Quiet s (s.walkEnd d u st) := by
  have hset (x : Stream) : Quiet s (s.setStream d u st x) := .of_mask (mask_setStream (by simp) s d u st x)
  unfold State.walkEnd
  exact (hset _).trans (.forEach (fun t _ => quiet_postMark t d _ _ _) _ _)

theorem quiet_completeXfer (s : State) (d u st t : Nat) (gone : Bool) : Quiet s (s.completeXfer d u st t gone) := by
  have hset (x : Stream) : Quiet s (s.setStream d u st x) := .of_mask (mask_setStream (by simp) s d u st x)
  have hreturn (v : State) (i : Nat) : Quiet v (if gone then v.ledWoff d lgXfer i else v.ledReturn d lgXfer i) :=
    .ite (quiet_ledWoff v d lgXfer i 1) (.of_mask (mask_ledReturn (by simp) v d lgXfer i 1))
  have hcount (v : State) (c : Prop) [Decidable c] (n : Nat) :
      Quiet v (if c then (v.count (pgStreams d) 0).count (pgStreams d) 1 n else v) :=
    .ite ((quiet_count_page 1 (not_calm_die d 5) (by decide)).trans (quiet_count_page n (not_calm_die d 5) (by decide)))
      (.refl v)
  have hunlimit (v : State) : Quiet v (v.unlimit d u) := .of_mask (mask_unlimit (by simp) v d u)
  unfold State.completeXfer
  dsimp only
  refine .trans (.trans (.trans (.trans ((hset _).trans (hreturn _ _)) (.ite (hreturn _ _) (.refl _))) (hcount _ _ _))
    (hunlimit _)) (quiet_walkEnd _ d u st)

theorem quiet_darkPortOut (s : State) (d : Nat) : Quiet s (s.darkPortOut d) := by
  have hdrop (t : State) (st k : Nat) : Quiet t ((t.unqueue d st k).completeXfer d 72 st k true) :=
    (Quiet.of_mask (mask_unqueue (by simp) t d st k)).trans (quiet_completeXfer _ d 72 st k true)
  unfold State.darkPortOut
  refine .forEach (fun t e => ?_) _ s
  refine .forEach (fun u x => ?_) _ t
  exact hdrop u e.1 x.t

theorem quiet_dropQuarter (s : State) (d q : Nat) (clocked : Bool) : Quiet s (s.dropQuarter d q clocked) := by
  have hslot (t : State) (p : Nat) (x : Stall) : Quiet t (t.setSlot d p x) := .of_mask (mask_setSlot (by simp) t d p x)
  have hclock (t : State) : Quiet t (if clocked then t.count pgClocks 2 else t) :=
    .ite (quiet_count_page 1 not_calm_clocks (by decide)) (.refl t)
  have hrelay (t : State) : Quiet t (t.relayDie d) := .of_mask (mask_relayDie (by simp) t d)
  unfold State.dropQuarter
  dsimp only
  refine .trans (.trans (.trans ?_ (.forEach (fun t i => hslot t _ _) _ _)) (hclock _)) (hrelay _)
  exact (Quiet.forEach (fun t i => quiet_stopUnit t d _ true) _ s).trans (quiet_darkPortOut _ d)

theorem quiet_switchDark (s : State) (d q : Nat) (st : BlkSt) (cause : BitVec 4) : Quiet s (s.switchDark d q st cause) :=
  (Quiet.ite (quiet_pbDark s d q) (.refl s)).then (mask_setQuarter (by simp) _ d q _)

theorem quiet_forbidReplay (s : State) : Quiet s s.forbidReplay := .refl s

/-- A quarter that goes dark counts in no calm page. -/
theorem quiet_darkQuarter (s : State) (d q : Nat) (st : BlkSt) (cause : BitVec 4) : Quiet s (s.darkQuarter d q st cause) := by
  rw [darkQuarter_eq]
  refine .ite ?_ ?_
  · exact (((quiet_switchDark s d q st cause).trans (quiet_dropQuarter _ d q _)).trans (quiet_forbidReplay _)).trans
      (quiet_leaveStep _ d)
  · exact (quiet_switchDark s d q st cause).trans (quiet_dropQuarter _ d q _)

end Sys2Proof.Machine
end


section

/-! SUPPORT. Proof of O51: temperatures. -/

namespace Sys2Proof.Machine

/-! ### A quarter switched off for heat -/

theorem raise_quarters (s : State) (page code : Nat) : (s.raise page code).quarters = s.quarters :=
  quarters_of_mask (by simp)

theorem raise_dies (s : State) (page code : Nat) : (s.raise page code).dies = s.dies := dies_of_mask (by simp)

/-- A fault of a page of a die that is not out. -/
theorem raise_lastCode_die {s : State} {d o : Nat} {code : Nat} (ho : o < 0x80) (hlt : code < 2816)
    (hin : s.dieOut d = false) : fieldOf ((s.raise (pgDie d o) code).reg (pgDie d o) rFault) 31 16 = code :=
  raise_lastCode s hlt fun _ => .inl (by rw [pageDie_pgDie d ho]; exact hin)

theorem leaveStep_die (s : State) (d e : Nat) :
    ∃ v, (s.leaveStep d).die e = { s.die e with service := v } ∧ (v = (s.die e).service ∨ v = 1) := by
  rw [leaveStep_eq]
  split
  · exact ⟨_, rfl, .inl rfl⟩
  · have hwork : (s.leaveWork d).dies = s.dies := dies_of_mask (by simp [State.leaveWork])
    have hend (t : State) : (((t.count (pgDieHealth d) 1).collectLoss d).bellRecheck).dies = t.dies :=
      dies_of_mask (by simp)
    have hdrop (t : State) : (t.dropBaskets d).dies = t.dies := dies_of_mask (by simp)
    by_cases he : e = d
    · refine ⟨1, ?_, .inr rfl⟩
      have hsame (t : State) (x : DieSt) : (t.setDie d x).die d = x := SMap.get_set_same _ _ _ _
      rw [he, State.die, hend, ← State.die, hsame, State.die, State.die, hwork]
    · refine ⟨(s.die e).service, ?_, .inl rfl⟩
      have hother (t : State) (x : DieSt) : (t.setDie d x).die e = t.die e := SMap.get_set_other _ _ _ he
      rw [State.die, hend, ← State.die, hother, State.die, hdrop, hwork, State.die]

theorem switchDark_dies (s : State) (d q : Nat) (st : BlkSt) (cause : BitVec 4) :
    (s.switchDark d q st cause).dies = s.dies := dies_of_mask (by simp [State.switchDark])

theorem dropQuarter_dies (s : State) (d q : Nat) (clocked : Bool) : (s.dropQuarter d q clocked).dies = s.dies :=
  dies_of_mask (by simp [State.dropQuarter])

/-- A die whose quarter goes dark may leave the step. -/
theorem darkQuarter_die (s : State) (d q e : Nat) (st : BlkSt) (cause : BitVec 4) :
    ∃ v, (s.darkQuarter d q st cause).die e = { s.die e with service := v } ∧ (v = (s.die e).service ∨ v = 1) := by
  have hdrop (n : Bool) : ((s.switchDark d q st cause).dropQuarter d q n).die e = s.die e := by
    rw [State.die, dropQuarter_dies, switchDark_dies, State.die]
  rw [darkQuarter_eq]
  split
  · obtain ⟨v, hdie, hv⟩ := leaveStep_die
      ((s.switchDark d q st cause).dropQuarter d q (s.quarter d q).clock).forbidReplay d e
    have hforbid (t : State) : t.forbidReplay.die e = t.die e := rfl
    rw [hforbid, hdrop] at hdie hv
    exact ⟨v, hdie, hv⟩
  · exact ⟨(s.die e).service, hdrop _, .inl rfl⟩

/-- A quarter in TRIPPED that goes dark for heat. -/
def State.heatDark (s : State) (d q : Nat) : State :=
  (s.darkQuarter d q .off 1).setQuarter d q { (s.darkQuarter d q .off 1).quarter d q with tst := .tripped }

theorem heatOff_eq {s : State} {d q : Nat} (hst : (s.quarter d q).st ≠ .faulted) :
    s.heatOff d q = ((s.heatDark d q).raise (pgQuarter d q) 0x0802).count pgThermal 1 := by
  unfold State.heatOff State.heatDark
  dsimp only
  rw [if_neg (by simpa using hst)]

theorem heatDark_quarter (s : State) (d q : Nat) :
    (s.heatDark d q).quarter d q = { (s.quarter d q).dark .off 1 with tst := .tripped } := by
  unfold State.heatDark
  rw [setQuarter_quarter_same, darkQuarter_quarter]

theorem heatDark_quarter_other (s : State) {d q e r : Nat} (h : 4 * e + r ≠ 4 * d + q) :
    (s.heatDark d q).quarter e r = s.quarter e r := by
  unfold State.heatDark
  rw [setQuarter_quarter_other _ _ h, darkQuarter_quarter_other s .off 1 h]

theorem heatDark_die (s : State) (d q e : Nat) :
    ∃ v, (s.heatDark d q).die e = { s.die e with service := v } ∧ (v = (s.die e).service ∨ v = 1) := by
  have hset (t : State) (x : QuarterSt) : (t.setQuarter d q x).die e = t.die e := rfl
  unfold State.heatDark
  rw [hset]
  exact darkQuarter_die s d q e .off 1

theorem quiet_heatDark (s : State) (d q : Nat) : Quiet s (s.heatDark d q) :=
  (quiet_darkQuarter s d q .off 1).then (mask_setQuarter (by simp) _ d q _)

theorem heatOff_quarters {s : State} {d q : Nat} (hst : (s.quarter d q).st ≠ .faulted) :
    (s.heatOff d q).quarters = (s.heatDark d q).quarters := by
  rw [heatOff_eq hst, count_quarters, raise_quarters]

theorem heatOff_dies {s : State} {d q : Nat} (hst : (s.quarter d q).st ≠ .faulted) :
    (s.heatOff d q).dies = (s.heatDark d q).dies := by
  rw [heatOff_eq hst, count_dies, raise_dies]

/-- Also of a quarter that is FAULTED the die keeps its DRAM's temperature, and other quarters stay. -/
theorem heatOff_keeps (s : State) (d q : Nat) :
    (∀ e, ((s.heatOff d q).die e).dramTemp = (s.die e).dramTemp) ∧
    ∀ e r, 4 * e + r ≠ 4 * d + q → (s.heatOff d q).quarter e r = s.quarter e r := by
  by_cases hst : (s.quarter d q).st = .faulted
  · have heq : s.heatOff d q =
        ((s.setQuarter d q { s.quarter d q with tst := .tripped }).raise (pgQuarter d q) 0x0802).count pgThermal 1 := by
      unfold State.heatOff
      dsimp only
      rw [if_pos (by simpa using hst)]
    constructor
    · intro e
      rw [State.die, heq, count_dies, raise_dies]
      rfl
    · intro e r h
      rw [State.quarter, heq, count_quarters, raise_quarters]
      exact setQuarter_quarter_other s _ h
  · constructor
    · intro e
      obtain ⟨v, hdie, -⟩ := heatDark_die s d q e
      rw [State.die, heatOff_dies hst, ← State.die, hdie]
    · intro e r h
      rw [State.quarter, heatOff_quarters hst]
      exact heatDark_quarter_other s h

/-! ### The readings -/

theorem reading_moves (s : State) (d : Die) (q : Qtr) (x : BitVec 10) (hin : s.pwr.input = true) :
    Completes (.tempSample d q x) s fun t =>
      let o := s.quarter d q
      let n := t.quarter d q
      n = { o with temp := x, tst := n.tst } ∧
      (o.tst = .normal → n.tst = if 420 ≤ x.toNat then .warn else .normal) ∧
      (o.tst = .warn → n.tst = if x.toNat < 400 then .normal else .warn) ∧
      (o.tst = .tripped →
        n.tst = if x.toNat < 380 ∧ (s.die d).dramTemp.toNat < 90 then .cool else .tripped) ∧
      (o.tst = .cool → n.tst = .cool) ∧
      (o.tst = .normal → 420 ≤ x.toNat → s.dieOut d = false →
        fieldOf (t.reg (pgQuarter d q) rFault) 31 16 = 0x0801 ∧
        t.counter pgThermal 0 = s.counter pgThermal 0 + 1) ∧
      t = { s with regs := t.regs, cnt := t.cnt, quarters := t.quarters, bnd := t.bnd
                   keeper := { s.keeper with lastFault := t.keeper.lastFault }
                   host := { s.host with changes := t.host.changes } } := by
  let o := s.quarter d q
  let n := tstNext o.tst x.toNat (s.die d).dramTemp.toNat
  let s1 := s.setQuarter d q { o with temp := x, tst := n }
  let u := if o.tst == .normal && n == .warn then (s1.raise (pgQuarter d q) 0x0801).count pgThermal 0 else s1
  have hx : execTempSample d q x s = s.ok u := if_neg (by simp [hin])
  have hquarter : u.quarter d q = { o with temp := x, tst := n } := by
    have h1 : s1.quarter d q = { o with temp := x, tst := n } := setQuarter_quarter_same s
    unfold u
    split
    · rw [State.quarter, count_quarters, raise_quarters]
      exact h1
    · exact h1
  have hframe : SameBut [.regs, .cnt, .quarters, .bnd, .lastFault] s u := by
    unfold u
    split <;> simp [SameBut, among, s1]
  have hwarn (hnormal : o.tst = .normal) (hhot : 420 ≤ x.toNat) (hlive : s.dieOut d = false) :
      fieldOf (u.reg (pgQuarter d q) rFault) 31 16 = 0x0801 ∧ u.counter pgThermal 0 = s.counter pgThermal 0 + 1 := by
    have hn : n = .warn := by
      unfold n
      rw [hnormal]
      exact if_pos hhot
    have hu : u = (s1.raise (pgQuarter d q) 0x0801).count pgThermal 0 := if_pos (by rw [hnormal, hn]; rfl)
    rw [hu]
    constructor
    · have hq := q.isLt
      exact raise_lastCode_die (s := s1) (by omega) (by decide) hlive
    · refine (count_counter_same _).trans (congrArg (· + 1) ?_)
      exact quiet_raise s1 _ _ pgThermal 0 ⟨by decide, by decide, by decide, by decide, by decide, by decide⟩ (by decide)
  have hnext : n = tstNext o.tst x.toNat (s.die d).dramTemp.toNat := rfl
  clear_value u n
  refine .of_changes hx fun c => ?_
  change u.quarter d q = { o with temp := x, tst := (u.quarter d q).tst } ∧
    (o.tst = .normal → (u.quarter d q).tst = _) ∧ (o.tst = .warn → (u.quarter d q).tst = _) ∧
    (o.tst = .tripped → (u.quarter d q).tst = _) ∧ (o.tst = .cool → (u.quarter d q).tst = _) ∧ _
  rw [hquarter]
  refine ⟨rfl, fun h => ?_, fun h => ?_, fun h => ?_, fun h => ?_, hwarn, ?_⟩
  · dsimp only
    rw [hnext, h]
    rfl
  · dsimp only
    rw [hnext, h]
    rfl
  · dsimp only
    rw [hnext, h, tstNext]
    simp only [Bool.and_eq_true, decide_eq_true_eq]
  · dsimp only
    rw [hnext, h]
    rfl
  · exact congrArg (fun t : State => { t with host := { t.host with changes := c } }) hframe.frame

theorem thermal_trips (s : State) (d : Die) (q : Qtr) (hlive : s.dieLive d = true)
    (htst : (s.quarter d q).tst = .normal ∨ (s.quarter d q).tst = .warn) (hst : (s.quarter d q).st ≠ .faulted) :
    Completes (.thermalTrip d q) s fun t =>
      (t.quarter d q).st = .off ∧ (t.quarter d q).cause = 1 ∧ (t.quarter d q).gated = true ∧
      (t.quarter d q).tst = .tripped ∧ fieldOf (t.reg (pgQuarter d q) rFault) 31 16 = 0x0802 ∧
      t.counter pgThermal 1 = s.counter pgThermal 1 + 1 := by
  have hin : s.dieOut d = false := by
    simp only [State.dieLive, Bool.and_eq_true, Bool.not_eq_true'] at hlive
    exact hlive.2
  have hx : execThermalTrip d q s = s.ok (s.heatOff d q) := by
    refine if_neg ?_
    rcases htst with h | h <;> simp [hlive, h]
  have hquarter : (s.heatOff d q).quarter d q = { (s.quarter d q).dark .off 1 with tst := .tripped } := by
    rw [State.quarter, heatOff_quarters hst]
    exact heatDark_quarter s d q
  have hout : (s.heatDark d q).dieOut d = false := by
    obtain ⟨v, hdie, hv⟩ := heatDark_die s d q d
    rw [State.dieOut, hdie]
    obtain rfl | rfl := hv
    · exact hin
    · rfl
  have hcode : fieldOf ((s.heatOff d q).reg (pgQuarter d q) rFault) 31 16 = 0x0802 := by
    have hq := q.isLt
    rw [heatOff_eq hst, count_reg]
    exact raise_lastCode_die (by omega) (by decide) hout
  have hcalm : Calm pgThermal := ⟨by decide, by decide, by decide, by decide, by decide, by decide⟩
  have hcount : (s.heatOff d q).counter pgThermal 1 = s.counter pgThermal 1 + 1 := by
    rw [heatOff_eq hst]
    refine (count_counter_same _).trans (congrArg (· + 1) ?_)
    exact ((quiet_heatDark s d q).trans (quiet_raise _ _ _)) pgThermal 1 hcalm (by decide)
  obtain ⟨u, hu⟩ : ∃ u, s.heatOff d q = u := ⟨_, rfl⟩
  rw [hu] at hx hquarter hcode hcount
  refine .of_changes hx fun _ => ?_
  change (u.quarter d q).st = _ ∧ (u.quarter d q).cause = _ ∧ (u.quarter d q).gated = _ ∧ (u.quarter d q).tst = _ ∧ _
  rw [hquarter]
  exact ⟨rfl, rfl, rfl, rfl, hcode, hcount⟩

/-! ### The ceiling -/

theorem ceiling_follows (s : State) (hin : s.pwr.input = true) :
    Completes .ceilingStep s fun t =>
      (t.pwr.ceil = if (s.reg pgThermal 0x040).getLsbD 0 = false then 72
        else if ∃ e ∈ s.quarters, e.2.tst = .warn then s.pwr.ceil - 1 else min 72 (s.pwr.ceil + 1)) ∧
      (t.pwr.step = if t.pwr.ceil < s.pwr.step then s.pwr.step - 1 else s.pwr.step) ∧
      t = { s with pwr := t.pwr, cnt := t.cnt, host := { s.host with changes := t.host.changes } } := by
  let c := if !(s.reg pgThermal 0x040).getLsbD 0 then 72
    else if s.quarters.any (fun (e : Nat × QuarterSt) => e.2.tst == .warn) then s.pwr.ceil - 1
    else min 72 (s.pwr.ceil + 1)
  let s1 : State := { s with pwr := { s.pwr with ceil := c } }
  have hx : execCeilingStep s = s.ok (if c < s.pwr.step then s1.stepDown else s1) := if_neg (by simp [hin])
  have hc : c = if (s.reg pgThermal 0x040).getLsbD 0 = false then 72
      else if ∃ e ∈ s.quarters, e.2.tst = .warn then s.pwr.ceil - 1 else min 72 (s.pwr.ceil + 1) := by
    unfold c
    simp only [Bool.not_eq_true', List.any_eq_true, beq_iff_eq]
  rw [← hc]
  by_cases hlow : c < s.pwr.step
  · have hdown : s1.stepDown = ({ s1 with pwr := { s1.pwr with
        step := s1.pwr.step - 1, lowering := s1.pwr.lowering && decide (0 < s1.pwr.step - 1) } } : State).count pgClocks 0 :=
      if_neg (by change ¬ s.pwr.step = 0; omega)
    rw [if_pos hlow, hdown] at hx
    exact .of_changes hx fun _ => ⟨rfl, (if_pos hlow).symm, rfl⟩
  · rw [if_neg hlow] at hx
    exact .of_changes hx fun _ => ⟨rfl, (if_neg hlow).symm, rfl⟩

/-! ### DRAM -/

theorem dram_reads (s : State) (d : Die) (c : Byte) (hlive : s.dieLive d = true) (hc : c.toNat < 95) :
    Gives (.dramTempThreshold d c) s (s.setDie d { s.die d with dramTemp := c }) := by
  have hx : execDramTempThreshold d c s = s.ok (s.setDie d { s.die d with dramTemp := c }) := by
    rw [execDramTempThreshold, if_neg (by simp [hlive])]
    dsimp only
    rw [if_pos (by simp; omega), if_neg (by simp; omega)]
  exact .of_ok hx

theorem dram_warns (s : State) (d : Die) (c : Byte) (hlive : s.dieLive d = true) (hold : (s.die d).dramTemp.toNat < 95)
    (hc : 95 ≤ c.toNat) (hc' : c.toNat < 105) :
    Completes (.dramTempThreshold d c) s fun t =>
      t.die d = { s.die d with dramTemp := c } ∧ fieldOf (t.reg (pgDram d) rFault) 31 16 = 0x0803 ∧
      t.quarters = s.quarters := by
  have hin : s.dieOut d = false := by
    simp only [State.dieLive, Bool.and_eq_true, Bool.not_eq_true'] at hlive
    exact hlive.2
  let s1 := s.setDie d { s.die d with dramTemp := c }
  have hx : execDramTempThreshold d c s = s.ok (s1.raise (pgDram d) 0x0803) := by
    rw [execDramTempThreshold, if_neg (by simp [hlive])]
    dsimp only
    rw [if_pos (by simp; omega), if_pos (by simp; omega)]
  have hsame : s1.die d = { s.die d with dramTemp := c } := SMap.get_set_same _ _ _ _
  have hdie : (s1.raise (pgDram d) 0x0803).die d = { s.die d with dramTemp := c } := by
    rw [State.die, raise_dies]
    exact hsame
  have hin1 : s1.dieOut d = false := by
    rw [State.dieOut, hsame]
    exact hin
  have hcode : fieldOf ((s1.raise (pgDram d) 0x0803).reg (pgDram d) rFault) 31 16 = 0x0803 :=
    raise_lastCode_die (by decide) (by decide) hin1
  have hquarters : (s1.raise (pgDram d) 0x0803).quarters = s.quarters := raise_quarters s1 _ _
  obtain ⟨u, hu⟩ : ∃ u, s1.raise (pgDram d) 0x0803 = u := ⟨_, rfl⟩
  rw [hu] at hx hdie hcode hquarters
  exact .of_changes hx fun _ => ⟨hdie, hcode, hquarters⟩

/-- What a die at 105 degrees does to one of its quarters. -/
def State.heatTurn (s : State) (d q : Nat) : State :=
  if (s.quarter d q).tst == .normal || (s.quarter d q).tst == .warn then s.heatOff d q else s

theorem heatTurn_keeps (s : State) (d q : Nat) :
    (∀ e, ((s.heatTurn d q).die e).dramTemp = (s.die e).dramTemp) ∧
    ∀ r, r ≠ q → (s.heatTurn d q).quarter d r = s.quarter d r := by
  obtain ⟨hdie, hquarter⟩ := heatOff_keeps s d q
  unfold State.heatTurn
  split
  · exact ⟨hdie, fun r h => hquarter d r (by omega)⟩
  · exact ⟨fun _ => rfl, fun _ _ => rfl⟩

/-- The quarters of a list trip, each once. -/
theorem heatTurns_trip (d : Nat) {l : List Nat} (hl : l.Nodup) (s : State) :
    ((s.forEach l fun t q => t.heatTurn d q).die d).dramTemp = (s.die d).dramTemp ∧
    (∀ q, q ∉ l → (s.forEach l fun t q => t.heatTurn d q).quarter d q = s.quarter d q) ∧
    ∀ q, q ∈ l → (s.quarter d q).tst = .normal ∨ (s.quarter d q).tst = .warn → (s.quarter d q).st ≠ .faulted →
      (s.forEach l fun t q => t.heatTurn d q).quarter d q = { (s.quarter d q).dark .off 1 with tst := .tripped } := by
  induction l generalizing s with
  | nil => exact ⟨rfl, fun _ _ => rfl, fun _ h => absurd h List.not_mem_nil⟩
  | cons r rs ih =>
    obtain ⟨hnot, hnodup⟩ := List.nodup_cons.mp hl
    obtain ⟨hdie, hother⟩ := heatTurn_keeps s d r
    obtain ⟨ihdie, ihout, ihin⟩ := ih hnodup (s.heatTurn d r)
    refine ⟨ihdie.trans (hdie d), fun q hq => ?_, fun q hq htst hst => ?_⟩
    · have hqr : q ≠ r := fun h => hq (h ▸ List.mem_cons_self)
      exact (ihout q fun h => hq (List.mem_cons_of_mem _ h)).trans (hother q hqr)
    · by_cases hqr : q = r
      · have hturn : s.heatTurn d r = s.heatOff d r := by
          refine if_pos ?_
          rw [← hqr]
          rcases htst with h | h <;> simp [h]
        have hkept := ihout q (hqr ▸ hnot)
        refine hkept.trans ?_
        rw [hturn, hqr, State.quarter, heatOff_quarters (hqr ▸ hst)]
        exact heatDark_quarter s d r
      · have hsame := hother q hqr
        have hdark := ihin q ((List.mem_cons.mp hq).resolve_left hqr) (by rw [hsame]; exact htst) (by rw [hsame]; exact hst)
        rw [hsame] at hdark
        exact hdark

theorem dram_trips (s : State) (d : Die) (c : Byte) (hlive : s.dieLive d = true) (hold : (s.die d).dramTemp.toNat < 105)
    (hc : 105 ≤ c.toNat) :
    Completes (.dramTempThreshold d c) s fun t =>
      (t.die d).dramTemp = c ∧
      ∀ q, q < 4 → (s.quarter d q).tst = .normal ∨ (s.quarter d q).tst = .warn → (s.quarter d q).st ≠ .faulted →
        (t.quarter d q).st = .off ∧ (t.quarter d q).cause = 1 ∧ (t.quarter d q).tst = .tripped := by
  let s1 := s.setDie d { s.die d with dramTemp := c }
  let s2 := if (s.die d).dramTemp.toNat < 95 then s1.raise (pgDram d) 0x0803 else s1
  let s3 := s2.raise (pgDram d) 0x0804
  have hx : execDramTempThreshold d c s = s.ok (s3.forEach (List.range 4) fun t q => t.heatTurn d q) := by
    have h95 : 95 ≤ c.toNat := by omega
    rw [execDramTempThreshold, if_neg (by simp [hlive])]
    dsimp only
    rw [if_neg (by simp; omega)]
    simp only [h95, decide_true, Bool.and_true, decide_eq_true_eq]
    rfl
  have hdies : s3.dies = s1.dies := by
    unfold s3 s2
    rw [raise_dies]
    split
    · exact raise_dies _ _ _
    · rfl
  have hquarters : s3.quarters = s.quarters := by
    unfold s3 s2
    rw [raise_quarters]
    split
    · exact raise_quarters _ _ _
    · rfl
  have hsame : s1.die d = { s.die d with dramTemp := c } := SMap.get_set_same _ _ _ _
  have htemp : (s3.die d).dramTemp = c := by
    rw [State.die, hdies, ← State.die, hsame]
  obtain ⟨hdie, -, htrip⟩ := heatTurns_trip d (l := List.range 4) List.nodup_range s3
  rw [htemp] at hdie
  have hq (q : Nat) : s3.quarter d q = s.quarter d q := by rw [State.quarter, State.quarter, hquarters]
  obtain ⟨u, hu⟩ : ∃ u, (s3.forEach (List.range 4) fun t q => t.heatTurn d q) = u := ⟨_, rfl⟩
  rw [hu] at hx hdie htrip
  refine .of_changes hx fun _ => ⟨hdie, fun q hlt htst hst => ?_⟩
  have hdark := htrip q (List.mem_range.mpr hlt) (by rw [hq]; exact htst) (by rw [hq]; exact hst)
  change (u.quarter d q).st = _ ∧ (u.quarter d q).cause = _ ∧ (u.quarter d q).tst = _
  rw [hdark]
  exact ⟨rfl, rfl, rfl⟩

/-! ### Re-arms -/

theorem trip_rearms (s : State) (d : Die) (q : Qtr) (hmem : (4 * d.val + q.val) ∈ s.keeper.trips)
    (hiso : (s.quarter d q).iso = false) (hst : (s.quarter d q).st = .off) (hlive : s.dieLive d = true) :
    Completes (.tripRearm d q) s fun t =>
      t.quarter d q = { s.quarter d q with st := .starting } ∧
      t.keeper = { s.keeper with trips := s.keeper.trips.filter (· != 4 * d.val + q.val) } ∧
      t.counter pgThermal 2 = s.counter pgThermal 2 + 1 ∧
      t = { s with cnt := t.cnt, quarters := t.quarters, keeper := t.keeper
                   host := { s.host with changes := t.host.changes } } := by
  let s1 : State := { s with keeper := { s.keeper with trips := s.keeper.trips.filter (· != 4 * d.val + q.val) } }
  have hlive1 : s1.dieLive d = true := hlive
  have hquarter1 : s1.quarter d q = s.quarter d q := rfl
  have hx : execTripRearm d q s =
      s.ok ((s1.setQuarter d q { s1.quarter d q with st := .starting }).count pgThermal 2) := by
    rw [execTripRearm]
    dsimp only
    rw [if_neg (by simp [hmem]), if_neg (by rw [hquarter1, hiso, hst]; decide), if_pos hlive1]
  have hquarter : (s1.setQuarter d q { s1.quarter d q with st := .starting }).quarter d q =
      { s.quarter d q with st := .starting } := setQuarter_quarter_same s1
  have hcount : ((s1.setQuarter d q { s1.quarter d q with st := .starting }).count pgThermal 2).counter pgThermal 2 =
      s.counter pgThermal 2 + 1 := count_counter_same _
  exact .of_changes hx fun _ => ⟨hquarter, rfl, hcount, rfl⟩

/-! ### A start that ends -/

/-- A map without the keys that fail a test. -/
theorem SMap.get_filter_key {α : Type} (z : α) (m : SMap α) (f : Nat → Bool) (a : Nat) :
    SMap.get z (m.filter fun e => f e.1) a = if f a then SMap.get z m a else z := by
  induction m with
  | nil => split <;> rfl
  | cons e r ih =>
    obtain ⟨k, v⟩ := e
    by_cases hf : f k = true
    · have hcons : ((k, v) :: r).filter (fun e => f e.1) = (k, v) :: r.filter fun e => f e.1 := List.filter_cons_of_pos hf
      rw [hcons]
      by_cases hk : k = a
      · rw [SMap.get, SMap.get, SMap.find, SMap.find, if_pos hk, if_pos (hk ▸ hf), if_pos hk]
      · have hl : SMap.get z ((k, v) :: r.filter fun e => f e.1) a = SMap.get z (r.filter fun e => f e.1) a := by
          rw [SMap.get, SMap.find, if_neg hk, SMap.get]
        have hr : SMap.get z ((k, v) :: r) a = SMap.get z r a := by
          rw [SMap.get, SMap.find, if_neg hk, SMap.get]
        rw [hl, hr]
        exact ih
    · have hcons : ((k, v) :: r).filter (fun e => f e.1) = r.filter fun e => f e.1 := List.filter_cons_of_neg hf
      rw [hcons, ih]
      by_cases hk : k = a
      · rw [if_neg (hk ▸ hf), if_neg (hk ▸ hf)]
      · rw [SMap.get, SMap.get, SMap.find, if_neg hk]

/-- A scratchpad's bytes read zero once it is zeroed, and no other is filled. -/
theorem zeroSlot_byte (s : State) (d p a : Nat) : SMap.get 0 (s.zeroSlot d p).mem.bytes a =
    if slotAddr d p 0 ≤ a ∧ a < slotAddr d (p + 1) 0 then 0 else SMap.get 0 s.mem.bytes a := by
  have hget : SMap.get 0 (s.zeroSlot d p).mem.bytes a =
      if !(decide (slotAddr d p 0 ≤ a) && decide (a < slotAddr d (p + 1) 0)) then SMap.get 0 s.mem.bytes a else 0 :=
    SMap.get_filter_key 0 s.mem.bytes (fun k => !(decide (slotAddr d p 0 ≤ k) && decide (k < slotAddr d (p + 1) 0))) a
  rw [hget]
  by_cases h : slotAddr d p 0 ≤ a ∧ a < slotAddr d (p + 1) 0
  · rw [if_pos h, if_neg (by simpa using h)]
  · rw [if_neg h, if_pos (by simpa [Classical.or_iff_not_imp_left] using h)]

/-- The slots of a quarter, by their number in it. -/
theorem slot_of_quarter {p q : Nat} (hp : p < 72) (hq : slotQuarter p = q) :
    slotLocal p ∈ List.range 18 ∧ slotNum q (slotLocal p) = p := by
  unfold slotQuarter at hq
  unfold slotNum slotLocal
  rw [List.mem_range]
  split at hq
  · next h =>
    rw [if_pos h, if_pos (by omega)]
    omega
  · next h =>
    rw [if_neg h, if_neg (by omega)]
    omega

theorem zeroScratch_zero (s : State) (d : Nat) {q p a : Nat} (hp : p < 72) (hq : slotQuarter p = q)
    (hlo : slotAddr d p 0 ≤ a) (hhi : a < slotAddr d (p + 1) 0) : SMap.get 0 (s.zeroScratch d q).mem.bytes a = 0 := by
  obtain ⟨hmem, hnum⟩ := slot_of_quarter hp hq
  have hall := forEach_all (f := fun t i => State.zeroSlot t d (slotNum q i))
    (Q := fun t i => slotAddr d (slotNum q i) 0 ≤ a → a < slotAddr d (slotNum q i + 1) 0 → SMap.get 0 t.mem.bytes a = 0)
    (fun t i h h' => by rw [zeroSlot_byte, if_pos ⟨h, h'⟩])
    (fun t i j ih h h' => by
      rw [zeroSlot_byte]
      split
      · rfl
      · exact ih h h')
    (List.range 18) s (slotLocal p) hmem
  rw [hnum] at hall
  exact hall hlo hhi

/-- A slot of a quarter that starts anew. -/
theorem freshQuarter_slot (s : State) (d : Nat) {q p : Nat} (hp : p < 72) (hq : slotQuarter p = q) :
    ((s.freshQuarter d q).slot d p).duty = 0 ∧ ((s.freshQuarter d q).slot d p).passes = [] := by
  obtain ⟨hmem, hnum⟩ := slot_of_quarter hp hq
  have hall := forEach_all
    (f := fun t i => t.setSlot d (slotNum q i) { Stall.reset with seed := t.regPair (pgStall d (slotNum q i)) rSeed })
    (Q := fun t i => (t.slot d (slotNum q i)).duty = 0 ∧ (t.slot d (slotNum q i)).passes = [])
    (fun t i => by
      dsimp only
      rw [setSlot_slot_same]
      exact ⟨rfl, rfl⟩)
    (fun t i j ih => by
      by_cases h : slotNum q j = slotNum q i
      · rw [h]
        dsimp only
        rw [setSlot_slot_same]
        exact ⟨rfl, rfl⟩
      · have hother (x : Stall) : (t.setSlot d (slotNum q i) x).slot d (slotNum q j) = t.slot d (slotNum q j) :=
          SMap.get_set_other _ _ _ (by omega)
        dsimp only
        rw [hother]
        exact ih)
    (List.range 18) (s.zeroScratch d q) (slotLocal p) hmem
  have harcs (t : State) : (t.forEach (List.range 4) fun u a => u.setArc d q a Arcade.reset).slot d p = t.slot d p :=
    slot_of_mask (by simp) d p
  rw [hnum] at hall
  unfold State.freshQuarter
  rw [harcs]
  exact hall

theorem upCheck_frame (s : State) : SameBut [.keeperCap, .talk, .keeperRest, .secRest, .pwrOk] s s.upCheck := by
  unfold State.upCheck
  dsimp only
  split
  · simp [SameBut, among]
  · rfl

theorem getLsbD_of_field {w : Word} {i : Nat} (h : fieldOf w i i = 0) : w.getLsbD i = false := by
  rw [fieldOf, Nat.sub_self] at h
  have hbit : w.toNat / 2 ^ i % 2 = 0 := h
  rw [BitVec.getLsbD, Nat.testBit_eq_decide_div_mod_eq, hbit]
  rfl

theorem quarter_comes_up (s : State) (d : Die) (q : Qtr) (hlive : s.dieLive d = true) (hasleep : s.asleep = false)
    (hst : (s.quarter d q).st = .starting) (hspare : s.brokenStall d q = none ∨ s.spareOf d q ≠ none) :
    Completes (.quarterStartDone d q) s fun t =>
      (t.quarter d q).st = .on ∧ (t.quarter d q).gated = false ∧ (t.quarter d q).cause = 0 ∧
      (t.quarter d q).tst = .normal ∧ (t.quarter d q).clock = true ∧
      (∀ p a, p < 72 → slotQuarter p = q.val → slotAddr d p 0 ≤ a → a < slotAddr d (p + 1) 0 →
        SMap.get 0 t.mem.bytes a = 0) ∧
      (∀ p, p < 72 → slotQuarter p = q.val → (t.slot d p).duty = 0 ∧ (t.slot d p).passes = []) ∧
      (t.reg pgThermal (0x080 + 4 * ((4 * d.val + q.val) / 32))).getLsbD ((4 * d.val + q.val) % 32) = false := by
  let g := 4 * d.val + q.val
  have hx : execQuarterStartDone d q s = s.ok ((s.quarterUp d q).rearmClear g).upCheck :=
    if_neg (by simp [hlive, hasleep, hst])
  obtain ⟨hframe, l, o, hquarter⟩ := quarterUp_comes hspare
  have hzero (p a : Nat) (hp : p < 72) (hq : slotQuarter p = q.val) (hlo : slotAddr d p 0 ≤ a)
      (hhi : a < slotAddr d (p + 1) 0) : SMap.get 0 (s.freshQuarter d q).mem.bytes a = 0 := by
    have hmem : (s.freshQuarter d q).mem = (s.zeroScratch d q).mem := mem_of_mask (by simp [State.freshQuarter])
    rw [hmem]
    exact zeroScratch_zero s d hp hq hlo hhi
  have hslot (p : Nat) (hp : p < 72) (hq : slotQuarter p = q.val) := freshQuarter_slot s d hp hq
  obtain ⟨v, hv⟩ : ∃ v, s.freshQuarter d q = v := ⟨_, rfl⟩
  obtain ⟨w, hw⟩ : ∃ w, s.quarterUp d q = w := ⟨_, rfl⟩
  rw [hv, hw] at hframe
  rw [hv] at hzero hslot
  rw [hw] at hx hquarter
  have hbit : ((w.rearmClear g).reg pgThermal (0x080 + 4 * (g / 32))).getLsbD (g % 32) = false := by
    have hg : g % 32 < 32 := Nat.mod_lt _ (by decide)
    exact getLsbD_of_field (pokeField_regField w pgThermal _ (Nat.le_refl _) hg (by positivity))
  have hup := upCheck_frame (w.rearmClear g)
  obtain ⟨x, hxw⟩ : ∃ x, (w.rearmClear g).upCheck = x := ⟨_, rfl⟩
  rw [hxw] at hx hup
  have hmem : x.mem = v.mem := (congrArg State.mem hup.frame :).trans (congrArg State.mem hframe.frame :)
  have hstalls : x.stalls = v.stalls := (congrArg State.stalls hup.frame :).trans (congrArg State.stalls hframe.frame :)
  have hquarters : x.quarters = w.quarters := (congrArg State.quarters hup.frame :)
  have hregs : x.regs = (w.rearmClear g).regs := (congrArg State.regs hup.frame :)
  have hqx : x.quarter d q = { s.upQuarter d q with slots := l, remapOf := o } := by
    rw [State.quarter, hquarters]
    exact hquarter
  refine .of_changes hx fun _ => ?_
  change (x.quarter d q).st = _ ∧ (x.quarter d q).gated = _ ∧ (x.quarter d q).cause = _ ∧ (x.quarter d q).tst = _ ∧
    (x.quarter d q).clock = _ ∧ _
  rw [hqx]
  refine ⟨rfl, rfl, rfl, rfl, rfl, fun p a hp hq hlo hhi => ?_, fun p hp hq => ?_, ?_⟩
  · change SMap.get 0 x.mem.bytes a = 0
    rw [hmem]
    exact hzero p a hp hq hlo hhi
  · change (x.slot d p).duty = 0 ∧ (x.slot d p).passes = []
    rw [State.slot, hstalls]
    exact hslot p hp hq
  · change (x.reg pgThermal (0x080 + 4 * (g / 32))).getLsbD (g % 32) = false
    rw [State.reg, hregs]
    exact hbit

/-- Settles O51. -/
theorem temperatureActs : Obligations.TemperatureActs :=
  ⟨reading_moves, thermal_trips, ceiling_follows, dram_reads, dram_warns, dram_trips, trip_rearms, quarter_comes_up⟩

end Sys2Proof.Machine
end


section

/-! SUPPORT. O42: a ledger's check. -/

namespace Sys2Proof.Machine

/-- The stop of the program stops it, and leaves the registers of the engine's own pages. -/
theorem abortProgram_stops (s : State) : (s.abortProgram).prog.pst = .stopped ∧ EngineRegs s s.abortProgram :=
  ⟨rfl, fun q o hq ho => engineRegs_stopWork s 0xC q o hq ho⟩

/-- The bell ledger's violation is recorded in the ledger page and raised there (R327, R404). -/
theorem ledgerViolation_bell (s : State) (d i : Nat) (hi : i < 64) :
    ((s.ledgerViolation d 7 i).reg pgLedger 0x064).getLsbD 31 = true ∧
    fieldOf ((s.ledgerViolation d 7 i).reg pgLedger rFault) 31 16 = 0x0602 := by
  obtain ⟨r, hr, hbit⟩ : ∃ r : State,
      r = (if (s.reg pgLedger 0x064).getLsbD 31 then s
        else s.poke pgLedger 0x064 (BitVec.ofNat 32 (2 ^ 31 + 7 * 2 ^ 24 + i))) ∧
      (r.reg pgLedger 0x064).getLsbD 31 = true := by
    refine ⟨_, rfl, ?_⟩
    split
    · next h => exact h
    · rw [poke_reg_same s, BitVec.getLsbD_ofNat]
      have h : (2 ^ 31 + 7 * 2 ^ 24 + i).testBit 31 = true := by
        rw [Nat.testBit_eq_decide_div_mod_eq, decide_eq_true_eq]
        omega
      rw [h]
      rfl
  have hv : s.ledgerViolation d 7 i = (r.count pgLedger 2).raise pgLedger 0x0602 := by
    rw [hr]
    rfl
  rw [hv]
  refine ⟨?_, raise_engine_lastCode _ (by decide) (by decide)⟩
  rw [raise_engine_reg _ _ (by decide) _ (by decide) (by decide) (by decide), count_reg]
  exact hbit

end Sys2Proof.Machine
end

section

namespace Sys2Proof.Machine

/-- Settles O42, through what a violation records and what the stop of the program leaves. -/
theorem ledgerChecksHold : Obligations.LedgerChecksHold := by
  unfold Obligations.LedgerChecksHold
  refine ⟨?_, ?_⟩
  · intro s d l hl hlive hsum
    have hok : ¬ (ledgerCount l.cls.val ≤ l.idx.val ∨ (l.cls.val ≠ 7 ∧ s.dieLive d = false)) := by
      rintro (h | ⟨h7, hdead⟩)
      · omega
      · rw [hdead] at hlive
        exact hlive.elim h7 Bool.false_ne_true
    have hx : execLedgerCheck d l s = s.ok (if decide (6 ≤ l.cls.val) && l.idx.val + 1 == ledgerCount l.cls.val
        then s.count (if l.cls.val = 7 then pgLedger else pgDieLedger d) 0 else s) :=
      (if_neg hok).trans (if_pos hsum)
    refine .of_changes hx fun n => ?_
    by_cases hlast : (decide (6 ≤ l.cls.val) && l.idx.val + 1 == ledgerCount l.cls.val) = true
    · rw [if_pos hlast]
      exact ⟨rfl, .inl (by simpa using hlast)⟩
    · rw [if_neg hlast]
      exact ⟨rfl, .inr rfl⟩
  · intro s d l hcls hi hsum
    have hok : ¬ (ledgerCount l.cls.val ≤ l.idx.val ∨ (l.cls.val ≠ 7 ∧ s.dieLive d = false)) := by
      rintro (h | ⟨h7, -⟩)
      · rw [hcls] at h
        exact absurd h (by simpa [ledgerCount] using hi)
      · exact h7 hcls
    have hne : ¬ (s.ledger (if l.cls.val = 7 then 0 else d.val) l.cls.val l.idx.val).sum = 0 := by
      rw [hcls]
      exact hsum
    obtain ⟨r, hx⟩ : ∃ r : State, execLedgerCheck d l s =
        s.ok ((r.ledgerViolation d l.cls.val l.idx.val).ledgerHalt d l.cls.val l.idx.val) :=
      ⟨_, (if_neg hok).trans (if_neg hne)⟩
    rw [hcls] at hx
    replace hx : execLedgerCheck d l s = s.ok ((r.ledgerViolation d 7 l.idx.val).abortProgram) := hx
    obtain ⟨hbit, hcode⟩ := ledgerViolation_bell r d l.idx.val hi
    obtain ⟨hstop, hregs⟩ := abortProgram_stops (r.ledgerViolation d 7 l.idx.val)
    have hview := hregs pgLedger 0x064 (by decide) (by decide)
    have hfault := hregs pgLedger rFault (by decide) (by decide)
    obtain ⟨u, hu⟩ : ∃ u, (r.ledgerViolation d 7 l.idx.val).abortProgram = u := ⟨_, rfl⟩
    rw [hu] at hx hstop hview hfault
    refine .of_changes hx fun _ => ⟨hstop, ?_, ?_⟩
    · change (u.reg pgLedger 0x064).getLsbD 31 = true
      rw [hview]
      exact hbit
    · change fieldOf (u.reg pgLedger rFault) 31 16 = 0x0602
      rw [hfault]
      exact hcode

end Sys2Proof.Machine
end


section

/-! SUPPORT. What the keeper's bring-up keeps while bundles commit and dies go: how far it has come, and whether it
holds for PRSNT_N. -/

namespace Sys2Proof.Machine

/-- The phase of bring-up and the hold for PRSNT_N are as before. -/
def Stands (s t : State) : Prop := t.keeper.bring = s.keeper.bring ∧ t.keeper.prsntHold = s.keeper.prsntHold

theorem Stands.refl (s : State) : Stands s s := ⟨rfl, rfl⟩

theorem Stands.trans {s t u : State} (h : Stands s t) (g : Stands t u) : Stands s u :=
  ⟨g.1.trans h.1, g.2.trans h.2⟩

theorem Stands.of_mask {s t : State} (h : t.mask (allBut .keeperRest) = s.mask (allBut .keeperRest)) : Stands s t :=
  ⟨(congrArg (·.keeper.bring) h :), (congrArg (·.keeper.prsntHold) h :)⟩

/-- What other parts change keeps the keeper's stand. -/
theorem Stands.then {s t u : State} (h : Stands s t) (g : u.mask (allBut .keeperRest) = t.mask (allBut .keeperRest)) :
    Stands s u := h.trans (.of_mask g)

theorem Stands.foldl {α : Type} {f : State → α → State} (hf : ∀ t e, Stands t (f t e)) (l : List α) (s : State) :
    Stands s (l.foldl f s) :=
  ⟨forEach_keeps (fun t => t.keeper.bring) (fun t e => (hf t e).1) l s,
    forEach_keeps (fun t => t.keeper.prsntHold) (fun t e => (hf t e).2) l s⟩

theorem Stands.forEach {α : Type} {f : State → α → State} (hf : ∀ t e, Stands t (f t e)) (l : List α) (s : State) :
    Stands s (s.forEach l f) := .foldl hf l s

theorem Stands.ite {s t u : State} {c : Prop} [Decidable c] (ht : Stands s t) (hu : Stands s u) :
    Stands s (if c then t else u) := by
  split
  · exact ht
  · exact hu

theorem stands_applyStaged (s : State) (w : Staged) : Stands s (s.applyStaged w) := by
  have hpoke (v : Word) : Stands s (s.poke w.page w.off v) := .of_mask (mask_poke (by simp) s _ _ v)
  have hout (t : State) (o i : DWord) : Stands t { t with keeper := { t.keeper with outReq := o, inReq := i } } := ⟨rfl, rfl⟩
  have hmove (t : State) (m : DWord) : Stands t { t with keeper := { t.keeper with moveReq := m } } := ⟨rfl, rfl⟩
  have hleid (t : State) (b : Bool) : Stands t { t with keeper := { t.keeper with leidReq := b } } := ⟨rfl, rfl⟩
  have htrips (t : State) (l : List Nat) : Stands t { t with keeper := { t.keeper with trips := l } } := ⟨rfl, rfl⟩
  have hprog (t : State) (p : Prog) (x : Sec) : Stands t { t with prog := p, sec := x } := ⟨rfl, rfl⟩
  have hcheck (t : State) : Stands t { t with prog := { t.prog with check := .idle } } := ⟨rfl, rfl⟩
  simp only [State.applyStaged]
  split
  · exact .of_mask (mask_setFlow (by simp) s _ _ _)
  · exact (hpoke _).trans (hprog _ _ _)
  · split
    · exact (hpoke _).trans (hout _ _ _)
    · exact (hpoke _).trans (hout _ _ _)
    · exact (hpoke _).trans (hmove _ _)
    · exact (hpoke _).trans (hmove _ _)
    · exact hpoke _
    · exact hpoke _
  · split
    · exact hpoke _
    · exact (hpoke _).trans (htrips _ _)
  · exact (hpoke _).trans (hleid _ _)
  · split
    · exact (hpoke _).then (mask_setSlot (by simp) _ _ _ _)
    · exact hpoke _
  · split
    · exact (hpoke _).trans (hcheck _)
    · exact hpoke _
  · split
    · exact (hpoke _).trans (hcheck _)
    · exact hpoke _
  · exact hpoke _

theorem stands_applyPart (s : State) (x : BndCtx) (p : Nat) : Stands s (s.applyPart x p) :=
  .foldl stands_applyStaged _ s

theorem stands_ctxApply (s : State) (c p : Nat) : Stands s (s.ctxApply c p) := by
  unfold State.ctxApply
  dsimp only
  have h := ((stands_applyPart s (s.bctx c) p).then (mask_bellBack (by simp) _ p)).then
    (mask_holdPeak (by simp) _ p ((s.bctx c).blocks.any fun g => s.pagePart (s.bctx c) g == p))
  have hset (x : BndCtx) := h.then (mask_setBctx (by simp) _ c x)
  exact .ite ((hset _).then (mask_ctxCommitted (by simp) _ c)) (hset _)

theorem stands_finishApply (s : State) (c : Nat) : Stands s (s.finishApply c) := by
  unfold State.finishApply
  have h : Stands s ((s.ctxParts (s.bctx c)).foldl (fun t p =>
      if (t.bctx c).applySent && (t.bctx c).part p != .applied then t.ctxApply c p else t) s) :=
    .foldl (fun t p => .ite (stands_ctxApply t c p) (.refl t)) _ s
  exact .ite (h.then (mask_ctxCommitted (by simp) _ c)) h

theorem stands_makeWay (s : State) (engine : Bool) (scope : DWord) : Stands s (s.makeWay engine scope) :=
  .forEach (fun t c => .ite (.refl t) (.ite (stands_finishApply t c)
    (.of_mask ((mask_finishAbort (by simp) _ c).trans (mask_ctxAbort (by simp) t c _ _))))) _ s

theorem stands_internal (s : State) (c : Nat) (engine : Bool) (scope : DWord) (ws : List Staged) :
    Stands s (s.internal c engine scope ws) := by
  unfold State.internal
  have h := (stands_makeWay s engine scope).then (mask_ctxOpen (by simp) _ c engine scope)
  refine .ite h (h.trans ?_)
  have hpokes (t : State) : Stands t (ws.foldl (fun t w => t.poke w.page w.off w.val) t) :=
    .foldl (fun t w => .of_mask (by simp)) ws t
  exact .then (.then (.trans (.of_mask (mask_setBctx (by simp) _ c _)) (hpokes _)) (mask_count (by simp) _ _ _ _))
    (mask_ctxCommitted (by simp) _ c)

theorem stands_commitDieOut (s : State) (d : Nat) : Stands s (s.commitDieOut d) :=
  .ite (.refl s) (stands_internal s _ _ _ _)

theorem stands_closeOut (s : State) : Stands s s.closeOut := by
  have h : Stands s (s.stopWork 0xC).dropUndecided :=
    .of_mask ((mask_dropUndecided (by simp) _).trans (mask_stopWork (by simp) s _))
  have hctx (t : State) : Stands t (t.forEach ctxList fun t c =>
      if (t.bctx c).applySent then t.finishApply c else (t.ctxAbort c 7 0).finishAbort c) :=
    .forEach (fun t c => .ite (stands_finishApply t c)
      (.of_mask ((mask_finishAbort (by simp) _ c).trans (mask_ctxAbort (by simp) t c _ _)))) _ t
  have hstop (t : State) (p : Prog) : Stands t { t with prog := p } := ⟨rfl, rfl⟩
  exact (h.trans (hctx _)).trans (hstop _ _)

/-! ### A die goes -/

/-- A die leaves service, and its place in the bundles. -/
def State.dieLeaves (s : State) (d : Nat) (cause : BitVec 4) (st : BlkSt) : State :=
  let s1 := if s.running then s.closeOut else s
  (s1.ctxDieLost d).setDie d { s1.die d with st := st, service := 2, cause := cause, bell := false, missed := 0 }

/-- The quarters of a die that left go dark. -/
def State.quartersOut (s : State) (d : Nat) : State :=
  s.forEach (List.range 4) fun u q =>
    let t := if (u.quarter d q).clock then u.count pgClocks 2 else u
    t.setQuarter d q { t.quarter d q with st := .off, gated := true, cause := 5, rearm := false,
                                          remapOf := none, clock := false,
                                          slots := (t.quarter d q).slots.map fun v => if v == .testing then .spare else v }

/-- What a die that left held is written off and cleared, and its port is off. -/
def State.clearedDie (s : State) (d : Nat) : State :=
  let s4 := ((s.writeOffDie d).roundStop).clearDie d
  s4.setPort d { s4.port d with st := .off, rearm := false, link := 0, kept := 0 }

/-- The engine goes on without a die. -/
def State.withoutDie (s : State) (d : Nat) : State := ((s.blockWales.commitDieOut d).repath).collectLoss d

/-- The members change. -/
def State.memberGone (s : State) (d : Nat) : State :=
  ({ s with keeper := { s.keeper with memberGen := s.keeper.memberGen + 1,
                                      outReq := s.keeper.outReq &&& ~~~(BitVec.ofNat 64 (2 ^ d)) } } : State).count pgSpareMap 1

theorem dieGone_eq (s : State) (d : Nat) (cause : BitVec 4) (st : BlkSt) :
    s.dieGone d cause st = if s.dieOut d then s else
      ((((s.dieLeaves d cause st).quartersOut d).clearedDie d).withoutDie d).memberGone d := by
  unfold State.dieGone State.dieLeaves State.quartersOut State.clearedDie State.withoutDie State.memberGone
  dsimp only

theorem dieLeaves_die (s : State) (d : Nat) (cause : BitVec 4) (st : BlkSt) :
    ((s.dieLeaves d cause st).die d).st = st ∧ ((s.dieLeaves d cause st).die d).service = 2 ∧
    ((s.dieLeaves d cause st).die d).cause = cause := by
  unfold State.dieLeaves
  dsimp only
  rw [setDie_die_same]
  exact ⟨rfl, rfl, rfl⟩

theorem dieLeaves_die_other (s : State) {d e : Nat} (cause : BitVec 4) (st : BlkSt) (h : e ≠ d) :
    (s.dieLeaves d cause st).die e = s.die e := by
  have hrun : (if s.running then s.closeOut else s).dies = s.dies := by
    split
    · exact dies_of_mask (by simp)
    · rfl
  unfold State.dieLeaves
  dsimp only
  rw [setDie_die_other _ h, State.die, dies_of_mask (mask_ctxDieLost (by simp) _ _), hrun]
  rfl

theorem quartersOut_dies (s : State) (d : Nat) : (s.quartersOut d).dies = s.dies :=
  forEach_keeps State.dies (fun t q => by
    dsimp only
    split <;> rfl) _ s

theorem withoutDie_dies (s : State) (d : Nat) : (s.withoutDie d).dies = s.dies :=
  dies_of_mask (by simp [State.withoutDie])

theorem clearedDie_dies (s : State) (d : Nat) : (s.clearedDie d).dies = s.dies :=
  dies_of_mask (by simp [State.clearedDie])

theorem memberGone_dies (s : State) (d : Nat) : (s.memberGone d).dies = s.dies := rfl

theorem dieGone_dies (s : State) {d : Nat} (cause : BitVec 4) (st : BlkSt) (h : s.dieOut d = false) :
    (s.dieGone d cause st).dies = (s.dieLeaves d cause st).dies := by
  rw [dieGone_eq, if_neg (by simp [h]), memberGone_dies, withoutDie_dies, clearedDie_dies, quartersOut_dies]

theorem dieGone_die_other (s : State) {d e : Nat} (cause : BitVec 4) (st : BlkSt) (h : e ≠ d) :
    (s.dieGone d cause st).die e = s.die e := by
  by_cases hout : s.dieOut d = true
  · rw [dieGone_eq, if_pos hout]
  · rw [State.die, dieGone_dies s cause st (by simpa using hout)]
    exact dieLeaves_die_other s cause st h

theorem xor_one_ne (d : Nat) : d ≠ d ^^^ 1 := fun h => by
  have hbit := congrArg (·.testBit 0) h
  simp at hbit
  omega

/-- A die that is taken out is FAULTED, out of service and shows the cause. -/
theorem takeDieOut_die (s : State) {d : Nat} (cause : BitVec 4) (h : s.dieOut d = false) :
    ((s.takeDieOut d cause).die d).st = .faulted ∧ ((s.takeDieOut d cause).die d).service = 2 ∧
    ((s.takeDieOut d cause).die d).cause = cause := by
  have hdie : (s.takeDieOut d cause).die d = (s.dieGone d cause .faulted).die d := by
    unfold State.takeDieOut
    dsimp only
    split
    · exact dieGone_die_other _ 5 .faulted (xor_one_ne d)
    · rfl
  have hgone : (s.dieGone d cause .faulted).die d = (s.dieLeaves d cause .faulted).die d := by
    rw [State.die, dieGone_dies s cause .faulted h]
    rfl
  rw [hdie, hgone]
  exact dieLeaves_die s d cause .faulted

theorem stands_dieLeaves (s : State) (d : Nat) (cause : BitVec 4) (st : BlkSt) : Stands s (s.dieLeaves d cause st) := by
  have h : Stands s (if s.running then s.closeOut else s) := .ite (stands_closeOut s) (.refl s)
  exact h.then ((mask_setDie (by simp) _ d _).trans (mask_ctxDieLost (by simp) _ d))

theorem stands_quartersOut (s : State) (d : Nat) : Stands s (s.quartersOut d) :=
  .forEach (fun t q => by
    dsimp only
    split <;> exact ⟨rfl, rfl⟩) _ s

theorem stands_clearedDie (s : State) (d : Nat) : Stands s (s.clearedDie d) :=
  .of_mask (by simp [State.clearedDie])

theorem stands_withoutDie (s : State) (d : Nat) : Stands s (s.withoutDie d) :=
  (((Stands.of_mask (mask_blockWales (by simp) s)).trans (stands_commitDieOut _ d)).then (mask_repath (by simp) _)).then
    (mask_collectLoss (by simp) _ d)

theorem stands_dieGone (s : State) (d : Nat) (cause : BitVec 4) (st : BlkSt) : Stands s (s.dieGone d cause st) := by
  rw [dieGone_eq]
  have hgone (t : State) : Stands t (t.memberGone d) := ⟨rfl, rfl⟩
  exact .ite (.refl s) ((((((stands_dieLeaves s d cause st).trans (stands_quartersOut _ d)).trans
    (stands_clearedDie _ d)).trans (stands_withoutDie _ d))).trans (hgone _))

theorem stands_takeDieOut (s : State) (d : Nat) (cause : BitVec 4) : Stands s (s.takeDieOut d cause) :=
  .ite ((stands_dieGone s d cause .faulted).trans (stands_dieGone _ _ 5 .faulted)) (stands_dieGone s d cause .faulted)

theorem takeDieOut_repairs (s : State) (d : Nat) (cause : BitVec 4) :
    (s.takeDieOut d cause).keeper.repairs = s.keeper.repairs := repairs_of_mask (by simp)

/-! ### The grid forms -/

/-- The maps of the live dies form, and the dies that cannot serve leave. -/
def State.gridForms (s : State) : State :=
  let s1 := s.formMaps s.liveDies
  let s2 := s1.forEach (allDies.filter fun d => (s1.die d).service == 2) fun t d => t.commitDieOut d
  let broken := s2.liveDies.filter fun d => (List.range 4).any fun q => (s2.quarter d q).st == .faulted
  let s3 := s2.forEach broken fun t d => t.takeDieOut d 4
  let s4 := s3.blockWales.repath
  s4.forEach s4.liveDies fun t d => (List.range 4).foldl (fun u q => u.startQuarter d q) t

theorem formGrid_eq (s : State) : s.formGrid =
    { s.gridForms with keeper := { s.gridForms.keeper with bring := 6, phase := 1 },
                       red := { s.gridForms.red with lead := s.gridForms.liveDies.headD 0 } } := by
  unfold State.formGrid State.gridForms
  dsimp only

theorem stands_formMaps (s : State) (ds : List Nat) : Stands s (s.formMaps ds) := by
  unfold State.formMaps
  have h := (stands_makeWay s false (maskOf ds)).then (mask_ctxOpen (by simp) _ 5 false (maskOf ds))
  refine .ite h (h.trans ?_)
  have hform (t : State) : Stands t (t.forEach ds fun t d => (List.range 4).foldl (fun u q => u.formQuarter d q) t) :=
    .forEach (fun t d => .foldl (fun u q => .of_mask (by simp)) _ t) ds t
  exact .then (.trans (.of_mask (mask_setBctx (by simp) _ 5 _)) (hform _)) (mask_ctxCommitted (by simp) _ 5)

theorem stands_gridForms (s : State) : Stands s s.gridForms := by
  unfold State.gridForms
  dsimp only
  refine .then (.then ?_ ((mask_repath (by simp) _).trans (mask_blockWales (by simp) _)))
    (mask_forEach (fun t d => mask_foldl (fun u q => by simp) _ _) _ _)
  exact ((stands_formMaps s _).trans (.forEach stands_commitDieOut _ _)).trans
    (.forEach (fun t d => stands_takeDieOut t d 4) _ _)

/-- What the forming of the grid may change. -/
def gridParts : List Part := [.dies, .arcs, .breaches, .keys, .red, .ports, .wales, .free, .regs, .cnt, .errNotes, .mem, .scrub, .quarters, .stalls, .streams, .stores, .rounds,
  .roundsRest, .check, .progRest, .weights, .flows, .bnd, .ledgers, .lastFault, .talk, .keeperRest, .secRest]

theorem formMaps_frame (s : State) (ds : List Nat) : SameBut gridParts s (s.formMaps ds) := by
  have hform (t : State) : SameBut gridParts t (t.forEach ds fun t d => (List.range 4).foldl (fun u q => u.formQuarter d q) t) :=
    mask_forEach (fun t d => mask_foldl (fun u q => by simp [among, gridParts]) _ _) _ _
  have hway : SameBut gridParts s ((s.makeWay false (maskOf ds)).ctxOpen 5 false (maskOf ds)) := by
    simp [SameBut, among, gridParts]
  have hset (t : State) (x : BndCtx) : SameBut gridParts t (t.setBctx 5 x) := by
    simp [SameBut, among, gridParts]
  have hcommit (t : State) : SameBut gridParts t (t.ctxCommitted 5) := by
    simp [SameBut, among, gridParts]
  unfold State.formMaps
  dsimp only
  split
  · exact hway
  · exact (hcommit _).trans ((hform _).trans ((hset _ _).trans hway))

theorem gridForms_parts (s : State) : SameBut gridParts s s.gridForms := by
  have hstart (t : State) (l : List Nat) :
      SameBut gridParts t (t.forEach l fun t d => (List.range 4).foldl (fun u q => u.startQuarter d q) t) :=
    mask_forEach (fun t d => mask_foldl (fun u q => by simp [among, gridParts]) _ _) _ _
  have hout (t : State) (l : List Nat) : SameBut gridParts t (t.forEach l fun t d => t.takeDieOut d 4) := by
    simp [SameBut, among, gridParts]
  have hcommit (t : State) (l : List Nat) : SameBut gridParts t (t.forEach l fun t d => t.commitDieOut d) := by
    simp [SameBut, among, gridParts]
  have hpath (t : State) : SameBut gridParts t t.blockWales.repath := by
    simp [SameBut, among, gridParts]
  unfold State.gridForms
  dsimp only
  exact (hstart _ _).trans ((hpath _).trans ((hout _ _).trans ((hcommit _ _).trans (formMaps_frame s _))))

/-- The forming of the grid touches neither power nor pins. -/
theorem gridForms_frame (s : State) : s.gridForms.pwr = s.pwr ∧ s.gridForms.pins = s.pins := by
  have h := (gridForms_parts s).frame
  generalize s.gridForms = t at h ⊢
  exact ⟨(congrArg State.pwr h :), (congrArg State.pins h :)⟩

/-- Once the grid has formed, the engine is past the step that it stood at, with its input and PRSNT_N as they were. -/
theorem bringCheck_brings {s : State} (h : s.keeper.bring = 5) :
    5 ≤ s.bringCheck.keeper.bring ∧ s.bringCheck.keeper.prsntHold = s.keeper.prsntHold ∧
    s.bringCheck.pwr.input = s.pwr.input ∧ s.bringCheck.pins.prsnt = s.pins.prsnt := by
  have hupcheck (t : State) (h5 : 5 ≤ t.keeper.bring) : 5 ≤ t.upCheck.keeper.bring ∧
      t.upCheck.keeper.prsntHold = t.keeper.prsntHold ∧ t.upCheck.pwr.input = t.pwr.input ∧
      t.upCheck.pins.prsnt = t.pins.prsnt := by
    unfold State.upCheck
    dsimp only
    split
    · exact ⟨by change 5 ≤ 7; decide, rfl, rfl, rfl⟩
    · exact ⟨h5, rfl, rfl, rfl⟩
  unfold State.bringCheck
  split
  · obtain ⟨hpwr, hpins⟩ := gridForms_frame s
    obtain ⟨-, hstand⟩ := stands_gridForms s
    rw [formGrid_eq, ← hstand, ← hpwr, ← hpins]
    generalize s.gridForms = g
    exact hupcheck _ (by change 5 ≤ 6; decide)
  · exact ⟨h.ge, rfl, rfl, rfl⟩

/-- Wales train, and the dies that the repair map leaves in service boot. -/
def State.diesBoot (s : State) : State :=
  (s.forEach (List.range 210) fun t w => t.trainWale w).forEach allDies fun t d =>
    if (t.die d).iso || t.keeper.repairs.any fun r => r.kind == 2 && r.die == d then
      t.setDie d { t.die d with st := .faulted, service := 2, cause := 2 }
    else (t.bootDie d).setPort d { t.port d with st := .starting, link := 1 }

theorem bringDies_eq (s : State) : s.bringDies =
    { s.diesBoot with keeper := { s.diesBoot.keeper with bring := 5, prsntHold := false } } := by
  unfold State.bringDies State.diesBoot
  dsimp only

theorem diesBoot_frame (s : State) : SameBut [.wales, .dies, .cnt, .ports] s s.diesBoot := by
  simp [SameBut, among, State.diesBoot]

theorem bringDies_brings (s : State) : s.bringDies.keeper.bring = 5 ∧ s.bringDies.keeper.prsntHold = false ∧
    s.bringDies.pwr = s.pwr ∧ s.bringDies.pins = s.pins := by
  have hsame := (diesBoot_frame s).frame
  rw [bringDies_eq]
  generalize s.diesBoot = t at hsame ⊢
  exact ⟨rfl, rfl, (congrArg State.pwr hsame :), (congrArg State.pins hsame :)⟩

/-! ### Rails and the withdrawal -/

theorem repair_lists (s : State) (kind d u lane : Nat) :
    ∃ r ∈ (s.repair kind d u lane).keeper.repairs, r.kind = kind ∧ r.die = d ∧ r.unit = u := by
  unfold State.repair
  dsimp only
  split
  · next h =>
    obtain ⟨r, hr, hsame⟩ := List.any_eq_true.mp h
    simp only [Bool.and_eq_true, beq_iff_eq] at hsame
    obtain ⟨⟨⟨hkind, hdie⟩, hunit⟩, -⟩ := hsame
    exact ⟨r, hr, hkind, hdie, hunit⟩
  · exact ⟨_, List.mem_append_right _ (List.mem_singleton_self _), rfl, rfl, rfl⟩

theorem repair_frame (s : State) (kind d u lane : Nat) : SameBut [.repairs] s (s.repair kind d u lane) := by
  simp [SameBut, among]

theorem quarter_shorted (s : State) (d : Die) (q : Qtr) (hlive : s.dieLive d = true) (hiso : (s.quarter d q).iso = false) :
    Completes (.quarterRailShort d q) s fun t =>
      (t.quarter d q).st = .faulted ∧ (t.quarter d q).cause = 2 ∧ (t.quarter d q).gated = true ∧
      (t.quarter d q).iso = true ∧ (t.quarter d q).map = (s.quarter d q).map ∧
      (∃ r ∈ t.keeper.repairs, r.kind = 1 ∧ r.die = d.val ∧ r.unit = q.val) ∧
      t.ports = s.ports ∧ t.wales = s.wales := by
  obtain ⟨r, hr⟩ : ∃ r, (s.raise (pgQuarter d q) 0x0701).repair 1 d q 0 = r := ⟨_, rfl⟩
  have hx : execQuarterRailShort d q s = s.ok ((r.darkQuarter d q .faulted 2).setQuarter d q
      { (r.darkQuarter d q .faulted 2).quarter d q with iso := true }) := by
    rw [← hr]
    exact if_neg (by simp [hlive, hiso])
  have hquarter : r.quarter d q = s.quarter d q := by
    rw [← hr]
    exact quarter_of_mask ((mask_repair (by simp) _ _ _ _ _).trans (mask_raise (by simp) _ _ _)) d q
  have hports : (r.darkQuarter d q .faulted 2).ports = s.ports := by
    rw [← hr]
    exact ports_of_mask ((mask_darkQuarter (by simp) _ _ _ _ _).trans
      ((mask_repair (by simp) _ _ _ _ _).trans (mask_raise (by simp) _ _ _)))
  have hwales : (r.darkQuarter d q .faulted 2).wales = s.wales := by
    rw [← hr]
    exact wales_of_mask ((mask_darkQuarter (by simp) _ _ _ _ _).trans
      ((mask_repair (by simp) _ _ _ _ _).trans (mask_raise (by simp) _ _ _)))
  have hrepairs : (r.darkQuarter d q .faulted 2).keeper.repairs = r.keeper.repairs :=
    repairs_of_mask (mask_darkQuarter (by simp) _ _ _ _ _)
  have hlisted : ∃ e ∈ r.keeper.repairs, e.kind = 1 ∧ e.die = d.val ∧ e.unit = q.val := by
    rw [← hr]
    exact repair_lists _ 1 d q 0
  have hdark := darkQuarter_quarter r d q .faulted 2
  obtain ⟨u, hu⟩ : ∃ u, r.darkQuarter d q .faulted 2 = u := ⟨_, rfl⟩
  rw [hu] at hx hports hwales hrepairs hdark
  have hset := setQuarter_quarter_same (d := d.val) (q := q.val) (x := { u.quarter d q with iso := true }) u
  rw [hdark, hquarter] at hset
  rw [hdark, hquarter] at hx
  rw [← hrepairs] at hlisted
  obtain ⟨v, hv⟩ : ∃ v, u.setQuarter d q { (s.quarter d q).dark .faulted 2 with iso := true } = v := ⟨_, rfl⟩
  have hkeeper : v.keeper = u.keeper := hv ▸ rfl
  have hvports : v.ports = u.ports := hv ▸ rfl
  have hvwales : v.wales = u.wales := hv ▸ rfl
  rw [hv] at hx hset
  refine .of_changes hx fun _ => ?_
  change (v.quarter d q).st = _ ∧ (v.quarter d q).cause = _ ∧ (v.quarter d q).gated = _ ∧ (v.quarter d q).iso = _ ∧
    (v.quarter d q).map = _ ∧ (∃ e ∈ v.keeper.repairs, _) ∧ v.ports = _ ∧ v.wales = _
  rw [hset, hkeeper, hvports, hvwales]
  exact ⟨rfl, rfl, rfl, rfl, rfl, hlisted, hports, hwales⟩

theorem spine_shorted (s : State) (d : Die) (hst : (s.die d).st = .on ∨ (s.die d).st = .starting)
    (hservice : (s.die d).service ≠ 2) (hbring : s.keeper.bring ≠ 5) :
    Completes (.spineRailShort d) s fun t =>
      (t.die d).st = .faulted ∧ (t.die d).service = 2 ∧ (t.die d).cause = 2 ∧ (t.die d).iso = true ∧
      (∃ r ∈ t.keeper.repairs, r.kind = 2 ∧ r.die = d.val) := by
  obtain ⟨r, hr⟩ : ∃ r, (s.raise (pgDieHealth d) 0x0702).repair 2 d 0 0 = r := ⟨_, rfl⟩
  have hx : execSpineRailShort d s = s.ok (((r.takeDieOut d 2).isolateDie d).bringCheck) := by
    rw [← hr]
    exact (if_neg (by obtain h | h := hst <;> rw [h] <;> decide)).trans (if_neg hservice)
  have hdie : r.die d = s.die d := by
    rw [← hr]
    exact die_of_mask ((mask_repair (by simp) _ _ _ _ _).trans (mask_raise (by simp) _ _ _)) d
  have hstand : Stands s r := by
    rw [← hr]
    exact .of_mask ((mask_repair (by simp) _ _ _ _ _).trans (mask_raise (by simp) _ _ _))
  have hlisted : ∃ e ∈ r.keeper.repairs, e.kind = 2 ∧ e.die = d.val := by
    rw [← hr]
    obtain ⟨e, he, hkind, hnum, -⟩ := repair_lists (s.raise (pgDieHealth d) 0x0702) 2 d 0 0
    exact ⟨e, he, hkind, hnum⟩
  have hin : r.dieOut d = false := by
    rw [State.dieOut, hdie]
    simpa using hservice
  obtain ⟨hfaulted, hout, hcause⟩ := takeDieOut_die r 2 hin
  obtain ⟨hsame, -⟩ := hstand.trans (stands_takeDieOut r d 2)
  rw [← takeDieOut_repairs r d 2] at hlisted
  obtain ⟨u, hu⟩ : ∃ u, r.takeDieOut d 2 = u := ⟨_, rfl⟩
  rw [hu] at hx hfaulted hout hcause hsame hlisted
  have hcheck : (u.isolateDie d).bringCheck = u.isolateDie d := if_neg (by
    change ¬ (decide (u.keeper.bring = 5) && _) = true
    rw [hsame, decide_eq_false hbring]
    exact Bool.false_ne_true)
  rw [hcheck] at hx
  have hset : (u.isolateDie d).die d = { u.die d with iso := true } := setDie_die_same u
  have hkeeper : (u.isolateDie d).keeper = u.keeper := rfl
  obtain ⟨v, hv⟩ : ∃ v, u.isolateDie d = v := ⟨_, rfl⟩
  rw [hv] at hx hset hkeeper
  refine .of_changes hx fun _ => ?_
  change (v.die d).st = _ ∧ (v.die d).service = _ ∧ (v.die d).cause = _ ∧ (v.die d).iso = _ ∧ ∃ e ∈ v.keeper.repairs, _
  rw [hset, hkeeper]
  exact ⟨hfaulted, hout, hcause, rfl, hlisted⟩

/-- The engine's work stops at a withdrawal. -/
def State.haltWork (s : State) : State :=
  let s2 := ((s.raise pgPower 0x0703).abortAll 6).stopWork 0xC
  { s2 with prog := { s2.prog with
    pst := .stopped, breaches := [], replaying := false, remap := false, loadReq := false, runReq := false } }

/-- The flows of every port close. -/
def State.flowsClosed (s : State) : State :=
  let cause := s.freeNow.extractLsb' 0 4
  s.forEach allDies fun t p => if t.portUp p then t.closeAll p 1 cause else t

theorem withdraw_eq {s : State} (h : s.keeper.withdrawn = false) : s.withdraw =
    { s.haltWork.flowsClosed with
      keeper := { s.haltWork.flowsClosed.keeper with withdrawn := true }
      free := s.haltWork.flowsClosed.free + 1 } := by
  unfold State.withdraw State.haltWork State.flowsClosed State.freeNext
  dsimp only
  rw [if_neg (by simp [h])]

theorem haltWork_frame (s : State) : SameBut [.free, .regs, .cnt, .errNotes, .mem, .scrub, .quarters, .stalls, .arcs,
    .streams, .stores, .rounds, .roundsRest, .breaches, .check, .progRest, .weights, .red, .flows, .bnd, .ledgers,
    .lastFault, .talk, .keeperRest, .secRest] s s.haltWork := by
  simp [SameBut, among, State.haltWork, Prog.mask, blank]

theorem flowsClosed_frame (s : State) : SameBut [.out, .free, .cnt, .flows] s s.flowsClosed := by
  simp [SameBut, among, State.flowsClosed]

/-- A withdrawal stops the program and touches neither power, pins, meter nor dies. -/
theorem withdraw_stops {s : State} (h : s.keeper.withdrawn = false) :
    s.withdraw.prog.pst = .stopped ∧ s.withdraw.keeper.withdrawn = true ∧ s.withdraw.pwr = s.pwr ∧
    s.withdraw.pins = s.pins ∧ s.withdraw.meter = s.meter ∧ s.withdraw.dies = s.dies := by
  have hpst : s.haltWork.prog.pst = .stopped := rfl
  have hhalt := (haltWork_frame s).frame
  rw [withdraw_eq h]
  generalize s.haltWork = a at hpst hhalt ⊢
  have hclose := (flowsClosed_frame a).frame
  generalize a.flowsClosed = b at hclose ⊢
  have hprog : b.prog = a.prog := (congrArg State.prog hclose :)
  exact ⟨(congrArg Prog.pst hprog).trans hpst, rfl, (congrArg State.pwr hclose :).trans (congrArg State.pwr hhalt :),
    (congrArg State.pins hclose :).trans (congrArg State.pins hhalt :),
    (congrArg State.meter hclose :).trans (congrArg State.meter hhalt :),
    (congrArg State.dies hclose :).trans (congrArg State.dies hhalt :)⟩

/-- The end of an adoption keeps what a withdrawal left. -/
theorem adoptFail_keeps (s : State) (cause : Byte) :
    (s.adoptFail cause).prog.pst = s.prog.pst ∧ (s.adoptFail cause).keeper.withdrawn = s.keeper.withdrawn ∧
    SameBut [.cnt, .progRest, .shut, .talk, .keeperRest] s (s.adoptFail cause) := by
  refine ⟨?_, ?_, by simp [SameBut, among]⟩
  · have hlatch (t : State) : (t.setLatch true).prog.pst = t.prog.pst := by
      obtain ⟨b, hb⟩ := retarget_prog { t with shut := { t.shut with latch := true } }
      exact (congrArg Prog.pst hb :)
    unfold State.adoptFail State.adoptEnd
    dsimp only
    split
    · rw [hlatch]
      rfl
    · rfl
  · have hlatch (t : State) : (t.setLatch true).keeper = t.keeper := by
      have hsame : SameBut [.progRest, .shut] t (t.setLatch true) := by simp [SameBut, among]
      have h := hsame.frame
      generalize t.setLatch true = u at h ⊢
      exact (congrArg State.keeper h :)
    unfold State.adoptFail State.adoptEnd
    dsimp only
    split
    · rw [hlatch]
      rfl
    · rfl

theorem engine_withdrawn {s : State} (hin : s.pins.prsnt = true) (hinput : s.pwr.input = true)
    (hhold : s.keeper.prsntHold = false) (hwd : s.keeper.withdrawn = false) :
    Completes .prsntNRelease s fun t =>
      t.keeper.withdrawn = true ∧ t.pins.prsnt = false ∧ t.prog.pst = .stopped ∧ t.weights.keys = [] ∧
      t.meter.fin = (if s.meter.started then some true else none) ∧ t.pwr = s.pwr ∧ t.dies = s.dies := by
  obtain ⟨r, hr⟩ : ∃ r : State, { s with pins := { s.pins with prsnt := false } } = r := ⟨_, rfl⟩
  have hx : execPrsntNRelease s = s.ok r.withdrawAll := by
    rw [← hr]
    exact (if_neg (by simp [hin])).trans (congrArg s.ok (if_pos (by simp [hinput, hhold])))
  have hrwd : r.keeper.withdrawn = false := hr ▸ hwd
  obtain ⟨hpst, hwithdrawn, hpwr, hpins, hmeter, hdies⟩ := withdraw_stops hrwd
  have hall : r.withdrawAll =
      let u := ((r.withdraw.logEvent 0x0703 pgPower).eraseAllKeys).sendFinal true
      if u.keeper.adopting then u.adoptFail 1 else u := if_neg (by simp [hrwd])
  rw [hall] at hx
  replace hpwr : r.withdraw.pwr = s.pwr := hpwr.trans (hr ▸ rfl)
  replace hpins : r.withdraw.pins = { s.pins with prsnt := false } := hpins.trans (hr ▸ rfl)
  replace hmeter : r.withdraw.meter = s.meter := hmeter.trans (hr ▸ rfl)
  replace hdies : r.withdraw.dies = s.dies := hdies.trans (hr ▸ rfl)
  generalize r.withdraw = a at hx hpst hwithdrawn hpwr hpins hmeter hdies
  obtain ⟨u, hu⟩ : ∃ u, ((a.logEvent 0x0703 pgPower).eraseAllKeys).sendFinal true = u := ⟨_, rfl⟩
  have hfin : u.meter.fin = if s.meter.started then some true else none := by
    rw [← hu]
    change (if a.meter.started then some true else none) = _
    rw [hmeter]
  have hukeys : u.weights.keys = [] := hu ▸ rfl
  have huwd : u.keeper.withdrawn = true := hu ▸ hwithdrawn
  have hupst : u.prog.pst = .stopped := hu ▸ hpst
  have hupwr : u.pwr = s.pwr := hu ▸ hpwr
  have hsame : u.pins = a.pins := hu ▸ rfl
  have hupins : u.pins.prsnt = false := congrArg Pins.prsnt (hsame.trans hpins)
  have hudies : u.dies = s.dies := hu ▸ hdies
  rw [hu] at hx
  have hend : ∃ v, (if u.keeper.adopting then u.adoptFail 1 else u) = v ∧ v.prog.pst = u.prog.pst ∧
      v.keeper.withdrawn = u.keeper.withdrawn ∧ SameBut [.cnt, .progRest, .shut, .talk, .keeperRest] u v := by
    split
    · exact ⟨_, rfl, adoptFail_keeps u 1⟩
    · exact ⟨_, rfl, rfl, rfl, rfl⟩
  obtain ⟨v, hv, hvpst, hvwd, hsame⟩ := hend
  dsimp only at hx
  rw [hv] at hx
  have hframe := hsame.frame
  have hpins : v.pins = u.pins := (congrArg State.pins hframe :)
  have hweights : v.weights = u.weights := (congrArg State.weights hframe :)
  have hmeter : v.meter = u.meter := (congrArg State.meter hframe :)
  have hpwr : v.pwr = u.pwr := (congrArg State.pwr hframe :)
  have hdies : v.dies = u.dies := (congrArg State.dies hframe :)
  refine .of_changes hx fun _ => ?_
  change v.keeper.withdrawn = _ ∧ v.pins.prsnt = _ ∧ v.prog.pst = _ ∧ v.weights.keys = _ ∧ v.meter.fin = _ ∧
    v.pwr = _ ∧ v.dies = _
  rw [hvwd, hpins, hvpst, hweights, hmeter, hpwr, hdies]
  exact ⟨huwd, hupins, hupst, hukeys, hfin, hupwr, hudies⟩

theorem hold_ends {s : State} (hhold : s.keeper.prsntHold = true) :
    Completes .prsntNAssert s fun t =>
      t.pins.prsnt = true ∧ t.keeper.prsntHold = false ∧ 5 ≤ t.keeper.bring ∧ t.pwr.input = s.pwr.input := by
  obtain ⟨r, hr⟩ : ∃ r : State, { s with pins := { s.pins with prsnt := true } } = r := ⟨_, rfl⟩
  have hx : execPrsntNAssert s = s.ok r.bringDies.bringCheck := by
    rw [← hr]
    exact if_pos hhold
  have hpwr : r.pwr = s.pwr := hr ▸ rfl
  have hprsnt : r.pins.prsnt = true := hr ▸ rfl
  obtain ⟨hbring, hnohold, hdpwr, hdpins⟩ := bringDies_brings r
  generalize r.bringDies = u at hx hbring hnohold hdpwr hdpins
  obtain ⟨hpast, hkeep, hinput, hpin⟩ := bringCheck_brings hbring
  generalize u.bringCheck = v at hx hpast hkeep hinput hpin
  refine .of_changes hx fun _ => ?_
  change v.pins.prsnt = _ ∧ v.keeper.prsntHold = _ ∧ 5 ≤ v.keeper.bring ∧ v.pwr.input = _
  rw [hpin, hkeep, hinput, hdpwr, hdpins, hpwr]
  exact ⟨hprsnt, hnohold, hpast, rfl⟩

end Sys2Proof.Machine
end

section

namespace Sys2Proof.Machine

/-- Settles O47: a rail's short, the withdrawal and the end of the hold, each through what it keeps of the rest. -/
theorem shortsAndWithdrawal : Obligations.ShortsAndWithdrawal := by
  unfold Obligations.ShortsAndWithdrawal
  refine ⟨fun s d q => quarter_shorted s d q, fun s d => spine_shorted s d,
    fun s hin hinput hhold hwd => engine_withdrawn hin hinput hhold hwd, ?_, ?_, fun s hhold => hold_ends hhold⟩
  · intro s hin hstays
    have hx : execPrsntNRelease s = s.ok { s with pins := { s.pins with prsnt := false } } := by
      refine (if_neg (by simp [hin])).trans (congrArg s.ok (if_neg ?_))
      obtain h | h := hstays
      · simp [h]
      · simp [h]
    exact .of_ok hx
  · intro s hout hhold
    have hx : execPrsntNAssert s = s.ok { s with pins := { s.pins with prsnt := true } } :=
      (if_neg (by simp [hhold])).trans (if_neg (by simp [hout]))
    exact .of_ok hx

end Sys2Proof.Machine
end


section

/-! SUPPORT. What a commit leaves: the contexts' tags and staged writes, the power of the quarters, the registers of the
engine's own pages, and where a stall is mapped. -/

namespace Sys2Proof.Machine

/-! ### Faults that contexts note -/

/-- The contexts are as before but for the faults that they note. -/
def FaultsNoted (s t : State) : Prop := ∀ c, ∃ fs, t.bctx c = { s.bctx c with faults := fs }

theorem FaultsNoted.refl (s : State) : FaultsNoted s s := fun _ => ⟨_, rfl⟩

theorem FaultsNoted.trans {s t u : State} (h : FaultsNoted s t) (g : FaultsNoted t u) : FaultsNoted s u := fun c => by
  obtain ⟨fs, hfs⟩ := h c
  obtain ⟨gs, hgs⟩ := g c
  exact ⟨gs, by rw [hgs, hfs]⟩

theorem FaultsNoted.of_mask {s t : State} (h : t.mask (allBut .bnd) = s.mask (allBut .bnd)) : FaultsNoted s t :=
  fun c => ⟨(s.bctx c).faults, bctx_of_mask h c⟩

theorem FaultsNoted.then {s t u : State} (h : FaultsNoted s t) (g : u.mask (allBut .bnd) = t.mask (allBut .bnd)) :
    FaultsNoted s u := h.trans (.of_mask g)

theorem FaultsNoted.foldl {α : Type} {f : State → α → State} (hf : ∀ t e, FaultsNoted t (f t e)) (l : List α)
    (s : State) : FaultsNoted s (l.foldl f s) := by
  induction l generalizing s with
  | nil => exact .refl s
  | cons e r ih => exact (hf s e).trans (ih _)

theorem FaultsNoted.ite {s t u : State} {c : Prop} [Decidable c] (ht : FaultsNoted s t) (hu : FaultsNoted s u) :
    FaultsNoted s (if c then t else u) := by
  split
  · exact ht
  · exact hu

theorem faultsNoted_raise (s : State) (page code : Nat) : FaultsNoted s (s.raise page code) := raise_bctx s page code

theorem faultsNoted_noteCe (s : State) (page : Nat) : FaultsNoted s (s.noteCe page) := by
  have hset (x : CeWin) : FaultsNoted s (s.setCeWin page x) := .refl s
  exact .ite ((hset _).trans (faultsNoted_raise _ _ _)) (hset _)

theorem faultsNoted_noteRead (s : State) (src w : Nat) : FaultsNoted s (s.noteRead src w) := by
  have hinc (t : State) (page off : Nat) : FaultsNoted t (t.incSat page off) := .of_mask (by simp)
  have herr (t : State) (page src cls : Nat) : FaultsNoted t (t.noteErr page src cls w) := .of_mask (by simp)
  have hcor (t : State) (k : Nat) : FaultsNoted t (t.noteCorrected k) := .of_mask (by simp)
  have hput (t : State) (x : MWord) : FaultsNoted t (t.putWord w x) := .of_mask (by simp)
  unfold State.noteRead
  dsimp only
  split
  · exact hinc _ _ _
  · split
    · exact .refl s
    · exact (((hinc _ _ _).trans (hcor _ _)).trans (herr _ _ _ _)).trans (faultsNoted_noteCe _ _)
    · exact ((((hinc _ _ _).trans (hcor _ _)).trans (herr _ _ _ _)).trans (faultsNoted_noteCe _ _)).then
        (mask_queueRewrite (by simp) _ _ _)
    · exact (((hinc _ _ _).trans (herr _ _ _ _)).trans (hput _ _)).trans (faultsNoted_raise _ _ _)

theorem faultsNoted_noteReads (s : State) (src k n : Nat) : FaultsNoted s (s.noteReads src k n) := by
  have hreads (l : List Nat) (t : State) : FaultsNoted t (l.foldl (fun t w => t.noteRead src w) t) :=
    .foldl (fun u w => faultsNoted_noteRead u src w) l t
  unfold State.noteReads
  exact (hreads _ _).then (mask_noteBytes (by simp) _ _ _ _)

theorem faultsNoted_copySlot (s : State) (d old new : Nat) : FaultsNoted s (s.copySlot d old new) := by
  have hzero (t : State) : FaultsNoted t (t.zeroSlot d new) := .of_mask (by simp)
  unfold State.copySlot
  dsimp only
  refine ((faultsNoted_noteReads s srcRemap _ _).trans (hzero _)).trans (.foldl (fun u w => ?_) _ _)
  exact .of_mask (mask_putWord (by simp) u _ _)

/-! ### A stall moves to another slot -/

/-- A stall's work and its registers are in its new slot, before the map says so. -/
def State.moveWork (s : State) (d old new : Nat) : State :=
  let s1 := (stallStaged.foldl (fun t o => t.poke (pgStall d new) o (s.reg (pgStall d old) o)) s).copySlot d old new
  let x := s1.slot d old
  let y : Stall := { Stall.reset with
    stats := x.stats, seed := s1.regPair (pgStall d new) rSeed, n := 0, cmdIndex := x.cmdIndex, fetched := x.fetched,
    halted := x.halted, seq := x.seq }
  let s2 := (s1.setSlot d new y).setSlot d old Stall.reset
  let s3 := s2.forEach (List.range 256) fun t st =>
    (t.setStream d new st (s2.stream d old st)).setStream d old st Stream.reset
  let ch := (List.range 64).foldl (fun m c =>
    SMap.set [] (SMap.set [] m ((72 * d + new) * 64 + c) (s3.chain d old c)) ((72 * d + old) * 64 + c) [])
    s3.stores.chains
  ({ s3 with stores := { s3.stores with chains := ch } } : State).moveReqs d old new

/-- A quarter whose map sends a stall to another of its slots. -/
def QuarterSt.remapped (z : QuarterSt) (l old new : Nat) (left : SlotSt) : QuarterSt :=
  { z with map := z.map.set (l % 16) (some (slotLocal new)), remapOf := none,
           slots := (z.slots.set (slotLocal old) left).set (slotLocal new) .mapped }

theorem moveSlot_eq {s : State} {d l old : Nat} (hold : s.slotOf d l = some old) (new : Nat) (left : SlotSt) :
    s.moveSlot d l new left =
      (((s.moveWork d old new).setQuarter d (l / 16) (((s.moveWork d old new).quarter d (l / 16)).remapped l old new left)).count
        pgSpareMap 0).count (pgQuarter d (l / 16)) 0 := by
  unfold State.moveSlot State.moveWork QuarterSt.remapped
  rw [hold]

theorem moveWork_frame (s : State) (d old new : Nat) : SameBut [.regs, .cnt, .errNotes, .mem, .scrub, .stalls, .streams,
    .stores, .bnd, .lastFault] s (s.moveWork d old new) := by
  simp [SameBut, among, State.moveWork]

theorem moveWork_bctx (s : State) (d old new : Nat) : FaultsNoted s (s.moveWork d old new) := by
  have hpokes (t : State) : FaultsNoted t (stallStaged.foldl (fun t o => t.poke (pgStall d new) o (s.reg (pgStall d old) o)) t) :=
    .foldl (fun u o => .of_mask (by simp)) _ t
  have hset (t : State) (y : Stall) : FaultsNoted t ((t.setSlot d new y).setSlot d old Stall.reset) := .of_mask (by simp)
  have hstreams (t u : State) : FaultsNoted u (u.forEach (List.range 256) fun v st =>
      (v.setStream d new st (t.stream d old st)).setStream d old st Stream.reset) := .of_mask (by simp)
  have hchains (t : State) (ch : SMap (List Word)) :
      FaultsNoted t { t with stores := { t.stores with chains := ch } } := .refl t
  have hreqs (t : State) : FaultsNoted t (t.moveReqs d old new) := .of_mask (by simp)
  unfold State.moveWork
  dsimp only
  exact (((((hpokes s).trans (faultsNoted_copySlot _ d old new)).trans (hset _ _)).trans (hstreams _ _)).trans
    (hchains _ _)).trans (hreqs _)

theorem faultsNoted_moveSlot (s : State) (d l new : Nat) (left : SlotSt) : FaultsNoted s (s.moveSlot d l new left) := by
  cases hold : s.slotOf d l with
  | none =>
    unfold State.moveSlot
    rw [hold]
    exact .refl s
  | some old =>
    rw [moveSlot_eq hold]
    have hset (t : State) (z : QuarterSt) : FaultsNoted t (((t.setQuarter d (l / 16) z).count pgSpareMap 0).count
        (pgQuarter d (l / 16)) 0) := .of_mask (by simp)
    exact (moveWork_bctx s d old new).trans (hset _ _)

theorem moveWork_quarters (s : State) (d old new : Nat) : (s.moveWork d old new).quarters = s.quarters := by
  have h := (moveWork_frame s d old new).frame
  generalize s.moveWork d old new = t at h ⊢
  exact (congrArg State.quarters h :)

theorem moveSlot_quarters {s : State} {d l old : Nat} (hold : s.slotOf d l = some old) (new : Nat) (left : SlotSt) :
    (s.moveSlot d l new left).quarters =
      (s.setQuarter d (l / 16) ((s.quarter d (l / 16)).remapped l old new left)).quarters := by
  have hq := moveWork_quarters s d old new
  rw [moveSlot_eq hold, count_quarters, count_quarters]
  generalize s.moveWork d old new = t at hq ⊢
  unfold State.setQuarter State.quarter
  rw [hq]

theorem slotNum_slotLocal {p q : Nat} (hp : p < 72) (hq : slotQuarter p = q) : slotNum q (slotLocal p) = p :=
  (slot_of_quarter hp hq).2

/-- A stall that moves is mapped to its new slot. -/
theorem moveSlot_moves {s : State} {d l old new : Nat} (hold : s.slotOf d l = some old) (hnew : new < 72)
    (hq : slotQuarter new = l / 16) (hstate : s.slotState d new ≠ .faulted) (left : SlotSt) :
    (s.moveSlot d l new left).slotOf d l = some new ∧ (s.moveSlot d l new left).slotState d new = .mapped := by
  have hquarter : (s.moveSlot d l new left).quarter d (l / 16) = (s.quarter d (l / 16)).remapped l old new left := by
    rw [State.quarter, moveSlot_quarters hold]
    exact setQuarter_quarter_same s
  have hmap : l % 16 < (s.quarter d (l / 16)).map.length := by
    by_contra h
    rw [State.slotOf, List.getElem?_eq_none (by omega)] at hold
    cases hold
  have hslots : slotLocal new < (s.quarter d (l / 16)).slots.length := by
    by_contra h
    rw [State.slotState, hq, List.getD_eq_getElem?_getD, List.getElem?_eq_none (by omega)] at hstate
    exact hstate rfl
  constructor
  · rw [State.slotOf, hquarter, QuarterSt.remapped]
    dsimp only
    rw [List.getElem?_set_self hmap]
    dsimp only
    rw [slotNum_slotLocal hnew hq]
  · rw [State.slotState, hq, hquarter, QuarterSt.remapped]
    dsimp only
    rw [List.getD_eq_getElem?_getD, List.getElem?_set_self (by rwa [List.length_set])]
    rfl

/-! ### The power of the quarters -/

/-- Every quarter is on, off or gated as before, for the same cause. -/
def Powered (s t : State) : Prop := ∀ e r, (t.quarter e r).st = (s.quarter e r).st ∧
  (t.quarter e r).cause = (s.quarter e r).cause ∧ (t.quarter e r).gated = (s.quarter e r).gated

theorem Powered.refl (s : State) : Powered s s := fun _ _ => ⟨rfl, rfl, rfl⟩

theorem Powered.trans {s t u : State} (h : Powered s t) (g : Powered t u) : Powered s u := fun e r => by
  obtain ⟨hst, hcause, hgated⟩ := h e r
  obtain ⟨gst, gcause, ggated⟩ := g e r
  exact ⟨gst.trans hst, gcause.trans hcause, ggated.trans hgated⟩

theorem Powered.of_mask {s t : State} (h : t.mask (allBut .quarters) = s.mask (allBut .quarters)) : Powered s t :=
  fun e r => by
    rw [quarter_of_mask h]
    exact ⟨rfl, rfl, rfl⟩

theorem Powered.then {s t u : State} (h : Powered s t) (g : u.mask (allBut .quarters) = t.mask (allBut .quarters)) :
    Powered s u := h.trans (.of_mask g)

theorem Powered.foldl {α : Type} {f : State → α → State} (hf : ∀ t e, Powered t (f t e)) (l : List α) (s : State) :
    Powered s (l.foldl f s) := by
  induction l generalizing s with
  | nil => exact .refl s
  | cons e r ih => exact (hf s e).trans (ih _)

theorem Powered.forEach {α : Type} {f : State → α → State} (hf : ∀ t e, Powered t (f t e)) (l : List α) (s : State) :
    Powered s (s.forEach l f) := .foldl hf l s

theorem Powered.ite {s t u : State} {c : Prop} [Decidable c] (ht : Powered s t) (hu : Powered s u) :
    Powered s (if c then t else u) := by
  split
  · exact ht
  · exact hu

theorem powered_moveSlot (s : State) (d l new : Nat) (left : SlotSt) : Powered s (s.moveSlot d l new left) := by
  cases hold : s.slotOf d l with
  | none =>
    unfold State.moveSlot
    rw [hold]
    exact .refl s
  | some old =>
    intro e r
    have hquarters := moveSlot_quarters hold new left
    rw [State.quarter, hquarters]
    by_cases hkey : 4 * e + r = 4 * d + l / 16
    · have hold : s.quarter e r = s.quarter d (l / 16) := congrArg (SMap.get _ _) hkey
      have hnew : SMap.get QuarterSt.reset (s.setQuarter d (l / 16)
          ((s.quarter d (l / 16)).remapped l old new left)).quarters (4 * e + r) =
          (s.quarter d (l / 16)).remapped l old new left := by
        rw [hkey]
        exact setQuarter_quarter_same s
      rw [hnew, hold]
      exact ⟨rfl, rfl, rfl⟩
    · have hnew : SMap.get QuarterSt.reset (s.setQuarter d (l / 16)
          ((s.quarter d (l / 16)).remapped l old new left)).quarters (4 * e + r) = s.quarter e r :=
        setQuarter_quarter_other s _ hkey
      rw [hnew]
      exact ⟨rfl, rfl, rfl⟩

theorem powered_hostRemap (s : State) (c : Nat) (v : Word) : Powered s (s.hostRemap c v) := by
  have hset (x : BndCtx) : Powered s (s.setBctx c x) := .refl s
  unfold State.hostRemap
  dsimp only
  split
  · exact .refl s
  · exact .ite ((hset _).trans (powered_moveSlot _ _ _ _ _)) (.refl s)

/-! ### A context commits -/

/-- A remap that a context carries. -/
def State.carriedRemap (s : State) (c : Nat) : State :=
  match (s.bctx c).remaps with
  | some v => s.hostRemap c v
  | none => s

/-- The pages of a context show its tag, and it is COMMITTED. -/
def State.stamped (s : State) (c : Nat) : State :=
  let x := s.bctx c
  let s1 := (x.staged.map (·.page)).eraseDups.foldl (fun t g => t.poke g rBundleTag x.tag) s
  let s2 := (s1.poke pgBundle 0x05C x.tag).count pgBundle 0
  let s3 := (s2.peak pgBundle 0x064 (s2.freeNow.toNat % 2 ^ 32)).freeNext
  s3.setBctx c { x with st := .committed, staged := [], parts := [], blocks := [],
                        applySent := false, mark := 0, faults := [], reason := 0, wher := 0 }

theorem ctxCommitted_eq (s : State) (c : Nat) : s.ctxCommitted c =
    if stagesPath ((s.carriedRemap c).bctx c).staged then ((s.carriedRemap c).stamped c).pathCommitted.repath
    else (s.carriedRemap c).stamped c := by
  unfold State.ctxCommitted State.carriedRemap State.stamped
  dsimp only <;> rfl

theorem powered_ctxCommitted (s : State) (c : Nat) : Powered s (s.ctxCommitted c) := by
  have hremap : Powered s (s.carriedRemap c) := by
    unfold State.carriedRemap
    split
    · exact powered_hostRemap s c _
    · exact .refl s
  have hstamp (t : State) : Powered t (t.stamped c) := .of_mask (by simp [State.stamped])
  have hpath (t : State) : Powered t t.pathCommitted.repath := .of_mask (by simp)
  rw [ctxCommitted_eq]
  exact hremap.trans (.ite ((hstamp _).trans (hpath _)) (hstamp _))

theorem powered_ctxApply (s : State) (c p : Nat) : Powered s (s.ctxApply c p) := by
  have hpart (x : BndCtx) : Powered s (s.applyPart x p) := .of_mask (by simp)
  have hback (t : State) (b : Bool) : Powered t ((t.bellBack p).holdPeak p b) := .of_mask (by simp)
  have hset (t : State) (x : BndCtx) : Powered t (t.setBctx c x) := .refl t
  unfold State.ctxApply
  dsimp only
  exact .ite (((((hpart _).trans (hback _ _)).trans (hset _ _))).trans (powered_ctxCommitted _ c))
    (((hpart _).trans (hback _ _)).trans (hset _ _))

theorem powered_finishApply (s : State) (c : Nat) : Powered s (s.finishApply c) := by
  unfold State.finishApply
  have h : Powered s ((s.ctxParts (s.bctx c)).foldl (fun t p =>
      if (t.bctx c).applySent && (t.bctx c).part p != .applied then t.ctxApply c p else t) s) :=
    .foldl (fun t p => .ite (powered_ctxApply t c p) (.refl t)) _ s
  exact .ite (h.trans (powered_ctxCommitted _ c)) h

theorem powered_aborted (s : State) (c : Nat) (reason : Byte) (wher : Word) :
    Powered s ((s.ctxAbort c reason wher).finishAbort c) := .of_mask (by simp)

theorem powered_internal (s : State) (c : Nat) (engine : Bool) (scope : DWord) (ws : List Staged) :
    Powered s (s.internal c engine scope ws) := by
  have hway : Powered s (s.makeWay engine scope) :=
    .forEach (fun t c => .ite (.refl t) (.ite (powered_finishApply t c) (powered_aborted t c _ _))) _ s
  have hopen (t : State) : Powered t (t.ctxOpen c engine scope) := .of_mask (by simp)
  have hset (t : State) (x : BndCtx) : Powered t (t.setBctx c x) := .refl t
  have hpokes (t : State) : Powered t (ws.foldl (fun t w => t.poke w.page w.off w.val) t) :=
    .foldl (fun t w => .of_mask (by simp)) ws t
  have hcount (t : State) (n : Nat) : Powered t (t.count pgBundle 2 n) := .of_mask (by simp)
  unfold State.internal
  exact .ite (hway.trans (hopen _))
    (((((hway.trans (hopen _)).trans (hset _ _)).trans (hpokes _)).trans (hcount _ _)).trans (powered_ctxCommitted _ c))

theorem powered_commitDieOut (s : State) (d : Nat) : Powered s (s.commitDieOut d) :=
  .ite (.refl s) (powered_internal s _ _ _ _)

theorem powered_closeOut (s : State) : Powered s s.closeOut := by
  have h : Powered s (s.stopWork 0xC).dropUndecided := .of_mask (by simp)
  have hctx (t : State) : Powered t (t.forEach ctxList fun t c =>
      if (t.bctx c).applySent then t.finishApply c else (t.ctxAbort c 7 0).finishAbort c) :=
    .forEach (fun t c => .ite (powered_finishApply t c) (powered_aborted t c _ _)) _ t
  have hstop (t : State) (p : Prog) : Powered t { t with prog := p } := .refl t
  exact (h.trans (hctx _)).trans (hstop _ _)

theorem powered_ctxDieLost (s : State) (d : Nat) : Powered s (s.ctxDieLost d) := by
  have hset (t : State) (c : Nat) (x : BndCtx) : Powered t (t.setBctx c x) := .refl t
  refine .forEach (fun t c => ?_) _ s
  exact .ite ((hset t c _).trans (powered_aborted _ _ _ _))
    (.ite (.ite ((hset t c _).trans (powered_ctxCommitted _ _)) (hset t c _)) (hset t c _))

theorem powered_withoutDie (s : State) (d : Nat) : Powered s (s.withoutDie d) :=
  (((Powered.of_mask (mask_blockWales (by simp) s)).trans (powered_commitDieOut _ d)).then (mask_repath (by simp) _)).then
    (mask_collectLoss (by simp) _ d)

/-! ### A path is chosen anew -/

theorem engineRegs_freeRoundSlot (s : State) (d c i : Nat) : EngineRegs s (s.freeRoundSlot d c i) := by
  have hunhold (t : State) (k n : Nat) : EngineRegs t (t.unhold k n) := by
    unfold State.unhold
    dsimp only
    split
    · exact .refl t
    · split
      · exact .refl t
      · exact engineRegs_setPool t _ _ _ _
  have htags (t : State) (x : Weights) : EngineRegs t { t with weights := x } := .refl t
  unfold State.freeRoundSlot
  dsimp only
  exact .forEach (fun t q => (htags t _).trans (.foldl (fun u e => hunhold u _ _) _ _)) _ s

theorem engineRegs_roundStop (s : State) : EngineRegs s s.roundStop := by
  have hledger (t : State) (gone : Bool) (d c n : Nat) :
      EngineRegs t (if gone then t.ledWoff d lgRound c n else t.ledReturn d lgRound c n) :=
    .ite (.of_mask (by simp)) (.of_mask (by simp))
  have hset (t : State) (d c : Nat) (x : RoundCtx) : EngineRegs t (t.setRoundCtx d c x) := .of_mask (by simp)
  have hstop (t : State) (gone : Bool) (d c : Nat) : EngineRegs t (t.ctxStop gone d c) := by
    unfold State.ctxStop
    dsimp only
    exact ((hledger t gone d c _).trans (.forEach (fun u i => engineRegs_freeRoundSlot u d c i) _ _)).trans (hset _ _ _ _)
  have hdrop (t : State) (d st : Nat) (gone : Bool) : EngineRegs t (t.dropXfers d 72 st gone .stopped) :=
    .of_mask (by simp)
  have heach (t : State) (d : Nat) (gone : Bool) : EngineRegs t (t.eachStream d 72 fun u st =>
      if (u.stream d 72 st).role == roleRound then u.dropXfers d 72 st gone .stopped else u) :=
    .foldl (fun u st => .ite (hdrop u d st gone) (.refl u)) _ t
  have hrounds (t : State) (r : Rounds) : EngineRegs t { t with rounds := r } := .refl t
  unfold State.roundStop
  dsimp only
  exact ((EngineRegs.forEach (fun t d => .forEach (fun u c => hstop u _ d c) _ t) allDies s).trans
    (.forEach (fun t d => heach t d _) allDies _)).trans (hrounds _ _)

theorem engineRegs_repath (s : State) : EngineRegs s s.repath := by
  have hrounds (t : State) (r : Rounds) : EngineRegs t { t with rounds := r } := .refl t
  have hrestart (t : State) (l : List Transit) : EngineRegs t (t.forEach l State.restartForward) :=
    .of_mask (by simp)
  unfold State.repath
  dsimp only
  split
  · exact ((hrounds _ _).trans (.ite (engineRegs_roundStop _) (hrestart _ _))).trans (hrounds _ _)
  · exact ((hrounds _ _).trans (engineRegs_roundStop _)).trans (hrounds _ _)

end Sys2Proof.Machine
end


section

/-! SUPPORT. O45: heartbeats, remaps, dies out and back. -/

namespace Sys2Proof.Machine

/-! ### Heartbeats -/

/-- What a die that answers, or misses, one heartbeat counts. -/
def DieSt.heard (x : DieSt) (answered : Bool) : DieSt :=
  if x.bell then { x with missed := if answered then 0 else x.missed + 1 } else x

/-- A heartbeat that takes no die out changes that die's count alone, and its page's counter of misses. -/
theorem beat_hears {s : State} {d : Nat} {answered : Bool}
    (h : (s.die d).bell = true → answered = false → (s.die d).missed < 7) :
    (s.beat d answered).die d = (s.die d).heard answered ∧
    (∀ e, e ≠ d → (s.beat d answered).die e = s.die e) ∧ SameBut [.dies, .cnt] s (s.beat d answered) ∧
    (s.beat d answered).counter pgBell 2 = s.counter pgBell 2 := by
  unfold State.beat DieSt.heard
  dsimp only
  cases hbell : (s.die d).bell with
  | false => exact ⟨rfl, fun _ _ => rfl, rfl, rfl⟩
  | true =>
    cases answered with
    | true =>
      by_cases hzero : (s.die d).missed = 0
      · rw [if_neg (by simp), if_pos rfl, if_pos hzero]
        exact ⟨by rw [if_pos rfl, if_pos rfl, ← hzero, ← hbell], fun _ _ => rfl, rfl, rfl⟩
      · simp only [Bool.not_true, Bool.false_eq_true, if_false, if_true, hzero]
        exact ⟨setDie_die_same s, fun e he => setDie_die_other s he, by simp [SameBut, among], rfl⟩
    | false =>
      have hlt : (s.die d).missed + 1 < 8 := by
        have := h hbell rfl
        omega
      simp only [Bool.not_true, Bool.false_eq_true, if_false, if_true, hlt]
      refine ⟨?_, fun e he => ?_, by simp [SameBut, among], ?_⟩
      · rw [State.die, count_dies]
        exact setDie_die_same s
      · rw [State.die, count_dies]
        exact setDie_die_other s he
      · exact count_counter_other _ (by
          unfold pgDieHealth pgDie pgBell
          omega)

/-- A round of heartbeats that takes no die out. -/
theorem beats_hear (m : DWord) (l : List Nat) (hl : l.Nodup) (s : State)
    (h : ∀ d ∈ l, (s.die d).bell = true → m.getLsbD d = false → (s.die d).missed < 7) :
    (∀ d ∈ l, (s.forEach l fun t d => t.beat d (m.getLsbD d)).die d = (s.die d).heard (m.getLsbD d)) ∧
    (∀ d, d ∉ l → (s.forEach l fun t d => t.beat d (m.getLsbD d)).die d = s.die d) ∧
    SameBut [.dies, .cnt] s (s.forEach l fun t d => t.beat d (m.getLsbD d)) ∧
    (s.forEach l fun t d => t.beat d (m.getLsbD d)).counter pgBell 2 = s.counter pgBell 2 := by
  induction l generalizing s with
  | nil => exact ⟨fun d hd => absurd hd List.not_mem_nil, fun _ _ => rfl, rfl, rfl⟩
  | cons a r ih =>
    obtain ⟨hown, hother, hsame, hcount⟩ := beat_hears (h a List.mem_cons_self)
    obtain ⟨ha, hr⟩ := List.nodup_cons.mp hl
    obtain ⟨iown, iother, isame, icount⟩ := ih hr (s.beat a (m.getLsbD a)) fun d hd => by
      rw [hother d fun hda => ha (hda ▸ hd)]
      exact h d (List.mem_cons_of_mem _ hd)
    refine ⟨fun d hd => ?_, fun d hd => ?_, isame.trans hsame, icount.trans hcount⟩
    · obtain rfl | hd := List.mem_cons.mp hd
      · exact (iother d ha).trans hown
      · exact (iown d hd).trans (by rw [hother d fun hda => ha (hda ▸ hd)])
    · rw [List.mem_cons, not_or] at hd
      exact (iother d hd.2).trans (hother d hd.1)

/-- A die that is taken out, or was out, is out. -/
theorem takeDieOut_out (s : State) (d : Nat) (cause : BitVec 4) : (s.takeDieOut d cause).dieOut d = true := by
  by_cases hout : s.dieOut d = true
  · have hgone : s.dieGone d cause .faulted = s := by rw [dieGone_eq, if_pos hout]
    have hdie : (s.takeDieOut d cause).die d = s.die d := by
      unfold State.takeDieOut
      dsimp only
      rw [hgone]
      split
      · exact dieGone_die_other _ 5 .faulted (xor_one_ne d)
      · rfl
    rw [State.dieOut, hdie]
    exact hout
  · obtain ⟨-, hservice, -⟩ := takeDieOut_die s cause (by simpa using hout)
    rw [State.dieOut, hservice]
    rfl

theorem dieGone_out (s : State) (d : Nat) (cause : BitVec 4) (st : BlkSt) : (s.dieGone d cause st).dieOut d = true := by
  by_cases hout : s.dieOut d = true
  · rw [dieGone_eq, if_pos hout]
    exact hout
  · have hdies := dieGone_dies s cause st (by simpa using hout)
    obtain ⟨-, hservice, -⟩ := dieLeaves_die s d cause st
    rw [State.dieOut, State.die, hdies]
    exact beq_iff_eq.mpr hservice

/-- Where a die is taken out, another stays as it was or is out. -/
theorem takeDieOut_die_other (s : State) {d e : Nat} (cause : BitVec 4) (h : e ≠ d) :
    (s.takeDieOut d cause).die e = s.die e ∨ (s.takeDieOut d cause).dieOut e = true := by
  have hgone := dieGone_die_other s cause .faulted h
  unfold State.takeDieOut
  dsimp only
  split
  · by_cases hb : e = d ^^^ 1
    · right
      rw [hb]
      exact dieGone_out _ _ _ _
    · left
      exact (dieGone_die_other _ 5 .faulted hb).trans hgone
  · exact .inl hgone

theorem beat_die_other (s : State) {d e : Nat} (answered : Bool) (h : e ≠ d) :
    (s.beat d answered).die e = s.die e ∨ (s.beat d answered).dieOut e = true := by
  have hcount (x : DieSt) : ((s.setDie d x).count (pgDieHealth d) 2).die e = s.die e := by
    rw [State.die, count_dies]
    exact setDie_die_other s h
  unfold State.beat
  dsimp only
  split
  · exact .inl rfl
  · split
    · split
      · exact .inl rfl
      · exact .inl (setDie_die_other s h)
    · split
      · exact .inl (hcount _)
      · have hraise (x : DieSt) : (((s.setDie d x).count (pgDieHealth d) 2).raise (pgDieHealth d) 0x0404).die e = s.die e := by
          rw [State.die, raise_dies]
          exact hcount x
        refine (takeDieOut_die_other _ 1 h).imp_left fun hsame => hsame.trans (hraise _)

theorem beat_takes_out {s : State} {d : Nat} (hbell : (s.die d).bell = true) (hmissed : (s.die d).missed = 7) :
    (s.beat d false).dieOut d = true := by
  unfold State.beat
  dsimp only
  rw [if_neg (by simp [hbell]), if_neg Bool.false_ne_true, if_neg (by omega)]
  exact takeDieOut_out _ _ _

theorem beat_keeps_out {s : State} {d : Nat} (answered : Bool) (h : s.dieOut d = true) :
    (s.beat d answered).dieOut d = true := by
  have hset (n : Nat) : (s.setDie d { s.die d with missed := n }).dieOut d = true := by
    rw [State.dieOut, setDie_die_same]
    exact h
  unfold State.beat
  dsimp only
  split
  · exact h
  · split
    · split
      · exact h
      · exact hset 0
    · split
      · rw [State.dieOut, State.die, count_dies]
        exact hset _
      · exact takeDieOut_out _ _ _

/-- A die whose eighth heartbeat in a row is missed is out at the end of the round. -/
theorem beats_take_out {m : DWord} {d : Nat} (hm : m.getLsbD d = false) (l : List Nat) (s : State) :
    s.dieOut d = true ∨ (d ∈ l ∧ (s.die d).bell = true ∧ (s.die d).missed = 7) →
    (s.forEach l fun t d => t.beat d (m.getLsbD d)).dieOut d = true := by
  induction l generalizing s with
  | nil =>
    rintro (h | ⟨h, -⟩)
    · exact h
    · exact absurd h List.not_mem_nil
  | cons a r ih =>
    intro h
    refine ih (s.beat a (m.getLsbD a)) ?_
    by_cases hda : d = a
    · subst hda
      left
      obtain hout | ⟨-, hbell, hmissed⟩ := h
      · exact beat_keeps_out _ hout
      · rw [hm]
        exact beat_takes_out hbell hmissed
    · obtain hsame | hout := beat_die_other s (m.getLsbD a) hda
      · rw [State.dieOut, hsame]
        exact h.imp_right fun ⟨hmem, hrest⟩ => ⟨(List.mem_cons.mp hmem).resolve_left hda, hrest⟩
      · exact .inl hout

/-! ### The spare under test -/

theorem setSlotState_slotState_other (s : State) {d p r : Nat} (v : SlotSt)
    (h : slotQuarter r ≠ slotQuarter p ∨ slotLocal r ≠ slotLocal p) :
    (s.setSlotState d p v).slotState d r = s.slotState d r := by
  unfold State.slotState State.setSlotState
  dsimp only
  by_cases hq : slotQuarter r = slotQuarter p
  · have hl : slotLocal p ≠ slotLocal r := fun he => (h.resolve_left (not_not.mpr hq)) he.symm
    rw [hq, setQuarter_quarter_same]
    dsimp only
    rw [List.getD_eq_getElem?_getD, List.getD_eq_getElem?_getD, List.getElem?_set_ne hl]
  · rw [setQuarter_quarter_other s _ (by omega)]

theorem setSlotState_slotState_same {s : State} {d p : Nat} (v : SlotSt) (h : s.slotState d p ≠ .faulted) :
    (s.setSlotState d p v).slotState d p = v := by
  have hlen : slotLocal p < (s.quarter d (slotQuarter p)).slots.length := by
    by_contra hlen
    rw [State.slotState, List.getD_eq_getElem?_getD, List.getElem?_eq_none (by omega)] at h
    exact h rfl
  unfold State.slotState State.setSlotState
  dsimp only
  rw [setQuarter_quarter_same]
  dsimp only
  rw [List.getD_eq_getElem?_getD, List.getElem?_set_self hlen]
  rfl

theorem setSlotState_faulted (s : State) (d p : Nat) : (s.setSlotState d p .faulted).slotState d p = .faulted := by
  have hset (l : List SlotSt) (i : Nat) : (l.set i .faulted).getD i .faulted = .faulted := by
    rw [List.getD_eq_getElem?_getD, List.getElem?_set]
    split
    · split <;> rfl
    · next hi => exact absurd rfl hi
  unfold State.slotState State.setSlotState
  dsimp only
  rw [setQuarter_quarter_same]
  exact hset _ _

/-- The next spare under test is another slot of the quarter, and a slot that is no spare keeps its state. -/
theorem nextSpare_slotState {s : State} {d q p : Nat} (hspare : s.spareOf d q ≠ none)
    (hp : s.slotState d p ≠ .spare) :
    SameBut [.quarters] s (s.nextSpare d q) ∧ (s.nextSpare d q).slotState d p = s.slotState d p := by
  have hmap (t : State) (o : Option Nat) : (t.setQuarter d q { t.quarter d q with remapOf := o }).slotState d p = t.slotState d p := by
    unfold State.slotState
    by_cases hq : slotQuarter p = q
    · rw [hq, setQuarter_quarter_same]
    · rw [setQuarter_quarter_other t _ (by omega)]
  unfold State.nextSpare
  split
  · exact ⟨by simp [SameBut, among], hmap s none⟩
  · split
    · next h => exact absurd h hspare
    · next r hr =>
      dsimp only
      have hrstate : s.slotState d r = .spare := by
        have h := List.find?_some hr
        simpa using h
      obtain ⟨i, hi, hri⟩ := List.mem_map.mp (List.mem_of_find?_eq_some hr)
      have hne : slotQuarter p ≠ slotQuarter r ∨ slotLocal p ≠ slotLocal r := by
        by_contra h
        rw [not_or, not_not, not_not] at h
        obtain ⟨hquarter, hlocal⟩ := h
        refine hp ?_
        rw [State.slotState, hquarter, hlocal]
        exact hrstate
      refine ⟨by simp [SameBut, among, State.setSlotState], ?_⟩
      rw [hmap]
      exact setSlotState_slotState_other s .testing hne

theorem repair_slotState (s : State) (kind d u lane e p : Nat) :
    (s.repair kind d u lane).slotState e p = s.slotState e p := by
  rw [State.slotState, quarter_of_mask (mask_repair (by simp) s kind d u lane)]
  rfl

theorem selfTest_fails {s : State} {d : Die} {p : Slot} {l : Nat} (htest : s.slotState d p = .testing)
    (hremap : (s.quarter d (slotQuarter p)).remapOf = some l) (hspare : s.spareOf d (slotQuarter p) ≠ none) :
    Completes (.selfTestDone d p false) s fun t =>
      t.slotState d p = .faulted ∧
      (∃ r ∈ t.keeper.repairs, r.kind = 0 ∧ r.die = d.val ∧ r.unit = p.val) ∧
      t.counter (pgQuarter d (slotQuarter p)) 2 = s.counter (pgQuarter d (slotQuarter p)) 2 + 1 ∧
      t = { s with cnt := t.cnt, quarters := t.quarters, keeper := { s.keeper with repairs := t.keeper.repairs }
                   host := { s.host with changes := t.host.changes } } := by
  obtain ⟨q, hq⟩ : ∃ q, slotQuarter p = q := ⟨_, rfl⟩
  rw [hq] at hremap hspare ⊢
  obtain ⟨r, hr⟩ : ∃ r, (((s.count (pgQuarter d q) 1).count (pgQuarter d q) 2).setSlotState d p .faulted).repair 0 d p 0 = r :=
    ⟨_, rfl⟩
  have hx : execSelfTestDone d p false s = s.ok (r.nextSpare d q) := by
    unfold execSelfTestDone
    dsimp only
    rw [hq, htest, hremap, ← hr]
    rfl
  have hcounted (e r : Nat) : (((s.count (pgQuarter d q) 1).count (pgQuarter d q) 2)).slotState e r = s.slotState e r := rfl
  have hfaulted : r.slotState d p = .faulted := by
    rw [← hr, repair_slotState]
    exact setSlotState_faulted _ d p
  have hrspare : r.spareOf d q ≠ none := by
    have hsame : r.spareOf d q = s.spareOf d q := by
      have hstate (k : Nat) : (r.slotState d k == .spare) = (s.slotState d k == .spare) := by
        by_cases hk : slotQuarter k ≠ slotQuarter p ∨ slotLocal k ≠ slotLocal p
        · rw [← hr, repair_slotState, setSlotState_slotState_other _ _ hk, hcounted]
        · rw [not_or, not_not, not_not] at hk
          obtain ⟨hquarter, hlocal⟩ := hk
          have hkp (t : State) : t.slotState d k = t.slotState d p := by
            rw [State.slotState, State.slotState, hquarter, hlocal]
          rw [hkp, hkp, hfaulted, htest]
          rfl
      unfold State.spareOf
      simp only [hstate]
    rw [hsame]
    exact hspare
  obtain ⟨hframe, hkeeps⟩ := nextSpare_slotState hrspare (p := p) (by rw [hfaulted]; decide)
  have hrframe : SameBut [.cnt, .quarters, .repairs] s r := by
    rw [← hr]
    simp [SameBut, among, State.setSlotState]
  have hlisted : ∃ e ∈ r.keeper.repairs, e.kind = 0 ∧ e.die = d.val ∧ e.unit = p.val := by
    rw [← hr]
    exact repair_lists _ 0 d p 0
  have hrcount : r.counter (pgQuarter d q) 2 = s.counter (pgQuarter d q) 2 + 1 := by
    rw [← hr, counter_of_mask (mask_repair (by simp) _ _ _ _ _)]
    have hset (t : State) : (t.setSlotState d p .faulted).counter (pgQuarter d q) 2 = t.counter (pgQuarter d q) 2 := rfl
    rw [hset, count_counter_same, count_counter_other _ (by omega)]
    rfl
  have hcount : (r.nextSpare d q).counter (pgQuarter d q) 2 = r.counter (pgQuarter d q) 2 := by
    have h := hframe.frame
    generalize r.nextSpare d q = t at h ⊢
    exact (congrArg (fun u : State => u.counter (pgQuarter d q) 2) h :)
  have hrepairs : (r.nextSpare d q).keeper.repairs = r.keeper.repairs := by
    have h := hframe.frame
    generalize r.nextSpare d q = t at h ⊢
    exact (congrArg (fun u : State => u.keeper.repairs) h :)
  have hall : SameBut [.cnt, .quarters, .repairs] s (r.nextSpare d q) := by
    have hwide : SameBut [.cnt, .quarters, .repairs] r (r.nextSpare d q) := by
      have h := hframe.frame
      generalize r.nextSpare d q = t at h ⊢
      rw [h]
      rfl
    exact hwide.trans hrframe
  generalize r.nextSpare d q = u at hx hkeeps hcount hrepairs hall
  have hframe := hall.frame
  refine .of_changes hx fun n => ⟨hkeeps.trans hfaulted, ?_, hcount.trans hrcount, ?_⟩
  · change ∃ e ∈ u.keeper.repairs, _
    rw [hrepairs]
    exact hlisted
  · exact congrArg (fun t : State => { t with host := { t.host with changes := n } }) hframe

/-! ### A host remap commits -/

theorem fieldOf_lt (w : Word) (hi lo : Nat) : fieldOf w hi lo < 2 ^ (hi - lo + 1) :=
  Nat.mod_lt _ (Nat.two_pow_pos _)

/-- The pages that a context staged show its tag. -/
theorem stamped_shows (s : State) (c : Nat) :
    ((s.stamped c).bctx c).st = .committed ∧ (s.stamped c).reg pgBundle 0x05C = (s.bctx c).tag ∧
    (pgSpareMap ∈ (s.bctx c).staged.map (·.page) → (s.stamped c).reg pgSpareMap rBundleTag = (s.bctx c).tag) ∧
    (s.stamped c).quarters = s.quarters := by
  obtain ⟨t, ht⟩ : ∃ t, ((s.bctx c).staged.map (·.page)).eraseDups.foldl (fun t g => t.poke g rBundleTag (s.bctx c).tag) s = t :=
    ⟨_, rfl⟩
  have hpeak (u : State) (n : Nat) (g o : Nat) (h : regKey g o ≠ regKey pgBundle 0x064) :
      (u.peak pgBundle 0x064 n).reg g o = u.reg g o := by
    unfold State.peak
    split
    · exact poke_reg_other u h
    · rfl
  obtain ⟨x, n, hstamp⟩ : ∃ (x : BndCtx) (n : Nat), s.stamped c =
      ((((t.poke pgBundle 0x05C (s.bctx c).tag).count pgBundle 0).peak pgBundle 0x064 n).freeNext).setBctx c
        { x with st := .committed } := by
    refine ⟨{ s.bctx c with staged := [], parts := [], blocks := [], applySent := false, mark := 0, faults := [], reason := 0,
                            wher := 0 }, ((t.poke pgBundle 0x05C (s.bctx c).tag).count pgBundle 0).freeNow.toNat % 2 ^ 32, ?_⟩
    rw [← ht]
    rfl
  have hreg (u : State) (g o : Nat) : (u.freeNext.setBctx c { x with st := .committed }).reg g o = u.reg g o := rfl
  rw [hstamp]
  refine ⟨?_, ?_, fun hmem => ?_, ?_⟩
  · rw [setBctx_bctx_same]
  · rw [hreg, hpeak _ _ _ _ (by decide), count_reg]
    exact poke_reg_same t
  · rw [hreg, hpeak _ _ _ _ (by decide), count_reg, poke_reg_other t (by decide), ← ht]
    refine forEach_all (f := fun t g => t.poke g rBundleTag (s.bctx c).tag)
      (Q := fun t g => t.reg g rBundleTag = (s.bctx c).tag) (fun u g => poke_reg_same u) (fun u g g' h => ?_)
      _ s pgSpareMap (List.mem_eraseDups.mpr hmem)
    by_cases hkey : regKey g' rBundleTag = regKey g rBundleTag
    · obtain rfl : g' = g := by
        unfold regKey at hkey
        omega
      exact poke_reg_same u
    · rw [poke_reg_other u hkey]
      exact h
  · rw [← ht]
    exact quarters_of_mask (mask_setBctx (by simp) _ _ _ |>.trans <| by simp)

/-- A context whose remap can be made commits with it. -/
theorem ctxCommitted_remaps {s : State} {c d l p old : Nat} {v : Word} (hremaps : (s.bctx c).remaps = some v)
    (hd : d = fieldOf v 21 16) (hl : l = fieldOf v 13 8) (hp : p = fieldOf v 6 0) (hlive : s.dieLive d = true)
    (hold : s.slotOf d l = some old) (hstate : s.slotState d p = .spare) (hq : slotQuarter p = l / 16) :
    (s.ctxCommitted c).slotOf d l = some p ∧ (s.ctxCommitted c).slotState d p = .mapped ∧
    ((s.ctxCommitted c).bctx c).st = .committed ∧ (s.ctxCommitted c).reg pgBundle 0x05C = (s.bctx c).tag ∧
    (s.ctxCommitted c).reg pgSpareMap rBundleTag = (s.bctx c).tag := by
  have hl64 : l < 64 := by
    rw [hl]
    exact fieldOf_lt v 13 8
  have hp72 : p < 72 := by
    have : p < 128 := by
      rw [hp]
      exact fieldOf_lt v 6 0
    unfold slotQuarter at hq
    split at hq <;> omega
  obtain ⟨left, hmoved⟩ : ∃ left, s.carriedRemap c = (s.setBctx c { s.bctx c with
      staged := (s.bctx c).staged ++ s.mapWrites d l old p }).moveSlot d l p left := by
    refine ⟨if s.slotState d old == .faulted then .faulted else .spare, ?_⟩
    unfold State.carriedRemap
    rw [hremaps]
    dsimp only
    unfold State.hostRemap
    dsimp only
    rw [← hd, ← hl, ← hp, hold]
    dsimp only
    rw [if_pos (by simp [hlive, hstate, hq])]
  obtain ⟨u, hu⟩ : ∃ u, s.setBctx c { s.bctx c with staged := (s.bctx c).staged ++ s.mapWrites d l old p } = u := ⟨_, rfl⟩
  have huctx : u.bctx c = { s.bctx c with staged := (s.bctx c).staged ++ s.mapWrites d l old p } := by
    rw [← hu]
    exact setBctx_bctx_same s
  have huof : u.slotOf d l = some old := by
    rw [← hu]
    exact hold
  have hustate : u.slotState d p ≠ .faulted := by
    rw [← hu]
    change s.slotState d p ≠ .faulted
    rw [hstate]
    decide
  rw [hu] at hmoved
  obtain ⟨hof, hmapped⟩ := moveSlot_moves huof hp72 hq hustate left
  obtain ⟨fs, hfs⟩ := faultsNoted_moveSlot u d l p left c
  rw [← hmoved] at hof hmapped hfs
  obtain ⟨hst, htag, hmaptag, hquarters⟩ := stamped_shows (s.carriedRemap c) c
  rw [ctxCommitted_eq]
  rw [hfs, huctx] at htag hmaptag
  have hof' : ((s.carriedRemap c).stamped c).slotOf d l = some p := by
    rw [State.slotOf, State.quarter, hquarters]
    exact hof
  have hmapped' : ((s.carriedRemap c).stamped c).slotState d p = .mapped := by
    rw [State.slotState, State.quarter, hquarters]
    exact hmapped
  replace hmaptag := hmaptag (by
    rw [List.map_append]
    exact List.mem_append_right _ List.mem_cons_self)
  generalize (s.carriedRemap c).stamped c = w at hst htag hmaptag hof' hmapped' ⊢
  split
  · have hregs : EngineRegs w w.pathCommitted.repath := by
      have hpath : EngineRegs w w.pathCommitted := .of_mask (by simp)
      exact hpath.trans (engineRegs_repath _)
    have hquarter (e r : Nat) : w.pathCommitted.repath.quarter e r = w.quarter e r := quarter_of_mask (by simp) e r
    have hctx : w.pathCommitted.repath.bctx c = w.bctx c := bctx_of_mask (by simp) c
    rw [State.slotOf, State.slotState, hquarter, hquarter, hctx, hregs _ _ (by decide) (by decide),
      hregs _ _ (by decide) (by decide)]
    exact ⟨hof', hmapped', hst, htag, hmaptag⟩
  · exact ⟨hof', hmapped', hst, htag, hmaptag⟩

theorem remap_commits {s : State} {c d l p old : Nat} {v : Word} (hctx : s.remapCtx = some c)
    (hremaps : (s.bctx c).remaps = some v) (hidle : s.running = false) (hd : d = fieldOf v 21 16)
    (hl : l = fieldOf v 13 8) (hp : p = fieldOf v 6 0) (hlive : s.dieLive d = true)
    (hold : s.slotOf d l = some old) (hstate : s.slotState d p = .spare) (hq : slotQuarter p = l / 16) :
    Completes .remapReq s fun t =>
      t.slotOf d l = some p ∧ t.slotState d p = .mapped ∧ (t.bctx c).st = .committed ∧
      t.reg pgBundle 0x05C = (s.bctx c).tag ∧ t.reg pgSpareMap rBundleTag = (s.bctx c).tag ∧
      t.dies = s.dies ∧ t.ports = s.ports ∧ t.wales = s.wales ∧ t.pwr = s.pwr := by
  have hx : execRemapReq s = s.ok (s.ctxCommitted c) := by
    unfold execRemapReq
    rw [hctx]
    dsimp only
    rw [if_neg (by simp [hidle])]
  obtain ⟨hof, hmapped, hst, htag, hmaptag⟩ := ctxCommitted_remaps hremaps hd hl hp hlive hold hstate hq
  have hsame : SameBut [.free, .regs, .cnt, .errNotes, .mem, .scrub, .quarters, .stalls, .streams, .stores, .rounds,
      .roundsRest, .weights, .bnd, .ledgers, .lastFault] s (s.ctxCommitted c) := by
    simp [SameBut, among]
  have hframe := hsame.frame
  generalize s.ctxCommitted c = u at hx hof hmapped hst htag hmaptag hframe
  exact .of_changes hx fun _ => ⟨hof, hmapped, hst, htag, hmaptag, (congrArg State.dies hframe :),
    (congrArg State.ports hframe :), (congrArg State.wales hframe :), (congrArg State.pwr hframe :)⟩

/-! ### Dies out and back -/

/-- The quarters of a die that left are dark. -/
def DarkDie (d : Nat) (s : State) : Prop :=
  ∀ q, q < 4 → (s.quarter d q).st = .off ∧ (s.quarter d q).cause = 5 ∧ (s.quarter d q).gated = true

theorem DarkDie.of_powered {s t : State} {d : Nat} (h : DarkDie d s) (g : Powered s t) : DarkDie d t := fun q hq => by
  obtain ⟨hst, hcause, hgated⟩ := h q hq
  obtain ⟨gst, gcause, ggated⟩ := g d q
  exact ⟨gst.trans hst, gcause.trans hcause, ggated.trans hgated⟩

theorem quartersOut_dark (s : State) (d : Nat) : DarkDie d (s.quartersOut d) := fun q hq => by
  refine forEach_all (Q := fun t q => (t.quarter d q).st = .off ∧ (t.quarter d q).cause = 5 ∧ (t.quarter d q).gated = true)
    (fun t e => ?_) (fun t e e' h => ?_) (List.range 4) s q (List.mem_range.mpr hq)
  · dsimp only
    rw [setQuarter_quarter_same]
    exact ⟨rfl, rfl, rfl⟩
  · dsimp only
    by_cases hkey : 4 * d + e' = 4 * d + e
    · obtain rfl : e' = e := by omega
      rw [setQuarter_quarter_same]
      exact ⟨rfl, rfl, rfl⟩
    · rw [setQuarter_quarter_other _ _ hkey]
      split
      · exact h
      · exact h

theorem quartersOut_other {s : State} {d e : Nat} (h : e ≠ d) (r : Nat) (hr : r < 4) :
    (s.quartersOut d).quarter e r = s.quarter e r := by
  unfold State.quartersOut
  have hall : ∀ (l : List Nat) (t : State), (∀ q ∈ l, q < 4) → (t.forEach l fun u q =>
      let t := if (u.quarter d q).clock then u.count pgClocks 2 else u
      t.setQuarter d q { t.quarter d q with st := .off, gated := true, cause := 5, rearm := false,
                                            remapOf := none, clock := false,
                                            slots := (t.quarter d q).slots.map fun v => if v == .testing then .spare else v
      }).quarter e r = t.quarter e r := by
    intro l
    induction l with
    | nil => exact fun _ _ => rfl
    | cons a k ih =>
      intro t hl
      refine (ih _ fun q hq => hl q (List.mem_cons_of_mem _ hq)).trans ?_
      have ha := hl a List.mem_cons_self
      dsimp only
      rw [setQuarter_quarter_other _ _ (by omega)]
      split
      · rfl
      · rfl
  exact hall _ s fun q hq => List.mem_range.mp hq

theorem powered_dieLeaves (s : State) (d : Nat) (cause : BitVec 4) (st : BlkSt) : Powered s (s.dieLeaves d cause st) := by
  have hset (t : State) (x : DieSt) : Powered t (t.setDie d x) := .refl t
  exact ((Powered.ite (powered_closeOut s) (.refl s)).trans (powered_ctxDieLost _ d)).trans (hset _ _)

theorem powered_clearedDie (s : State) (d : Nat) : Powered s (s.clearedDie d) := .of_mask (by simp [State.clearedDie])

theorem powered_memberGone (s : State) (d : Nat) : Powered s (s.memberGone d) := .refl s

/-- The quarters of a die that leaves go dark, and those of another stay as they are. -/
theorem dieGone_dark {s : State} {d : Nat} (cause : BitVec 4) (st : BlkSt) (h : s.dieOut d = false) :
    DarkDie d (s.dieGone d cause st) := by
  rw [dieGone_eq, if_neg (by simp [h])]
  exact (quartersOut_dark _ d).of_powered
    (((powered_clearedDie _ d).trans (powered_withoutDie _ d)).trans (powered_memberGone _ d))

theorem dieGone_keeps_dark {s : State} {d e : Nat} (cause : BitVec 4) (st : BlkSt) (h : e ≠ d) (hdark : DarkDie e s) :
    DarkDie e (s.dieGone d cause st) := by
  rw [dieGone_eq]
  split
  · exact hdark
  · have hout : DarkDie e ((s.dieLeaves d cause st).quartersOut d) := fun r hr => by
      rw [quartersOut_other h r hr]
      exact hdark.of_powered (powered_dieLeaves s d cause st) r hr
    exact hout.of_powered (((powered_clearedDie _ d).trans (powered_withoutDie _ d)).trans (powered_memberGone _ d))

theorem clearedDie_port (s : State) (d : Nat) : ((s.clearedDie d).port d).st = .off ∧ ((s.clearedDie d).port d).link = 0 := by
  unfold State.clearedDie
  dsimp only
  rw [setPort_port_same]
  exact ⟨rfl, rfl⟩

theorem memberGone_port (s : State) (d e : Nat) : (s.memberGone d).port e = s.port e := rfl

theorem dieGone_port {s : State} {d : Nat} (cause : BitVec 4) (st : BlkSt) (h : s.dieOut d = false) :
    ((s.dieGone d cause st).port d).st = .off ∧ ((s.dieGone d cause st).port d).link = 0 := by
  have hrest (t : State) : ((t.withoutDie d).memberGone d).port d = t.port d := by
    rw [memberGone_port]
    exact port_of_mask (by simp [State.withoutDie]) d
  rw [dieGone_eq, if_neg (by simp [h]), hrest]
  exact clearedDie_port _ d

theorem dieGone_port_other (s : State) {d e : Nat} (cause : BitVec 4) (st : BlkSt) (h : e ≠ d) :
    (s.dieGone d cause st).port e = s.port e := by
  have hleaves : (s.dieLeaves d cause st).ports = s.ports := ports_of_mask (by simp [State.dieLeaves])
  have hquarters (t : State) : (t.quartersOut d).ports = t.ports := ports_of_mask (by simp [State.quartersOut])
  have hcleared (t : State) : (t.clearedDie d).port e = t.port e := by
    unfold State.clearedDie
    dsimp only
    rw [setPort_port_other _ h]
    exact port_of_mask (by simp) e
  have hrest (t : State) : ((t.withoutDie d).memberGone d).port e = t.port e := by
    rw [memberGone_port]
    exact port_of_mask (by simp [State.withoutDie]) e
  rw [dieGone_eq]
  split
  · rfl
  · rw [hrest, hcleared, State.port, hquarters, hleaves]
    rfl

/-- What a die that is taken out leaves of its quarters and its port. -/
theorem takeDieOut_dark {s : State} {d : Nat} (cause : BitVec 4) (h : s.dieOut d = false) :
    DarkDie d (s.takeDieOut d cause) ∧ ((s.takeDieOut d cause).port d).st = .off ∧
    ((s.takeDieOut d cause).port d).link = 0 := by
  have hdark := dieGone_dark cause .faulted h
  obtain ⟨hst, hlink⟩ := dieGone_port cause .faulted h
  unfold State.takeDieOut
  dsimp only
  split
  · rw [dieGone_port_other _ 5 .faulted (xor_one_ne d)]
    exact ⟨dieGone_keeps_dark 5 .faulted (xor_one_ne d) hdark, hst, hlink⟩
  · exact ⟨hdark, hst, hlink⟩

theorem takeDieOut_bell {s : State} {d : Nat} (cause : BitVec 4) (h : s.dieOut d = false) :
    ((s.takeDieOut d cause).die d).bell = false := by
  have hgone : (s.dieGone d cause .faulted).die d = (s.dieLeaves d cause .faulted).die d := by
    rw [State.die, dieGone_dies s cause .faulted h]
    rfl
  have hbell : ((s.dieLeaves d cause .faulted).die d).bell = false := by
    unfold State.dieLeaves
    dsimp only
    rw [setDie_die_same]
  unfold State.takeDieOut
  dsimp only
  split
  · rw [dieGone_die_other _ 5 .faulted (xor_one_ne d), hgone]
    exact hbell
  · rw [hgone]
    exact hbell

theorem dieOut_set {s : State} {d : Die} (hreq : s.keeper.outReq.getLsbD d = true) (hin : s.dieOut d = false) :
    Completes (.dieOutSet d) s fun t =>
      (t.die d).st = .faulted ∧ (t.die d).service = 2 ∧ (t.die d).cause = 6 ∧ (t.die d).bell = false ∧
      (∀ q, q < 4 → (t.quarter d q).st = .off ∧ (t.quarter d q).cause = 5 ∧ (t.quarter d q).gated = true) ∧
      (t.port d).st = .off ∧ (t.port d).link = 0 := by
  obtain ⟨r, hr⟩ : ∃ r : State, { s with keeper :=
      { s.keeper with outReq := s.keeper.outReq &&& ~~~(BitVec.ofNat 64 (2 ^ d.val)) } } = r := ⟨_, rfl⟩
  have hx : execDieOutSet d s = s.ok (r.takeDieOut d 6) := by
    rw [← hr]
    exact if_neg (by simp [hreq])
  have hrin : r.dieOut d = false := hr ▸ hin
  obtain ⟨hst, hservice, hcause⟩ := takeDieOut_die r 6 hrin
  obtain ⟨hdark, hport, hlink⟩ := takeDieOut_dark 6 hrin
  have hbell := takeDieOut_bell 6 hrin
  generalize r.takeDieOut d 6 = u at hx hst hservice hcause hdark hport hlink hbell
  exact .of_changes hx fun _ => ⟨hst, hservice, hcause, hbell, hdark, hport, hlink⟩

theorem die_readmitted {s : State} {d : Die} (hreq : s.keeper.inReq.getLsbD d = true) (hout : s.dieOut d = true)
    (hst : (s.die d).st ≠ .starting) (hidle : s.running = false) :
    Completes (.dieReadmit d) s fun t =>
      t.die d = { s.die d with st := .starting, stage := 2, err := 0, layers := 0, hash := 0, trained := false
                               readmit := true } ∧
      t.keeper = { s.keeper with inReq := s.keeper.inReq &&& ~~~(BitVec.ofNat 64 (2 ^ d.val))
                                 memberGen := s.keeper.memberGen + 1 } ∧
      t.counter (pgDieCtl d) 0 = s.counter (pgDieCtl d) 0 + 1 ∧
      t = { s with dies := t.dies, cnt := t.cnt, keeper := t.keeper
                   host := { s.host with changes := t.host.changes } } := by
  obtain ⟨r, hr⟩ : ∃ r : State, { s with keeper :=
      { s.keeper with inReq := s.keeper.inReq &&& ~~~(BitVec.ofNat 64 (2 ^ d.val)),
                      memberGen := s.keeper.memberGen + 1 } } = r := ⟨_, rfl⟩
  have hx : execDieReadmit d s = s.ok ((r.bootDie d).setDie d { (r.bootDie d).die d with readmit := true }) := by
    rw [← hr]
    exact (if_neg (by simp [hreq, hidle])).trans (if_neg (by
      change ¬ (!s.dieOut d || (s.die d).st == .starting) = true
      simp [hout, hst]))
  have hdie : (r.bootDie d).die d = { s.die d with st := .starting, stage := 2, err := 0, layers := 0, hash := 0,
                                                   trained := false } := by
    rw [← hr, State.die, State.bootDie, count_dies]
    exact setDie_die_same _
  have hcount : (r.bootDie d).counter (pgDieCtl d) 0 = s.counter (pgDieCtl d) 0 + 1 := by
    rw [← hr]
    exact count_counter_same _
  have hsame : SameBut [.cnt, .dies] r (r.bootDie d) := by simp [SameBut, among]
  generalize r.bootDie d = u at hx hdie hcount hsame
  have hframe := hsame.frame
  refine .of_changes hx fun n => ⟨?_, ?_, hcount, ?_⟩
  · change (u.setDie d { u.die d with readmit := true }).die d = _
    rw [setDie_die_same, hdie]
  · change u.keeper = _
    rw [hframe, ← hr]
    rfl
  · have hall : u = { s with dies := u.dies, cnt := u.cnt, keeper := u.keeper } := by
      rw [hframe, ← hr]
      rfl
    exact congrArg (fun t : State => { t with
      dies := (u.setDie d { u.die d with readmit := true }).dies, host := { t.host with changes := n } }) hall

end Sys2Proof.Machine
end

section

namespace Sys2Proof.Machine

/-- Settles O45: the round of heartbeats by its dies, a remap by the quarter's map, a die that goes by its quarters and
its port. -/
theorem diesGoAndReturn : Obligations.DiesGoAndReturn := by
  unfold Obligations.DiesGoAndReturn
  refine ⟨?_, ?_, fun s d p l htest hremap hspare => selfTest_fails htest hremap hspare, ?_,
    fun s c d l p old v hctx hremaps hidle hd hl hp hlive hold hstate hq =>
      remap_commits hctx hremaps hidle hd hl hp hlive hold hstate hq,
    fun s d hreq hin => dieOut_set hreq hin, fun s d hreq hout hst hidle => die_readmitted hreq hout hst hidle, ?_⟩
  · intro s m hbring hfew
    have hx : execHeartbeat m s = s.ok ((s.count pgBell 2).forEach allDies fun t d => t.beat d (m.getLsbD d)) :=
      if_neg (by omega)
    obtain ⟨hown, -, hsame, hcount⟩ := beats_hear m allDies List.nodup_range (s.count pgBell 2)
      fun d hd hbell hm => hfew d (List.mem_range.mp hd) hbell hm
    have hcounted : (s.count pgBell 2).counter pgBell 2 = s.counter pgBell 2 + 1 := count_counter_same s
    have hall : SameBut [.dies, .cnt] s ((s.count pgBell 2).forEach allDies fun t d => t.beat d (m.getLsbD d)) :=
      hsame.trans (mask_count (by simp [among]) s _ _ _)
    generalize ((s.count pgBell 2).forEach allDies fun t d => t.beat d (m.getLsbD d)) = u at hx hown hcount hall
    have hframe := hall.frame
    exact .of_changes hx fun n => ⟨fun d hd => hown d (List.mem_range.mpr hd), hcount.trans hcounted,
      congrArg (fun t : State => { t with host := { t.host with changes := n } }) hframe⟩
  · intro s m d hbring hbell hm hmissed
    have hx : execHeartbeat m s = s.ok ((s.count pgBell 2).forEach allDies fun t d => t.beat d (m.getLsbD d)) :=
      if_neg (by omega)
    have hout := beats_take_out hm allDies (s.count pgBell 2) (.inr ⟨List.mem_range.mpr d.isLt, hbell, hmissed⟩)
    generalize ((s.count pgBell 2).forEach allDies fun t d => t.beat d (m.getLsbD d)) = u at hx hout
    exact .of_changes hx fun _ => hout
  · intro s d p l old htest hremap hold hfault hunit hreplay
    have hx : execSelfTestDone d p true s =
        s.ok (((s.count (pgQuarter d (slotQuarter p)) 1).remap d l p .faulted).nextSpare d (slotQuarter p)) := by
      unfold execSelfTestDone
      dsimp only
      rw [htest, hremap]
      dsimp only
      rw [hold]
      dsimp only
      rw [if_neg (by simp), if_neg (by simp [hfault]), if_neg (by simp [hunit, hreplay])]
    exact .of_ok hx
  · intro s p hreq
    have hx : execPortMoveClear p s = s.ok { s with keeper := { s.keeper with
        moveReq := s.keeper.moveReq &&& ~~~(BitVec.ofNat 64 (2 ^ p.val)) } } := if_neg (by simp [hreq])
    exact .of_ok hx

end Sys2Proof.Machine
end


section

/-! SUPPORT. O36: baskets, levels and the engine stage. -/

namespace Sys2Proof.Machine

theorem setLevel_level_other (s : State) {d k j : Nat} (x : Level) (h : j ≠ k) : (s.setLevel d k x).level d j = s.level d j :=
  SMap.get_set_other _ _ _ (by omega)

theorem setDieBasket_dieBasket_other (s : State) {d e b : Nat} (x : DieBasket) (h : e ≠ d) :
    (s.setDieBasket d b x).dieBasket e b = s.dieBasket e b :=
  SMap.get_set_other _ _ _ (by omega)

theorem ledIssue_ledger_same (s : State) (d cls i n : Nat) : (s.ledIssue d cls i n).ledger d cls i =
    { s.ledger d cls i with issued := (s.ledger d cls i).issued + BitVec.ofNat 64 n,
                            held := (s.ledger d cls i).held + BitVec.ofNat 64 n } := setLedger_ledger_same s

theorem ledReturn_ledger_same (s : State) (d cls i n : Nat) : (s.ledReturn d cls i n).ledger d cls i =
    { s.ledger d cls i with returned := (s.ledger d cls i).returned + BitVec.ofNat 64 n,
                            held := (s.ledger d cls i).held - BitVec.ofNat 64 n } := setLedger_ledger_same s

/-! ### READY and the decision -/

theorem die_ready {s : State} {d : Die} {b : Fin 128} (hmay : s.collectMay d = true) (hready : s.dieIsReady d b = true)
    (hlocal : s.bkDest b ≠ 0 ∨ s.bkLocal b = 0) :
    Completes (.dieReady d b) s fun t =>
      (t.dieBasket d b).st = .ready ∧ (t.dieBasket d b).weight = (s.reg (pgCollect d) 0x040).toNat ∧
      (t.dieBasket d b).sum = (s.dieBasket d b).sum ∧ t.out = s.out ++ [.bell d (1024 + b)] ∧
      (t.ledger 0 lgBell d).held = (s.ledger 0 lgBell d).held + 1 ∧ t.mem = s.mem := by
  have hhold : (!(s.bkDest b == 0 && decide (0 < s.bkLocal b))) = true := by
    obtain h | h := hlocal
    · simp [h]
    · simp [h]
  have hx : execDieReady d b s = s.ok (((s.setDieBasket d b { s.dieBasket d b with
      st := .ready, weight := (s.reg (pgCollect d) 0x040).toNat }).ledIssue 0 lgBell d).emit (.bell d (1024 + b))) :=
    (if_pos (by simp [hmay, hready])).trans (congrArg s.ok (if_pos hhold))
  obtain ⟨a, ha⟩ : ∃ a, s.setDieBasket d b { s.dieBasket d b with
      st := .ready, weight := (s.reg (pgCollect d) 0x040).toNat } = a := ⟨_, rfl⟩
  have hbasket : a.dieBasket d b = { s.dieBasket d b with
      st := .ready, weight := (s.reg (pgCollect d) 0x040).toNat } := ha ▸ setDieBasket_dieBasket_same s
  have hout : a.out = s.out := ha ▸ rfl
  have hmem : a.mem = s.mem := ha ▸ rfl
  have hledger : a.ledger 0 lgBell d = s.ledger 0 lgBell d := ha ▸ rfl
  rw [ha] at hx
  have hheld := congrArg Ledger.held (ledIssue_ledger_same a 0 lgBell d 1)
  refine .of_changes hx fun _ => ?_
  change (a.dieBasket d b).st = _ ∧ (a.dieBasket d b).weight = _ ∧ (a.dieBasket d b).sum = _ ∧ a.out ++ _ = _ ∧
    ((a.ledIssue 0 lgBell d).ledger 0 lgBell d).held = _ ∧ a.mem = _
  rw [hbasket, hout, hmem, hheld, hledger]
  exact ⟨rfl, rfl, rfl, rfl, rfl, rfl⟩

theorem ready_stamped {s : State} {d : Die} {b : Fin 128} {n : Nat} (hcoming : s.readyComing d b = true)
    (hheld : s.held pgReduce = false) (hopen : (s.basket b).decided = false)
    (hsoon : s.reg pgReduce 0x04C = 0 ∨ n < (s.reg pgReduce 0x04C).toNat) :
    Completes (.readyStamp d b n) s fun t =>
      (t.basket b).arrived = (s.basket b).arrived ++ [(d.val, if (s.basket b).arrived.isEmpty then 0 else n)] ∧
      (t.basket b).decided = s.stepDies.all (fun k => (t.basket b).arrived.any (·.1 == k)) ∧
      (t.ledger 0 lgBell d).returned = (s.ledger 0 lgBell d).returned + 1 ∧ t.mem = s.mem := by
  obtain ⟨r, hr⟩ : ∃ r, s.ledReturn 0 lgBell d = r := ⟨_, rfl⟩
  have hbasket : r.basket b = s.basket b := hr ▸ rfl
  have hsteps : r.stepDies = s.stepDies := hr ▸ rfl
  have hreg : r.reg pgReduce 0x04C = s.reg pgReduce 0x04C := hr ▸ rfl
  have hmem : r.mem = s.mem := hr ▸ rfl
  have hreturned : (r.ledger 0 lgBell d).returned = (s.ledger 0 lgBell d).returned + 1 := by
    rw [← hr, ledReturn_ledger_same]
    rfl
  have hnotlate : ¬ ((!(r.basket b).decided && (r.basket b).window && decide (0 < (s.reg pgReduce 0x04C).toNat) &&
      decide ((s.reg pgReduce 0x04C).toNat ≤ n)) = true) := by
    obtain h | h := hsoon
    · simp [h]
    · have : ¬ (s.reg pgReduce 0x04C).toNat ≤ n := by omega
      simp [this]
  obtain ⟨x, hx0, harrived, hdecided⟩ : ∃ x : EngBasket, x = { r.basket b with
        arrived := (r.basket b).arrived ++ [(d.val, if (r.basket b).arrived.isEmpty then 0 else n)],
        window := (r.basket b).window || ((r.basket b).arrived.isEmpty && decide (0 < (s.reg pgReduce 0x04C).toNat)) } ∧
      x.arrived = (s.basket b).arrived ++ [(d.val, if (s.basket b).arrived.isEmpty then 0 else n)] ∧
      x.decided = false :=
    ⟨_, rfl, by rw [hbasket], by rw [← hopen, ← hbasket]⟩
  have hx : execReadyStamp d b n s = s.ok (if (r.setBasket b x).stepDies.all fun k =>
      ((r.setBasket b x).basket b).arrived.any (·.1 == k) then (r.setBasket b x).decideBasket b false
      else r.setBasket b x) := by
    refine (if_pos (by simp [hcoming, hheld])).trans (congrArg s.ok ?_)
    unfold State.readyStamp
    dsimp only
    rw [hr, if_neg hnotlate, if_neg (by rw [hbasket, hopen]; decide), ← hx0]
  have hset : (r.setBasket b x).basket b = x := setBasket_basket_same r
  have hsteps' : (r.setBasket b x).stepDies = s.stepDies := hsteps
  rw [hset, hsteps'] at hx
  have hdecide : (((r.setBasket b x).decideBasket b false).basket b).arrived = x.arrived ∧
      (((r.setBasket b x).decideBasket b false).basket b).decided = true := by
    have hcount (t : State) : (t.count pgReduce 0).basket b = t.basket b := rfl
    unfold State.decideBasket
    dsimp only
    rw [hcount, setBasket_basket_same, hset]
    exact ⟨rfl, rfl⟩
  by_cases hall : (s.stepDies.all fun k => x.arrived.any (·.1 == k)) = true
  · rw [if_pos hall] at hx
    obtain ⟨u, hu⟩ : ∃ u, (r.setBasket b x).decideBasket b false = u := ⟨_, rfl⟩
    have hledger : (u.ledger 0 lgBell d).returned = (r.ledger 0 lgBell d).returned := hu ▸ rfl
    have humem : u.mem = r.mem := hu ▸ rfl
    rw [hu] at hx hdecide
    refine .of_changes hx fun _ => ?_
    change (u.basket b).arrived = _ ∧ (u.basket b).decided = (s.stepDies.all fun k => (u.basket b).arrived.any (·.1 == k)) ∧
      (u.ledger 0 lgBell d).returned = _ ∧ u.mem = _
    rw [hdecide.1, hdecide.2, hall, hledger, humem]
    exact ⟨harrived, rfl, hreturned, hmem⟩
  · rw [if_neg hall] at hx
    refine .of_changes hx fun _ => ?_
    change ((r.setBasket b x).basket b).arrived = _ ∧ ((r.setBasket b x).basket b).decided =
      (s.stepDies.all fun k => ((r.setBasket b x).basket b).arrived.any (·.1 == k)) ∧
      (r.ledger 0 lgBell d).returned = _ ∧ r.mem = _
    rw [hset, hdecided]
    exact ⟨harrived, (Bool.eq_false_iff.mpr hall).symm, hreturned, hmem⟩

theorem deadline_decides {s : State} {b : Fin 128} (hwindow : (s.basket b).window = true)
    (hopen : (s.basket b).decided = false) (hheld : s.held pgReduce = false) :
    Completes (.deadlineExpiry b) s fun t =>
      (t.basket b).decided = true ∧ (t.basket b).window = false ∧ (t.basket b).byDead = true ∧
      (t.basket b).included = maskOf (((s.basket b).arrived.map (·.1)).filter fun d => s.inStep d) ∧
      t.counter pgReduce 0 = s.counter pgReduce 0 + 1 ∧
      t = { s with cnt := t.cnt, red := { s.red with eng := t.red.eng }
                   host := { s.host with changes := t.host.changes } } := by
  have hx : execDeadlineExpiry b s = s.ok (s.decideBasket b true) := if_pos (by simp [hwindow, hopen, hheld])
  obtain ⟨x, hu, hdecided, hclosed, hdead, hincluded⟩ : ∃ x : EngBasket, s.decideBasket b true = (s.setBasket b x).count pgReduce 0 ∧
      x.decided = true ∧ x.window = false ∧ x.byDead = true ∧
      x.included = maskOf (((s.basket b).arrived.map (·.1)).filter fun d => s.inStep d) :=
    ⟨_, rfl, rfl, rfl, rfl, rfl⟩
  rw [hu] at hx
  have hset : ((s.setBasket b x).count pgReduce 0).basket b = x := setBasket_basket_same s
  have hcount : ((s.setBasket b x).count pgReduce 0).counter pgReduce 0 = s.counter pgReduce 0 + 1 :=
    count_counter_same _
  refine .of_changes hx fun n => ?_
  change (((s.setBasket b x).count pgReduce 0).basket b).decided = _ ∧ (((s.setBasket b x).count pgReduce 0).basket b).window = _ ∧
    (((s.setBasket b x).count pgReduce 0).basket b).byDead = _ ∧ (((s.setBasket b x).count pgReduce 0).basket b).included = _ ∧
    ((s.setBasket b x).count pgReduce 0).counter pgReduce 0 = _ ∧ _
  rw [hset]
  exact ⟨hdecided, hclosed, hdead, hincluded, hcount, rfl⟩

/-- The record of a basket whose decision a die has received. -/
def EngBasket.receivedBy (e : EngBasket) (d : Nat) : EngBasket := { e with received := d :: e.received, binned := d :: e.binned }

/-- A die notes a decision in its registers and in the basket's record. -/
def State.decisionNoted (s : State) (d b : Nat) : State :=
  let e := s.basket b
  let ds := bitsOf e.included
  let last := ((e.arrived.filter fun a => ds.contains a.1).getLast?.map (·.1)).getD 0
  let s2 := (s.setBasket b (e.receivedBy d)).poke (pgCollect d) 0x050 (BitVec.ofNat 32
    ((if e.byDead then 2 ^ 31 else 0) + ds.length * 65536 + b * 256 + last))
  if e.binned.contains d then s2 else
    match e.arrived.find? (·.1 == d) with
    | some a => s2.lateHist d (lateBin (s.reg pgReduce 0x04C).toNat a.2)
    | none => s2

/-- An included die starts on the engine stage. -/
def DieBasket.reduces (x : DieBasket) : DieBasket := { x with st := .reducing, engStart := 0, engDone := 0, heldSat := [] }

theorem receiveIncluded_eq (s : State) (d b : Nat) : s.receiveIncluded d b =
    if (bitsOf (s.basket b).included).contains d then
      let s4 := (s.decisionNoted d b).setDieBasket d b ((s.decisionNoted d b).dieBasket d b).reduces
      if s.bkDest b == 0 && decide (0 < s.bkLocal b) then s4.zeroRegion d b else s4
    else s.decisionNoted d b := by
  unfold State.receiveIncluded State.decisionNoted EngBasket.receivedBy DieBasket.reduces
  dsimp only <;> rfl

theorem decisionNoted_red (s : State) (d b : Nat) :
    (s.decisionNoted d b).red = (s.setBasket b ((s.basket b).receivedBy d)).red := by
  unfold State.decisionNoted
  dsimp only
  split
  · rfl
  · split
    · exact red_of_mask (mask_lateHist (by simp) _ _ _)
    · rfl

/-- A decision is received: the record of it, and the die's part in the basket. -/
theorem receiveIncluded_receives (s : State) (d b : Nat) :
    ((s.receiveIncluded d b).basket b).received = d :: (s.basket b).received ∧
    ((s.receiveIncluded d b).basket b).included = (s.basket b).included ∧
    ((bitsOf (s.basket b).included).contains d = true → ((s.receiveIncluded d b).dieBasket d b).st = .reducing ∧
      ((s.receiveIncluded d b).dieBasket d b).engStart = 0 ∧ ((s.receiveIncluded d b).dieBasket d b).engDone = 0) ∧
    ((bitsOf (s.basket b).included).contains d = false → (s.receiveIncluded d b).dieBasket d b = s.dieBasket d b) := by
  have hred := decisionNoted_red s d b
  have heq := receiveIncluded_eq s d b
  generalize s.decisionNoted d b = r at hred heq
  have hbasket : r.basket b = (s.basket b).receivedBy d := by
    rw [State.basket, hred]
    exact setBasket_basket_same s
  by_cases hin : (bitsOf (s.basket b).included).contains d = true
  · rw [if_pos hin] at heq
    have hzero (t : State) : (t.zeroRegion d b).red = t.red := red_of_mask (by simp)
    have hx : (s.receiveIncluded d b).red = (r.setDieBasket d b (r.dieBasket d b).reduces).red := by
      rw [heq]
      dsimp only
      split
      · exact hzero _
      · rfl
    have hb : (s.receiveIncluded d b).basket b = (s.basket b).receivedBy d := by
      rw [State.basket, hx]
      exact hbasket
    have hd : (s.receiveIncluded d b).dieBasket d b = (r.dieBasket d b).reduces := by
      rw [State.dieBasket, hx]
      exact setDieBasket_dieBasket_same r
    rw [hb, hd]
    exact ⟨rfl, rfl, fun _ => ⟨rfl, rfl, rfl⟩, fun h => absurd (hin.symm.trans h) (by decide)⟩
  · have hdie : r.dieBasket d b = s.dieBasket d b := by
      rw [State.dieBasket, hred]
      rfl
    rw [if_neg hin] at heq
    rw [heq, hbasket, hdie]
    exact ⟨rfl, rfl, fun h => absurd h hin, fun _ => rfl⟩

theorem decision_received {s : State} {d : Die} {b : Fin 128} (hdecided : (s.basket b).decided = true)
    (hnew : (s.basket b).received.contains d.val = false) (hmay : s.collectMay d = true) :
    Completes (.includedReceive d b) s fun t =>
      (t.basket b).received = d.val :: (s.basket b).received ∧
      (t.basket b).included = (s.basket b).included ∧
      ((bitsOf (s.basket b).included).contains d.val = true →
        (t.dieBasket d b).st = .reducing ∧ (t.dieBasket d b).engStart = 0 ∧ (t.dieBasket d b).engDone = 0) ∧
      ((bitsOf (s.basket b).included).contains d.val = false → t.dieBasket d b = s.dieBasket d b) := by
  have hx : execIncludedReceive d b s = s.ok (s.receiveIncluded d b) := if_pos (by simp [hdecided, hmay, hnew, -List.contains_eq_mem])
  obtain ⟨hrecv, hincl, hpart, hout⟩ := receiveIncluded_receives s d b
  generalize s.receiveIncluded d b = u at hx hrecv hincl hpart hout
  exact .of_changes hx fun _ => ⟨hrecv, hincl, hpart, hout⟩

/-! ### The levels -/

theorem startChunk_starts (s : State) (d k b : Nat) (c : Nat × Nat) :
    ((s.startChunk d k b c).level d k).busy = some c ∧
    ((s.startChunk d k b c).level d k).chunks = (s.level d k).chunks.erase c ∧
    ((s.startChunk d k b c).level d k).credits = (if k < 5 then (s.level d k).credits - 1 else (s.level d k).credits) ∧
    (s.startChunk d k b c).ledgers = s.ledgers ∧ (s.startChunk d k b c).mem = s.mem := by
  have htake : (s.levelTake d k c).level d k = { s.level d k with
      chunks := (s.level d k).chunks.erase c, busy := some c,
      credits := if k < 5 then (s.level d k).credits - 1 else (s.level d k).credits } := setLevel_level_same s
  have hledgers : (s.levelTake d k c).ledgers = s.ledgers := rfl
  have hmem : (s.levelTake d k c).mem = s.mem := rfl
  have hsend (t : State) : (t.sendChunk d b).level d k = t.level d k ∧ (t.sendChunk d b).ledgers = t.ledgers ∧
      (t.sendChunk d b).mem = t.mem := by
    unfold State.sendChunk
    dsimp only
    split
    · exact ⟨rfl, rfl, rfl⟩
    · exact ⟨rfl, rfl, rfl⟩
  obtain ⟨hlevel, hled, hm⟩ : (s.startChunk d k b c).level d k = (s.levelTake d k c).level d k ∧
      (s.startChunk d k b c).ledgers = (s.levelTake d k c).ledgers ∧ (s.startChunk d k b c).mem = (s.levelTake d k c).mem := by
    unfold State.startChunk
    dsimp only
    split
    · exact ⟨rfl, rfl, rfl⟩
    · exact hsend _
    · exact ⟨rfl, rfl, rfl⟩
  rw [hlevel, htake, hled, hm]
  exact ⟨rfl, rfl, rfl, hledgers, hmem⟩

theorem level_starts {s : State} {d : Die} {k : Fin 6} {b : Fin 128} {c : Nat × Nat} (hmay : s.collectMay d = true)
    (hchunk : s.levelChunk d k b = some c) (hserve : (s.meshServe d 2 (s.chunkBytes c.1 c.2)).2 = true) :
    Completes (.chunkLevelStart d k b) s fun t =>
      (t.level d k).busy = some c ∧ (t.level d k).chunks = (s.level d k).chunks.erase c ∧
      (t.level d k).credits = (if k.val < 5 then (s.level d k).credits - 1 else (s.level d k).credits) ∧
      t.ledgers = s.ledgers ∧ t.mem = s.mem := by
  obtain ⟨m, hm⟩ : ∃ m, (s.meshServe d 2 (s.chunkBytes c.1 c.2)).1 = m := ⟨_, rfl⟩
  have hx : execChunkLevelStart d k b s = s.ok (m.startChunk d k b c) := by
    unfold execChunkLevelStart
    rw [if_neg (by simp [hmay]), hchunk]
    dsimp only
    rw [if_pos hserve, hm]
  have hsame : SameBut [.free, .stores] s m := by
    rw [← hm]
    simp [SameBut, among]
  have hlevel : m.level d k = s.level d k := (congrArg (fun t : State => t.level d k) hsame.frame :)
  have hledgers : m.ledgers = s.ledgers := (congrArg State.ledgers hsame.frame :)
  have hmem : m.mem = s.mem := (congrArg State.mem hsame.frame :)
  obtain ⟨hbusy, hchunks, hcredits, hled, hkeep⟩ := startChunk_starts m d k b c
  rw [hlevel] at hchunks hcredits
  generalize m.startChunk d k b c = u at hx hbusy hchunks hcredits hled hkeep
  exact .of_changes hx fun _ => ⟨hbusy, hchunks, hcredits, hled.trans hledgers, hkeep.trans hmem⟩

/-- A credit goes to one level alone, and leaves what it works on. -/
theorem pipeCredit_level (s : State) (d k j : Nat) :
    ((s.pipeCredit d k).level d j).busy = (s.level d j).busy ∧ ((s.pipeCredit d k).level d j).chunks = (s.level d j).chunks := by
  have hled (t : State) : (t.ledIssue d lgPipe k).level d j = t.level d j := rfl
  unfold State.pipeCredit
  dsimp only
  rw [hled]
  by_cases h : j = k
  · subst h
    rw [setLevel_level_same]
    exact ⟨rfl, rfl⟩
  · rw [setLevel_level_other s _ h]
    exact ⟨rfl, rfl⟩

theorem levelBusy_keeps (s : State) (d k j : Nat) :
    ((s.levelBusy d k).level d j).chunks = (s.level d j).chunks ∧ (s.levelBusy d k).red.die = s.red.die ∧
    SameBut [.free, .regs, .red] s (s.levelBusy d k) := by
  refine ⟨?_, ?_, by simp [SameBut, among]⟩
  · unfold State.levelBusy
    dsimp only
    split
    · rfl
    · have hnext (t : State) : (t.freeNext).level d j = t.level d j := rfl
      rw [hnext]
      by_cases h : j = k
      · subst h
        rw [setLevel_level_same]
      · rw [setLevel_level_other _ _ h]
        rfl
  · unfold State.levelBusy
    dsimp only
    split
    · rfl
    · rfl

theorem sumChunk_level (s : State) (d b c : Nat) : (s.sumChunk d b c).red.level = s.red.level := by
  have hunstage (t : State) (l : List StageTile) : (l.foldl (fun t e => t.unstage d b e) t).red.level = t.red.level :=
    forEach_keeps (fun t => t.red.level) (fun t e => congrArg (·.level) (red_of_mask (mask_unstage (by simp) t d b e))) l t
  have hinc (t : State) (n : Nat) : (t.incSat (pgCollect d) 0x05C n).red.level = t.red.level := rfl
  unfold State.sumChunk
  dsimp only
  split
  · rfl
  · split
    · exact hunstage _ _
    · rw [hinc]
      exact hunstage _ _

/-- The end of a chunk frees its level and hands the chunk on. -/
theorem endLevel_ends (s : State) (d k : Nat) (c : Nat × Nat) :
    ((s.endLevel d k c).level d k).busy = none ∧
    (k = 0 → ((s.endLevel d k c).level d 1).chunks = (s.level d 1).chunks ++ [c] ∧
      ((s.endLevel d k c).ledger d lgPipe 0).returned = (s.ledger d lgPipe 0).returned + 1) ∧
    (k = 1 → ((s.endLevel d k c).level d 2).chunks = (s.level d 2).chunks ++ [c]) ∧
    (k = 2 → ((s.endLevel d k c).level d 3).chunks = (s.level d 3).chunks ++ [c]) ∧
    (k = 4 → ((s.endLevel d k c).dieBasket d c.1).engDone = (s.dieBasket d c.1).engDone + 1) ∧
    (k = 5 → (s.endLevel d k c).counter pgReduce 2 = s.counter pgReduce 2 + 1) ∧ (s.endLevel d k c).mem = s.mem := by
  obtain ⟨a, ha⟩ : ∃ a, s.setLevel d k { s.level d k with busy := none } = a := ⟨_, rfl⟩
  have hend : s.endLevel d k c = a.levelDone d k c := ha ▸ rfl
  have hmem : (s.endLevel d k c).mem = s.mem := mem_of_mask (by simp)
  have hfree : (a.level d k).busy = none := by
    rw [← ha, setLevel_level_same]
  have hother {j : Nat} (h : j ≠ k) : a.level d j = s.level d j := by
    rw [← ha]
    exact setLevel_level_other s _ h
  have hledger : a.ledger d lgPipe 0 = s.ledger d lgPipe 0 := ha ▸ rfl
  have hdie : a.dieBasket d c.1 = s.dieBasket d c.1 := ha ▸ rfl
  have hcounter : a.counter pgReduce 2 = s.counter pgReduce 2 := ha ▸ rfl
  have harrives (t : State) (i j : Nat) : (t.chunkArrives d i).level d j = t.level d j := rfl
  rw [hmem, hend]
  match k with
  | 0 =>
    refine ⟨?_, fun _ => ⟨?_, ?_⟩, nofun, nofun, nofun, nofun, rfl⟩
    · exact (congrArg Level.busy (setLevel_level_other (a.chunkArrives d 0) _ (by decide))).trans hfree
    · refine (congrArg Level.chunks (setLevel_level_same (a.chunkArrives d 0))).trans ?_
      rw [hother (by decide)]
    · refine (congrArg Ledger.returned (ledReturn_ledger_same a d lgPipe 0 1)).trans ?_
      rw [hledger]
      rfl
  | 1 =>
    refine ⟨?_, nofun, fun _ => ?_, nofun, nofun, nofun, rfl⟩
    · exact ((pipeCredit_level _ d 0 1).1.trans
        (congrArg Level.busy (setLevel_level_other (a.chunkArrives d 1) _ (by decide)))).trans hfree
    · refine ((pipeCredit_level _ d 0 2).2.trans (congrArg Level.chunks (setLevel_level_same (a.chunkArrives d 1)))).trans ?_
      rw [hother (by decide)]
  | 2 =>
    refine ⟨?_, nofun, nofun, fun _ => ?_, nofun, nofun, rfl⟩
    · exact ((pipeCredit_level _ d 1 2).1.trans
        (congrArg Level.busy (setLevel_level_other (a.chunkArrives d 2) _ (by decide)))).trans hfree
    · refine ((pipeCredit_level _ d 1 3).2.trans (congrArg Level.chunks (setLevel_level_same (a.chunkArrives d 2)))).trans ?_
      rw [hother (by decide)]
  | 3 =>
    refine ⟨?_, nofun, nofun, nofun, nofun, nofun, rfl⟩
    have hsum : ((a.sumChunk d c.1 c.2).chunkArrives d 3).level d 3 = a.level d 3 := by
      have h := sumChunk_level a d c.1 c.2
      rw [harrives, State.level, h]
      rfl
    exact (pipeCredit_level _ d 2 3).1.trans ((pipeCredit_level _ d 3 3).1.trans ((congrArg Level.busy hsum).trans hfree))
  | 4 =>
    have hfour : a.levelDone d 4 c = ((a.setDieBasket d c.1 { a.dieBasket d c.1 with
        engDone := (a.dieBasket d c.1).engDone + 1 }).chunkArrives d 4).pipeCredit d 4 := rfl
    rw [hfour]
    refine ⟨?_, nofun, nofun, nofun, fun _ => ?_, nofun, rfl⟩
    · rw [(pipeCredit_level _ d 4 4).1, harrives]
      exact hfree
    · have hcredit (t : State) : (t.pipeCredit d 4).dieBasket d c.1 = t.dieBasket d c.1 := rfl
      have hreturn (t : State) : (t.chunkArrives d 4).dieBasket d c.1 = t.dieBasket d c.1 := rfl
      rw [hcredit, hreturn, setDieBasket_dieBasket_same, hdie]
  | n + 5 =>
    refine ⟨hfree, nofun, nofun, nofun, fun h => absurd h (by omega), fun _ => ?_, rfl⟩
    refine (count_counter_same a).trans ?_
    rw [hcounter]
    rfl

theorem level_ends {s : State} {d : Die} {k : Fin 6} {b : Fin 128} {c : Nat × Nat} (hbusy : (s.level d k).busy = some c)
    (hb : c.1 = b.val) (hlive : s.dieLive d = true) :
    Completes (.chunkLevelDone d k b) s fun t =>
      (t.level d k).busy = none ∧
      (k.val = 0 → (t.level d 1).chunks = (s.level d 1).chunks ++ [c] ∧
        (t.ledger d lgPipe 0).returned = (s.ledger d lgPipe 0).returned + 1) ∧
      (k.val = 1 → (t.level d 2).chunks = (s.level d 2).chunks ++ [c]) ∧
      (k.val = 2 → (t.level d 3).chunks = (s.level d 3).chunks ++ [c]) ∧
      (k.val = 4 → (t.dieBasket d c.1).engDone = (s.dieBasket d c.1).engDone + 1) ∧
      (k.val = 5 → t.counter pgReduce 2 = s.counter pgReduce 2 + 1) ∧ t.mem = s.mem := by
  obtain ⟨r, hr⟩ : ∃ r, s.levelBusy d k = r := ⟨_, rfl⟩
  have hx : execChunkLevelDone d k b s = s.ok (r.endLevel d k c) := by
    unfold execChunkLevelDone
    dsimp only
    rw [hbusy]
    dsimp only
    rw [if_pos (by simp [hb, hlive]), hr]
  have hchunks (j : Nat) : (r.level d j).chunks = (s.level d j).chunks := hr ▸ (levelBusy_keeps s d k j).1
  obtain ⟨-, hdies, hsame⟩ := levelBusy_keeps s d k 0
  rw [hr] at hdies hsame
  have hledgers : r.ledgers = s.ledgers := (congrArg State.ledgers hsame.frame :)
  have hcnt : r.cnt = s.cnt := (congrArg State.cnt hsame.frame :)
  have hmem : r.mem = s.mem := (congrArg State.mem hsame.frame :)
  obtain ⟨hfree, h0, h1, h2, h4, h5, hkeep⟩ := endLevel_ends r d k c
  rw [hchunks, State.ledger, State.ledger, hledgers] at h0
  rw [hchunks] at h1 h2
  rw [State.dieBasket, State.dieBasket, hdies] at h4
  rw [State.counter, State.counter, hcnt] at h5
  generalize r.endLevel d k c = u at hx hfree h0 h1 h2 h4 h5 hkeep
  exact .of_changes hx fun _ => ⟨hfree, h0, h1, h2, h4, h5, hkeep.trans hmem⟩

/-! ### The engine stage -/

/-- Where a die drops its sum, it has none; the other dies keep theirs. -/
theorem dropSum_dieBasket (s : State) (d b : Nat) :
    ((s.dropSum d b).dieBasket d b).sum = [] ∧ ∀ e, e ≠ d → (s.dropSum d b).dieBasket e b = s.dieBasket e b := by
  have hfree (l : List (Nat × Nat × List Nat)) (t : State) : (l.foldl (fun t e => t.freeUnits d e.2.1 e.2.2) t).red = t.red :=
    forEach_keeps State.red (fun t e => red_of_mask (mask_freeUnits (by simp) t d _ _)) l t
  unfold State.dropSum
  dsimp only
  refine ⟨?_, fun e he => ?_⟩
  · rw [setDieBasket_dieBasket_same]
  · rw [setDieBasket_dieBasket_other _ _ he, State.dieBasket, hfree]
    rfl

theorem stageOver_ends (s : State) (b : Nat) : ∀ d ∈ bitsOf (s.basket b).included,
    ((s.stageOver b).dieBasket d b).st = .done ∧ ((s.stageOver b).dieBasket d b).sum = [] := by
  refine forEach_all (Q := fun (t : State) d => (t.dieBasket d b).st = .done ∧ (t.dieBasket d b).sum = [])
    (fun t d => ?_) (fun t d e h => ?_) _ s
  · obtain ⟨hsum, -⟩ := dropSum_dieBasket t d b
    dsimp only
    rw [setDieBasket_dieBasket_same]
    exact ⟨rfl, hsum⟩
  · dsimp only
    obtain ⟨hsum, hother⟩ := dropSum_dieBasket t d b
    by_cases he : e = d
    · subst he
      rw [setDieBasket_dieBasket_same]
      exact ⟨rfl, hsum⟩
    · rw [setDieBasket_dieBasket_other _ _ he, hother e he]
      exact h

theorem stageBytes_red (s : State) (d b : Nat) (tree : Bool) (rs : List Nat) : (s.stageBytes d b tree rs).2.red = s.red := by
  unfold State.stageBytes
  dsimp only
  split
  · rfl
  · split
    · split <;> rfl
    · split <;> rfl

/-- What an included die keeps for its port at the end of the engine stage of a SERVER basket. -/
theorem stageServer_ends (s : State) (b : Nat) : ∀ d ∈ bitsOf (s.basket b).included,
    (((s.stageServer b).dieBasket d b).st = .done ∨ ((s.stageServer b).dieBasket d b).st = .sending) ∧
    ((s.stageServer b).dieBasket d b).sum = [] := by
  have hends (t : State) (d : Nat) (empty : Prop) [Decidable empty] (l : List (Nat × Nat × List Word × Bool)) (i : List Nat)
      (h : Option PubHdr) : let u := (t.dropSum d b).setDieBasket d b { (t.dropSum d b).dieBasket d b with
        st := if empty then .done else .sending, owned := l, inv := i, pub := h }
      ((u.dieBasket d b).st = .done ∨ (u.dieBasket d b).st = .sending) ∧ (u.dieBasket d b).sum = [] := by
    obtain ⟨hsum, -⟩ := dropSum_dieBasket t d b
    dsimp only
    rw [setDieBasket_dieBasket_same]
    dsimp only
    refine ⟨?_, hsum⟩
    split
    · exact .inl rfl
    · exact .inr rfl
  have hother (t : State) (d e : Nat) (x : DieBasket) (he : e ≠ d) :
      ((t.dropSum d b).setDieBasket d b x).dieBasket e b = t.dieBasket e b := by
    rw [setDieBasket_dieBasket_other _ _ he]
    exact (dropSum_dieBasket t d b).2 e he
  have hbytes (t : State) (d : Nat) (tree : Bool) (rs : List Nat) (e : Nat) :
      (t.stageBytes d b tree rs).2.dieBasket e b = t.dieBasket e b := by
    rw [State.dieBasket, stageBytes_red]
    rfl
  have hcount (t : State) (d n m e : Nat) : (if m = 0 then t.count (pgCollect d) 1 n
      else (t.count (pgCollect d) 1 n).incSat (pgCollect d) 0x05C m).dieBasket e b = t.dieBasket e b := by
    split <;> rfl
  unfold State.stageServer
  dsimp only
  refine forEach_all (Q := fun (t : State) d => ((t.dieBasket d b).st = .done ∨ (t.dieBasket d b).st = .sending) ∧
    (t.dieBasket d b).sum = []) (fun t d => ?_) (fun t d e h => ?_) _ _
  · exact hends _ d _ _ _ _
  · by_cases he : e = d
    · subst he
      exact hends _ e _ _ _ _
    · rw [hother _ _ _ _ he, hcount, hbytes]
      exact h

theorem stageOver_all {s t : State} {b : Nat} (hred : t.red = s.red) : ∀ d ∈ bitsOf (s.basket b).included,
    ((t.stageOver b).dieBasket d b).st = .done ∧ ((t.stageOver b).dieBasket d b).sum = [] := by
  have hbasket : t.basket b = s.basket b := by rw [State.basket, hred]; rfl
  have h := stageOver_ends t b
  rw [hbasket] at h
  exact h

theorem stageTraffic_red (s : State) (b : Nat) (tree : Bool) (rs : List Nat) : (s.stageTraffic b tree rs).red = s.red := by
  have hhops (t : State) (l : List (Nat × Nat)) (n : Nat) : (l.foldl (fun u h => u.hopTraffic 2 h.1 h.2 n) t).red = t.red :=
    forEach_keeps State.red (fun u h => red_of_mask (mask_hopTraffic (by simp) u _ _ _ _)) l t
  have hring (t : State) (l : List Nat) (f : Nat → List (Nat × Nat)) (n : Nat → Nat) :
      (t.forEach l fun t d => (f d).foldl (fun u h => u.hopTraffic 2 h.1 h.2 (n d)) t).red = t.red :=
    forEach_keeps State.red (fun u d => hhops u _ _) l t
  have hmesh (t : State) (l : List Nat) :
      (t.forEach l fun t d => (t.count (pgMesh d) 2 t.freeNow.toNat).freeNext).red = t.red :=
    forEach_keeps (f := fun t d => (t.count (pgMesh d) 2 t.freeNow.toNat).freeNext) State.red (fun u d => rfl) l t
  have hwales (t : State) (l : List Nat) :
      (t.forEach l fun t w => t.freeNext.waleTraffic w t.freeNow.toNat).red = t.red :=
    forEach_keeps (f := fun t w => t.freeNext.waleTraffic w t.freeNow.toNat) State.red
      (fun u w => red_of_mask (by simp)) l t
  have hsent : (if s.bkDest b == 2 || tree then s
      else s.forEach rs fun t d =>
        (s.pathHops 64 d (ringNext rs d)).foldl (fun u h => u.hopTraffic 2 h.1 h.2 (s.ringBytes d b rs)) t).red = s.red := by
    split
    · rfl
    · exact hring s rs _ _
  unfold State.stageTraffic
  dsimp only
  split
  · rfl
  · split
    · exact hsent
    · exact ((hwales _ _).trans (hmesh _ _)).trans hsent

theorem stageAll_ends (s : State) (b : Nat) : ∀ d ∈ bitsOf (s.basket b).included,
    ((s.stageAll b).dieBasket d b).st = .done ∧ ((s.stageAll b).dieBasket d b).sum = [] := by
  have hcount (t : State) (d n m : Nat) : (if m = 0 then t.count (pgCollect d) 1 n
      else (t.count (pgCollect d) 1 n).incSat (pgCollect d) 0x05C m).red = t.red := by
    split <;> rfl
  have hstore (t : State) (d k n : Nat) (l : List MWord) :
      (((t.storeWords k l).incSat (pgCollect d) 0x058 n).doneMark d b).red = t.red := red_of_mask (by simp)
  unfold State.stageAll
  dsimp only
  refine stageOver_all ?_
  refine (forEach_keeps State.red (fun t d => hstore t d _ _ _) _ _).trans ?_
  refine (forEach_keeps State.red (fun t d => ?_) _ _).trans (stageTraffic_red s b _ _)
  rw [hcount, stageBytes_red]

theorem stageExchange_ends (s : State) (b : Nat) : ∀ d ∈ bitsOf (s.basket b).included,
    ((s.stageExchange b).dieBasket d b).st = .done ∧ ((s.stageExchange b).dieBasket d b).sum = [] := by
  have hstore (t : State) (d k n m : Nat) (l : List MWord) :
      ((((t.storeWords k l).incSat (pgCollect d) 0x068 n).incSat (pgCollect d) 0x06C m).doneMark d b).red = t.red :=
    red_of_mask (by simp)
  have hunstage (d : Nat) (l : List StageTile) (t : State) : (l.foldl (fun u e => u.unstage d b e) t).red = t.red :=
    forEach_keeps State.red (fun u e => red_of_mask (mask_unstage (by simp) u d b e)) l t
  have hcount (t : State) (d n : Nat) : (t.count (pgCollect d) 1 n).red = t.red := rfl
  unfold State.stageExchange
  dsimp only
  refine stageOver_all ?_
  refine (forEach_keeps State.red (fun t d => ?_) _ _).trans ?_
  · rw [hunstage, hcount, stageBytes_red]
  · exact (forEach_keeps State.red (fun t d => hstore t d _ _ _ _) _ _).trans (stageTraffic_red s b _ _)

theorem stage_ends {s : State} {b : Fin 128} (hready : s.stageReady b = true) (hheld : s.held pgReduce = false)
    (hfree : ∀ d ∈ bitsOf (s.basket b).included, s.held (pgCollect d) = false) :
    Completes (.engineStageDone b) s fun t =>
      ∀ d ∈ bitsOf (s.basket b).included,
        ((t.dieBasket d b).st = .done ∨ (s.bkDest b = 0 ∧ (t.dieBasket d b).st = .sending)) ∧
        (t.dieBasket d b).sum = [] := by
  have hall : ((bitsOf (s.basket b).included).all fun d => !s.held (pgCollect d)) = true :=
    List.all_eq_true.mpr fun d hd => by simp [hfree d hd]
  have hx : execEngineStageDone b s = s.ok (s.engineStage b) := if_pos (by rw [hready, hheld, hall]; rfl)
  have hends : ∀ d ∈ bitsOf (s.basket b).included,
      (((s.engineStage b).dieBasket d b).st = .done ∨
        (s.bkDest b = 0 ∧ ((s.engineStage b).dieBasket d b).st = .sending)) ∧
      ((s.engineStage b).dieBasket d b).sum = [] := fun d hd => by
    unfold State.engineStage
    split
    · next hdest =>
      obtain ⟨hst, hsum⟩ := stageServer_ends s b d hd
      exact ⟨hst.imp_right fun h => ⟨hdest, h⟩, hsum⟩
    · obtain ⟨hst, hsum⟩ := stageAll_ends s b d hd
      exact ⟨.inl hst, hsum⟩
    · obtain ⟨hst, hsum⟩ := stageExchange_ends s b d hd
      exact ⟨.inl hst, hsum⟩
  generalize s.engineStage b = u at hx hends
  exact .of_changes hx fun _ => hends

theorem sat_window_starts {s : State} {d : Die} (hlive : s.dieLive d = true) :
    Completes (.levelSatWindow d) s fun t =>
      t.reg (pgCollect d) 0x0A8 = BitVec.ofNat 32 (s.mostBusy d) ∧
      (∀ k : Nat, k < 6 → t.level d k = { s.level d k with rose := 0 }) ∧
      t = { s with regs := t.regs, red := { s.red with level := t.red.level }
                   host := { s.host with changes := t.host.changes } } := by
  obtain ⟨r, hr⟩ : ∃ r, s.poke (pgCollect d) 0x0A8 (BitVec.ofNat 32 (s.mostBusy d)) = r := ⟨_, rfl⟩
  have hx : execLevelSatWindow d s =
      s.ok (r.forEach (List.range 6) fun u k => u.setLevel d k { u.level d k with rose := 0 }) := by
    rw [← hr]
    exact if_neg (by simp [hlive])
  have hlevels : ∀ k ∈ List.range 6, (r.forEach (List.range 6) fun u k =>
      u.setLevel d k { u.level d k with rose := 0 }).level d k = { r.level d k with rose := 0 } := by
    have hall : ∀ (l : List Nat) (t : State), l.Nodup → ∀ k, (t.forEach l fun u k =>
        u.setLevel d k { u.level d k with rose := 0 }).level d k =
        if k ∈ l then { t.level d k with rose := 0 } else t.level d k := by
      intro l
      induction l with
      | nil => exact fun _ _ _ => (if_neg List.not_mem_nil).symm
      | cons a l ih =>
        intro t hl k
        obtain ⟨ha, hl⟩ := List.nodup_cons.mp hl
        refine (ih _ hl k).trans ?_
        by_cases hk : k = a
        · subst hk
          rw [if_neg ha, if_pos List.mem_cons_self, setLevel_level_same]
        · rw [setLevel_level_other _ _ hk]
          simp only [List.mem_cons, hk, false_or]
    intro k hk
    exact (hall _ r List.nodup_range k).trans (if_pos hk)
  have hreg : r.reg (pgCollect d) 0x0A8 = BitVec.ofNat 32 (s.mostBusy d) := by
    rw [← hr]
    exact poke_reg_same s
  have hrlevel (k : Nat) : r.level d k = s.level d k := hr ▸ rfl
  obtain ⟨l, hl⟩ : ∃ l, (r.forEach (List.range 6) fun u k => u.setLevel d k { u.level d k with rose := 0 }) =
      { r with red := { r.red with level := l } } := by
    have hall : ∀ (ks : List Nat) (t : State), ∃ l, (t.forEach ks fun u k =>
        u.setLevel d k { u.level d k with rose := 0 }) = { t with red := { t.red with level := l } } := by
      intro ks
      induction ks with
      | nil => exact fun t => ⟨_, rfl⟩
      | cons a ks ih =>
        intro t
        obtain ⟨l, hl⟩ := ih (t.setLevel d a { t.level d a with rose := 0 })
        exact ⟨l, hl⟩
    exact hall _ r
  rw [hl] at hx hlevels
  refine .of_changes hx fun n => ⟨hreg, fun k hk => ?_, ?_⟩
  · exact (hlevels k (List.mem_range.mpr hk)).trans (by rw [hrlevel])
  · rw [← hr]
    rfl

end Sys2Proof.Machine
end

section

namespace Sys2Proof.Machine

/-- Settles O36: READY, the decision and its receipt, the levels chunk by chunk, and the engine stage by its destination. -/
theorem basketsReduce : Obligations.BasketsReduce := by
  unfold Obligations.BasketsReduce
  exact ⟨fun s d b hmay hready hlocal => die_ready hmay hready hlocal,
    fun s d b n hcoming hheld hopen hsoon => ready_stamped hcoming hheld hopen hsoon,
    fun s b hwindow hopen hheld => deadline_decides hwindow hopen hheld,
    fun s d b hdecided hnew hmay => decision_received hdecided hnew hmay,
    fun s d k b c hmay hchunk hserve => level_starts hmay hchunk hserve,
    fun s d k b c hbusy hb hlive => level_ends hbusy hb hlive,
    fun s b hready hheld hfree => stage_ends hready hheld hfree, fun s d hlive => sat_window_starts hlive⟩

end Sys2Proof.Machine
end


section

/-! SUPPORT. What marks grant: the gates of streams and round contexts, and nothing of what they move. -/

namespace Sys2Proof.Machine

/-- What a write of a stream leaves of it, it leaves of every stream. -/
theorem setStream_stream_congr {β : Type} (g : Stream → β) {s : State} {d u st : Nat} {x : Stream}
    (h : g x = g (s.stream d u st)) (e v n : Nat) : g ((s.setStream d u st x).stream e v n) = g (s.stream e v n) := by
  by_cases hkey : streamKey e v n = streamKey d u st
  · have hnew : (s.setStream d u st x).stream e v n = x :=
      (congrArg (SMap.get Stream.reset _) hkey).trans (setStream_stream_same s)
    have hold : s.stream e v n = s.stream d u st := congrArg (SMap.get Stream.reset _) hkey
    rw [hnew, hold, h]
  · exact congrArg g (SMap.get_set_other _ _ _ hkey)

/-- What a write of a round context leaves of it, it leaves of every context. -/
theorem setRoundCtx_roundCtx_congr {β : Type} (g : RoundCtx → β) {s : State} {d c : Nat} {x : RoundCtx}
    (h : g x = g (s.roundCtx d c)) (e k : Nat) : g ((s.setRoundCtx d c x).roundCtx e k) = g (s.roundCtx e k) := by
  by_cases hkey : 4 * e + k = 4 * d + c
  · have hnew : (s.setRoundCtx d c x).roundCtx e k = x :=
      (congrArg (SMap.get RoundCtx.reset _) hkey).trans (setRoundCtx_roundCtx_same s)
    have hold : s.roundCtx e k = s.roundCtx d c := congrArg (SMap.get RoundCtx.reset _) hkey
    rw [hnew, hold, h]
  · exact congrArg g (SMap.get_set_other _ _ _ hkey)

/-- What a stream has on its way, and how many transfers it has issued. -/
def Stream.moved (x : Stream) : List Xfer × Nat := (x.out, x.issued)

/-- The items that a round context has received and forwarded, and whether it forwards one. -/
def RoundCtx.moved (x : RoundCtx) : Nat × Nat × Bool := (x.recv, x.fwd, x.busy)

/-- Streams and round contexts have moved what they had moved, and the same items are on the wales. -/
def Unmoved (s t : State) : Prop :=
  (∀ d u st, (t.stream d u st).moved = (s.stream d u st).moved) ∧
  (∀ d c, (t.roundCtx d c).moved = (s.roundCtx d c).moved) ∧ t.rounds.transit = s.rounds.transit

theorem Unmoved.refl (s : State) : Unmoved s s := ⟨fun _ _ _ => rfl, fun _ _ => rfl, rfl⟩

theorem Unmoved.trans {s t u : State} (h : Unmoved s t) (g : Unmoved t u) : Unmoved s u := by
  obtain ⟨hs, hc, ht⟩ := h
  obtain ⟨gs, gc, gt⟩ := g
  exact ⟨fun d u st => (gs d u st).trans (hs d u st), fun d c => (gc d c).trans (hc d c), gt.trans ht⟩

theorem Unmoved.of_eq {s t : State} (hstreams : t.streams = s.streams) (hrounds : t.rounds = s.rounds) : Unmoved s t := by
  refine ⟨fun d u st => ?_, fun d c => ?_, by rw [hrounds]⟩
  · rw [State.stream, hstreams]
    rfl
  · rw [State.roundCtx, hrounds]
    rfl

theorem Unmoved.foldl {α : Type} {f : State → α → State} (hf : ∀ t e, Unmoved t (f t e)) (l : List α) (s : State) :
    Unmoved s (l.foldl f s) := by
  induction l generalizing s with
  | nil => exact .refl s
  | cons e r ih => exact (hf s e).trans (ih _)

theorem Unmoved.ite {s t u : State} {c : Prop} [Decidable c] (ht : Unmoved s t) (hu : Unmoved s u) :
    Unmoved s (if c then t else u) := by
  split
  · exact ht
  · exact hu

theorem unmoved_setStream {s : State} {d u st : Nat} {x : Stream} (h : x.moved = (s.stream d u st).moved) :
    Unmoved s (s.setStream d u st x) :=
  ⟨fun e v n => setStream_stream_congr Stream.moved h e v n, fun _ _ => rfl, rfl⟩

theorem unmoved_setRoundCtx {s : State} {d c : Nat} {x : RoundCtx} (h : x.moved = (s.roundCtx d c).moved) :
    Unmoved s (s.setRoundCtx d c x) :=
  ⟨fun _ _ _ => rfl, fun e k => setRoundCtx_roundCtx_congr RoundCtx.moved h e k, rfl⟩

theorem unmoved_grant (s : State) (d : Nat) (k : Taker) : Unmoved s (s.grant d k) := by
  cases k with
  | stall l =>
    change Unmoved s (s.modStall d l _)
    unfold State.modStall
    split
    · exact .of_eq rfl rfl
    · exact .refl s
  | stream u st => exact unmoved_setStream rfl
  | ready c => exact unmoved_setRoundCtx rfl
  | release c => exact unmoved_setRoundCtx rfl

theorem unmoved_serveReqs (d m : Nat) (l : List (Taker × Nat)) (s : State) : Unmoved s (serveReqs s d m l) := by
  have hset (t : State) (r : List (Taker × Nat)) : Unmoved t (t.setReqs d m r) := .of_eq rfl rfl
  have hmark (t : State) (n : Nat) : Unmoved t (t.setMark d m n) := .of_eq rfl rfl
  induction l generalizing s with
  | nil => exact hset s []
  | cons e r ih =>
    obtain ⟨k, n⟩ := e
    unfold serveReqs
    exact .ite (((hmark s _).trans (unmoved_grant _ d k)).trans (ih _)) (hset s _)

theorem unmoved_breach (s : State) (code d stall agent index : Nat) : Unmoved s (s.breach code d stall agent index) := by
  unfold State.breach
  dsimp only
  split
  · exact .of_eq rfl rfl
  · exact .of_eq rfl rfl
  · exact .of_eq rfl rfl
  · exact .refl s

theorem unmoved_postMark (s : State) (d m n : Nat) (p : Poster) : Unmoved s (s.postMark d m n p) := by
  have hmark (t : State) (k : Nat) : Unmoved t (t.setMark d m k) := .of_eq rfl rfl
  unfold State.postMark
  exact .ite (unmoved_breach s _ _ _ _ _) ((hmark s _).trans (unmoved_serveReqs d m _ _))

/-- The end of a walk posts its marks, and moves nothing. -/
theorem unmoved_walkEnd (s : State) (d u st : Nat) : Unmoved s (s.walkEnd d u st) := by
  have hposts (t : State) (l : List Nat) (m : Nat) (p : Poster) : Unmoved t (t.forEach l fun v _ => v.postMark d m 1 p) :=
    .foldl (fun v _ => unmoved_postMark v d m 1 p) l t
  unfold State.walkEnd
  dsimp only
  refine Unmoved.trans (t := s.setStream d u st _) (unmoved_setStream ?_) (hposts _ _ _ _)
  rfl

theorem SMap.get_map_key {α : Type} (z : α) (f : Nat → α → α) (hz : ∀ k, f k z = z) (m : SMap α) (k : Nat) :
    SMap.get z (m.map fun e => (e.1, f e.1 e.2)) k = f k (SMap.get z m k) := by
  induction m with
  | nil => exact (hz k).symm
  | cons e r ih =>
    obtain ⟨j, v⟩ := e
    by_cases hj : j = k
    · subst hj
      simp [SMap.get, SMap.find]
    · simpa [SMap.get, SMap.find, hj] using ih

/-- A stream below its unit's limit runs again. -/
def Stream.unlimited (x : Stream) (mine : Bool) : Stream :=
  if mine && x.st == .limited && (x.role != roleRound || decide (x.issued < x.walk)) then { x with st := .run } else x

theorem unmoved_unlimit (s : State) (d u : Nat) : Unmoved s (s.unlimit d u) := by
  have hstreams : (s.unlimit d u).streams =
      s.streams.map fun e => (e.1, e.2.unlimited (e.1 / 256 == d * 73 + u)) := by
    unfold State.unlimit Stream.unlimited
    dsimp only
    refine List.map_congr_left fun e _ => ?_
    split
    · rfl
    · rfl
  refine ⟨fun e v n => ?_, fun _ _ => rfl, rfl⟩
  rw [State.stream, hstreams,
    SMap.get_map_key Stream.reset (fun k x => x.unlimited (k / 256 == d * 73 + u)) fun k => by
      cases k / 256 == d * 73 + u <;> rfl]
  unfold Stream.unlimited Stream.moved
  split
  · rfl
  · rfl

theorem unmoved_freeRoundSlot (s : State) (d c i : Nat) : Unmoved s (s.freeRoundSlot d c i) := by
  have hsame : SameBut [.regs, .stores, .weights, .ledgers] s (s.freeRoundSlot d c i) := by simp [SameBut, among]
  have h := hsame.frame
  generalize s.freeRoundSlot d c i = t at h ⊢
  exact .of_eq (congrArg State.streams h :) (congrArg State.rounds h :)

theorem unmoved_sendCredits (s : State) (d c n : Nat) : Unmoved s (s.sendCredits d c n) := by
  have hissue (t : State) : Unmoved t (t.ledIssue d lgRound c n) := .of_eq rfl rfl
  unfold State.sendCredits
  refine .ite (.refl s) ((hissue s).trans ?_)
  exact unmoved_setRoundCtx rfl

theorem unmoved_roundDone (s : State) (d c : Nat) : Unmoved s (s.roundDone d c) := by
  have hset : Unmoved s (s.setRoundCtx d c { s.roundCtx d c with st := .done, ready := .no, release := .no }) :=
    unmoved_setRoundCtx rfl
  unfold State.roundDone
  exact .ite (hset.trans (unmoved_setStream rfl)) (.refl s)

theorem unmoved_freeSlots (s : State) (d c : Nat) : Unmoved s (s.freeSlots d c) := by
  have hfree (t : State) (l : List Nat) (f : Nat → Nat) : Unmoved t (t.forEach l fun v i => v.freeRoundSlot d c (f i)) :=
    .foldl (fun v i => unmoved_freeRoundSlot v d c _) l t
  have hset (t : State) (n k : Nat) : Unmoved t (t.setRoundCtx d c { t.roundCtx d c with freed := n, owed := k }) :=
    unmoved_setRoundCtx rfl
  unfold State.freeSlots
  dsimp only
  exact (((hfree s _ _).trans (hset _ _ _)).trans (.ite (unmoved_sendCredits _ d c _) (.refl _))).trans
    (unmoved_roundDone _ d c)

/-! ### Words written at an address -/

/-- Memory after words are written from a key on. -/
def Mem.written (m : Mem) (k : Nat) (l : List MWord) : Mem := l.zipIdx.foldl (fun m e => m.putWord (k / 8 + e.2) e.1) m

/-- Memory after words are stored, those of images left out. -/
def Mem.stored (m : Mem) (rs : List (Nat × Nat)) (k : Nat) (l : List MWord) : Mem :=
  if rs.any fun r => decide (k < r.2 ∧ r.1 < k + 8 * l.length) then
    l.zipIdx.foldl (fun m e => if rs.any fun r => decide (r.1 ≤ k + 8 * e.2 ∧ k + 8 * e.2 < r.2) then m
      else m.written (k + 8 * e.2) [e.1]) m
  else m.written k l

theorem writeWords_mem (s : State) (k : Nat) (l : List MWord) : (s.writeWords k l).mem = s.mem.written k l := by
  have hfold (l : List (MWord × Nat)) (t : State) : (l.foldl (fun t e => t.putWord (k / 8 + e.2) e.1) t).mem =
      l.foldl (fun m e => m.putWord (k / 8 + e.2) e.1) t.mem := by
    induction l generalizing t with
    | nil => rfl
    | cons e r ih => exact ih _
  unfold State.writeWords Mem.written
  rw [mem_of_mask (mask_noteBytes (by simp) _ _ _ _), hfold]

theorem storeWords_mem (s : State) (k : Nat) (l : List MWord) :
    (s.storeWords k l).mem = s.mem.stored s.imageRanges k l := by
  have hfold (rs : List (Nat × Nat)) (l : List (MWord × Nat)) (t : State) :
      (l.foldl (fun t e => if rs.any fun r => decide (r.1 ≤ k + 8 * e.2 ∧ k + 8 * e.2 < r.2) then t
        else t.writeWords (k + 8 * e.2) [e.1]) t).mem =
      l.foldl (fun m e => if rs.any fun r => decide (r.1 ≤ k + 8 * e.2 ∧ k + 8 * e.2 < r.2) then m
        else m.written (k + 8 * e.2) [e.1]) t.mem := by
    induction l generalizing t with
    | nil => rfl
    | cons e r ih =>
      rw [List.foldl_cons, List.foldl_cons, ih]
      split
      · rfl
      · rw [writeWords_mem]
  unfold State.storeWords Mem.stored
  dsimp only
  split
  · exact hfold _ _ _
  · exact writeWords_mem s k l

end Sys2Proof.Machine
end


section

/-! SUPPORT. O30: transfers of streams, and the items of a round. -/

namespace Sys2Proof.Machine

/-! ### A transfer issues -/

theorem issueXfer_issues (s : State) (d u st : Nat) (ws : List MWord) :
    (s.issueXfer d u st ws).stream d u st = { s.stream d u st with
      out := (s.stream d u st).out ++ [{ t := (s.stream d u st).issued, words := ws }],
      issued := (s.stream d u st).issued + 1, gate := .no, st := .run } ∧
    SameBut [.regs, .streams, .ledgers] s (s.issueXfer d u st ws) := by
  refine ⟨?_, by simp [SameBut, among]⟩
  have hled (t : State) (i : Nat) : (t.ledIssue d lgXfer i).stream d u st = t.stream d u st := rfl
  have hpoke (t : State) (p o : Nat) (v : Word) : (t.poke p o v).stream d u st = t.stream d u st := rfl
  unfold State.issueXfer
  dsimp only
  rw [hpoke]
  split
  · rw [hled, hled, setStream_stream_same]
  · rw [hled, setStream_stream_same]

theorem setPool_turn (s : State) (d q i : Nat) (p : Pool) (e v : Nat) : (s.setPool d q i p).turn e v = s.turn e v := by
  have hpeak (t : State) (n : Nat) : (t.peak (pgQbuf d q) 0x044 n).turn e v = t.turn e v := by
    unfold State.peak
    split
    · rfl
    · rfl
  unfold State.setPool
  dsimp only
  rw [hpeak]
  split
  · rfl
  · split
    · rfl
    · rfl

theorem hold_turn (s : State) (k n e v : Nat) : (s.hold k n).turn e v = s.turn e v := by
  unfold State.hold
  dsimp only
  split
  · rfl
  · split
    · rfl
    · exact setPool_turn _ _ _ _ _ _ _

theorem unhold_turn (s : State) (k n e v : Nat) : (s.unhold k n).turn e v = s.turn e v := by
  unfold State.unhold
  dsimp only
  split
  · rfl
  · split
    · rfl
    · exact setPool_turn _ _ _ _ _ _ _

/-- What a LOAD or a STORE transfer notes and holds before it issues. -/
def State.xferHolds (s : State) (d u st : Nat) : State :=
  let x := s.stream d u st
  let far := x.far x.issued
  let ring := x.ring d u x.issued
  if x.role = roleLoad then ((s.noteSource far x.size).unhold ring x.size).hold ring x.size
  else (s.noteReads srcStream ring x.size).holdAt' far x.size

/-- The words that a LOAD or a STORE transfer reads. -/
def State.xferWords (s : State) (d u st : Nat) : List MWord :=
  let x := s.stream d u st
  if x.role = roleLoad then s.sourceWords (x.far x.issued) x.size
  else s.readWords (x.ring d u x.issued) (x.size / 8)

theorem xferHolds_frame (s : State) (d u st : Nat) :
    SameBut [.regs, .cnt, .errNotes, .mem, .scrub, .bnd, .lastFault, .stores, .ledgers] s (s.xferHolds d u st) ∧
    ∀ e v, (s.xferHolds d u st).turn e v = s.turn e v := by
  have hstores {t : State} (h : t.mask (allBut .stores) = s.mask (allBut .stores)) (e v : Nat) : t.turn e v = s.turn e v := by
    rw [State.turn, stores_of_mask h]
    rfl
  refine ⟨by simp [SameBut, among, State.xferHolds], fun e v => ?_⟩
  unfold State.xferHolds
  dsimp only
  split
  · rw [hold_turn, unhold_turn, hstores (mask_noteSource (by simp) _ _ _)]
  · have hreads := hstores (mask_noteReads (by simp) s srcStream ((s.stream d u st).ring d u (s.stream d u st).issued)
      (s.stream d u st).size) e v
    unfold State.holdAt'
    split
    · rw [hold_turn, hreads]
    · exact hreads

theorem issueByRole_eq {s : State} {d u st : Nat} (hrole : (s.stream d u st).role = roleLoad ∨ (s.stream d u st).role = roleStore) :
    s.issueByRole d u st = (s.xferHolds d u st).issueXfer d u st (s.xferWords d u st) := by
  unfold State.issueByRole State.xferHolds State.xferWords
  dsimp only
  obtain h | h := hrole
  · rw [if_pos h, if_pos h, if_pos h]
  · have hne : ¬ (s.stream d u st).role = roleLoad := by
      rw [h]
      decide
    rw [if_neg hne, if_pos h, if_neg hne, if_neg hne]

theorem xfer_issues {s : State} {d : Die} {u : Fin 73} {st : Fin 256} (hmay : s.mayIssue d u st = true)
    (hrole : (s.stream d u st).role = roleLoad ∨ (s.stream d u st).role = roleStore)
    (hgate : (s.stream d u st).atGate = false) (hlimit : s.atLimit d u st = false) (hturn : s.hasTurn d u st = true) :
    Completes (.transferIssue d u st) s fun t =>
      let x := s.stream d u st
      let ws := if x.role = roleLoad then s.sourceWords (x.far x.issued) x.size
        else s.readWords (x.ring d u x.issued) (x.size / 8)
      (t.stream d u st).out = x.out ++ [{ t := x.issued, words := ws }] ∧
      (t.stream d u st).issued = x.issued + 1 ∧ (t.stream d u st).st = .run ∧
      (t.stream d u st).done = x.done ∧ t.turn d u = (st.val + 1) % 256 ∧ t.stalls = s.stalls ∧ t.prog = s.prog := by
  have hready : s.roleReady d u st = true := by
    unfold State.roleReady
    dsimp only
    rw [if_pos (by simpa using hrole)]
  have htake : s.takeGate d u st = s := if_pos (by simp [hgate])
  have hx : execTransferIssue d u st s = s.ok ((s.passTurn d u st).issueByRole d u st) := by
    unfold execTransferIssue
    dsimp only
    rw [if_pos (by simp [hmay, hready]), htake, if_neg (by simp [hgate]), if_neg (by simp [hlimit]), if_pos hturn]
  have hwords : (s.passTurn d u st).xferWords d u st = s.xferWords d u st := rfl
  have hstream : (s.passTurn d u st).stream d u st = s.stream d u st := rfl
  have hpass : (s.passTurn d u st).turn d u = (st.val + 1) % 256 := SMap.get_set_same _ _ _ _
  have hstalls : (s.passTurn d u st).stalls = s.stalls := rfl
  have hprog : (s.passTurn d u st).prog = s.prog := rfl
  rw [issueByRole_eq (by rw [hstream]; exact hrole), hwords] at hx
  generalize s.passTurn d u st = r at hx hstream hpass hstalls hprog
  obtain ⟨hsame, hturns⟩ := xferHolds_frame r d u st
  generalize r.xferHolds d u st = v at hx hsame hturns
  have hframe := hsame.frame
  have hvstream : v.stream d u st = s.stream d u st :=
    (congrArg (fun t : State => t.stream d u st) hframe :).trans hstream
  obtain ⟨hissued, hafter⟩ := issueXfer_issues v d u st (s.xferWords d u st)
  generalize v.issueXfer d u st (s.xferWords d u st) = w at hx hissued hafter
  have hlast := hafter.frame
  rw [hvstream] at hissued
  have hwturn : w.turn d u = (st.val + 1) % 256 :=
    ((congrArg (fun t : State => t.turn d u) hlast :).trans (hturns d u)).trans hpass
  have hwstalls : w.stalls = s.stalls :=
    ((congrArg State.stalls hlast :).trans (congrArg State.stalls hframe :)).trans hstalls
  have hwprog : w.prog = s.prog :=
    ((congrArg State.prog hlast :).trans (congrArg State.prog hframe :)).trans hprog
  refine .of_changes hx fun _ => ?_
  change (w.stream d u st).out = _ ∧ (w.stream d u st).issued = _ ∧ (w.stream d u st).st = _ ∧
    (w.stream d u st).done = _ ∧ w.turn d u = _ ∧ w.stalls = _ ∧ w.prog = _
  rw [hissued]
  exact ⟨rfl, rfl, rfl, rfl, hwturn, hwstalls, hwprog⟩

theorem xfer_limited {s : State} {d : Die} {u : Fin 73} {st : Fin 256} (hmay : s.mayIssue d u st = true)
    (hready : s.roleReady d u st = true) (hgate : (s.stream d u st).atGate = false) (hlimit : s.atLimit d u st = true) :
    Gives (.transferIssue d u st) s (s.setStream d u st { s.stream d u st with st := .limited }) := by
  have htake : s.takeGate d u st = s := if_pos (by simp [hgate])
  have hx : execTransferIssue d u st s = s.ok (s.setStream d u st { s.stream d u st with st := .limited }) := by
    unfold execTransferIssue
    dsimp only
    rw [if_pos (by simp [hmay, hready]), htake, if_neg (by simp [hgate]), if_pos hlimit]
  exact .of_ok hx

/-! ### A transfer completes -/

theorem meshServe_idle {s : State} {d i n : Nat} (h : (s.meshServe d i n).2 = false) :
    (s.meshServe d i n).1 = { s with free := s.free + 3 } := by
  unfold State.meshServe at *
  dsimp only at *
  split at h
  · split at h
    · cases h
    · next hne => rw [if_neg hne]
  · rfl

/-- A transfer of a stream is on its way no more. -/
def Stream.completes (x : Stream) (n : Nat) : Stream :=
  let set := n :: x.doneSet
  let done := doneFrom x.done set set.length
  { x with out := x.out.filter (·.t != n), doneSet := set.filter (done ≤ ·), done := done }

theorem completeXfer_completes (s : State) (d u st n : Nat) (gone : Bool) :
    ((s.completeXfer d u st n gone).stream d u st).moved =
      ((s.stream d u st).out.filter (·.t != n), (s.stream d u st).issued) := by
  have hwoff (t : State) (i : Nat) : Unmoved t (t.ledWoff d lgXfer i) := .of_eq rfl rfl
  have hreturn (t : State) (i : Nat) : Unmoved t (t.ledReturn d lgXfer i) := .of_eq rfl rfl
  have hledger (t : State) (i : Nat) : Unmoved t (if gone then t.ledWoff d lgXfer i else t.ledReturn d lgXfer i) :=
    .ite (hwoff t i) (hreturn t i)
  have hcount (t : State) (k : Nat) : Unmoved t ((t.count (pgStreams d) 0).count (pgStreams d) 1 k) := .of_eq rfl rfl
  have hrest : Unmoved (s.setStream d u st ((s.stream d u st).completes n)) (s.completeXfer d u st n gone) := by
    unfold State.completeXfer
    dsimp only
    exact (((hledger _ _).trans (.ite (hledger _ _) (.refl _))).trans (.ite (hcount _ _) (.refl _))).trans
      ((unmoved_unlimit _ d u).trans (unmoved_walkEnd _ d u st))
  obtain ⟨hstreams, -, -⟩ := hrest
  rw [hstreams, setStream_stream_same]
  rfl

theorem meshServe_frame (s : State) (d i n : Nat) : SameBut [.free, .stores] s (s.meshServe d i n).1 := by
  simp [SameBut, among]

theorem load_completes {s : State} {d : Die} {u : Fin 73} {st : Fin 256} {n k : Nat} {x : Xfer}
    (hfind : (s.stream d u st).out.find? (·.t == n) = some x) (hlive : s.dieLive d = true)
    (hrole : (s.stream d u st).role = roleLoad) (hfar : s.resolve ((s.stream d u st).far n) = some k)
    (hsource : s.lostKey (some k) = false) (hring : s.lostKey (some ((s.stream d u st).ring d u n)) = false) :
    Completes (.transferComplete d u st n) s fun t =>
      if (s.meshServe d 1 (s.stream d u st).size).2 then
        t.mem = (s.storeWords ((s.stream d u st).ring d u n) x.words).mem ∧
        (t.stream d u st).out = (s.stream d u st).out.filter (·.t != n) ∧
        (t.stream d u st).issued = (s.stream d u st).issued
      else t = { s with free := s.free + 3, host := { s.host with changes := t.host.changes } } := by
  have ht : x.t = n := by
    have h := List.find?_some hfind
    simpa using h
  have hx : execTransferComplete d u st n s = s.ok (if (s.meshServe d 1 (s.stream d u st).size).2
      then (s.meshServe d 1 (s.stream d u st).size).1.finishXfer d u st x
      else (s.meshServe d 1 (s.stream d u st).size).1) := by
    unfold execTransferComplete
    dsimp only
    rw [hfind]
    dsimp only
    rw [if_pos (by simp [hlive, hrole])]
  by_cases hserve : (s.meshServe d 1 (s.stream d u st).size).2 = true
  · rw [if_pos hserve] at hx
    have hmesh := (meshServe_frame s d 1 (s.stream d u st).size).frame
    generalize (s.meshServe d 1 (s.stream d u st).size).1 = m at hx hmesh
    have hstream : m.stream d u st = s.stream d u st := (congrArg (fun t : State => t.stream d u st) hmesh :)
    have hresolve (a : Nat) : m.resolve a = s.resolve a := (congrArg (fun t : State => t.resolve a) hmesh :)
    have hlost (a : Option Nat) : m.lostKey a = s.lostKey a := (congrArg (fun t : State => t.lostKey a) hmesh :)
    have himages : m.imageRanges = s.imageRanges := (congrArg State.imageRanges hmesh :)
    have hmem : m.mem = s.mem := (congrArg State.mem hmesh :)
    have hfinish : m.finishXfer d u st x =
        (m.storeWords ((s.stream d u st).ring d u n) x.words).completeXfer d u st n false := by
      unfold State.finishXfer
      dsimp only
      rw [hstream, ht, hresolve, hfar, hlost, hlost, hsource, hring, if_pos hrole, hrole, if_neg (by decide), if_neg (by simp),
        Bool.and_false]
      rfl
    have hstored : (m.storeWords ((s.stream d u st).ring d u n) x.words).stream d u st = s.stream d u st := by
      rw [stream_of_mask (mask_storeWords (by simp) _ _ _), hstream]
    have hmoved := completeXfer_completes (m.storeWords ((s.stream d u st).ring d u n) x.words) d u st n false
    have hkeep : ((m.storeWords ((s.stream d u st).ring d u n) x.words).completeXfer d u st n false).mem =
        (s.storeWords ((s.stream d u st).ring d u n) x.words).mem := by
      rw [mem_of_mask (mask_completeXfer (by simp) _ _ _ _ _ _), storeWords_mem, storeWords_mem, himages, hmem]
    rw [hstored] at hmoved
    rw [hfinish] at hx
    generalize (m.storeWords ((s.stream d u st).ring d u n) x.words).completeXfer d u st n false = w at hx hmoved hkeep
    refine .of_changes hx fun _ => ?_
    rw [if_pos hserve]
    exact ⟨hkeep, congrArg Prod.fst hmoved, congrArg Prod.snd hmoved⟩
  · rw [if_neg hserve, meshServe_idle (by simpa using hserve)] at hx
    refine .of_changes hx fun _ => ?_
    rw [if_neg hserve]

/-! ### The items of a round -/

theorem item_taken {s : State} {d : Die} {c : Qtr} (hmay : s.roundMay d c = true)
    (hleft : (s.roundCtx d c).taken < s.ownItems d c) (hready : (s.roundCtx d c).ready = .granted) :
    Gives (.roundItemTake d c) s (((s.setRoundCtx d c { s.roundCtx d c with
      taken := (s.roundCtx d c).taken + 1, ready := .no }).postArrive d c).freeSlots d c) := by
  have hx : execRoundItemTake d c s = s.ok (((s.setRoundCtx d c { s.roundCtx d c with
      taken := (s.roundCtx d c).taken + 1, ready := .no }).postArrive d c).freeSlots d c) := by
    unfold execRoundItemTake
    refine (if_pos (by simp [hmay, hleft])).trans ?_
    have hno : ((s.roundCtx d c).ready == .no) = false := by rw [hready]; rfl
    have hyes : ((s.roundCtx d c).ready == .granted) = true := by rw [hready]; rfl
    simp only [hno, hyes, Bool.false_eq_true, if_false, if_true]
  exact .of_ok hx

theorem item_released {s : State} {d : Die} {c : Qtr} (hwork : s.atWork = true) (hlive : s.dieLive d = true)
    (hst : (s.roundCtx d c).st = .running) (hleft : (s.roundCtx d c).released < s.arrived d c)
    (hgrant : (s.roundCtx d c).release = .granted) :
    Gives (.roundRelease d c) s ((s.setRoundCtx d c { s.roundCtx d c with
      released := (s.roundCtx d c).released + 1, release := .no }).freeSlots d c) := by
  have hx : execRoundRelease d c s = s.ok ((s.setRoundCtx d c { s.roundCtx d c with
      released := (s.roundCtx d c).released + 1, release := .no }).freeSlots d c) := by
    unfold execRoundRelease
    refine (if_pos (by simp [hwork, hlive, hst, hleft])).trans ?_
    have hno : ((s.roundCtx d c).release == .no) = false := by rw [hgrant]; rfl
    have hyes : ((s.roundCtx d c).release == .granted) = true := by rw [hgrant]; rfl
    simp only [hno, hyes, Bool.false_eq_true, if_false, if_true]
  exact .of_ok hx

/-- A context that forwards an item against a credit of its round. -/
def RoundCtx.forwards (x : RoundCtx) : RoundCtx := { x with busy := true, credits := SMap.upd 0 x.credits x.rnd (· - 1) }

/-- An item leaves for the successor, with the stream that walks it. -/
def State.sentOn (s : State) (d c : Nat) (y : Stream) (g : Option ItemTag) : State :=
  let s2 := (s.setRoundCtx d c (s.roundCtx d c).forwards).setStream d 72 (s.ctxStream d c) y
  { s2 with rounds := { s2.rounds with transit := s2.rounds.transit ++
    [{ src := d, dst := s.pathSucc d, ctx := c, k := (s.roundCtx d c).fwd, tag := g }] } }

theorem item_forwarded {s : State} {d : Die} {c : Qtr} (hmay : s.roundMay d c = true)
    (hbusy : (s.roundCtx d c).busy = false) (hhere : (s.roundCtx d c).fwd < s.arrived d c)
    (hdue : (s.roundCtx d c).fwd < s.itemsForward d c) (hhop : s.hopUp d (s.pathSucc d) = true)
    (hcredit : s.credited d c = true) :
    Completes (.roundItemForward d c) s fun t =>
      let x := s.roundCtx d c
      let y := t.stream d 72 (s.ctxStream d c)
      (t.roundCtx d c).busy = true ∧ (t.roundCtx d c).fwd = x.fwd ∧
      SMap.get 0 (t.roundCtx d c).credits x.rnd + 1 = SMap.get 0 x.credits x.rnd ∧
      (∃ g : Option ItemTag, t.rounds.transit =
        s.rounds.transit ++ [{ src := d, dst := s.pathSucc d, ctx := c, k := x.fwd, tag := g }]) ∧
      y.issued = 0 ∧ y.done = 0 ∧ y.walk = y.walkLen ∧ t.ledgers = s.ledgers ∧ t.stalls = s.stalls ∧ t.mem = s.mem := by
  obtain ⟨y, g, hforward, hissued, hdone, hwalk⟩ : ∃ (y : Stream) (g : Option ItemTag), s.forwardItem d c = s.sentOn d c y g ∧
      y.issued = 0 ∧ y.done = 0 ∧ y.walk = y.walkLen :=
    ⟨_, _, rfl, rfl, rfl, rfl⟩
  have hx : execRoundItemForward d c s = s.ok (s.sentOn d c y g) := by
    rw [← hforward]
    exact (if_pos (by simp [hmay, hbusy, hhere, hdue, hhop])).trans (if_pos hcredit)
  have hpositive : 0 < SMap.get 0 (s.roundCtx d c).credits (s.roundCtx d c).rnd := by
    unfold State.credited at hcredit
    simp only [Bool.and_eq_true, decide_eq_true_eq] at hcredit
    obtain ⟨⟨⟨h, -⟩, -⟩, -⟩ := hcredit
    exact h
  have hctx : (s.sentOn d c y g).roundCtx d c = (s.roundCtx d c).forwards := setRoundCtx_roundCtx_same s
  have hcredits : SMap.get 0 (s.roundCtx d c).forwards.credits (s.roundCtx d c).rnd + 1 =
      SMap.get 0 (s.roundCtx d c).credits (s.roundCtx d c).rnd := by
    unfold RoundCtx.forwards
    dsimp only
    rw [SMap.upd, SMap.get_set_same]
    omega
  have hstream : (s.sentOn d c y g).stream d 72 (s.ctxStream d c) = y :=
    setStream_stream_same (s.setRoundCtx d c (s.roundCtx d c).forwards)
  have htransit : (s.sentOn d c y g).rounds.transit = s.rounds.transit ++
      [{ src := d, dst := s.pathSucc d, ctx := c, k := (s.roundCtx d c).fwd, tag := g }] := rfl
  have hledgers : (s.sentOn d c y g).ledgers = s.ledgers := rfl
  have hstalls : (s.sentOn d c y g).stalls = s.stalls := rfl
  have hmem : (s.sentOn d c y g).mem = s.mem := rfl
  generalize s.sentOn d c y g = u at hx hctx hstream htransit hledgers hstalls hmem
  refine .of_changes hx fun _ => ?_
  change (u.roundCtx d c).busy = true ∧ (u.roundCtx d c).fwd = _ ∧
    SMap.get 0 (u.roundCtx d c).credits (s.roundCtx d c).rnd + 1 = _ ∧ (∃ g : Option ItemTag, u.rounds.transit = _) ∧
    (u.stream d 72 (s.ctxStream d c)).issued = 0 ∧ (u.stream d 72 (s.ctxStream d c)).done = 0 ∧
    (u.stream d 72 (s.ctxStream d c)).walk = (u.stream d 72 (s.ctxStream d c)).walkLen ∧ u.ledgers = _ ∧ u.stalls = _ ∧
    u.mem = _
  rw [hctx, hstream]
  exact ⟨rfl, rfl, hcredits, ⟨g, htransit⟩, hissued, hdone, hwalk, hledgers, hstalls, hmem⟩

/-- An item is entered at its receiver, and leaves its sender. -/
def State.itemMoves (s : State) (d c : Nat) (x : Transit) : State :=
  let s1 := s.tagItem x
  let s2 := { s1 with rounds := { s1.rounds with transit := s1.rounds.transit.erase x } }
  let s3 := (s2.setRoundCtx d c { s2.roundCtx d c with recv := (s.roundCtx d c).recv + 1 }).ledReturn d lgRound c
  s3.setRoundCtx x.src c { s3.roundCtx x.src c with fwd := (s3.roundCtx x.src c).fwd + 1, busy := false }

/-- What an item's arrival counts, posts and frees. -/
def State.itemEnds (s : State) (d c : Nat) (x : Transit) (bytes : Nat) : State :=
  ((((s.count (pgRound x.src) 0).count (pgRound x.src) 1 bytes).postArrive d c).freeSlots d c).freeSlots x.src c

theorem tagItem_rounds (s : State) (x : Transit) : (s.tagItem x).rounds = s.rounds := by
  have hsame : SameBut [.weights] s (s.tagItem x) := by simp [SameBut, among]
  have h := hsame.frame
  generalize s.tagItem x = t at h ⊢
  exact (congrArg State.rounds h :)

theorem itemMoves_moves (s : State) (d c : Nat) (x : Transit) :
    (s.itemMoves d c x).rounds.transit = s.rounds.transit.erase x ∧
    ((s.itemMoves d c x).roundCtx d c).recv = (s.roundCtx d c).recv + 1 ∧
    ((s.itemMoves d c x).roundCtx x.src c).fwd = (s.roundCtx x.src c).fwd + 1 ∧
    ((s.itemMoves d c x).roundCtx x.src c).busy = false := by
  have hrounds := tagItem_rounds s x
  unfold State.itemMoves
  dsimp only
  generalize s.tagItem x = a at hrounds ⊢
  obtain ⟨b, hb⟩ : ∃ b : State, { a with rounds := { a.rounds with transit := a.rounds.transit.erase x } } = b := ⟨_, rfl⟩
  have hbctx (e : Nat) : b.roundCtx e c = s.roundCtx e c := by
    rw [← hb]
    change SMap.get RoundCtx.reset a.rounds.ctx _ = _
    rw [hrounds]
    rfl
  have htransit : b.rounds.transit = s.rounds.transit.erase x := by
    rw [← hb]
    change a.rounds.transit.erase x = _
    rw [hrounds]
  rw [hb]
  have hled (t : State) (e : Nat) : (t.ledReturn d lgRound c).roundCtx e c = t.roundCtx e c := rfl
  obtain ⟨r, hr⟩ : ∃ r, (b.setRoundCtx d c { b.roundCtx d c with recv := (s.roundCtx d c).recv + 1 }).ledReturn d lgRound c = r :=
    ⟨_, rfl⟩
  have hown : (r.roundCtx d c).recv = (s.roundCtx d c).recv + 1 := by
    rw [← hr, hled, setRoundCtx_roundCtx_same]
  have hfwd : (r.roundCtx x.src c).fwd = (s.roundCtx x.src c).fwd := by
    rw [← hr, hled]
    refine (setRoundCtx_roundCtx_congr RoundCtx.fwd ?_ x.src c).trans (by rw [hbctx])
    rfl
  have hrtransit : r.rounds.transit = s.rounds.transit.erase x := hr ▸ htransit
  rw [hr, setRoundCtx_roundCtx_same]
  refine ⟨hrtransit, ?_, by rw [hfwd], rfl⟩
  refine (setRoundCtx_roundCtx_congr RoundCtx.recv ?_ d c).trans hown
  rfl

theorem unmoved_itemEnds (s : State) (d c : Nat) (x : Transit) (n : Nat) : Unmoved s (s.itemEnds d c x n) := by
  have hcount : Unmoved s ((s.count (pgRound x.src) 0).count (pgRound x.src) 1 n) := .of_eq rfl rfl
  have hpost (t : State) : Unmoved t (t.postArrive d c) := .ite (unmoved_postMark _ _ _ _ _) (.refl t)
  exact ((hcount.trans (hpost _)).trans (unmoved_freeSlots _ d c)).trans (unmoved_freeSlots _ x.src c)

theorem item_arrives {s : State} {d : Die} {c : Qtr} {x : Transit}
    (hfind : s.rounds.transit.find? (fun t => t.dst == d.val && t.ctx == c.val) = some x)
    (hhere : s.itemHere x = true) (hlive : s.dieLive d = true) :
    Completes (.roundItemArrival d c) s fun t =>
      t.rounds.transit = s.rounds.transit.erase x ∧ (t.roundCtx d c).recv = (s.roundCtx d c).recv + 1 ∧
      (t.roundCtx x.src c).fwd = (s.roundCtx x.src c).fwd + 1 ∧ (t.roundCtx x.src c).busy = false ∧
      t.mem = s.mem ∧ t.keeper = s.keeper ∧ t.flows = s.flows ∧ t.pwr = s.pwr := by
  obtain ⟨n, hx⟩ : ∃ n, execRoundItemArrival d c s = s.ok ((s.itemMoves d c x).itemEnds d c x n) := by
    refine ⟨(s.stream x.src 72 (s.ctxStream x.src c)).walkLen * (s.stream x.src 72 (s.ctxStream x.src c)).size, ?_⟩
    unfold execRoundItemArrival
    rw [hfind]
    dsimp only
    rw [if_pos (by simp [hhere, hlive])]
    rfl
  obtain ⟨htransit, hrecv, hfwd, hbusy⟩ := itemMoves_moves s d c x
  obtain ⟨-, hctx, hkeep⟩ := unmoved_itemEnds (s.itemMoves d c x) d c x n
  have hmoves : SameBut [.weights, .rounds, .roundsRest, .ledgers] s (s.itemMoves d c x) := by
    have hset (t : State) (r : Rounds) : SameBut [.weights, .rounds, .roundsRest, .ledgers] t { t with rounds := r } := by
      simp [SameBut, among, State.mask, Rounds.mask, blank]
    have htag : SameBut [.weights, .rounds, .roundsRest, .ledgers] s (s.tagItem x) := by simp [SameBut, among]
    have hctx (t : State) (e : Nat) (y : RoundCtx) :
        SameBut [.weights, .rounds, .roundsRest, .ledgers] t (t.setRoundCtx e c y) := by simp [SameBut, among]
    have hled (t : State) : SameBut [.weights, .rounds, .roundsRest, .ledgers] t (t.ledReturn d lgRound c) := by
      simp [SameBut, among]
    exact (hctx _ _ _).trans ((hled _).trans ((hctx _ _ _).trans ((hset _ _).trans htag)))
  have hends (t : State) : SameBut [.regs, .cnt, .stalls, .streams, .stores, .rounds, .breaches, .weights, .ledgers] t
      (t.itemEnds d c x n) := by
    simp [SameBut, among, State.itemEnds]
  have hends' := hends (s.itemMoves d c x)
  generalize s.itemMoves d c x = a at hx htransit hrecv hfwd hbusy hctx hkeep hmoves hends'
  have hframe := hmoves.frame
  generalize a.itemEnds d c x n = w at hx hctx hkeep hends'
  have hlast := hends'.frame
  have hd := hctx d c
  have hsrc := hctx x.src c
  refine .of_changes hx fun _ => ?_
  change w.rounds.transit = _ ∧ (w.roundCtx d c).recv = _ ∧ (w.roundCtx x.src c).fwd = _ ∧
    (w.roundCtx x.src c).busy = _ ∧ w.mem = _ ∧ w.keeper = _ ∧ w.flows = _ ∧ w.pwr = _
  exact ⟨hkeep.trans htransit, (congrArg Prod.fst hd).trans hrecv, (congrArg (fun e => e.2.1) hsrc).trans hfwd,
    (congrArg (fun e => e.2.2) hsrc).trans hbusy, (congrArg State.mem hlast :).trans (congrArg State.mem hframe :),
    (congrArg State.keeper hlast :).trans (congrArg State.keeper hframe :),
    (congrArg State.flows hlast :).trans (congrArg State.flows hframe :),
    (congrArg State.pwr hlast :).trans (congrArg State.pwr hframe :)⟩

theorem credit_arrives {s : State} {d : Die} {c : Qtr} {r n : Nat} {m : SMap Nat}
    (hcoming : (s.roundCtx d c).coming = (r, n) :: m) (hround : (s.roundCtx d c).rnd ≤ r) :
    Completes (.roundCredit d c) s fun t =>
      SMap.get 0 (t.roundCtx d c).credits r = SMap.get 0 (s.roundCtx d c).credits r + 1 ∧
      SMap.get 0 (t.roundCtx d c).coming r = SMap.get 0 (s.roundCtx d c).coming r - 1 ∧
      t = { s with rounds := t.rounds, host := { s.host with changes := t.host.changes } } := by
  have hx : execRoundCredit d c s = s.ok (s.setRoundCtx d c { s.roundCtx d c with
      coming := SMap.upd 0 (s.roundCtx d c).coming r (· - 1), credits := SMap.upd 0 (s.roundCtx d c).credits r (· + 1) }) := by
    unfold execRoundCredit
    dsimp only
    rw [hcoming]
    dsimp only
    rw [if_neg (by omega)]
  obtain ⟨u, hu⟩ : ∃ u, s.setRoundCtx d c { s.roundCtx d c with
      coming := SMap.upd 0 (s.roundCtx d c).coming r (· - 1),
      credits := SMap.upd 0 (s.roundCtx d c).credits r (· + 1) } = u := ⟨_, rfl⟩
  have hctx : u.roundCtx d c = { s.roundCtx d c with
      coming := SMap.upd 0 (s.roundCtx d c).coming r (· - 1),
      credits := SMap.upd 0 (s.roundCtx d c).credits r (· + 1) } := hu ▸ setRoundCtx_roundCtx_same s
  have hframe : u = { s with rounds := u.rounds } := hu ▸ rfl
  rw [hu] at hx
  refine .of_changes hx fun n => ⟨?_, ?_, congrArg (fun t : State => { t with host := { t.host with changes := n } }) hframe⟩
  · change SMap.get 0 (u.roundCtx d c).credits r = _
    rw [hctx]
    dsimp only
    rw [SMap.upd, SMap.get_set_same]
  · change SMap.get 0 (u.roundCtx d c).coming r = _
    rw [hctx]
    dsimp only
    rw [SMap.upd, SMap.get_set_same]

end Sys2Proof.Machine
end

section

namespace Sys2Proof.Machine

/-- Settles O30: a transfer by what it holds and writes, an item by the contexts that it leaves and enters. -/
theorem transfersAndRounds : Obligations.TransfersAndRounds := by
  unfold Obligations.TransfersAndRounds
  exact ⟨fun s d u st hmay hrole hgate hlimit hturn => xfer_issues hmay hrole hgate hlimit hturn,
    fun s d u st hmay hready hgate hlimit => xfer_limited hmay hready hgate hlimit,
    fun s d u st n k x hfind hlive hrole hfar hsource hring => load_completes hfind hlive hrole hfar hsource hring,
    fun s d c hmay hleft hready => item_taken hmay hleft hready,
    fun s d c hmay hbusy hhere hdue hhop hcredit => item_forwarded hmay hbusy hhere hdue hhop hcredit,
    fun s d c x hfind hhere hlive => item_arrives hfind hhere hlive,
    fun s d c hwork hlive hst hleft hgrant => item_released hwork hlive hst hleft hgrant,
    fun s d c r n m hcoming hround => credit_arrives hcoming hround⟩

end Sys2Proof.Machine
end


section
/-! SUPPORT. O25: a BASKET_PUT whose tiles lie at a place that a quarter's map misplaces. -/

namespace Sys2Proof.Machine

/-! ### Reads that find no error -/

theorem noteRead_clean {s : State} (src : Nat) {w : Nat} (hp : s.wordPoison w = false) (hc : s.eccClass w = 0) :
    s.noteRead src w = s := by
  simp [State.noteRead, hp, hc]

theorem noteRead_foldl_clean {s : State} (src : Nat) {ws : List Nat}
    (hp : ∀ w ∈ ws, s.wordPoison w = false) (hc : ∀ w ∈ ws, s.eccClass w = 0) :
    ws.foldl (fun t w => t.noteRead src w) s = s := by
  induction ws with
  | nil => rfl
  | cons w r ih =>
    rw [List.foldl_cons, noteRead_clean src (hp w (by simp)) (hc w (by simp))]
    exact ih (fun v hv => hp v (by simp [hv])) fun v hv => hc v (by simp [hv])

/-- A fault counts its die's faults alone. -/
theorem noteCe_counter_other (s : State) {page q j : Nat} (h : 4 * q + j ≠ 4 * pgDieHealth (pageDie page) + 0) :
    (s.noteCe page).counter q j = s.counter q j := by
  have hset (c : CeWin) (above : Bool) :
      (if above then (s.setCeWin page c).raise page 0x0204 else s.setCeWin page c).counter q j = s.counter q j := by
    cases above with
    | true => exact raise_counter_other (s.setCeWin page c) 0x0204 h
    | false => rfl
  unfold State.noteCe
  exact hset _ _

/-- A corrected word counts in the page of its memory. -/
theorem noteRead_corrected {s : State} (src : Nat) {w : Nat} (hp : s.wordPoison w = false) (hc : s.eccClass w = 1)
    (hk : addrKind (8 * w) < 2) (hpage : keyPage (8 * w) ≠ pgDieHealth (pageDie (keyPage (8 * w)))) :
    (s.noteRead src w).counter (keyPage (8 * w)) 0 = s.counter (keyPage (8 * w)) 0 + 1 ∧
      (s.noteRead src w).mem = s.mem := by
  let s1 := s.incSat (keyPage (8 * w)) rCe1
  have hread : s.noteRead src w =
      (((s1.noteCorrected (8 * w)).noteErr (keyPage (8 * w)) src 1 w).noteCe (keyPage (8 * w))) := by
    simp [State.noteRead, hp, hc, s1]
  rw [hread]
  constructor
  · rw [noteCe_counter_other _ (by omega), counter_of_mask (mask_noteErr (by simp) _ _ _ _ _), State.noteCorrected,
      if_pos hk, count_counter_same]
    rfl
  · exact mem_of_mask (by simp [s1])

/-- A put of tiles outside a bracket counts the reads of its tiles, and its tiles. -/
theorem startPut_counter {s : State} (d l : Nat) {w : PutWord} {k : Nat} (hk : s.resolve w.addr.toNat = some k) :
    (s.startPut d l w none).counter (pgCollect d) 0 =
      (s.noteReads srcPort k (w.tiles.toNat * s.bkRecord w.basket.toNat)).counter (pgCollect d) 0 +
        BitVec.ofNat 64 w.tiles.toNat := by
  have hdeliver (ts : List StageTile) (t : State) :
      (ts.foldl (fun t e => t.deliver d w.basket.toNat e) t).counter (pgCollect d) 0 = t.counter (pgCollect d) 0 :=
    forEach_keeps (fun t => t.counter (pgCollect d) 0)
      (fun t e => counter_of_mask (mask_deliver (by simp) t d w.basket.toNat e) _ _) ts t
  have hpool (t : State) (q i : Nat) (p : Pool) (x : DieBasket) :
      (((t.setPool d q i p).setDieBasket d w.basket.toNat x).ledIssue d lgContrib w.basket.toNat w.tiles.toNat).counter
        (pgCollect d) 0 = t.counter (pgCollect d) 0 := counter_of_mask (by simp) _ _
  unfold State.startPut
  simp only [hk]
  rw [hdeliver, count_counter_same, hpool]

/-! ### The state -/

/-- The first byte of the words that the map of die 0 gives its logical stall 16: a quarter buffer of die 1 that is
none of its four. -/
def strayKey : Nat := slotAddr 0 (2 ^ 20 + 920) 0

/-- The BASKET_PUT of one tile of logical stall 16 of die 0. -/
def strayPut : PutWord := { kind := 0, addr := 2 ^ 41 + 2 ^ 25, tiles := 1, last := false, basket := 0 }

/-- Stall 0 of die 2 stands at that word, and one bit of the tile's first word is in error. -/
def strayPutState : State :=
  let s := ((State.reset.setDie 0 { DieSt.reset with st := .on }).setDie 2 { DieSt.reset with st := .on }).setQuarter 0 1
    { QuarterSt.reset with map := [some (2 ^ 20 + 870)] }
  let s1 := (s.setQuarter 2 0 { QuarterSt.reset with st := .on, clock := true }).setSlot 2 0
    { Stall.reset with cmdIndex := 64, fetched := true }
  let s2 := (s1.poke pgReduce 0x400 0x80000000).poke pgReduce 0x404 0x00010000
  { s2 with
    prog := { s2.prog with pst := .running, applied := true }
    stores := { s2.stores with pools := [(128, { Pool.reset with units := 2 })] }
    mem := { bytes := [(1024, 10), (1028, 1), (1033, 2), (1035, 2)], poison := [], upsets := [(strayKey / 8, 1)] } }

theorem strayPutState_head : strayPutState.headSlot 2 0 (.put strayPut) = some 0 := by decide

theorem strayPutState_reachHead : strayPutState.reachHead 2 0 0 = strayPutState := reachHead_of_fetched (by decide) 0

/-- The words of the tile: the first, and the others. -/
theorem strayTile_words : wordsOf strayKey 4096 = strayKey / 8 :: (List.range 511).map fun j => strayKey / 8 + (j + 1) := by
  have hn : (strayKey + 4096 - 1) / 8 + 1 - strayKey / 8 = 512 := by decide
  rw [wordsOf, if_neg (by decide), hn, List.range_succ_eq_map, List.map_cons, List.map_map]
  rfl

/-- Reading the tile counts its corrected word in the page of die 2's collect block. -/
theorem strayTile_reads {s : State} (hmem : s.mem = strayPutState.mem) :
    (s.noteReads srcPort strayKey 4096).counter (pgCollect 2) 0 = s.counter (pgCollect 2) 0 + 1 := by
  have hpoison (w : Nat) (t : State) (ht : t.mem = strayPutState.mem) : t.wordPoison w = false := by
    rw [State.wordPoison, ht]
    rfl
  have hfirst : s.eccClass (strayKey / 8) = 1 := by
    rw [State.eccClass, State.wordUpsets, hmem]
    decide
  obtain ⟨hcount, hkeep⟩ := noteRead_corrected srcPort (hpoison (strayKey / 8) s hmem) hfirst (by decide) (by decide)
  have hpage : keyPage (8 * (strayKey / 8)) = pgCollect 2 := by decide
  rw [hpage] at hcount
  obtain ⟨t, ht⟩ : ∃ t, s.noteRead srcPort (strayKey / 8) = t := ⟨_, rfl⟩
  rw [ht] at hcount hkeep
  have hrest : ((List.range 511).map fun j => strayKey / 8 + (j + 1)).foldl (fun t w => t.noteRead srcPort w) t = t := by
    refine noteRead_foldl_clean srcPort (fun w _ => hpoison w t (hkeep.trans hmem)) fun w hw => ?_
    obtain ⟨j, -, rfl⟩ := List.mem_map.mp hw
    have hclean : t.wordUpsets (strayKey / 8 + (j + 1)) = 0 := by
      rw [State.wordUpsets, hkeep, hmem]
      exact SMap.get_set_other 0 [] 1 (k := strayKey / 8) (by omega)
    simp [State.eccClass, hclean]
  have hkind : addrKind strayKey ≠ 0 := by decide
  rw [State.noteReads, strayTile_words, List.foldl_cons, ht, hrest, State.noteBytes, if_neg hkind, hcount]

/-- A BASKET_PUT outside a bracket that is neither refused nor has to wait starts. -/
theorem basketPut_starts {s : State} {d : Die} {l : Stl} {w : PutWord} {p : Nat}
    (hhead : s.headSlot d l (.put w) = some p) (hbracket : ((s.reachHead d l p).slot d p).bracket = none)
    (hnew : ((s.reachHead d l p).slot d p).refused = false)
    (hput : (s.reachHead d l p).putRefused d l w = false) (hwaits : (s.reachHead d l p).putWaits d w = false) :
    exec (.basketPut d l w) s = s.ok (((s.reachHead d l p).setSlot d p (((s.reachHead d l p).slot d p).advance .run)).startPut
      d l w none) := by
  have hx : execBasketPut d l w s = s.ok (((s.reachHead d l p).setSlot d p
      (((s.reachHead d l p).slot d p).advance .run)).startPut d l w none) := by
    simp [execBasketPut, hhead, hbracket, hnew, hput, hwaits]
  exact hx

/-- The state in which the stall has gone on. -/
def strayPutWaiting : State := strayPutState.setSlot 2 0 ((strayPutState.slot 2 0).advance .run)

theorem basketPut_strayPutState : exec (.basketPut 2 0 strayPut) strayPutState =
    strayPutState.ok (strayPutWaiting.startPut 2 0 strayPut none) := by
  have hx := basketPut_starts (d := 2) (l := 0) strayPutState_head (by decide) (by decide) (by decide) (by decide)
  refine hx.trans ?_
  have hreach : strayPutState.reachHead ((2 : Die) : Nat) ((0 : Stl) : Nat) 0 = strayPutState := strayPutState_reachHead
  rw [hreach]
  rfl

/-- The put counts its tile and the corrected word. -/
theorem strayPut_counts : (strayPutWaiting.startPut 2 0 strayPut none).counter (pgCollect 2) 0 =
    strayPutState.counter (pgCollect 2) 0 + 1 + 1 := by
  have hkey : strayPutWaiting.resolve strayPut.addr.toNat = some strayKey := by decide
  have hlen : strayPut.tiles.toNat * strayPutWaiting.bkRecord strayPut.basket.toNat = 4096 := by decide
  rw [startPut_counter 2 0 hkey, hlen, strayTile_reads (s := strayPutWaiting) (setSlot_mem _)]
  rfl

/-- Refutes O25: its clause on BASKET_PUT says that the first counter of the die's collect block rises by the tiles put
alone. The slot that a quarter's map names is not bounded, and the tile put here lies, by such a map, at an address
whose page of memory errors is that very block: the word of it that is corrected counts there as well. -/
theorem not_sequencedWordsAct : ¬ Obligations.SequencedWordsAct := by
  rintro ⟨-, -, -, -, -, -, -, -, hput, -⟩
  obtain ⟨t, ht, -, -, -, hcount⟩ := hput strayPutState 2 0 strayPut 0 strayPutState_head (by decide) (by decide) (by decide)
    (by decide)
  obtain rfl := Host.Outcome.next.inj (basketPut_strayPutState.symm.trans ht)
  rw [finish_counter] at hcount
  have hsum : strayPutState.counter (pgCollect 2) 0 + 1 + 1 =
      (strayPutState.reachHead 2 0 0).counter (pgCollect 2) 0 + BitVec.ofNat 64 strayPut.tiles.toNat :=
    strayPut_counts.symm.trans hcount
  rw [strayPutState_reachHead] at hsum
  exact absurd hsum (by decide)

end Sys2Proof.Machine
end


section
/-! SUPPORT. O41: a staged tile that names a pool which is none of its die's. -/

namespace Sys2Proof.Machine

/-- A tile staged for program bundle 0, in a unit of a pool whose number is that of no pool of the die. -/
def strayTile : StageTile :=
  { stall := 0, pos := 0, ws := [], prog := some 0, last := false, past := false, pool := 6144, units := [0] }

/-- The APPLY of program bundle 0 is due at die 0, whose basket 0 sends and has that tile staged. -/
def strayPoolState : State :=
  let s := ((State.reset.setDie 0 { DieSt.reset with st := .on }).setPbundle 0
    { PBundle.reset with dies := [0], applySent := true, window := true }).setDieBasket 0 0
    { DieBasket.reset with st := .sending, stage := [strayTile] }
  { s with stores := { s.stores with pools := [(6144, { first := 0, units := 1, held := [(0, 0)] })] } }

/-- A bundle of which no stall is part applies the tiles staged for it, and returns the die's bell token. -/
theorem pbApply_returned {s : State} {n : Nat} (d : Nat) (h : s.pbParts n = []) :
    ((s.pbApply d n).ledger 0 lgBell d).returned = ((s.commitPuts d n).ledger 0 lgBell d).returned + 1 := by
  have hleave (t : State) (k : Nat) :
      ((((t.pbLeave d n).count (pgDieBundle d) 0).count (pgDieBundle d) 2 k).pbNote d n).ledger 0 lgBell d =
        t.ledger 0 lgBell d :=
    congrArg (fun m : SMap Ledger => SMap.get Ledger.reset m (ledgerKey 0 lgBell d)) (ledgers_of_mask (by simp))
  have hset (t : State) (b : PBundle) : (t.setPbundle n b).ledger 0 lgBell d = t.ledger 0 lgBell d := rfl
  unfold State.pbApply
  simp only [h, List.filter_nil, List.foldl_nil]
  rw [hset, ledReturn_ledger_same, hleave]
  rfl

theorem strayPoolState_noParts : strayPoolState.pbParts 0 = [] := by decide

/-- The tile goes back, and with it the unit of its pool. -/
theorem strayPoolState_commitPuts : ((strayPoolState.commitPuts 0 0).ledger 0 lgBell 0).returned = 1 := by decide

theorem bundleApply_strayPoolState :
    exec (.bundleApply (.prog 0) 0) strayPoolState = strayPoolState.ok (strayPoolState.pbApply 0 0) := by
  have hx : execBundleApply (.prog 0) 0 strayPoolState = strayPoolState.ok (strayPoolState.pbApply 0 0) := by
    unfold execBundleApply
    exact if_pos (by decide)
  exact hx

/-- Refutes O41: its clause on the APPLY of a program bundle says that the die's bell ledger returns one token. A staged
tile's pool number is not bounded: the units of the tile that goes back here are entered in a pool ledger whose key is
that of the die's bell ledger, which so returns two. -/
theorem not_commitsArePhased : ¬ Obligations.CommitsArePhased := by
  rintro ⟨-, -, -, -, -, -, -, -, happly, -⟩
  obtain ⟨t, ht, -, hreturned, -⟩ := happly strayPoolState 0 0 (by decide) (by decide) (by decide) (by decide) (by decide)
  obtain rfl := Host.Outcome.next.inj (bundleApply_strayPoolState.symm.trans ht)
  rw [finish_ledger] at hreturned
  have hsum : ((strayPoolState.pbApply 0 0).ledger 0 lgBell 0).returned =
      (strayPoolState.ledger 0 lgBell 0).returned + 1 := hreturned
  rw [pbApply_returned 0 strayPoolState_noParts, strayPoolState_commitPuts] at hsum
  exact absurd hsum (by decide)

end Sys2Proof.Machine
end
